-- ==== Sys2Proof/Word.lean ====
section
/-! DEFINITION. The word types of the AF880 (R2, R66): bytes, 64-bit registers and 32-bit lanes. -/

namespace Sys2Proof

/-- A byte of memory. -/
abbrev Byte := BitVec 8

/-- A scalar register, an address or an instruction word. -/
abbrev Word := BitVec 64

/-- A lane of a vector register, or a bytecode word. -/
abbrev Lane := BitVec 32

end Sys2Proof
end

