-- ==== Sys2Proof/Syntax.lean ====
section
/-! DEFINITION. Instructions as data: one constructor for each row of the opcode table. The native functions of
R140 come first, then the Tephra bytecodes (R284 to R290), then the events of the machine (spec/95). -/

namespace Sys2Proof

/-- The common fields of a native word (R130, R131): the switch marker, the guard predicate and its negation. -/
structure Hdr where
  sw : Bool
  pg : BitVec 3
  pn : Bool
  deriving DecidableEq, Repr

/-- A 7-bit scalar operand field (R132): bank y when `shared`, bank x otherwise. -/
structure Opnd where
  shared : Bool
  n : BitVec 6
  deriving DecidableEq, Repr

/-- Register x0, which is also what an operand field that a function does not take must hold (R141). -/
def Opnd.zero : Opnd := ⟨false, 0⟩

/-- D of a predicate-logic function (R136, R156): PD below COND, which has no meaning there (R145). -/
structure PDst where
  cond : BitVec 4
  p : BitVec 3
  deriving DecidableEq, Repr

/-- The modifiers of group 0x0 (R148). `low` holds bits 15:0: DT, ST, POS, LEN and PS. -/
structure M0 where
  rnd : BitVec 3
  u : Bool
  sat : Bool
  low : BitVec 16
  deriving DecidableEq, Repr

/-- The fields of format M below A (R133, R135). -/
structure M4 where
  sz : BitVec 3
  ord : BitVec 2
  sco : BitVec 3
  hint : BitVec 2
  x : Bool
  off : BitVec 24
  deriving DecidableEq, Repr

/-- The modifiers of group 0x5 (R217). `op` is OP or COND. -/
structure M5 where
  op : BitVec 4
  c : Bool
  sco : BitVec 3
  pr : BitVec 3
  deriving DecidableEq, Repr

/-- The modifiers of group 0x6 (R177). `cond` is COND or OP. -/
structure M6 where
  et : BitVec 3
  rnd : BitVec 3
  sat : Bool
  cond : BitVec 4
  tgt : BitVec 4
  sh : BitVec 2
  bs : Bool
  deriving DecidableEq, Repr

/-- The modifiers of the memory functions of group 0x7 (R188). -/
structure M7 where
  et : BitVec 3
  ord : BitVec 2
  sco : BitVec 3
  mf : BitVec 4
  deriving DecidableEq, Repr

/-- The modifiers of groups 0x8 and 0x9 (R194). -/
structure M8 where
  rnd : BitVec 3
  sc : Bool
  blk : BitVec 2
  deriving DecidableEq, Repr

/-- The modifiers of group 0xB (R228). -/
structure MB where
  sco : BitVec 3
  sf : BitVec 4
  df : BitVec 4
  mc : Bool
  deriving DecidableEq, Repr

/-- The modifiers of group 0xC (R251). -/
structure MC where
  edge : BitVec 3
  sz : BitVec 3
  deriving DecidableEq, Repr

/-- The modifiers of group 0xD (R339). -/
structure MD where
  pm : BitVec 2
  co : BitVec 2
  ti : BitVec 2
  crn : BitVec 12
  deriving DecidableEq, Repr

/-- The modifiers of `mfcr` and `mtcr` beside the number CRN that they take (R339). -/
structure MR where
  pm : BitVec 2
  co : BitVec 2
  ti : BitVec 2
  deriving DecidableEq, Repr

/-- All modifiers of group 0xD, with CRN. -/
def MR.all (m : MR) (crn : BitVec 12) : MD := ⟨m.pm, m.co, m.ti, crn⟩

/-- The modifiers beside CRN. -/
def MD.rest (m : MD) : MR := ⟨m.pm, m.co, m.ti⟩

/-- What the root's service threads answer to a gated call (R412): the status, RESULT and LENGTH of the reply
record, +16 included, and the bytes that a read delivers. -/
structure Reply where
  status : BitVec 64
  result : Word
  len : Word
  data : List Byte
  deriving DecidableEq, Repr

/-- What a module reset reads (R421, R422): the bytes of the firmware image and of the configuration record, the items of the
record, and where the firmware goes on as the root's supervisor. -/
structure BootRecord where
  /-- Every link and memory trains (R421 step 4). -/
  trained : Bool
  image : List Byte
  record : List Byte
  peer : Nat
  domain : Nat
  sinter : List Nat
  retired : List Nat
  now : Word
  ceqbase : Word
  tvec : Word
  ptroot : Word
  cxl : List (Nat × Word)
  vf : List (Nat × Word)
  /-- The blocks that the firmware supplies for the bound contexts (R352): ASID and first 64 KiB frame. -/
  blocks : List (Nat × Nat)
  /-- Initial grants: virtual function and the 64 bytes of a grant descriptor (R353). -/
  grants : List (Nat × List Byte)
  power : Nat
  entry : Word
  deriving DecidableEq, Repr

/-- The host requests that the port does not implement (R414). -/
inductive HostRequest where
  | ats
  | pri
  | pasid
  | peerToPeer
  deriving DecidableEq, Repr

/-- One constructor for each row of the opcode table. -/
inductive Instr where
  | add (h : Hdr) (d : Opnd) (a : Opnd) (b : Opnd) (m : M0)
  | sub (h : Hdr) (d : Opnd) (a : Opnd) (b : Opnd) (m : M0)
  | mul (h : Hdr) (d : Opnd) (a : Opnd) (b : Opnd) (m : M0)
  | mulh (h : Hdr) (d : Opnd) (a : Opnd) (b : Opnd) (m : M0)
  | div (h : Hdr) (d : Opnd) (a : Opnd) (b : Opnd) (m : M0)
  | rem (h : Hdr) (d : Opnd) (a : Opnd) (b : Opnd) (m : M0)
  | and (h : Hdr) (d : Opnd) (a : Opnd) (b : Opnd) (m : M0)
  | or (h : Hdr) (d : Opnd) (a : Opnd) (b : Opnd) (m : M0)
  | xor (h : Hdr) (d : Opnd) (a : Opnd) (b : Opnd) (m : M0)
  | andn (h : Hdr) (d : Opnd) (a : Opnd) (b : Opnd) (m : M0)
  | shl (h : Hdr) (d : Opnd) (a : Opnd) (b : Opnd) (m : M0)
  | shr (h : Hdr) (d : Opnd) (a : Opnd) (b : Opnd) (m : M0)
  | sra (h : Hdr) (d : Opnd) (a : Opnd) (b : Opnd) (m : M0)
  | rot (h : Hdr) (d : Opnd) (a : Opnd) (b : Opnd) (m : M0)
  | min (h : Hdr) (d : Opnd) (a : Opnd) (b : Opnd) (m : M0)
  | max (h : Hdr) (d : Opnd) (a : Opnd) (b : Opnd) (m : M0)
  | clz (h : Hdr) (d : Opnd) (a : Opnd) (m : M0)
  | ctz (h : Hdr) (d : Opnd) (a : Opnd) (m : M0)
  | popc (h : Hdr) (d : Opnd) (a : Opnd) (m : M0)
  | bswap (h : Hdr) (d : Opnd) (a : Opnd) (m : M0)
  | sel (h : Hdr) (d : Opnd) (a : Opnd) (b : Opnd) (m : M0)
  | mov (h : Hdr) (d : Opnd) (a : Opnd) (m : M0)
  | abs (h : Hdr) (d : Opnd) (a : Opnd) (m : M0)
  | ext (h : Hdr) (d : Opnd) (a : Opnd) (m : M0)
  | ins (h : Hdr) (d : Opnd) (a : Opnd) (m : M0)
  | fadd (h : Hdr) (d : Opnd) (a : Opnd) (b : Opnd) (m : M0)
  | fsub (h : Hdr) (d : Opnd) (a : Opnd) (b : Opnd) (m : M0)
  | fmul (h : Hdr) (d : Opnd) (a : Opnd) (b : Opnd) (m : M0)
  | ffma (h : Hdr) (d : Opnd) (a : Opnd) (b : Opnd) (m : M0)
  | fdiv (h : Hdr) (d : Opnd) (a : Opnd) (b : Opnd) (m : M0)
  | fmin (h : Hdr) (d : Opnd) (a : Opnd) (b : Opnd) (m : M0)
  | fmax (h : Hdr) (d : Opnd) (a : Opnd) (b : Opnd) (m : M0)
  | fcvt (h : Hdr) (d : Opnd) (a : Opnd) (m : M0)
  | fsqrt (h : Hdr) (d : Opnd) (a : Opnd) (m : M0)
  | addi (h : Hdr) (d : Opnd) (a : Opnd) (imm : BitVec 35)
  | andi (h : Hdr) (d : Opnd) (a : Opnd) (imm : BitVec 35)
  | ori (h : Hdr) (d : Opnd) (a : Opnd) (imm : BitVec 35)
  | xori (h : Hdr) (d : Opnd) (a : Opnd) (imm : BitVec 35)
  | shli (h : Hdr) (d : Opnd) (a : Opnd) (imm : BitVec 35)
  | shri (h : Hdr) (d : Opnd) (a : Opnd) (imm : BitVec 35)
  | srai (h : Hdr) (d : Opnd) (a : Opnd) (imm : BitVec 35)
  | movi (h : Hdr) (d : Opnd) (imm : BitVec 35)
  | movh (h : Hdr) (d : Opnd) (imm : BitVec 35)
  | muli (h : Hdr) (d : Opnd) (a : Opnd) (imm : BitVec 35)
  | cmp (h : Hdr) (cond : BitVec 4) (pd : BitVec 3) (a : Opnd) (b : Opnd)
  | cmpi (h : Hdr) (cond : BitVec 4) (pd : BitVec 3) (a : Opnd) (imm : BitVec 35)
  | pand (h : Hdr) (pd : PDst) (pa : BitVec 3) (pb : BitVec 3)
  | por (h : Hdr) (pd : PDst) (pa : BitVec 3) (pb : BitVec 3)
  | pxor (h : Hdr) (pd : PDst) (pa : BitVec 3) (pb : BitVec 3)
  | pnot (h : Hdr) (pd : PDst) (pa : BitVec 3)
  | pmov (h : Hdr) (pd : PDst) (pa : BitVec 3)
  | fcmp (h : Hdr) (cond : BitVec 4) (pd : BitVec 3) (a : Opnd) (b : Opnd)
  | br (h : Hdr) (a : Opnd) (kind : BitVec 2) (off : BitVec 40)
  | jmp (h : Hdr) (a : Opnd) (kind : BitVec 2) (off : BitVec 40)
  | call (h : Hdr) (kind : BitVec 2) (off : BitVec 40)
  | callr (h : Hdr) (a : Opnd) (kind : BitVec 2) (off : BitVec 40)
  | ret (h : Hdr) (kind : BitVec 2)
  | loop (h : Hdr) (a : Opnd) (kind : BitVec 2) (off : BitVec 40)
  | trap (h : Hdr) (kind : BitVec 2) (code : BitVec 16)
  | gatedServiceCall (h : Hdr) (kind : BitVec 2) (code : BitVec 16)
  | brk (h : Hdr) (kind : BitVec 2) (code : BitVec 16)
  | nop (h : Hdr) (kind : BitVec 2)
  | exit (h : Hdr) (kind : BitVec 2)
  | uret (h : Hdr) (kind : BitVec 2)
  | ld (h : Hdr) (d : Opnd) (a : Opnd) (m : M4)
  | st (h : Hdr) (d : Opnd) (a : Opnd) (m : M4)
  | pf (h : Hdr) (a : Opnd) (m : M4)
  | fence (h : Hdr) (kinds : BitVec 4) (m : M4)
  | ifence (h : Hdr) (m : M4)
  | icsync (h : Hdr) (m : M4)
  | atom (h : Hdr) (d : Opnd) (a : Opnd) (b : Opnd) (m : M5)
  | ldfe (h : Hdr) (d : Opnd) (a : Opnd) (m : M5)
  | stfe (h : Hdr) (a : Opnd) (b : Opnd) (m : M5)
  | fset (h : Hdr) (d : Opnd) (a : Opnd) (m : M5)
  | fget (h : Hdr) (d : Opnd) (a : Opnd) (m : M5)
  | waita (h : Hdr) (d : Opnd) (a : Opnd) (b : Opnd) (m : M5)
  | mon (h : Hdr) (d : Opnd) (a : Opnd) (m : M5)
  | monrel (h : Hdr) (a : Opnd) (b : Opnd) (m : M5)
  | time (h : Hdr) (d : Opnd) (m : M5)
  | sleep (h : Hdr) (d : Opnd) (a : Opnd) (m : M5)
  | yield (h : Hdr) (m : M5)
  | vadd (h : Hdr) (vd : BitVec 4) (va : BitVec 4) (vb : BitVec 4) (s : Opnd) (m : M6)
  | vsub (h : Hdr) (vd : BitVec 4) (va : BitVec 4) (vb : BitVec 4) (s : Opnd) (m : M6)
  | vmul (h : Hdr) (vd : BitVec 4) (va : BitVec 4) (vb : BitVec 4) (s : Opnd) (m : M6)
  | vfma (h : Hdr) (vd : BitVec 4) (va : BitVec 4) (vb : BitVec 4) (vc : BitVec 4) (s : Opnd) (m : M6)
  | vmin (h : Hdr) (vd : BitVec 4) (va : BitVec 4) (vb : BitVec 4) (s : Opnd) (m : M6)
  | vmax (h : Hdr) (vd : BitVec 4) (va : BitVec 4) (vb : BitVec 4) (s : Opnd) (m : M6)
  | vabs (h : Hdr) (vd : BitVec 4) (va : BitVec 4) (m : M6)
  | vneg (h : Hdr) (vd : BitVec 4) (va : BitVec 4) (m : M6)
  | vexp2 (h : Hdr) (vd : BitVec 4) (va : BitVec 4) (m : M6)
  | vlog2 (h : Hdr) (vd : BitVec 4) (va : BitVec 4) (m : M6)
  | vrcp (h : Hdr) (vd : BitVec 4) (va : BitVec 4) (m : M6)
  | vrsq (h : Hdr) (vd : BitVec 4) (va : BitVec 4) (m : M6)
  | vand (h : Hdr) (vd : BitVec 4) (va : BitVec 4) (vb : BitVec 4) (s : Opnd) (m : M6)
  | vor (h : Hdr) (vd : BitVec 4) (va : BitVec 4) (vb : BitVec 4) (s : Opnd) (m : M6)
  | vxor (h : Hdr) (vd : BitVec 4) (va : BitVec 4) (vb : BitVec 4) (s : Opnd) (m : M6)
  | vsh (h : Hdr) (vd : BitVec 4) (va : BitVec 4) (vb : BitVec 4) (s : Opnd) (m : M6)
  | vcmp (h : Hdr) (vd : BitVec 4) (va : BitVec 4) (vb : BitVec 4) (s : Opnd) (m : M6)
  | vsel (h : Hdr) (vd : BitVec 4) (va : BitVec 4) (vb : BitVec 4) (vc : BitVec 4) (s : Opnd) (m : M6)
  | vred (h : Hdr) (va : BitVec 4) (s : Opnd) (m : M6)
  | vbcast (h : Hdr) (vd : BitVec 4) (s : Opnd) (m : M6)
  | vperm (h : Hdr) (vd : BitVec 4) (va : BitVec 4) (vb : BitVec 4) (s : Opnd) (m : M6)
  | vcvt (h : Hdr) (vd : BitVec 4) (va : BitVec 4) (s : Opnd) (m : M6)
  | vscale (h : Hdr) (vd : BitVec 4) (va : BitVec 4) (vb : BitVec 4) (s : Opnd) (m : M6)
  | vmov (h : Hdr) (vd : BitVec 4) (va : BitVec 4) (m : M6)
  | setshape (h : Hdr) (d : Opnd) (a : Opnd) (b : Opnd)
  | vld (h : Hdr) (vd : BitVec 4) (s : Opnd) (m : M7)
  | vst (h : Hdr) (vd : BitVec 4) (s : Opnd) (m : M7)
  | vgather (h : Hdr) (vd : BitVec 4) (va : BitVec 4) (s : Opnd) (m : M7)
  | vscatter (h : Hdr) (vd : BitVec 4) (va : BitVec 4) (s : Opnd) (m : M7)
  | vact (h : Hdr) (d : Opnd) (a : Opnd) (b : Opnd)
  | oclaim (h : Hdr) (s1 : Opnd) (s2 : Opnd) (m : M8)
  | orel (h : Hdr) (s1 : Opnd) (s2 : Opnd) (m : M8)
  | tld (h : Hdr) (oa : BitVec 3) (s1 : Opnd) (s2 : Opnd) (fmt : BitVec 4) (m : M8)
  | tfill (h : Hdr) (oa : BitVec 3) (s1 : Opnd) (s2 : Opnd) (z : BitVec 6) (fmt : BitVec 4) (m : M8)
  | mzero (h : Hdr) (ta : BitVec 3) (m : M8)
  | manch (h : Hdr) (ta : BitVec 3) (s1 : Opnd) (m : M8)
  | mma (h : Hdr) (ta : BitVec 3) (oa : BitVec 3) (ob : BitVec 3) (m : M8)
  | mdrain (h : Hdr) (ta : BitVec 3) (s1 : Opnd) (s2 : Opnd) (m : M8)
  | rowout (h : Hdr) (oa : BitVec 3) (s1 : Opnd) (s2 : Opnd) (fmt : BitVec 4) (m : M8)
  | rowend (h : Hdr) (m : M8)
  | mstat (h : Hdr) (ta : BitVec 3) (s1 : Opnd) (s2 : Opnd) (m : M8)
  | sld (h : Hdr) (s1 : Opnd) (z : BitVec 6) (m : M8)
  | sst (h : Hdr) (s1 : Opnd) (z : BitVec 6) (m : M8)
  | sadd (h : Hdr) (s1 : Opnd) (z : BitVec 6) (m : M8)
  | smax (h : Hdr) (s1 : Opnd) (z : BitVec 6) (m : M8)
  | smin (h : Hdr) (s1 : Opnd) (z : BitVec 6) (m : M8)
  | sreblk (h : Hdr) (s1 : Opnd) (z : BitVec 6) (m : M8)
  | smov (h : Hdr) (oa : BitVec 3) (z : BitVec 6) (m : M8)
  | sbind (h : Hdr) (oa : BitVec 3) (s1 : Opnd) (z : BitVec 6) (m : M8)
  | squery (h : Hdr) (oa : BitVec 3) (s2 : Opnd) (m : M8)
  | sfree (h : Hdr) (z : BitVec 6) (m : M8)
  | sset (h : Hdr) (s1 : Opnd) (z : BitVec 6) (m : M8)
  | fork (h : Hdr) (a : Opnd) (b : Opnd) (res : Bool)
  | tend (h : Hdr) (res : Bool)
  | joinw (h : Hdr) (a : Opnd) (res : Bool)
  | barr (h : Hdr) (d : Opnd) (a : Opnd) (res : Bool)
  | bwait (h : Hdr) (a : Opnd) (res : Bool)
  | bmiss (h : Hdr) (d : Opnd) (a : Opnd) (b : Opnd) (res : Bool)
  | bcfg (h : Hdr) (a : Opnd) (b : Opnd) (res : Bool)
  | migrate (h : Hdr) (a : Opnd) (res : Bool)
  | nomad (h : Hdr) (res : Bool)
  | homeq (h : Hdr) (d : Opnd) (a : Opnd) (res : Bool)
  | xfer (h : Hdr) (a : Opnd) (b : Opnd) (m : MB)
  | shadow (h : Hdr) (d : Opnd) (a : Opnd) (b : Opnd) (m : MB)
  | publish (h : Hdr) (d : Opnd) (a : Opnd) (m : MB)
  | npost (h : Hdr) (a : Opnd) (m : MB)
  | nrecv (h : Hdr) (a : Opnd) (m : MB)
  | launch (h : Hdr) (d : Opnd) (a : Opnd) (b : Opnd) (m : MB)
  | lwait (h : Hdr) (d : Opnd) (a : Opnd) (m : MB)
  | lstat (h : Hdr) (d : Opnd) (a : Opnd) (m : MB)
  | cmsg (h : Hdr) (d : Opnd) (a : Opnd) (b : Opnd) (m : MB)
  | mrecv (h : Hdr) (d : Opnd) (a : Opnd) (m : MB)
  | stepcfg (h : Hdr) (d : Opnd) (a : Opnd) (m : MC)
  | stepend (h : Hdr) (d : Opnd) (m : MC)
  | ldstep (h : Hdr) (d : Opnd) (a : Opnd) (b : Opnd) (m : MC)
  | stepaddr (h : Hdr) (d : Opnd) (b : Opnd) (m : MC)
  | stepq (h : Hdr) (d : Opnd) (a : Opnd) (m : MC)
  | cut (h : Hdr) (d : Opnd) (a : Opnd) (b : Opnd) (m : MC)
  | mfcr (h : Hdr) (d : Opnd) (crn : BitVec 12) (m : MR)
  | mtcr (h : Hdr) (d : Opnd) (a : Opnd) (crn : BitVec 12) (m : MR)
  | eret (h : Hdr) (m : MD)
  | tsave (h : Hdr) (d : Opnd) (a : Opnd) (b : Opnd) (m : MD)
  | tload (h : Hdr) (d : Opnd) (a : Opnd) (b : Opnd) (m : MD)
  | tswap (h : Hdr) (d : Opnd) (a : Opnd) (b : Opnd) (m : MD)
  | repart (h : Hdr) (d : Opnd) (a : Opnd) (m : MD)
  | tlbinv (h : Hdr) (d : Opnd) (a : Opnd) (b : Opnd) (m : MD)
  | cacheop (h : Hdr) (d : Opnd) (a : Opnd) (b : Opnd) (m : MD)
  | sigpost (h : Hdr) (d : Opnd) (a : Opnd) (b : Opnd) (m : MD)
  | ctxnew (h : Hdr) (d : Opnd) (a : Opnd)
  | ctxgrant (h : Hdr) (d : Opnd) (a : Opnd) (b : Opnd)
  | ctxrevoke (h : Hdr) (d : Opnd) (a : Opnd) (b : Opnd)
  | ctxrun (h : Hdr) (d : Opnd) (a : Opnd)
  | ctxstop (h : Hdr) (d : Opnd) (a : Opnd)
  | ctxevt (h : Hdr) (d : Opnd) (a : Opnd) (b : Opnd)
  | ctxreset (h : Hdr) (d : Opnd) (a : Opnd) (b : Opnd)
  | ctxfree (h : Hdr) (d : Opnd) (a : Opnd)
  | ctxstat (h : Hdr) (d : Opnd) (a : Opnd) (b : Opnd)
  | tNop
  | tMove (a : BitVec 8) (b : BitVec 8)
  | tLoadk (a : BitVec 8) (k : BitVec 16)
  | tLoadi (a : BitVec 8) (i : BitVec 16)
  | tLoadc (a : BitVec 8) (b : BitVec 8)
  | tGetg (a : BitVec 8) (b : BitVec 8) (ic : BitVec 16) (nm : BitVec 8)
  | tSetg (a : BitVec 8) (b : BitVec 8) (ic : BitVec 16) (nm : BitVec 8)
  | tGetattr (a : BitVec 8) (b : BitVec 8) (c : BitVec 8) (ic : BitVec 16) (nm : BitVec 8)
  | tSetattr (a : BitVec 8) (b : BitVec 8) (c : BitVec 8) (ic : BitVec 16) (nm : BitVec 8)
  | tGetitem (a : BitVec 8) (b : BitVec 8) (c : BitVec 8)
  | tSetitem (a : BitVec 8) (b : BitVec 8) (c : BitVec 8)
  | tBinop (a : BitVec 8) (b : BitVec 8) (c : BitVec 8) (ic : BitVec 16) (op : BitVec 8)
  | tUnop (a : BitVec 8) (b : BitVec 8) (ic : BitVec 16) (op : BitVec 8)
  | tCompare (a : BitVec 8) (b : BitVec 8) (c : BitVec 8) (ic : BitVec 16) (op : BitVec 8)
  | tJmp (off : BitVec 24)
  | tJt (a : BitVec 8) (off : BitVec 16)
  | tJf (a : BitVec 8) (off : BitVec 16)
  | tCall (a : BitVec 8) (b : BitVec 8) (ic : BitVec 16)
  | tCallm (a : BitVec 8) (b : BitVec 8) (c : BitVec 8) (ic : BitVec 16)
  | tRet (a : BitVec 8)
  | tMkarr (a : BitVec 8) (b : BitVec 8) (c : BitVec 8)
  | tMkmap (a : BitVec 8) (b : BitVec 8)
  | tMkfunc (a : BitVec 8) (b : BitVec 8) (c : BitVec 8)
  | tGetcell (a : BitVec 8) (b : BitVec 8)
  | tSetcell (a : BitVec 8) (b : BitVec 8)
  | tForprep (a : BitVec 8) (off : BitVec 16)
  | tForloop (a : BitVec 8) (off : BitVec 16)
  | tIter (a : BitVec 8) (b : BitVec 8)
  | tNext (a : BitVec 8) (off : BitVec 16)
  | tRaise (a : BitVec 8)
  | tTryb (a : BitVec 8) (off : BitVec 16)
  | tTryend (a : BitVec 8)
  | tImport (a : BitVec 8) (b : BitVec 8)
  | tNative (a : BitVec 8) (b : BitVec 8) (c : BitVec 8)
  | tAwait (a : BitVec 8)
  | tDel (a : BitVec 8)
  | tLen (a : BitVec 8) (b : BitVec 8)
  | tIsinst (a : BitVec 8) (b : BitVec 8) (c : BitVec 8)
  | tHalt (a : BitVec 8)
  | tensorPendingWake (t : Nat)
  | fastPathCompletion (k : Nat)
  | longResultReturn (t : Nat) (o : Nat)
  | homeAccessPerformed (k : Nat)
  | reservationExpiry (t : Nat)
  | restoredThreadPlacement (t : Nat)
  | sleepWake (t : Nat)
  | cxlAccessComplete (k : Nat)
  | longLat (k : Nat)
  | trapEntry (t : Nat)
  | migrationArrival (t : Nat)
  | inboxToMailbox (c : Nat) (n : Nat)
  | engineCommandAccept (k : Nat)
  | engineOperationComplete (k : Nat)
  | publishFlip (k : Nat)
  | mmaAccumulation (core : Nat)
  | mdrainReadout (core : Nat) (tile : Nat)
  | launchAdmit (l : Nat)
  | leafStart (c : Nat) (l : Nat) (n : Nat)
  | launchRepartition (core : Nat) (l : Nat)
  | geyserPacketSend (k : Nat)
  | geyserPacketArrival (k : Nat)
  | geyserAckArrival (k : Nat)
  | geyserRetransmitTimeout (k : Nat)
  | geyserRefusal (k : Nat)
  | geyserConnectionFailure (n : Nat)
  | stepAdvance (core : Nat)
  | beaconArrival (k : Nat)
  | stepcfgPairing (core : Nat)
  | leavingBeaconArrival (k : Nat)
  | cutMarkerArrival (k : Nat)
  | cutHold (core : Nat)
  | releaseMarkerArrival (k : Nat)
  | stepStall (t : Nat)
  | heldEventPost (c : Nat)
  | counterEventDelivery (k : Nat)
  | serviceReply (k : Nat) (r : Reply)
  | bfmtWrite (b : BitVec 4) (v : Word)
  | stepCounterWrite (n : BitVec 12) (v : Word)
  | depcfgWrite (v : Word)
  | delegWrite (v : Word)
  | pcntWrite (n : BitVec 4) (v : Word)
  | salcfgWrite (v : Word)
  | vfctlWrite (v : Word)
  | cxlwinWrite (v : Word)
  | registerWrite (n : BitVec 12) (v : Word)
  | csrWindowStore (off : Nat) (v : Word)
  | hostQueueWrite (vf : Nat) (q : Nat) (rec : Word) (arg : Word)
  | functionLevelReset (vf : Nat)
  | attestationRequest (vf : Option Nat) (nonce : List Byte)
  | linkLaneFailure (link : Nat)
  | powerLimit
  | coolingFailure
  | nowForwardStep (ns : Nat)
  | bringUp (r : BootRecord)
  | uncorrectableMemoryData (pa : Nat)
  | unsupportedRequest (kind : HostRequest)
  deriving DecidableEq, Repr

end Sys2Proof
end

