-- ==== Sys2Proof/WellFormed.lean ====
section
/-! DEFINITION. Which instructions are well formed: no field holds a value that R134 to R141 reserve. A word whose
decoding is not well formed raises ILLEGAL_OP (R141); a bytecode, TYPE (R283). -/

namespace Sys2Proof

/-- A type code of R137 that names a type. -/
def typeOk (c : BitVec 4) : Bool := c.toNat ≤ 8

/-- A format code of R71 that is not reserved. -/
def fmtOk (c : BitVec 4) : Bool := c.toNat ≤ 10

/-- The plain slot formats of R200 and R203. -/
def slotFmt (c : BitVec 4) : Bool := decide (c.toNat ∈ [2, 3, 4, 5, 6, 7, 10])

/-- The elements of a slot row in a slot format or a Cinder code (R198). -/
def rowLen (c : Nat) : Nat := if c = 2 ∨ c = 3 then 256 else if c = 6 then 1024 else 512

/-- The elements per scale that BLK names (R136). -/
def blkSize (c : BitVec 2) : Nat :=
  match c.toNat with
  | 0 => 32
  | 1 => 16
  | 2 => 64
  | _ => 128

/-- RND, DT and ST of a group 0x0 word hold no reserved value (R73, R137). In a function that takes neither DT and ST nor POS,
bits 15:8 are read as the type codes, so that one of 9 to 15 is reserved and no fallback (log 16). -/
def M0.wf (m : M0) : Bool :=
  m.rnd.toNat ≤ 4 && typeOk (m.low.extractLsb' 12 4) && typeOk (m.low.extractLsb' 8 4)

/-- Bits 7:6 of a group 0x0 word lie in no field (R136, R148). LEN and PS, and POS where it shows through DT and ST, are
fields: one that a function does not use falls back (R145). -/
def M0.low76 (m : M0) : Bool := m.low.extractLsb' 6 2 == 0

/-- COND of a predicate-logic function, which falls back (R145), holds no reserved value (R138). -/
def PDst.wf (d : PDst) : Bool := d.cond.toNat ≤ 9

/-- SZ, SCO and HINT of format M hold no reserved value (R135). -/
def M4.wf (m : M4) : Bool := m.sz.toNat ≤ 4 && m.sco.toNat ≤ 6 && m.hint != 3

/-- OP or COND and SCO of group 0x5 hold no reserved value (R139, R116). -/
def M5.wf (m : M5) : Bool := m.op.toNat ≤ 9 && m.sco.toNat ≤ 6

/-- ET, RND, COND and TO of group 0x6 hold no reserved value (R72, R73, R138, R136). -/
def M6.wf (m : M6) : Bool :=
  m.et.toNat ≤ 6 && m.rnd.toNat ≤ 4 && m.cond.toNat ≤ 9 && (m.tgt == 0 || (2 ≤ m.tgt.toNat && m.tgt.toNat ≤ 12))

/-- With .bs the operand S replaces VB, which must be zero; without it S is not taken (R178, R141). -/
def M6.operandB (m : M6) (vb : BitVec 4) (s : Opnd) : Bool := if m.bs then vb == 0 else s == Opnd.zero

/-- COND of `vcmp` from the table that ET selects (R184). -/
def M6.condOk (m : M6) : Bool := if m.et.toNat ≤ 2 then m.cond.toNat ≤ 7 else m.cond.toNat ≤ 9

/-- ET, SCO and MF of group 0x7 hold no reserved value. -/
def M7.wf (m : M7) : Bool := m.et.toNat ≤ 6 && m.sco.toNat ≤ 6 && fmtOk m.mf

/-- RND of groups 0x8 and 0x9 holds no reserved value. -/
def M8.wf (m : M8) : Bool := m.rnd.toNat ≤ 4

/-- FMT of `tld` (R198): a slot format or a Cinder code, and with .sc at most 32 scales per row. -/
def tldOk (fmt : BitVec 4) (m : M8) : Bool :=
  2 ≤ fmt.toNat && fmtOk fmt && (!m.sc || rowLen fmt.toNat / blkSize m.blk ≤ 32)

/-- FMT of `rowout` is no Cinder code, and its memory form has OA and S2 zero (R206). -/
def rowoutOk (oa : BitVec 3) (s1 s2 : Opnd) (fmt : BitVec 4) : Bool :=
  fmtOk fmt && fmt != 8 && fmt != 9 && (s1 == Opnd.zero || (oa == 0 && s2 == Opnd.zero))

/-- SCO, SF and DF of group 0xB hold no reserved value. -/
def MB.wf (m : MB) : Bool := m.sco.toNat ≤ 6 && fmtOk m.sf && fmtOk m.df

/-- SZ of group 0xC holds no reserved value. -/
def MC.wf (m : MC) : Bool := m.sz.toNat ≤ 4

/-- PM and CO of group 0xD hold no reserved value. -/
def MD.wf (m : MD) : Bool := m.pm != 3 && m.co != 3

/-- The instruction has a word that the hardware accepts (R141, R282, R283); an event has no encoding and is
well formed as it stands. -/
def Instr.wf : Instr → Bool
  | .add _ _ _ _ m => m.wf && m.low76
  | .sub _ _ _ _ m => m.wf && m.low76
  | .mul _ _ _ _ m => m.wf && m.low76
  | .mulh _ _ _ _ m => m.wf && m.low76
  | .div _ _ _ _ m => m.wf && m.low76
  | .rem _ _ _ _ m => m.wf && m.low76
  | .and _ _ _ _ m => m.wf && m.low76
  | .or _ _ _ _ m => m.wf && m.low76
  | .xor _ _ _ _ m => m.wf && m.low76
  | .andn _ _ _ _ m => m.wf && m.low76
  | .shl _ _ _ _ m => m.wf && m.low76
  | .shr _ _ _ _ m => m.wf && m.low76
  | .sra _ _ _ _ m => m.wf && m.low76
  | .rot _ _ _ _ m => m.wf && m.low76
  | .min _ _ _ _ m => m.wf && m.low76
  | .max _ _ _ _ m => m.wf && m.low76
  | .clz _ _ _ m => m.wf && m.low76
  | .ctz _ _ _ m => m.wf && m.low76
  | .popc _ _ _ m => m.wf && m.low76
  | .bswap _ _ _ m => m.wf && m.low76
  | .sel _ _ _ _ m => m.wf && m.low76
  | .mov _ _ _ m => m.wf && m.low76
  | .abs _ _ _ m => m.wf && m.low76
  | .ext _ _ _ m => m.low76 && m.rnd.toNat ≤ 4
  | .ins _ _ _ m => m.low76 && m.rnd.toNat ≤ 4
  | .fadd _ _ _ _ m => m.wf && m.low76
  | .fsub _ _ _ _ m => m.wf && m.low76
  | .fmul _ _ _ _ m => m.wf && m.low76
  | .ffma _ _ _ _ m => m.wf && m.low76
  | .fdiv _ _ _ _ m => m.wf && m.low76
  | .fmin _ _ _ _ m => m.wf && m.low76
  | .fmax _ _ _ _ m => m.wf && m.low76
  | .fcvt _ _ _ m => m.wf && m.low76
  | .fsqrt _ _ _ m => m.wf && m.low76
  | .addi _ _ _ _ => true
  | .andi _ _ _ _ => true
  | .ori _ _ _ _ => true
  | .xori _ _ _ _ => true
  | .shli _ _ _ _ => true
  | .shri _ _ _ _ => true
  | .srai _ _ _ _ => true
  | .movi _ _ _ => true
  | .movh _ _ imm => imm.toNat < 2 ^ 29
  | .muli _ _ _ _ => true
  | .cmp _ cond _ _ _ => cond.toNat ≤ 9
  | .cmpi _ cond _ _ _ => cond.toNat ≤ 9
  | .pand _ pd _ _ => pd.wf
  | .por _ pd _ _ => pd.wf
  | .pxor _ pd _ _ => pd.wf
  | .pnot _ pd _ => pd.wf
  | .pmov _ pd _ => pd.wf
  | .fcmp _ cond _ _ _ => cond.toNat ≤ 7
  | .br _ a kind _ => kind != 0 || a == Opnd.zero
  | .jmp _ _ _ _ => true
  | .call _ _ _ => true
  | .callr _ _ _ _ => true
  | .ret _ _ => true
  | .loop _ _ _ _ => true
  | .trap _ _ code => 4096 ≤ code.toNat
  | .gatedServiceCall _ _ code => code.toNat < 4096
  | .brk _ _ _ => true
  | .nop _ _ => true
  | .exit _ _ => true
  | .uret _ _ => true
  | .ld _ _ _ m => m.wf
  | .st _ _ _ m => m.wf
  | .pf _ _ m => m.wf
  | .fence _ _ m => m.wf && m.off == 0
  | .ifence _ m => m.wf && m.off == 0
  | .icsync _ m => m.wf && m.off == 0
  | .atom _ _ _ _ m => m.wf
  | .ldfe _ _ _ m => m.wf
  | .stfe _ _ _ m => m.wf
  | .fset _ _ _ m => m.wf
  | .fget _ _ _ m => m.wf
  | .waita _ _ _ _ m => m.wf && m.op.toNat ≤ 3
  | .mon _ _ _ m => m.wf
  | .monrel _ _ _ m => m.wf
  | .time _ _ m => m.wf
  | .sleep _ _ _ m => m.wf
  | .yield _ m => m.wf
  | .vadd _ _ _ vb s m => m.wf && m.operandB vb s
  | .vsub _ _ _ vb s m => m.wf && m.operandB vb s
  | .vmul _ _ _ vb s m => m.wf && m.operandB vb s
  | .vfma _ _ _ vb _ s m => m.wf && m.operandB vb s
  | .vmin _ _ _ vb s m => m.wf && m.operandB vb s
  | .vmax _ _ _ vb s m => m.wf && m.operandB vb s
  | .vabs _ _ _ m => m.wf
  | .vneg _ _ _ m => m.wf
  | .vexp2 _ _ _ m => m.wf && m.et.toNat ≤ 2
  | .vlog2 _ _ _ m => m.wf && m.et.toNat ≤ 2
  | .vrcp _ _ _ m => m.wf && m.et.toNat ≤ 2
  | .vrsq _ _ _ m => m.wf && m.et.toNat ≤ 2
  | .vand _ _ _ vb s m => m.wf && m.operandB vb s
  | .vor _ _ _ vb s m => m.wf && m.operandB vb s
  | .vxor _ _ _ vb s m => m.wf && m.operandB vb s
  | .vsh _ _ _ vb s m => m.wf && m.operandB vb s
  | .vcmp _ _ _ vb s m => m.wf && m.operandB vb s && m.condOk
  | .vsel _ _ _ vb _ s m => m.wf && m.operandB vb s
  | .vred _ _ _ m => m.wf && m.cond.toNat ≤ 2
  | .vbcast _ _ _ m => m.wf
  | .vperm _ _ _ vb s m => m.wf && m.operandB vb s
  | .vcvt _ _ _ _ m => m.wf && 2 ≤ m.tgt.toNat
  | .vscale _ _ _ vb s m => m.wf && m.operandB vb s && m.et.toNat ≤ 2
  | .vmov _ _ _ m => m.wf
  | .setshape _ _ _ _ => true
  | .vld _ _ _ m => m.wf
  | .vst _ _ _ m => m.wf
  | .vgather _ _ _ _ m => m.wf
  | .vscatter _ _ _ _ m => m.wf
  | .vact _ _ _ _ => true
  | .oclaim _ _ _ m => m.wf
  | .orel _ _ _ m => m.wf
  | .tld _ _ _ _ fmt m => m.wf && tldOk fmt m
  | .tfill _ _ _ _ z fmt m => m.wf && slotFmt fmt && (m.sc || z == 0)
  | .mzero _ _ m => m.wf
  | .manch _ _ _ m => m.wf
  | .mma _ _ _ _ m => m.wf
  | .mdrain _ _ _ _ m => m.wf
  | .rowout _ oa s1 s2 fmt m => m.wf && rowoutOk oa s1 s2 fmt
  | .rowend _ m => m.wf
  | .mstat _ _ _ _ m => m.wf
  | .sld _ _ _ m => m.wf
  | .sst _ _ _ m => m.wf
  | .sadd _ _ _ m => m.wf
  | .smax _ _ _ m => m.wf
  | .smin _ _ _ m => m.wf
  | .sreblk _ _ _ m => m.wf
  | .smov _ _ _ m => m.wf
  | .sbind _ _ _ _ m => m.wf
  | .squery _ _ _ m => m.wf
  | .sfree _ _ m => m.wf
  | .sset _ _ _ m => m.wf
  | .fork _ _ _ _ => true
  | .tend _ _ => true
  | .joinw _ _ _ => true
  | .barr _ _ _ _ => true
  | .bwait _ _ _ => true
  | .bmiss _ _ _ _ _ => true
  | .bcfg _ _ _ _ => true
  | .migrate _ _ _ => true
  | .nomad _ _ => true
  | .homeq _ _ _ _ => true
  | .xfer _ _ b m => m.wf && (m.mc || b == Opnd.zero)
  | .shadow _ _ _ _ m => m.wf
  | .publish _ _ _ m => m.wf
  | .npost _ _ m => m.wf
  | .nrecv _ _ m => m.wf
  | .launch _ _ _ _ m => m.wf
  | .lwait _ _ _ m => m.wf
  | .lstat _ _ _ m => m.wf
  | .cmsg _ _ _ _ m => m.wf
  | .mrecv _ _ _ m => m.wf
  | .stepcfg _ _ _ m => m.wf
  | .stepend _ _ m => m.wf
  | .ldstep _ _ _ _ m => m.wf
  | .stepaddr _ _ _ m => m.wf
  | .stepq _ _ _ m => m.wf
  | .cut _ _ _ _ m => m.wf
  | .mfcr _ _ crn m => (m.all crn).wf
  | .mtcr _ _ _ crn m => (m.all crn).wf
  | .eret _ m => m.wf
  | .tsave _ _ _ _ m => m.wf
  | .tload _ _ _ _ m => m.wf
  | .tswap _ _ _ _ m => m.wf
  | .repart _ _ _ m => m.wf
  | .tlbinv _ _ a b m => m.wf && (m.ti != 3 || (a == Opnd.zero && b == Opnd.zero))
  | .cacheop _ _ _ _ m => m.wf
  | .sigpost _ _ _ _ m => m.wf
  | .ctxnew _ _ _ => true
  | .ctxgrant _ _ _ _ => true
  | .ctxrevoke _ _ _ _ => true
  | .ctxrun _ _ _ => true
  | .ctxstop _ _ _ => true
  | .ctxevt _ _ _ _ => true
  | .ctxreset _ _ _ _ => true
  | .ctxfree _ _ _ => true
  | .ctxstat _ _ _ _ => true
  | .tNop  => true
  | .tMove _ _ => true
  | .tLoadk _ _ => true
  | .tLoadi _ _ => true
  | .tLoadc _ _ => true
  | .tGetg _ _ _ _ => true
  | .tSetg _ _ _ _ => true
  | .tGetattr _ _ _ _ _ => true
  | .tSetattr _ _ _ _ _ => true
  | .tGetitem _ _ _ => true
  | .tSetitem _ _ _ => true
  | .tBinop _ _ _ _ op => op.toNat ≤ 12
  | .tUnop _ _ _ op => op.toNat ≤ 2
  | .tCompare _ _ _ _ op => op.toNat ≤ 7
  | .tJmp _ => true
  | .tJt _ _ => true
  | .tJf _ _ => true
  | .tCall _ _ _ => true
  | .tCallm _ _ _ _ => true
  | .tRet _ => true
  | .tMkarr _ _ _ => true
  | .tMkmap _ _ => true
  | .tMkfunc _ _ _ => true
  | .tGetcell _ _ => true
  | .tSetcell _ _ => true
  | .tForprep _ _ => true
  | .tForloop _ _ => true
  | .tIter _ _ => true
  | .tNext _ _ => true
  | .tRaise _ => true
  | .tTryb _ _ => true
  | .tTryend _ => true
  | .tImport _ _ => true
  | .tNative _ _ _ => true
  | .tAwait _ => true
  | .tDel _ => true
  | .tLen _ _ => true
  | .tIsinst _ _ _ => true
  | .tHalt _ => true
  | .tensorPendingWake _ => true
  | .fastPathCompletion _ => true
  | .longResultReturn _ _ => true
  | .homeAccessPerformed _ => true
  | .reservationExpiry _ => true
  | .restoredThreadPlacement _ => true
  | .sleepWake _ => true
  | .cxlAccessComplete _ => true
  | .longLat _ => true
  | .trapEntry _ => true
  | .migrationArrival _ => true
  | .inboxToMailbox _ _ => true
  | .engineCommandAccept _ => true
  | .engineOperationComplete _ => true
  | .publishFlip _ => true
  | .mmaAccumulation _ => true
  | .mdrainReadout _ _ => true
  | .launchAdmit _ => true
  | .leafStart _ _ _ => true
  | .launchRepartition _ _ => true
  | .geyserPacketSend _ => true
  | .geyserPacketArrival _ => true
  | .geyserAckArrival _ => true
  | .geyserRetransmitTimeout _ => true
  | .geyserRefusal _ => true
  | .geyserConnectionFailure _ => true
  | .stepAdvance _ => true
  | .beaconArrival _ => true
  | .stepcfgPairing _ => true
  | .leavingBeaconArrival _ => true
  | .cutMarkerArrival _ => true
  | .cutHold _ => true
  | .releaseMarkerArrival _ => true
  | .stepStall _ => true
  | .heldEventPost _ => true
  | .counterEventDelivery _ => true
  | .serviceReply _ _ => true
  | .bfmtWrite _ _ => true
  | .stepCounterWrite _ _ => true
  | .depcfgWrite _ => true
  | .delegWrite _ => true
  | .pcntWrite _ _ => true
  | .salcfgWrite _ => true
  | .vfctlWrite _ => true
  | .cxlwinWrite _ => true
  | .registerWrite _ _ => true
  | .csrWindowStore _ _ => true
  | .hostQueueWrite _ _ _ _ => true
  | .functionLevelReset _ => true
  | .attestationRequest _ _ => true
  | .linkLaneFailure _ => true
  | .powerLimit  => true
  | .coolingFailure  => true
  | .nowForwardStep _ => true
  | .bringUp _ => true
  | .uncorrectableMemoryData _ => true
  | .unsupportedRequest _ => true

end Sys2Proof
end

