-- ==== Sys2Proof/Decode.lean ====
section
/-! DEFINITION. The decoder, total on any word, and the encoder it is checked against. A candidate is read from the
fields of the group and function; it is accepted only when it is well formed and when writing its fields back gives
the same word, so that a reserved bit or an operand field that the function does not take is refused (R141). -/

namespace Sys2Proof

/-- The 7 bits of an operand field (R132). -/
def Opnd.bits (r : Opnd) : BitVec 7 := BitVec.ofBool r.shared ++ r.n

/-- The operand field whose lowest bit is `k`. -/
def opnd (w : Word) (k : Nat) : Opnd := ⟨w.getLsbD (k + 6), w.extractLsb' k 6⟩

/-- SW, PG and PN (R130). -/
def hdr (w : Word) : Hdr := ⟨w.getLsbD 63, w.extractLsb' 60 3, w.getLsbD 59⟩

/-- The never word of R131: PG = 0 and PN = 1. It is not decoded. -/
def isNever (w : Word) : Bool := w.extractLsb' 60 3 == 0 && w.getLsbD 59

/-- The word with the given common fields, group, function and body (R130). -/
def mkWord (h : Hdr) (grp : BitVec 4) (fn : BitVec 6) (body : BitVec 49) : Word :=
  BitVec.ofBool h.sw ++ h.pg ++ BitVec.ofBool h.pn ++ grp ++ fn ++ body

/-- Format R (R133). -/
def fmtR (d a b : Opnd) (m : BitVec 28) : BitVec 49 := d.bits ++ a.bits ++ b.bits ++ m
/-- Format I. -/
def fmtI (d a : Opnd) (imm : BitVec 35) : BitVec 49 := d.bits ++ a.bits ++ imm
/-- Format R of the compares (R156): COND and PD in D. -/
def fmtC (cond : BitVec 4) (pd : BitVec 3) (a b : Opnd) (m : BitVec 28) : BitVec 49 := cond ++ pd ++ a.bits ++ b.bits ++ m
/-- Format I of `cmpi` (R156). -/
def fmtCI (cond : BitVec 4) (pd : BitVec 3) (a : Opnd) (imm : BitVec 35) : BitVec 49 := cond ++ pd ++ a.bits ++ imm
/-- The predicate functions (R136, R156): COND and PD in D, PA in bits 37:35, PB in bits 30:28. -/
def fmtP (pd : PDst) (pa pb : BitVec 3) : BitVec 49 :=
  pd.cond ++ pd.p ++ (0 : BitVec 4) ++ pa ++ (0 : BitVec 4) ++ pb ++ (0 : BitVec 28)
def pdst (w : Word) : PDst := ⟨w.extractLsb' 45 4, w.extractLsb' 42 3⟩
/-- Format B. -/
def fmtB (a : Opnd) (kind : BitVec 2) (off : BitVec 40) : BitVec 49 := a.bits ++ kind ++ off
/-- Format M. -/
def fmtM (d : BitVec 7) (a : Opnd) (m : M4) : BitVec 49 :=
  d ++ a.bits ++ m.sz ++ m.ord ++ m.sco ++ m.hint ++ BitVec.ofBool m.x ++ m.off
/-- Format V. -/
def fmtV (vd va vb vc : BitVec 4) (s : Opnd) (m : BitVec 26) : BitVec 49 := vd ++ va ++ vb ++ vc ++ s.bits ++ m
/-- Format T, with the modifiers of R194. -/
def fmtT (ta oa ob : BitVec 3) (s1 s2 : Opnd) (z : BitVec 6) (fmt : BitVec 4) (m : M8) : BitVec 49 :=
  ta ++ oa ++ ob ++ s1.bits ++ s2.bits ++ z ++ fmt ++ m.rnd ++ BitVec.ofBool m.sc ++ m.blk ++ (0 : BitVec 10)

/-- MOD of group 0x0 (R148). -/
def encM0 (m : M0) : BitVec 28 := m.rnd ++ BitVec.ofBool m.u ++ BitVec.ofBool m.sat ++ (0 : BitVec 7) ++ m.low
def decM0 (w : Word) : M0 := ⟨w.extractLsb' 25 3, w.getLsbD 24, w.getLsbD 23, w.extractLsb' 0 16⟩
def decM4 (w : Word) : M4 :=
  ⟨w.extractLsb' 32 3, w.extractLsb' 30 2, w.extractLsb' 27 3, w.extractLsb' 25 2, w.getLsbD 24, w.extractLsb' 0 24⟩
/-- MOD of group 0x5 (R217). -/
def encM5 (m : M5) : BitVec 28 := m.op ++ BitVec.ofBool m.c ++ m.sco ++ (0 : BitVec 17) ++ m.pr
def decM5 (w : Word) : M5 := ⟨w.extractLsb' 24 4, w.getLsbD 23, w.extractLsb' 20 3, w.extractLsb' 0 3⟩
/-- ET and MOD of group 0x6 (R177). -/
def encM6 (m : M6) : BitVec 26 :=
  m.et ++ m.rnd ++ BitVec.ofBool m.sat ++ m.cond ++ m.tgt ++ m.sh ++ BitVec.ofBool m.bs ++ (0 : BitVec 8)
def decM6 (w : Word) : M6 :=
  ⟨w.extractLsb' 23 3, w.extractLsb' 20 3, w.getLsbD 19, w.extractLsb' 15 4, w.extractLsb' 11 4, w.extractLsb' 9 2, w.getLsbD 8⟩
/-- ET and MOD of group 0x7 (R188). -/
def encM7 (m : M7) : BitVec 26 := m.et ++ m.ord ++ m.sco ++ m.mf ++ (0 : BitVec 14)
def decM7 (w : Word) : M7 := ⟨w.extractLsb' 23 3, w.extractLsb' 21 2, w.extractLsb' 18 3, w.extractLsb' 14 4⟩
def decM8 (w : Word) : M8 := ⟨w.extractLsb' 13 3, w.getLsbD 12, w.extractLsb' 10 2⟩
/-- MOD of group 0xA (R223). -/
def encRes (r : Bool) : BitVec 28 := (0 : BitVec 27) ++ BitVec.ofBool r
/-- MOD of group 0xB (R228). -/
def encMB (m : MB) : BitVec 28 := m.sco ++ m.sf ++ m.df ++ BitVec.ofBool m.mc ++ (0 : BitVec 16)
def decMB (w : Word) : MB := ⟨w.extractLsb' 25 3, w.extractLsb' 21 4, w.extractLsb' 17 4, w.getLsbD 16⟩
/-- MOD of group 0xC (R251). -/
def encMC (m : MC) : BitVec 28 := m.edge ++ m.sz ++ (0 : BitVec 22)
def decMC (w : Word) : MC := ⟨w.extractLsb' 25 3, w.extractLsb' 22 3⟩
/-- MOD of group 0xD (R339). -/
def encMD (m : MD) : BitVec 28 := (0 : BitVec 10) ++ m.pm ++ m.co ++ m.ti ++ m.crn
def decMD (w : Word) : MD := ⟨w.extractLsb' 16 2, w.extractLsb' 14 2, w.extractLsb' 12 2, w.extractLsb' 0 12⟩

/-- A bytecode word (R282): opcode, A, B, C. -/
def tw (op a b c : BitVec 8) : Lane := op ++ a ++ b ++ c
/-- A bytecode word whose low half is one field. -/
def twk (op a : BitVec 8) (k : BitVec 16) : Lane := op ++ a ++ k
/-- A bytecode word whose low 24 bits are one field. -/
def two (op : BitVec 8) (o : BitVec 24) : Lane := op ++ o
/-- The second word of an IC-bearing bytecode. -/
def tw2 (op : BitVec 8) (ic : BitVec 16) : Lane := (0 : BitVec 8) ++ op ++ ic

/-- What an instruction is in memory: a native word, a bytecode of one or two words, or, for an event, nothing. -/
inductive Code where
  | native (w : Word)
  | byte1 (w : Lane)
  | byte2 (w v : Lane)
  | event
  deriving DecidableEq, Repr

/-- The encoder, written from R130 to R140 and R282 to R290. -/
def encode : Instr → Code
  | .add h d a b m => .native (mkWord h 0 0 (fmtR d a b (encM0 m)))
  | .sub h d a b m => .native (mkWord h 0 1 (fmtR d a b (encM0 m)))
  | .mul h d a b m => .native (mkWord h 0 2 (fmtR d a b (encM0 m)))
  | .mulh h d a b m => .native (mkWord h 0 3 (fmtR d a b (encM0 m)))
  | .div h d a b m => .native (mkWord h 0 4 (fmtR d a b (encM0 m)))
  | .rem h d a b m => .native (mkWord h 0 5 (fmtR d a b (encM0 m)))
  | .and h d a b m => .native (mkWord h 0 6 (fmtR d a b (encM0 m)))
  | .or h d a b m => .native (mkWord h 0 7 (fmtR d a b (encM0 m)))
  | .xor h d a b m => .native (mkWord h 0 8 (fmtR d a b (encM0 m)))
  | .andn h d a b m => .native (mkWord h 0 9 (fmtR d a b (encM0 m)))
  | .shl h d a b m => .native (mkWord h 0 10 (fmtR d a b (encM0 m)))
  | .shr h d a b m => .native (mkWord h 0 11 (fmtR d a b (encM0 m)))
  | .sra h d a b m => .native (mkWord h 0 12 (fmtR d a b (encM0 m)))
  | .rot h d a b m => .native (mkWord h 0 13 (fmtR d a b (encM0 m)))
  | .min h d a b m => .native (mkWord h 0 14 (fmtR d a b (encM0 m)))
  | .max h d a b m => .native (mkWord h 0 15 (fmtR d a b (encM0 m)))
  | .clz h d a m => .native (mkWord h 0 16 (fmtR d a Opnd.zero (encM0 m)))
  | .ctz h d a m => .native (mkWord h 0 17 (fmtR d a Opnd.zero (encM0 m)))
  | .popc h d a m => .native (mkWord h 0 18 (fmtR d a Opnd.zero (encM0 m)))
  | .bswap h d a m => .native (mkWord h 0 19 (fmtR d a Opnd.zero (encM0 m)))
  | .sel h d a b m => .native (mkWord h 0 20 (fmtR d a b (encM0 m)))
  | .mov h d a m => .native (mkWord h 0 21 (fmtR d a Opnd.zero (encM0 m)))
  | .abs h d a m => .native (mkWord h 0 22 (fmtR d a Opnd.zero (encM0 m)))
  | .ext h d a m => .native (mkWord h 0 23 (fmtR d a Opnd.zero (encM0 m)))
  | .ins h d a m => .native (mkWord h 0 24 (fmtR d a Opnd.zero (encM0 m)))
  | .fadd h d a b m => .native (mkWord h 0 32 (fmtR d a b (encM0 m)))
  | .fsub h d a b m => .native (mkWord h 0 33 (fmtR d a b (encM0 m)))
  | .fmul h d a b m => .native (mkWord h 0 34 (fmtR d a b (encM0 m)))
  | .ffma h d a b m => .native (mkWord h 0 35 (fmtR d a b (encM0 m)))
  | .fdiv h d a b m => .native (mkWord h 0 36 (fmtR d a b (encM0 m)))
  | .fmin h d a b m => .native (mkWord h 0 37 (fmtR d a b (encM0 m)))
  | .fmax h d a b m => .native (mkWord h 0 38 (fmtR d a b (encM0 m)))
  | .fcvt h d a m => .native (mkWord h 0 39 (fmtR d a Opnd.zero (encM0 m)))
  | .fsqrt h d a m => .native (mkWord h 0 40 (fmtR d a Opnd.zero (encM0 m)))
  | .addi h d a imm => .native (mkWord h 1 0 (fmtI d a imm))
  | .andi h d a imm => .native (mkWord h 1 1 (fmtI d a imm))
  | .ori h d a imm => .native (mkWord h 1 2 (fmtI d a imm))
  | .xori h d a imm => .native (mkWord h 1 3 (fmtI d a imm))
  | .shli h d a imm => .native (mkWord h 1 4 (fmtI d a imm))
  | .shri h d a imm => .native (mkWord h 1 5 (fmtI d a imm))
  | .srai h d a imm => .native (mkWord h 1 6 (fmtI d a imm))
  | .movi h d imm => .native (mkWord h 1 7 (fmtI d Opnd.zero imm))
  | .movh h d imm => .native (mkWord h 1 8 (fmtI d Opnd.zero imm))
  | .muli h d a imm => .native (mkWord h 1 9 (fmtI d a imm))
  | .cmp h cond pd a b => .native (mkWord h 2 0 (fmtC cond pd a b 0))
  | .cmpi h cond pd a imm => .native (mkWord h 2 1 (fmtCI cond pd a imm))
  | .pand h pd pa pb => .native (mkWord h 2 2 (fmtP pd pa pb))
  | .por h pd pa pb => .native (mkWord h 2 3 (fmtP pd pa pb))
  | .pxor h pd pa pb => .native (mkWord h 2 4 (fmtP pd pa pb))
  | .pnot h pd pa => .native (mkWord h 2 5 (fmtP pd pa 0))
  | .pmov h pd pa => .native (mkWord h 2 6 (fmtP pd pa 0))
  | .fcmp h cond pd a b => .native (mkWord h 2 7 (fmtC cond pd a b 0))
  | .br h a kind off => .native (mkWord h 3 0 (fmtB a kind off))
  | .jmp h a kind off => .native (mkWord h 3 1 (fmtB a kind off))
  | .call h kind off => .native (mkWord h 3 2 (fmtB Opnd.zero kind off))
  | .callr h a kind off => .native (mkWord h 3 3 (fmtB a kind off))
  | .ret h kind => .native (mkWord h 3 4 (fmtB Opnd.zero kind 0))
  | .loop h a kind off => .native (mkWord h 3 5 (fmtB a kind off))
  | .trap h kind code => .native (mkWord h 3 6 (fmtB Opnd.zero kind (code.zeroExtend 40)))
  | .gatedServiceCall h kind code => .native (mkWord h 3 6 (fmtB Opnd.zero kind (code.zeroExtend 40)))
  | .brk h kind code => .native (mkWord h 3 7 (fmtB Opnd.zero kind (code.zeroExtend 40)))
  | .nop h kind => .native (mkWord h 3 8 (fmtB Opnd.zero kind 0))
  | .exit h kind => .native (mkWord h 3 9 (fmtB Opnd.zero kind 0))
  | .uret h kind => .native (mkWord h 3 10 (fmtB Opnd.zero kind 0))
  | .ld h d a m => .native (mkWord h 4 0 (fmtM d.bits a m))
  | .st h d a m => .native (mkWord h 4 1 (fmtM d.bits a m))
  | .pf h a m => .native (mkWord h 4 2 (fmtM 0 a m))
  | .fence h kinds m => .native (mkWord h 4 3 (fmtM (kinds.zeroExtend 7) Opnd.zero m))
  | .ifence h m => .native (mkWord h 4 4 (fmtM 0 Opnd.zero m))
  | .icsync h m => .native (mkWord h 4 5 (fmtM 0 Opnd.zero m))
  | .atom h d a b m => .native (mkWord h 5 0 (fmtR d a b (encM5 m)))
  | .ldfe h d a m => .native (mkWord h 5 1 (fmtR d a Opnd.zero (encM5 m)))
  | .stfe h a b m => .native (mkWord h 5 2 (fmtR Opnd.zero a b (encM5 m)))
  | .fset h d a m => .native (mkWord h 5 3 (fmtR d a Opnd.zero (encM5 m)))
  | .fget h d a m => .native (mkWord h 5 4 (fmtR d a Opnd.zero (encM5 m)))
  | .waita h d a b m => .native (mkWord h 5 5 (fmtR d a b (encM5 m)))
  | .mon h d a m => .native (mkWord h 5 6 (fmtR d a Opnd.zero (encM5 m)))
  | .monrel h a b m => .native (mkWord h 5 7 (fmtR Opnd.zero a b (encM5 m)))
  | .time h d m => .native (mkWord h 5 8 (fmtR d Opnd.zero Opnd.zero (encM5 m)))
  | .sleep h d a m => .native (mkWord h 5 9 (fmtR d a Opnd.zero (encM5 m)))
  | .yield h m => .native (mkWord h 5 10 (fmtR Opnd.zero Opnd.zero Opnd.zero (encM5 m)))
  | .vadd h vd va vb s m => .native (mkWord h 6 0 (fmtV vd va vb 0 s (encM6 m)))
  | .vsub h vd va vb s m => .native (mkWord h 6 1 (fmtV vd va vb 0 s (encM6 m)))
  | .vmul h vd va vb s m => .native (mkWord h 6 2 (fmtV vd va vb 0 s (encM6 m)))
  | .vfma h vd va vb vc s m => .native (mkWord h 6 3 (fmtV vd va vb vc s (encM6 m)))
  | .vmin h vd va vb s m => .native (mkWord h 6 4 (fmtV vd va vb 0 s (encM6 m)))
  | .vmax h vd va vb s m => .native (mkWord h 6 5 (fmtV vd va vb 0 s (encM6 m)))
  | .vabs h vd va m => .native (mkWord h 6 6 (fmtV vd va 0 0 Opnd.zero (encM6 m)))
  | .vneg h vd va m => .native (mkWord h 6 7 (fmtV vd va 0 0 Opnd.zero (encM6 m)))
  | .vexp2 h vd va m => .native (mkWord h 6 8 (fmtV vd va 0 0 Opnd.zero (encM6 m)))
  | .vlog2 h vd va m => .native (mkWord h 6 9 (fmtV vd va 0 0 Opnd.zero (encM6 m)))
  | .vrcp h vd va m => .native (mkWord h 6 10 (fmtV vd va 0 0 Opnd.zero (encM6 m)))
  | .vrsq h vd va m => .native (mkWord h 6 11 (fmtV vd va 0 0 Opnd.zero (encM6 m)))
  | .vand h vd va vb s m => .native (mkWord h 6 12 (fmtV vd va vb 0 s (encM6 m)))
  | .vor h vd va vb s m => .native (mkWord h 6 13 (fmtV vd va vb 0 s (encM6 m)))
  | .vxor h vd va vb s m => .native (mkWord h 6 14 (fmtV vd va vb 0 s (encM6 m)))
  | .vsh h vd va vb s m => .native (mkWord h 6 15 (fmtV vd va vb 0 s (encM6 m)))
  | .vcmp h vd va vb s m => .native (mkWord h 6 16 (fmtV vd va vb 0 s (encM6 m)))
  | .vsel h vd va vb vc s m => .native (mkWord h 6 17 (fmtV vd va vb vc s (encM6 m)))
  | .vred h va s m => .native (mkWord h 6 18 (fmtV 0 va 0 0 s (encM6 m)))
  | .vbcast h vd s m => .native (mkWord h 6 19 (fmtV vd 0 0 0 s (encM6 m)))
  | .vperm h vd va vb s m => .native (mkWord h 6 20 (fmtV vd va vb 0 s (encM6 m)))
  | .vcvt h vd va s m => .native (mkWord h 6 21 (fmtV vd va 0 0 s (encM6 m)))
  | .vscale h vd va vb s m => .native (mkWord h 6 22 (fmtV vd va vb 0 s (encM6 m)))
  | .vmov h vd va m => .native (mkWord h 6 23 (fmtV vd va 0 0 Opnd.zero (encM6 m)))
  | .setshape h d a b => .native (mkWord h 7 0 (fmtR d a b 0))
  | .vld h vd s m => .native (mkWord h 7 1 (fmtV vd 0 0 0 s (encM7 m)))
  | .vst h vd s m => .native (mkWord h 7 2 (fmtV vd 0 0 0 s (encM7 m)))
  | .vgather h vd va s m => .native (mkWord h 7 3 (fmtV vd va 0 0 s (encM7 m)))
  | .vscatter h vd va s m => .native (mkWord h 7 4 (fmtV vd va 0 0 s (encM7 m)))
  | .vact h d a b => .native (mkWord h 7 5 (fmtR d a b 0))
  | .oclaim h s1 s2 m => .native (mkWord h 8 0 (fmtT 0 0 0 s1 s2 0 0 m))
  | .orel h s1 s2 m => .native (mkWord h 8 1 (fmtT 0 0 0 s1 s2 0 0 m))
  | .tld h oa s1 s2 fmt m => .native (mkWord h 8 2 (fmtT 0 oa 0 s1 s2 0 fmt m))
  | .tfill h oa s1 s2 z fmt m => .native (mkWord h 8 3 (fmtT 0 oa 0 s1 s2 z fmt m))
  | .mzero h ta m => .native (mkWord h 8 4 (fmtT ta 0 0 Opnd.zero Opnd.zero 0 0 m))
  | .manch h ta s1 m => .native (mkWord h 8 5 (fmtT ta 0 0 s1 Opnd.zero 0 0 m))
  | .mma h ta oa ob m => .native (mkWord h 8 6 (fmtT ta oa ob Opnd.zero Opnd.zero 0 0 m))
  | .mdrain h ta s1 s2 m => .native (mkWord h 8 7 (fmtT ta 0 0 s1 s2 0 0 m))
  | .rowout h oa s1 s2 fmt m => .native (mkWord h 8 8 (fmtT 0 oa 0 s1 s2 0 fmt m))
  | .rowend h m => .native (mkWord h 8 9 (fmtT 0 0 0 Opnd.zero Opnd.zero 0 0 m))
  | .mstat h ta s1 s2 m => .native (mkWord h 8 10 (fmtT ta 0 0 s1 s2 0 0 m))
  | .sld h s1 z m => .native (mkWord h 9 0 (fmtT 0 0 0 s1 Opnd.zero z 0 m))
  | .sst h s1 z m => .native (mkWord h 9 1 (fmtT 0 0 0 s1 Opnd.zero z 0 m))
  | .sadd h s1 z m => .native (mkWord h 9 2 (fmtT 0 0 0 s1 Opnd.zero z 0 m))
  | .smax h s1 z m => .native (mkWord h 9 3 (fmtT 0 0 0 s1 Opnd.zero z 0 m))
  | .smin h s1 z m => .native (mkWord h 9 4 (fmtT 0 0 0 s1 Opnd.zero z 0 m))
  | .sreblk h s1 z m => .native (mkWord h 9 5 (fmtT 0 0 0 s1 Opnd.zero z 0 m))
  | .smov h oa z m => .native (mkWord h 9 6 (fmtT 0 oa 0 Opnd.zero Opnd.zero z 0 m))
  | .sbind h oa s1 z m => .native (mkWord h 9 7 (fmtT 0 oa 0 s1 Opnd.zero z 0 m))
  | .squery h oa s2 m => .native (mkWord h 9 8 (fmtT 0 oa 0 Opnd.zero s2 0 0 m))
  | .sfree h z m => .native (mkWord h 9 9 (fmtT 0 0 0 Opnd.zero Opnd.zero z 0 m))
  | .sset h s1 z m => .native (mkWord h 9 10 (fmtT 0 0 0 s1 Opnd.zero z 0 m))
  | .fork h a b res => .native (mkWord h 10 0 (fmtR Opnd.zero a b (encRes res)))
  | .tend h res => .native (mkWord h 10 1 (fmtR Opnd.zero Opnd.zero Opnd.zero (encRes res)))
  | .joinw h a res => .native (mkWord h 10 2 (fmtR Opnd.zero a Opnd.zero (encRes res)))
  | .barr h d a res => .native (mkWord h 10 3 (fmtR d a Opnd.zero (encRes res)))
  | .bwait h a res => .native (mkWord h 10 4 (fmtR Opnd.zero a Opnd.zero (encRes res)))
  | .bmiss h d a b res => .native (mkWord h 10 5 (fmtR d a b (encRes res)))
  | .bcfg h a b res => .native (mkWord h 10 6 (fmtR Opnd.zero a b (encRes res)))
  | .migrate h a res => .native (mkWord h 10 7 (fmtR Opnd.zero a Opnd.zero (encRes res)))
  | .nomad h res => .native (mkWord h 10 8 (fmtR Opnd.zero Opnd.zero Opnd.zero (encRes res)))
  | .homeq h d a res => .native (mkWord h 10 9 (fmtR d a Opnd.zero (encRes res)))
  | .xfer h a b m => .native (mkWord h 11 0 (fmtR Opnd.zero a b (encMB m)))
  | .shadow h d a b m => .native (mkWord h 11 1 (fmtR d a b (encMB m)))
  | .publish h d a m => .native (mkWord h 11 2 (fmtR d a Opnd.zero (encMB m)))
  | .npost h a m => .native (mkWord h 11 3 (fmtR Opnd.zero a Opnd.zero (encMB m)))
  | .nrecv h a m => .native (mkWord h 11 4 (fmtR Opnd.zero a Opnd.zero (encMB m)))
  | .launch h d a b m => .native (mkWord h 11 5 (fmtR d a b (encMB m)))
  | .lwait h d a m => .native (mkWord h 11 6 (fmtR d a Opnd.zero (encMB m)))
  | .lstat h d a m => .native (mkWord h 11 7 (fmtR d a Opnd.zero (encMB m)))
  | .cmsg h d a b m => .native (mkWord h 11 8 (fmtR d a b (encMB m)))
  | .mrecv h d a m => .native (mkWord h 11 9 (fmtR d a Opnd.zero (encMB m)))
  | .stepcfg h d a m => .native (mkWord h 12 0 (fmtR d a Opnd.zero (encMC m)))
  | .stepend h d m => .native (mkWord h 12 1 (fmtR d Opnd.zero Opnd.zero (encMC m)))
  | .ldstep h d a b m => .native (mkWord h 12 2 (fmtR d a b (encMC m)))
  | .stepaddr h d b m => .native (mkWord h 12 3 (fmtR d Opnd.zero b (encMC m)))
  | .stepq h d a m => .native (mkWord h 12 4 (fmtR d a Opnd.zero (encMC m)))
  | .cut h d a b m => .native (mkWord h 12 5 (fmtR d a b (encMC m)))
  | .mfcr h d crn m => .native (mkWord h 13 0 (fmtR d Opnd.zero Opnd.zero (encMD (m.all crn))))
  | .mtcr h d a crn m => .native (mkWord h 13 1 (fmtR d a Opnd.zero (encMD (m.all crn))))
  | .eret h m => .native (mkWord h 13 2 (fmtR Opnd.zero Opnd.zero Opnd.zero (encMD m)))
  | .tsave h d a b m => .native (mkWord h 13 3 (fmtR d a b (encMD m)))
  | .tload h d a b m => .native (mkWord h 13 4 (fmtR d a b (encMD m)))
  | .tswap h d a b m => .native (mkWord h 13 5 (fmtR d a b (encMD m)))
  | .repart h d a m => .native (mkWord h 13 6 (fmtR d a Opnd.zero (encMD m)))
  | .tlbinv h d a b m => .native (mkWord h 13 7 (fmtR d a b (encMD m)))
  | .cacheop h d a b m => .native (mkWord h 13 8 (fmtR d a b (encMD m)))
  | .sigpost h d a b m => .native (mkWord h 13 9 (fmtR d a b (encMD m)))
  | .ctxnew h d a => .native (mkWord h 14 0 (fmtR d a Opnd.zero 0))
  | .ctxgrant h d a b => .native (mkWord h 14 1 (fmtR d a b 0))
  | .ctxrevoke h d a b => .native (mkWord h 14 2 (fmtR d a b 0))
  | .ctxrun h d a => .native (mkWord h 14 3 (fmtR d a Opnd.zero 0))
  | .ctxstop h d a => .native (mkWord h 14 4 (fmtR d a Opnd.zero 0))
  | .ctxevt h d a b => .native (mkWord h 14 5 (fmtR d a b 0))
  | .ctxreset h d a b => .native (mkWord h 14 6 (fmtR d a b 0))
  | .ctxfree h d a => .native (mkWord h 14 7 (fmtR d a Opnd.zero 0))
  | .ctxstat h d a b => .native (mkWord h 14 8 (fmtR d a b 0))
  | .tNop  => .byte1 (tw 0 0 0 0)
  | .tMove a b => .byte1 (tw 1 a b 0)
  | .tLoadk a k => .byte1 (twk 2 a k)
  | .tLoadi a i => .byte1 (twk 3 a i)
  | .tLoadc a b => .byte1 (tw 4 a b 0)
  | .tGetg a b ic nm => .byte2 (tw 5 a b 0) (tw2 nm ic)
  | .tSetg a b ic nm => .byte2 (tw 6 a b 0) (tw2 nm ic)
  | .tGetattr a b c ic nm => .byte2 (tw 7 a b c) (tw2 nm ic)
  | .tSetattr a b c ic nm => .byte2 (tw 8 a b c) (tw2 nm ic)
  | .tGetitem a b c => .byte1 (tw 9 a b c)
  | .tSetitem a b c => .byte1 (tw 10 a b c)
  | .tBinop a b c ic op => .byte2 (tw 11 a b c) (tw2 op ic)
  | .tUnop a b ic op => .byte2 (tw 12 a b 0) (tw2 op ic)
  | .tCompare a b c ic op => .byte2 (tw 13 a b c) (tw2 op ic)
  | .tJmp off => .byte1 (two 14 off)
  | .tJt a off => .byte1 (twk 15 a off)
  | .tJf a off => .byte1 (twk 16 a off)
  | .tCall a b ic => .byte2 (tw 17 a b 0) (tw2 0 ic)
  | .tCallm a b c ic => .byte2 (tw 18 a b c) (tw2 0 ic)
  | .tRet a => .byte1 (tw 19 a 0 0)
  | .tMkarr a b c => .byte1 (tw 20 a b c)
  | .tMkmap a b => .byte1 (tw 21 a b 0)
  | .tMkfunc a b c => .byte1 (tw 22 a b c)
  | .tGetcell a b => .byte1 (tw 23 a b 0)
  | .tSetcell a b => .byte1 (tw 24 a b 0)
  | .tForprep a off => .byte1 (twk 25 a off)
  | .tForloop a off => .byte1 (twk 26 a off)
  | .tIter a b => .byte1 (tw 27 a b 0)
  | .tNext a off => .byte1 (twk 28 a off)
  | .tRaise a => .byte1 (tw 29 a 0 0)
  | .tTryb a off => .byte1 (twk 30 a off)
  | .tTryend a => .byte1 (tw 31 a 0 0)
  | .tImport a b => .byte1 (tw 32 a b 0)
  | .tNative a b c => .byte1 (tw 33 a b c)
  | .tAwait a => .byte1 (tw 34 a 0 0)
  | .tDel a => .byte1 (tw 35 a 0 0)
  | .tLen a b => .byte1 (tw 36 a b 0)
  | .tIsinst a b c => .byte1 (tw 37 a b c)
  | .tHalt a => .byte1 (tw 38 a 0 0)
  | .tensorPendingWake _ => .event
  | .fastPathCompletion _ => .event
  | .longResultReturn _ _ => .event
  | .homeAccessPerformed _ => .event
  | .reservationExpiry _ => .event
  | .restoredThreadPlacement _ => .event
  | .sleepWake _ => .event
  | .cxlAccessComplete _ => .event
  | .longLat _ => .event
  | .trapEntry _ => .event
  | .migrationArrival _ => .event
  | .inboxToMailbox _ _ => .event
  | .engineCommandAccept _ => .event
  | .engineOperationComplete _ => .event
  | .publishFlip _ => .event
  | .mmaAccumulation _ => .event
  | .mdrainReadout _ _ => .event
  | .launchAdmit _ => .event
  | .leafStart _ _ _ => .event
  | .launchRepartition _ _ => .event
  | .geyserPacketSend _ => .event
  | .geyserPacketArrival _ => .event
  | .geyserAckArrival _ => .event
  | .geyserRetransmitTimeout _ => .event
  | .geyserRefusal _ => .event
  | .geyserConnectionFailure _ => .event
  | .stepAdvance _ => .event
  | .beaconArrival _ => .event
  | .stepcfgPairing _ => .event
  | .leavingBeaconArrival _ => .event
  | .cutMarkerArrival _ => .event
  | .cutHold _ => .event
  | .releaseMarkerArrival _ => .event
  | .stepStall _ => .event
  | .heldEventPost _ => .event
  | .counterEventDelivery _ => .event
  | .serviceReply _ _ => .event
  | .bfmtWrite _ _ => .event
  | .stepCounterWrite _ _ => .event
  | .depcfgWrite _ => .event
  | .delegWrite _ => .event
  | .pcntWrite _ _ => .event
  | .salcfgWrite _ => .event
  | .vfctlWrite _ => .event
  | .cxlwinWrite _ => .event
  | .registerWrite _ _ => .event
  | .csrWindowStore _ _ => .event
  | .hostQueueWrite _ _ _ _ => .event
  | .functionLevelReset _ => .event
  | .attestationRequest _ _ => .event
  | .linkLaneFailure _ => .event
  | .powerLimit  => .event
  | .coolingFailure  => .event
  | .nowForwardStep _ => .event
  | .bringUp _ => .event
  | .uncorrectableMemoryData _ => .event
  | .unsupportedRequest _ => .event

/-- Why a word is no instruction. -/
inductive DecodeError where
  /-- The group or function is unassigned, or the opcode undefined (R140, R141, R283). -/
  | unassigned
  /-- A reserved bit, or an operand field that the function does not take, is not zero (R141, R283). -/
  | reservedBits
  /-- A field holds a reserved value (R141, R283). -/
  | reservedValue
  deriving DecidableEq, Repr

/-- The function that GRP and FN name, with its fields as they stand in the word. -/
def candidate (w : Word) : Option Instr :=
  let h := hdr w
  match (w.extractLsb' 55 4).toNat, (w.extractLsb' 49 6).toNat with
  | 0, 0 => some (.add h (opnd w 42) (opnd w 35) (opnd w 28) (decM0 w))
  | 0, 1 => some (.sub h (opnd w 42) (opnd w 35) (opnd w 28) (decM0 w))
  | 0, 2 => some (.mul h (opnd w 42) (opnd w 35) (opnd w 28) (decM0 w))
  | 0, 3 => some (.mulh h (opnd w 42) (opnd w 35) (opnd w 28) (decM0 w))
  | 0, 4 => some (.div h (opnd w 42) (opnd w 35) (opnd w 28) (decM0 w))
  | 0, 5 => some (.rem h (opnd w 42) (opnd w 35) (opnd w 28) (decM0 w))
  | 0, 6 => some (.and h (opnd w 42) (opnd w 35) (opnd w 28) (decM0 w))
  | 0, 7 => some (.or h (opnd w 42) (opnd w 35) (opnd w 28) (decM0 w))
  | 0, 8 => some (.xor h (opnd w 42) (opnd w 35) (opnd w 28) (decM0 w))
  | 0, 9 => some (.andn h (opnd w 42) (opnd w 35) (opnd w 28) (decM0 w))
  | 0, 10 => some (.shl h (opnd w 42) (opnd w 35) (opnd w 28) (decM0 w))
  | 0, 11 => some (.shr h (opnd w 42) (opnd w 35) (opnd w 28) (decM0 w))
  | 0, 12 => some (.sra h (opnd w 42) (opnd w 35) (opnd w 28) (decM0 w))
  | 0, 13 => some (.rot h (opnd w 42) (opnd w 35) (opnd w 28) (decM0 w))
  | 0, 14 => some (.min h (opnd w 42) (opnd w 35) (opnd w 28) (decM0 w))
  | 0, 15 => some (.max h (opnd w 42) (opnd w 35) (opnd w 28) (decM0 w))
  | 0, 16 => some (.clz h (opnd w 42) (opnd w 35) (decM0 w))
  | 0, 17 => some (.ctz h (opnd w 42) (opnd w 35) (decM0 w))
  | 0, 18 => some (.popc h (opnd w 42) (opnd w 35) (decM0 w))
  | 0, 19 => some (.bswap h (opnd w 42) (opnd w 35) (decM0 w))
  | 0, 20 => some (.sel h (opnd w 42) (opnd w 35) (opnd w 28) (decM0 w))
  | 0, 21 => some (.mov h (opnd w 42) (opnd w 35) (decM0 w))
  | 0, 22 => some (.abs h (opnd w 42) (opnd w 35) (decM0 w))
  | 0, 23 => some (.ext h (opnd w 42) (opnd w 35) (decM0 w))
  | 0, 24 => some (.ins h (opnd w 42) (opnd w 35) (decM0 w))
  | 0, 32 => some (.fadd h (opnd w 42) (opnd w 35) (opnd w 28) (decM0 w))
  | 0, 33 => some (.fsub h (opnd w 42) (opnd w 35) (opnd w 28) (decM0 w))
  | 0, 34 => some (.fmul h (opnd w 42) (opnd w 35) (opnd w 28) (decM0 w))
  | 0, 35 => some (.ffma h (opnd w 42) (opnd w 35) (opnd w 28) (decM0 w))
  | 0, 36 => some (.fdiv h (opnd w 42) (opnd w 35) (opnd w 28) (decM0 w))
  | 0, 37 => some (.fmin h (opnd w 42) (opnd w 35) (opnd w 28) (decM0 w))
  | 0, 38 => some (.fmax h (opnd w 42) (opnd w 35) (opnd w 28) (decM0 w))
  | 0, 39 => some (.fcvt h (opnd w 42) (opnd w 35) (decM0 w))
  | 0, 40 => some (.fsqrt h (opnd w 42) (opnd w 35) (decM0 w))
  | 1, 0 => some (.addi h (opnd w 42) (opnd w 35) (w.extractLsb' 0 35))
  | 1, 1 => some (.andi h (opnd w 42) (opnd w 35) (w.extractLsb' 0 35))
  | 1, 2 => some (.ori h (opnd w 42) (opnd w 35) (w.extractLsb' 0 35))
  | 1, 3 => some (.xori h (opnd w 42) (opnd w 35) (w.extractLsb' 0 35))
  | 1, 4 => some (.shli h (opnd w 42) (opnd w 35) (w.extractLsb' 0 35))
  | 1, 5 => some (.shri h (opnd w 42) (opnd w 35) (w.extractLsb' 0 35))
  | 1, 6 => some (.srai h (opnd w 42) (opnd w 35) (w.extractLsb' 0 35))
  | 1, 7 => some (.movi h (opnd w 42) (w.extractLsb' 0 35))
  | 1, 8 => some (.movh h (opnd w 42) (w.extractLsb' 0 35))
  | 1, 9 => some (.muli h (opnd w 42) (opnd w 35) (w.extractLsb' 0 35))
  | 2, 0 => some (.cmp h (w.extractLsb' 45 4) (w.extractLsb' 42 3) (opnd w 35) (opnd w 28))
  | 2, 1 => some (.cmpi h (w.extractLsb' 45 4) (w.extractLsb' 42 3) (opnd w 35) (w.extractLsb' 0 35))
  | 2, 2 => some (.pand h (pdst w) (w.extractLsb' 35 3) (w.extractLsb' 28 3))
  | 2, 3 => some (.por h (pdst w) (w.extractLsb' 35 3) (w.extractLsb' 28 3))
  | 2, 4 => some (.pxor h (pdst w) (w.extractLsb' 35 3) (w.extractLsb' 28 3))
  | 2, 5 => some (.pnot h (pdst w) (w.extractLsb' 35 3))
  | 2, 6 => some (.pmov h (pdst w) (w.extractLsb' 35 3))
  | 2, 7 => some (.fcmp h (w.extractLsb' 45 4) (w.extractLsb' 42 3) (opnd w 35) (opnd w 28))
  | 3, 0 => some (.br h (opnd w 42) (w.extractLsb' 40 2) (w.extractLsb' 0 40))
  | 3, 1 => some (.jmp h (opnd w 42) (w.extractLsb' 40 2) (w.extractLsb' 0 40))
  | 3, 2 => some (.call h (w.extractLsb' 40 2) (w.extractLsb' 0 40))
  | 3, 3 => some (.callr h (opnd w 42) (w.extractLsb' 40 2) (w.extractLsb' 0 40))
  | 3, 4 => some (.ret h (w.extractLsb' 40 2))
  | 3, 5 => some (.loop h (opnd w 42) (w.extractLsb' 40 2) (w.extractLsb' 0 40))
  | 3, 6 => some (if 4096 ≤ (w.extractLsb' 0 16).toNat then .trap h (w.extractLsb' 40 2) (w.extractLsb' 0 16) else .gatedServiceCall h (w.extractLsb' 40 2) (w.extractLsb' 0 16))
  | 3, 7 => some (.brk h (w.extractLsb' 40 2) (w.extractLsb' 0 16))
  | 3, 8 => some (.nop h (w.extractLsb' 40 2))
  | 3, 9 => some (.exit h (w.extractLsb' 40 2))
  | 3, 10 => some (.uret h (w.extractLsb' 40 2))
  | 4, 0 => some (.ld h (opnd w 42) (opnd w 35) (decM4 w))
  | 4, 1 => some (.st h (opnd w 42) (opnd w 35) (decM4 w))
  | 4, 2 => some (.pf h (opnd w 35) (decM4 w))
  | 4, 3 => some (.fence h (w.extractLsb' 42 4) (decM4 w))
  | 4, 4 => some (.ifence h (decM4 w))
  | 4, 5 => some (.icsync h (decM4 w))
  | 5, 0 => some (.atom h (opnd w 42) (opnd w 35) (opnd w 28) (decM5 w))
  | 5, 1 => some (.ldfe h (opnd w 42) (opnd w 35) (decM5 w))
  | 5, 2 => some (.stfe h (opnd w 35) (opnd w 28) (decM5 w))
  | 5, 3 => some (.fset h (opnd w 42) (opnd w 35) (decM5 w))
  | 5, 4 => some (.fget h (opnd w 42) (opnd w 35) (decM5 w))
  | 5, 5 => some (.waita h (opnd w 42) (opnd w 35) (opnd w 28) (decM5 w))
  | 5, 6 => some (.mon h (opnd w 42) (opnd w 35) (decM5 w))
  | 5, 7 => some (.monrel h (opnd w 35) (opnd w 28) (decM5 w))
  | 5, 8 => some (.time h (opnd w 42) (decM5 w))
  | 5, 9 => some (.sleep h (opnd w 42) (opnd w 35) (decM5 w))
  | 5, 10 => some (.yield h (decM5 w))
  | 6, 0 => some (.vadd h (w.extractLsb' 45 4) (w.extractLsb' 41 4) (w.extractLsb' 37 4) (opnd w 26) (decM6 w))
  | 6, 1 => some (.vsub h (w.extractLsb' 45 4) (w.extractLsb' 41 4) (w.extractLsb' 37 4) (opnd w 26) (decM6 w))
  | 6, 2 => some (.vmul h (w.extractLsb' 45 4) (w.extractLsb' 41 4) (w.extractLsb' 37 4) (opnd w 26) (decM6 w))
  | 6, 3 => some (.vfma h (w.extractLsb' 45 4) (w.extractLsb' 41 4) (w.extractLsb' 37 4) (w.extractLsb' 33 4) (opnd w 26) (decM6 w))
  | 6, 4 => some (.vmin h (w.extractLsb' 45 4) (w.extractLsb' 41 4) (w.extractLsb' 37 4) (opnd w 26) (decM6 w))
  | 6, 5 => some (.vmax h (w.extractLsb' 45 4) (w.extractLsb' 41 4) (w.extractLsb' 37 4) (opnd w 26) (decM6 w))
  | 6, 6 => some (.vabs h (w.extractLsb' 45 4) (w.extractLsb' 41 4) (decM6 w))
  | 6, 7 => some (.vneg h (w.extractLsb' 45 4) (w.extractLsb' 41 4) (decM6 w))
  | 6, 8 => some (.vexp2 h (w.extractLsb' 45 4) (w.extractLsb' 41 4) (decM6 w))
  | 6, 9 => some (.vlog2 h (w.extractLsb' 45 4) (w.extractLsb' 41 4) (decM6 w))
  | 6, 10 => some (.vrcp h (w.extractLsb' 45 4) (w.extractLsb' 41 4) (decM6 w))
  | 6, 11 => some (.vrsq h (w.extractLsb' 45 4) (w.extractLsb' 41 4) (decM6 w))
  | 6, 12 => some (.vand h (w.extractLsb' 45 4) (w.extractLsb' 41 4) (w.extractLsb' 37 4) (opnd w 26) (decM6 w))
  | 6, 13 => some (.vor h (w.extractLsb' 45 4) (w.extractLsb' 41 4) (w.extractLsb' 37 4) (opnd w 26) (decM6 w))
  | 6, 14 => some (.vxor h (w.extractLsb' 45 4) (w.extractLsb' 41 4) (w.extractLsb' 37 4) (opnd w 26) (decM6 w))
  | 6, 15 => some (.vsh h (w.extractLsb' 45 4) (w.extractLsb' 41 4) (w.extractLsb' 37 4) (opnd w 26) (decM6 w))
  | 6, 16 => some (.vcmp h (w.extractLsb' 45 4) (w.extractLsb' 41 4) (w.extractLsb' 37 4) (opnd w 26) (decM6 w))
  | 6, 17 => some (.vsel h (w.extractLsb' 45 4) (w.extractLsb' 41 4) (w.extractLsb' 37 4) (w.extractLsb' 33 4) (opnd w 26) (decM6 w))
  | 6, 18 => some (.vred h (w.extractLsb' 41 4) (opnd w 26) (decM6 w))
  | 6, 19 => some (.vbcast h (w.extractLsb' 45 4) (opnd w 26) (decM6 w))
  | 6, 20 => some (.vperm h (w.extractLsb' 45 4) (w.extractLsb' 41 4) (w.extractLsb' 37 4) (opnd w 26) (decM6 w))
  | 6, 21 => some (.vcvt h (w.extractLsb' 45 4) (w.extractLsb' 41 4) (opnd w 26) (decM6 w))
  | 6, 22 => some (.vscale h (w.extractLsb' 45 4) (w.extractLsb' 41 4) (w.extractLsb' 37 4) (opnd w 26) (decM6 w))
  | 6, 23 => some (.vmov h (w.extractLsb' 45 4) (w.extractLsb' 41 4) (decM6 w))
  | 7, 0 => some (.setshape h (opnd w 42) (opnd w 35) (opnd w 28))
  | 7, 1 => some (.vld h (w.extractLsb' 45 4) (opnd w 26) (decM7 w))
  | 7, 2 => some (.vst h (w.extractLsb' 45 4) (opnd w 26) (decM7 w))
  | 7, 3 => some (.vgather h (w.extractLsb' 45 4) (w.extractLsb' 41 4) (opnd w 26) (decM7 w))
  | 7, 4 => some (.vscatter h (w.extractLsb' 45 4) (w.extractLsb' 41 4) (opnd w 26) (decM7 w))
  | 7, 5 => some (.vact h (opnd w 42) (opnd w 35) (opnd w 28))
  | 8, 0 => some (.oclaim h (opnd w 33) (opnd w 26) (decM8 w))
  | 8, 1 => some (.orel h (opnd w 33) (opnd w 26) (decM8 w))
  | 8, 2 => some (.tld h (w.extractLsb' 43 3) (opnd w 33) (opnd w 26) (w.extractLsb' 16 4) (decM8 w))
  | 8, 3 => some (.tfill h (w.extractLsb' 43 3) (opnd w 33) (opnd w 26) (w.extractLsb' 20 6) (w.extractLsb' 16 4) (decM8 w))
  | 8, 4 => some (.mzero h (w.extractLsb' 46 3) (decM8 w))
  | 8, 5 => some (.manch h (w.extractLsb' 46 3) (opnd w 33) (decM8 w))
  | 8, 6 => some (.mma h (w.extractLsb' 46 3) (w.extractLsb' 43 3) (w.extractLsb' 40 3) (decM8 w))
  | 8, 7 => some (.mdrain h (w.extractLsb' 46 3) (opnd w 33) (opnd w 26) (decM8 w))
  | 8, 8 => some (.rowout h (w.extractLsb' 43 3) (opnd w 33) (opnd w 26) (w.extractLsb' 16 4) (decM8 w))
  | 8, 9 => some (.rowend h (decM8 w))
  | 8, 10 => some (.mstat h (w.extractLsb' 46 3) (opnd w 33) (opnd w 26) (decM8 w))
  | 9, 0 => some (.sld h (opnd w 33) (w.extractLsb' 20 6) (decM8 w))
  | 9, 1 => some (.sst h (opnd w 33) (w.extractLsb' 20 6) (decM8 w))
  | 9, 2 => some (.sadd h (opnd w 33) (w.extractLsb' 20 6) (decM8 w))
  | 9, 3 => some (.smax h (opnd w 33) (w.extractLsb' 20 6) (decM8 w))
  | 9, 4 => some (.smin h (opnd w 33) (w.extractLsb' 20 6) (decM8 w))
  | 9, 5 => some (.sreblk h (opnd w 33) (w.extractLsb' 20 6) (decM8 w))
  | 9, 6 => some (.smov h (w.extractLsb' 43 3) (w.extractLsb' 20 6) (decM8 w))
  | 9, 7 => some (.sbind h (w.extractLsb' 43 3) (opnd w 33) (w.extractLsb' 20 6) (decM8 w))
  | 9, 8 => some (.squery h (w.extractLsb' 43 3) (opnd w 26) (decM8 w))
  | 9, 9 => some (.sfree h (w.extractLsb' 20 6) (decM8 w))
  | 9, 10 => some (.sset h (opnd w 33) (w.extractLsb' 20 6) (decM8 w))
  | 10, 0 => some (.fork h (opnd w 35) (opnd w 28) (w.getLsbD 0))
  | 10, 1 => some (.tend h (w.getLsbD 0))
  | 10, 2 => some (.joinw h (opnd w 35) (w.getLsbD 0))
  | 10, 3 => some (.barr h (opnd w 42) (opnd w 35) (w.getLsbD 0))
  | 10, 4 => some (.bwait h (opnd w 35) (w.getLsbD 0))
  | 10, 5 => some (.bmiss h (opnd w 42) (opnd w 35) (opnd w 28) (w.getLsbD 0))
  | 10, 6 => some (.bcfg h (opnd w 35) (opnd w 28) (w.getLsbD 0))
  | 10, 7 => some (.migrate h (opnd w 35) (w.getLsbD 0))
  | 10, 8 => some (.nomad h (w.getLsbD 0))
  | 10, 9 => some (.homeq h (opnd w 42) (opnd w 35) (w.getLsbD 0))
  | 11, 0 => some (.xfer h (opnd w 35) (opnd w 28) (decMB w))
  | 11, 1 => some (.shadow h (opnd w 42) (opnd w 35) (opnd w 28) (decMB w))
  | 11, 2 => some (.publish h (opnd w 42) (opnd w 35) (decMB w))
  | 11, 3 => some (.npost h (opnd w 35) (decMB w))
  | 11, 4 => some (.nrecv h (opnd w 35) (decMB w))
  | 11, 5 => some (.launch h (opnd w 42) (opnd w 35) (opnd w 28) (decMB w))
  | 11, 6 => some (.lwait h (opnd w 42) (opnd w 35) (decMB w))
  | 11, 7 => some (.lstat h (opnd w 42) (opnd w 35) (decMB w))
  | 11, 8 => some (.cmsg h (opnd w 42) (opnd w 35) (opnd w 28) (decMB w))
  | 11, 9 => some (.mrecv h (opnd w 42) (opnd w 35) (decMB w))
  | 12, 0 => some (.stepcfg h (opnd w 42) (opnd w 35) (decMC w))
  | 12, 1 => some (.stepend h (opnd w 42) (decMC w))
  | 12, 2 => some (.ldstep h (opnd w 42) (opnd w 35) (opnd w 28) (decMC w))
  | 12, 3 => some (.stepaddr h (opnd w 42) (opnd w 28) (decMC w))
  | 12, 4 => some (.stepq h (opnd w 42) (opnd w 35) (decMC w))
  | 12, 5 => some (.cut h (opnd w 42) (opnd w 35) (opnd w 28) (decMC w))
  | 13, 0 => some (.mfcr h (opnd w 42) (decMD w).crn (decMD w).rest)
  | 13, 1 => some (.mtcr h (opnd w 42) (opnd w 35) (decMD w).crn (decMD w).rest)
  | 13, 2 => some (.eret h (decMD w))
  | 13, 3 => some (.tsave h (opnd w 42) (opnd w 35) (opnd w 28) (decMD w))
  | 13, 4 => some (.tload h (opnd w 42) (opnd w 35) (opnd w 28) (decMD w))
  | 13, 5 => some (.tswap h (opnd w 42) (opnd w 35) (opnd w 28) (decMD w))
  | 13, 6 => some (.repart h (opnd w 42) (opnd w 35) (decMD w))
  | 13, 7 => some (.tlbinv h (opnd w 42) (opnd w 35) (opnd w 28) (decMD w))
  | 13, 8 => some (.cacheop h (opnd w 42) (opnd w 35) (opnd w 28) (decMD w))
  | 13, 9 => some (.sigpost h (opnd w 42) (opnd w 35) (opnd w 28) (decMD w))
  | 14, 0 => some (.ctxnew h (opnd w 42) (opnd w 35))
  | 14, 1 => some (.ctxgrant h (opnd w 42) (opnd w 35) (opnd w 28))
  | 14, 2 => some (.ctxrevoke h (opnd w 42) (opnd w 35) (opnd w 28))
  | 14, 3 => some (.ctxrun h (opnd w 42) (opnd w 35))
  | 14, 4 => some (.ctxstop h (opnd w 42) (opnd w 35))
  | 14, 5 => some (.ctxevt h (opnd w 42) (opnd w 35) (opnd w 28))
  | 14, 6 => some (.ctxreset h (opnd w 42) (opnd w 35) (opnd w 28))
  | 14, 7 => some (.ctxfree h (opnd w 42) (opnd w 35))
  | 14, 8 => some (.ctxstat h (opnd w 42) (opnd w 35) (opnd w 28))
  | _, _ => none

/-- The bytecode that the opcode of `w` names, with its fields as they stand in `w` and in the second word `v`. -/
def candidateT (w v : Lane) : Option Instr :=
  match (w.extractLsb' 24 8).toNat with
  | 0 => some (.tNop )
  | 1 => some (.tMove (w.extractLsb' 16 8) (w.extractLsb' 8 8))
  | 2 => some (.tLoadk (w.extractLsb' 16 8) (w.extractLsb' 0 16))
  | 3 => some (.tLoadi (w.extractLsb' 16 8) (w.extractLsb' 0 16))
  | 4 => some (.tLoadc (w.extractLsb' 16 8) (w.extractLsb' 8 8))
  | 5 => some (.tGetg (w.extractLsb' 16 8) (w.extractLsb' 8 8) (v.extractLsb' 0 16) (v.extractLsb' 16 8))
  | 6 => some (.tSetg (w.extractLsb' 16 8) (w.extractLsb' 8 8) (v.extractLsb' 0 16) (v.extractLsb' 16 8))
  | 7 => some (.tGetattr (w.extractLsb' 16 8) (w.extractLsb' 8 8) (w.extractLsb' 0 8) (v.extractLsb' 0 16) (v.extractLsb' 16 8))
  | 8 => some (.tSetattr (w.extractLsb' 16 8) (w.extractLsb' 8 8) (w.extractLsb' 0 8) (v.extractLsb' 0 16) (v.extractLsb' 16 8))
  | 9 => some (.tGetitem (w.extractLsb' 16 8) (w.extractLsb' 8 8) (w.extractLsb' 0 8))
  | 10 => some (.tSetitem (w.extractLsb' 16 8) (w.extractLsb' 8 8) (w.extractLsb' 0 8))
  | 11 => some (.tBinop (w.extractLsb' 16 8) (w.extractLsb' 8 8) (w.extractLsb' 0 8) (v.extractLsb' 0 16) (v.extractLsb' 16 8))
  | 12 => some (.tUnop (w.extractLsb' 16 8) (w.extractLsb' 8 8) (v.extractLsb' 0 16) (v.extractLsb' 16 8))
  | 13 => some (.tCompare (w.extractLsb' 16 8) (w.extractLsb' 8 8) (w.extractLsb' 0 8) (v.extractLsb' 0 16) (v.extractLsb' 16 8))
  | 14 => some (.tJmp (w.extractLsb' 0 24))
  | 15 => some (.tJt (w.extractLsb' 16 8) (w.extractLsb' 0 16))
  | 16 => some (.tJf (w.extractLsb' 16 8) (w.extractLsb' 0 16))
  | 17 => some (.tCall (w.extractLsb' 16 8) (w.extractLsb' 8 8) (v.extractLsb' 0 16))
  | 18 => some (.tCallm (w.extractLsb' 16 8) (w.extractLsb' 8 8) (w.extractLsb' 0 8) (v.extractLsb' 0 16))
  | 19 => some (.tRet (w.extractLsb' 16 8))
  | 20 => some (.tMkarr (w.extractLsb' 16 8) (w.extractLsb' 8 8) (w.extractLsb' 0 8))
  | 21 => some (.tMkmap (w.extractLsb' 16 8) (w.extractLsb' 8 8))
  | 22 => some (.tMkfunc (w.extractLsb' 16 8) (w.extractLsb' 8 8) (w.extractLsb' 0 8))
  | 23 => some (.tGetcell (w.extractLsb' 16 8) (w.extractLsb' 8 8))
  | 24 => some (.tSetcell (w.extractLsb' 16 8) (w.extractLsb' 8 8))
  | 25 => some (.tForprep (w.extractLsb' 16 8) (w.extractLsb' 0 16))
  | 26 => some (.tForloop (w.extractLsb' 16 8) (w.extractLsb' 0 16))
  | 27 => some (.tIter (w.extractLsb' 16 8) (w.extractLsb' 8 8))
  | 28 => some (.tNext (w.extractLsb' 16 8) (w.extractLsb' 0 16))
  | 29 => some (.tRaise (w.extractLsb' 16 8))
  | 30 => some (.tTryb (w.extractLsb' 16 8) (w.extractLsb' 0 16))
  | 31 => some (.tTryend (w.extractLsb' 16 8))
  | 32 => some (.tImport (w.extractLsb' 16 8) (w.extractLsb' 8 8))
  | 33 => some (.tNative (w.extractLsb' 16 8) (w.extractLsb' 8 8) (w.extractLsb' 0 8))
  | 34 => some (.tAwait (w.extractLsb' 16 8))
  | 35 => some (.tDel (w.extractLsb' 16 8))
  | 36 => some (.tLen (w.extractLsb' 16 8) (w.extractLsb' 8 8))
  | 37 => some (.tIsinst (w.extractLsb' 16 8) (w.extractLsb' 8 8) (w.extractLsb' 0 8))
  | 38 => some (.tHalt (w.extractLsb' 16 8))
  | _ => none

/-- Accept a candidate that is well formed and whose own encoding is `c`. -/
def accept (c : Code) : Option Instr → Except DecodeError Instr
  | none => .error .unassigned
  | some i => if encode i = c then (if i.wf then .ok i else .error .reservedValue) else .error .reservedBits

/-- Decode a native word (R141). The never word is not decoded: see `isNever`. -/
def decodeNative (w : Word) : Except DecodeError Instr := accept (.native w) (candidate w)

/-- An opcode that takes a second word (R282). -/
def icBearing (w : Lane) : Bool :=
  decide ((w.extractLsb' 24 8).toNat ∈ [0x05, 0x06, 0x07, 0x08, 0x0B, 0x0C, 0x0D, 0x11, 0x12])

/-- Decode a bytecode from its word and the word after it, which only an IC-bearing opcode takes (R282, R283). -/
def decodeTephra (w v : Lane) : Except DecodeError Instr :=
  accept (if icBearing w then .byte2 w v else .byte1 w) (candidateT w v)

/-- A value of `n` bytes from its bytes, the first the least significant (R2). -/
def fromBytes : List Byte → Nat
  | [] => 0
  | b :: bs => b.toNat + 256 * fromBytes bs

/-- The `n` bytes of a value, least significant first (R2). -/
def toBytes : Nat → Nat → List Byte
  | 0, _ => []
  | n + 1, v => BitVec.ofNat 8 v :: toBytes n (v / 256)

/-- Decode the instruction at the head of a list of bytes: a bytecode in Tephra mode, a native word otherwise. -/
def decodeBytes (tephra : Bool) (bs : List Byte) : Except DecodeError Instr :=
  if tephra then
    decodeTephra (BitVec.ofNat 32 (fromBytes (bs.take 4))) (BitVec.ofNat 32 (fromBytes ((bs.drop 4).take 4)))
  else decodeNative (BitVec.ofNat 64 (fromBytes (bs.take 8)))

/-- The bytes an instruction occupies in memory; none for an event. -/
def encodeBytes (i : Instr) : List Byte :=
  match encode i with
  | .native w => toBytes 8 w.toNat
  | .byte1 w => toBytes 4 w.toNat
  | .byte2 w v => toBytes 4 w.toNat ++ toBytes 4 v.toNat
  | .event => []

/-- The table gives a bytecode 32 bits and a native word 64. The bits above `nbits` are zero. -/
def tableBytes (nbits w : Nat) : List Byte := toBytes 8 (w % 2 ^ nbits)

/-- A table row of at most 32 bits is a bytecode. -/
def tableTephra (nbits : Nat) : Bool := nbits ≤ 32

/-- The instruction that the decoder reads from a row of the opcode table. -/
def decodeTableWord (nbits w : Nat) : Option Instr :=
  match decodeBytes (tableTephra nbits) (tableBytes nbits w) with
  | .ok i => some i
  | .error _ => none

end Sys2Proof
end

