-- ==== Sys2Proof/Machine/Digest.lean ====
section
/-! DEFINITION. SHAKE256, the digest of a firmware image and of a configuration record (R421, R423). The spec names the function;
its definition is that of FIPS 202 (log 79): the Keccak permutation on 25 lanes of 64 bits, lane x + 5y at column x and row y. -/

namespace Sys2Proof.Machine

/-- Lane `i` of a Keccak state. -/
def lane (a : List Word) (i : Nat) : Word := a.getD i 0

/-- Theta: each lane takes the parity of two columns. -/
def keccakTheta (a : List Word) : List Word :=
  let c := (List.range 5).map fun x => lane a x ^^^ lane a (x + 5) ^^^ lane a (x + 10) ^^^ lane a (x + 15) ^^^ lane a (x + 20)
  let d := (List.range 5).map fun x => lane c ((x + 4) % 5) ^^^ (lane c ((x + 1) % 5)).rotateLeft 1
  (List.range 25).map fun i => lane a i ^^^ lane d (i % 5)

/-- By how much rho rotates each lane. -/
def keccakOffsets : List Nat :=
  [0, 1, 62, 28, 27, 36, 44, 6, 55, 20, 3, 10, 43, 25, 39, 41, 45, 15, 21, 8, 18, 2, 61, 56, 14]

/-- Rho and pi: the lane at column x and row y is rotated, and goes to column y and row 2x + 3y. -/
def keccakRhoPi (a : List Word) : List Word :=
  (List.range 25).map fun i =>
    let x := (i % 5 + 3 * (i / 5)) % 5
    let y := i % 5
    (lane a (x + 5 * y)).rotateLeft (keccakOffsets.getD (x + 5 * y) 0)

/-- Chi: each lane takes what its two neighbours in the row leave. -/
def keccakChi (a : List Word) : List Word :=
  (List.range 25).map fun i =>
    let row := i / 5 * 5
    lane a i ^^^ (~~~lane a (row + (i + 1) % 5) &&& lane a (row + (i + 2) % 5))

/-- The constants of the 24 rounds. -/
def keccakRounds : List Word :=
  [0x0000000000000001, 0x0000000000008082, 0x800000000000808A, 0x8000000080008000, 0x000000000000808B, 0x0000000080000001,
    0x8000000080008081, 0x8000000000008009, 0x000000000000008A, 0x0000000000000088, 0x0000000080008009, 0x000000008000000A,
    0x000000008000808B, 0x800000000000008B, 0x8000000000008089, 0x8000000000008003, 0x8000000000008002, 0x8000000000000080,
    0x000000000000800A, 0x800000008000000A, 0x8000000080008081, 0x8000000000008080, 0x0000000080000001, 0x8000000080008008]

/-- One round: iota puts its constant into lane 0. -/
def keccakRound (a : List Word) (k : Word) : List Word :=
  match keccakChi (keccakRhoPi (keccakTheta a)) with
  | [] => []
  | l :: r => (l ^^^ k) :: r

/-- The permutation. -/
def keccak (a : List Word) : List Word := keccakRounds.foldl keccakRound a

/-- Bytes that a block of SHAKE256 holds. -/
abbrev shakeRate : Nat := 136

/-- Eight bytes of a block, the first one the least significant. -/
def blockLane (bs : List Byte) (i : Nat) : Word := BitVec.ofNat 64 (fromBytes ((bs.drop (8 * i)).take 8))

/-- A block is taken in. -/
def absorb (a : List Word) (bs : List Byte) : List Word :=
  keccak ((List.range 25).map fun i => if i < 17 then lane a i ^^^ blockLane bs i else lane a i)

/-- A string of bytes padded to whole blocks: 0x1F after its last byte, and bit 7 of the last block's last byte. -/
def shakePad (bs : List Byte) : List Byte :=
  let z := shakeRate - 1 - bs.length % shakeRate
  bs ++ if z = 0 then [0x9F] else 0x1F :: (List.replicate (z - 1) 0 ++ [0x80])

/-- The blocks of a padded string, `n` of them. -/
def absorbAll : Nat → List Byte → List Word → List Word
  | 0, _, a => a
  | n + 1, bs, a => absorbAll n (bs.drop shakeRate) (absorb a (bs.take shakeRate))

/-- The SHAKE256-512 digest of a string of bytes: 64 bytes. -/
def digestOf (bs : List Byte) : List Byte :=
  let p := shakePad bs
  ((absorbAll (p.length / shakeRate) p (List.replicate 25 0)).take 8).flatMap fun w => toBytes 8 w.toNat

end Sys2Proof.Machine
end

