-- ==== Sys2Proof/Config.lean ====
section
/-! DEFINITION. What one module fixes (the part, R9 to R12) and the free values: results that the spec leaves open are
constants without a body, so that nothing can be proved of the value they hold. -/

namespace Sys2Proof

/-- The three variants (R9). -/
inductive Part where
  | af880
  | af860
  | af840
  deriving DecidableEq, Repr

namespace Config

/-- FEAT of each variant (R11). -/
def feat : Part → Word
  | .af880 => 0x000000001010404F
  | .af860 => 0x000000001008404E
  | .af840 => 0x0000000010084028

/-- REV of each variant, first stepping (R12). -/
def rev : Part → Word
  | .af880 => 0x0000000000010000
  | .af860 => 0x0000000001010000
  | .af840 => 0x0000000002010000

/-- Barrel cores present (R9). -/
def cores : Part → Nat
  | .af840 => 160
  | _ => 320

/-- Bytes of HBM4E present (R14, R97): STACKS times 48 GiB. -/
def hbmBytes : Part → Nat
  | .af880 => 16 * 0xC00000000
  | _ => 8 * 0xC00000000

/-- log2 of the number of home agents (R100). -/
def agentBits : Part → Nat
  | .af880 => 9
  | _ => 8

/-- The Geyser engine is present. -/
def geyser : Part → Bool
  | .af880 => true
  | _ => false

/-- The Cinder codec is present. -/
def cinder : Part → Bool
  | .af840 => false
  | _ => true

/-- FEAT.VROWS. -/
def vrows : Part → Nat
  | .af840 => 2
  | _ => 4

/-- FEAT.VLANES. -/
def vlanes (_ : Part) : Nat := 64

/-- Free value: which of two unspecified outcomes comes about (R25, R27, R358), at the given count and index. -/
opaque freeBit : Nat → Nat → Bool

/-- Free value: a byte that the spec does not state, at the given count and index. -/
opaque freeByte : Nat → Nat → BitVec 8

/-- Free value: a number that the spec does not state, at the given count. -/
opaque freeNat : Nat → Nat

/-- Free value: a result of vexp2, vlog2, vrcp or vrsq (function number, operand) that is not exact is the upper of
its two neighbours when this is true, the lower otherwise (R92). -/
opaque approxUp : Nat → BitVec 32 → Bool

/-- Free value: such a result is the value below the smaller neighbour, where that too lies within 1 ulp (R92). -/
opaque approxBelow : Nat → BitVec 32 → Bool

/-- Free value: whether a translation uses a cached entry that a store has made stale (R377), at the given count and
virtual address. -/
opaque useStale : Nat → Nat → Bool

/-- Free value: which of the agents that may act next does act, when the state's `sched` says nothing. -/
opaque nextAgent : Nat → Nat

/-- Free value: whether the Falcon-1024 signature of a firmware image verifies against the key whose digest the ROM holds (R421
step 1). Where an image holds its signature and the key is not stated. -/
opaque imageSigned : List (BitVec 8) → Bool

/-- Free value: whether a configuration record verifies against an operator key that the image lists (R421 step 3), given the
image and the record. -/
opaque recordSigned : List (BitVec 8) → List (BitVec 8) → Bool

/-- Free value: byte `i` of the public key of the pair that a die derives, always the same (R421 step 2). -/
opaque identityByte : Nat → BitVec 8

/-- Free value: byte `i` of a Falcon-1024 signature by the identity key over a string of bytes, at the given count (R423). -/
opaque signByte : List (BitVec 8) → Nat → Nat → BitVec 8

end Config

end Sys2Proof
end

