-- ==== Sys2Proof/Machine/Flags.lean ====
section
/-! DEFINITION. The bits of FLAGS and WARN (R60, R61), saturation (R66, R149), and the integer functions that set a
flag (R149, R150). A flag computation answers the value with the bits that it sets. -/

namespace Sys2Proof.Machine

/-- Inexact. -/
abbrev fNX : Word := 0x01
/-- Underflow. -/
abbrev fUF : Word := 0x02
/-- Overflow. -/
abbrev fOF : Word := 0x04
/-- Division by zero. -/
abbrev fDZ : Word := 0x08
/-- Invalid operation, or NaN converted. -/
abbrev fNV : Word := 0x10
/-- A saturating operation clamped. -/
abbrev fSAT : Word := 0x20
/-- Accumulator truncated below its window. -/
abbrev fACCLOW : Word := 0x40
/-- Accumulator saturated. -/
abbrev fACCHIGH : Word := 0x80

/-- W_EARLY (R25). -/
abbrev wEARLY : Word := 0x1
/-- W_MODFALL (R145). -/
abbrev wMODFALL : Word := 0x2
/-- W_SHAPE (R174). -/
abbrev wSHAPE : Word := 0x4
/-- W_STALESKEW (R255). -/
abbrev wSTALESKEW : Word := 0x8

/-- A value with the FLAGS bits that computing it sets. -/
abbrev Flagged (α : Type) := α × Word

/-- The flag bits `f` when the condition holds. -/
def flagIf (c : Bool) (f : Word) : Word := if c then f else 0

/-- The rounding mode of an instruction (R73): its RND field, or FLAGS.RM for .dyn. -/
def rmode (rnd : BitVec 3) (flags : Word) : Nat := if rnd = 4 then (flags.toNat >>> 8) % 4 else rnd.toNat

/-- An exact integer clamped to `[lo, hi]`, with SAT when it clamps (R66). -/
def clamp (lo hi v : Int) : Flagged Int :=
  if hi < v then (hi, fSAT) else if v < lo then (lo, fSAT) else (v, 0)

/-- An exact signed result of `add`, `sub` or `mul`: clamped with .sat, wrapped without (R149). -/
def satWord (sat : Bool) (v : Int) : Flagged Word :=
  if sat then ((BitVec.ofInt 64 (clamp (-2 ^ 63) (2 ^ 63 - 1) v).1), (clamp (-2 ^ 63) (2 ^ 63 - 1) v).2)
  else (BitVec.ofInt 64 v, 0)

/-- `div` (R150). -/
def divWord (u : Bool) (a b : Word) : Flagged Word :=
  if b = 0 then (0xFFFFFFFFFFFFFFFF, fDZ)
  else if u then (BitVec.ofNat 64 (a.toNat / b.toNat), 0)
  else (BitVec.ofInt 64 (a.toInt.tdiv b.toInt), 0)

/-- `rem` (R150). -/
def remWord (u : Bool) (a b : Word) : Flagged Word :=
  if b = 0 then (a, fDZ)
  else if u then (BitVec.ofNat 64 (a.toNat % b.toNat), 0)
  else (BitVec.ofInt 64 (a.toInt.tmod b.toInt), 0)

end Sys2Proof.Machine
end

