-- ==== Sys2Proof/Machine/Numbers.lean ====
section
/-! DEFINITION. Number formats (R67 to R72), the one rounding procedure of R75 to R77, and floating arithmetic on exact
values (R91 to R93). -/

namespace Sys2Proof.Machine

/-- An exact value: (-1)^neg times (m + a fraction below 1, when `more`) times 2^e, an infinity, or NaN. -/
inductive Val where
  | num (neg : Bool) (m : Nat) (e : Int) (more : Bool)
  | inf (neg : Bool)
  | nan
  deriving DecidableEq, Repr

/-- How a format treats its largest exponent (R67). -/
inductive Top where
  | ieee
  | e4m3
  | e2m1
  deriving DecidableEq, Repr

/-- A floating-point format (R67): width, mantissa bits, bias, the largest finite value maxM times 2^maxQ. -/
structure Fmt where
  width : Nat
  mant : Nat
  bias : Nat
  maxM : Nat
  maxQ : Int
  top : Top
  deriving DecidableEq, Repr

def Fmt.f32 : Fmt := ⟨32, 23, 127, 0xFFFFFF, 104, .ieee⟩
def Fmt.bf16 : Fmt := ⟨16, 7, 127, 0xFF, 120, .ieee⟩
def Fmt.f16 : Fmt := ⟨16, 10, 15, 0x7FF, 5, .ieee⟩
def Fmt.e5m2 : Fmt := ⟨8, 2, 15, 7, 13, .ieee⟩
def Fmt.e4m3 : Fmt := ⟨8, 3, 7, 14, 5, .e4m3⟩
def Fmt.e2m1 : Fmt := ⟨4, 1, 1, 3, 1, .e2m1⟩

/-- The exponent of the smallest subnormal. -/
def Fmt.qmin (f : Fmt) : Int := 1 - (f.bias : Int) - f.mant

/-- The bits of an infinity. -/
def Fmt.infBits (f : Fmt) (neg : Bool) : Nat :=
  (2 ^ (f.width - 1 - f.mant) - 1) * 2 ^ f.mant + if neg then 2 ^ (f.width - 1) else 0

/-- The canonical NaN (R68); E2M1 has none and takes +0 (R76). -/
def Fmt.nanBits (f : Fmt) : Nat :=
  match f.top with
  | .ieee => f.infBits false + 2 ^ (f.mant - 1)
  | .e4m3 => 0x7F
  | .e2m1 => 0

/-- The largest finite value with a sign. -/
def Fmt.maxBits (f : Fmt) (neg : Bool) : Nat :=
  (match f.top with
   | .ieee => f.infBits false - 1
   | .e4m3 => 0x7E
   | .e2m1 => 7) + if neg then 2 ^ (f.width - 1) else 0

/-- The value of an encoding (R67, R68). -/
def Fmt.decode (f : Fmt) (b : Nat) : Val :=
  let neg := b.testBit (f.width - 1)
  let e := b / 2 ^ f.mant % 2 ^ (f.width - 1 - f.mant)
  let m := b % 2 ^ f.mant
  if f.top = .ieee ∧ e = 2 ^ (f.width - 1 - f.mant) - 1 then (if m = 0 then .inf neg else .nan)
  else if f.top = .e4m3 ∧ b % 128 = 127 then .nan
  else if e = 0 then .num neg m f.qmin false
  else .num neg (2 ^ f.mant + m) ((e : Int) - f.bias - f.mant) false

/-- The encoding of a finite magnitude m times 2^q with m at most 2^(mant + 1). -/
def Fmt.encodeFin (f : Fmt) (neg : Bool) (m : Nat) (q : Int) : Nat :=
  let (m, q) := if m = 2 ^ (f.mant + 1) then (m / 2, q + 1) else (m, q)
  let mag := if m < 2 ^ f.mant then m else (q + f.mant + f.bias).toNat * 2 ^ f.mant + (m - 2 ^ f.mant)
  mag + if neg then 2 ^ (f.width - 1) else 0

/-- Round m times 2^e to a multiple of 2^q in a mode of R73: the multiple, and whether it differs from the value. -/
def roundTo (mode : Nat) (neg : Bool) (m : Nat) (e q : Int) (more : Bool) : Nat × Bool :=
  let k := (q - e).toNat
  let base := if q ≤ e then m * 2 ^ (e - q).toNat else m / 2 ^ k
  let rem := if q ≤ e then 0 else m % 2 ^ k
  let above := decide (2 ^ k < 2 * rem) || (decide (2 * rem = 2 ^ k) && more && decide (e < q))
  let tie := decide (2 * rem = 2 ^ k) && !more && decide (e < q)
  let inexact := rem != 0 || more
  let up := match mode with
    | 0 => above || (tie && base % 2 == 1)
    | 1 => false
    | 2 => inexact && !neg
    | _ => inexact && neg
  (base + if up then 1 else 0, inexact)

/-- The number of bits of a magnitude. -/
def bitLen (m : Nat) : Nat := if m = 0 then 0 else Nat.log2 m + 1

/-- m times 2^q is larger than n times 2^r. -/
def magLt (n : Nat) (r : Int) (m : Nat) (q : Int) : Bool :=
  if q ≤ r then decide (n * 2 ^ (r - q).toNat < m) else decide (n < m * 2 ^ (q - r).toNat)

/-- What a finite overflow delivers (R76). -/
def Fmt.overflow (f : Fmt) (mode : Nat) (sat neg : Bool) : Flagged Nat :=
  if f.top ≠ .ieee ∨ sat then (f.maxBits neg, fOF ||| fNX ||| fSAT)
  else
    let toInf := match mode with
      | 0 => true
      | 1 => false
      | 2 => !neg
      | _ => neg
    (if toInf then f.infBits neg else f.maxBits neg, fOF ||| fNX)

/-- Round a value into a format: steps 2 to 4 of R75, with the flags of R74. `sat` is .sat on E5M2. A NaN is delivered
without NV; a conversion adds it. -/
def Fmt.round (f : Fmt) (mode : Nat) (sat : Bool) : Val → Flagged Nat
  | .nan => (f.nanBits, 0)
  | .inf neg => if f.top ≠ .ieee then (f.maxBits neg, fSAT) else (f.infBits neg, 0)
  | .num neg m e more =>
    if m = 0 ∧ !more then (if neg then 2 ^ (f.width - 1) else 0, 0)
    else
      let lead := e + (bitLen m : Int) - 1
      let free := roundTo mode neg m e (lead - f.mant) more
      if magLt f.maxM f.maxQ free.1 (lead - f.mant) then f.overflow mode sat neg
      else
        let q := max (lead - f.mant) f.qmin
        let r := roundTo mode neg m e q more
        let tiny := decide (r.1 < 2 ^ f.mant)
        (f.encodeFin neg r.1 q, flagIf r.2 fNX ||| flagIf (r.2 && tiny) fUF)

/-- Round a value to an integer in `[lo, hi]` (R76, the integer row). -/
def intRound (mode : Nat) (lo hi : Int) : Val → Flagged Int
  | .nan => (0, fNV)
  | .inf neg => (if neg then lo else hi, fSAT)
  | .num neg m e more =>
    let r := roundTo mode neg m e 0 more
    let v : Int := if neg then -(r.1 : Int) else r.1
    let c := clamp lo hi v
    (c.1, c.2 ||| flagIf r.2 fNX)

/-- Conversion into E8M0 (R77). -/
def e8m0Round : Val → Flagged Nat
  | .nan => (0xFF, fNV)
  | .inf _ => (0xFE, fSAT)
  | .num _ m e more =>
    if m = 0 then (0, fSAT ||| fNX)
    else
      let pow := m == 2 ^ (bitLen m - 1) && !more
      let x := e + (bitLen m : Int) - (if pow then 1 else 0)
      if x < -127 then (0, fSAT ||| fNX)
      else if 127 < x then (254, fSAT ||| fNX)
      else ((x + 127).toNat, flagIf (!pow) fNX)

/-- An element type (R71, R72, R137). -/
inductive Ty where
  | flt (f : Fmt)
  | int (signed : Bool) (w : Nat)
  | e8m0
  deriving DecidableEq, Repr

/-- The bits of an element. -/
def Ty.width : Ty → Nat
  | .flt f => f.width
  | .int _ w => w
  | .e8m0 => 8

/-- A type code of R137, continued for TO by R136. -/
def Ty.ofCode : Nat → Ty
  | 0 => .int true 64
  | 1 => .int false 64
  | 2 => .flt .f32
  | 3 => .flt .bf16
  | 4 => .flt .f16
  | 5 => .flt .e4m3
  | 6 => .flt .e5m2
  | 7 => .flt .e2m1
  | 8 => .e8m0
  | 9 => .int true 32
  | 10 => .int true 16
  | 11 => .int true 8
  | _ => .int false 8

/-- A vector element type (R72). -/
def Ty.ofEt : Nat → Ty
  | 0 => .flt .f32
  | 1 => .flt .bf16
  | 2 => .flt .f16
  | 3 => .int true 32
  | 4 => .int true 16
  | 5 => .int true 8
  | _ => .int false 8

/-- A format code (R71), none for raw and Cinder codes. -/
def Ty.ofFmt : Nat → Option Ty
  | 1 => some (.flt .f32)
  | 2 => some (.flt .bf16)
  | 3 => some (.flt .f16)
  | 4 => some (.flt .e4m3)
  | 5 => some (.flt .e5m2)
  | 6 => some (.flt .e2m1)
  | 7 => some (.int true 8)
  | 10 => some (.int false 8)
  | _ => none

/-- The smallest integer of an integer type. -/
def intLo (signed : Bool) (w : Nat) : Int := if signed then -2 ^ (w - 1) else 0
/-- The largest. -/
def intHi (signed : Bool) (w : Nat) : Int := if signed then 2 ^ (w - 1) - 1 else 2 ^ w - 1
/-- An integer element read from its bits. -/
def intOf (signed : Bool) (w b : Nat) : Int :=
  if signed ∧ 2 ^ (w - 1) ≤ b % 2 ^ w then (b % 2 ^ w : Int) - 2 ^ w else (b % 2 ^ w : Int)
/-- The bits of an integer element. -/
def intBits (w : Nat) (v : Int) : Nat := (v % (2 ^ w : Int)).toNat

/-- Decode an element (R75 step 1). -/
def Ty.decode (t : Ty) (b : Nat) : Val :=
  match t with
  | .flt f => f.decode (b % 2 ^ f.width)
  | .int s w => .num (decide (intOf s w b < 0)) (intOf s w b).natAbs 0 false
  | .e8m0 => if b % 256 = 255 then .nan else .num false 1 ((b % 256 : Int) - 127) false

/-- Convert a value into a type (R75 to R77): a NaN sets NV. -/
def Ty.encode (t : Ty) (mode : Nat) (sat : Bool) (v : Val) : Flagged Nat :=
  match t with
  | .flt f => let r := f.round mode (sat && f == .e5m2) v; (r.1, r.2 ||| flagIf (v == .nan) fNV)
  | .int s w => let r := intRound mode (intLo s w) (intHi s w) v; (intBits w r.1, r.2)
  | .e8m0 => e8m0Round v

/-- Convert an element. -/
def convert (src dst : Ty) (mode : Nat) (sat : Bool) (b : Nat) : Flagged Nat := dst.encode mode sat (src.decode b)

/-! ### Arithmetic -/

/-- The sign of an exact sum of zero (log 14): that of the operands when both have it, else + but - in mode RD. -/
def zeroSign (mode : Nat) (na nb : Bool) : Bool := if na = nb then na else mode == 3

/-- The exact sum (R91, R93), in a mode that only the sign of a zero depends on. -/
def Val.add (mode : Nat) : Val → Val → Flagged Val
  | .nan, _ => (.nan, 0)
  | _, .nan => (.nan, 0)
  | .inf a, .inf b => if a = b then (.inf a, 0) else (.nan, fNV)
  | .inf a, _ => (.inf a, 0)
  | _, .inf b => (.inf b, 0)
  | .num na ma ea _, .num nb mb eb _ =>
    let e := min ea eb
    let x : Int := ((ma * 2 ^ (ea - e).toNat : Nat) : Int) * (if na then -1 else 1)
    let y : Int := ((mb * 2 ^ (eb - e).toNat : Nat) : Int) * (if nb then -1 else 1)
    if x + y = 0 then (.num (if ma = 0 ∧ mb = 0 then zeroSign mode na nb else mode == 3) 0 0 false, 0)
    else (.num (decide (x + y < 0)) (x + y).natAbs e false, 0)

/-- The negated value. -/
def Val.neg : Val → Val
  | .nan => .nan
  | .inf n => .inf (!n)
  | .num n m e x => .num (!n) m e x

/-- The exact product. -/
def Val.mul : Val → Val → Flagged Val
  | .nan, _ => (.nan, 0)
  | _, .nan => (.nan, 0)
  | .inf a, .inf b => (.inf (a != b), 0)
  | .inf a, .num b m _ _ => if m = 0 then (.nan, fNV) else (.inf (a != b), 0)
  | .num a m _ _, .inf b => if m = 0 then (.nan, fNV) else (.inf (a != b), 0)
  | .num a ma ea _, .num b mb eb _ => (.num (a != b) (ma * mb) (ea + eb) false, 0)

/-- The exact a times b plus c (R91, R154); a NaN input sets no NV (R93). -/
def Val.fma (mode : Nat) (a b c : Val) : Flagged Val :=
  if a = .nan ∨ b = .nan ∨ c = .nan then (.nan, 0)
  else
    let p := a.mul b
    let r := p.1.add mode c
    (r.1, p.2 ||| r.2)

/-- The quotient, to 64 bits more than a format has (R154). -/
def Val.div : Val → Val → Flagged Val
  | .nan, _ => (.nan, 0)
  | _, .nan => (.nan, 0)
  | .inf _, .inf _ => (.nan, fNV)
  | .inf a, .num b _ _ _ => (.inf (a != b), 0)
  | .num a _ _ _, .inf b => (.num (a != b) 0 0 false, 0)
  | .num a ma ea _, .num b mb eb _ =>
    if mb = 0 then (if ma = 0 then (.nan, fNV) else (.inf (a != b), fDZ))
    else (.num (a != b) (ma * 2 ^ 64 / mb) (ea - eb - 64) (ma * 2 ^ 64 % mb != 0), 0)

/-- The integer square root, from `n` bits down: `r` is the root so far. -/
def isqrtFrom (x : Nat) : Nat → Nat → Nat
  | 0, r => r
  | n + 1, r => if (r + 2 ^ n) * (r + 2 ^ n) ≤ x then isqrtFrom x n (r + 2 ^ n) else isqrtFrom x n r

/-- The integer square root of a number below 2^256. -/
def isqrt (x : Nat) : Nat := isqrtFrom x 128 0

/-- The square root (R154). -/
def Val.sqrt : Val → Flagged Val
  | .nan => (.nan, 0)
  | .inf neg => if neg then (.nan, fNV) else (.inf false, 0)
  | .num neg m e _ =>
    if m = 0 then (.num neg 0 0 false, 0)
    else if neg then (.nan, fNV)
    else
      let k : Nat := if e % 2 = 0 then 80 else 81
      let x := m * 2 ^ k
      let r := isqrt x
      (.num false r ((e - k) / 2) (r * r != x), 0)

/-- A result with flags, rounded into a format: the flags of both. -/
def Fmt.result (f : Fmt) (mode : Nat) (r : Flagged Val) : Flagged Nat :=
  let q := f.round mode false r.1
  (q.1, q.2 ||| r.2)

/-- The order of the non-NaN encodings of a format, with -0 below +0 (R93). -/
def Fmt.key (f : Fmt) (b : Nat) : Int :=
  if b.testBit (f.width - 1) then -((b % 2 ^ (f.width - 1) : Nat) : Int) - 1 else ((b % 2 ^ (f.width - 1) : Nat) : Int)

/-- The order with -0 equal to +0. -/
def Fmt.cmpKey (f : Fmt) (b : Nat) : Int :=
  if b.testBit (f.width - 1) then -((b % 2 ^ (f.width - 1) : Nat) : Int) else ((b % 2 ^ (f.width - 1) : Nat) : Int)

/-- The encoding is a NaN. -/
def Fmt.isNan (f : Fmt) (b : Nat) : Bool := f.decode b == .nan

/-- `vmin`, `vmax`, `fmin`, `fmax` (R93). -/
def Fmt.minmax (f : Fmt) (isMax : Bool) (a b : Nat) : Nat :=
  if f.isNan a then (if f.isNan b then f.nanBits else b)
  else if f.isNan b then a
  else if f.key a ≤ f.key b then (if isMax then b else a) else (if isMax then a else b)

/-- A floating condition of R138. -/
def Fmt.cond (f : Fmt) (c : Nat) (a b : Nat) : Bool :=
  if f.isNan a || f.isNan b then c == 1 || c == 6
  else
    let x := f.cmpKey a
    let y := f.cmpKey b
    match c with
    | 0 => decide (x = y)
    | 1 => decide (x ≠ y)
    | 2 => decide (x < y)
    | 3 => decide (x ≤ y)
    | 4 => decide (y < x)
    | 5 => decide (y ≤ x)
    | 6 => false
    | _ => true

/-- An integer condition of R138, on signed and unsigned readings. -/
def intCond (c : Nat) (sa sb : Int) (ua ub : Nat) : Bool :=
  match c with
  | 0 => decide (ua = ub)
  | 1 => decide (ua ≠ ub)
  | 2 => decide (sa < sb)
  | 3 => decide (sa ≤ sb)
  | 4 => decide (sb < sa)
  | 5 => decide (sb ≤ sa)
  | 6 => decide (ua < ub)
  | 7 => decide (ua ≤ ub)
  | 8 => decide (ub < ua)
  | _ => decide (ub ≤ ua)

/-- a times 2^n (R182), for `vscale`. The exponent is clamped where every format over- or underflows. -/
def Val.scale (v : Val) (n : Int) : Val :=
  match v with
  | .num neg m e more => .num neg m (e + max (-2000) (min 2000 n)) more
  | v => v

/-! ### The approximations of R92 -/

/-- Fixed-point factors 2^(2^-i) to 160 bits, for i from 1 on, by repeated square roots. -/
def expFactor : Nat → Nat
  | 0 => 2 ^ 161
  | i + 1 => isqrtFrom (expFactor i * 2 ^ 160) 162 0

/-- 2^f to 160 bits from below; the fraction f has `n` bits, bit n - 1 first. -/
def exp2Frac (f : Nat) : Nat → Nat → Nat → Nat
  | 0, _, acc => acc
  | n + 1, i, acc => exp2Frac f n (i + 1) (if f.testBit n then acc * expFactor i / 2 ^ 160 else acc)

/-- 2^a. -/
def Val.exp2 : Val → Flagged Val
  | .nan => (.nan, 0)
  | .inf neg => (if neg then .num false 0 0 false else .inf false, 0)
  | .num neg m e _ =>
    if m = 0 then (.num false 1 0 false, 0)
    else
      let cut : Nat := 64
      let v : Int := (if neg then -1 else 1) *
        (if e + (bitLen m : Int) > 20 then (2 : Int) ^ (20 + cut) else
          ((m * 2 ^ (e + cut).toNat / 2 ^ (-(e + cut)).toNat : Nat) : Int))
      let lost := decide (e + (cut : Int) < 0) && m % 2 ^ (-(e + cut)).toNat != 0
      let v := if lost && neg then v - 1 else v
      let n := max (-2000) (min 2000 (v / (2 : Int) ^ cut))
      let f := (v % (2 : Int) ^ cut).toNat
      if f = 0 ∧ !lost then (.num false 1 n false, 0)
      else (.num false (exp2Frac f cut 1 (2 ^ 160)) (n - 160) true, 0)

/-- The first `n` bits of log2 of y / 2^200, y in [2^200, 2^201), by squaring. -/
def log2Frac : Nat → Nat → Nat → Nat
  | 0, _, acc => acc
  | n + 1, y, acc =>
    let z := y * y / 2 ^ 200
    if 2 ^ 201 ≤ z then log2Frac n (z / 2) (2 * acc + 1) else log2Frac n z (2 * acc)

/-- log2 a. -/
def Val.log2 : Val → Flagged Val
  | .nan => (.nan, 0)
  | .inf neg => if neg then (.nan, fNV) else (.inf false, 0)
  | .num neg m e _ =>
    if m = 0 then (.inf true, fDZ)
    else if neg then (.nan, fNV)
    else
      let k := bitLen m - 1
      let i := e + (k : Int)
      if m = 2 ^ k then (.num (decide (i < 0)) i.natAbs 0 false, 0)
      else
        let f := log2Frac 100 (m * 2 ^ 200 / 2 ^ k) 0
        let v : Int := i * 2 ^ 100 + f
        if v < 0 then (.num true (v.natAbs - 1) (-100) true, 0) else (.num false v.natAbs (-100) true, 0)

/-- 1 / a. -/
def Val.rcp : Val → Flagged Val
  | .nan => (.nan, 0)
  | v => Val.div (.num false 1 0 false) v

/-- 1 / √a. -/
def Val.rsq : Val → Flagged Val
  | .nan => (.nan, 0)
  | .inf neg => if neg then (.nan, fNV) else (.num false 0 0 false, 0)
  | .num neg m e _ =>
    if m = 0 then (.inf neg, fDZ)
    else if neg then (.nan, fNV)
    else
      let k : Nat := if e % 2 = 0 then 160 else 161
      let x := 2 ^ k / m
      let r := isqrt x
      (.num false r ((-(e : Int) - k) / 2) (r * r * m != 2 ^ k), 0)

/-- The value next to zero after `c`, when `c` is a power of two, the largest not above the exact magnitude, and nearest
to it: below a power of two the values lie half as far apart, so that this one too is within 1 ulp (R92). -/
def Fmt.below (f : Fmt) (v : Val) : Option Nat :=
  let c := (f.round 1 false v).1
  let mag := c % 2 ^ (f.width - 1)
  if (f.round 2 false v).1 ≠ (f.round 3 false v).1 ∧ (f.round 0 false v).1 = c ∧ mag % 2 ^ f.mant = 0 ∧
      2 * 2 ^ f.mant ≤ mag then some (c - 1)
  else none

/-- A result of function number `fn` that is not exact is one of the values within 1 ulp of the exact one, left open
(R92): one of its two neighbours, or the one that `Fmt.below` names. -/
def Fmt.approx (f : Fmt) (fn : Nat) (a : Nat) (r : Flagged Val) : Flagged Nat :=
  match r.1 with
  | .num _ m e _ =>
    if decide ((f.maxQ + bitLen f.maxM : Int) ≤ e + (bitLen m : Int) - 1) then f.result 0 r
    else
      let up := Config.approxUp fn (BitVec.ofNat 32 a)
      let q := f.round (if up then 2 else 3) false r.1
      let c := match f.below r.1 with
        | some c => if Config.approxBelow fn (BitVec.ofNat 32 a) then c else q.1
        | none => q.1
      (c, q.2 ||| r.2)
  | _ => f.result 0 r

end Sys2Proof.Machine
end

