-- ==== Sys2Proof/Machine/Cinder.lean ====
section
/-! DEFINITION. The Cinder codec (R78 to R82). Bytes are read through their list; a byte beyond it is a free value. -/

namespace Sys2Proof.Machine

/-- The byte at an offset of a Cinder source. -/
def srcByte (fr : Nat) (bs : List Byte) (i : Nat) : Nat := ((bs[i]?).getD (Config.freeByte fr i)).toNat

/-- A bit of the stream that begins at byte `pos`, most significant bit first (R79). -/
def streamBit (fr : Nat) (bs : List Byte) (pos b : Nat) : Bool := (srcByte fr bs (pos + b / 8)).testBit (7 - b % 8)

/-- A run of ones from bit `b`, at most `n`: its length. -/
def onesRun (fr : Nat) (bs : List Byte) (pos : Nat) : Nat → Nat → Nat
  | 0, _ => 0
  | n + 1, b => if streamBit fr bs pos b then onesRun fr bs pos n (b + 1) + 1 else 0

/-- `k` bits from bit `b`, most significant first. -/
def streamBits (fr : Nat) (bs : List Byte) (pos : Nat) : Nat → Nat → Nat
  | 0, _ => 0
  | k + 1, b => (if streamBit fr bs pos b then 2 ^ k else 0) + streamBits fr bs pos k (b + 1)

/-- The byte of an element from its exponent and nibble (R78), and whether it is out of range (R82). -/
def cinderByte (e5 out : Bool) (e nib : Nat) : Nat × Bool :=
  if out || decide ((if e5 then 31 else 15) < e) then (if e5 then 0x7E else 0x7F, true)
  else
    (nib / 8 * 128 + (if e5 then e * 4 + nib / 2 % 4 else e * 8 + nib % 8), false)

/-- The remaining `n` elements of a coded block from stream bit `b`: bytes, out-of-range flag, end bit. -/
def decodeEls (fr : Nat) (bs : List Byte) (e5 : Bool) (pos k base : Nat) : Nat → Nat → List Nat × Bool × Nat
  | 0, b => ([], false, b)
  | n + 1, b =>
    let i := 63 - n
    let q := onesRun fr bs (pos + 33) 32 b
    let low := streamBits fr bs (pos + 33) k (b + q + 1)
    let nb := srcByte fr bs (pos + 1 + i / 2)
    let nib := if i % 2 = 0 then nb % 16 else nb / 16
    let x := cinderByte e5 (q == 32) (base + q * 2 ^ k + low) nib
    let r := decodeEls fr bs e5 pos k base n (b + q + 1 + k)
    (x.1 :: r.1, x.2 || r.2.1, r.2.2)

/-- One block: its 64 bytes, the out-of-range flag and the position after it. -/
def decodeBlock (fr : Nat) (bs : List Byte) (e5 : Bool) (pos : Nat) : List Nat × Bool × Nat :=
  let h := srcByte fr bs pos
  if 128 ≤ h then ((List.range 64).map fun i => srcByte fr bs (pos + 1 + i), false, pos + 65)
  else
    let r := decodeEls fr bs e5 pos (h / 32 % 4) (h % 32) 64 0
    (r.1, r.2.1, pos + 33 + (r.2.2 + 7) / 8)

/-- `n` blocks one after another. -/
def decodeBlocks (fr : Nat) (bs : List Byte) (e5 : Bool) : Nat → Nat → List Nat × Bool
  | 0, _ => ([], false)
  | n + 1, pos =>
    let b := decodeBlock fr bs e5 pos
    let r := decodeBlocks fr bs e5 n b.2.2
    (b.1 ++ r.1, b.2.1 || r.2)

/-- A tensor of `g` groups (R81): every group begins where its index word says. -/
def decodeTensor (fr : Nat) (bs : List Byte) (e5 : Bool) (g : Nat) : List Nat × Bool :=
  let gs := (List.range g).map fun i =>
    decodeBlocks fr bs e5 16 ((List.range 4).foldl (fun v j => v + srcByte fr bs (4 * i + j) * 256 ^ j) 0)
  (gs.flatMap (·.1), gs.any (·.2))

/-- The biased exponent of an element. -/
def expOf (e5 : Bool) (b : Nat) : Nat := if e5 then b / 4 % 32 else b / 8 % 16

/-- The nibble of an element. -/
def nibOf (e5 : Bool) (b : Nat) : Nat := b / 128 * 8 + if e5 then b % 4 * 2 else b % 8

/-- Bytes of a coded block at a Rice parameter (R79). -/
def codedLen (ds : List Nat) (k : Nat) : Nat := 33 + (ds.foldl (fun n d => n + d / 2 ^ k + 1 + k) 0 + 7) / 8

/-- The bits of one element's code. -/
def riceBits (k d : Nat) : List Bool :=
  List.replicate (d / 2 ^ k) true ++ [false] ++ ((List.range k).map fun i => (d % 2 ^ k).testBit (k - 1 - i))

/-- Pack bits into bytes, most significant first, zero-padded: `n` bytes. -/
def packBits (bits : List Bool) (n : Nat) : List Byte :=
  (List.range n).map fun i =>
    BitVec.ofNat 8 ((List.range 8).foldl (fun v j => 2 * v + if (bits[8 * i + j]?).getD false then 1 else 0) 0)

/-- The encoder (R80) on the 64 bytes of a block. -/
def encodeBlock (e5 : Bool) (els : List Nat) : List Byte :=
  let base := els.foldl (fun m b => min m (expOf e5 b)) 31
  let ds := els.map fun b => expOf e5 b - base
  let best := (List.range 4).foldl (fun (m : Nat) k => if codedLen ds k < codedLen ds m then k else m) 0
  let len := codedLen ds best
  if 65 < len then 0x80 :: els.map (BitVec.ofNat 8)
  else
    BitVec.ofNat 8 (best * 32 + base) ::
      ((List.range 32).map fun i => BitVec.ofNat 8 (nibOf e5 (els.getD (2 * i) 0) + 16 * nibOf e5 (els.getD (2 * i + 1) 0))) ++
      packBits (ds.flatMap (riceBits best)) (len - 33)

/-- A tensor from its elements (R81): index array, then the groups; the last group is padded with +0. -/
def encodeTensor (e5 : Bool) (els : List Nat) : List Byte :=
  let g := (els.length + 1023) / 1024
  let all := els ++ List.replicate (1024 * g - els.length) 0
  let groups := (List.range g).map fun i =>
    (List.range 16).flatMap fun j => encodeBlock e5 ((all.drop (1024 * i + 64 * j)).take 64)
  let offs := groups.foldl (fun (acc : List Nat × Nat) gr => (acc.1 ++ [acc.2], acc.2 + gr.length)) (([], 4 * g) : List Nat × Nat)
  offs.1.flatMap (toBytes 4) ++ groups.flatten

end Sys2Proof.Machine
end

