-- ==== Sys2Proof/Machine/State.lean ====
section
/-! DEFINITION. The state of one module as plain data: threads, barrel cores, contexts, launches, engines, links and
memory, with the accesses and results that are on their way. Maps are lists of key and value; a key that is not listed
has the default that the docstring names. -/

namespace Sys2Proof.Machine

/-- A map from numbers, with a default for the keys not listed. -/
abbrev Sparse (α : Type) := List (Nat × α)

/-- The homes of R98: a scratchpad bank, an L2 slice, a home agent, an LPDDR port, a CXL port, a peer module, and the
control-and-status registers of a core (R335); and the network interface of a cluster, where barriers are kept (R5). -/
inductive Home where
  | bank (core b : Nat)
  | slice (core : Nat)
  | agent (n : Nat)
  | lpddr (n : Nat)
  | cxl (n : Nat)
  | peer (n : Nat)
  | csr (core : Nat)
  | net (cluster : Nat)
  deriving DecidableEq, Repr

/-- The trap codes of R385. -/
inductive Cause where
  | illegalOp | illegalReg | priv | unitAbsent | align | pageAbsent | prot | writeDup | nested | feTier | scaleStale
  | slotState | linkOvf | linkUnf | stepLost | stepCfg | longLat | poison | service | brk | revoked | stepStall | guard
  | type
  deriving DecidableEq, Repr

/-- A trap to take: its cause and address, and the context whose queue it goes to when the cause fixes one (NESTED
and REVOKED, R360). -/
structure Trap where
  cause : Cause
  addr : Word
  target : Option Nat
  deriving DecidableEq, Repr

/-- A destination that a long result can have (R25, R27). -/
inductive Dst where
  | reg (r : Opnd)
  | pred (p : BitVec 3)
  | vec (v : BitVec 4)
  | slot (n : Nat)
  | tile (n : Nat)
  | scale (n : Nat)
  deriving DecidableEq, Repr

/-- One register write of a result. -/
inductive Write where
  | reg (r : Opnd) (v : Word)
  | pred (p : BitVec 3) (v : Bool)
  | lane (v : BitVec 4) (row lane : Nat) (x : Lane)
  | flags (f : Word)
  | row (o row : Nat) (bytes : List Byte)
  /-- Bytes of a slot from an offset on (R206). -/
  | part (o off : Nat) (bytes : List Byte)
  | loaded (o : Nat)
  | scale (z : Nat) (bytes : List Byte)
  deriving DecidableEq, Repr

/-- How the bytes that a long instruction's accesses bring are turned into its result. -/
inductive Fin where
  /-- Writes known at issue. -/
  | done (ws : List Write)
  /-- `ld` and `ldstep`: size, sign extension (R168). -/
  | load (r : Opnd) (size : Nat) (sx : Bool)
  /-- The 8 bytes of a group 0x5 access. -/
  | word (r : Opnd)
  /-- `monrel`: whether the reservation was held. -/
  | held (p : BitVec 3)
  /-- `vld`, `vgather`: rows and lanes in element order, ET, the format read (R189). -/
  | lanes (v : BitVec 4) (els : List (Nat × Nat)) (et fmt : Nat)
  /-- `tld`: slot, slot format, source format, elements per row, scale register and codes per row (R198, R199). -/
  | slot (o fmt src k : Nat) (scale : Option (Nat × Nat))
  /-- `sld`: register, codes per row, FP32 source (R210). -/
  | scale (z n : Nat) (f32 : Bool)
  /-- `sleep`: NOW reaches the target (R222). -/
  | sleep (target : Word)
  /-- `stepend`: the core begins a step (R253). -/
  | step
  /-- An access of a bytecode, or the read of a descriptor, whose result goes into the thread's trace. -/
  | trace
  deriving DecidableEq, Repr

/-- An outstanding long result (R22 to R25). `need` accesses are still to be performed; `got` holds the bytes they
brought, by offset, `bad` the offsets of those with uncorrectable data; a destination in `dead` keeps the value of a
later instruction (R25). -/
structure Outst where
  id : Nat
  dsts : List Dst
  fin : Fin
  need : Nat
  got : List (Nat × List Byte)
  bad : List Nat
  dead : List Dst
  deriving DecidableEq, Repr

/-- The agents whose accesses the homes keep apart (R113, R117): threads, resident or in an image, transfer engines,
combining nodes, the Geyser engine, the hardware itself and the host, CXL devices, and peer modules. -/
inductive Owner where
  | thread (uid : Nat)
  | image (pa : Nat)
  | engine (core : Nat)
  | node (cluster : Nat)
  | geyser
  | host
  | device
  | peer (n : Nat)
  deriving DecidableEq, Repr

/-- What a wait names: an access or an engine command, and the scope that the access is to be performed to (R118);
scope 6 is performed at its home, and at the device for a CXL window. Scope 7 names a word by its machine address: no agent holds
a reservation on it (R219). -/
abbrev Need := Nat × Nat

/-- An arrival on its way to a barrier of a cluster (R125, R226): of a slot position, or of a core's engine. -/
inductive Signal where
  | slot (key : Nat) (pos : BitVec 528)
  | engine (key core : Nat)
  deriving DecidableEq, Repr

/-- What an access does at its home. -/
inductive AccOp where
  | load
  | store (bytes : List Byte)
  /-- A store to one nibble of a byte (R189). -/
  | storeNib (hi : Bool) (v : BitVec 4)
  | atom (op : Nat) (b d : Word)
  | ldfe (c : Bool)
  | stfe (v : Word)
  | fset (c : Bool)
  | fget
  | waita (cond : Nat) (t : Word)
  | mon
  | monrel (v : Word)
  | prefetch
  /-- Engine operation `cmd`, or the answer to an RMA read of that number, reads a piece of its source; the offset of the
  access is that of the piece. -/
  | payload (cmd : Nat)
  /-- A payload write, of operation `cmd` or of none: its bytes, the leaf that governs its home, whether their source held
  uncorrectable data, and whether only the low nibble of its one byte is written. Its address is that of the tables. -/
  | deposit (cmd : Nat) (bytes : List Byte) (leaf : Word) (bad nib : Bool)
  /-- An arrival, and what it follows of other agents' accesses (R118). -/
  | signal (k : Signal) (after : List Need)
  deriving DecidableEq, Repr

/-- An access that has been issued and not yet performed (R112). `va` and `asid` are those it was translated with; `src`
is its source as the store-arrival log writes it (R129); `core` is the barrel core that its agent is on, none for an agent
that lies in its module and wider only (R117); `pc` where its thread issued it; `sco` is its scope, and `ports` has the moment at
which each egress point of its agent accepted it (R118): 1 core, 2 cluster, 3 die, 4 the UALink or CXL ports. -/
structure Acc where
  id : Nat
  owner : Owner
  asid : Nat
  src : Word
  pc : Word
  core : Option Nat
  ports : List (Nat × Nat)
  out : Nat
  off : Nat
  home : Home
  va : Word
  pa : Nat
  size : Nat
  op : AccOp
  acq : Bool
  rel : Bool
  sco : Nat
  /-- When a CXL access times out (R106). -/
  due : Word
  deriving DecidableEq, Repr

/-- A held reservation, the head of its bank's queue (R219); `age` counts the holder's core cycles since it was
forwarded. -/
structure Resv where
  owner : Owner
  home : Home
  pa : Nat
  age : Nat
  deriving DecidableEq, Repr

/-- A fence that is not yet met (R171): what it waits for, and whether it guards loads and stores. -/
structure Fence where
  needs : List Need
  loads : Bool
  stores : Bool
  deriving DecidableEq, Repr

/-- Why a thread is parked (R28). -/
inductive Park where
  | run
  /-- SW: every outstanding result returns (R24). -/
  | switch
  /-- Sixteen results are outstanding (R23). -/
  | limit
  /-- Sixteen results are outstanding, and the seventeenth instruction, which has passed its checks, acts once one has
  returned: it is issued again. -/
  | room
  /-- Its own result returns. -/
  | own (out : Nat)
  /-- Its results and accesses drain, and the instruction is issued again (R26). -/
  | drain
  /-- The named accesses are performed to their scopes and the named engine commands accepted (R122, R126, R253). -/
  | ids (l : List Need)
  /-- No other agent holds a reservation on these bytes (R219). -/
  | word (pa n : Nat)
  /-- Its accesses to a home are performed (R109, R228). -/
  | homeDone (h : Home)
  /-- A trap whose entry waits for the drain (R26). -/
  | trap (t : Trap) (precise : Bool)
  | sendQueue
  | barrier (n : Nat) (phase : BitVec 32)
  /-- `barr` in a phase that its position has already arrived in (R226). -/
  | arrive (n : Nat) (phase : BitVec 32)
  | launchQueue (q : Nat)
  | launchTable
  | mail
  | inbox (asid : Nat)
  /-- A spill area or a deque with no room (R36). -/
  | deque
  /-- `ldstep`: PD of an edge reaches a step (R254). -/
  | edge (n : Nat) (u : Word)
  | serviceCalls
  /-- A tensor's PENDING, or PENDING and INUSE, at this address (R277). -/
  | tensor (addr : Word) (inuse : Bool)
  /-- Threads that a save waits for (R342, R357, R369). -/
  | threads (l : List Nat)
  /-- Accesses and engine commands that a `tlbinv` or a revocation waits for (R346, R358). -/
  | quiet (accs cmds : List Nat)
  /-- A context instruction in progress, or waiting for its turn on a context (R366). -/
  | pass
  | line (asid : Nat)
  | recvBuffers
  /-- The thread waits on reflection of a trap posted to this context (R360). -/
  | reflected (target : Nat) (t : Trap) (precise : Bool)
  /-- A migration under way to this core (R34). -/
  | moving (core : Nat)
  deriving DecidableEq, Repr

/-- The park of an instruction that has had its issue turn: it goes on afterwards with the operands that it read there (R4, R23,
R33, R254, R311). The other parks after which an instruction is issued again come before its issue turn. -/
def Park.issued : Park → Bool
  | .room => true
  | .arrive _ _ => true
  | .launchQueue _ => true
  | .launchTable => true
  | .mail => true
  | .inbox _ => true
  | .deque => true
  | .edge _ _ => true
  | .serviceCalls => true
  | .threads _ => true
  | .quiet _ _ => true
  | .pass => true
  | .line _ => true
  | .recvBuffers => true
  | .moving _ => true
  | _ => false

/-- What an access that an instruction has made on its way has brought: bytes, and whether they are uncorrectable; or the
number of the outstanding result of one that is still under way. -/
inductive Seen where
  | got (bs : List Byte) (bad : Bool)
  | open (out : Nat)
  deriving DecidableEq, Repr

/-- What a thread was started as (R389). -/
inductive Work where
  | leaf (handle : Word)
  | task (join : Word)
  | row (issuer : Word) (tile row core : Nat)
  | bare
  deriving DecidableEq, Repr

/-- Where a thread is: in its slot of a core, in the run queue of its context for a core, saved by the hardware from a
core (R29, R31, R337, R359, R394), or moving to a core. -/
inductive Place where
  | slot (core : Nat)
  | queue (core : Nat)
  | block (core : Nat)
  | moving (core : Nat)
  deriving DecidableEq, Repr

/-- A thread. Unlisted x registers hold 0; unlisted lanes hold 0 (key 256 v + 64 row + lane). -/
structure Thread where
  asid : Nat
  thread : Nat
  slot : Nat
  cc : Bool
  place : Place
  work : Work
  pc : Word
  x : Sparse Word
  preds : BitVec 8
  v : Sparse Lane
  xPoison : List Nat
  pPoison : List Nat
  vPoison : List Nat
  link : List Word
  spilled : Nat
  vshape : Word
  vact : Word
  flags : Word
  warn : Word
  tcause : Word
  taddr : Word
  tpc : Word
  tstat : Word
  tscr : Word
  nomad : Bool
  tephra : Bool
  guard : Bool
  buf : List (Word × Word)
  outst : List Outst
  park : Park
  parkedAt : Word
  /-- Other values that an instruction keeps over a park and goes on with. -/
  kept : List Word
  /-- The word of the instruction that has had its issue turn and goes on after the park, with the operands it read (R4). -/
  held : Option (Word × List (Opnd × Word))
  mail : List (Word × Word)
  /-- One more than the cycle of its core in which it last issued, 0 when it has not (R18); and the cycle that a `yield`
  lasts to (R222). -/
  last : Nat
  hold : Nat
  cls : Nat
  fences : List Fence
  /-- What the accesses of the bytecode under way, or of a native instruction that reads a descriptor, have brought so
  far, in order: the instruction is issued again with them (R112, R280, R283). -/
  trace : List Seen
  /-- The units of a saved thread, which it takes again with its slot (R391): key (slot n, 8 + tile n, 16 + scale n),
  record word (SLOTREC for a slot, AUTO for a scale register) and bytes as an image holds them. -/
  units : List (Nat × Word × List Byte)
  /-- What the first bytecode of a leaf raises (R260): 1 TYPE, 2 the guard path, 3 the fault of a word of its argument
  block or function object. -/
  startFault : Nat
  deriving DecidableEq, Repr

/-- An operand slot (R53). The owner is a thread's uid; unlisted bytes are 0. -/
structure Slot where
  state : Nat
  owner : Option Nat
  fmt : Nat
  unit : Bool
  z : Nat
  gen : Nat
  blk : Nat
  bytes : Sparse Byte
  poison : Bool
  deriving DecidableEq, Repr

/-- A tile element (R54): class 0 finite, 1 +inf, 2 -inf, 3 NaN. -/
structure Elem where
  cls : Nat
  v : BitVec 128
  deriving DecidableEq, Repr

/-- A tile (R54, R208). `drain` is the handler address, argument, RND, and the issuer's uid and result. -/
structure Tile where
  state : Nat
  owner : Option Nat
  anchor : Int
  set : Bool
  el : Sparse Elem
  low : Bool
  high : Bool
  left : Nat
  read : Bool
  drain : Option (Word × Word × Nat × Nat × Nat)
  poison : Bool
  deriving DecidableEq, Repr

/-- A scale register (R55, R209). Unlisted bytes are 127. -/
structure Scale where
  bytes : Sparse Byte
  gen : Nat
  owner : Option Nat
  auto : Bool
  poison : Bool
  deriving DecidableEq, Repr

/-- What waits in the matrix unit, in order of issue (R195, R203). -/
inductive TileOp where
  /-- Tile, the two operands' bytes and formats, and their scales (register, block size; none for UNIT). -/
  | mma (t : Nat) (a b : List Byte) (fa fb : Nat) (za zb : Option (Nat × Nat))
  | zero (t : Nat)
  | anchor (t : Nat) (a : Int)
  /-- `claimed` says that the tile was CLAIMED at issue, which a later `mdrain` may change before the operation's turn. -/
  | stat (t : Nat) (clear claimed : Bool) (r : Opnd)
  deriving DecidableEq, Repr

/-- A queued matrix operation with the thread and the result that it belongs to. -/
structure TileJob where
  uid : Nat
  out : Nat
  op : TileOp
  deriving DecidableEq, Repr

/-- A task entry of a deque (R35). Until the access `after` to the join counter has been performed, no slot takes it. -/
structure Task where
  asid : Nat
  pc : Word
  x : List Word
  join : Word
  cls : Nat
  after : Nat
  deriving DecidableEq, Repr

/-- A predecessor edge (R238, R239, R252): the producer's ring as copied at pairing, PD, and whether it has left. -/
structure Pred where
  core : Nat
  peer : Nat
  /-- The producer's membership that the edge was paired with. -/
  epoch : Nat
  loose : Bool
  pd : Word
  d : Nat
  h : Nat
  slotsz : Nat
  ring : Nat
  left : Bool
  deriving DecidableEq, Repr

/-- A successor edge. -/
structure Succ where
  core : Nat
  peer : Nat
  /-- The consumer's membership that the edge was paired with. -/
  epoch : Nat
  d : Nat
  h : Nat
  slotsz : Nat
  ring : Nat
  sd : Word
  left : Bool
  deriving DecidableEq, Repr

/-- A core's neighbour-paced state (R237 to R252). -/
structure StepState where
  active : Bool
  /-- The number of the `stepcfg` that the membership, or the pairing wait, is of. -/
  epoch : Nat
  asid : Nat
  group : Nat
  nt : Nat
  wdog : Nat
  start : Word
  preds : List Pred
  succs : List Succ
  arrived : List Nat
  cutPend : Bool
  cutHeld : Bool
  cutWord : Word
  cutPa : Nat
  cutHome : Option Home
  cutStep : Word
  /-- A `stepcfg` in its pairing wait: thread, result, destination and the watchdog it asks for. -/
  pairing : Option (Nat × Nat × Opnd × Nat)
  /-- Neighbours that have still to compare with a `stepcfg` of this core that failed. -/
  owed : List Nat
  deriving DecidableEq, Repr

/-- A word of a store that a memory port remembers (R128): which of its stores, the word (address / 8), its source, when,
and whether it has been recorded. -/
structure Past where
  store : Nat
  word8 : Nat
  src : Word
  time : Word
  noted : Bool
  deriving DecidableEq, Repr

/-- A barrel core. Unlisted y registers and bank formats hold 0. `mode` is 0 A, 1 B, 2 C (R15). -/
structure Core where
  mode : Nat
  q : Nat
  cycle : Nat
  y : Sparse Word
  yPoison : List Nat
  /-- The y registers that results have written in this cycle: the slot whose write remains, what it left, and what was there
  before the cycle (R45, R162). -/
  yNow : Sparse (Nat × Word × Word)
  slots : Sparse Slot
  tiles : Sparse Tile
  scales : Sparse Scale
  jobs : List TileJob
  bfmt : Sparse (BitVec 4)
  step : Word
  stepDone : Word
  nb : StepState
  deque : List Task
  salcfg : Word
  salseq : Word
  /-- What SALSEQ was last written with: the ring is full a ring's length later (R128). -/
  salmark : Word
  /-- The words of the last 1,024 performed stores, oldest first (R128). -/
  stores : List Past
  lost : Bool
  repart : Option Nat
  deriving DecidableEq, Repr

/-- A cluster barrier (R225, R226). `held` counts the engine arrivals held, by core index. -/
structure Barrier where
  members : BitVec 528
  arrived : BitVec 528
  phase : BitVec 32
  held : Sparse Nat
  deriving DecidableEq, Repr

/-- An entry of an event queue (R361). `uid` is the thread whose trap it reports, none for one that the hardware reports
of itself. -/
structure Event where
  kind : Nat
  code : Nat
  prec : Bool
  cc : Bool
  thread : Nat
  asid : Nat
  depth : Nat
  addr : Word
  pc : Word
  now : Word
  uid : Option Nat
  deriving DecidableEq, Repr

/-- An entry of a run queue (R30): a thread, a leaf of a launch, or a row handler with its row. -/
inductive QEntry where
  | thread (uid : Nat)
  | leaf (handle : Word) (n : Nat)
  | row (tile row : Nat) (pc arg issuer : Word) (lanes : List Lane) (cls : Nat)
  deriving DecidableEq, Repr

/-- The states of a context (R351). -/
inductive CtxState where
  | new
  | running
  | stopped
  | resetting
  deriving DecidableEq, Repr

/-- A granted memory range of the parent's space (R353): PERM bits R, W, X. -/
structure Range where
  base : Nat
  len : Nat
  perm : Nat
  deriving DecidableEq, Repr

/-- A shadow region (R127, R232): the frame that the tables give each page, and the shadow frames by page index. -/
structure Shadow where
  base : Word
  pages : Nat
  orig : List Nat
  frames : Sparse Nat
  deriving DecidableEq, Repr

/-- One instance of a launch's lowest level: core, slot, and the indices of x3 and x4 (R39, R398). -/
structure Leaf where
  core : Nat
  slot : Nat
  x3 : Word
  x4 : Word
  started : Bool
  ended : Bool
  deriving DecidableEq, Repr

/-- The states of a launch (R235, R397): in a host or context queue, deferred, running, completed. -/
inductive LaunchState where
  | queued
  | deferred
  | running
  | completed
  deriving DecidableEq, Repr

/-- A level of a launch hierarchy (R38, R312). -/
structure Level where
  domain : Nat
  scope : Nat
  count : Nat
  peerBase : Nat
  deriving DecidableEq, Repr

/-- The entry of the code object that was chosen for a launch (R310, R315). -/
structure Entry where
  text : Word
  xregs : Nat
  vec : Bool
  bars : Nat
  oslots : Nat
  tiles : Nat
  zregs : Nat
  tephra : Bool
  units : Nat
  vrows : Nat
  vlanes : Nat
  bset : BitVec 16
  bval : Word
  deriving DecidableEq, Repr

/-- A launch (R40 to R43, R235, R276). `quota` says whether it holds a quota unit, `donor` the parent that gave it. -/
structure Launch where
  handle : Word
  queue : Nat
  cls : Nat
  cc : Bool
  levels : List Level
  entry : Entry
  modes : List Nat
  arg : Word
  state : LaunchState
  status : Nat
  failed : Bool
  quota : Bool
  donor : Option Nat
  host : Bool
  leaves : List Leaf
  formatted : List Nat
  /-- The result tensor and whether step 7 of the fast path has been made (R275, R276). -/
  fast : Option (Word × Bool)
  waiters : List (Nat × Nat × Opnd)
  /-- What the launch, as a release, follows before it is admitted (R125). -/
  after : List Need
  /-- Once every leaf has ended: the status, and what the completion, as a release, follows (R38). -/
  ending : Option (Nat × List Need)
  deriving DecidableEq, Repr

/-- A context (R349 to R355, R327). -/
structure Ctx where
  depth : Nat
  parent : Nat
  state : CtxState
  /-- The 64 KiB frames of its context block (R352). -/
  block : List Nat
  lsbase : Word
  lslim : Word
  dqbase : Word
  ghvec : Word
  arena : Word
  tvec : Word
  tsarea : Word
  deleg : Word
  slotmask : Word
  coreset : List Nat
  coredesc : Word
  bankmask : Word
  ptroot : Word
  ceqbase : Word
  ceqhead : Word
  ceqtail : Word
  pcnt : Sparse Word
  psel : Sparse Word
  ranges : List Range
  barriers : List (Nat × Nat)
  lquota : Nat
  ctxs : Nat
  nrecv : Nat
  nwr : Nat
  delegMask : Word
  runq : Sparse (List QEntry)
  launches : List Launch
  overflow : List Word
  rotation : Nat
  seq : Nat
  inbox : List (Nat × Word × Word)
  heldEvents : List Event
  /-- Event entries on their way to the queue, in order: the number of the first of the two accesses of each (R331). -/
  writing : List Nat
  lost : Nat
  pcntSaved : Sparse Word
  caps : Sparse (Word × Word)
  /-- For an entry held through a grant, the parent's index (R353, R357). -/
  capFrom : Sparse Nat
  regions : Sparse Shadow
  spilledTasks : Sparse Nat
  spillHead : Sparse Nat
  /-- Cores on which the last refill of the deque has failed (R332). -/
  refused : List Nat
  calls : Nat
  /-- THREAD numbers of threads that `tsave` has put into images (R342): they stay held. -/
  imaged : List Nat
  /-- Context instructions that name this context, by thread, in order of arrival (R366). -/
  line : List Nat
  deriving DecidableEq, Repr

/-- What a queued engine command is (R228 to R233). -/
inductive CmdKind where
  /-- Source and destination address, element count, source format, destination formats with the core of a multicast
  (R231), barrier. -/
  | xfer (src dst : Word) (len sf : Nat) (dfs : List (Nat × Option Nat)) (bar : Option Nat)
  | publish (region : Nat) (r : Opnd)
  /-- OP, RETRY, connection, LADDR, LEN, tag or offset, object of the remote window. -/
  | npost (op retry conn : Nat) (laddr : Word) (len : Nat) (tag : Word) (win : Nat)
  /-- TAGGED, connection (none for any), LADDR, LEN, TAG, TAGMASK. -/
  | nrecv (tagged : Bool) (conn : Option Nat) (laddr : Word) (len : Nat) (tag mask : Word)
  /-- A message of a `cmsg`: target context and thread, payload, sender, and the register of the result (R236). -/
  | message (tgt thread : Nat) (v sender : Word) (d : Opnd)
  deriving DecidableEq, Repr

/-- A resource of a grant descriptor (R353). -/
inductive Item where
  /-- SLOTS and YGRP, and the flags, at their places in SLOTMASK. -/
  | slots (carved flags : Word)
  | cores (l : List Nat) (desc : Word)
  | units (mask : Word)
  | memory (base len perm : Nat)
  | barriers (cluster mask : Nat)
  | quotas (lquota ctxs nrecv nwr : Nat)
  | deleg (mask : Word)
  | cap (mine theirs rights : Nat)
  deriving DecidableEq, Repr

/-- A revocation between its marking and its end (R356): the thread that executes it, its context, the child, and the
contexts in which its effects are still to come, deepest first. -/
structure Revoke where
  uid : Nat
  issuer : Nat
  child : Nat
  item : Item
  holders : List Nat
  deriving DecidableEq, Repr

/-- A piece of a source that an engine has read: offset, bytes, and whether they are uncorrectable. -/
abbrev Piece := Nat × List Byte × Bool

/-- An engine operation, from the send queue to its completion (R126, R228, R229). `earlier` lists the accesses that
acceptance waits for; `pages` the translations made at acceptance by `pageKey`: frame and leaf; `leader` the command whose
read serves a merged one (R231), `joined` those that this one serves; `got` what has been read; `lost` the payload bytes
abandoned (R383). `ended` is the end of a Geyser operation. `stage` counts the steps of its end: 1 its record has been
sent, 2 its completion word. `order` is the state's next name at acceptance. -/
structure Cmd where
  id : Nat
  uid : Nat
  out : Nat
  core : Nat
  asid : Nat
  cls : Nat
  kind : CmdKind
  scope : Nat
  caddr : Word
  cval : Word
  crec : Word
  earlier : List Need
  accepted : Bool
  since : Word
  pages : Sparse (Nat × Word)
  status : Nat
  trunc : Bool
  len : Nat
  conn : Nat
  leader : Option Nat
  joined : List Nat
  got : List Piece
  lost : Nat
  ended : Bool
  stage : Nat
  order : Nat
  /-- The reads of its source have been sent. -/
  reading : Bool
  deriving DecidableEq, Repr

/-- A Geyser connection (R233, R234, R320 to R322, R412). The sender counts its untagged and its tagged sends; the
receiver keeps, of each kind (tagged or not), the sends that it has matched or seen end, the tags that it has seen, and
the packets that it has placed; `acked` has the packets that the peer has acknowledged. -/
structure Conn where
  asid : Nat
  /-- Object of the Geyser domain entry that it was opened through (R412). -/
  domain : Nat
  peer : Nat
  peerAsid : Nat
  peerConn : Nat
  ordered : Bool
  isOpen : Bool
  entropy : List Nat
  rotation : Nat
  psn : Nat
  sentU : Nat
  sentT : Nat
  settled : List (Bool × Nat)
  tags : List (Nat × Word)
  timeout : Nat
  placed : List Nat
  acked : List Nat
  deriving DecidableEq, Repr

/-- A packet of a work request (R320): sent, acknowledged, to be sent again, refusals, time of the last transmission,
acknowledgements of later packets since; its payload is being read for a transmission, and what has been read. -/
structure Pkt where
  psn : Nat
  index : Nat
  sent : Bool
  acked : Bool
  again : Bool
  refusals : Nat
  sentAt : Word
  later : Nat
  reading : Bool
  got : List Piece
  deriving DecidableEq, Repr

/-- The data that a window answers an RMA read with (R234): whose window, address and length, the request's packet, and
the translations made when the request arrived. -/
structure Answer where
  asid : Nat
  va : Word
  len : Nat
  psn : Nat
  pages : Sparse (Nat × Word)
  deriving DecidableEq, Repr

/-- An accepted work request, with the number of its message among the connection's sends of its kind; `got` lists the
packets that have answered an RMA read. One with `answer` is what this module sends of itself, under a number of its own. -/
structure WorkReq where
  cmd : Nat
  conn : Nat
  mseq : Nat
  pkts : List Pkt
  got : List Nat
  answer : Option Answer
  deriving DecidableEq, Repr

/-- A posted receive buffer: the connection and message that it is matched to, the packets and bytes of that message
once one has arrived, and the packets placed. -/
structure RecvBuf where
  cmd : Nat
  matched : Option (Nat × Nat)
  size : Option (Nat × Nat)
  placed : List Nat
  deriving DecidableEq, Repr

/-- A window that a service has exposed to a peer (R412): whose it is, range, and whether it may be read and written. -/
structure RmaWindow where
  asid : Nat
  core : Nat
  cc : Bool
  base : Word
  len : Nat
  rd : Bool
  wr : Bool
  deriving DecidableEq, Repr

/-- What travels on the Ethernet ports. -/
inductive NetMsg where
  /-- Connection at the receiver, psn, message number, index, packets and bytes of the message, OP (4 answers an RMA
  read, whose packet is the message number), tag or offset, window, no retransmission is left, payload, and the parts of it
  that were uncorrectable: offset and bytes. -/
  | packet (conn psn mseq index count len op : Nat) (tag : Word) (win : Nat) (last : Bool) (payload : List Byte)
      (bad : List (Nat × Nat))
  | ack (conn psn : Nat)
  /-- A refusal: status 5 no buffer, 4 page absent. -/
  | refuse (conn psn status : Nat)
  deriving DecidableEq, Repr

/-- A packet whose payload is being placed (R234): its accesses carry `id`. `cmd` is the operation it is placed for, 0 for an
RMA write; `dup` says that it met a read-duplicated page, `failed` that a write of it was abandoned. -/
structure Placed where
  id : Nat
  conn : Nat
  psn : Nat
  op : Nat
  cmd : Nat
  index : Nat
  count : Nat
  len : Nat
  dup : Bool
  failed : Bool
  deriving DecidableEq, Repr

/-- A message in flight, to this module or to a peer. -/
structure InFlight where
  id : Nat
  inbound : Bool
  port : Nat
  entropy : Nat
  msg : NetMsg
  deriving DecidableEq, Repr

/-- What travels along an edge (R239, R249, R252). -/
inductive Beacon where
  | done (step : Word)
  | leaving
  | cut (counter : Word) (pa : Nat) (home : Home) (step : Word)
  | release (pa : Nat)
  deriving DecidableEq, Repr

/-- A beacon or marker in flight along an edge: `edge` is twice the index of the edge in the destination's list, with 1 added in
its list of successors. -/
structure BeaconMsg where
  id : Nat
  src : Nat
  dst : Nat
  edge : Nat
  /-- The memberships of the two cores that it belongs to. -/
  srcEpoch : Nat
  dstEpoch : Nat
  msg : Beacon
  deriving DecidableEq, Repr

/-- A gated service call in flight (R411, R412). -/
structure Call where
  id : Nat
  asid : Nat
  thread : Nat
  code : Nat
  cap : Nat
  args : List Word
  reply : Word
  /-- The core of the caller, and whether it is a control core: whose local window its addresses may name. -/
  core : Nat
  cc : Bool
  revoked : Bool
  deriving DecidableEq, Repr

/-- A cached composed entry (R377). -/
structure TlbEntry where
  asid : Nat
  base : Word
  size : Nat
  kind : Nat
  pa : Nat
  attr : Word
  dup : Bool
  via : List (Nat × Word)
  deriving DecidableEq, Repr

/-- A bound virtual function and its mailbox ring (R350, R413, R415). -/
structure Vf where
  ctl : Word
  ring : List Event
  head : Nat
  tail : Nat
  deriving DecidableEq, Repr

/-- The state of a link (R418): lanes still healthy. Links 0 and 1 are the CXL ports, 2 the host port, 3 to 10 the
Ethernet ports, 11 to 26 the UALink ports. -/
structure Link where
  width : Nat
  deriving DecidableEq, Repr

/-- What the world outside the module does next: an event of the platform, or a message from the fabric. -/
inductive Input where
  | event (i : Instr)
  | net (port entropy : Nat) (m : NetMsg)
  /-- The host reads 8 bytes of the window of a virtual function, or writes them (R415). -/
  | barRead (vf off : Nat)
  | barWrite (vf off : Nat) (v : Word)
  /-- The host, a CXL device or a peer module sends an access to a machine address (R414, R416, R417). -/
  | access (o : Owner) (pa size : Nat) (op : AccOp)
  /-- The peers that answer from now on (R417). -/
  | peers (l : List Nat)
  deriving DecidableEq, Repr

/-- Events of a performance counter on their way to it (R407): context, code, how many. -/
structure Count where
  id : Nat
  asid : Nat
  code : Nat
  n : Nat
  deriving DecidableEq, Repr

/-- What HBM holds of a line with writes that may not have been written back (R347): bytes, which of its words are empty,
which of its 16-byte units are uncorrectable, and the home whose cache holds the writes, once an access has named it
(R376). -/
structure Held where
  bytes : List Byte
  empty : List Bool
  poison : List Bool
  home : Option Home
  deriving DecidableEq, Repr

/-- A module. `mem` lists the bytes that are not 0 by machine address (R97), `empty` the words (address / 8) whose
full/empty bit is empty (R103), `poisoned` the 16-byte units with uncorrectable data (R387). Threads are keyed by a
number of the model, contexts by ASID, control-core threads are in `threads` with `cc`. -/
structure State where
  part : Part
  mem : List Host.Cell
  empty : List (Nat × Bool)
  poisoned : List Nat
  /-- What HBM holds behind the caches, by line (R347). -/
  behind : Sparse Held
  threads : Sparse Thread
  cores : Sparse Core
  ctxs : Sparse Ctx
  barriers : Sparse Barrier
  cur : Nat
  now : Word
  accs : List Acc
  waiters : List Acc
  resq : List Acc
  resv : List Resv
  overflow : List Acc
  cmds : List Cmd
  calls : List Call
  /-- Revocations in progress (R356). -/
  works : List Revoke
  conns : Sparse Conn
  reqs : List WorkReq
  bufs : List RecvBuf
  /-- Packets whose payload is being placed. -/
  placing : List Placed
  net : List InFlight
  beacons : List BeaconMsg
  counts : List Count
  tlb : List TlbEntry
  /-- The visible frame of a frame that the tables name, once a publish has flipped it (R127). -/
  remap : Sparse Nat
  /-- Copies of inline-cache entries: control core, ASID, address, bytes (R110, R173). -/
  icCopies : List (Nat × Nat × Nat × List Byte)
  /-- Frames at which a home cannot write a store correctly (R107, R384). -/
  badFrames : List Nat
  pool : List Nat
  /-- Frames that go back to the sinter pool once no access is under way in them (R127). -/
  leaving : List Nat
  retired : List Nat
  /-- Windows exposed for RMA, by object number (R412). -/
  windows : Sparse RmaWindow
  vfsel : Word
  vfs : Sparse Vf
  cxlsel : Word
  cxlwin : Sparse Word
  pwrstat : Word
  links : Sparse Link
  peer : Nat
  domain : Nat
  answers : List Nat
  hostUp : Bool
  booted : Bool
  bootFail : Bool
  powerLimit : Nat
  aer : Nat
  msix : List Nat
  /-- Responses to the host: unsupported requests and attestation reports, newest first. -/
  replies : List (List Byte)
  unsupported : List HostRequest
  digest : List Byte
  cfgDigest : List Byte
  /-- The public key of the identity key pair, once the firmware has derived it (R421). -/
  identity : List Byte
  rotation : Nat
  ccTurn : Sparse Nat
  /-- Turns that each control core has had (R222). -/
  ccCycle : Sparse Nat
  inputs : List Input
  /-- Choices to come: which of the agents that may act is next. -/
  sched : List Nat
  /-- How many further words a fetch brings (R109). -/
  ahead : Nat
  /-- Choices to come: how many accesses the next turns of bytecodes perform before other agents act, 0 for all that the
  bytecode still has to make; a turn that finds none listed takes a free number (R280, R283). -/
  bursts : List Nat
  next : Nat
  free : Nat
  deriving DecidableEq, Repr

/-- Why a step stops. -/
inductive Fault where
  /-- `exec` was asked for an instruction of a thread while no thread issues. No step does this. Raised by `native`
  and `bytecode`; safe. -/
  | noThread
  deriving DecidableEq, Repr

/-- Why an instruction has no meaning. -/
inductive Refusal where
  /-- The instruction is not modelled yet. Raised by an arm of `exec`; safe. -/
  | notModelled (mnemonic : String)
  deriving DecidableEq, Repr

/-- The map word that a mask's complement keeps. -/
def allOnes : Word := 0xFFFFFFFFFFFFFFFF

/-- A new neighbour-paced state: no group (R240). -/
def StepState.new : StepState :=
  ⟨false, 0, 0, 0, 0, 0, 0, [], [], [], false, false, 0, 0, none, 0, none, []⟩

/-- A barrel core at module reset (R16, R53 to R55, R59). The rotation position is the model's choice (log 3). -/
def Core.new : Core :=
  ⟨0, 0, 0, [], [], [], [], [], [], [], [], 0, 0, StepState.new, [], 0, 0, 0, [], false, none⟩

/-- A free operand slot. -/
def Slot.new : Slot := ⟨0, none, 0, true, 0, 0, 0, [], false⟩

/-- A finite zero (R201). -/
def Elem.zero : Elem := ⟨0, 0⟩

/-- A free tile. -/
def Tile.new : Tile := ⟨0, none, 0, false, [], false, false, 0, false, none, false⟩

/-- A free scale register at reset: every byte 127, generation 0 (R55). -/
def Scale.new : Scale := ⟨[], 0, none, false, false⟩

/-- A barrier at reset. -/
def Barrier.new : Barrier := ⟨0, 0, 0, []⟩

/-- A thread with every register at the value a new thread has (R39, R46, R51, R52, R329). -/
def Thread.new : Thread :=
  { asid := 0, thread := 0, slot := 0, cc := false, place := .block 0, work := .bare, pc := 0, x := [], preds := 1,
    v := [], xPoison := [], pPoison := [], vPoison := [], link := [], spilled := 0, vshape := 0x4001, vact := 0x4001,
    flags := 0, warn := 0, tcause := 0, taddr := 0, tpc := 0, tstat := 0, tscr := 0, nomad := false, tephra := false,
    guard := false, buf := [], outst := [], park := .run, parkedAt := 0, kept := [], held := none, mail := [], last := 0,
    hold := 0, cls := 2, fences := [], trace := [], units := [], startFault := 0 }

/-- A new context: it holds nothing and its registers hold their reset values (R367). -/
def Ctx.new (depth parent : Nat) (block : List Nat) : Ctx :=
  { depth := depth, parent := parent, state := .new, block := block, lsbase := 0, lslim := 0, dqbase := 0, ghvec := 0,
    arena := 0, tvec := 0, tsarea := 0, deleg := 0, slotmask := 0, coreset := [], coredesc := 0, bankmask := 0,
    ptroot := 0, ceqbase := 0, ceqhead := 0, ceqtail := 0, pcnt := [], psel := [], ranges := [], barriers := [],
    lquota := 0, ctxs := 0, nrecv := 0, nwr := 0, delegMask := 0, runq := [], launches := [], overflow := [],
    rotation := 0, seq := 0, inbox := [], heldEvents := [], writing := [], lost := 0, pcntSaved := [],
    caps := [], capFrom := [], regions := [], spilledTasks := [], spillHead := [], refused := [], calls := 0, imaged := [],
    line := [] }

/-- The root: it holds every grant (R354, R421). Its counted amounts are the most that can be used: 4,096 launches
(R235), 4,095 contexts (R349), 1,024 receive buffers (R233) and work requests. -/
def Ctx.root (p : Part) : Ctx :=
  { Ctx.new 0 0 [] with
    state := .running, slotmask := 0x0000FF07FFFFFFFF, coreset := List.range (Config.cores p),
    bankmask := 0x000000FFFFFFFFFF,
    barriers := (List.range (Config.cores p / 16)).map fun c => (c, 0xFFFFFFFF),
    lquota := 4096, ctxs := 4095, nrecv := 1024, nwr := 1024, delegMask := 0x7FFFFFF }

/-- No connection. -/
def Conn.new : Conn := ⟨0, 0, 0, 0, 0, false, false, [], 0, 0, 0, 0, [], [], 0, [], []⟩

/-- No virtual function bound. -/
def Vf.new : Vf := ⟨0, [], 0, 0⟩

/-- Lanes of a link at full width (R8, R414, R416): 16 for the CXL ports and the host port, 4 for the others; R8 gives
the UALink ports 4 lanes, and for an Ethernet port the number is the model's choice. -/
def linkFull (n : Nat) : Nat := if n < 3 then 16 else 4

/-- A link at full width. -/
def Link.new (n : Nat) : Link := ⟨linkFull n⟩

/-- The module right after reset: no thread runs, every core is in mode A, memory lists nothing, the registers of
R413 hold their reset values. The part, the choices and the counters are the model's (logs 2 to 6). -/
def State.reset : State :=
  { part := .af880, mem := [], empty := [], poisoned := [], behind := [], threads := [], cores := [],
    ctxs := [(0, Ctx.root .af880)], barriers := [], cur := 0, now := 0, accs := [], waiters := [], resq := [],
    resv := [], overflow := [], cmds := [], calls := [], works := [], conns := [], reqs := [], bufs := [], placing := [],
    net := [], beacons := [], counts := [], tlb := [], remap := [], icCopies := [], badFrames := [], pool := [],
    leaving := [], retired := [], windows := [], vfsel := 0, vfs := [], cxlsel := 0, cxlwin := [],
    pwrstat := 1000, links := [], peer := 0, domain := 1, answers := [], hostUp := false, booted := false,
    bootFail := false, powerLimit := 3600, aer := 0, msix := [], replies := [], unsupported := [], digest := [],
    cfgDigest := [], identity := [], rotation := 0, ccTurn := [], ccCycle := [], inputs := [], sched := [], ahead := 0,
    bursts := [], next := 1, free := 0 }

end Sys2Proof.Machine
end

