-- ==== Sys2Proof/Machine/Sparse.lean ====
section
/-! DEFINITION. Maps as sorted lists of key and value: reading with a default, writing that keeps the canonical form,
and the form itself. Memory is such a map (R97). -/

namespace Sys2Proof.Machine

variable {α : Type}

/-- The value at a key, `d` when it is not listed. -/
def get (d : α) : Sparse α → Nat → α
  | [], _ => d
  | (j, v) :: r, k => if j = k then v else get d r k

/-- The key is listed. -/
def has : Sparse α → Nat → Bool
  | [], _ => false
  | (j, _) :: r, k => if j = k then true else has r k

/-- List a value at a key, in order of keys. -/
def put : Sparse α → Nat → α → Sparse α
  | [], k, v => [(k, v)]
  | (j, u) :: r, k, v =>
    if k < j then (k, v) :: (j, u) :: r else if k = j then (k, v) :: r else (j, u) :: put r k v

/-- Remove a key. -/
def del : Sparse α → Nat → Sparse α
  | [], _ => []
  | (j, u) :: r, k => if j = k then del r k else (j, u) :: del r k

/-- Write a value: one equal to the default is not listed. -/
def set [DecidableEq α] (d : α) (m : Sparse α) (k : Nat) (v : α) : Sparse α :=
  if v = d then del m k else put m k v

/-- The canonical form: keys strictly rising from `lo`, no entry equal to the default. -/
def wfFrom [DecidableEq α] (d : α) : Nat → Sparse α → Bool
  | _, [] => true
  | lo, (k, v) :: r => lo ≤ k && v != d && wfFrom d (k + 1) r

/-- The canonical form of memory: addresses strictly rising, no entry equal to what an unlisted address reads as. -/
def Memory.wf (m : List Host.Cell) : Bool := wfFrom (0 : Byte) 0 m

/-- What an unlisted address of memory reads as (log 2). -/
def Memory.unlisted : Byte := 0

/-- Replace an element of a list that satisfies a test. -/
def modFirst (p : α → Bool) (f : α → α) : List α → List α
  | [] => []
  | a :: r => if p a then f a :: r else a :: modFirst p f r

/-- Remove the first element that satisfies a test. -/
def dropFirst (p : α → Bool) : List α → List α
  | [] => []
  | a :: r => if p a then r else a :: dropFirst p r

/-- The numbers below `n` that satisfy a test. -/
def below (n : Nat) (p : Nat → Bool) : List Nat := (List.range n).filter p

/-- Apply a state change for each element, in order. -/
def forEach {β : Type} (f : α → β → β) : List α → β → β
  | [], b => b
  | a :: r, b => forEach f r (f a b)

/-- Bits `hi` down to `lo` of a word, as a number. -/
def bits (w : Word) (hi lo : Nat) : Nat := (w.toNat >>> lo) % 2 ^ (hi + 1 - lo)

/-- One bit of a word. -/
def bit (w : Word) (n : Nat) : Bool := w.getLsbD n

/-- A word with bits `hi` down to `lo` replaced. -/
def putBits (w : Word) (hi lo v : Nat) : Word :=
  let m : Word := BitVec.ofNat 64 ((2 ^ (hi + 1 - lo) - 1) <<< lo)
  (w &&& ~~~m) ||| (BitVec.ofNat 64 (v <<< lo) &&& m)

/-- A number as a word. -/
def word (n : Nat) : Word := BitVec.ofNat 64 n

/-- Sext of a number from `n` bits to a word (R4). -/
def sext (n v : Nat) : Word := BitVec.ofInt 64 (if v % 2 ^ n < 2 ^ (n - 1) then (v % 2 ^ n : Int) else (v % 2 ^ n : Int) - 2 ^ n)

/-- The modular comparison a >= b of R239 and R221. -/
def geMod (a b : Word) : Bool := decide (0 ≤ (a - b).toInt)

end Sys2Proof.Machine
end

