-- ==== Sys2Proof/Machine/Basic.lean ====
section
/-! DEFINITION. Reaching the parts of the state: threads, cores, contexts, registers, bytes of memory, and the homes of
machine addresses (R97 to R101). -/

namespace Sys2Proof

/-- The register after a register, for a pair (R135). -/
def Opnd.succ (r : Opnd) : Opnd := ⟨r.shared, r.n + 1⟩

end Sys2Proof

namespace Sys2Proof.Machine

/-- The thread with a number of the model. -/
def State.thread (s : State) (uid : Nat) : Thread := get Thread.new s.threads uid

/-- Change a thread. -/
def State.setThread (s : State) (uid : Nat) (t : Thread) : State := { s with threads := put s.threads uid t }

/-- The thread that issues. -/
def State.th (s : State) : Thread := s.thread s.cur

/-- Change the thread that issues. -/
def State.setTh (s : State) (t : Thread) : State := s.setThread s.cur t

/-- Change a live thread by a function. -/
def State.onThread (s : State) (uid : Nat) (f : Thread → Thread) : State :=
  if has s.threads uid then s.setThread uid (f (s.thread uid)) else s

/-- A barrel core. -/
def State.core (s : State) (c : Nat) : Core := get Core.new s.cores c

/-- Change a barrel core. -/
def State.setCore (s : State) (c : Nat) (k : Core) : State := { s with cores := put s.cores c k }

/-- Change a barrel core by a function. -/
def State.onCore (s : State) (c : Nat) (f : Core → Core) : State := s.setCore c (f (s.core c))

/-- The record of a context. -/
def State.ctx (s : State) (a : Nat) : Ctx := get (Ctx.new 0 0 []) s.ctxs a

/-- Change a context. -/
def State.setCtx (s : State) (a : Nat) (c : Ctx) : State := { s with ctxs := put s.ctxs a c }

/-- Change a context by a function. -/
def State.onCtx (s : State) (a : Nat) (f : Ctx → Ctx) : State := s.setCtx a (f (s.ctx a))

/-- The core a thread is on, or on its way to; a control core for a control-core thread. -/
def Thread.core (t : Thread) : Nat :=
  match t.place with
  | .slot c => c
  | .queue c => c
  | .moving c => c
  | .block c => c

/-- The thread occupies a slot. -/
def Thread.inSlot (t : Thread) : Bool :=
  match t.place with
  | .slot _ => true
  | _ => false

/-- The barrel core of the thread that issues. -/
def State.myCore (s : State) : Core := s.core s.th.core

/-- Change the barrel core of the thread that issues. -/
def State.onMyCore (s : State) (f : Core → Core) : State := s.onCore s.th.core f

/-- The context of the thread that issues. -/
def State.myCtx (s : State) : Ctx := s.ctx s.th.asid

/-- A private register; x0 reads 0 (R44). -/
def Thread.getX (t : Thread) (n : Nat) : Word := if n = 0 then 0 else get 0 t.x n

/-- Write a private register, which clears its poison (R27); x0 discards the write. -/
def Thread.setX (t : Thread) (n : Nat) (v : Word) : Thread :=
  if n = 0 then t else { t with x := set 0 t.x n v, xPoison := t.xPoison.filter (· ≠ n) }

/-- A predicate; p0 reads true (R46). -/
def Thread.getP (t : Thread) (n : Nat) : Bool := if n = 0 then true else t.preds.getLsbD n

/-- Write a predicate; p0 discards the write. -/
def Thread.setP (t : Thread) (n : Nat) (v : Bool) : Thread :=
  if n = 0 then t
  else { t with
    preds := if v then t.preds ||| ((1 : BitVec 8) <<< n) else t.preds &&& ~~~((1 : BitVec 8) <<< n),
    pPoison := t.pPoison.filter (· ≠ n) }

/-- A lane of a vector register. -/
def Thread.getLane (t : Thread) (v row lane : Nat) : Lane := get 0 t.v (256 * v + 64 * row + lane)

/-- Write a lane, which clears the register's poison. -/
def Thread.setLane (t : Thread) (v row lane : Nat) (x : Lane) : Thread :=
  { t with v := set 0 t.v (256 * v + 64 * row + lane) x, vPoison := t.vPoison.filter (· ≠ v) }

/-- A shared register of a core. -/
def Core.getY (c : Core) (n : Nat) : Word := get 0 c.y n

/-- Write a shared register. -/
def Core.setY (c : Core) (n : Nat) (v : Word) : Core :=
  { c with y := set 0 c.y n v, yPoison := c.yPoison.filter (· ≠ n) }

/-- Read an operand register of a thread (R132). -/
def State.regOf (s : State) (uid : Nat) (r : Opnd) : Word :=
  if r.shared then (s.core (s.thread uid).core).getY r.n.toNat else (s.thread uid).getX r.n.toNat

/-- Write an operand register of a thread. -/
def State.setRegOf (s : State) (uid : Nat) (r : Opnd) (v : Word) : State :=
  if r.shared then s.onCore (s.thread uid).core (·.setY r.n.toNat v) else s.onThread uid (·.setX r.n.toNat v)

/-- X(r) of the thread that issues. -/
def State.reg (s : State) (r : Opnd) : Word := s.regOf s.cur r

/-- X(r) as the instruction read it in its issue turn, before a park that it now goes on from. -/
def State.arg (s : State) (r : Opnd) : Word :=
  match s.th.held with
  | some h => ((h.2.find? fun e => e.1 == r).map Prod.snd).getD (s.reg r)
  | none => s.reg r

/-- X(r) := v. -/
def State.setReg (s : State) (r : Opnd) (v : Word) : State := s.setRegOf s.cur r v

/-- P(p) of the thread that issues. -/
def State.pred (s : State) (p : BitVec 3) : Bool := s.th.getP p.toNat

/-- P(p) := v. -/
def State.setPred (s : State) (p : BitVec 3) (v : Bool) : State := s.setTh (s.th.setP p.toNat v)

/-- Set sticky bits in FLAGS (R4, R60). -/
def Thread.flag (t : Thread) (f : Word) : Thread := { t with flags := t.flags ||| f }

/-- Set sticky bits in WARN (R61). -/
def Thread.warned (t : Thread) (f : Word) : Thread := { t with warn := t.warn ||| f }

/-- Flag(bits). -/
def State.flag (s : State) (f : Word) : State := s.setTh (s.th.flag f)

/-- Warn(bits). -/
def State.warnBit (s : State) (f : Word) : State := s.setTh (s.th.warned f)

/-- A name that nothing has had before. -/
def State.bump (s : State) : State := { s with next := s.next + 1 }

/-- An event of a performance counter happens (R406, R407). -/
def State.count (s : State) (asid code : Nat) : State :=
  { s with counts := s.counts ++ [⟨s.next, asid, code, 1⟩], next := s.next + 1 }

/-- `n` events of one kind happen. -/
def State.countN (s : State) (asid code n : Nat) : State :=
  { s with counts := s.counts ++ [⟨s.next, asid, code, n⟩], next := s.next + 1 }

/-- A byte of memory. -/
def State.byte (s : State) (pa : Nat) : Byte := get Memory.unlisted s.mem pa

/-- Write a byte of memory. -/
def State.setByte (s : State) (pa : Nat) (b : Byte) : State := { s with mem := set Memory.unlisted s.mem pa b }

/-- The `n` bytes at an address. -/
def State.bytes (s : State) (pa : Nat) : Nat → List Byte
  | 0 => []
  | n + 1 => s.byte pa :: s.bytes (pa + 1) n

/-- Write bytes from an address on. -/
def setBytes (m : List Host.Cell) (pa : Nat) : List Byte → List Host.Cell
  | [] => m
  | b :: r => setBytes (set Memory.unlisted m pa b) (pa + 1) r

/-- The 16-byte units that bytes `[pa, pa + n)` cover completely. -/
def covered (pa n u : Nat) : Bool := pa ≤ 16 * u && 16 * u + 16 ≤ pa + n

/-- The full/empty bit of the word at an address: true is full (R103, log 2). -/
def State.full (s : State) (pa : Nat) : Bool := !get false s.empty (pa / 8)

/-- What a line of HBM holds. -/
def State.lineOf (s : State) (l : Nat) : Held :=
  ⟨s.bytes (128 * l) 128, (List.range 16).map fun i => !s.full (128 * l + 8 * i),
    (List.range 8).map fun i => s.poisoned.contains (8 * l + i), none⟩

/-- The lines that bytes `[pa, pa + n)` meet. -/
def linesOf (pa n : Nat) : List Nat := (List.range ((pa + n + 127) / 128 - pa / 128)).map (· + pa / 128)

/-- A write is about to change bytes: HBM keeps what it holds until a line is written back (R347). -/
def State.dirty (s : State) (pa n : Nat) : State :=
  if Config.hbmBytes s.part ≤ pa then s
  else { s with behind := forEach (fun l b => if has b l then b else put b l (s.lineOf l)) (linesOf pa n) s.behind }

/-- Drop a line unwritten: the writes that had not been written back are lost (R347, R376). Which had been is open. -/
def State.dropLine (s : State) (l : Nat) (old : Held) : State :=
  let s := { s with behind := del s.behind l }
  if Config.freeBit s.free l then s
  else
    let e := (List.range 16).foldl (fun m i => set false m (16 * l + i) (old.empty.getD i false)) s.empty
    { s with
      mem := setBytes s.mem (128 * l) old.bytes, empty := e,
      poisoned := s.poisoned.filter (fun u => u / 8 != l) ++ (below 8 fun i => old.poison.getD i false).map (8 * l + ·) }

/-- An access at a home finds no line that another home still holds: a page whose home changed without `cacheop.wbi` loses
the writes held in the old one (R376). -/
def State.rehome (s : State) (h : Home) (pa n : Nat) : State :=
  if s.behind.isEmpty then s
  else forEach (fun l s => match s.behind.find? fun b => b.1 == l with
    | none => s
    | some b => if b.2.home.isNone || b.2.home == some h then s else s.dropLine l b.2) (linesOf pa n) s

/-- The home whose cache holds the writes that an access has just made to lines of HBM. -/
def State.claim (s : State) (h : Home) (pa n : Nat) : State :=
  if s.behind.isEmpty then s
  else { s with behind := s.behind.map fun b =>
    if b.2.home.isNone && (linesOf pa n).contains b.1 then (b.1, { b.2 with home := some h }) else b }

/-- Store bytes: whole 16-byte units lose their poison (R387). -/
def State.storeBytes (s : State) (pa : Nat) (bs : List Byte) : State :=
  { s.dirty pa bs.length with mem := setBytes s.mem pa bs, poisoned := s.poisoned.filter fun u => !covered pa bs.length u }

/-- A little-endian number in memory (R2). -/
def State.readNat (s : State) (pa n : Nat) : Nat := fromBytes (s.bytes pa n)

/-- The 8-byte word in memory. -/
def State.readWord (s : State) (pa : Nat) : Word := BitVec.ofNat 64 (s.readNat pa 8)

/-- A range of memory holds uncorrectable data. -/
def State.isPoisoned (s : State) (pa n : Nat) : Bool :=
  s.poisoned.any fun u => decide (16 * u < pa + n) && decide (pa < 16 * u + 16)

/-- Set the full/empty bit. -/
def State.setFull (s : State) (pa : Nat) (f : Bool) : State := { s.dirty pa 8 with empty := set false s.empty (pa / 8) (!f) }

/-- Zero bytes with every full/empty bit full: the state of a fresh sinter-pool page (R103, R383). -/
def State.scrub (s : State) (pa n : Nat) : State :=
  { s with
    mem := s.mem.filter fun c => !(decide (pa ≤ c.1) && decide (c.1 < pa + n)),
    empty := s.empty.filter fun c => !(decide (pa ≤ 8 * c.1) && decide (8 * c.1 < pa + n)),
    poisoned := s.poisoned.filter fun u => !covered pa n u,
    behind := s.behind.filter fun b => !(decide (pa ≤ 128 * b.1) && decide (128 * b.1 < pa + n)) }

/-- First address of the scratchpads (R97). -/
def scratchBase : Nat := 0xF00000000000

/-- First address of the control-and-status window (R335). -/
def csrBase : Nat := 0xF10000000000

/-- First address above the control-and-status range, which runs upward to the peer range (R97). -/
def csrEnd : Nat := 2 ^ 55

/-- The kinds of memory of R97. -/
inductive Kind where
  | hbm
  | second
  | cxl
  | scratch
  | csr
  | peer
  deriving DecidableEq, Repr

/-- First enabled CXL window that holds an address (R413). -/
def cxlWindow (wins : Sparse Word) (pa : Nat) : Option (Nat × Word) :=
  wins.find? fun w =>
    bit w.2 0 && decide (bits w.2 63 30 * 2 ^ 30 ≤ pa) &&
      decide (pa < bits w.2 63 30 * 2 ^ 30 + 2 ^ (bits w.2 29 25) * 2 ^ 30)

/-- A link has a healthy lane (R418). -/
def State.linkUp (s : State) (n : Nat) : Bool := (get (Link.new n) s.links n).width != 0

/-- One of `k` links from number `n` on has a healthy lane. -/
def State.linksUp (s : State) (n k : Nat) : Bool := (List.range k).any fun i => s.linkUp (n + i)

/-- The kind of a machine address, none where nothing is populated (R14, R97, R417, R418); `domain` is the number of modules of
the domain. -/
def State.kindOf (s : State) (pa : Nat) : Option Kind :=
  if 2 ^ 55 ≤ pa then
    let n := (pa - 2 ^ 55) / 2 ^ 45
    if decide (pa < 2 ^ 56) && decide (n < s.domain) && s.answers.contains n && s.linksUp 11 16 then some .peer else none
  else if pa < Config.hbmBytes s.part then some .hbm
  else if 0x010000000000 ≤ pa ∧ pa < 0x070000000000 then some .second
  else if 0x080000000000 ≤ pa ∧ pa < 0x480000000000 then
    if bit (Config.feat s.part) 3 then
      match cxlWindow s.cxlwin pa with
      | some w => if s.linkUp (if bit w.2 1 then 1 else 0) then some .cxl else none
      | none => none
    else some .cxl
  else if scratchBase ≤ pa ∧ pa < scratchBase + Config.cores s.part * 0x200000 then some .scratch
  else if csrBase ≤ pa ∧ pa < csrEnd then some .csr
  else none

/-- The index of the `j`-th set bit of a mask (R99). -/
def nthBit (m : Nat) (j : Nat) : Nat := ((List.range 16).filter fun i => m.testBit i).getD j 0

/-- The number of set bits of a 16-bit mask. -/
def pop16 (m : Nat) : Nat := ((List.range 16).filter fun i => m.testBit i).length

/-- The core of a hashed page's line (R99). -/
def hashCore (pa cluster mask : Nat) : Nat :=
  let l := pa / 128
  let h := (l ^^^ (l >>> 16) ^^^ (l >>> 32)) % 2 ^ 16
  cluster * 16 + nthBit mask (h % pop16 mask)

/-- The home agent of an HBM address (R100). -/
def agentOf (p : Part) (pa : Nat) : Nat :=
  let g := Config.agentBits p
  ((pa >>> 8) ^^^ (pa >>> (8 + g))) % 2 ^ g

/-- The home of a machine address. `attr` is the leaf whose HOME field governs (R99, R376), 0 for agent. -/
def State.homeOf (s : State) (pa : Nat) (attr : Word) : Home :=
  match s.kindOf pa with
  | some .scratch => .bank ((pa - scratchBase) / 0x200000) ((pa - scratchBase) % 0x200000 / 0x20000)
  | some .csr => .csr ((pa - csrBase) / 0x8000)
  | some .second => .lpddr ((pa - 0x010000000000) / 4096 % 48)
  | some .cxl =>
    match cxlWindow s.cxlwin pa with
    | some w => .cxl (if bit w.2 1 then 1 else 0)
    | none => .cxl 0
  | some .peer => .peer ((pa - 2 ^ 55) / 2 ^ 45)
  | _ =>
    match bits attr 6 5 with
    | 1 => .slice (bits attr 15 7)
    | 2 => .slice (hashCore pa (bits attr 11 7) (bits attr 63 48))
    | _ => .agent (agentOf s.part pa)

/-- The bank of a home in which a word's queues lie (R217). -/
def bankOf (h : Home) (pa : Nat) : Nat :=
  match h with
  | .bank _ b => b
  | .slice _ => pa / 128 % 16
  | _ => 0

/-- The machine address of a core's scratchpad offset. -/
def scratch (core off : Nat) : Nat := scratchBase + core * 0x200000 + off

/-! ### Contexts -/

/-- The ancestors of a context, parent first (R349). -/
def State.upFrom (s : State) : Nat → Nat → List Nat
  | 0, _ => []
  | n + 1, a => if a = 0 then [] else (s.ctx a).parent :: s.upFrom n (s.ctx a).parent

/-- The ancestors of a context. -/
def State.ancestors (s : State) (a : Nat) : List Nat := s.upFrom 8 a

/-- A context lies in the subtree of another (R349). -/
def State.within (s : State) (a root : Nat) : Bool := a == root || (s.ancestors a).contains root

/-- The live contexts of a subtree. -/
def State.subtree (s : State) (root : Nat) : List Nat := (s.ctxs.map Prod.fst).filter (s.within · root)

/-- A context runs: it is RUNNING, no ancestor is STOPPED (R351), and none is being torn down with its subtree (R364). -/
def State.runs (s : State) (a : Nat) : Bool :=
  (s.ctx a).state == .running && (s.ancestors a).all fun p => (s.ctx p).state != .stopped && (s.ctx p).state != .resetting

end Sys2Proof.Machine
end

