-- ==== Sys2Proof/Machine/Translate.lean ====
section
/-! DEFINITION. Translation: page-table entries, the composed walk (R373 to R376), cached entries (R377), the local
window (R96), and the checks of R167 that every access makes. -/

namespace Sys2Proof.Machine

/-- Access kinds of R375. -/
abbrev kRead : Nat := 0
abbrev kWrite : Nat := 1
abbrev kFetch : Nat := 2

/-- A failed walk: the context whose tables failed, the address in its space, the reason and the kind (R375). -/
structure WFail where
  ctx : Nat
  va : Word
  reason : Nat
  kind : Nat
  deriving DecidableEq, Repr

/-- A translation: the address that the tables give, the machine address after the flips of R127, the size of the
composed page, the leaf that governs HOME, DUP, and the contexts and addresses that the walk used. -/
structure Tr where
  raw : Nat
  pa : Nat
  size : Nat
  attr : Word
  dup : Bool
  via : List (Nat × Word)
  deriving DecidableEq, Repr

/-- The address space is 52 bits, sign-extended (R95). -/
def canonical (va : Word) : Bool := sext 52 va.toNat == va

/-- A trap without a fixed target. -/
def Trap.of (c : Cause) (a : Word) : Trap := ⟨c, a, none⟩

/-- The trap of a failed walk (R375, R379). -/
def WFail.trap (f : WFail) (asid : Nat) : Trap :=
  if f.ctx = asid then .of (if f.reason = 0 then .pageAbsent else .prot) f.va
  else ⟨.nested, (f.va &&& ~~~7) ||| word (f.reason + if f.kind = kWrite then 4 else 0), some f.ctx⟩

/-- A core lies in a context's core set (R330, R376). -/
def State.inSet (s : State) (asid core : Nat) : Bool := (s.ctx asid).coreset.contains core

/-- Granted(C, x, k) of R375. -/
def State.granted (s : State) (asid : Nat) (a : Word) (k : Nat) : Bool :=
  (s.ctx asid).ranges.any fun r =>
    decide (r.base ≤ a.toNat) && decide (a.toNat < r.base + r.len) && r.perm.testBit k

/-- The page `[base, base + size)` lies in one granted range. -/
def State.inOneRange (s : State) (asid base size : Nat) : Bool :=
  (s.ctx asid).ranges.any fun r => decide (r.base ≤ base) && decide (base + size ≤ r.base + r.len)

/-- R, W and X are all clear: a pointer to the next node (R374). -/
def isPointer (e : Word) : Bool := bits e 3 1 == 0

/-- An address from an entry: as it stands in the root, sign-extended from bit 51 elsewhere (R374). -/
def entryAddr (asid : Nat) (a : Nat) : Word := if asid = 0 then word a else sext 52 a

/-- The address of a leaf's page or of a pointer's node. -/
def entryBase (e : Word) : Nat :=
  if isPointer e then bits e 55 12 * 2 ^ 12
  else if bits e 6 5 = 2 then bits e 47 16 * 2 ^ 16 else bits e 55 16 * 2 ^ 16

/-- The page size of a leaf at a level. -/
def leafSize (lv : Nat) : Nat := 2 ^ (16 + 9 * (3 - lv))

/-- The cores a leaf names lie in the context's core set (R99, R376). -/
def State.homeOk (s : State) (asid : Nat) (e : Word) : Bool :=
  match bits e 6 5 with
  | 1 => s.inSet asid (bits e 15 7)
  | 2 => bits e 63 48 != 0 &&
      (List.range 16).all fun i => !(bits e 63 48).testBit i || s.inSet asid (bits e 11 7 * 16 + i)
  | _ => true

/-- A valid entry is malformed (R374). -/
def State.malformed (s : State) (asid lv : Nat) (e : Word) : Bool :=
  if isPointer e then
    lv == 3 || bits e 63 56 != 0 || bits e 11 1 != 0 || (asid != 0 && bits e 55 52 != 0)
  else
    let home := bits e 6 5
    (bit e 2 && !bit e 1) || lv == 0 || home == 3 ||
      (if home == 2 then bits e 15 12 != 0
       else bits e 63 56 != 0 || (home == 0 && bits e 15 7 != 0) || (asid != 0 && bits e 55 52 != 0)) ||
      entryBase e % leafSize lv != 0 || !s.homeOk asid e

/-- The visible frame of a machine address (R127). -/
def State.visible (s : State) (pa : Nat) : Nat :=
  if has s.remap (pa / 0x10000) then get 0 s.remap (pa / 0x10000) * 0x10000 + pa % 0x10000 else pa

/-- The levels of a walk from level `4 - n` on (R375), which ends at a node address that no memory holds as at a malformed
entry (R97, log 76). `up` translates an address of this context's output space. -/
def State.levels (s : State) (asid : Nat) (up : Word → Nat → Except WFail Tr) (va : Word) (k : Nat) :
    Nat → Word → List (Nat × Word) → Except WFail Tr
  | 0, _, _ => .error ⟨asid, va, 2, k⟩
  | n + 1, node, via =>
    let lv := 3 - n
    let a := node + word (8 * (va.toNat / 2 ^ (43 - 9 * lv) % 512))
    let read : Except WFail (Nat × List (Nat × Word)) :=
      if asid = 0 then .ok (a.toNat, via)
      else if s.granted asid a kRead then (up a kRead).map fun t => (t.raw, via ++ t.via)
      else .error ⟨asid, va, 3, k⟩
    match read with
    | .error f => .error f
    | .ok (pa, via) =>
      let e := s.readWord (s.visible pa)
      if s.kindOf (s.visible pa) = none then .error ⟨asid, va, 2, k⟩
      else if !bit e 0 then .error ⟨asid, va, 0, k⟩
      else if s.malformed asid lv e then .error ⟨asid, va, 2, k⟩
      else if isPointer e then s.levels asid up va k n (entryAddr asid (entryBase e)) via
      else if !bit e (k + 1) then .error ⟨asid, va, 1, k⟩
      else
        let size := leafSize lv
        let off := va.toNat % size
        let out := entryAddr asid (entryBase e) + word off
        if asid = 0 then .ok ⟨out.toNat, out.toNat, size, e, bit e 4, via⟩
        else if !s.granted asid out k then .error ⟨asid, va, 3, k⟩
        else
          let size := if s.inOneRange asid (out.toNat - off) size then size else 2 ^ 16
          match up out k with
          | .error f => .error f
          | .ok p =>
            .ok ⟨p.raw, p.raw, min size p.size, if bits e 6 5 ≠ 0 then e else p.attr, bit e 4 || p.dup, via ++ p.via⟩

/-- The composed walk of R375. The first argument bounds the depth of the context. -/
def State.walk (s : State) : Nat → Nat → Word → Nat → Except WFail Tr
  | 0, asid, va, k => .error ⟨asid, va, 0, k⟩
  | d + 1, asid, va, k =>
    let c := s.ctx asid
    if !bit c.ptroot 0 then .error ⟨asid, va, 0, k⟩
    else
      s.levels asid (fun a k => s.walk d c.parent a k) va k 4 (c.ptroot &&& ~~~0xFFF)
        [(asid, va)]

/-- The nodes that a walk of one context reads from a level on, with those of the walks that it makes of its parent (`above`):
machine address and the leaf that governs the node's home. -/
def State.nodesFrom (s : State) (asid : Nat) (up : Word → Except WFail Tr) (above : Word → List (Nat × Word)) (va : Word) :
    Nat → Word → List (Nat × Word)
  | 0, _ => []
  | n + 1, node =>
    let a := node + word (8 * (va.toNat / 2 ^ (16 + 9 * n) % 512))
    let at_ : Except WFail (Nat × Word) := if asid = 0 then .ok (a.toNat, 0) else (up a).map fun t => (t.raw, t.attr)
    let mine := if asid = 0 then [] else above a
    match at_ with
    | .error _ => mine
    | .ok p =>
      let e := s.readWord (s.visible p.1)
      mine ++ (s.visible p.1, p.2) ::
        if !bit e 0 || s.malformed asid (3 - n) e then []
        else if isPointer e then s.nodesFrom asid up above va n (entryAddr asid (entryBase e))
        else if asid = 0 then []
        else above (entryAddr asid (entryBase e) + word (va.toNat % leafSize (3 - n)))

/-- The nodes that the composed walk of an address reads. The first argument bounds the depth of the context. -/
def State.walkNodes (s : State) : Nat → Nat → Word → List (Nat × Word)
  | 0, _, _ => []
  | d + 1, asid, va =>
    let c := s.ctx asid
    if !bit c.ptroot 0 then []
    else s.nodesFrom asid (fun a => s.walk d c.parent a kRead) (fun a => s.walkNodes d c.parent a) va 4 (c.ptroot &&& ~~~0xFFF)

/-- A cached composed entry for an access (R377). -/
def State.cached (s : State) (asid : Nat) (va : Word) (k : Nat) : Option Tr :=
  (s.tlb.find? fun e =>
    e.asid == asid && e.kind == k && decide (e.base.toNat ≤ va.toNat) && decide (va.toNat < e.base.toNat + e.size)).map
    fun e => ⟨e.pa + (va.toNat - e.base.toNat), e.pa + (va.toNat - e.base.toNat), e.size, e.attr, e.dup, e.via⟩

/-- A translation through the tables: a stale cached entry may still serve (R377). -/
def State.tables (s : State) (asid : Nat) (va : Word) (k : Nat) : Except WFail Tr :=
  let w := s.walk ((s.ctx asid).depth + 1) asid va k
  match s.cached asid va k with
  | none => w
  | some e =>
    match w with
    | .ok t => if t.raw = e.raw ∧ t.attr = e.attr ∧ t.dup = e.dup then w
        else if Config.useStale s.free va.toNat then .ok e else w
    | .error _ => if Config.useStale s.free va.toNat then .ok e else w

/-- Remember the entry that a translation used. -/
def State.cacheTr (s : State) (asid : Nat) (va : Word) (k : Nat) (t : Tr) : State :=
  if (s.cached asid va k).isSome then s
  else
    let off := va.toNat % t.size
    { s with tlb := ⟨asid, va - word off, t.size, k, t.raw - off, t.attr, t.dup, t.via⟩ :: s.tlb }

/-- Who accesses: context, core, whether it is a control-core thread, which has no local window (R96). -/
structure Who where
  asid : Nat
  core : Nat
  cc : Bool
  deriving DecidableEq, Repr

/-- The thread that issues, as an accessing agent. -/
def State.who (s : State) : Who := ⟨s.th.asid, s.th.core, s.th.cc⟩

/-- A thread as an accessing agent. -/
def State.whoOf (s : State) (uid : Nat) : Who := ⟨(s.thread uid).asid, (s.thread uid).core, (s.thread uid).cc⟩

/-- An address of the local window (R96). -/
def local? (w : Who) (va : Word) : Bool := !w.cc && va.toNat < 0x200000

/-- An address of the control-and-status window as the root sees it, which no walk translates (R97, R335, R378, log 22). -/
def window? (w : Who) (va : Word) : Bool :=
  w.asid == 0 && decide (csrBase ≤ va.toNat) && decide (va.toNat < csrEnd)

/-- The nodes that the translation of an access reads: none where no walk is made, or an entry is cached (R377). -/
def State.nodesRead (s : State) (w : Who) (va : Word) (k : Nat) : List (Nat × Word) :=
  if local? w va || window? w va || (s.cached w.asid va k).isSome then []
  else s.walkNodes ((s.ctx w.asid).depth + 1) w.asid va

/-- The homes of those nodes. -/
def State.nodeHomes (s : State) (w : Who) (va : Word) (k : Nat) : List Home :=
  (s.nodesRead w va k).map fun n => s.homeOf n.1 n.2

/-- A context owns a scratchpad bank (R330). -/
def State.ownsBank (s : State) (asid b : Nat) : Bool := bit (s.ctx asid).bankmask b

/-- Steps 3 to 6 of R167: translation or bank mask, permission and populated memory, CXL present, WRITE_DUP. -/
def State.translate (s : State) (w : Who) (va : Word) (k : Nat) : Except Trap Tr :=
  if local? w va then
    if s.ownsBank w.asid (va.toNat / 0x20000) then
      .ok ⟨scratch w.core va.toNat, scratch w.core va.toNat, 0x200000, 0, false, []⟩
    else .error (.of .prot va)
  else if window? w va then
    if k = kFetch then .error (.of .prot va) else .ok ⟨va.toNat, va.toNat, 0x8000, 0, false, []⟩
  else
    match s.tables w.asid va k with
    | .error f => .error (f.trap w.asid)
    | .ok t =>
      let pa := s.visible t.raw
      match s.kindOf pa with
      | none => .error (.of .prot va)
      | some kd =>
        if kd = .csr ∧ w.asid ≠ 0 then .error (.of .prot va)
        else if k = kFetch ∧ (kd = .second ∨ kd = .cxl ∨ kd = .peer ∨ kd = .csr) then .error (.of .prot va)
        else if kd = .cxl ∧ !bit (Config.feat s.part) 3 then .error (.of .unitAbsent va)
        else if k = kWrite ∧ t.dup then .error (.of .writeDup va)
        else .ok { t with pa := pa }

/-- The checks of R167 for an access of `size` bytes. -/
def State.check (s : State) (w : Who) (va : Word) (size k : Nat) : Except Trap Tr :=
  if !canonical va then .error (.of .prot va)
  else if va.toNat % size ≠ 0 then .error (.of .align va)
  else s.translate w va k

/-- Step of a range check: the next 64 KiB page. -/
def nextPage (va : Word) : Word := word ((va.toNat / 0x10000 + 1) * 0x10000)

/-- One page of a range: a read-duplicated page fails a store only where `dup` is not set, and the control-and-status
window takes no range of bytes (R335, log 22) unless `lines` says that nothing is accessed there. -/
def State.checkPage (s : State) (w : Who) (k : Nat) (dup lines : Bool) (va : Word) : Except Trap Unit :=
  match s.translate w va k with
  | .error t => if dup ∧ t.cause = .writeDup then .ok () else .error t
  | .ok t => if s.kindOf t.pa = some .csr ∧ !lines then .error (.of .prot va) else .ok ()

/-- The checks of a range, page by page, without ALIGN (R199, R230): the first failure, at its address. -/
def State.checkPages (s : State) (w : Who) (k : Nat) (dup lines : Bool) : Nat → Word → Nat → Except Trap Unit
  | 0, _, _ => .ok ()
  | n + 1, va, len =>
    if len = 0 then .ok ()
    else if !canonical va then .error (.of .prot va)
    else
      match s.checkPage w k dup lines va with
      | .error t => .error t
      | .ok _ =>
        let here := if local? w va then 0x20000 - va.toNat % 0x20000 else 0x10000 - va.toNat % 0x10000
        if len ≤ here then .ok () else s.checkPages w k dup lines n (va + word here) (len - here)

/-- A range check. -/
def State.checkRange (s : State) (w : Who) (va : Word) (len k : Nat) (dup lines : Bool := false) :
    Except Trap Unit :=
  s.checkPages w k dup lines (len / 0x10000 + 2) va len

/-- The machine address of a checked virtual address; 0 where translation fails. -/
def State.paOf (s : State) (w : Who) (va : Word) (k : Nat) : Nat :=
  match s.translate w va k with
  | .ok t => t.pa
  | .error _ => 0

/-- The bytes of a range, translated page by page. -/
def State.readRange (s : State) (w : Who) (k : Nat) : Nat → Word → List Byte
  | 0, _ => []
  | n + 1, va => s.byte (s.paOf w va k) :: s.readRange w k n (va + 1)

/-- A word at a virtual address, read without checks. -/
def State.loadWord (s : State) (w : Who) (va : Word) : Word := s.readWord (s.paOf w va kRead)

end Sys2Proof.Machine
end

