-- ==== Sys2Proof/Machine/Access.lean ====
section
/-! DEFINITION. Accesses at their homes (R112): what may be performed next (R113, R119, R219), stores and what depends
on them (full/empty waiters, `waita`, the store-arrival log, retired frames), reservations, and the bytes that go back
to the issuing thread. -/

namespace Sys2Proof.Machine

/-! ### Core registers reached by number -/

/-- DEPCFG as it reads (R240). -/
def StepState.depcfg (n : StepState) : Word :=
  if !n.active then word (n.wdog * 2 ^ 12)
  else
    word (n.group * 2 ^ 32 + n.nt % 32 * 2 ^ 24 + (if n.cutHeld then 2 ^ 23 else 0) + (if n.cutPend then 2 ^ 22 else 0) +
      n.wdog * 2 ^ 12 + n.succs.length * 2 ^ 8 + n.preds.length * 2 ^ 4 + 1)

/-- The core-held registers of R57, R327 and R335; other numbers read 0. -/
def Core.cr (k : Core) (n : Nat) : Word :=
  if n = 0x10 then k.step
  else if n = 0x11 then k.stepDone
  else if n = 0x12 then k.nb.depcfg
  else if 0x50 ≤ n ∧ n ≤ 0x5F then (get 0 k.bfmt (n - 0x50)).setWidth 64
  else if n = 0x400 then k.salcfg
  else if n = 0x401 then k.salseq
  else 0

/-- Write a core-held register: each field under its Access column (R3, R59, R62, R240, R334). -/
def Core.setCr (k : Core) (n : Nat) (v : Word) : Core :=
  if n = 0x10 then { k with step := v }
  else if n = 0x11 then { k with stepDone := v }
  else if n = 0x12 then { k with nb := { k.nb with wdog := bits v 15 12 } }
  else if 0x50 ≤ n ∧ n ≤ 0x5F then { k with bfmt := set 0 k.bfmt (n - 0x50) (v.setWidth 4) }
  else if n = 0x400 then { k with salcfg := v &&& 0xFFFFFFFFFFFFF01F }
  else if n = 0x401 then { k with salseq := v, salmark := v }
  else k

/-- The register that a byte of the control-and-status window belongs to: core and number (R335). -/
def csrReg (pa : Nat) : Nat × Nat := ((pa - csrBase) / 0x8000, (pa - csrBase) % 0x8000 / 8)

/-- What the window reads at an address: every offset of a core that is not there reads zero (R5, R335). -/
def State.csrWord (s : State) (pa : Nat) : Word :=
  let (c, n) := csrReg pa
  if Config.cores s.part ≤ c then 0 else (s.core c).cr n

/-- A store to the window writes the register, unless R59 or R62 keeps its value or there is no such core (R5). -/
def State.setCsr (s : State) (pa : Nat) (v : Word) : State :=
  let (c, n) := csrReg pa
  if Config.cores s.part ≤ c then s
  else if (n = 0x10 ∨ n = 0x11) ∧ (s.core c).nb.active then s
  else if 0x50 ≤ n ∧ n ≤ 0x5F ∧ 10 < (v.setWidth 4).toNat then s
  else if 0x50 ≤ n ∧ n ≤ 0x5F ∧ ((v.setWidth 4).toNat = 8 ∨ (v.setWidth 4).toNat = 9) ∧ !Config.cinder s.part then s
  else s.onCore c (·.setCr n v)

/-- What a thread's store to the window raises in its issue turn, by the rules of the register that it writes (R59, R62, R335):
`w` is the word of the instruction. -/
def State.csrFault (s : State) (pa : Nat) (v w : Word) : Option Trap :=
  let (c, n) := csrReg pa
  if s.kindOf pa ≠ some .csr ∨ Config.cores s.part ≤ c then none
  else if (n = 0x10 ∨ n = 0x11) ∧ (s.core c).nb.active then some (.of .stepCfg 5)
  else if n < 0x50 ∨ 0x5F < n then none
  else if 10 < (v.setWidth 4).toNat then some (.of .illegalOp w)
  else if ((v.setWidth 4).toNat = 8 ∨ (v.setWidth 4).toNat = 9) ∧ !Config.cinder s.part then some (.of .unitAbsent w)
  else none

/-! ### Scopes (R116 to R118) -/

/-- The instance that a core lies in at a level: 1 the core, 2 its cluster, 3 its die (R5, R116, R117). -/
def instOf (level core : Nat) : Nat := if level = 1 then core else if level = 2 then core / 16 else core / 160

/-- The barrel core that a home belongs to. -/
def Home.core? : Home → Option Nat
  | .bank c _ => some c
  | .slice c => some c
  | .csr c => some c
  | _ => none

/-- The home lies outside the module: what goes there passes its ports. -/
def Home.far : Home → Bool
  | .cxl _ => true
  | .peer _ => true
  | _ => false

/-- The home is a cluster's network interface, which only arrivals go to: they pass no egress point, and what they follow of
other agents' accesses is listed in them (log 80). -/
def Home.isNet : Home → Bool
  | .net _ => true
  | _ => false

/-- An agent on a core, or one that no core holds, leaves its instance of a level for a home, and so passes that instance's
egress point. -/
def leaves (core : Option Nat) (h : Home) (level : Nat) : Bool :=
  if h.isNet then false
  else if level = 4 then h.far
  else
    match core with
    | none => false
    | some c => decide (1 ≤ level) && decide (level ≤ 3) && h.core?.map (instOf level) != some (instOf level c)

/-- A combining node. -/
def Owner.isNode : Owner → Bool
  | .node _ => true
  | _ => false

/-- An access leaves its agent's instance of a level. A combining node, whose `core` is the first of its cluster, lies in its
cluster and wider only (R117). -/
def Acc.leaves (a : Acc) (level : Nat) : Bool :=
  Sys2Proof.Machine.leaves a.core a.home level && !(level == 1 && a.owner.isNode)

/-- Two agents pass the same egress point at a level. -/
def samePoint (level : Nat) (c d : Option Nat) : Bool :=
  level == 4 ||
    match c, d with
    | some c, some d => instOf level c == instOf level d
    | _, _ => false

/-- When an egress point accepted an access. -/
def Acc.stamp (a : Acc) (level : Nat) : Option Nat := (a.ports.find? fun p => p.1 == level).map Prod.snd

/-- An access that is not yet performed at its home has been performed to a scope (R118): its home lies outside that
instance of its agent, and the egress point has accepted it; one to a CXL window, once the CXL port has, below .sy. -/
def Acc.doneTo (a : Acc) (scope : Nat) : Bool :=
  match a.home with
  | .cxl _ =>
    decide (scope < 6) && ((a.stamp 4).isSome || (a.leaves scope && (a.stamp scope).isSome))
  | _ => decide (scope < 5) && a.leaves scope && (a.stamp scope).isSome

/-- An egress point that two accesses pass accepted the first before the second reaches it. -/
def Acc.ahead (b a : Acc) (level : Nat) : Bool :=
  samePoint level b.core a.core &&
    match b.stamp level with
    | none => false
    | some n =>
      match a.stamp level with
      | none => true
      | some m => decide (n < m)

/-! ### Agents -/

/-- The accesses of an agent that are not yet performed, wherever they wait. -/
def State.pending (s : State) (o : Owner) : List Acc :=
  (s.accs ++ s.waiters ++ s.resq ++ s.overflow).filter fun a => a.owner == o

/-- The source of a store as the log writes it: ASID, KIND, UNIT, TID (R129). What the hardware writes of itself counts as
the host's, and UNIT of the Geyser engine and the host, and the ASID of the host and of a peer module, are zero (log 74). -/
def State.source (s : State) (o : Owner) (asid : Nat) : Word :=
  match o with
  | .thread u =>
    let t := s.thread u
    word (asid * 2 ^ 52 + (if t.cc then 1 else 0) * 2 ^ 48 + (if t.cc then t.core * 4 + t.slot else t.core) * 2 ^ 32 +
      t.slot * 2 ^ 16 + t.thread)
  | .image _ => word (asid * 2 ^ 52)
  | .engine c => word (asid * 2 ^ 52 + 2 * 2 ^ 48 + c * 2 ^ 32)
  | .node _ => word (asid * 2 ^ 52)
  | .geyser => word (asid * 2 ^ 52 + 3 * 2 ^ 48)
  | .host => word (5 * 2 ^ 48)
  | .device => word (5 * 2 ^ 48)
  | .peer n => word (4 * 2 ^ 48 + n * 2 ^ 32)

/-- The barrel core that an agent is on (R117). -/
def State.coreOf (s : State) (o : Owner) : Option Nat :=
  match o with
  | .thread u => if (s.thread u).cc then none else some (s.thread u).core
  | .engine c => some c
  | .node c => some (16 * c)
  | _ => none

/-- A new access of an agent, plain: its number is the state's next name. -/
def State.newAcc (s : State) (o : Owner) (asid out off : Nat) (h : Home) (va : Word) (pa size : Nat) (op : AccOp) : Acc :=
  { id := s.next, owner := o, asid := asid, src := s.source o asid,
    pc := match o with
      | .thread u => (s.thread u).pc
      | _ => 0,
    core := s.coreOf o, ports := [], out := out, off := off,
    home := h, va := va, pa := pa, size := size, op := op, acq := false, rel := false, sco := 0, due := 0 }

/-- An access is issued. -/
def State.issueAcc (s : State) (a : Acc) : State := { s with accs := s.accs ++ [a], next := s.next + 1 }

/-- The core whose memory port performs accesses at a home (R128). -/
def portOf : Home → Option Nat
  | .bank c _ => some c
  | .slice c => some c
  | _ => none

/-! ### Bytes back to the issuer -/

/-- Offsets of a save image's fields that are written while the thread is saved (R389, R390). XPOIS is a mask. -/
def imgPc : Nat := 16
def imgWait : Nat := 104
def imgXPois : Nat := 296
def imgReg (n : Nat) : Nat := 512 + 8 * n

/-- The poison bits of x0 to x63 in an image after a write of one of them. -/
def poisonBits (old : Word) (n : Nat) (bad : Bool) : Word :=
  let m : Word := (1 : Word) <<< n
  if bad then old ||| m else old &&& ~~~m

/-- A home serves the registered condition of a saved thread (R390): result, WAIT and PC in its image. `out` holds the
7 bits of the destination operand, which uncorrectable data poisons as it does a resident thread's (R27). -/
def State.serveSaved (s : State) (img out : Nat) (bs : List Byte) (bad : Bool) : State :=
  let s := if out = 0 ∨ bs = [] then s
    else if 64 ≤ out then
      s.onCore (s.readNat (img + 8) 8 % 512) fun k =>
        let k := if bad then k else k.setY (out - 64) (BitVec.ofNat 64 (fromBytes bs))
        if bad then { k with yPoison := (out - 64) :: k.yPoison } else k
    else
      let s := if bad then s else s.storeBytes (img + imgReg out) bs
      s.storeBytes (img + imgXPois) (toBytes 8 (poisonBits (s.readWord (img + imgXPois)) out bad).toNat)
  let s := s.storeBytes (img + imgWait) [0]
  s.storeBytes (img + imgPc) (toBytes 8 (s.readNat (img + imgPc) 8 + 8))

/-- Bytes of one access reach the outstanding result that it belongs to. -/
def Outst.add (o : Outst) (off : Nat) (bs : List Byte) (bad : Bool) : Outst :=
  { o with need := o.need - 1, got := o.got ++ [(off, bs)], bad := if bad then o.bad ++ [off] else o.bad }

/-- An access is performed: its bytes go to its issuer. -/
def State.deliver (s : State) (a : Acc) (bs : List Byte) (bad : Bool) : State :=
  match a.owner with
  | .thread u =>
    if a.out = 0 then s
    else s.onThread u fun t => { t with outst := modFirst (fun o => o.id == a.out) (·.add a.off bs bad) t.outst }
  | .image p => s.serveSaved p a.out bs bad
  | .host => if a.out = 0 then s else { s with replies := bs :: s.replies }
  | .device => if a.out = 0 then s else { s with replies := bs :: s.replies }
  | .peer _ => if a.out = 0 then s else { s with replies := bs :: s.replies }
  | _ => s

/-! ### Stores -/

/-- The ring entries of the store-arrival log (R334). -/
def salEntries (cfg : Word) : Nat := 128 * 2 ^ bits cfg 4 1

/-- Write one record of the log, unless the ring is full (R128, R129); a record that is dropped uses up LOST all the same
(log 74). -/
def State.salRecord (s : State) (c : Nat) (word8 : Nat) (src time : Word) : State :=
  let k := s.core c
  let n := salEntries k.salcfg
  let s1 :=
    if n ≤ (k.salseq - k.salmark).toNat then s
    else s.storeBytes (bits k.salcfg 63 12 * 4096 + 32 * (k.salseq.toNat % n))
      (toBytes 8 time.toNat ++ toBytes 8 (8 * word8) ++
        toBytes 8 (src.toNat + if k.lost then 2 ^ 31 else 0) ++ toBytes 8 k.salseq.toNat)
  s1.onCore c fun k => { k with salseq := k.salseq + 1, lost := false }

/-- One word of the `n`-th store that passes a memory port that logs (R128): earlier racing stores are recorded first. LOST is
set whenever a store not older than 1,000 ns leaves the 1,024 that are looked back at, whether or not a later store then
races with it (log 74, the model's choice). -/
def State.salWord (s : State) (c n : Nat) (src : Word) (w8 : Nat) : State :=
  let k := s.core c
  if !bit k.salcfg 0 then s
  else
    let racing := fun (e : Past) => e.word8 == w8 && e.src != src && decide ((s.now - e.time).toNat ≤ 1000)
    let firsts := k.stores.filter fun e => racing e && !e.noted
    let hit := k.stores.any racing
    let s1 := forEach (fun (e : Past) s => s.salRecord c e.word8 e.src e.time) firsts s
    let s2 := if hit then s1.salRecord c w8 src s.now else s1
    s2.onCore c fun k =>
      let old := k.stores.map fun e => if racing e then { e with noted := true } else e
      let all := old ++ [⟨n, w8, src, s.now, hit⟩]
      let out := all.filter fun e => decide (e.store + 1024 ≤ n)
      { k with stores := all.filter fun e => decide (n < e.store + 1024),
               lost := k.lost || out.any fun e => decide ((s.now - e.time).toNat ≤ 1000) }

/-- The words that bytes `[pa, pa + n)` touch. -/
def wordsOf (pa n : Nat) : List Nat := (List.range ((pa + n + 7) / 8 - pa / 8)).map (· + pa / 8)

/-- The log sees a store at a home. -/
def State.sal (s : State) (h : Home) (src : Word) (pa n : Nat) : State :=
  match portOf h with
  | none => s
  | some c =>
    if !bit (s.core c).salcfg 0 then s
    else
      let i := match (s.core c).stores.getLast? with
        | some e => e.store + 1
        | none => 0
      forEach (fun w s => s.salWord c i src w) (wordsOf pa n) s

/-- Hold an event for queue space (R362): at most one trap a thread, and at most 64 page requests. -/
def State.holdEvent (s : State) (a : Nat) (e : Event) : State :=
  s.onCtx a fun c =>
    if e.kind = 4 ∧ 64 ≤ (c.heldEvents.filter fun h => h.kind == 4).length then { c with lost := c.lost + 1 }
    else { c with heldEvents := (c.heldEvents.filter fun h => h.uid.isNone || h.uid != e.uid) ++ [e] }

/-- A home retires a frame that holds a store it could not write correctly: once per frame, with a page request of
source 2 to the root (R107, R384). -/
def State.retire (s : State) (pa : Nat) : State :=
  let f := pa / 0x10000
  if s.badFrames.contains f && !s.retired.contains f then
    State.holdEvent { s with retired := s.retired ++ [f], pool := s.pool.filter (· ≠ f) } 0
      ⟨4, 0, false, false, 0, 0, 0, word (f * 0x10000 + 2), 0, s.now, none⟩
  else s

/-- The bytes that a store leaves: unstated where the home cannot write correctly. -/
def State.written (s : State) (pa : Nat) (bs : List Byte) : List Byte :=
  if s.badFrames.contains (pa / 0x10000) then (List.range bs.length).map fun i => Config.freeByte s.free (pa + i) else bs

/-- The live contexts whose context block holds a machine address (R352). -/
def State.blockOf (s : State) (pa : Nat) : List Nat :=
  (s.ctxs.filter fun e => e.2.block.contains (pa / 0x10000)).map Prod.fst

/-- A write to a context block can lose or alter what it holds (R352): which entries, and how, is not stated. -/
def State.disturb (s : State) (root : Nat) : State :=
  let lose := fun (i : Nat) => Config.freeBit s.free (7000 + i)
  let kept := fun {α : Type} (k : Nat) (l : List α) => (l.zipIdx.filter fun e => !lose (k + e.2)).map Prod.fst
  let any := fun (i : Nat) => BitVec.ofNat 64 (Config.freeNat (s.free + i))
  let s := forEach (fun a s => s.onCtx a fun c => { c with
    inbox := (kept 0 c.inbox).map fun m => (m.1, m.2.1 ^^^ any 1, m.2.2),
    heldEvents := (kept 1000 c.heldEvents).map fun e => { e with addr := e.addr ^^^ any 2 },
    runq := c.runq.map fun q => (q.1, kept (2000 + q.1) q.2),
    overflow := kept 3000 c.overflow,
    launches := (kept 4000 c.launches).map fun l => { l with arg := l.arg ^^^ any 3 },
    pcntSaved := c.pcntSaved.map fun p => (p.1, p.2 ^^^ any 4) }) (s.subtree root) s
  { s with threads := (s.threads.filter fun e => !(s.within e.2.asid root && !e.2.inSlot && lose (5000 + e.1))).map fun e =>
      if s.within e.2.asid root && !e.2.inSlot then
        (e.1, { e.2 with pc := e.2.pc ^^^ any 5, x := e.2.x.map fun r => (r.1, r.2 ^^^ any (6 + r.1)) })
      else e }

/-- What a write does to the context blocks that it meets (R352). -/
def State.disturbed (s : State) (pa : Nat) : State := forEach (fun c s => s.disturb c) (s.blockOf pa) s

/-- Write bytes at a home, with the log, frame retirement and context blocks, before any waiter is served. -/
def State.writeAt (s : State) (h : Home) (src : Word) (pa : Nat) (bs : List Byte) : State :=
  (((((s.rehome h pa bs.length).storeBytes pa (s.written pa bs)).claim h pa bs.length).sal h src pa bs.length).retire
    pa).disturbed pa

/-- The comparison of `waita` (R221). -/
def waitTest (cond : Nat) (w t : Word) : Bool :=
  match cond with
  | 0 => w == t
  | 1 => w != t
  | 2 => geMod w t
  | _ => !geMod w t

/-- The cycles that a reservation lasts at most (R219). -/
def resvLimit : Nat := 4096

/-- Another agent holds a reservation on a word that the bytes meet (R219). -/
def State.reserved (s : State) (o : Owner) (pa n : Nat) : Bool :=
  s.resv.any fun r => r.owner != o && decide (r.age < resvLimit) && decide (r.pa < pa + n) && decide (pa < r.pa + 8)

/-- The nodes of an access's walk on which another agent holds a reservation, so that their reads wait (R219, R377). -/
def State.nodesHeld (s : State) (o : Owner) (w : Who) (va : Word) (k : Nat) : List Need :=
  if s.resv.isEmpty then [] else ((s.nodesRead w va k).filter fun n => s.reserved o n.1 8).map fun n => (n.1, 7)

/-- A waiting request that the word's state satisfies now (R220, R221). -/
def State.satisfied (s : State) (a : Acc) : Bool :=
  !s.reserved a.owner a.pa 8 &&
    match a.op with
    | .ldfe _ => s.full a.pa
    | .stfe _ => !s.full a.pa
    | .waita c t => waitTest c (s.readWord a.pa) t
    | _ => true

/-- Perform a full/empty access or wait that is satisfied. -/
def State.serveOne (s : State) (a : Acc) : State :=
  match a.op with
  | .ldfe c => (if c then s.setFull a.pa false else s).deliver a (s.bytes a.pa 8) (s.isPoisoned a.pa 8)
  | .stfe v => ((s.writeAt a.home a.src a.pa (toBytes 8 v.toNat)).setFull a.pa true).deliver a [] false
  | .waita _ _ => s.deliver a (s.bytes a.pa 8) (s.isPoisoned a.pa 8)
  | _ => s

/-- Serve the oldest satisfied waiters of a word until none is satisfied (R28, R220). -/
def State.serveWord (w8 : Nat) : Nat → State → State
  | 0, s => s
  | n + 1, s =>
    match s.waiters.find? fun a => a.pa / 8 == w8 && s.satisfied a with
    | none => s
    | some a => State.serveWord w8 n (State.serveOne { s with waiters := s.waiters.filter fun b => b.id != a.id } a)

/-- Serve the waiters of every word of a range. -/
def State.serveRange (s : State) (pa n : Nat) : State :=
  if s.waiters.isEmpty then s
  else forEach (fun w s => State.serveWord w s.waiters.length s) (wordsOf pa n) s

/-- A store performed at a home, and the conditions that it satisfies. -/
def State.storeAt (s : State) (h : Home) (src : Word) (pa : Nat) (bs : List Byte) : State :=
  (s.writeAt h src pa bs).serveRange pa bs.length

/-! ### Atomics, reservations and wait lists -/

/-- A reservation request: it queues for a bank rather than waiting for a state. -/
def AccOp.isResv : AccOp → Bool
  | .atom _ _ _ => true
  | .mon => true
  | _ => false

/-- The reference count of a header word is sticky (R280). -/
def rcSticky (w : Word) : Bool := bits w 63 16 == 2 ^ 48 - 1

/-- The new value of an `atom` (R218). Codes from 16 on are the atomic operations of bytecodes: RC rises by 1 and falls by 1
(R280), and an allocation of `b` bytes below the end `d` (R279). -/
def atomNew (op : Nat) (old b d : Word) : Word :=
  match op with
  | 0 => old + b
  | 1 => old &&& b
  | 2 => old ||| b
  | 3 => old ^^^ b
  | 4 => if old.toInt ≤ b.toInt then old else b
  | 5 => if old.toInt ≤ b.toInt then b else old
  | 6 => if old.toNat ≤ b.toNat then old else b
  | 7 => if old.toNat ≤ b.toNat then b else old
  | 8 => b
  | 16 => if rcSticky old then old else old + 0x10000
  | 17 => if rcSticky old || bits old 63 16 == 0 then old else old - 0x10000
  | 18 => if old.toNat + b.toNat ≤ d.toNat then old + b else old
  | _ => if old = d then b else old

/-- The read-modify-write of an `atom` at its home. -/
def State.doAtom (s : State) (a : Acc) (op : Nat) (b d : Word) : State :=
  let old := s.readWord a.pa
  let bad := s.isPoisoned a.pa 8
  (s.storeAt a.home a.src a.pa (toBytes 8 (atomNew op old b d).toNat)).deliver a (toBytes 8 old.toNat) bad

/-- Two requests lie in one bank's queue (R217). -/
def sameBank (h1 : Home) (pa1 : Nat) (h2 : Home) (pa2 : Nat) : Bool := h1 == h2 && bankOf h1 pa1 == bankOf h2 pa2

/-- A reservation is held in a bank's queue. -/
def State.bankHeld (s : State) (h : Home) (pa : Nat) : Bool := s.resv.any fun r => sameBank r.home r.pa h pa

/-- The requests queued behind it. -/
def State.bankQueue (s : State) (h : Home) (pa : Nat) : List Acc := s.resq.filter fun r => sameBank r.home r.pa h pa

/-- Forward the word's value to the head of a queue: the reservation begins (R219). One whose thread has meanwhile issued
another `mon` or an `atom` ends at once. -/
def State.forward (s : State) (a : Acc) : State :=
  let later := (s.pending a.owner).any fun b => decide (a.id < b.id) && b.op.isResv
  State.deliver (if later then s else { s with resv := s.resv ++ [⟨a.owner, a.home, a.pa, 0⟩] }) a (s.bytes a.pa 8)
    (s.isPoisoned a.pa 8)

/-- Serve a bank's reservation queue while its head needs no reservation of its own. -/
def State.serveBank (h : Home) (pa : Nat) : Nat → State → State
  | 0, s => s
  | n + 1, s =>
    if s.bankHeld h pa then s
    else
      match s.resq.find? fun r => sameBank r.home r.pa h pa with
      | none => s
      | some a =>
        let s := { s with resq := s.resq.filter fun b => b.id != a.id }
        match a.op with
        | .atom op b d => State.serveBank h pa n (s.doAtom a op b d)
        | _ => State.serveBank h pa n (s.forward a)

/-- A refused requester is listed in arrival order and counted; its thread leaves its slot (R29). -/
def State.evict (s : State) (a : Acc) : State := State.count { s with overflow := s.overflow ++ [a] } a.asid 0x052

/-- A thread whose request takes a queue position parks until the value is forwarded to it (R28). -/
def State.parkQueued (s : State) (a : Acc) : State :=
  match a.owner with
  | .thread u =>
    if a.out = 0 then s
    else s.onThread u fun t => if t.park = .run then { t with park := .own a.out, parkedAt := s.now } else t
  | _ => s

/-- The places of a bank's reservation queue that are taken, the holder's included (R219). -/
def State.bankUsed (s : State) (h : Home) (pa : Nat) : Nat :=
  (s.bankQueue h pa).length + if s.bankHeld h pa then 1 else 0

/-- Queue for a reservation: at most 8 places in a bank, the holder's included (R219, R29). -/
def State.enqueueResv (s : State) (a : Acc) : State :=
  if s.bankUsed a.home a.pa = 0 then
    match a.op with
    | .atom op b d => s.doAtom a op b d
    | _ => s.forward a
  else if s.bankUsed a.home a.pa < 8 then State.parkQueued { s with resq := s.resq ++ [a] } a
  else (s.evict a).parkQueued a

/-- The waiters of a bank (R217, R221). -/
def State.bankWaiters (s : State) (h : Home) (pa : Nat) : Nat := (s.waiters.filter fun r => sameBank r.home r.pa h pa).length

/-- Wait for a full/empty state or a condition: at most 64 places in a bank (R29). -/
def State.enqueueWait (s : State) (a : Acc) : State :=
  if s.satisfied a then (s.serveOne a).serveRange a.pa 8
  else if s.bankWaiters a.home a.pa < 64 then { s with waiters := s.waiters ++ [a] }
  else s.evict a

/-- A request's bank has a free place for its kind (R29). -/
def State.hasRoom (s : State) (a : Acc) : Bool :=
  if a.op.isResv then decide (s.bankUsed a.home a.pa < 8) else decide (s.bankWaiters a.home a.pa < 64)

/-- Overflowed requests take the places that have become free, in the order of the list (R29). -/
def State.refill (s : State) : State :=
  forEach (fun (a : Acc) s =>
    if s.hasRoom a && s.overflow.any (fun b => b.id == a.id) then
      let s := { s with overflow := s.overflow.filter fun b => b.id != a.id }
      if a.op.isResv then s.enqueueResv a else s.enqueueWait a
    else s) s.overflow s

/-- End a reservation of an agent, written or not, and serve what waited (R219). -/
def State.endResv (s : State) (o : Owner) : State :=
  match s.resv.find? fun r => r.owner == o with
  | none => s
  | some r =>
    let s := { s with resv := s.resv.filter fun q => q.owner != o }
    State.serveBank r.home r.pa (s.resq.length + 1) (s.serveRange r.pa 8)

/-- The agent holds the reservation on a word, for less than its limit (R219). -/
def State.holds (s : State) (o : Owner) (pa : Nat) : Bool :=
  s.resv.any fun r => r.owner == o && r.pa == pa && decide (r.age < resvLimit)

/-! ### Performing an access -/

/-- The bytes that a load of an access returns: a register of the window, or memory. -/
def State.loadBytes (s : State) (a : Acc) : List Byte :=
  match a.home with
  | .csr _ => toBytes a.size (s.csrWord a.pa).toNat
  | _ => s.bytes a.pa a.size

/-- A store's bytes reach a home. -/
def State.storeHome (s : State) (a : Acc) (bs : List Byte) : State :=
  match a.home with
  | .csr _ => s.setCsr a.pa (BitVec.ofNat 64 (fromBytes bs))
  | _ => s.storeAt a.home a.src a.pa bs

/-- An access to a home is counted (R408): at its slice or agent, with the hops that the spec does not state. Whether it misses
is not stated either; a miss of a slice is a request at the home agent of its line, and a second one where it writes a line
back. `n` is a number of the access's own. -/
def State.countHome (s : State) (asid : Nat) (h : Home) (n : Nat) : State :=
  let free := fun (k : Nat) => if Config.freeBit s.free (k + n) then 1 else 0
  let agent := fun (s : State) (k : Nat) => (s.countN asid 0x022 k).countN asid 0x023 (k * free 4000)
  let s := s.countN asid 0x030 (Config.freeNat (s.free + 2 * n))
  let s := s.countN asid 0x031 (Config.freeNat (s.free + 2 * n + 1))
  match h with
  | .slice _ => agent ((s.count asid 0x020).countN asid 0x021 (free 3000)) (free 3000 * (1 + free 5000))
  | .agent _ => agent s 1
  | _ => s

/-- An access is counted at its home (R408). -/
def State.countAccess (s : State) (a : Acc) : State := s.countHome a.asid a.home a.id

/-- The node reads of a walk are counted in the contexts whose tables hold the nodes (R406); how many a walk makes is
not stated, since cached entries spare them (R377). -/
def State.walked (s : State) (l : List (Nat × Word)) : State :=
  forEach (fun (v : Nat × Word) s => s.countN v.1 0x060 (Config.freeNat (s.free + s.next))) l s

/-- Remember a translation that used the tables (R377). -/
def State.remember (s : State) (w : Who) (va : Word) (k : Nat) (t : Tr) : State :=
  if local? w va || window? w va then s else (s.walked t.via).cacheTr w.asid va k t

/-- The same for pages, each named by an address in it. -/
def State.rememberAll (s : State) (w : Who) (k : Nat) (l : List Word) : State :=
  forEach (fun a s => match s.translate w a k with
    | .ok t => s.remember w a k t
    | .error _ => s) l s

/-- Perform an access at its home (R112), payload units apart. -/
def State.perform (s : State) (a : Acc) : State :=
  let s := (s.countAccess a).rehome a.home a.pa a.size
  match a.op with
  | .load => s.deliver a (s.loadBytes a) (s.isPoisoned a.pa a.size)
  | .store bs => (s.storeHome a bs).deliver a [] false
  | .storeNib hi v =>
    let b := s.byte a.pa
    let b : Byte := if hi then v ++ b.extractLsb' 0 4 else b.extractLsb' 4 4 ++ v
    (s.storeHome a [b]).deliver a [] false
  | .atom op b d =>
    match a.home with
    | .cxl _ => s.doAtom a op b d
    | .peer _ => s.doAtom a op b d
    | _ => s.enqueueResv a
  | .ldfe _ => s.enqueueWait a
  | .stfe _ => s.enqueueWait a
  | .waita _ _ => s.enqueueWait a
  | .fset c =>
    let old : List Byte := toBytes 8 (if s.full a.pa then 1 else 0)
    ((((s.setFull a.pa (!c)).claim a.home a.pa 8).sal a.home a.src a.pa 8).deliver a old false).serveRange a.pa 8
  | .fget => s.deliver a (toBytes 8 (if s.full a.pa then 1 else 0)) false
  | .mon => s.enqueueResv a
  | .monrel v =>
    if s.holds a.owner a.pa then
      ((s.storeAt a.home a.src a.pa (toBytes 8 v.toNat)).deliver a [1] false).endResv a.owner
    else s.deliver a [0] false
  | .prefetch => s
  | .payload _ => s
  | .deposit _ _ _ _ _ => s
  | .signal _ _ => s

/-! ### What may be performed next -/

/-- An access that has reached its home and waits there for another agent's reservation to end (R219). -/
def State.heldOff (s : State) (a : Acc) : Bool := !a.op.isResv && s.reserved a.owner a.pa a.size

/-- Accesses that an egress point accepted before this one reaches it, to the same home: they go first (R118). -/
def State.queuedAhead (s : State) (a : Acc) : List Acc :=
  s.accs.filter fun b =>
    b.id != a.id && b.home == a.home && !s.heldOff b &&
      [1, 2, 3, 4].any fun l => a.leaves l && b.ahead a l

/-- An access waits behind a reservation that an agent holds (R219). -/
def State.behind? (s : State) (b : Acc) (o : Owner) : Bool :=
  s.resv.any fun r => r.owner == o &&
    if b.op.isResv then sameBank r.home r.pa b.home b.pa else decide (r.pa < b.pa + b.size) && decide (b.pa < r.pa + 8)

/-- Accesses of any agent that a release of an agent on a core must find performed to its scope: those that the egress
points inside its instance accepted before it (R118). Those that wait behind the agent's own reservation, which the release
may be about to end, and those whose word has not reached its state or condition, are not waited for (log 81). -/
def State.gathered (s : State) (a : Acc) (scope : Nat) : List Acc :=
  (s.accs ++ s.resq ++ s.overflow.filter (·.op.isResv)).filter fun b =>
    b.id != a.id && !s.behind? b a.owner && !b.doneTo scope && [1, 2, 3, 4].any fun l => decide (l < scope) && b.ahead a l

/-- Every named access has been performed to its scope, and every named command is accepted (R118, R123, R126). -/
def State.allDone (s : State) (l : List Need) : Bool :=
  l.all fun i =>
    if i.2 = 7 then !(s.resv.any fun r => decide (r.age < resvLimit) && decide (r.pa < i.1 + 8) && decide (i.1 < r.pa + 8))
    else !((s.accs ++ s.waiters ++ s.resq ++ s.overflow).any fun a => a.id == i.1 && !a.doneTo i.2) &&
      !(s.cmds.any fun c => c.id == i.1 && !c.accepted)

/-- An arrival may be made: what it follows has been performed to its scope, and its position's bit is clear, or its engine
has room to hold it (R226). -/
def State.mayArrive (s : State) (op : AccOp) : Bool :=
  match op with
  | .signal (.slot key pos) l => s.allDone l && (get Barrier.new s.barriers key).arrived &&& pos == 0
  | .signal (.engine key core) l =>
    let b := get Barrier.new s.barriers key
    s.allDone l && !(b.arrived.getLsbD (512 + core % 16) && decide (255 ≤ get 0 b.held (core % 16)))
  | _ => true

/-- An arrival follows what its own list names; another release what `gathered` finds (R118). -/
def AccOp.isSignal : AccOp → Bool
  | .signal _ _ => true
  | _ => false

/-- A thread has issued a seventeenth long instruction, whose accesses and results wait until another returns (R23). -/
def Thread.overLimit (t : Thread) (out : Nat) : Bool :=
  decide (16 < t.outst.length) &&
    match t.outst.getLast? with
    | some o => o.id == out
    | none => false

/-- The access belongs to its thread's seventeenth long instruction (R23). -/
def State.beyond (s : State) (a : Acc) : Bool :=
  match a.owner with
  | .thread u => (s.thread u).overLimit a.out
  | _ => false

/-- Two accesses belong to one instruction: its tag orders other accesses against it, and its elements among themselves only
at one home (R113, R119). -/
def Acc.sameOp (a b : Acc) : Bool := a.out == b.out && a.out != 0

/-- An engine keeps its operations apart, but for R113: it sends the release that ends one, the completion word, once every
payload write of that operation has been performed (R126). -/
def Owner.unordered : Owner → Bool
  | .engine _ => true
  | .node _ => true
  | .geyser => true
  | _ => false

/-- An earlier access of the same agent orders a later one by a tag (R119). -/
def Acc.orders (b a : Acc) : Bool := !a.owner.unordered && !b.sameOp a && (b.acq || (a.rel && !b.doneTo a.sco))

/-- An access may be performed now: no earlier one of its agent to the same home is pending (R113), none that it must
follow (R119), none that a common egress point accepted before it (R118), and no other agent's reservation holds the
word (R219). A release has found everything before it performed to its scope (R118, R119). -/
def State.mayPerform (s : State) (a : Acc) : Bool :=
  ((s.pending a.owner).all fun b => decide (a.id ≤ b.id) || !(b.home == a.home || b.orders a)) &&
  (s.queuedAhead a).isEmpty && (!a.rel || a.op.isSignal || (s.gathered a a.sco).isEmpty) && s.mayArrive a.op &&
  !s.beyond a && !s.heldOff a

/-- The next egress point of an access. -/
def Acc.nextPoint (a : Acc) : Option Nat :=
  [1, 2, 3, 4].find? fun l => a.leaves l && (a.stamp l).isNone

/-- An egress point may accept an access now (R118): nothing of its agent that it must follow is under way, and neither
its agent's earlier accesses to the home nor those accepted before it at an earlier point have still to reach this one. -/
def State.canPass (s : State) (k : Nat) : Bool :=
  match s.accs.find? fun a => a.id == k with
  | none => false
  | some a =>
    match a.nextPoint with
    | none => false
    | some l =>
      !s.beyond a && ((s.pending a.owner).all fun b => decide (a.id ≤ b.id) || b.sameOp a || !b.acq) &&
        s.accs.all fun b =>
          b.id == a.id || b.home != a.home || s.heldOff b || (b.stamp l).isSome ||
            !((b.owner == a.owner && decide (b.id < a.id)) || [1, 2, 3].any fun m => a.leaves m && b.ahead a m)

/-- An egress point accepts an access. -/
def State.pass (s : State) (k : Nat) : State :=
  { s with
    accs := s.accs.map fun a =>
      if a.id == k then
        match a.nextPoint with
        | none => a
        | some l => { a with ports := a.ports ++ [(l, s.next)] }
      else a,
    next := s.next + 1 }

end Sys2Proof.Machine
end

