-- ==== Sys2Proof/Machine/Units.lean ====
section
/-! DEFINITION. Operand slots, tiles and scale registers of a core: who holds them, and moving them into a saved thread
and back (R53 to R56, R192, R389, R391). -/

namespace Sys2Proof.Machine

/-- An operand slot. -/
def Core.slot (k : Core) (n : Nat) : Slot := get Slot.new k.slots n
/-- Change an operand slot. -/
def Core.setSlot (k : Core) (n : Nat) (o : Slot) : Core := { k with slots := put k.slots n o }
/-- A tile. -/
def Core.tile (k : Core) (n : Nat) : Tile := get Tile.new k.tiles n
/-- Change a tile. -/
def Core.setTile (k : Core) (n : Nat) (t : Tile) : Core := { k with tiles := put k.tiles n t }
/-- A scale register. -/
def Core.scale (k : Core) (n : Nat) : Scale := get Scale.new k.scales n
/-- Change a scale register. -/
def Core.setScale (k : Core) (n : Nat) (z : Scale) : Core := { k with scales := put k.scales n z }

/-- The list of a map's values at 0 to n - 1. -/
def dense {α : Type} (d : α) (m : Sparse α) (n : Nat) : List α := (List.range n).map (get d m)

/-- A map from the values of a list, without those equal to the default. -/
def sparseFrom {α : Type} [DecidableEq α] (d : α) : Nat → List α → Sparse α
  | _, [] => []
  | i, v :: r => if v = d then sparseFrom d (i + 1) r else (i, v) :: sparseFrom d (i + 1) r

/-- Write a list of values at keys from `i` on. -/
def setList {α : Type} [DecidableEq α] (d : α) (m : Sparse α) (i : Nat) : List α → Sparse α
  | [] => m
  | v :: r => setList d (set d m i v) (i + 1) r

/-- All 16,384 bytes of a slot. -/
def Slot.all (o : Slot) : List Byte := dense 0 o.bytes 16384
/-- All 1,024 bytes of a scale register. -/
def Scale.all (z : Scale) : List Byte := dense 127 z.bytes 1024
/-- The tag's generation differs from the register's (R55, R214). -/
def Core.stale (k : Core) (o : Slot) : Bool := !o.unit && o.gen != (k.scale o.z).gen

/-- The operation reads a scale register (R195, R203): an `mma` reads those that its slots were bound to. -/
def TileOp.reads (j : TileOp) (z : Nat) : Bool :=
  match j with
  | .mma _ _ _ _ _ za zb => (match za with
      | some p => p.1 == z
      | none => false) || (match zb with
      | some p => p.1 == z
      | none => false)
  | _ => false

/-- SLOTREC of a save image (R389): AUTO is that of a bound register which the slot's thread holds. Bit 32 is the slot's poison,
which the header holds apart. -/
def Core.slotRec (k : Core) (n : Nat) : Word :=
  let o := k.slot n
  word ((if o.state = 2 then 3 else o.state) + o.fmt * 2 ^ 4 + o.blk * 2 ^ 8 + (if o.unit then 2 ^ 10 else 0) +
    (if k.stale o then 2 ^ 11 else 0) + o.z % 64 * 2 ^ 12 +
    (if (k.scale o.z).auto && (k.scale o.z).owner == o.owner && !o.unit then 2 ^ 18 else 0) +
    if o.poison then 2 ^ 32 else 0)

/-- The 16 bytes of a tile element. -/
def Elem.bytes (e : Elem) : List Byte := toBytes 16 e.v.toNat

/-- The 17,408 bytes of a tile in an image (R389). -/
def Tile.image (t : Tile) : List Byte :=
  let els := dense Elem.zero t.el 1024
  let cls := (List.range 256).map fun i =>
    BitVec.ofNat 8 ((List.range 4).foldl (fun v j => v + (els.getD (4 * i + j) Elem.zero).cls * 4 ^ j) 0)
  els.flatMap Elem.bytes ++ cls ++
    toBytes 2 ((BitVec.ofInt 10 t.anchor).toNat + if t.set then 2 ^ 15 else 0) ++
    [BitVec.ofNat 8 ((if t.low then 1 else 0) + if t.high then 2 else 0), BitVec.ofNat 8 t.state] ++
    List.replicate 764 0

/-- A claimed tile from its bytes in an image. -/
def Tile.ofImage (uid : Nat) (bs : List Byte) : Tile :=
  let cls := (bs.drop 16384).take 256
  let els := (List.range 1024).map fun n =>
    (⟨(cls.getD (n / 4) 0).toNat / 4 ^ (n % 4) % 4, BitVec.ofNat 128 (fromBytes ((bs.drop (16 * n)).take 16))⟩ : Elem)
  let tail := bs.drop 16640
  let a := fromBytes (tail.take 2)
  let f := (tail.getD 2 0).toNat
  { Tile.new with
    state := 1, owner := some uid, anchor := (BitVec.ofNat 10 a).toInt, set := a.testBit 15,
    el := sparseFrom Elem.zero 0 els, low := f.testBit 0, high := f.testBit 1 }

/-- The units a thread holds, as a save takes them (R56, R389): slots, tiles that do not drain, and scale registers, those that
its slots are bound to included. Of a scale register, bit 0 is the AUTO that a restore gives it, and bit 1 says that the
thread does not hold it, so that ZHELD and ZAUTO leave it out. -/
def Core.unitsOf (k : Core) (uid : Nat) : List (Nat × Word × List Byte) :=
  let os := below 8 fun n => (k.slot n).owner == some uid
  let ts := below 8 fun n => (k.tile n).owner == some uid && (k.tile n).state == 1
  let zs := below 64 fun n => (k.scale n).owner == some uid || os.any fun o => !(k.slot o).unit && (k.slot o).z == n
  os.map (fun n => (n, k.slotRec n, (k.slot n).all)) ++
    ts.map (fun n => (8 + n, (if (k.tile n).poison then (2 ^ 32 : Word) else 0), (k.tile n).image)) ++
    zs.map fun n =>
      (16 + n, word ((if (k.scale n).owner != some uid then 3 else if (k.scale n).auto then 1 else 0) +
        if (k.scale n).poison then 2 ^ 32 else 0), (k.scale n).all)

/-- Free everything a thread holds: slots, scale registers, and every tile that is not draining, which only loses its
owner (R164, R197). -/
def Core.freeUnits (k : Core) (uid : Nat) : Core :=
  let k := forEach (fun n k => if (k.slot n).owner = some uid then k.setSlot n Slot.new else k) (List.range 8) k
  let k := forEach (fun n k =>
    let t := k.tile n
    if t.owner = some uid then k.setTile n (if t.state = 2 then { t with owner := none } else Tile.new) else k)
    (List.range 8) k
  forEach (fun n k =>
    let z := k.scale n
    if z.owner = some uid then k.setScale n { z with owner := none, auto := false } else k) (List.range 64) k

/-- Every unit number that a saved thread needs is free on the core (R391), and no waiting `mma` has still to read the scale
register that the restore writes (R203). -/
def Core.unitsFree (k : Core) (us : List (Nat × Word × List Byte)) : Bool :=
  us.all fun u =>
    if u.1 < 8 then (k.slot u.1).state == 0
    else if u.1 < 16 then (k.tile (u.1 - 8)).state == 0
    else (k.scale (u.1 - 16)).owner == none && !(k.jobs.any fun j => j.op.reads (u.1 - 16))

/-- Give a restored thread its units (R56, R391): every scale register is written, which advances its generation, and
the slots are bound to the new one, a slot saved stale one behind. The state in a SLOTREC that software has edited is taken as
it stands (log 37). -/
def Core.attach (k : Core) (uid : Nat) (us : List (Nat × Word × List Byte)) : Core :=
  let k := forEach (fun (u : Nat × Word × List Byte) k =>
    if 16 ≤ u.1 then
      let z := k.scale (u.1 - 16)
      k.setScale (u.1 - 16)
        { bytes := sparseFrom 127 0 u.2.2, gen := (z.gen + 1) % 1024, owner := some uid, auto := bit u.2.1 0, poison := bit u.2.1 32 }
    else k) us k
  forEach (fun (u : Nat × Word × List Byte) k =>
    if u.1 < 8 then
      let r := u.2.1
      let z := bits r 17 12
      let g := (k.scale z).gen
      k.setSlot u.1
        { state := bits r 1 0, owner := some uid, fmt := bits r 7 4, unit := bit r 10, z := z,
          gen := if bit r 11 then (g + 1023) % 1024 else g, blk := bits r 9 8,
          bytes := sparseFrom 0 0 (u.2.2.take 16384), poison := bit r 32 }
    else if u.1 < 16 then k.setTile (u.1 - 8) { Tile.ofImage uid u.2.2 with poison := bit u.2.1 32 }
    else k) us k

end Sys2Proof.Machine
end

