-- ==== Sys2Proof/Machine/Ops.lean ====
section
/-! DEFINITION. The operations that instructions and events share: the context tree, event queues, run queues and
slots, the end of a thread and of a launch, taking a trap and returning from one, and issuing accesses. -/

namespace Sys2Proof.Machine

/-! ### Event queues -/

/-- The trap codes of R385. -/
def Cause.code : Cause → Nat
  | .illegalOp => 0x01
  | .illegalReg => 0x02
  | .priv => 0x03
  | .unitAbsent => 0x04
  | .align => 0x05
  | .pageAbsent => 0x06
  | .prot => 0x07
  | .writeDup => 0x08
  | .nested => 0x09
  | .feTier => 0x0A
  | .scaleStale => 0x0B
  | .slotState => 0x0C
  | .linkOvf => 0x0D
  | .linkUnf => 0x0E
  | .stepLost => 0x0F
  | .stepCfg => 0x10
  | .longLat => 0x11
  | .poison => 0x12
  | .service => 0x13
  | .brk => 0x14
  | .revoked => 0x15
  | .stepStall => 0x16
  | .guard => 0x18
  | .type => 0x19

/-- The 32 bytes of an event (R361). -/
def Event.bytes (e : Event) : List Byte :=
  toBytes 8 (e.kind + e.code * 2 ^ 8 + (if e.prec then 2 ^ 16 else 0) + (if e.cc then 2 ^ 17 else 0) + e.thread * 2 ^ 32 +
    e.asid * 2 ^ 48 + e.depth * 2 ^ 60) ++ toBytes 8 e.addr.toNat ++ toBytes 8 e.pc.toNat ++ toBytes 8 e.now.toNat

/-- A context has an event queue (R386). -/
def State.hasQueue (s : State) (a : Nat) : Bool := bits (s.ctx a).ceqbase 63 12 != 0

/-- Entries of an event queue (R331). -/
def ceqEntries (base : Word) : Nat := if 4 ≤ bits base 4 0 ∧ bits base 4 0 ≤ 16 then 2 ^ bits base 4 0 else 16

/-- The number of the next entry to be written: those before it from TAIL on are on their way (R331). -/
def Ctx.eventNo (c : Ctx) : Word := c.ceqtail + word c.writing.length

/-- The queue has room. -/
def State.queueRoom (s : State) (a : Nat) : Bool :=
  decide (((s.ctx a).eventNo - (s.ctx a).ceqhead).toNat < ceqEntries (s.ctx a).ceqbase)

/-- The address of the next entry of an event queue (R331). -/
def Ctx.eventAddr (c : Ctx) : Word := word (bits c.ceqbase 63 12 * 4096 + 32 * (c.eventNo.toNat % ceqEntries c.ceqbase))

/-- The event by which the hardware reports that it could not use an address of a context: the failure's code and the
address, to the parent, or to the ancestor in whose tables the walk failed (R332, R379). -/
def State.reportFailure (s : State) (a : Nat) (va : Word) (tr : Trap) : State :=
  let e : Event := ⟨1, tr.cause.code, true, false, 0, a, (s.ctx a).depth, if tr.target.isSome then tr.addr else va, 0, s.now,
    none⟩
  s.holdEvent (tr.target.getD (s.ctx a).parent) e

/-- One 16-byte unit of an event entry, or of a descriptor, on its way as the hardware writes them, as a release at .mo (R105,
R331, R332). -/
def State.sendEvent (s : State) (a : Nat) (va : Word) (t : Tr) (bs : List Byte) (i : Nat) : State :=
  s.issueAcc { s.newAcc .host a 0 0 (s.homeOf t.pa t.attr) (va + word (16 * i)) (t.pa + 16 * i) 16
    (.store ((bs.drop (16 * i)).take 16)) with rel := true, sco := 4 }

/-- Write an event into a queue that has room, or treat the failure of its address (R331, R332): TAIL passes the entry once
both of its accesses have been performed. -/
def State.writeEvent (s : State) (a : Nat) (e : Event) : State :=
  let va := (s.ctx a).eventAddr
  match s.translate ⟨a, 0, true⟩ va kWrite with
  | .ok t =>
    let s := s.remember ⟨a, 0, true⟩ va kWrite t
    State.sendEvent (State.sendEvent (s.onCtx a fun c => { c with writing := c.writing ++ [s.next] }) a va t e.bytes 0) a va t
      e.bytes 1
  | .error tr =>
    if a = 0 then s.onCtx 0 fun c => { c with lost := c.lost + 1 }
    else (s.holdEvent a e).reportFailure a va tr

/-- The first entries of a queue of which both accesses have been performed. -/
def State.written? (s : State) (l : List Nat) : List Nat :=
  l.takeWhile fun k => !(s.accs.any fun a => a.id == k || a.id == k + 1)

/-- TAIL passes the entries that have been written, in order (R331). -/
def State.settleEvents (s : State) : State :=
  { s with ctxs := s.ctxs.map fun e =>
    let n := (s.written? e.2.writing).length
    if n = 0 then e else (e.1, { e.2 with writing := e.2.writing.drop n, ceqtail := e.2.ceqtail + word n }) }

/-- Post an event to a context's queue (R361, R362). A signal is posted by its own instruction. A context without a queue
loses it, counted (R386, log 75). -/
def State.postEvent (s : State) (a : Nat) (e : Event) : State :=
  if !s.hasQueue a then s.onCtx a fun c => { c with lost := c.lost + 1 }
  else if s.queueRoom a ∧ (s.ctx a).heldEvents = [] then s.writeEvent a e else s.holdEvent a e

/-- A page request (R382) to a context for a page of its space: `src` is the context whose agent met the absent page, and
`thread` its thread, 0 for an engine (R361). -/
def State.pageRequest (s : State) (a : Nat) (page : Nat) (source src thread : Nat) : State :=
  s.postEvent a ⟨4, 0, false, false, thread, src, (s.ctx src).depth, word (page / 0x10000 * 0x10000 + source), 0, s.now, none⟩

/-! ### Slots and wake conditions -/

/-- Slots of a core's mode (R15). -/
def slotsOf (mode : Nat) : Nat := if mode = 0 then 32 else if mode = 1 then 16 else 8

/-- Private registers of a core's mode. -/
def regsOf (mode : Nat) : Nat := if mode = 0 then 16 else if mode = 1 then 32 else 64

/-- Vector-capable slots of a core's mode. -/
def vecSlots (mode : Nat) : Nat := if mode = 2 then 8 else 16

/-- The key of a core's run queue: control cores follow the barrel cores. -/
def queueKey (cc : Bool) (core : Nat) : Nat := if cc then 512 + core else core

/-- The thread in a slot. -/
def State.threadAt (s : State) (cc : Bool) (core slot : Nat) : Option Nat :=
  (s.threads.find? fun e => e.2.cc == cc && e.2.slot == slot && e.2.place == .slot core).map Prod.fst

/-- A live thread by its name (R341). -/
def State.named (s : State) (asid thread : Nat) : Option Nat :=
  (s.threads.find? fun e => e.2.asid == asid && e.2.thread == thread).map Prod.fst

/-- The context that owns a slot number on a core (R330). -/
def State.slotOwner (s : State) (core slot : Nat) : Option Nat :=
  (s.ctxs.find? fun e => bit e.2.slotmask slot && e.2.coreset.contains core).map Prod.fst

/-- A receive buffer. -/
def Cmd.isRecv (c : Cmd) : Bool :=
  match c.kind with
  | .nrecv _ _ _ _ _ _ => true
  | _ => false

/-- The receive buffers that a context has posted (R233). -/
def State.postedBufs (s : State) (asid : Nat) : Nat := (s.cmds.filter fun c => c.asid == asid && c.isRecv).length

/-- Commands in the send queue of a core, by the key of the core: each of a control core's messages waits in one too (R28, R228,
log 29). -/
def State.queued (s : State) (core : Nat) : Nat := (s.cmds.filter fun c => c.core == core && !c.accepted).length

/-- Accesses and commands by number, to be performed at their homes. -/
def atHome (l : List Nat) : List Need := l.map fun i => (i, 6)

/-- A thread has drained (R26): every result has returned and every access has been performed. -/
def State.drained (s : State) (uid : Nat) : Bool := (s.thread uid).outst.isEmpty && (s.pending (.thread uid)).isEmpty

/-- A launch of a context by its handle. -/
def Ctx.launch? (c : Ctx) (h : Word) : Option Launch := c.launches.find? fun l => l.handle == h

/-- Launches that hold a quota unit (R41, R401). -/
def Ctx.outstanding (c : Ctx) : Nat := (c.launches.filter fun l => l.quota && l.state != .completed).length

/-- A table entry that a bytecode holds for the launch that it is to make (R275). -/
def Launch.isHeld (l : Launch) : Bool := l.fast == some (1, false)

/-- Records in a launch queue, those held for a launch to come included (R40, R275). -/
def Ctx.inQueue (c : Ctx) (q : Nat) : Nat :=
  (c.launches.filter fun l => l.queue == q && (l.state == .queued || l.isHeld)).length

/-- The children of a context. -/
def State.children (s : State) (a : Nat) : List Nat := (s.ctxs.filter fun e => e.1 != 0 && e.2.parent == a).map Prod.fst

/-- What a context has of a counted amount: what it holds less what its children hold of it (R354). -/
def State.available (s : State) (a : Nat) (f : Ctx → Nat) : Nat :=
  f (s.ctx a) - (s.children a).foldl (fun n c => n + f (s.ctx c)) 0

/-- A result for which a saved thread stays registered, or that it asks for again when it is restored (R31, R390). -/
def State.isCond (s : State) (uid : Nat) (o : Outst) : Bool :=
  let t := s.thread uid
  (match o.fin with
   | .sleep _ => true
   | .step => true
   | _ => false) ||
    ((s.waiters ++ s.overflow).any fun a => a.owner == .thread uid && a.out == o.id && !a.op.isResv) ||
    ((s.ctx t.asid).launches.any fun l => l.waiters.any fun w => w.1 == uid && w.2.1 == o.id) ||
    (match (s.core t.core).nb.pairing with
     | some p => !t.cc && p.1 == uid && p.2.1 == o.id
     | none => false)

/-- Waits that a save of the thread waits for in turn (R342, R388, R396). -/
def Park.busy : Park → Bool
  | .trap _ _ => true
  | .threads _ => true
  | .quiet _ _ => true
  | .pass => true
  | .moving _ => true
  | _ => false

/-- A thread can be saved (R342): it has drained but for a registered condition, and it is in no bytecode (R283). -/
def State.savable (s : State) (uid : Nat) : Bool :=
  let t := s.thread uid
  !t.park.busy && !(t.tephra && !t.trace.isEmpty) && t.outst.all (s.isCond uid) &&
    (s.pending (.thread uid)).all fun a => !a.op.isResv && (s.waiters ++ s.overflow).any fun b => b.id == a.id

/-- What a thread still waits for stays registered at its home, or in the send queue, so that it can leave its slot (R29, R31):
its other results have returned and its other accesses have been performed. A bytecode in progress is no such place (R283). -/
def State.atRest (s : State) (uid : Nat) : Bool :=
  !((s.thread uid).tephra && !(s.thread uid).trace.isEmpty) && ((s.thread uid).outst.all fun o =>
    s.isCond uid o || ((s.resq ++ s.overflow).any fun a => a.owner == .thread uid && a.out == o.id) ||
      s.cmds.any fun c => c.uid == uid && c.out == o.id && !c.accepted) &&
    !(s.accs.any fun a => a.owner == .thread uid)

/-- The thread is at, or waits for, a context instruction (R366). -/
def State.inLine (s : State) (uid : Nat) : Bool :=
  has s.threads uid &&
    match (s.thread uid).park with
    | .line _ => true
    | .pass => true
    | .threads _ => true
    | .quiet _ _ => true
    | _ => false

/-- A `mon` or `atom` of a thread waits in a queue for its value (R28). -/
def State.inQueueFor (s : State) (uid : Nat) : Bool :=
  (s.resq ++ s.overflow).any fun a => a.owner == .thread uid && a.op.isResv && a.out != 0

/-- What a thread has parked for has come about (R28). -/
def State.wakes (s : State) (uid : Nat) : Bool :=
  let t := s.thread uid
  match t.park with
  | .run => true
  | .switch => t.outst.isEmpty
  | .limit => decide (t.outst.length ≤ 16)
  | .room => decide (t.outst.length < 16)
  | .own o => !(t.outst.any fun r => r.id == o)
  | .drain => s.drained uid
  | .ids l => s.allDone l
  | .word pa n => !s.reserved (.thread uid) pa n
  | .homeDone h => !((s.pending (.thread uid)).any fun a => a.home == h)
  | .sendQueue =>
    let q := s.cmds.filter fun c => c.core == queueKey t.cc t.core && !c.accepted
    decide (q.length < 64) || ((q.any fun c => c.uid == uid) && !((q.drop 64).any fun c => c.uid == uid))
  | .arrive n ph => (get Barrier.new s.barriers n).phase != ph
  | .barrier n ph => (get Barrier.new s.barriers n).phase != ph && (t.kept.isEmpty || t.outst.isEmpty)
  | .launchQueue q => decide ((s.ctx t.asid).inQueue q < 256)
  | .launchTable => decide ((s.ctx t.asid).launches.length < 4096) || (s.ctx t.asid).launches.any fun l => l.state == .completed
  | .mail => !t.mail.isEmpty
  | .inbox a => decide ((s.ctx a).inbox.length < 256)
  | .deque =>
    decide ((s.core t.core).deque.length < 64) ||
      match (s.core t.core).deque with
      | e :: _ => decide (get 0 (s.ctx e.asid).spilledTasks t.core < 4096)
      | [] => true
  | .edge n u =>
    match (s.core t.core).nb.preds[n]? with
    | none => true
    | some e => geMod e.pd u || e.left || (e.loose && geMod e.pd (s.core t.core).nb.start)
  | .serviceCalls => decide ((s.ctx t.asid).calls < 256)
  | .tensor a inuse =>
    s.loadWord (s.whoOf uid) a == 0 && (!inuse || s.loadWord (s.whoOf uid) (a + 8) == 0)
  | .threads l => l.all fun u => !(has s.threads u) || s.savable u
  | .quiet l m => s.allDone (atHome l) && !(s.cmds.any fun c => m.contains c.id)
  | .pass => true
  | .line a => ((s.ctx a).line.find? s.inLine) == some uid || !(s.ctx a).line.contains uid
  | .recvBuffers => decide (s.postedBufs t.asid < s.available t.asid (·.nrecv))
  | .trap _ _ => false
  | .reflected _ _ _ => false
  | .moving _ => false

/-- A thread's wake condition holds (R28): what it has parked for, and the forwarding of every value that it is queued for. -/
def State.woken (s : State) (uid : Nat) : Bool := s.wakes uid && ((s.thread uid).park == .run || !s.inQueueFor uid)

/-- The module stops every context since cooling has failed (R424): the event stands first among the inputs until it ends. -/
def State.cooling (s : State) : Bool :=
  match s.inputs with
  | .event .coolingFailure :: _ => decide (bits s.pwrstat 15 0 ≤ 500)
  | _ => false

/-- A save of the thread waits for its drain (R342): it issues nothing further. -/
def State.beingSaved (s : State) (uid : Nat) : Bool :=
  (s.threads.any fun e => match e.2.park with
    | .threads l => l.contains uid
    | _ => false) || (s.cooling && (s.thread uid).inSlot && (s.ctx (s.thread uid).asid).state == .stopped)

/-- A save waits for the `mdrain` that a tile is drained by (R204, R342): its row handlers start and run meanwhile. -/
def State.drainsSaved (s : State) (core tile : Nat) : Bool :=
  match ((s.core core).tile tile).drain with
  | some d => s.beingSaved d.2.2.2.1
  | none => false

/-- The thread is a row handler that a save waits for. -/
def State.handlesSaved (s : State) (w : Work) : Bool :=
  match w with
  | .row _ tile _ core => s.drainsSaved core tile
  | _ => false

/-- A park that an event of its own ends (R277). -/
def Park.byEvent : Park → Bool
  | .tensor _ _ => true
  | _ => false

/-- A thread may issue (R18): it is in a slot, not parked, and its context runs. A system instruction or a bytecode
in progress goes on while a save of its thread waits (R283). -/
def State.ready (s : State) (uid : Nat) : Bool :=
  let t := s.thread uid
  t.inSlot && s.woken uid && !t.park.byEvent &&
    (t.park.busy || (t.tephra && !t.trace.isEmpty) || s.handlesSaved t.work || (!s.beingSaved uid && s.runs t.asid))

/-! ### Leaving and taking slots -/

/-- A thread no longer waits for its turn on a context. -/
def State.leaveLines (s : State) (uid : Nat) : State :=
  { s with ctxs := s.ctxs.map fun e => (e.1, { e.2 with line := e.2.line.filter (· ≠ uid) }) }

/-- A thread leaves its slot for a save (R31, R342): its reservation ends, its buffer is discarded, and it takes its
units with it. -/
def State.vacate (s : State) (uid : Nat) (p : Place) : State :=
  let t := s.thread uid
  let s := (s.endResv (.thread uid)).leaveLines uid
  if t.cc then s.onThread uid fun t => { t with place := p, buf := [] }
  else
    let us := if t.inSlot then (s.core t.core).unitsOf uid else t.units
    (s.onCore t.core (·.freeUnits uid)).onThread uid fun t => { t with place := p, buf := [], units := us }

/-- The lowest THREAD number that no live thread of a context holds (R63). -/
def State.freeNumber (s : State) (asid : Nat) : Option Nat :=
  let held := (s.threads.filter fun e => e.2.asid == asid).map (fun e => e.2.thread) ++ (s.ctx asid).imaged
  (List.range (held.length + 1)).find? fun n => !held.contains n && decide (n < 65536)

/-- A new thread takes its slot and its number and starts (R39, R63, R328). -/
def State.startThread (s : State) (t : Thread) : State :=
  match s.freeNumber t.asid with
  | none => s
  | some n =>
    { s with
      threads := put s.threads s.next
        { t with thread := n, tscr := (s.ctx t.asid).tsarea + word (64 * n) },
      next := s.next + 1 }

/-- A leaf's needs are free of holders on a core (R399). -/
def State.needsFree (s : State) (asid core : Nat) (e : Entry) : Bool :=
  let k := s.core core
  let m := (s.ctx asid).bankmask
  decide (e.oslots ≤ (below 8 fun n => bit m (16 + n) && (k.slot n).state == 0).length) &&
    decide (e.tiles ≤ (below 8 fun n => bit m (24 + n) && (k.tile n).state == 0).length) &&
    decide (e.zregs ≤ (below 64 fun n => bit m (32 + n / 8) && (k.scale n).owner == none).length)

/-- Words that an agent reads with the checks of R167. -/
def State.loadWords (s : State) (w : Who) : List Word → Except Trap (List Word)
  | [] => .ok []
  | a :: r =>
    match s.check w a 8 kRead with
    | .error t => .error t
    | .ok t =>
      if s.isPoisoned t.pa 8 then .error (.of .poison 0) else (s.loadWords w r).map (s.readWord t.pa :: ·)

/-- Another agent holds a reservation on one of the words, or on a node of its walk (R219). -/
def State.wordsHeld (s : State) (o : Owner) (w : Who) (l : List Word) : Bool :=
  l.any fun a => s.nodesHeld o w a kRead != [] || match s.check w a 8 kRead with
    | .ok t => s.reserved o t.pa 8
    | .error _ => false

/-- Words that are read at once are counted at their homes, and their walks in the contexts whose tables hold the nodes (R406,
R408). -/
def State.countWords (s : State) (w : Who) (l : List Word) : State :=
  forEach (fun a s => match s.check w a 8 kRead with
    | .ok t => State.countHome (s.remember w a kRead t) w.asid (s.homeOf t.pa t.attr) s.next
    | .error _ => s) l s

/-- The words that a leaf starts from in Tephra mode (R260): its argument block's first two, and those of a function object. -/
def State.startWords (s : State) (w : Who) (arg : Word) : List Word :=
  [arg, arg + 8] ++ match s.loadWords w [arg] with
    | .ok [f] => if bits f 2 0 = 1 then [f - 1, f + 15, f + 47] else []
    | _ => []

/-- No reservation keeps them from being read (R219). -/
def State.startReadable (s : State) (w : Who) (arg : Word) : Bool := !s.wordsHeld .host w (s.startWords w arg)

/-- A context may have a thread in a slot number of a core (R17, R330, R355): it owns the number there, or, for slot 0, has
the urgent class. -/
def State.ownsSlot (s : State) (asid core slot : Nat) : Bool :=
  s.inSet asid core && bit (s.ctx asid).slotmask (if slot = 0 then 33 else slot)

/-- An entry of a run queue may use a slot number now: its context still holds it (R30, R355, R359, R391, R399). -/
def State.mayTake (s : State) (asid : Nat) (cc : Bool) (core slot : Nat) (e : QEntry) : Bool :=
  (cc || (s.ownsSlot asid core slot && decide (slot < slotsOf (s.core core).mode))) &&
  match e with
  | .thread u => (s.thread u).slot == slot && s.woken u && (cc || (s.core core).unitsFree (s.thread u).units)
  | .leaf h n =>
    match (s.ctx asid).launch? h with
    | none => false
    | some l =>
      match l.leaves[n]? with
      | none => false
      | some f =>
        f.slot == slot && (s.freeNumber asid).isSome &&
          (if cc then !l.entry.tephra || s.startReadable ⟨asid, core, true⟩ l.arg
           else l.modes.contains (s.core core).mode && s.needsFree asid core l.entry)
  | .row tile _ _ _ _ _ _ =>
    slot != 0 && decide (slot < vecSlots (s.core core).mode) && (s.freeNumber asid).isSome &&
      (s.runs asid || s.drainsSaved core tile)

/-- The bank formats of an entry, written before the first leaf of a launch on a core issues: as by `mtcr`, which takes no
reserved code (R62, R316). -/
def Core.formatBanks (k : Core) (mask : Word) (e : Entry) : Core :=
  forEach (fun b k =>
    let f := bits e.bval (4 * b + 3) (4 * b)
    if e.bset.getLsbD b && bit mask b && decide (f ≤ 10) then k.setCr (0x50 + b) (word f) else k)
    (List.range 16) k

/-- A control-core leaf that starts in Tephra mode with its argument block at `arg` (R260). What its first bytecode
raises is kept in `startFault`: 1 TYPE, 2 the guard path, 3 a word that cannot be read. -/
def State.tephraStart (s : State) (t : Thread) (arg : Word) : Thread :=
  let w : Who := ⟨t.asid, t.core, true⟩
  let t := { t with tephra := true, startFault := 3 }.setX 27 arg
  match s.loadWords w [arg, arg + 8] with
  | .error _ => t
  | .ok ws =>
    let f := ws.getD 0 0
    let t := (((t.setX 28 (arg + 24)).setX 29 (f - 1)).setX 30 (arg + 24 + ws.getD 1 0)).setX 31 0
    if bits f 2 0 ≠ 1 then { t with startFault := 1 }
    else
      match s.loadWords w [f - 1, f + 15, f + 47] with
      | .error _ => t
      | .ok fs =>
        let n := if bits (fs.getD 2 0) 15 8 = 0 then 256 else bits (fs.getD 2 0) 15 8
        if bits (fs.getD 0 0) 3 0 ≠ 4 then { t with startFault := 1 }
        else { t with pc := fs.getD 1 0, startFault := if (ws.getD 1 0).toNat < 8 * n then 2 else 0 }

/-- A leaf starts in its bound slot (R39, R260, R316, R399). -/
def State.startLeaf (s : State) (asid core : Nat) (h : Word) (n : Nat) : State :=
  match (s.ctx asid).launch? h with
  | none => s
  | some l =>
    match l.leaves[n]? with
    | none => s
    | some f =>
      let t : Thread := { Thread.new with
        asid := asid, slot := f.slot, cc := l.cc, place := .slot core, work := .leaf h, pc := l.entry.text, cls := l.cls }
      let t := (((t.setX 1 l.arg).setX 2 h).setX 3 f.x3).setX 4 f.x4
      let t := if l.cc ∧ l.entry.tephra then s.tephraStart t l.arg else t
      let w : Who := ⟨asid, core, true⟩
      let s := if l.cc ∧ l.entry.tephra then s.countWords w (s.startWords w l.arg) else s
      let s := if l.cc ∨ l.formatted.contains core then s
        else s.onCore core fun k => k.formatBanks (s.ctx asid).bankmask l.entry
      let s := s.onCtx asid fun c => { c with
        launches := modFirst (fun l => l.handle == h)
          (fun l => { l with
            formatted := if l.formatted.contains core then l.formatted else l.formatted ++ [core],
            leaves := l.leaves.set n { f with started := true } }) c.launches }
      s.startThread t

/-- A row handler starts in a vector-capable slot (R205). The row of a poisoned tile poisons v0 (R27). -/
def State.startRow (s : State) (asid core slot : Nat) (tile row : Nat) (pc arg issuer : Word) (lanes : List Lane)
    (cls : Nat) : State :=
  let t : Thread := { Thread.new with
    asid := asid, slot := slot, place := .slot core, work := .row issuer tile row core, pc := pc, vact := 0x2001,
    v := sparseFrom 0 0 lanes, vPoison := if ((s.core core).tile tile).poison then [0] else [], cls := cls }
  s.startThread (((t.setX 1 arg).setX 2 (word row)).setX 3 (word (tile + issuer.toNat * 2 ^ 16)))

/-- Remove the first occurrence of an entry from a run queue. -/
def State.unqueue (s : State) (asid key : Nat) (e : QEntry) : State :=
  s.onCtx asid fun c => { c with runq := put c.runq key (dropFirst (· == e) (get [] c.runq key)) }

/-- An entry takes a slot. -/
def State.take (s : State) (asid : Nat) (cc : Bool) (core slot : Nat) (e : QEntry) : State :=
  let s := s.unqueue asid (queueKey cc core) e
  match e with
  | .thread u =>
    let us := (s.thread u).units
    let s := s.onThread u fun t => { t with place := .slot core, units := [], parkedAt := s.now }
    if cc then s else s.onCore core (·.attach u us)
  | .leaf h n => s.startLeaf asid core h n
  | .row tile row pc arg issuer lanes cls => s.startRow asid core slot tile row pc arg issuer lanes cls

/-- The 64 bytes of a spilled task entry (R36, log 13). -/
def Task.bytes (t : Task) : List Byte :=
  toBytes 8 t.pc.toNat ++ t.x.flatMap (fun w => toBytes 8 w.toNat) ++ toBytes 8 t.join.toNat ++ toBytes 8 t.asid ++
    toBytes 8 t.cls

/-- A task entry from its bytes. -/
def Task.ofBytes (bs : List Byte) : Task :=
  let w := fun i => fromBytes ((bs.drop (8 * i)).take 8)
  ⟨w 6, word (w 0), [word (w 1), word (w 2), word (w 3), word (w 4)], word (w 5), w 7, 0⟩

/-- The address of a spilled entry of a core's area (R49). -/
def Ctx.spillAddr (c : Ctx) (core n : Nat) : Word := c.dqbase + word (core * 0x40000 + n % 4096 * 64)

/-- The oldest spilled entry of a context returns to its core when the context has none left there (R36). A failed refill
leaves it spilled and requests the page, or reports a failure in an ancestor's tables there (R332). -/
def State.refillOne (s : State) (asid core : Nat) : State :=
  let c := s.ctx asid
  let n := get 0 c.spilledTasks core
  let a := c.spillAddr core (get 0 c.spillHead core)
  if n = 0 ∨ 64 ≤ (s.core core).deque.length ∨ s.nodesHeld .host ⟨asid, core, false⟩ a kRead ≠ [] then s
  else
    match s.translate ⟨asid, core, false⟩ a kRead with
    | .error t =>
      let s := s.onCtx asid fun c => { c with refused := c.refused ++ [core] }
      if t.target.isSome then s.reportFailure asid a t
      else s.pageRequest asid a.toNat 0 asid 0
    | .ok t =>
      if s.reserved .host t.pa 64 ∨ (s.pending .host).any (fun b => b.home == s.homeOf t.pa t.attr) then s
      else
        let s := State.countHome (s.remember ⟨asid, core, false⟩ a kRead t) asid (s.homeOf t.pa t.attr) s.next
        (s.onCore core fun k => { k with deque := k.deque ++ [Task.ofBytes (s.bytes t.pa 64)] }).onCtx asid fun c =>
          { c with spilledTasks := set 0 c.spilledTasks core (n - 1),
                   spillHead := set 0 c.spillHead core (get 0 c.spillHead core + 1) }

/-- Spilled entries of a core return, in the order they spilled, to a context that has none left there, as far as there is
room (R36). A refill that has failed is tried again once a slot looks for a task. -/
def State.refillDeque (s : State) (asid core : Nat) : State :=
  if (s.core core).deque.any (fun t => t.asid == asid) ∨ (s.ctx asid).refused.contains core then s
  else forEach (fun (_ : Nat) s => s.refillOne asid core) (List.range (min 64 (get 0 (s.ctx asid).spilledTasks core))) s

/-- Every core with spilled entries refills (R36). -/
def State.refillDeques (s : State) : State :=
  forEach (fun (e : Nat × Ctx) s => forEach (fun (n : Nat × Nat) s => s.refillDeque e.1 n.1) e.2.spilledTasks s) s.ctxs s

/-- The cores that an empty slot takes tasks from: its own, then the others of its cluster in ascending index order
from it (R36). -/
def stealOrder (core : Nat) : List Nat := (List.range 15).map fun i => core / 16 * 16 + (core % 16 + i + 1) % 16

/-- Start a task in a slot (R36). -/
def State.startTask (s : State) (core slot : Nat) (t : Task) : State :=
  let th : Thread := { Thread.new with
    asid := t.asid, slot := slot, place := .slot core, work := .task t.join, pc := t.pc, cls := t.cls }
  s.startThread ((((th.setX 1 (t.x.getD 0 0)).setX 2 (t.x.getD 1 0)).setX 3 (t.x.getD 2 0)).setX 4 (t.x.getD 3 0))

/-- A task entry that a slot of a context may take (R35). -/
def State.ripe (s : State) (asid : Nat) (t : Task) : Bool := t.asid == asid && s.allDone (atHome [t.after])

/-- An empty slot takes a task entry (R36): the newest of its own core, else the oldest of another. -/
def State.takeTask (s : State) (asid core slot : Nat) : State :=
  if (s.freeNumber asid).isNone then s
  else
    let s := (s.onCtx asid fun c => { c with refused := c.refused.filter (· ≠ core) }).refillDeque asid core
    match (s.core core).deque.reverse.find? (s.ripe asid) with
    | some t =>
      (s.onCore core fun k => { k with deque := (dropFirst (· == t) k.deque.reverse).reverse }).startTask core slot t
    | none =>
      match (stealOrder core).find? fun c => (s.core c).deque.any (s.ripe asid) with
      | none => s
      | some c =>
        match (s.core c).deque.find? (s.ripe asid) with
        | none => s
        | some t => (s.onCore c fun k => { k with deque := dropFirst (· == t) k.deque }).startTask core slot t

/-- The urgent slot is taken by a class-0 leaf or thread of any context that runs (R17, R40, R355). -/
def State.fillUrgent (s : State) (core : Nat) : State :=
  match (s.ctxs.map Prod.fst).find? fun a => s.runs a && (get [] (s.ctx a).runq core).any (s.mayTake a false core 0) with
  | none => s
  | some a =>
    match (get [] (s.ctx a).runq core).find? (s.mayTake a false core 0) with
    | none => s
    | some e => s.take a false core 0 e

/-- The entry is a row handler. -/
def QEntry.isRow : QEntry → Bool
  | .row _ _ _ _ _ _ _ => true
  | _ => false

/-- An empty slot is taken by the first entry of its context's run queue that may use it, else by a task (R30, R36). -/
def State.fillSlot (s : State) (core slot : Nat) : State :=
  if (s.threadAt false core slot).isSome ∨ slotsOf (s.core core).mode ≤ slot then s
  else if slot = 0 then s.fillUrgent core
  else
    match s.slotOwner core slot with
    | none => s
    | some a =>
      match (get [] (s.ctx a).runq core).find? fun e => (s.runs a || e.isRow) && s.mayTake a false core slot e with
      | some e => s.take a false core slot e
      | none => if s.runs a then s.takeTask a core slot else s

/-- An empty slot of a control core is taken likewise, by any context. -/
def State.fillControl (s : State) (cc slot : Nat) : State :=
  if (s.threadAt true cc slot).isSome then s
  else
    match (s.ctxs.map Prod.fst).find? fun a =>
        s.runs a && (get [] (s.ctx a).runq (queueKey true cc)).any (s.mayTake a true cc slot) with
    | none => s
    | some a =>
      match (get [] (s.ctx a).runq (queueKey true cc)).find? (s.mayTake a true cc slot) with
      | none => s
      | some e => s.take a true cc slot e

/-- Fill a slot of either kind of core. -/
def State.fill (s : State) (cc : Bool) (core slot : Nat) : State :=
  if cc then s.fillControl core slot else s.fillSlot core slot

/-- Parked reasons for which R31 does not save a slot thread: the first two rows of R28, and a reflected trap. -/
def Park.keepsSlot : Park → Bool
  | .run => true
  | .switch => true
  | .trap _ _ => true
  | .drain => true
  | .limit => true
  | .room => true
  | .moving _ => true
  | .reflected _ _ _ => true
  | .threads _ => true
  | .quiet _ _ => true
  | .pass => true
  | .line _ => true
  | _ => false

/-- A runnable thread in a run queue takes its slot from a parked thread of its context (R31). -/
def State.displace (s : State) (uid : Nat) : State :=
  let t := s.thread uid
  match t.place with
  | .queue core =>
    match s.threadAt t.cc core t.slot with
    | none => s.fill t.cc core t.slot
    | some v =>
      if (s.thread v).asid = t.asid ∧ !s.woken v ∧ !(s.thread v).park.keepsSlot ∧ s.atRest v ∧
          (t.cc ∨ t.slot ≠ 0) then
        let q := s.vacate v (.block core)
        if q.mayTake t.asid t.cc core t.slot (.thread uid) then q.take t.asid t.cc core t.slot (.thread uid)
        else q.fill t.cc core t.slot
      else s
  | _ => s

/-- A thread joins the tail of its context's run queue for a core, and takes a slot if it may (R30, R31). The cycles of
another core say nothing of when it last issued (R18). -/
def State.enqueue (s : State) (uid core : Nat) : State :=
  let t := s.thread uid
  let s := s.onThread uid fun t => { t with
    place := .queue core, last := if t.core = core then t.last else 0, hold := if t.core = core then t.hold else 0 }
  let s := s.onCtx t.asid fun c => { c with
    runq := put c.runq (queueKey t.cc core) (get [] c.runq (queueKey t.cc core) ++ [.thread uid]) }
  if s.runs t.asid then s.displace uid else s

/-- A context may have a thread in a slot number that a core has now (R17, R330, R355). -/
def State.slotUsable (s : State) (asid core slot : Nat) : Bool :=
  s.ownsSlot asid core slot && decide (slot < slotsOf (s.core core).mode)

/-- The first core of a context's core set on which it owns a slot number that exists there (R359). -/
def State.coreFor (s : State) (asid slot : Nat) : Option Nat :=
  (s.ctx asid).coreset.find? fun c => s.slotUsable asid c slot

/-- Saved threads are to be placed on the first core that has their slot number (R359); one without such a core stays where it
is until a grant or a `repart` provides one. -/
def State.resettle (s : State) (us : List Nat) : State :=
  forEach (fun u s => s.onThread u fun t =>
    match t.place, s.coreFor t.asid t.slot with
    | .block c, some d => if t.cc || c == d then t else { t with place := .block d, last := 0, hold := 0 }
    | _, _ => t) us s

/-- Saved threads of a context whose core has no slot for them (R359). -/
def State.stranded (s : State) (asid : Nat) : List Nat :=
  (s.threads.filter fun e => !e.2.cc && e.2.asid == asid && e.2.place == .block e.2.core &&
    !s.slotUsable asid e.2.core e.2.slot).map Prod.fst

/-- Fill every empty slot of a core that a context owns. -/
def State.fillCore (s : State) (core : Nat) : State :=
  forEach (fun n s => s.fillSlot core n) (List.range (slotsOf (s.core core).mode)) s

/-! ### The end of a row handler, a launch, a thread -/

/-- The last row handler of a tile has ended: the tile is cleared, and `mdrain` returns (R204). -/
def State.rowEnded (s : State) (core tile : Nat) : State :=
  let t := (s.core core).tile tile
  if t.left = 0 then s
  else if t.left = 1 ∧ t.read then
    let t' := match t.owner with
      | some u => { Tile.new with state := 1, owner := some u }
      | none => Tile.new
    let s := s.onCore core (·.setTile tile t')
    match t.drain with
    | some (_, _, _, u, o) => s.onThread u fun h => { h with outst := modFirst (fun r => r.id == o) (·.add 0 [] false) h.outst }
    | none => s
  else s.onCore core (·.setTile tile { t with left := t.left - 1 })

/-- A result that waits for a launch receives its status (R235). -/
def State.statusTo (s : State) (w : Nat × Nat × Opnd) (st : Nat) : State :=
  s.onThread w.1 fun h => { h with
    outst := modFirst (fun r => r.id == w.2.1) (fun r => { r with need := 0, fin := .done [.reg w.2.2 (word st)] }) h.outst }

/-- A launch completes (R38, R41, R401): its quota unit returns, and `lwait` wakes. -/
def State.completeLaunch (s : State) (asid : Nat) (h : Word) (status : Nat) : State :=
  match (s.ctx asid).launch? h with
  | none => s
  | some l =>
    if l.state = .completed then s
    else
      let s := s.onCtx asid fun c => { c with
        launches := (modFirst (fun x => x.handle == h)
          (fun x => { x with state := .completed, status := status, quota := false, waiters := [], ending := none })
          c.launches).map
            fun x => match l.donor with
              | some d => if x.handle.toNat = d then { x with quota := true } else x
              | none => x,
        overflow := c.overflow.filter (· ≠ h),
        runq := c.runq.map fun q => (q.1, q.2.filter fun e => match e with
          | .leaf h' _ => h' != h
          | _ => true) }
      forEach (fun w s => s.statusTo w status) l.waiters s

/-- What the completion of a launch, a release at level 0's scope, follows (R38, R118, R125): the accesses that the egress
points inside the instances of its leaves have accepted. What the leaves themselves made has been performed as they end. -/
def State.completionIds (s : State) (l : Launch) : List Need :=
  let sco := (l.levels.map (·.scope)).headD 4
  let mine := fun (c : Nat) =>
    decide (4 ≤ sco) || (!l.cc && l.leaves.any fun f => instOf sco f.core == instOf sco c)
  ((s.accs ++ s.resq ++ s.overflow.filter (·.op.isResv)).filter fun b =>
    !b.doneTo sco && b.core.any mine && [1, 2, 3].any fun n => decide (n < sco) && (b.stamp n).isSome).map fun b => (b.id, sco)

/-- The last leaf of a launch has ended: the launch completes once what the completion follows has been performed. -/
def State.endLaunch (s : State) (asid : Nat) (l : Launch) : State :=
  let st := if l.failed then 1 else 0
  match s.completionIds l with
  | [] => s.completeLaunch asid l.handle st
  | ids => s.onCtx asid fun c => { c with
      launches := modFirst (fun x => x.handle == l.handle) (fun x => { x with ending := some (st, ids) }) c.launches }

/-- Launches whose completion has nothing left to follow complete. -/
def State.settleLaunches (s : State) : State :=
  forEach (fun (e : Nat × Ctx) s => forEach (fun (l : Launch) s =>
    match l.ending with
    | some (st, ids) => if s.allDone ids then State.completeLaunch s e.1 l.handle st else s
    | none => s) e.2.launches s) s.ctxs s

/-- A leaf of a launch ends; the last one completes it. `failed` is a leaf that a trap ended (R386). -/
def State.leafEnded (s : State) (asid : Nat) (h : Word) (slot : Nat) (failed : Bool) : State :=
  let s := s.onCtx asid fun c => { c with
    launches := modFirst (fun l => l.handle == h)
      (fun l => { l with
        failed := l.failed || failed,
        leaves :=
          if l.leaves.any fun f => f.started && !f.ended && f.slot == slot then
            modFirst (fun f => f.started && !f.ended && f.slot == slot) (fun f => { f with ended := true }) l.leaves
          else modFirst (fun f => f.started && !f.ended) (fun f => { f with ended := true }) l.leaves }) c.launches }
  match (s.ctx asid).launch? h with
  | none => s
  | some l => if l.leaves.all (·.ended) && l.ending.isNone then s.endLaunch asid l else s

/-- An access of an agent, not bound to a result. -/
def State.send (s : State) (o : Owner) (asid : Nat) (va : Word) (t : Tr) (size : Nat) (op : AccOp) (acq rel : Bool)
    (sco : Nat) : State :=
  s.issueAcc { s.newAcc o asid 0 0 (s.homeOf t.pa t.attr) va t.pa size op with acq := acq, rel := rel, sco := sco }

/-- The end of a task subtracts 1 from its join counter, as a release at .mo (R37). `tend` has checked the address; where
a task is ended from outside and the counter cannot be reached, nothing is subtracted (log 24). -/
def State.taskEnded (s : State) (uid : Nat) (join : Word) : State :=
  match s.translate (s.whoOf uid) join kWrite with
  | .ok t => s.send (.thread uid) (s.thread uid).asid join t 8 (.atom 0 allOnes 0) false true 4
  | .error _ => s

/-- A thread ends (R164): what it holds is freed, its number is released, what it was started for is told, and its
slot is taken by another. -/
def State.endThread (s : State) (uid : Nat) (failed : Bool) : State :=
  let t := s.thread uid
  let s := (s.endResv (.thread uid)).leaveLines uid
  let s := if t.cc then s else s.onCore t.core (·.freeUnits uid)
  let s := match t.work with
    | .leaf h => s.leafEnded t.asid h t.slot failed
    | .task j => s.taskEnded uid j
    | .row _ tile _ core => s.rowEnded core tile
    | .bare => s
  let s := { s with
    threads := del s.threads uid,
    works := s.works.filter fun w => w.uid != uid,
    waiters := s.waiters.filter fun a => a.owner != Owner.thread uid,
    resq := s.resq.filter fun a => a.owner != Owner.thread uid,
    overflow := s.overflow.filter fun a => a.owner != Owner.thread uid }
  let s := s.onCtx t.asid fun c => { c with
    inbox := c.inbox.filter fun m => m.1 != t.thread,
    runq := c.runq.map fun (q : Nat × List QEntry) => (q.1, q.2.filter (· != .thread uid)) }
  if t.inSlot then s.fill t.cc t.core t.slot else s

/-! ### Taking a trap, and returning from one -/

/-- TSTAT.S: supervisor state (R325). -/
def Thread.sup (t : Thread) : Bool := bit t.tstat 0
/-- TSTAT.EXL. -/
def Thread.exl (t : Thread) : Bool := bit t.tstat 4

/-- The context takes a trap of this code in the thread's own handler (R336). -/
def State.takesLocally (s : State) (uid : Nat) (tr : Trap) : Bool :=
  let t := s.thread uid
  tr.target.isNone && bit (s.ctx t.asid).deleg tr.cause.code && (s.ctx t.asid).tvec != 0 && !t.exl

/-- What the trap registers hold after a trap that is taken locally (R336, R337): only a control-core thread records PMODE
and PGUARD. -/
def Thread.trapped (t : Thread) (tr : Trap) (precise : Bool) (pc : Word) : Thread :=
  { t with
    tpc := pc, taddr := tr.addr,
    tcause := word (tr.cause.code + (if precise then 2 ^ 8 else 0) + if t.cc then 2 ^ 9 else 0),
    tstat := (t.tstat &&& (if t.cc then ~~~0xE0 else ~~~0x20)) ||| 0x11 ||| word ((if t.sup then 2 ^ 5 else 0) +
      (if t.cc && t.tephra then 2 ^ 6 else 0) + if t.cc && t.guard then 2 ^ 7 else 0),
    buf := [], park := .run, kept := [], held := none, trace := [] }

/-- Local entry on a barrel core: the handler at TVEC runs in the same slot (R336). -/
def State.enterLocal (s : State) (uid : Nat) (tr : Trap) (precise : Bool) (pc : Word) : State :=
  s.setThread uid { (s.thread uid).trapped tr precise pc with pc := (s.ctx (s.thread uid).asid).tvec }

/-- The event that reports a trap (R361). -/
def State.trapEvent (s : State) (uid kind : Nat) (tr : Trap) (precise : Bool) (pc : Word) : Event :=
  let t := s.thread uid
  ⟨kind, tr.cause.code, precise, t.cc, t.thread, t.asid, (s.ctx t.asid).depth, tr.addr, pc, s.now, some uid⟩

/-- Entry on a control core (R337): the state is recorded, the thread leaves its slot, saved, and a CCTRAP event goes
to its own context; without a queue the thread ends (R386). -/
def State.enterControl (s : State) (uid : Nat) (tr : Trap) (precise : Bool) (pc : Word) : State :=
  let t := s.thread uid
  if !s.hasQueue t.asid then s.endThread uid true
  else
    let e := s.trapEvent uid 2 tr precise pc
    let s := s.setThread uid { t.trapped tr precise pc with pc := pc, guard := false }
    let s := (s.vacate uid (.block t.core)).postEvent t.asid e
    if t.inSlot then s.fillControl t.core t.slot else s

/-- The context that a trap is reflected to (R360). -/
def State.reflectTo (s : State) (uid : Nat) (tr : Trap) : Nat :=
  match tr.target with
  | some d => d
  | none => ((s.ancestors (s.thread uid).asid).find? fun a => bit (s.ctx a).deleg tr.cause.code).getD 0

/-- Reflection (R360): the thread waits, and a TRAP event goes to one ancestor; without a queue it ends (R386). -/
def State.reflect (s : State) (uid : Nat) (tr : Trap) (precise : Bool) (pc : Word) : State :=
  let tgt := s.reflectTo uid tr
  let s := s.count (s.thread uid).asid 0x053
  if !s.hasQueue tgt then s.endThread uid true
  else
    let e := s.trapEvent uid 1 tr precise pc
    (s.onThread uid fun t => { t with
      park := .reflected tgt tr precise, pc := pc, buf := [], kept := [], held := none, trace := [] }).postEvent tgt e

/-- Take a trap of a drained thread: the one operation of R336, R337 and R360. -/
def State.takeTrap (s : State) (uid : Nat) (tr : Trap) (precise : Bool) (pc : Word) : State :=
  if s.takesLocally uid tr then
    if (s.thread uid).cc then s.enterControl uid tr precise pc else s.enterLocal uid tr precise pc
  else s.reflect uid tr precise pc

/-- A trap arises at the thread's instruction: it is taken at once when the thread has drained, else after it (R26). -/
def State.raise (s : State) (uid : Nat) (tr : Trap) (precise : Bool) : State :=
  if s.drained uid then s.takeTrap uid tr precise (s.thread uid).pc
  else s.onThread uid fun t => { t with park := .trap tr precise, parkedAt := s.now }

/-- Where `eret` resumes (R338): PC from TPC, S from PS, EXL cleared. -/
def Thread.eret (t : Thread) : Thread :=
  { t with
    pc := t.tpc, tstat := (t.tstat &&& ~~~0x11) ||| (if bit t.tstat 5 then 1 else 0), buf := [] }

/-- The resumption of an image or a saved thread whose EXL is set (R343): as `eret`, in mode PMODE with the guard bit
from PGUARD. -/
def Thread.resumeExl (t : Thread) : Thread :=
  if t.exl then { t.eret with tephra := t.cc && bit t.tstat 6, guard := t.cc && bit t.tstat 7, park := .run } else t

/-! ### Issuing accesses and results -/

/-- The timeout of a CXL access (R106, R413). -/
def State.dueOf (s : State) (pa : Nat) (h : Home) : Word :=
  match h with
  | .cxl _ =>
    match cxlWindow s.cxlwin pa with
    | some w => s.now + word ((if bits w.2 24 21 = 0 then 10 else bits w.2 24 21) * 1000000)
    | none => s.now + 10000000
  | _ => 0

/-- The thread that issues has a new outstanding result (R22); its number is the state's next name. -/
def State.openOut (s : State) (dsts : List Dst) (fin : Fin) (need : Nat) : State :=
  { s.setTh { s.th with outst := s.th.outst ++ [⟨s.next, dsts, fin, need, [], [], []⟩] } with next := s.next + 1 }

/-- The thread that issues sends an access for a result, with its ordering tag and scope. -/
def State.access (s : State) (va : Word) (t : Tr) (size : Nat) (op : AccOp) (out off : Nat) (acq rel : Bool)
    (sco : Nat := 0) : State :=
  let h := s.homeOf t.pa t.attr
  s.issueAcc { s.newAcc (.thread s.cur) s.th.asid out off h va t.pa size op with
    acq := acq, rel := rel, sco := sco, due := s.dueOf t.pa h }

/-- The ids of the thread's pending accesses that a fence kind counts (R122): loads or stores. -/
def AccOp.isLoad : AccOp → Bool
  | .store _ => false
  | .storeNib _ _ => false
  | .payload _ => false
  | .deposit _ _ _ _ _ => false
  | .prefetch => false
  | _ => true

/-- Whether an access counts as a store. -/
def AccOp.isStore : AccOp → Bool
  | .load => false
  | .prefetch => false
  | .payload _ => false
  | _ => true

/-- The pending accesses of a thread, to be performed to a scope, and its unaccepted commands. -/
def State.earlierIds (s : State) (uid : Nat) (loads stores : Bool) (scope : Nat) : List Need :=
  (((s.pending (.thread uid)).filter fun a =>
      ((loads && a.op.isLoad) || (stores && a.op.isStore)) && !a.doneTo scope).map fun a => (a.id, scope)) ++
    (if stores then (s.cmds.filter fun c => c.uid == uid && !c.accepted).map fun c => (c.id, scope) else [])

/-- What a release at a scope waits for that is not bound to an access: everything before it of the thread that issues,
and what the egress points inside its instance have accepted (R118, R119). -/
def State.releaseIds (s : State) (scope : Nat) : List Need :=
  let me := s.newAcc (.thread s.cur) s.th.asid 0 0 (.agent 0) 0 0 0 .fget
  s.earlierIds s.cur true true scope ++
    ((s.gathered me scope).filter fun a => a.owner != .thread s.cur).map fun a => (a.id, scope)

/-- What an access of the given classes must still wait for under the thread's fences (R171). -/
def State.fenced (s : State) (loads stores : Bool) : List Need :=
  (s.th.fences.filter fun f => ((f.loads && loads) || (f.stores && stores)) && !s.allDone f.needs).flatMap (·.needs)

/-- A range that a unit reads or writes at once is counted (R406, R408): the walks of its pages, and accesses at its homes, of
which the spec does not state how many it takes. -/
def State.countBulk (s : State) (w : Who) (va : Word) (len k : Nat) : State :=
  let pages := (List.range ((va.toNat % 0x10000 + len + 0xFFFF) / 0x10000)).map fun i => va + word (0x10000 * i)
  forEach (fun (code : Nat) s => s.countN w.asid code (Config.freeNat (s.free + s.next)))
    [0x020, 0x021, 0x022, 0x023, 0x030, 0x031] (s.rememberAll w k pages)

/-- A read that is made at once is counted at its home (R408) and finds no line that another home holds (R376). -/
def State.touch (s : State) (h : Home) (va : Word) (pa n : Nat) : State :=
  (s.countAccess (s.newAcc (.thread s.cur) s.th.asid 0 0 h va pa n .load)).rehome h pa n

/-- Accesses of the thread that issues which a plain read of a home follows: those to the home (R113), and those that
acquire (R119). -/
def State.readAfter (s : State) (h : Home) : List Need :=
  ((s.pending (.thread s.cur)).filter fun b => b.home == h || b.acq).map fun b => (b.id, 6)

/-- What the walk for an access of the thread that issues waits for: its node reads are performed after the thread's earlier
accesses to their homes (R113, R377), and while no other agent holds a reservation on a node (R219). -/
def State.walkAfter (s : State) (va : Word) (k : Nat) : List Need :=
  match if (s.pending (.thread s.cur)).isEmpty then [] else (s.nodeHomes s.who va k).flatMap s.readAfter with
  | [] => s.nodesHeld (.thread s.cur) s.who va k
  | l => l

/-- The same for the pages of a range. -/
def State.walksAfter (s : State) (va : Word) (len k : Nat) : List Need :=
  if (s.pending (.thread s.cur)).isEmpty && s.resv.isEmpty then []
  else (List.range ((va.toNat % 0x10000 + len + 0xFFFF) / 0x10000)).flatMap fun i =>
    s.walkAfter (word (va.toNat / 0x10000 * 0x10000 + 0x10000 * i)) k

/-- A read that a thread makes at once of a home waits for its own earlier accesses that it follows, for those that a
common egress point accepted before it (R118), and while another agent holds a reservation on the bytes (R219). -/
def State.mustWait (s : State) (h : Home) (pa n : Nat) : Option Park :=
  let me := s.newAcc (.thread s.cur) s.th.asid 0 0 h 0 pa n .load
  if s.reserved (.thread s.cur) pa n then some (.word pa n)
  else
    match s.readAfter h ++ (s.queuedAhead me).map (fun a => (a.id, 6)) with
    | [] => none
    | l => some (.ids l)

end Sys2Proof.Machine
end

