-- ==== Sys2Proof/Machine/Operands.lean ====
section
/-! DEFINITION. What each native instruction names (R132, R135), which modifiers it gives a meaning (R136, R145), and
the common part of every instruction: the checks in the order of R144, early reads (R25), poison (R27), the switch
marker (R24), and the wrapper of a bytecode (R283). -/

namespace Sys2Proof

/-- A group 0x0 modifier without a meaning (R145), given which fields the function uses: RND, U, SAT, DT and ST, POS and
LEN. DT and ST lie over POS, so that `ext` and `ins` take bits 13:8 as POS and ignore bits 15:14, whatever type codes they
would make; in a function that takes neither, every code that R137 does not reserve falls back (log 16). -/
def M0.stray (m : M0) (rnd u sat types pos : Bool) : Bool :=
  (!rnd && m.rnd != 0) || (!u && m.u) || (!sat && m.sat) ||
    (if types then m.low.extractLsb' 0 6 != 0
     else if pos then m.low.extractLsb' 14 2 != 0
     else m.low.extractLsb' 0 6 != 0 || m.low.extractLsb' 8 8 != 0)

/-- The same of `sel`, which takes PS in bits 2:0. -/
def M0.straySel (m : M0) : Bool :=
  m.rnd != 0 || m.u || m.sat || m.low.extractLsb' 3 3 != 0 || m.low.extractLsb' 8 8 != 0

/-- An ordering tag that falls back, or a scope on a plain access (R120). -/
def M4.strayOrd (m : M4) (bad : BitVec 2) : Bool := m.ord == bad || (m.ord == 0 && m.sco != 0)

/-- A group 0x5 modifier without a meaning. -/
def M5.stray (m : M5) (op c sco pr : Bool) : Bool :=
  (!op && m.op != 0) || (!c && m.c) || (!sco && m.sco != 0) || (!pr && m.pr != 0)

/-- A group 0x6 modifier without a meaning. -/
def M6.stray (m : M6) (rnd sat cond tgt sh bs : Bool) : Bool :=
  (!rnd && m.rnd != 0) || (!sat && m.sat) || (!cond && m.cond != 0) || (!tgt && m.tgt != 0) || (!sh && m.sh != 0) ||
    (!bs && m.bs)

/-- A group 0x7 ordering tag that falls back (R188). -/
def M7.stray (m : M7) (bad : BitVec 2) : Bool := m.ord == bad || (m.ord == 0 && m.sco != 0)

/-- A matrix modifier without a meaning (R194). -/
def M8.stray (m : M8) (rnd sc blk : Bool) : Bool := (!rnd && m.rnd != 0) || (!sc && m.sc) || (!blk && m.blk != 0)

/-- A group 0xB modifier without a meaning. -/
def MB.stray (m : MB) (sco fmts : Bool) : Bool :=
  (!sco && m.sco != 0) || (!fmts && (m.sf != 0 || m.df != 0 || m.mc))

/-- A group 0xC modifier without a meaning (R251). -/
def MC.stray (m : MC) (edge sz : Bool) : Bool := (!edge && m.edge != 0) || (!sz && m.sz != 0)

/-- A group 0xD modifier without a meaning. -/
def MD.stray (m : MD) (pm co ti crn : Bool) : Bool :=
  (!pm && m.pm != 0) || (!co && m.co != 0) || (!ti && m.ti != 0) || (!crn && m.crn != 0)

end Sys2Proof

namespace Sys2Proof.Machine

/-- What an instruction names and how it is classed. `cc` is legal on a control core (R143); `priv` is 0 user, 1
supervisor, 2 root (R326); `names` are operands whose fields are checked though their values are not used; `loads`
and `stores` are the classes that fences see its accesses in (R122), `pushes` and `pops` the use of the link store, `drains`
a drain before anything else (R411), `acts` an effect of the instant in which a long instruction is performed (R23); `fall` is a modifier combination without a meaning (R145). -/
structure Info where
  hdr : Hdr
  names : List Dst := []
  reads : List Dst := []
  writes : List Dst := []
  badPair : Bool := false
  vec : Bool := false
  matrix : Bool := false
  cc : Bool := false
  priv : Nat := 0
  illegal : Bool := false
  geyser : Bool := false
  cinder : Bool := false
  long : Bool := false
  loads : Bool := false
  stores : Bool := false
  pushes : Bool := false
  pops : Bool := false
  drains : Bool := false
  acts : Bool := false
  fall : Bool := false
  deriving DecidableEq, Repr

/-- A register, or the pair of registers that it begins (R135). -/
def pairOf (d : Opnd) (pair : Bool) : List Dst := if pair then [.reg d, .reg d.succ] else [.reg d]

/-- The second operand of a vector function: S with .bs, VB without (R178). -/
def operandBReads (m : M6) (vb : BitVec 4) (s : Opnd) : List Dst := if m.bs then [.reg s] else [.vec vb]

/-- The assigned control-register numbers (R57, R327, R413). -/
def crKnown (n : BitVec 12) : Bool :=
  let n := n.toNat
  decide (n ∈ [0x001, 0x010, 0x011, 0x012, 0x020, 0x021, 0x030, 0x031, 0x040, 0x041, 0x042, 0x060, 0x061, 0x062, 0x0F0,
      0x0F1, 0x0F8, 0x0F9, 0x100, 0x101, 0x102, 0x103, 0x104, 0x105, 0x106, 0x108, 0x110, 0x111, 0x112, 0x118, 0x120, 0x121,
      0x122, 0x400, 0x401, 0x410, 0x411, 0x412, 0x413, 0x420]) ||
    (decide (0x050 ≤ n) && decide (n ≤ 0x05F)) || (decide (0x130 ≤ n) && decide (n ≤ 0x14F))

/-- The private registers that a gated service call reads (R411, R412): the index, the reply record and its arguments; none where
the code names no operation. -/
def serviceReads (code : Nat) : List Dst :=
  let x := fun (l : List Nat) => (1 :: 6 :: l).map fun n => Dst.reg ⟨false, BitVec.ofNat 6 n⟩
  match code with
  | 0x000 => x []
  | 0x001 => x [2, 3, 4]
  | 0x002 => x [2, 3, 4]
  | 0x003 => x [2, 3, 4]
  | 0x004 => x []
  | 0x020 => x [2, 3, 4, 5]
  | 0x021 => x [2, 3, 4]
  | 0x022 => x [2]
  | 0x030 => x [2]
  | _ => []

/-- The state a control-register number needs (R326): 0 user, 1 supervisor, 2 the root's supervisor. -/
def crPriv (n : BitVec 12) : Nat := if n.toNat ≤ 0x0FF then 0 else if n.toNat ≤ 0x3FF then 1 else 2


end Sys2Proof.Machine

namespace Sys2Proof

open Machine

/-- The operands of each native instruction; nothing for bytecodes and events. An S2 of `tld` without `.sc` is checked
like any operand (R44, R132, R198). RND of a floating `vred` has a meaning for every function, though only `.sum` rounds; so has
RND of `fcvt` and of `vcvt` whose destination is E8M0, where R77 ignores it: neither sets W_MODFALL (log 16). The waits `waita`
and `joinw`, which are checked as loads, count as stores too for a fence, as the other operations of group 0x5 do (log 82). -/
def Instr.info : Instr → Info
  | .add h d a b m => { hdr := h, reads := [.reg a, .reg b], writes := [.reg d], cc := true, fall := m.stray false false true false false }
  | .sub h d a b m => { hdr := h, reads := [.reg a, .reg b], writes := [.reg d], cc := true, fall := m.stray false false true false false }
  | .mul h d a b m => { hdr := h, reads := [.reg a, .reg b], writes := [.reg d], cc := true, fall := m.stray false false true false false }
  | .mulh h d a b m => { hdr := h, reads := [.reg a, .reg b], writes := [.reg d], cc := true, fall := m.stray false true false false false }
  | .div h d a b m => { hdr := h, reads := [.reg a, .reg b], writes := [.reg d], cc := true, fall := m.stray false true false false false }
  | .rem h d a b m => { hdr := h, reads := [.reg a, .reg b], writes := [.reg d], cc := true, fall := m.stray false true false false false }
  | .and h d a b m => { hdr := h, reads := [.reg a, .reg b], writes := [.reg d], cc := true, fall := m.stray false false false false false }
  | .or h d a b m => { hdr := h, reads := [.reg a, .reg b], writes := [.reg d], cc := true, fall := m.stray false false false false false }
  | .xor h d a b m => { hdr := h, reads := [.reg a, .reg b], writes := [.reg d], cc := true, fall := m.stray false false false false false }
  | .andn h d a b m => { hdr := h, reads := [.reg a, .reg b], writes := [.reg d], cc := true, fall := m.stray false false false false false }
  | .shl h d a b m => { hdr := h, reads := [.reg a, .reg b], writes := [.reg d], cc := true, fall := m.stray false false false false false }
  | .shr h d a b m => { hdr := h, reads := [.reg a, .reg b], writes := [.reg d], cc := true, fall := m.stray false false false false false }
  | .sra h d a b m => { hdr := h, reads := [.reg a, .reg b], writes := [.reg d], cc := true, fall := m.stray false false false false false }
  | .rot h d a b m => { hdr := h, reads := [.reg a, .reg b], writes := [.reg d], cc := true, fall := m.stray false false false false false }
  | .min h d a b m => { hdr := h, reads := [.reg a, .reg b], writes := [.reg d], cc := true, fall := m.stray false true false false false }
  | .max h d a b m => { hdr := h, reads := [.reg a, .reg b], writes := [.reg d], cc := true, fall := m.stray false true false false false }
  | .clz h d a m => { hdr := h, reads := [.reg a], writes := [.reg d], cc := true, fall := m.stray false false false false false }
  | .ctz h d a m => { hdr := h, reads := [.reg a], writes := [.reg d], cc := true, fall := m.stray false false false false false }
  | .popc h d a m => { hdr := h, reads := [.reg a], writes := [.reg d], cc := true, fall := m.stray false false false false false }
  | .bswap h d a m => { hdr := h, reads := [.reg a], writes := [.reg d], cc := true, fall := m.stray false false false false false }
  | .sel h d a b m => { hdr := h, reads := [.reg a, .reg b, .pred (m.low.extractLsb' 0 3)], writes := [.reg d], cc := true, fall := m.straySel }
  | .mov h d a m => { hdr := h, reads := [.reg a], writes := [.reg d], cc := true, fall := m.stray false false false false false }
  | .abs h d a m => { hdr := h, reads := [.reg a], writes := [.reg d], cc := true, fall := m.stray false false false false false }
  | .ext h d a m => { hdr := h, reads := [.reg a], writes := [.reg d], cc := true, fall := m.stray false true false false true }
  | .ins h d a m => { hdr := h, reads := [.reg d, .reg a], writes := [.reg d], cc := true, fall := m.stray false false false false true }
  | .fadd h d a b m => { hdr := h, reads := [.reg a, .reg b], writes := [.reg d], cc := true, fall := m.stray true false false false false }
  | .fsub h d a b m => { hdr := h, reads := [.reg a, .reg b], writes := [.reg d], cc := true, fall := m.stray true false false false false }
  | .fmul h d a b m => { hdr := h, reads := [.reg a, .reg b], writes := [.reg d], cc := true, fall := m.stray true false false false false }
  | .ffma h d a b m => { hdr := h, reads := [.reg d, .reg a, .reg b], writes := [.reg d], cc := true, fall := m.stray true false false false false }
  | .fdiv h d a b m => { hdr := h, reads := [.reg a, .reg b], writes := [.reg d], cc := true, long := true, fall := m.stray true false false false false }
  | .fmin h d a b m => { hdr := h, reads := [.reg a, .reg b], writes := [.reg d], cc := true, fall := m.stray false false false false false }
  | .fmax h d a b m => { hdr := h, reads := [.reg a, .reg b], writes := [.reg d], cc := true, fall := m.stray false false false false false }
  | .fcvt h d a m => { hdr := h, reads := [.reg a], writes := [.reg d], cc := true, fall := m.stray true false (m.low.extractLsb' 12 4 == 6) true false }
  | .fsqrt h d a m => { hdr := h, reads := [.reg a], writes := [.reg d], cc := true, long := true, fall := m.stray true false false false false }
  | .addi h d a _ => { hdr := h, reads := [.reg a], writes := [.reg d], cc := true }
  | .andi h d a _ => { hdr := h, reads := [.reg a], writes := [.reg d], cc := true }
  | .ori h d a _ => { hdr := h, reads := [.reg a], writes := [.reg d], cc := true }
  | .xori h d a _ => { hdr := h, reads := [.reg a], writes := [.reg d], cc := true }
  | .shli h d a _ => { hdr := h, reads := [.reg a], writes := [.reg d], cc := true }
  | .shri h d a _ => { hdr := h, reads := [.reg a], writes := [.reg d], cc := true }
  | .srai h d a _ => { hdr := h, reads := [.reg a], writes := [.reg d], cc := true }
  | .movi h d _ => { hdr := h, writes := [.reg d], cc := true }
  | .movh h d _ => { hdr := h, reads := [.reg d], writes := [.reg d], cc := true }
  | .muli h d a _ => { hdr := h, reads := [.reg a], writes := [.reg d], cc := true }
  | .cmp h _ pd a b => { hdr := h, reads := [.reg a, .reg b], writes := [.pred pd], cc := true }
  | .cmpi h _ pd a _ => { hdr := h, reads := [.reg a], writes := [.pred pd], cc := true }
  | .pand h pd pa pb => { hdr := h, reads := [.pred pa, .pred pb], writes := [.pred pd.p], fall := pd.cond != 0, cc := true }
  | .por h pd pa pb => { hdr := h, reads := [.pred pa, .pred pb], writes := [.pred pd.p], fall := pd.cond != 0, cc := true }
  | .pxor h pd pa pb => { hdr := h, reads := [.pred pa, .pred pb], writes := [.pred pd.p], fall := pd.cond != 0, cc := true }
  | .pnot h pd pa => { hdr := h, reads := [.pred pa], writes := [.pred pd.p], fall := pd.cond != 0, cc := true }
  | .pmov h pd pa => { hdr := h, reads := [.pred pa], writes := [.pred pd.p], fall := pd.cond != 0, cc := true }
  | .fcmp h _ pd a b => { hdr := h, reads := [.reg a, .reg b], writes := [.pred pd], cc := true }
  | .br h a _ _ => { hdr := h, reads := [.reg a], cc := true }
  | .jmp h a kind _ => { hdr := h, reads := [.reg a], cc := true, fall := kind != 0 }
  | .call h kind _ => { hdr := h, pushes := true, cc := true, fall := kind != 0 }
  | .callr h a kind _ => { hdr := h, pushes := true, reads := [.reg a], cc := true, fall := kind != 0 }
  | .ret h kind => { hdr := h, pops := true, cc := true, fall := kind != 0 }
  | .loop h a kind _ => { hdr := h, reads := [.reg a], writes := [.reg a], cc := true, fall := kind != 0 }
  | .trap h kind _ => { hdr := h, cc := true, fall := kind != 0 }
  | .gatedServiceCall h kind code => { hdr := h, drains := true, reads := serviceReads code.toNat, writes := [.reg ⟨false, 1⟩], geyser := code == 0x020 || code == 0x021, cc := true, fall := kind != 0 }
  | .brk h kind _ => { hdr := h, cc := true, fall := kind != 0 }
  | .nop h kind => { hdr := h, cc := true, fall := kind != 0 }
  | .exit h kind => { hdr := h, cc := true, fall := kind != 0 }
  | .uret h kind => { hdr := h, reads := [.reg ⟨false, 21⟩, .reg ⟨false, 23⟩], cc := true, fall := kind != 0 }
  | .ld h d a m => { hdr := h, loads := true, reads := [.reg a], writes := pairOf d (m.sz == 4), badPair := m.sz == 4 && d.n.getLsbD 0, cc := true, long := true, fall := (m.x && 3 ≤ m.sz.toNat) || m.strayOrd 2 }
  | .st h d a m => { hdr := h, stores := true, reads := .reg a :: pairOf d (m.sz == 4), badPair := m.sz == 4 && d.n.getLsbD 0, cc := true, long := true, fall := m.x || m.strayOrd 1 }
  | .pf h a m => { hdr := h, reads := [.reg a], cc := true, fall := m.x || m.ord != 0 || m.sco != 0 }
  | .fence h kinds m => { hdr := h, cc := true, fall := kinds == 0 || m.sz != 0 || m.ord != 0 || m.hint != 0 || m.x }
  | .ifence h m => { hdr := h, cc := true, fall := m.sz != 0 || m.ord != 0 || m.sco != 0 || m.hint != 0 || m.x }
  | .icsync h m => { hdr := h, cc := true, long := true, acts := true, fall := m.sz != 0 || m.ord != 0 || m.hint != 0 || m.x }
  | .atom h d a b m => { hdr := h, loads := true, stores := true, reads := [.reg d, .reg a, .reg b], writes := [.reg d], cc := true, long := true, fall := m.stray true false true false }
  | .ldfe h d a m => { hdr := h, loads := true, stores := true, reads := [.reg a], writes := [.reg d], cc := true, long := true, fall := m.stray false true true false }
  | .stfe h a b m => { hdr := h, loads := true, stores := true, reads := [.reg a, .reg b], cc := true, long := true, fall := m.stray false false true false }
  | .fset h d a m => { hdr := h, loads := true, stores := true, reads := [.reg a], writes := [.reg d], cc := true, long := true, fall := m.stray false true false false }
  | .fget h d a m => { hdr := h, loads := true, stores := true, reads := [.reg a], writes := [.reg d], cc := true, long := true, fall := m.stray false false false false }
  | .waita h d a b m => { hdr := h, loads := true, stores := true, reads := [.reg a, .reg b], writes := [.reg d], cc := true, long := true, fall := m.stray true false true false }
  | .mon h d a m => { hdr := h, loads := true, stores := true, reads := [.reg a], writes := [.reg d], cc := true, long := true, fall := m.stray false false true false }
  | .monrel h a b m => { hdr := h, loads := true, stores := true, reads := [.reg a, .reg b], writes := [.pred m.pr], cc := true, long := true, fall := m.stray false false true true }
  | .time h d m => { hdr := h, writes := [.reg d], cc := true, fall := m.stray false false false false }
  | .sleep h d a m => { hdr := h, reads := [.reg a], writes := [.reg d], cc := true, long := true, fall := m.stray false false false false }
  | .yield h m => { hdr := h, cc := true, fall := m.stray false false false false }
  | .vadd h vd va vb s m => { hdr := h, reads := [.vec va] ++ operandBReads m vb s, writes := [.vec vd], vec := true, long := true, fall := m.stray (m.et.toNat ≤ 2) (2 < m.et.toNat) false false false true }
  | .vsub h vd va vb s m => { hdr := h, reads := [.vec va] ++ operandBReads m vb s, writes := [.vec vd], vec := true, long := true, fall := m.stray (m.et.toNat ≤ 2) (2 < m.et.toNat) false false false true }
  | .vmul h vd va vb s m => { hdr := h, reads := [.vec va] ++ operandBReads m vb s, writes := [.vec vd], vec := true, long := true, fall := m.stray (m.et.toNat ≤ 2) (2 < m.et.toNat) false false false true }
  | .vfma h vd va vb vc s m => { hdr := h, reads := [.vec va, .vec vc] ++ operandBReads m vb s, writes := [.vec vd], vec := true, long := true, fall := m.stray (m.et.toNat ≤ 2) (2 < m.et.toNat) false false false true }
  | .vmin h vd va vb s m => { hdr := h, reads := [.vec va] ++ operandBReads m vb s, writes := [.vec vd], vec := true, long := true, fall := m.stray false false false false false true }
  | .vmax h vd va vb s m => { hdr := h, reads := [.vec va] ++ operandBReads m vb s, writes := [.vec vd], vec := true, long := true, fall := m.stray false false false false false true }
  | .vabs h vd va m => { hdr := h, reads := [.vec va], writes := [.vec vd], vec := true, long := true, fall := m.stray false (2 < m.et.toNat) false false false false }
  | .vneg h vd va m => { hdr := h, reads := [.vec va], writes := [.vec vd], vec := true, long := true, fall := m.stray false (2 < m.et.toNat) false false false false }
  | .vexp2 h vd va m => { hdr := h, reads := [.vec va], writes := [.vec vd], vec := true, long := true, fall := m.stray false false false false false false }
  | .vlog2 h vd va m => { hdr := h, reads := [.vec va], writes := [.vec vd], vec := true, long := true, fall := m.stray false false false false false false }
  | .vrcp h vd va m => { hdr := h, reads := [.vec va], writes := [.vec vd], vec := true, long := true, fall := m.stray false false false false false false }
  | .vrsq h vd va m => { hdr := h, reads := [.vec va], writes := [.vec vd], vec := true, long := true, fall := m.stray false false false false false false }
  | .vand h vd va vb s m => { hdr := h, reads := [.vec va] ++ operandBReads m vb s, writes := [.vec vd], vec := true, long := true, fall := m.stray false false false false false true }
  | .vor h vd va vb s m => { hdr := h, reads := [.vec va] ++ operandBReads m vb s, writes := [.vec vd], vec := true, long := true, fall := m.stray false false false false false true }
  | .vxor h vd va vb s m => { hdr := h, reads := [.vec va] ++ operandBReads m vb s, writes := [.vec vd], vec := true, long := true, fall := m.stray false false false false false true }
  | .vsh h vd va vb s m => { hdr := h, reads := [.vec va] ++ operandBReads m vb s, writes := [.vec vd], vec := true, long := true, fall := m.stray false false false false true true }
  | .vcmp h vd va vb s m => { hdr := h, reads := [.vec va] ++ operandBReads m vb s, writes := [.vec vd], vec := true, long := true, fall := m.stray false false true false false true }
  | .vsel h vd va vb vc s m => { hdr := h, reads := [.vec va, .vec vc] ++ operandBReads m vb s, writes := [.vec vd], vec := true, long := true, fall := m.stray false false false false false true }
  | .vred h va s m => { hdr := h, reads := [.vec va], writes := [.reg s], vec := true, long := true, fall := m.stray (m.et.toNat ≤ 2) false true false false false }
  | .vbcast h vd s m => { hdr := h, reads := [.reg s], writes := [.vec vd], vec := true, long := true, fall := m.stray false false false false false false }
  | .vperm h vd va vb s m => { hdr := h, reads := [.vec va] ++ operandBReads m vb s, writes := [.vec vd], vec := true, long := true, fall := m.stray false false false false false true }
  | .vcvt h vd va s m => { hdr := h, reads := [.vec va, .reg s], writes := [.vec vd], vec := true, long := true, fall := m.stray true (m.tgt == 6) false true false false }
  | .vscale h vd va vb s m => { hdr := h, reads := [.vec va] ++ operandBReads m vb s, writes := [.vec vd], vec := true, long := true, fall := m.stray true false false false false true }
  | .vmov h vd va m => { hdr := h, reads := [.vec va], writes := [.vec vd], vec := true, long := true, fall := m.stray false false false false false false }
  | .setshape h d a b => { hdr := h, reads := [.reg a, .reg b], writes := [.reg d], vec := true, long := true }
  | .vld h vd s m => { hdr := h, loads := true, reads := [.reg s], writes := [.vec vd], vec := true, long := true, fall := m.stray 2 }
  | .vst h vd s m => { hdr := h, stores := true, reads := [.vec vd, .reg s], vec := true, long := true, fall := m.stray 1 }
  | .vgather h vd va s m => { hdr := h, loads := true, reads := [.vec va, .reg s], writes := [.vec vd], vec := true, long := true, fall := m.stray 2 }
  | .vscatter h vd va s m => { hdr := h, stores := true, reads := [.vec vd, .vec va, .reg s], vec := true, long := true, fall := m.stray 1 }
  | .vact h d a b => { hdr := h, reads := [.reg a, .reg b], writes := [.reg d], vec := true, long := true }
  | .oclaim h s1 s2 m => { hdr := h, reads := [.reg s1], writes := [.reg s2], matrix := true, long := true, fall := m.stray false false false }
  | .orel h s1 s2 m => { hdr := h, reads := [.reg s1], writes := [.reg s2], matrix := true, long := true, fall := m.stray false false false }
  | .tld h _ s1 s2 fmt m => { hdr := h, loads := true, names := [.reg s2], reads := if m.sc then [.reg s1, .reg s2] else [.reg s1], matrix := true, cinder := fmt == 8 || fmt == 9, long := true, fall := m.stray false true m.sc }
  | .tfill h _ s1 s2 _ _ m => { hdr := h, reads := [.reg s1, .reg s2], matrix := true, long := true, fall := m.stray false true false }
  | .mzero h _ m => { hdr := h, matrix := true, long := true, fall := m.stray false false false }
  | .manch h _ s1 m => { hdr := h, reads := [.reg s1], matrix := true, long := true, fall := m.stray false false false }
  | .mma h ta oa ob m => { hdr := h, reads := [.slot oa.toNat, .slot ob.toNat, .tile ta.toNat], matrix := true, long := true, fall := m.stray false false false }
  | .mdrain h ta s1 s2 m => { hdr := h, reads := [.reg s1, .reg s2, .tile ta.toNat], matrix := true, long := true, fall := m.stray true false false }
  | .rowout h _ s1 s2 _ m => { hdr := h, stores := s1 != Opnd.zero, reads := [.reg s1, .reg s2, .vec 0], matrix := true, long := true, fall := m.stray false false false }
  | .rowend h m => { hdr := h, matrix := true, long := true, fall := m.stray false false false }
  | .mstat h ta s1 s2 m => { hdr := h, reads := [.reg s1, .tile ta.toNat], writes := [.reg s2], matrix := true, long := true, fall := m.stray false false false }
  | .sld h s1 z m => { hdr := h, loads := true, reads := [.reg s1], writes := [.scale z.toNat], matrix := true, long := true, fall := m.stray false true true }
  | .sst h s1 z m => { hdr := h, stores := true, reads := [.reg s1, .scale z.toNat], matrix := true, long := true, fall := m.stray false false false }
  | .sadd h s1 z m => { hdr := h, reads := [.reg s1, .scale z.toNat], writes := [.scale z.toNat], matrix := true, long := true, fall := m.stray false false false }
  | .smax h s1 z m => { hdr := h, reads := [.reg s1, .scale z.toNat], writes := [.scale z.toNat], matrix := true, long := true, fall := m.stray false false false }
  | .smin h s1 z m => { hdr := h, reads := [.reg s1, .scale z.toNat], writes := [.scale z.toNat], matrix := true, long := true, fall := m.stray false false false }
  | .sreblk h s1 z m => { hdr := h, reads := [.reg s1, .scale z.toNat], writes := [.scale z.toNat], matrix := true, long := true, fall := m.stray true false true }
  | .smov h oa z m => { hdr := h, reads := [.slot oa.toNat], writes := [.scale z.toNat], matrix := true, long := true, fall := m.stray false false false }
  | .sbind h _ s1 _ m => { hdr := h, reads := [.reg s1], matrix := true, long := true, fall := m.stray false false true }
  | .squery h _ s2 m => { hdr := h, writes := [.reg s2], matrix := true, long := true, fall := m.stray false false false }
  | .sfree h _ m => { hdr := h, matrix := true, long := true, fall := m.stray false false false }
  | .sset h s1 z m => { hdr := h, reads := [.reg s1], writes := [.scale z.toNat], matrix := true, long := true, fall := m.stray false false false }
  | .fork h a b res => { hdr := h, loads := true, stores := true, reads := [.reg a, .reg b], long := true, fall := res }
  | .tend h res => { hdr := h, fall := res }
  | .joinw h a res => { hdr := h, loads := true, stores := true, reads := [.reg a], long := true, fall := res }
  | .barr h d a res => { hdr := h, reads := [.reg a], writes := [.reg d], long := true, fall := res }
  | .bwait h a res => { hdr := h, reads := [.reg a], long := true, acts := true, fall := res }
  | .bmiss h d a b res => { hdr := h, reads := [.reg a, .reg b], writes := [.reg d], long := true, acts := true, fall := res }
  | .bcfg h a b res => { hdr := h, reads := [.reg a, .reg b], long := true, acts := true, fall := res }
  | .migrate h a res => { hdr := h, reads := [.reg a], long := true, fall := res }
  | .nomad h _ => { hdr := h, long := true, acts := true }
  | .homeq h d a res => { hdr := h, reads := [.reg a], writes := [.reg d], long := true, acts := true, fall := res }
  | .xfer h a b m => { hdr := h, stores := true, reads := [.reg a, .reg b], cinder := m.sf == 8 || m.sf == 9 || m.df == 8 || m.df == 9, long := true, fall := m.stray true true }
  | .shadow h d a b m => { hdr := h, reads := [.reg a, .reg b], writes := [.reg d], long := true, acts := true, fall := m.stray false false }
  | .publish h d a m => { hdr := h, stores := true, reads := [.reg a], writes := [.reg d], long := true, fall := m.stray true false }
  | .npost h a m => { hdr := h, stores := true, reads := [.reg a], geyser := true, long := true, fall := m.stray true false }
  | .nrecv h a m => { hdr := h, stores := true, reads := [.reg a], geyser := true, long := true, fall := m.stray true false }
  | .launch h d a b m => { hdr := h, reads := [.reg a, .reg b], writes := pairOf d true, badPair := d.n.getLsbD 0, cc := true, long := true, acts := true, fall := m.stray false false }
  | .lwait h d a m => { hdr := h, reads := [.reg a], writes := [.reg d], cc := true, long := true, acts := true, fall := m.stray false false }
  | .lstat h d a m => { hdr := h, reads := [.reg a], writes := [.reg d], cc := true, long := true, acts := true, fall := m.stray false false }
  | .cmsg h d a b m => { hdr := h, reads := [.reg a, .reg b], writes := [.reg d], cc := true, long := true, fall := m.stray false false }
  | .mrecv h d a m => { hdr := h, reads := [.reg a], writes := pairOf d true, badPair := d.n.getLsbD 0, cc := true, long := true, acts := true, fall := m.stray false false }
  | .stepcfg h d a m => { hdr := h, reads := [.reg a], writes := [.reg d], long := true, acts := true, fall := m.stray false false }
  | .stepend h d m => { hdr := h, writes := [.reg d], long := true, acts := true, fall := m.stray false false }
  | .ldstep h d a b m => { hdr := h, loads := true, reads := [.reg a, .reg b], writes := pairOf d (m.sz == 4), badPair := m.sz == 4 && d.n.getLsbD 0, long := true, fall := m.stray true true }
  | .stepaddr h d b m => { hdr := h, reads := [.reg b], writes := [.reg d], long := true, acts := true, fall := m.stray true false }
  | .stepq h d a m => { hdr := h, reads := [.reg a], writes := [.reg d], long := true, acts := true, fall := m.stray true false }
  | .cut h d a b m => { hdr := h, reads := [.reg a, .reg b], writes := [.reg d], long := true, acts := true, fall := m.stray false false }
  | .mfcr h d crn m => { hdr := h, writes := [.reg d], priv := crPriv crn, illegal := !crKnown crn, fall := (m.all crn).stray false false false true }
  | .mtcr h d a crn m => { hdr := h, reads := [.reg a], writes := [.reg d], priv := crPriv crn, illegal := !crKnown crn, fall := (m.all crn).stray false false false true }
  | .eret h m => { hdr := h, priv := 1, fall := m.stray false false false false }
  | .tsave h d a b m => { hdr := h, reads := [.reg a, .reg b], writes := [.reg d], priv := 1, long := true, acts := true, fall := m.stray false false false false }
  | .tload h d a b m => { hdr := h, reads := [.reg a, .reg b], writes := [.reg d], priv := 1, long := true, acts := true, fall := m.stray false false false false }
  | .tswap h d a b m => { hdr := h, reads := [.reg a, .reg b], writes := [.reg d], priv := 1, long := true, acts := true, fall := m.stray false false false false }
  | .repart h d a m => { hdr := h, reads := [.reg a], writes := [.reg d], priv := 1, long := true, acts := true, fall := m.stray true false false false }
  | .tlbinv h d a b m => { hdr := h, reads := [.reg a, .reg b], writes := [.reg d], priv := 1, long := true, acts := true, fall := m.stray false false true false }
  | .cacheop h d a b m => { hdr := h, reads := [.reg a, .reg b], writes := [.reg d], priv := 1, long := true, acts := true, fall := m.stray false true false false }
  | .sigpost h d a b m => { hdr := h, reads := [.reg a, .reg b], writes := [.reg d], priv := 1, long := true, acts := true, fall := m.stray false false false false }
  | .ctxnew h d a => { hdr := h, reads := [.reg a], writes := [.reg d], priv := 1, long := true, acts := true }
  | .ctxgrant h d a b => { hdr := h, reads := [.reg a, .reg b], writes := [.reg d], priv := 1, long := true, acts := true }
  | .ctxrevoke h d a b => { hdr := h, reads := [.reg a, .reg b], writes := [.reg d], priv := 1, long := true, acts := true }
  | .ctxrun h d a => { hdr := h, reads := [.reg a], writes := [.reg d], priv := 1, long := true, acts := true }
  | .ctxstop h d a => { hdr := h, reads := [.reg a], writes := [.reg d], priv := 1, long := true, acts := true }
  | .ctxevt h d a b => { hdr := h, reads := [.reg a, .reg b], writes := [.reg d], priv := 1, long := true, acts := true }
  | .ctxreset h d a b => { hdr := h, reads := [.reg a, .reg b], writes := [.reg d], priv := 1, long := true, acts := true }
  | .ctxfree h d a => { hdr := h, reads := [.reg a], writes := [.reg d], priv := 1, long := true, acts := true }
  | .ctxstat h d a b => { hdr := h, reads := [.reg a, .reg b], writes := [.reg d], priv := 1, long := true, acts := true }
  | _ => { hdr := ⟨false, 0, false⟩ }

/-- The instruction word, which is TADDR of the traps of decoding (R385). -/
def Instr.word (i : Instr) : Word :=
  match encode i with
  | .native w => w
  | .byte1 w => w.setWidth 64
  | .byte2 w _ => w.setWidth 64
  | .event => 0

end Sys2Proof

namespace Sys2Proof.Machine


/-! ### Checks -/

/-- A register that the thread may not name (R15, R32, R44, R132, R258). -/
def State.badReg (s : State) (r : Opnd) : Bool :=
  let t := s.th
  if r.shared then t.cc || !bit s.myCtx.slotmask (40 + r.n.toNat / 8)
  else if t.cc then decide (32 ≤ r.n.toNat)
  else decide (regsOf s.myCore.mode ≤ r.n.toNat) || (t.nomad && decide (16 ≤ r.n.toNat))

/-- The slot has vector registers (R15, R50). -/
def State.vecSlot (s : State) : Bool := decide (s.th.slot < vecSlots s.myCore.mode)

/-- Steps 2 to 4 of R144: ILLEGAL_OP, PRIV, ILLEGAL_REG. A control-register number is unassigned only where it is legal
(R326). -/
def State.decodeChecks (s : State) (f : Info) : Option Cause :=
  let t := s.th
  if t.cc && !f.cc then some .illegalOp
  else if (decide (1 ≤ f.priv) && !t.sup) || (decide (2 ≤ f.priv) && t.asid != 0) then some .priv
  else if f.illegal then some .illegalOp
  else if f.badPair || (f.names ++ f.reads ++ f.writes).any (fun d => match d with
      | .reg r => s.badReg r
      | _ => false) ||
      (f.vec && !s.vecSlot) || (t.nomad && (f.vec || f.matrix)) then some .illegalReg
  else none

/-- A unit that the word's own fields need is absent (R13, R144 step 6). -/
def State.unitMissing (s : State) (f : Info) : Bool :=
  (f.geyser && !Config.geyser s.part) || (f.cinder && !Config.cinder s.part)

/-- A destination is poisoned (R27). -/
def State.poisonedDst (s : State) (d : Dst) : Bool :=
  match d with
  | .reg r =>
    if r.shared then s.myCore.yPoison.contains r.n.toNat else r.n != 0 && s.th.xPoison.contains r.n.toNat
  | .pred p => p != 0 && s.th.pPoison.contains p.toNat
  | .vec v => s.th.vPoison.contains v.toNat
  | .slot n => (s.myCore.slot n).poison
  | .tile n => (s.myCore.tile n).poison
  | .scale n => (s.myCore.scale n).poison

/-- A destination that discards writes: x0 and p0. -/
def Dst.discards : Dst → Bool
  | .reg r => !r.shared && r.n == 0
  | .pred p => p == 0
  | _ => false

/-- The thread has an outstanding result for a destination. -/
def State.outstanding (s : State) (d : Dst) : Bool :=
  !d.discards && s.th.outst.any fun o => o.dsts.contains d && !o.dead.contains d

/-- A source that is read while its result is outstanding: with the old value it raises no POISON (R27). -/
def State.poisonRead (s : State) (d : Dst) : Bool := s.poisonedDst d && !s.outstanding d

/-! ### Results -/

/-- Make one write of a result, unless a later instruction's value stands (R25). -/
def State.write (s : State) (uid : Nat) (dead : List Dst) (w : Write) : State :=
  match w with
  | .reg r v => if dead.contains (.reg r) then s else s.setRegOf uid r v
  | .pred p v => if dead.contains (.pred p) then s else s.onThread uid (·.setP p.toNat v)
  | .lane v row lane x => if dead.contains (.vec v) then s else s.onThread uid (·.setLane v.toNat row lane x)
  | .flags f => s.onThread uid (·.flag f)
  | .row o row bs =>
    s.onCore (s.thread uid).core fun k =>
      let q := k.slot o
      if q.owner ≠ some uid ∨ dead.contains (.slot o) then k
      else k.setSlot o { q with bytes := setList 0 q.bytes (512 * row) bs, poison := false }
  | .part o off bs =>
    s.onCore (s.thread uid).core fun k =>
      let q := k.slot o
      if q.owner ≠ some uid ∨ dead.contains (.slot o) then k else k.setSlot o { q with bytes := setList 0 q.bytes off bs }
  | .loaded o =>
    s.onCore (s.thread uid).core fun k =>
      let q := k.slot o
      if q.owner ≠ some uid ∨ dead.contains (.slot o) then k else k.setSlot o { q with state := 3, poison := false }
  | .scale z bs =>
    s.onCore (s.thread uid).core fun k =>
      if dead.contains (.scale z) then k
      else k.setScale z { k.scale z with bytes := sparseFrom 127 0 bs, poison := false }

/-- Make all writes of a result. -/
def State.writeAll (s : State) (uid : Nat) (dead : List Dst) (ws : List Write) : State :=
  forEach (fun w s => s.write uid dead w) ws s

/-- Poison a destination of a thread (R27). -/
def State.poisonDst (s : State) (uid : Nat) (d : Dst) : State :=
  match d with
  | .reg r =>
    if r.shared then s.onCore (s.thread uid).core fun k => { k with yPoison := r.n.toNat :: k.yPoison }
    else if r.n = 0 then s else s.onThread uid fun t => { t with xPoison := r.n.toNat :: t.xPoison }
  | .pred p => if p = 0 then s else s.onThread uid fun t => { t with pPoison := p.toNat :: t.pPoison }
  | .vec v => s.onThread uid fun t => { t with vPoison := v.toNat :: t.vPoison }
  | .slot n => s.onCore (s.thread uid).core fun k => k.setSlot n { k.slot n with poison := true }
  | .tile n => s.onCore (s.thread uid).core fun k => k.setTile n { k.tile n with poison := true }
  | .scale n => s.onCore (s.thread uid).core fun k => k.setScale n { k.scale n with poison := true }

/-- The bytes that a result's accesses have brought, in order of offset, over `n` bytes. -/
def Outst.gather (o : Outst) (n : Nat) : List Byte :=
  let m : Sparse Byte := forEach (fun (g : Nat × List Byte) m => setList 0 m g.1 g.2) o.got []
  dense 0 m n

/-- The bytes of a single access. -/
def Outst.first (o : Outst) : List Byte :=
  match o.got with
  | [] => []
  | g :: _ => g.2

/-- The value of a scalar load (R168). -/
def loadValue (size : Nat) (sx : Bool) (bs : List Byte) : Word :=
  let v := fromBytes (bs.take (min size 8))
  if sx && decide (size < 8) then sext (8 * size) v else word v

end Sys2Proof.Machine
end

