-- ==== Sys2Proof/Machine/Issue.lean ====
section
/-! DEFINITION. How results come back (R22, R25, R27, R195), and the common part of every instruction: the checks in
the order of R144, early reads and writes, the switch marker (R24) and the limit of R23. -/

namespace Sys2Proof.Machine

/-! ### Results that need number formats -/

/-- The elements a lane of an element type holds (R70). -/
def perLane (et : Nat) : Nat := 32 / (Ty.ofEt et).width

/-- The raw format codes: bytes are copied (R189). -/
def rawFmt (f : Nat) : Bool := f == 0 || f == 8 || f == 9

/-- Memory format `f` and element type `et` are the same format, or bytes are copied (R189). -/
def copies (f et : Nat) : Bool := rawFmt f || Ty.ofFmt f == some (Ty.ofEt et)

/-- Bits of an element of a memory format. -/
def fmtBits (f et : Nat) : Nat := if rawFmt f then (Ty.ofEt et).width else ((Ty.ofFmt f).getD .e8m0).width

/-- One loaded element: `off` is twice its number plus the nibble of its byte (R189). -/
def loadElem (et f : Nat) (g : Nat × List Byte) : Nat × Flagged Nat :=
  let b := fromBytes g.2
  let b := if f = 6 then b / 16 ^ (g.1 % 2) % 16 else b
  (g.1 / 2, if copies f et then (b, 0) else convert ((Ty.ofFmt f).getD .e8m0) (Ty.ofEt et) 0 false b)

/-- The lanes that a vector load writes, with the flags of its conversions. -/
def lanesWrites (o : Outst) (v : BitVec 4) (els : List (Nat × Nat)) (et f : Nat) : List Write :=
  let w := (Ty.ofEt et).width
  let acc := forEach (fun g (acc : Sparse Nat × Word) =>
    let e := loadElem et f g
    let at_ := els.getD e.1 (0, 0)
    (put acc.1 at_.1 (get 0 acc.1 at_.1 + e.2.1 * 2 ^ (w * at_.2)), acc.2 ||| e.2.2)) o.got (([], 0) : Sparse Nat × Word)
  acc.1.map (fun p => .lane v (p.1 / 64) (p.1 % 64) (BitVec.ofNat 32 p.2)) ++ [.flags acc.2]

/-- The plain format of a slot format code (R198). -/
def slotPlain (f : Nat) : Nat := if f = 8 then 4 else if f = 9 then 5 else f

/-- The format that a `tld` source is read in: a raw bank holds FMT (R198). -/
def tldSource (fmt src : Nat) : Nat := if src = 0 then fmt else src

/-- The element `n` of a dense plain source (R70, R198). -/
def plainElem (f : Nat) (bs : Sparse Byte) (n : Nat) : Nat :=
  let w := ((Ty.ofFmt f).getD .e8m0).width
  if w = 4 then (get 0 bs (n / 2)).toNat / 16 ^ (n % 2) % 16
  else (List.range (w / 8)).foldl (fun v j => v + (get 0 bs (n * (w / 8) + j)).toNat * 256 ^ j) 0

/-- Pack elements of a plain format into bytes (R70). -/
def packElems (f : Nat) (els : List Nat) : List Byte :=
  let w := ((Ty.ofFmt f).getD .e8m0).width
  if w = 4 then (List.range (els.length / 2)).map fun i => BitVec.ofNat 8 (els.getD (2 * i) 0 + 16 * els.getD (2 * i + 1) 0)
  else els.flatMap (toBytes (w / 8))

/-- Where the scale stream's bytes stand among a `tld`'s bytes. -/
def streamAt : Nat := 0x20000

/-- The scale bytes of a stream of `n` codes a row (R199, R210). -/
def scaleRows (n : Nat) (code : Nat → Nat) : List Byte :=
  (List.range 1024).map fun i => if i % 32 < n then BitVec.ofNat 8 (code (i / 32 * n + i % 32)) else 127

/-- Convert the elements of a slot, collecting flags. -/
def convertAll (src dst : Ty) (els : List Nat) : List Nat × Word :=
  (els.map fun b => (convert src dst 0 false b).1, els.foldl (fun f b => f ||| (convert src dst 0 false b).2) 0)

/-- The 32 rows of a `tld` (R198, R199), its scale bytes and its flags. A Cinder source is decoded and converted whole, so
that elements which a slot of 256 a row does not take can set NV; of a slot of 1,024 a row, whose 32 rows need more elements
than the 16 groups hold, rows 16 to 31 keep their bytes (log 27). FMT of one Cinder code and a bank of the other have no row in
R198: the bank's code decodes, and the elements are converted to D (log 86, the model's choice). -/
def tldWrites (fr : Nat) (o : Outst) (slot fmt src k : Nat) (scale : Option (Nat × Nat)) : List Write :=
  let bs : Sparse Byte := forEach (fun (g : Nat × List Byte) m => setList 0 m g.1 g.2) o.got []
  let f := tldSource fmt src
  let p := slotPlain f
  let d := slotPlain fmt
  let raw : List Nat × Word :=
    if f = 8 ∨ f = 9 then
      let r := decodeTensor fr (dense 0 bs 16704) (f == 9) 16
      (r.1, flagIf r.2 fNV)
    else ((List.range (32 * k)).map (plainElem p bs), 0)
  let els := if p = d then raw
    else
      let c := convertAll ((Ty.ofFmt p).getD .e8m0) ((Ty.ofFmt d).getD .e8m0) raw.1
      (c.1, raw.2 ||| c.2)
  let bytes := packElems d els.1
  let sc : List Write :=
    match scale with
    | none => []
    | some (z, n) => [.scale z (scaleRows n fun i => (get 0 bs (streamAt + i)).toNat)]
  (List.range 32).map (fun i => .row slot i ((bytes.drop (512 * i)).take 512)) ++ [.loaded slot, .flags els.2] ++ sc

/-- The bytes of an `sld` (R210), with the flags of its conversions. -/
def sldWrites (o : Outst) (z n : Nat) (f32 : Bool) : List Write :=
  let bs : Sparse Byte := forEach (fun (g : Nat × List Byte) m => setList 0 m g.1 g.2) o.got []
  if f32 then
    let c := convertAll (.flt .f32) .e8m0 ((List.range (32 * n)).map (plainElem 1 bs))
    [.scale z (scaleRows n fun i => c.1.getD i 0), .flags c.2]
  else [.scale z (scaleRows n fun i => (get 0 bs i).toNat)]

/-- The writes of an outstanding result whose accesses have all been performed. -/
def Outst.writes (o : Outst) (fr : Nat) : List Write :=
  match o.fin with
  | .done ws => ws
  | .load r size sx =>
    let bs := o.first
    if size = 16 then [.reg r (word (fromBytes (bs.take 8))), .reg r.succ (word (fromBytes (bs.drop 8)))]
    else [.reg r (loadValue size sx bs)]
  | .word r => [.reg r (word (fromBytes o.first))]
  | .held p => [.pred p (o.first == [1])]
  | .lanes v els et fmt => lanesWrites o v els et fmt
  | .slot q fmt src k scale => tldWrites fr o q fmt src k scale
  | .scale z n f32 => sldWrites o z n f32
  | .sleep _ => []
  | .step => []
  | .trace => []

/-! ### Returning a result -/

/-- A result may return: its accesses have been performed, it is not that of a seventeenth long instruction (R23), the matrix
unit keeps the order of one thread's instructions on a slot (R195), and an `mma` issued before it, by whichever thread, has read
the scale register that it writes (R195, R203). -/
def State.mayReturn (s : State) (uid : Nat) (o : Outst) : Bool :=
  let t := s.thread uid
  o.need == 0 && !t.overLimit o.id &&
    o.dsts.all fun d =>
      match d with
      | .slot n => !(t.outst.any fun p => decide (p.id < o.id) && p.dsts.contains (.slot n))
      | .scale z => !((s.core t.core).jobs.any fun j => decide (j.out < o.id) && j.op.reads z)
      | _ => true

/-- The destinations that uncorrectable data poisons (R27): a `tld` fills its slot and its scale register apart. -/
def Outst.poisons (o : Outst) : List Dst :=
  match o.fin with
  | .slot q _ _ _ scale =>
    (if o.bad.any (· < streamAt) then [.slot q] else []) ++
      match scale with
      | some (z, _) => if o.bad.any (streamAt ≤ ·) then [.scale z] else []
      | none => []
  | _ => if o.bad.isEmpty then [] else o.dsts

/-- What the counters see of a returning result (R408): a slot filled, elements decoded from Cinder. -/
def State.countResult (s : State) (uid : Nat) (o : Outst) : State :=
  match o.fin with
  | .slot _ fmt src _ _ =>
    let s := s.count (s.thread uid).asid 0x011
    if tldSource fmt src = 8 ∨ tldSource fmt src = 9 then s.countN (s.thread uid).asid 0x012 16384 else s
  | _ => s

/-- The register is shared, and a result of a higher-numbered slot has written it in this cycle: that write remains (R45). -/
def State.outranked (s : State) (uid : Nat) (d : Dst) : Bool :=
  match d with
  | .reg r => r.shared && match (s.core (s.thread uid).core).yNow.find? fun e => e.1 == r.n.toNat with
      | some e => decide ((s.thread uid).slot < e.2.1)
      | none => false
  | _ => false

/-- What the results of a cycle leave in a shared register is kept for the rest of the cycle (R45): `old` is the state before
the write. -/
def State.wroteShared (s old : State) (uid : Nat) (d : Dst) : State :=
  match d with
  | .reg r =>
    if !r.shared then s
    else
      let n := r.n.toNat
      s.onCore (s.thread uid).core fun k =>
        let was := match k.yNow.find? fun e => e.1 == n with
          | some e => e.2.2.2
          | none => (old.core (old.thread uid).core).getY n
        { k with yNow := put k.yNow n ((s.thread uid).slot, k.getY n, was) }
  | _ => s

/-- An outstanding result of a thread returns: its destinations are written, or poisoned (R27). -/
def State.returnResult (s : State) (uid : Nat) (o : Outst) : State :=
  let dead := o.dead ++ o.dsts.filter (s.outranked uid)
  let q := (s.writeAll uid dead (o.writes s.free)).countResult uid o
  let q := forEach (fun d q => if dead.contains d then q else q.poisonDst uid d) o.poisons q
  let s := forEach (fun d q => if dead.contains d then q else State.wroteShared q s uid d) o.dsts q
  s.onThread uid fun t => { t with
    outst := t.outst.filter fun p => p.id != o.id,
    trace := t.trace.map fun e => if e = .open o.id then .got o.first (!o.bad.isEmpty) else e }

/-! ### Early reads and writes (R25) -/

/-- The rows of a slot whose new bytes an early read receives, when the bytes have arrived (R195). -/
def earlyRows (fr : Nat) (ws : List Write) : List Write :=
  ws.filter fun w => match w with
    | .row _ r _ => Config.freeBit fr (1000 + r)
    | .part _ off _ => Config.freeBit fr (1000 + off / 512)
    | _ => false

/-- What an early read of a scale register finds: per row of 32 codes the old ones or the new ones (R195). -/
def earlyScale (fr : Nat) (old : List Byte) (ws : List Write) : List Write :=
  ws.filterMap fun w => match w with
    | .scale z bs => some (.scale z ((List.range 1024).map fun i =>
        if Config.freeBit fr (1000 + i / 32) then bs.getD i 127 else old.getD i 127))
    | _ => none

/-- Slot bytes that are there before their result returns: those that a draining tile's handlers have written (R206). -/
def Fin.early : Fin → Bool
  | .done ws => !ws.isEmpty
  | _ => false

/-- W_EARLY, which barrel cores count (R408). -/
def State.warnEarly (s : State) : State :=
  if s.th.cc then s.warnBit wEARLY else (s.warnBit wEARLY).count s.th.asid 0x004

/-- A source whose result is outstanding is read: W_EARLY, and the value is the old one or the new one (R25). A result with
uncorrectable data that is received at all returns, so that the read finds its destination poisoned (R27, R195). -/
def State.readOne (s : State) (d : Dst) : State :=
  if !s.outstanding d then s
  else
    let s := s.warnEarly
    match s.th.outst.find? fun o => o.dsts.contains d && !o.dead.contains d with
    | none => s
    | some o =>
      if !s.mayReturn s.cur o && !(match d with
          | .slot _ => o.fin.early
          | _ => false) then s
      else if o.poisons.contains d then
        if Config.freeBit s.free o.id then s.returnResult s.cur o else s
      else
        match d with
        | .slot _ => s.writeAll s.cur o.dead (earlyRows s.free (o.writes s.free))
        | .scale z => s.writeAll s.cur o.dead (earlyScale s.free (s.myCore.scale z).all (o.writes s.free))
        | _ => if Config.freeBit s.free o.id then s.returnResult s.cur o else s

/-- Read the sources of an instruction. -/
def State.readEarly (s : State) (l : List Dst) : State := forEach (fun d s => s.readOne d) l s

/-- A destination whose result is outstanding is written: W_EARLY, and either value remains (R25). -/
def State.writeOne (s : State) (d : Dst) : State :=
  if !s.outstanding d then s
  else
    State.onThread s.warnEarly s.cur fun t => { t with
      outst := t.outst.map fun o =>
        if o.dsts.contains d && Config.freeBit s.free (2000 + o.id) then { o with dead := d :: o.dead } else o }

/-- Write the destinations of an instruction. -/
def State.writeEarly (s : State) (l : List Dst) : State := forEach (fun d s => s.writeOne d) l s

/-! ### Issue -/

/-- What the body of an instruction answers: the state after it, a trap, or a park after which the instruction is
issued again. -/
inductive Res where
  | done (s : State)
  | trap (t : Trap)
  | park (s : State) (p : Park)

/-- Advance the pc of the thread that issues. -/
def State.advance (s : State) (n : Word) : State := s.setTh { s.th with pc := s.th.pc + n }

/-- The thread parks and issues the instruction at `pc` again. -/
def State.parkAt (s : State) (pc : Word) (p : Park) : State :=
  s.onThread s.cur fun t => { t with pc := pc, park := p, parkedAt := s.now }

/-- The end of an instruction that took effect at `pc`: its word leaves the fetch buffer, the switch marker parks the
thread while a result is outstanding (R24), and the seventeenth result parks it too (R23). -/
def State.finish (s : State) (pc : Word) (sw fall : Bool) : State :=
  State.onThread { s with free := s.free + 1 } s.cur fun t =>
    let t := { t with buf := t.buf.filter (fun b => b.1 != pc), trace := [], kept := [], held := none }
    let t := if fall then t.warned wMODFALL else t
    if sw && !t.outst.isEmpty then
      match t.park with
      | .barrier _ _ => { t with kept := [1], buf := [] }
      | _ => { t with park := .switch, parkedAt := s.now, buf := [] }
    else if t.park = .run ∧ 16 < t.outst.length then { t with park := .limit, parkedAt := s.now }
    else t

/-- An instruction issued on a barrel core is counted (R408): once it has its effect, ends at a false guard, or traps. -/
def State.counted (s : State) (cc : Bool) (asid : Nat) : State := if cc then s else s.count asid 0x001

/-- The native instruction that issues traps, precisely at its pc (R26, R144). -/
def State.trapNow (s : State) (t : Trap) : State := (s.counted s.th.cc s.th.asid).raise s.cur t true

/-- What keeps a word whose guard holds from issuing at all: an unmet fence that guards one of its accesses (R171), the
link store's among them (R47), and the drain of a gated call (R411). -/
def State.holdBack (s : State) (f : Info) : Option Park :=
  let loads := f.loads || (f.pops && s.th.link.isEmpty && s.th.spilled != 0)
  let stores := f.stores || (f.pushes && decide (8 ≤ s.th.link.length))
  if f.drains && !s.drained s.cur then some .drain
  else
    match s.fenced loads stores with
    | [] => none
    | l => some (.ids l)

/-- The instruction that parks has had its issue turn, or has read the first piece of a descriptor. -/
def State.started (q : State) (p : Park) : Bool := p.issued || !q.th.trace.isEmpty

/-- A body that parks the instruction before its issue turn, when it is tried on the registers as they stand: the early reads of
R25 happen in the turn in which it does not. -/
def State.parksFirst (s : State) (f : Info) (body : State → Res) : Option (State × Park) :=
  if (f.reads ++ f.writes).any s.outstanding && !f.reads.any s.poisonRead then
    match body (s.advance 8) with
    | .park q p => if q.started p then none else some (q, p)
    | _ => none
  else none

/-- The instruction parks: once it has had its issue turn, its word and the operands that it read there stay with it. -/
def State.parkBody (s q : State) (i : Instr) (pc : Word) (p : Park) : State :=
  let regs := i.info.reads.filterMap fun d => match d with
    | .reg r => some (r, s.reg r)
    | _ => none
  (if q.started p then q.setTh { q.th with held := some (i.word, regs) } else q).parkAt pc p

/-- The instruction at the pc has had its issue turn, and goes on. -/
def State.goesOn (s : State) (i : Instr) : Bool :=
  match s.th.held with
  | some h => h.1 == i.word
  | none => false

/-- A native instruction of the thread that issues: the checks in the order of R144, then its body on the state with the pc
advanced. One that goes on after a park has had its guard and its sources read (R4). The seventeenth long instruction whose
effect is that of one instant parks once it has passed its checks, and is performed when another has returned (R23). -/
def State.issue (s : State) (i : Instr) (body : State → Res) : State :=
  let f := i.info
  let pc := s.th.pc
  match s.decodeChecks f with
  | some c => s.trapNow (.of c i.word)
  | none =>
    if s.goesOn i then
      match body (s.advance 8) with
      | .trap t => s.trapNow t
      | .park q p => q.parkAt pc p
      | .done d => (d.counted s.th.cc s.th.asid).finish pc f.hdr.sw f.fall
    else
      let g := s.readEarly [.pred f.hdr.pg]
      if g.poisonRead (.pred f.hdr.pg) then s.trapNow (.of .poison 0)
      else if g.pred f.hdr.pg = f.hdr.pn then ((g.advance 8).counted s.th.cc s.th.asid).finish pc f.hdr.sw false
      else if s.unitMissing f then s.trapNow (.of .unitAbsent i.word)
      else
        match s.holdBack f with
        | some p => s.parkAt pc p
        | none =>
          match s.parksFirst f body with
          | some (q, p) => q.parkAt pc p
          | none =>
            let e := g.readEarly f.reads
            if f.reads.any e.poisonRead then s.trapNow (.of .poison 0)
            else
              match body ((e.writeEarly f.writes).advance 8) with
              | .trap t => s.trapNow t
              | .park q p => e.parkBody q i pc p
              | .done d =>
                if f.acts && decide (16 ≤ e.th.outst.length) then e.parkBody (e.writeEarly f.writes) i pc .room
                else (d.counted s.th.cc s.th.asid).finish pc f.hdr.sw f.fall

/-- A release that is no memory access waits, at issue, for what comes before it to be performed to its scope (R118,
R125). -/
def State.released (s : State) (scope : Nat) (go : Res) : Res :=
  match s.releaseIds scope with
  | [] => go
  | l => .park s (.ids l)

/-- The meaning of a native instruction with a body. -/
def native (i : Instr) (body : State → Res) (s : State) : Host.Outcome State Fault Refusal :=
  if has s.threads s.cur then .next (s.issue i body) else .fault .noThread

end Sys2Proof.Machine
end

