-- ==== Sys2Proof/Machine/Scalar.lean ====
section
/-! DEFINITION. Groups 0x0 to 0x2: integer and FP32 register operations, immediates, compares and predicate logic
(R148 to R157). -/

namespace Sys2Proof.Machine

/-! ### Shared operations -/

/-- X(D) := value, with the FLAGS bits that computing it sets. -/
def State.setResult (s : State) (d : Opnd) (r : Flagged Word) : State := (s.setReg d r.1).flag r.2

/-- A short instruction that writes one register. -/
def regOp (i : Instr) (d : Opnd) (f : State → Flagged Word) (s : State) : Host.Outcome State Fault Refusal :=
  native i (fun s => .done (s.setResult d (f s))) s

/-- A short instruction that writes one predicate. -/
def predOp (i : Instr) (p : BitVec 3) (f : State → Bool) (s : State) : Host.Outcome State Fault Refusal :=
  native i (fun s => .done (s.setPred p (f s))) s

/-- A long instruction whose result is computed in its issue turn and returns later (R22). -/
def State.later (s : State) (dsts : List Dst) (ws : List Write) : State := s.openOut dsts (.done ws) 0

/-- A long instruction that writes one register. -/
def longOp (i : Instr) (d : Opnd) (f : State → Flagged Word) (s : State) : Host.Outcome State Fault Refusal :=
  native i (fun s => .done (s.later [.reg d] [.reg d (f s).1, .flags (f s).2])) s

/-- The number of set bits. -/
def popcount (w : Word) : Nat := ((List.range 64).filter fun i => w.getLsbD i).length

/-- Zero bits below the lowest set bit; 64 for zero. -/
def trailing (w : Word) : Nat := ((List.range 64).find? fun i => w.getLsbD i).getD 64

/-- Zero bits above the highest set bit; 64 for zero. -/
def leading (w : Word) : Nat := ((List.range 64).find? fun i => w.getLsbD (63 - i)).getD 64

/-- `shl`, `shr`, `sra` and `rot` (R151) by a count below 64. -/
def shiftWord (k : Nat) (a : Word) (c : Nat) : Word :=
  match k with
  | 0 => a <<< c
  | 1 => a >>> c
  | 2 => a.sshiftRight c
  | _ => a.rotateLeft c

/-- `ext` (R152). -/
def extWord (u : Bool) (a : Word) (pos len : Nat) : Word :=
  let n := if len = 0 then 64 else len
  let f := a.toNat / 2 ^ pos % 2 ^ n
  if u then word f else sext n f

/-- `ins` (R152). -/
def insWord (d a : Word) (pos len : Nat) : Word :=
  let n := if len = 0 then 64 else len
  let m := word ((2 ^ n - 1) * 2 ^ pos)
  (d &&& ~~~m) ||| (word (a.toNat * 2 ^ pos) &&& m)

/-- POS of `ext` and `ins` (R136). -/
def M0pos (m : M0) : Nat := (m.low.extractLsb' 8 6).toNat
/-- LEN of `ext` and `ins`. -/
def M0len (m : M0) : Nat := (m.low.extractLsb' 0 6).toNat

/-- A scalar FP32 operand (R91). -/
def f32Of (w : Word) : Val := Fmt.f32.decode (w.toNat % 2 ^ 32)

/-- A scalar FP32 result. -/
def f32Result (mode : Nat) (r : Flagged Val) : Flagged Word :=
  (word (Fmt.f32.result mode r).1, (Fmt.f32.result mode r).2)

/-- The rounding mode of the thread that issues. -/
def State.mode (s : State) (rnd : BitVec 3) : Nat := rmode rnd s.th.flags

/-- `fcvt` (R155). -/
def fcvtWord (m : M0) (mode : Nat) (a : Word) : Flagged Word :=
  let r := convert (Ty.ofCode (m.low.extractLsb' 8 4).toNat) (Ty.ofCode (m.low.extractLsb' 12 4).toNat) mode m.sat a.toNat
  (word r.1, r.2)

/-- A 35-bit immediate, sign-extended (R153). -/
def imm35 (i : BitVec 35) : Word := i.signExtend 64

/-- An integer condition of two registers (R138, R156). -/
def condWord (c : BitVec 4) (a b : Word) : Bool := intCond c.toNat a.toInt b.toInt a.toNat b.toNat

/-! ### Group 0x0 -/

def execAdd (h : Hdr) (d a b : Opnd) (m : M0) (s : State) : Host.Outcome State Fault Refusal :=
  regOp (.add h d a b m) d (fun s => satWord m.sat ((s.reg a).toInt + (s.reg b).toInt)) s
def execSub (h : Hdr) (d a b : Opnd) (m : M0) (s : State) : Host.Outcome State Fault Refusal :=
  regOp (.sub h d a b m) d (fun s => satWord m.sat ((s.reg a).toInt - (s.reg b).toInt)) s
def execMul (h : Hdr) (d a b : Opnd) (m : M0) (s : State) : Host.Outcome State Fault Refusal :=
  regOp (.mul h d a b m) d (fun s => satWord m.sat ((s.reg a).toInt * (s.reg b).toInt)) s
/-- Bits 127:64 of the product (R149). -/
def execMulh (h : Hdr) (d a b : Opnd) (m : M0) (s : State) : Host.Outcome State Fault Refusal :=
  regOp (.mulh h d a b m) d (fun s =>
    (if m.u then word ((s.reg a).toNat * (s.reg b).toNat / 2 ^ 64)
     else BitVec.ofInt 64 ((s.reg a).toInt * (s.reg b).toInt / 2 ^ 64), 0)) s
def execDiv (h : Hdr) (d a b : Opnd) (m : M0) (s : State) : Host.Outcome State Fault Refusal :=
  regOp (.div h d a b m) d (fun s => divWord m.u (s.reg a) (s.reg b)) s
def execRem (h : Hdr) (d a b : Opnd) (m : M0) (s : State) : Host.Outcome State Fault Refusal :=
  regOp (.rem h d a b m) d (fun s => remWord m.u (s.reg a) (s.reg b)) s
def execAnd (h : Hdr) (d a b : Opnd) (m : M0) (s : State) : Host.Outcome State Fault Refusal :=
  regOp (.and h d a b m) d (fun s => (s.reg a &&& s.reg b, 0)) s
def execOr (h : Hdr) (d a b : Opnd) (m : M0) (s : State) : Host.Outcome State Fault Refusal :=
  regOp (.or h d a b m) d (fun s => (s.reg a ||| s.reg b, 0)) s
def execXor (h : Hdr) (d a b : Opnd) (m : M0) (s : State) : Host.Outcome State Fault Refusal :=
  regOp (.xor h d a b m) d (fun s => (s.reg a ^^^ s.reg b, 0)) s
def execAndn (h : Hdr) (d a b : Opnd) (m : M0) (s : State) : Host.Outcome State Fault Refusal :=
  regOp (.andn h d a b m) d (fun s => (s.reg a &&& ~~~(s.reg b), 0)) s
def execShl (h : Hdr) (d a b : Opnd) (m : M0) (s : State) : Host.Outcome State Fault Refusal :=
  regOp (.shl h d a b m) d (fun s => (shiftWord 0 (s.reg a) ((s.reg b).toNat % 64), 0)) s
def execShr (h : Hdr) (d a b : Opnd) (m : M0) (s : State) : Host.Outcome State Fault Refusal :=
  regOp (.shr h d a b m) d (fun s => (shiftWord 1 (s.reg a) ((s.reg b).toNat % 64), 0)) s
/-- With .u it executes as `shr` (R145). -/
def execSra (h : Hdr) (d a b : Opnd) (m : M0) (s : State) : Host.Outcome State Fault Refusal :=
  regOp (.sra h d a b m) d (fun s => (shiftWord (if m.u then 1 else 2) (s.reg a) ((s.reg b).toNat % 64), 0)) s
def execRot (h : Hdr) (d a b : Opnd) (m : M0) (s : State) : Host.Outcome State Fault Refusal :=
  regOp (.rot h d a b m) d (fun s => (shiftWord 3 (s.reg a) ((s.reg b).toNat % 64), 0)) s
def execMin (h : Hdr) (d a b : Opnd) (m : M0) (s : State) : Host.Outcome State Fault Refusal :=
  regOp (.min h d a b m) d (fun s =>
    (if (if m.u then decide ((s.reg a).toNat ≤ (s.reg b).toNat) else decide ((s.reg a).toInt ≤ (s.reg b).toInt))
     then s.reg a else s.reg b, 0)) s
def execMax (h : Hdr) (d a b : Opnd) (m : M0) (s : State) : Host.Outcome State Fault Refusal :=
  regOp (.max h d a b m) d (fun s =>
    (if (if m.u then decide ((s.reg a).toNat ≤ (s.reg b).toNat) else decide ((s.reg a).toInt ≤ (s.reg b).toInt))
     then s.reg b else s.reg a, 0)) s
def execClz (h : Hdr) (d a : Opnd) (m : M0) (s : State) : Host.Outcome State Fault Refusal :=
  regOp (.clz h d a m) d (fun s => (word (leading (s.reg a)), 0)) s
def execCtz (h : Hdr) (d a : Opnd) (m : M0) (s : State) : Host.Outcome State Fault Refusal :=
  regOp (.ctz h d a m) d (fun s => (word (trailing (s.reg a)), 0)) s
def execPopc (h : Hdr) (d a : Opnd) (m : M0) (s : State) : Host.Outcome State Fault Refusal :=
  regOp (.popc h d a m) d (fun s => (word (popcount (s.reg a)), 0)) s
def execBswap (h : Hdr) (d a : Opnd) (m : M0) (s : State) : Host.Outcome State Fault Refusal :=
  regOp (.bswap h d a m) d (fun s => (word (fromBytes (toBytes 8 (s.reg a).toNat).reverse), 0)) s
def execSel (h : Hdr) (d a b : Opnd) (m : M0) (s : State) : Host.Outcome State Fault Refusal :=
  regOp (.sel h d a b m) d (fun s => (if s.pred (m.low.extractLsb' 0 3) then s.reg a else s.reg b, 0)) s
def execMov (h : Hdr) (d a : Opnd) (m : M0) (s : State) : Host.Outcome State Fault Refusal :=
  regOp (.mov h d a m) d (fun s => (s.reg a, 0)) s
def execAbs (h : Hdr) (d a : Opnd) (m : M0) (s : State) : Host.Outcome State Fault Refusal :=
  regOp (.abs h d a m) d (fun s => (if (s.reg a).toInt < 0 then 0 - s.reg a else s.reg a, 0)) s
def execExt (h : Hdr) (d a : Opnd) (m : M0) (s : State) : Host.Outcome State Fault Refusal :=
  regOp (.ext h d a m) d (fun s => (extWord m.u (s.reg a) (M0pos m) (M0len m), 0)) s
def execIns (h : Hdr) (d a : Opnd) (m : M0) (s : State) : Host.Outcome State Fault Refusal :=
  regOp (.ins h d a m) d (fun s => (insWord (s.reg d) (s.reg a) (M0pos m) (M0len m), 0)) s
def execFadd (h : Hdr) (d a b : Opnd) (m : M0) (s : State) : Host.Outcome State Fault Refusal :=
  regOp (.fadd h d a b m) d (fun s =>
    f32Result (s.mode m.rnd) ((f32Of (s.reg a)).add (s.mode m.rnd) (f32Of (s.reg b)))) s
def execFsub (h : Hdr) (d a b : Opnd) (m : M0) (s : State) : Host.Outcome State Fault Refusal :=
  regOp (.fsub h d a b m) d (fun s =>
    f32Result (s.mode m.rnd) ((f32Of (s.reg a)).add (s.mode m.rnd) (f32Of (s.reg b)).neg)) s
def execFmul (h : Hdr) (d a b : Opnd) (m : M0) (s : State) : Host.Outcome State Fault Refusal :=
  regOp (.fmul h d a b m) d (fun s => f32Result (s.mode m.rnd) ((f32Of (s.reg a)).mul (f32Of (s.reg b)))) s
def execFfma (h : Hdr) (d a b : Opnd) (m : M0) (s : State) : Host.Outcome State Fault Refusal :=
  regOp (.ffma h d a b m) d (fun s =>
    f32Result (s.mode m.rnd) (Val.fma (s.mode m.rnd) (f32Of (s.reg a)) (f32Of (s.reg b)) (f32Of (s.reg d)))) s
def execFdiv (h : Hdr) (d a b : Opnd) (m : M0) (s : State) : Host.Outcome State Fault Refusal :=
  longOp (.fdiv h d a b m) d (fun s => f32Result (s.mode m.rnd) ((f32Of (s.reg a)).div (f32Of (s.reg b)))) s
def execFmin (h : Hdr) (d a b : Opnd) (m : M0) (s : State) : Host.Outcome State Fault Refusal :=
  regOp (.fmin h d a b m) d (fun s =>
    (word (Fmt.f32.minmax false ((s.reg a).toNat % 2 ^ 32) ((s.reg b).toNat % 2 ^ 32)), 0)) s
def execFmax (h : Hdr) (d a b : Opnd) (m : M0) (s : State) : Host.Outcome State Fault Refusal :=
  regOp (.fmax h d a b m) d (fun s =>
    (word (Fmt.f32.minmax true ((s.reg a).toNat % 2 ^ 32) ((s.reg b).toNat % 2 ^ 32)), 0)) s
def execFcvt (h : Hdr) (d a : Opnd) (m : M0) (s : State) : Host.Outcome State Fault Refusal :=
  regOp (.fcvt h d a m) d (fun s => fcvtWord m (s.mode m.rnd) (s.reg a)) s
def execFsqrt (h : Hdr) (d a : Opnd) (m : M0) (s : State) : Host.Outcome State Fault Refusal :=
  longOp (.fsqrt h d a m) d (fun s => f32Result (s.mode m.rnd) (f32Of (s.reg a)).sqrt) s

/-! ### Group 0x1 -/

def execAddi (h : Hdr) (d a : Opnd) (imm : BitVec 35) (s : State) : Host.Outcome State Fault Refusal :=
  regOp (.addi h d a imm) d (fun s => (s.reg a + imm35 imm, 0)) s
def execAndi (h : Hdr) (d a : Opnd) (imm : BitVec 35) (s : State) : Host.Outcome State Fault Refusal :=
  regOp (.andi h d a imm) d (fun s => (s.reg a &&& imm35 imm, 0)) s
def execOri (h : Hdr) (d a : Opnd) (imm : BitVec 35) (s : State) : Host.Outcome State Fault Refusal :=
  regOp (.ori h d a imm) d (fun s => (s.reg a ||| imm35 imm, 0)) s
def execXori (h : Hdr) (d a : Opnd) (imm : BitVec 35) (s : State) : Host.Outcome State Fault Refusal :=
  regOp (.xori h d a imm) d (fun s => (s.reg a ^^^ imm35 imm, 0)) s
def execShli (h : Hdr) (d a : Opnd) (imm : BitVec 35) (s : State) : Host.Outcome State Fault Refusal :=
  regOp (.shli h d a imm) d (fun s => (shiftWord 0 (s.reg a) (imm.toNat % 64), 0)) s
def execShri (h : Hdr) (d a : Opnd) (imm : BitVec 35) (s : State) : Host.Outcome State Fault Refusal :=
  regOp (.shri h d a imm) d (fun s => (shiftWord 1 (s.reg a) (imm.toNat % 64), 0)) s
def execSrai (h : Hdr) (d a : Opnd) (imm : BitVec 35) (s : State) : Host.Outcome State Fault Refusal :=
  regOp (.srai h d a imm) d (fun s => (shiftWord 2 (s.reg a) (imm.toNat % 64), 0)) s
def execMovi (h : Hdr) (d : Opnd) (imm : BitVec 35) (s : State) : Host.Outcome State Fault Refusal :=
  regOp (.movi h d imm) d (fun _ => (imm35 imm, 0)) s
/-- (X(D) mod 2^35) + IMM times 2^35 (R153). -/
def execMovh (h : Hdr) (d : Opnd) (imm : BitVec 35) (s : State) : Host.Outcome State Fault Refusal :=
  regOp (.movh h d imm) d (fun s => (word ((s.reg d).toNat % 2 ^ 35 + imm.toNat * 2 ^ 35), 0)) s
def execMuli (h : Hdr) (d a : Opnd) (imm : BitVec 35) (s : State) : Host.Outcome State Fault Refusal :=
  regOp (.muli h d a imm) d (fun s => (s.reg a * imm35 imm, 0)) s

/-! ### Group 0x2 -/

def execCmp (h : Hdr) (cond : BitVec 4) (pd : BitVec 3) (a b : Opnd) (s : State) : Host.Outcome State Fault Refusal :=
  predOp (.cmp h cond pd a b) pd (fun s => condWord cond (s.reg a) (s.reg b)) s
def execCmpi (h : Hdr) (cond : BitVec 4) (pd : BitVec 3) (a : Opnd) (imm : BitVec 35) (s : State) :
    Host.Outcome State Fault Refusal :=
  predOp (.cmpi h cond pd a imm) pd (fun s => condWord cond (s.reg a) (imm35 imm)) s
def execPand (h : Hdr) (pd : PDst) (pa pb : BitVec 3) (s : State) : Host.Outcome State Fault Refusal :=
  predOp (.pand h pd pa pb) pd.p (fun s => s.pred pa && s.pred pb) s
def execPor (h : Hdr) (pd : PDst) (pa pb : BitVec 3) (s : State) : Host.Outcome State Fault Refusal :=
  predOp (.por h pd pa pb) pd.p (fun s => s.pred pa || s.pred pb) s
def execPxor (h : Hdr) (pd : PDst) (pa pb : BitVec 3) (s : State) : Host.Outcome State Fault Refusal :=
  predOp (.pxor h pd pa pb) pd.p (fun s => s.pred pa != s.pred pb) s
def execPnot (h : Hdr) (pd : PDst) (pa : BitVec 3) (s : State) : Host.Outcome State Fault Refusal :=
  predOp (.pnot h pd pa) pd.p (fun s => !s.pred pa) s
def execPmov (h : Hdr) (pd : PDst) (pa : BitVec 3) (s : State) : Host.Outcome State Fault Refusal :=
  predOp (.pmov h pd pa) pd.p (fun s => s.pred pa) s
def execFcmp (h : Hdr) (cond : BitVec 4) (pd : BitVec 3) (a b : Opnd) (s : State) : Host.Outcome State Fault Refusal :=
  predOp (.fcmp h cond pd a b) pd (fun s =>
    Fmt.f32.cond cond.toNat ((s.reg a).toNat % 2 ^ 32) ((s.reg b).toNat % 2 ^ 32)) s

end Sys2Proof.Machine
end

