-- ==== Sys2Proof/Machine/Memory.lean ====
section
/-! DEFINITION. Accesses as instructions issue them: fences (R171), the checks of R167, nomadic migration (R33), CXL
parking (R106); group 0x4 (R167 to R173). -/

namespace Sys2Proof.Machine

/-! ### Shared operations -/

/-- The thread parks as a switch marker parks it (R24, R106). -/
def State.parkSwitch (s : State) : State :=
  s.onThread s.cur fun t => { t with park := .switch, parkedAt := s.now, buf := [] }

/-- The core that homes an address, for R33: the core of a scratchpad word or of an L2-homed line. -/
def homeCore : Home → Option Nat
  | .bank c _ => some c
  | .slice c => some c
  | _ => none

/-- Where a nomadic thread's access takes it (R33). -/
def State.movesTo (s : State) (h : Home) : Option Nat :=
  match homeCore h with
  | none => none
  | some c =>
    if s.th.nomad && c != s.th.core && s.inSet s.th.asid c && decide (s.th.slot < slotsOf (s.core c).mode) then some c
    else none

/-- The thread that issues leaves its slot for another core (R34 steps 2 and 3). -/
def State.depart (s : State) (c : Nat) : State :=
  let t := s.th
  let s := s.setTh { t with place := .moving c, buf := [] }
  if t.inSlot then s.fill t.cc t.core t.slot else s

/-- An access that the control-and-status window does not serve: one that is not plain or not 8 bytes wide (R335). -/
def State.csrBad (s : State) (pa size : Nat) (plain : Bool) : Bool :=
  s.kindOf pa == some .csr && (!plain || size != 8)

/-- How a nomadic thread leaves for the home of an access (R33, R34), and no way if it stays. -/
def State.moves (s : State) (h : Home) : Option Res :=
  match s.movesTo h with
  | none => none
  | some c =>
    some (if s.th.exl then .trap (.of .slotState 2)
      else if s.drained s.cur then .park (s.depart c) (.moving c)
      else .park s .drain)

/-- Issue an access of the thread: wait for its fences (R171) and for what its walk follows (R377), check it (R167), move a
nomadic thread (R33), and go on with the translation. `loads` and `stores` are the classes that fences see; `plain` is false for
the accesses that the control-and-status window does not take. -/
def State.memory (s : State) (loads stores plain : Bool) (va : Word) (size k : Nat) (go : State → Tr → Res) : Res :=
  if s.fenced loads stores ++ s.walkAfter va k ≠ [] then .park s (.ids (s.fenced loads stores ++ s.walkAfter va k))
  else
    match s.check s.who va size k with
    | .error t => .trap t
    | .ok t =>
      if s.csrBad t.pa size plain then .trap (.of .prot va)
      else
        match s.moves (s.homeOf t.pa t.attr) with
        | some r => r
        | none => go (s.remember s.who va k t) t

/-- An access that reaches a CXL window parks the thread (R106). -/
def State.afterCxl (s : State) (pa : Nat) : State := if s.kindOf pa = some .cxl then s.parkSwitch else s

/-- Send the one access of a new outstanding result. -/
def State.single (s : State) (dsts : List Dst) (fin : Fin) (va : Word) (t : Tr) (size : Nat) (op : AccOp)
    (acq rel : Bool) (sco : Nat := 0) : State :=
  ((s.openOut dsts fin 1).access va t size op s.next 0 acq rel sco).afterCxl t.pa

/-- The effective address of format M (R167). -/
def State.ea (s : State) (a : Opnd) (off : BitVec 24) : Word := s.arg a + off.signExtend 64

/-- The size of an access from SZ (R135). -/
def accessSize (sz : BitVec 3) : Nat := 2 ^ sz.toNat

/-- A load acquires with .acq and .ar, and with .rel as the fallback (R119, R120). -/
def loadAcq (ord : BitVec 2) : Bool := ord != 0
/-- A load releases with .ar. -/
def loadRel (ord : BitVec 2) : Bool := ord == 3
/-- A store releases with .rel and .ar, and with .acq as the fallback. -/
def storeRel (ord : BitVec 2) : Bool := ord != 0
/-- A store acquires with .ar. -/
def storeAcq (ord : BitVec 2) : Bool := ord == 3

/-- The destinations of a load: a register or a pair (R168). -/
def loadDsts (d : Opnd) (size : Nat) : List Dst := pairOf d (size == 16)

/-- The bytes that a store writes (R169). -/
def State.storeData (s : State) (d : Opnd) (size : Nat) : List Byte :=
  (toBytes 8 (s.arg d).toNat ++ if size = 16 then toBytes 8 (s.arg d.succ).toNat else []).take size

/-! ### Descriptors -/

/-- What the next access that an instruction makes on its way comes to: bytes and whether they are uncorrectable, a trap, or
a wait after which the instruction is issued again. -/
inductive Sought where
  | got (s : State) (bs : List Byte) (bad : Bool)
  | trap (t : Trap)
  | wait (s : State) (p : Park)

/-- Note in the thread's trace what an access has brought, or that it is under way. -/
def State.note (s : State) (e : Seen) : State := s.setTh { s.th with trace := s.th.trace ++ [e] }

/-- The fetch buffer is discarded, as by a switch marker that parks the thread (R106, R109). -/
def State.noBuf (s : State) : State := s.setTh { s.th with buf := [] }

/-- The `i`-th piece that an instruction reads as a plain load: from its trace, else at its home in program order, to which a
nomadic thread moves (R33). One in a CXL window goes out as an access on which the thread parks (R106). -/
def State.seek (s : State) (i : Nat) (va : Word) (n : Nat) : Sought :=
  match s.th.trace[i]? with
  | some (.got bs bad) => .got s bs bad
  | some (.open o) => .wait s (.own o)
  | none =>
    if s.walkAfter va kRead ≠ [] then .wait s (.ids (s.walkAfter va kRead))
    else
    match s.translate s.who va kRead with
    | .error t => .trap t
    | .ok t =>
      let h := s.homeOf t.pa t.attr
      match s.moves h, s.mustWait h t.pa n with
      | some (.park q p), _ => .wait q p
      | some (.trap t), _ => .trap t
      | _, some p => .wait s p
      | _, none =>
        let s := s.remember s.who va kRead t
        if s.kindOf t.pa = some .cxl then
          let q := (s.openOut [] .trace 1).access va t n .load s.next 0 false false
          .wait (q.note (.open s.next)).noBuf (.own s.next)
        else
          let q := s.touch h va t.pa n
          .got (q.note (.got (q.bytes t.pa n) (q.isPoisoned t.pa n))) (q.bytes t.pa n) (q.isPoisoned t.pa n)

/-- Pieces of 16 bytes from an address on, with the bytes read so far. -/
def State.seekAll : Nat → Nat → Word → List Byte → Bool → State → Sought
  | 0, _, _, bs, bad, s => .got s bs bad
  | n + 1, i, va, bs, bad, s =>
    match s.seek i va 16 with
    | .got q b e => State.seekAll n (i + 1) (va + 16) (bs ++ b) (bad || e) q
    | r => r

/-- The bytes of a descriptor stay with an instruction that parks after it has read them. -/
def State.reread (s : State) (bs : List Byte) : State :=
  s.setTh { s.th with trace := (List.range ((bs.length + 15) / 16)).map fun i => .got ((bs.drop (16 * i)).take 16) false }

/-- The checks that a descriptor's range gets, once (R26). -/
def State.descriptorChecks (s : State) (va : Word) (align len : Nat) : Except Trap Unit :=
  if !s.th.trace.isEmpty then .ok ()
  else if !canonical va then .error (.of .prot va)
  else if va.toNat % align ≠ 0 then .error (.of .align va)
  else s.checkRange s.who va len kRead

/-- A descriptor that an instruction reads (R225, R366): aligned, checked as a load, read as plain loads after the thread's
earlier accesses to its homes. A seventeenth long instruction keeps it until another result has returned (R23). -/
def State.descriptor (s : State) (va : Word) (align len : Nat) (go : State → List Byte → Res) : Res :=
  match s.descriptorChecks va align len with
  | .error t => .trap t
  | .ok _ =>
    match State.seekAll ((len + 15) / 16) 0 va [] false s with
    | .trap t => .trap t
    | .wait q p => .park q p
    | .got q bs bad =>
      if bad then .trap (.of .poison 0)
      else if 16 ≤ q.th.outst.length then .park q .room
      else go (q.setTh { q.th with trace := [] }) (bs.take len)

/-! ### Group 0x4 -/

/-- `ld` (R168). -/
def execLd (h : Hdr) (d a : Opnd) (m : M4) (s : State) : Host.Outcome State Fault Refusal :=
  native (.ld h d a m) (fun s =>
    let va := s.ea a m.off
    let n := accessSize m.sz
    s.memory true false true va n kRead fun s t =>
      .done (s.single (loadDsts d n) (.load d n m.x) va t n .load (loadAcq m.ord) (loadRel m.ord) m.sco.toNat)) s

/-- `st` (R169). -/
def execSt (h : Hdr) (d a : Opnd) (m : M4) (s : State) : Host.Outcome State Fault Refusal :=
  native (.st h d a m) (fun s =>
    let va := s.ea a m.off
    let n := accessSize m.sz
    let bs := s.storeData d n
    s.memory false true true va n kWrite fun s t =>
      match s.csrFault t.pa (s.arg d) (Instr.st h d a m).word with
      | some tr => .trap tr
      | none => .done (s.single [] (.done []) va t n (.store bs) (storeAcq m.ord) (storeRel m.ord) m.sco.toNat)) s

/-- One line of a prefetch (R170), where an access walks (R378): an absent entry becomes a page request to the context whose
tables failed (R382). -/
def State.prefetchLine (s : State) (va : Word) : State :=
  if !canonical va ∨ local? s.who va ∨ window? s.who va then s
  else
    match s.tables s.th.asid va kRead with
    | .error f => if f.reason = 0 then s.pageRequest f.ctx f.va.toNat 0 s.th.asid s.th.thread else s
    | .ok _ => s

/-- `pf` (R170): it moves no data that a program sees, and only requests absent pages. -/
def execPf (h : Hdr) (a : Opnd) (m : M4) (s : State) : Host.Outcome State Fault Refusal :=
  native (.pf h a m) (fun s =>
    let va := s.ea a m.off
    .done (forEach (fun i s => s.prefetchLine (word (va.toNat / 128 * 128) + word (128 * i))) (List.range (accessSize m.sz)) s)) s

/-- What one kind of a fence waits for at its scope, and what it guards (R122, R171). -/
def State.fenceKind (s : State) (scope : Nat) (loads stores gLoads gStores : Bool) : List Fence :=
  match s.earlierIds s.cur loads stores scope with
  | [] => []
  | l => [⟨l, gLoads, gStores⟩]

/-- `fence` (R122, R171): it records the accesses that later ones wait for. KINDS is .ll, .ls, .sl, .ss from bit 3 down (R135). -/
def execFence (h : Hdr) (kinds : BitVec 4) (m : M4) (s : State) : Host.Outcome State Fault Refusal :=
  native (.fence h kinds m) (fun s =>
    let k := fun (i : Nat) (l : List Fence) => if kinds.getLsbD i then l else []
    let sco := m.sco.toNat
    let l := (s.th.fences.filter fun f => !s.allDone f.needs) ++
      k 3 (s.fenceKind sco true false true false) ++ k 2 (s.fenceKind sco true false false true) ++
      k 1 (s.fenceKind sco false true true false) ++ k 0 (s.fenceKind sco false true false true)
    .done (s.setTh { s.th with fences := l })) s

/-- `ifence` (R172): the fetch buffer is discarded. -/
def execIfence (h : Hdr) (m : M4) (s : State) : Host.Outcome State Fault Refusal :=
  native (.ifence h m) (fun s => .done (s.setTh { s.th with buf := [] })) s

/-- A control core that an `icsync` addresses: every one, or only the issuer's. -/
def addressed (only : Option Nat) (k : Nat) : Bool :=
  match only with
  | none => true
  | some c => c == k

/-- Control cores discard what they hold for an address space (R173, R110): inline-cache copies and buffered bytecode
words. -/
def State.discardCopies (s : State) (asid : Nat) (only : Option Nat) : State :=
  let drop : Thread → Thread := fun t =>
    if t.cc && t.asid == asid && t.tephra && addressed only t.core then { t with buf := [] } else t
  { s with
    icCopies := s.icCopies.filter fun c => !(c.2.1 == asid && addressed only c.1),
    threads := s.threads.map fun e => (e.1, drop e.2) }

/-- `icsync` (R173): a release, after which the addressed control cores hold no copies. -/
def execIcsync (h : Hdr) (m : M4) (s : State) : Host.Outcome State Fault Refusal :=
  native (.icsync h m) (fun s =>
    s.released m.sco.toNat <|
      let s := s.setTh { s.th with buf := [] }
      let s := if 4 ≤ m.sco.toNat then s.discardCopies s.th.asid none
        else if s.th.cc then s.discardCopies s.th.asid (some s.th.core)
        else s
      .done (s.later [] [])) s

end Sys2Proof.Machine
end

