-- ==== Sys2Proof/Machine/Sync.lean ====
section
/-! DEFINITION. Group 0x5: atomics, full/empty operations, waits, monitors and the clock (R217 to R222). -/

namespace Sys2Proof.Machine

/-! ### Shared operations -/

/-- A home without full/empty bits (R103): second tier, a CXL window or a peer module. -/
def farKind (k : Option Kind) : Bool := k == some .second || k == some .cxl || k == some .peer

/-- The number of the newest outstanding result of the thread that issues. -/
def State.lastOut (s : State) : Nat :=
  match s.th.outst.getLast? with
  | some o => o.id
  | none => 0

/-- The thread parks until its newest result returns (R28). -/
def State.parkOwn (s : State) : State := s.setTh { s.th with park := .own s.lastOut, parkedAt := s.now }

/-- An 8-byte access of group 0x5: the checks of R167, then those of R217. `fe` raises FE_TIER, `mon` raises PROT at
CXL windows and peer modules. -/
def State.word8 (s : State) (fe mon : Bool) (va : Word) (k : Nat) (go : State → Tr → Res) : Res :=
  s.memory true true false va 8 k fun s t =>
    if fe && farKind (s.kindOf t.pa) then .trap (.of .feTier va)
    else if mon && (s.kindOf t.pa == some .cxl || s.kindOf t.pa == some .peer) then .trap (.of .prot va)
    else go s t

/-! ### Group 0x5 -/

/-- `atom` (R218): an access at .ar (R125), for which a reservation held before ends (R219). -/
def execAtom (h : Hdr) (d a b : Opnd) (m : M5) (s : State) : Host.Outcome State Fault Refusal :=
  native (.atom h d a b m) (fun s =>
    let va := s.arg a
    s.word8 false false va kWrite fun s t =>
      .done (State.single (s.endResv (.thread s.cur)) [.reg d] (.word d) va t 8
        (.atom m.op.toNat (s.arg b) (s.arg d)) true true m.sco.toNat)) s

/-- `ldfe` without .c is checked as a load, and is refused through a read-duplicated mapping all the same (R108, R220). -/
def State.ldfeDup (s : State) (va : Word) : Bool :=
  s.fenced true true == [] &&
    match s.check s.who va 8 kRead with
    | .ok t => t.dup
    | .error _ => false

/-- `ldfe` (R220). -/
def execLdfe (h : Hdr) (d a : Opnd) (m : M5) (s : State) : Host.Outcome State Fault Refusal :=
  native (.ldfe h d a m) (fun s =>
    let va := s.arg a
    if !m.c && s.ldfeDup va then .trap (.of .writeDup va)
    else s.word8 true false va (if m.c then kWrite else kRead) fun s t =>
      .done (s.single [.reg d] (.word d) va t 8 (.ldfe m.c) true false m.sco.toNat).parkOwn) s

/-- `stfe` (R220). -/
def execStfe (h : Hdr) (a b : Opnd) (m : M5) (s : State) : Host.Outcome State Fault Refusal :=
  native (.stfe h a b m) (fun s =>
    let va := s.arg a
    s.word8 true false va kWrite fun s t =>
      .done (s.single [] (.done []) va t 8 (.stfe (s.arg b)) false true m.sco.toNat).parkOwn) s

/-- `fset` (R220). -/
def execFset (h : Hdr) (d a : Opnd) (m : M5) (s : State) : Host.Outcome State Fault Refusal :=
  native (.fset h d a m) (fun s =>
    let va := s.arg a
    s.word8 true false va kWrite fun s t => .done (s.single [.reg d] (.word d) va t 8 (.fset m.c) false false)) s

/-- `fget` (R220). -/
def execFget (h : Hdr) (d a : Opnd) (m : M5) (s : State) : Host.Outcome State Fault Refusal :=
  native (.fget h d a m) (fun s =>
    let va := s.arg a
    s.word8 true false va kRead fun s t => .done (s.single [.reg d] (.word d) va t 8 .fget false false)) s

/-- `waita` (R221). -/
def execWaita (h : Hdr) (d a b : Opnd) (m : M5) (s : State) : Host.Outcome State Fault Refusal :=
  native (.waita h d a b m) (fun s =>
    let va := s.arg a
    s.word8 true false va kRead fun s t =>
      .done (s.single [.reg d] (.word d) va t 8 (.waita m.op.toNat (s.arg b)) true false m.sco.toNat).parkOwn) s

/-- `mon` (R219). -/
def execMon (h : Hdr) (d a : Opnd) (m : M5) (s : State) : Host.Outcome State Fault Refusal :=
  native (.mon h d a m) (fun s =>
    let va := s.arg a
    s.word8 false true va kWrite fun s t =>
      .done (State.single (s.endResv (.thread s.cur)) [.reg d] (.word d) va t 8 .mon true false m.sco.toNat)) s

/-- `monrel` (R219). -/
def execMonrel (h : Hdr) (a b : Opnd) (m : M5) (s : State) : Host.Outcome State Fault Refusal :=
  native (.monrel h a b m) (fun s =>
    let va := s.arg a
    s.word8 false true va kWrite fun s t =>
      .done (s.single [.pred m.pr] (.held m.pr) va t 8 (.monrel (s.arg b)) false true m.sco.toNat)) s

/-- `time` (R222). -/
def execTime (h : Hdr) (d : Opnd) (m : M5) (s : State) : Host.Outcome State Fault Refusal :=
  regOp (.time h d m) d (fun s => (s.now, 0)) s

/-- `sleep` (R222): the thread parks until NOW reaches the target; X(D) receives NOW when it wakes. -/
def execSleep (h : Hdr) (d a : Opnd) (m : M5) (s : State) : Host.Outcome State Fault Refusal :=
  native (.sleep h d a m) (fun s =>
    .done (s.openOut [.reg d] (.sleep (s.reg a)) 1).parkOwn) s

/-- The cycles of its rotation that the thread's core has had: turns, on a control core. -/
def State.cycleOf (s : State) (cc : Bool) (core : Nat) : Nat := if cc then get 0 s.ccCycle core else (s.core core).cycle

/-- `yield` (R222): not eligible until N further cycles of the rotation have passed, N the slots of its core; a control core
has 4 (R260). -/
def execYield (h : Hdr) (m : M5) (s : State) : Host.Outcome State Fault Refusal :=
  native (.yield h m) (fun s =>
    .done (s.setTh { s.th with
      hold := s.cycleOf s.th.cc s.th.core + if s.th.cc then 4 else slotsOf s.myCore.mode })) s

end Sys2Proof.Machine
end

