-- ==== Sys2Proof/Machine/Control.lean ====
section
/-! DEFINITION. Group 0x3: control transfers, the link store (R47), traps, gated service calls (R411) and the end of a
thread (R158 to R165). -/

namespace Sys2Proof.Machine

/-! ### Shared operations -/

/-- Continue at an address, with the fetch buffer discarded (R109). -/
def State.jumpTo (s : State) (a : Word) : State := s.setTh { s.th with pc := a, buf := [] }

/-- The address of the instruction that issues: the pc has moved past its 8 bytes. -/
def State.here (s : State) : Word := s.th.pc - 8

/-- A relative target (R158). -/
def State.target (s : State) (off : BitVec 40) : Word := s.here + off.signExtend 64 * 8

/-- The bytes of a thread's spill area (R48). -/
def Ctx.spillLimit (c : Ctx) : Nat := min (c.lslim.toNat % 8192 / 8 * 8) 4096

/-- The address of the n-th spilled entry of the thread that issues (R47). -/
def State.spillAt (s : State) (n : Nat) : Word :=
  s.myCtx.lsbase + word (s.th.thread * s.myCtx.spillLimit) + word (8 * n)

/-- A link-store entry (R47): the return address and MODE. -/
def linkEntry (a : Word) (tephra : Bool) : Word := (a &&& ~~~3) ||| (if tephra then 1 else 0)

/-- Push an entry (R47); the ninth spills the oldest one, as a long instruction with an implicit switch marker. `w` is the word
of the instruction, for the traps of a store to the control-and-status window (R13, R335). -/
def State.pushLink (s : State) (e w : Word) (go : State → State) : Res :=
  if s.th.link.length < 8 then .done (go (s.setTh { s.th with link := e :: s.th.link }))
  else
    let a := s.spillAt s.th.spilled
    if s.myCtx.spillLimit < 8 * (s.th.spilled + 1) then .trap (.of .linkOvf a)
    else
      s.memory false true true a 8 kWrite fun s t =>
        let old := s.th.link.getLastD 0
        match s.csrFault t.pa old w with
        | some tr => .trap tr
        | none =>
          let s := s.single [] (.done []) a t 8 (.store (toBytes 8 old.toNat)) false false
          .done (go (s.setTh { s.th with link := e :: s.th.link.dropLast, spilled := s.th.spilled + 1 })).parkSwitch

/-- Pop the newest entry and continue with it (R47); an empty store refills from the spill area, by a plain load that parks the
thread in a CXL window (R106). -/
def State.popLink (s : State) (go : State → Word → Res) : Res :=
  match s.th.link with
  | e :: r => go (s.setTh { s.th with link := r }) e
  | [] =>
    if s.th.spilled = 0 then .trap (.of .linkUnf 0)
    else
      let a := s.spillAt (s.th.spilled - 1)
      s.memory true false true a 8 kRead fun _ _ =>
        if !s.drained s.cur then .park s .drain
        else
          match s.seek 0 a 8 with
          | .trap t => .trap t
          | .wait q p => .park q p
          | .got q bs bad =>
            if bad then .trap (.of .poison 0)
            else go (q.setTh { q.th with spilled := q.th.spilled - 1, buf := [] }) (word (fromBytes bs))

/-- Where a popped entry leads (R161): Tephra mode exists on control cores alone. -/
def State.followLink (s : State) (e : Word) : Res :=
  if e.getLsbD 0 then
    if s.th.cc then .done ((s.jumpTo (e &&& ~~~3)).onThread s.cur fun t => { t with tephra := true })
    else .trap (.of .illegalOp (e &&& ~~~3))
  else .done (s.jumpTo (e &&& ~~~3))

/-! ### Gated service calls (R411, R412) -/

/-- The operations of R412. -/
def serviceKnown (code : Nat) : Bool := decide (code ∈ [0x000, 0x001, 0x002, 0x003, 0x004, 0x020, 0x021, 0x022, 0x030])

/-- KIND of a capability entry (R409). -/
def capKind (e : Word × Word) : Nat := bits e.1 3 0
/-- RIGHTS of a capability entry. -/
def capRights (e : Word × Word) : Nat := bits e.1 15 8

/-- The entry's KIND suits the operation. -/
def serviceKind (code kind : Nat) : Bool :=
  match code with
  | 0x001 => kind == 1
  | 0x002 => kind == 2 || kind == 3
  | 0x003 => kind == 2 || kind == 3
  | 0x004 => kind == 2 || kind == 3 || kind == 5 || kind == 6
  | 0x020 => kind == 4
  | 0x021 => kind == 5
  | 0x022 => kind == 5
  | _ => true

/-- The entry holds the operation's right. -/
def serviceRight (code rights : Nat) : Bool :=
  match code with
  | 0x001 => rights.testBit 2
  | 0x002 => rights.testBit 0
  | 0x003 => rights.testBit 1
  | 0x020 => rights.testBit 3
  | 0x021 => rights.testBit 3
  | 0x022 => rights.testBit 3
  | 0x030 => rights.testBit 5
  | _ => true

/-- The status of the gate's checks, 0 when all pass. -/
def State.gateStatus (s : State) (code : Nat) (x1 : Word) : Nat :=
  if !serviceKnown code then 4
  else if 1024 ≤ x1.toNat then 1
  else
    let e := get (0, 0) s.myCtx.caps x1.toNat
    if capKind e = 0 then 1
    else if !serviceKind code (capKind e) then 3
    else if !serviceRight code (capRights e) then 2
    else 0

/-- A private register of the thread that issues, by number. -/
def State.xr (s : State) (n : Nat) : Word := s.th.getX n

/-- The memory checks of a call: the reply record as a store, then the operation's range. -/
def State.gateChecks (s : State) (code : Nat) : Except Trap Unit :=
  let rep := s.xr 6
  if !canonical rep then .error (.of .prot rep)
  else if rep.toNat % 32 ≠ 0 then .error (.of .align rep)
  else
    match s.checkRange s.who rep 32 kWrite with
    | .error t => .error t
    | .ok _ =>
      match code with
      | 0x001 => s.checkRange s.who (s.xr 2) (s.xr 3).toNat kRead
      | 0x002 => s.checkRange s.who (s.xr 3) (s.xr 4).toNat kWrite
      | 0x003 => s.checkRange s.who (s.xr 3) (s.xr 4).toNat kRead
      | 0x021 => s.checkRange s.who (s.xr 2) (s.xr 3).toNat kWrite
      | _ => .ok ()

/-- The request of a call whose reply word has been written (R411): a release at .mo, once fewer than 256 are in flight. -/
def State.queueCall (s : State) (code : Nat) : Res :=
  if 256 ≤ s.myCtx.calls then .park s .serviceCalls
  else
    s.released 4 <|
      let c : Call := ⟨s.next, s.th.asid, s.th.thread, code, (s.xr 1).toNat, [s.xr 2, s.xr 3, s.xr 4, s.xr 5], s.xr 6, s.th.core,
        s.th.cc, false⟩
      let s := State.onCtx { s with calls := s.calls ++ [c], next := s.next + 1 } s.th.asid
        fun x => { x with calls := x.calls + 1 }
      .done (s.setReg ⟨false, 1⟩ 0)

/-- `trap` with a code below 0x1000 (R411): the checks of the gate, then the all-ones reply word, performed before the thread's
next access, then the request to the root's service threads. -/
def State.gatedCall (s : State) (code : Nat) : Res :=
  if !s.drained s.cur then .park s .drain
  else if !s.th.trace.isEmpty then s.queueCall code
  else
    let st := s.gateStatus code (s.xr 1)
    if st ≠ 0 then .done (s.setReg ⟨false, 1⟩ (word st))
    else
      match s.gateChecks code with
      | .error t => .trap t
      | .ok _ =>
        if 256 ≤ s.myCtx.calls then .park s .serviceCalls
        else
          match s.translate s.who (s.xr 6) kWrite with
          | .error t => .trap t
          | .ok t =>
            let s := s.remember s.who (s.xr 6) kWrite t
            let q := (s.openOut [] .trace 1).access (s.xr 6) t 8 (.store (toBytes 8 allOnes.toNat)) s.next 0 false false
            .park (q.note (.open s.next)).noBuf (.own s.next)

/-! ### Group 0x3 -/

/-- The condition of `br` (R159). -/
def State.brCond (s : State) (a : Opnd) (kind : BitVec 2) : Bool :=
  match kind.toNat with
  | 0 => true
  | 1 => s.reg a == 0
  | 2 => s.reg a != 0
  | _ => decide ((s.reg a).toInt < 0)

/-- `br` (R159). -/
def execBr (h : Hdr) (a : Opnd) (kind : BitVec 2) (off : BitVec 40) (s : State) : Host.Outcome State Fault Refusal :=
  native (.br h a kind off) (fun s => .done (if s.brCond a kind then s.jumpTo (s.target off) else s)) s

/-- The register target of `jmp` and `callr` (R160). -/
def State.regTarget (s : State) (a : Opnd) (off : BitVec 40) : Word := s.reg a + off.signExtend 64 * 8

/-- `jmp` (R160). -/
def execJmp (h : Hdr) (a : Opnd) (kind : BitVec 2) (off : BitVec 40) (s : State) : Host.Outcome State Fault Refusal :=
  native (.jmp h a kind off) (fun s =>
    let t := s.regTarget a off
    if t.toNat % 8 ≠ 0 then .trap (.of .align t) else .done (s.jumpTo t)) s

/-- `call` (R160). -/
def execCall (h : Hdr) (kind : BitVec 2) (off : BitVec 40) (s : State) : Host.Outcome State Fault Refusal :=
  native (.call h kind off) (fun s =>
    let t := s.target off
    s.pushLink (linkEntry s.th.pc false) (Instr.call h kind off).word (·.jumpTo t)) s

/-- `callr` (R160). -/
def execCallr (h : Hdr) (a : Opnd) (kind : BitVec 2) (off : BitVec 40) (s : State) : Host.Outcome State Fault Refusal :=
  native (.callr h a kind off) (fun s =>
    let t := s.regTarget a off
    if t.toNat % 8 ≠ 0 then .trap (.of .align t)
    else s.pushLink (linkEntry s.th.pc false) (Instr.callr h a kind off).word (·.jumpTo t)) s

/-- `ret` (R161). -/
def execRet (h : Hdr) (kind : BitVec 2) (s : State) : Host.Outcome State Fault Refusal :=
  native (.ret h kind) (fun s => s.popLink State.followLink) s

/-- What `loop` reads. The read and the write of a shared register are separate accesses (R162): a result of another slot that
returns in the cycle of the instruction may come between them, and the read then finds what was there before. -/
def State.loopRead (s : State) (a : Opnd) : Word :=
  if !a.shared then s.reg a
  else
    match s.myCore.yNow.find? fun e => e.1 == a.n.toNat with
    | some e => if e.2.1 != s.th.slot && Config.freeBit s.free 9000 then e.2.2.2 else s.reg a
    | none => s.reg a

/-- `loop` (R162). -/
def execLoop (h : Hdr) (a : Opnd) (kind : BitVec 2) (off : BitVec 40) (s : State) : Host.Outcome State Fault Refusal :=
  native (.loop h a kind off) (fun s =>
    let v := s.loopRead a - 1
    let t := s.target off
    let s := s.setReg a v
    .done (if v ≠ 0 then s.jumpTo t else s)) s

/-- `trap` with a code of 0x1000 or above (R163). -/
def execTrap (h : Hdr) (kind : BitVec 2) (code : BitVec 16) (s : State) : Host.Outcome State Fault Refusal :=
  native (.trap h kind code) (fun _ => .trap (.of .service (code.setWidth 64))) s

/-- `trap` with a code below 0x1000: a gated service call (R163, R411). -/
def execGatedServiceCall (h : Hdr) (kind : BitVec 2) (code : BitVec 16) (s : State) : Host.Outcome State Fault Refusal :=
  native (.gatedServiceCall h kind code) (fun s => s.gatedCall code.toNat) s

/-- `brk` (R163). -/
def execBrk (h : Hdr) (kind : BitVec 2) (code : BitVec 16) (s : State) : Host.Outcome State Fault Refusal :=
  native (.brk h kind code) (fun _ => .trap (.of .brk (code.setWidth 64))) s

/-- `nop` (R164). -/
def execNop (h : Hdr) (kind : BitVec 2) (s : State) : Host.Outcome State Fault Refusal :=
  native (.nop h kind) (fun s => .done s) s

/-- What the subtraction from a task's join counter raises, which is checked as an atomic (R37, R224, log 24). -/
def State.joinFault (s : State) : Option Trap :=
  match s.th.work with
  | .task j =>
    match s.check s.who j 8 kWrite with
    | .error t => some t
    | .ok t => if s.csrBad t.pa 8 false then some (.of .prot j) else none
  | _ => none

/-- The thread drains and ends (R164), a task once its join counter can be reached. -/
def State.leave (s : State) : Res :=
  match s.joinFault with
  | some t => .trap t
  | none => if s.drained s.cur then .done (s.endThread s.cur false) else .park s .drain

/-- `exit` (R164): of a task it has the effect of `tend`, of a row handler that of `rowend`. -/
def execExit (h : Hdr) (kind : BitVec 2) (s : State) : Host.Outcome State Fault Refusal :=
  native (.exit h kind) State.leave s

end Sys2Proof.Machine
end

