-- ==== Sys2Proof/Machine/Vector.lean ====
section
/-! DEFINITION. Groups 0x6 and 0x7: vector shape, arithmetic, reduction, conversion and memory (R174 to R191). -/

namespace Sys2Proof.Machine

/-! ### Shared operations -/

/-- Element `e` of a lane, of width `w` (R70). -/
def elemOf (w e : Nat) (x : Lane) : Nat := x.toNat / 2 ^ (w * e) % 2 ^ w

/-- Granted lanes and rows (R51), active lanes and rows (R52). -/
def Thread.lanes (t : Thread) : Nat := bits t.vshape 15 8
def Thread.rows (t : Thread) : Nat := bits t.vshape 3 0
def Thread.activeLanes (t : Thread) : Nat := min (bits t.vact 15 8) t.lanes
def Thread.activeRows (t : Thread) : List Nat := (List.range t.rows).filter fun r => t.vact.getLsbD r

/-- The active positions, row by row (R176, R178). -/
def Thread.active (t : Thread) : List (Nat × Nat) :=
  t.activeRows.flatMap fun r => (List.range t.activeLanes).map fun l => (r, l)

/-- The lane of a source VB, or X(S) broadcast to every element (R178). -/
def State.laneB (s : State) (m : M6) (vb : BitVec 4) (x : Opnd) (r l : Nat) : Lane :=
  if m.bs then
    let w := (Ty.ofEt m.et.toNat).width
    let v := (s.reg x).toNat % 2 ^ w
    BitVec.ofNat 32 ((List.range (32 / w)).foldl (fun n e => n + v * 2 ^ (w * e)) 0)
  else s.th.getLane vb.toNat r l

/-- Apply an operation to every element of a lane (R178). -/
def laneMap (w : Nat) (f : Nat → Nat → Nat → Flagged Nat) (a b c : Lane) : Flagged Lane :=
  (List.range (32 / w)).foldl (fun acc e =>
    let x := f (elemOf w e a) (elemOf w e b) (elemOf w e c)
    (acc.1 ||| BitVec.ofNat 32 (x.1 % 2 ^ w * 2 ^ (w * e)), acc.2 ||| x.2)) (0, 0)

/-- The writes of a vector result: one per active lane, and the flags of all. -/
def lanesOf (vd : BitVec 4) (act : List (Nat × Nat)) (f : Nat → Nat → Flagged Lane) : List Write :=
  act.map (fun p => .lane vd p.1 p.2 (f p.1 p.2).1) ++ [.flags (act.foldl (fun w p => w ||| (f p.1 p.2).2) 0)]

/-- A long vector instruction with up to three vector sources (R178). -/
def vecOp (i : Instr) (vd va vb vc : BitVec 4) (x : Opnd) (m : M6) (f : State → Nat → Nat → Nat → Flagged Nat) (s : State) :
    Host.Outcome State Fault Refusal :=
  native i (fun s =>
    let w := (Ty.ofEt m.et.toNat).width
    .done (s.later [.vec vd] (lanesOf vd s.th.active fun r l =>
      laneMap w (f s) (s.th.getLane va.toNat r l) (s.laneB m vb x r l) (s.th.getLane vc.toNat r l)))) s

/-- An exact integer result in an element type: clamped with .sat, wrapped without (R180). -/
def intElem (sat signed : Bool) (w : Nat) (v : Int) : Flagged Nat :=
  if sat then (intBits w (clamp (intLo signed w) (intHi signed w) v).1, (clamp (intLo signed w) (intHi signed w) v).2)
  else (intBits w v, 0)

/-- An operation given on exact values and on integers, at an element type. -/
def byType (et : Nat) (sat : Bool) (mode : Nat) (ff : Val → Val → Val → Flagged Val) (fi : Int → Int → Int → Int)
    (a b c : Nat) : Flagged Nat :=
  match Ty.ofEt et with
  | .flt f => f.result mode (ff (f.decode a) (f.decode b) (f.decode c))
  | .int sg w => intElem sat sg w (fi (intOf sg w a) (intOf sg w b) (intOf sg w c))
  | .e8m0 => (0, 0)

/-- `vmin`, `vmax` (R181). -/
def minmaxElem (et : Nat) (isMax : Bool) (a b : Nat) : Nat :=
  match Ty.ofEt et with
  | .flt f => f.minmax isMax a b
  | .int sg w => if decide (intOf sg w a ≤ intOf sg w b) != isMax then a else b
  | .e8m0 => 0

/-- `vabs` and `vneg` on a float: the sign bit alone; a NaN gives the canonical NaN (R181). -/
def signElem (f : Fmt) (neg : Bool) (a : Nat) : Nat :=
  if f.isNan a then f.nanBits
  else if neg then a ^^^ 2 ^ (f.width - 1) else a % 2 ^ (f.width - 1)

/-- `vsh` (R183). -/
def shiftElem (w sh a b : Nat) : Nat :=
  let c := b % w
  match sh with
  | 0 => a * 2 ^ c % 2 ^ w
  | 1 => a / 2 ^ c
  | 2 => a / 2 ^ c + if a.testBit (w - 1) then 2 ^ w - 2 ^ (w - c) else 0
  | _ => (a * 2 ^ c) % 2 ^ w + a / 2 ^ (w - c)

/-- `vcmp` (R184). -/
def cmpElem (et c a b : Nat) : Bool :=
  match Ty.ofEt et with
  | .flt f => f.cond c a b
  | .int sg w => intCond c (intOf sg w a) (intOf sg w b) a b
  | .e8m0 => false

/-- An approximation of R92 at an element type. -/
def approxElem (et fn : Nat) (g : Val → Flagged Val) (a : Nat) : Flagged Nat :=
  match Ty.ofEt et with
  | .flt f => f.approx fn a (g (f.decode a))
  | _ => (a, 0)

/-- `vscale` (R182): a times 2^n. -/
def scaleElem (et mode : Nat) (n : Int) (a : Nat) : Flagged Nat :=
  match Ty.ofEt et with
  | .flt f => f.result mode ((f.decode a).scale n, 0)
  | _ => (a, 0)

/-! ### Group 0x6 -/

def execVadd (h : Hdr) (vd va vb : BitVec 4) (x : Opnd) (m : M6) (s : State) : Host.Outcome State Fault Refusal :=
  vecOp (.vadd h vd va vb x m) vd va vb 0 x m
    (fun s a b c => byType m.et.toNat m.sat (s.mode m.rnd) (fun a b _ => a.add (s.mode m.rnd) b) (fun a b _ => a + b) a b c) s
def execVsub (h : Hdr) (vd va vb : BitVec 4) (x : Opnd) (m : M6) (s : State) : Host.Outcome State Fault Refusal :=
  vecOp (.vsub h vd va vb x m) vd va vb 0 x m
    (fun s a b c => byType m.et.toNat m.sat (s.mode m.rnd) (fun a b _ => a.add (s.mode m.rnd) b.neg) (fun a b _ => a - b) a b c) s
def execVmul (h : Hdr) (vd va vb : BitVec 4) (x : Opnd) (m : M6) (s : State) : Host.Outcome State Fault Refusal :=
  vecOp (.vmul h vd va vb x m) vd va vb 0 x m
    (fun s a b c => byType m.et.toNat m.sat (s.mode m.rnd) (fun a b _ => a.mul b) (fun a b _ => a * b) a b c) s
def execVfma (h : Hdr) (vd va vb vc : BitVec 4) (x : Opnd) (m : M6) (s : State) : Host.Outcome State Fault Refusal :=
  vecOp (.vfma h vd va vb vc x m) vd va vb vc x m
    (fun s a b c => byType m.et.toNat m.sat (s.mode m.rnd) (fun a b c => Val.fma (s.mode m.rnd) a b c) (fun a b c => a * b + c) a b c) s
def execVmin (h : Hdr) (vd va vb : BitVec 4) (x : Opnd) (m : M6) (s : State) : Host.Outcome State Fault Refusal :=
  vecOp (.vmin h vd va vb x m) vd va vb 0 x m (fun _ a b _ => (minmaxElem m.et.toNat false a b, 0)) s
def execVmax (h : Hdr) (vd va vb : BitVec 4) (x : Opnd) (m : M6) (s : State) : Host.Outcome State Fault Refusal :=
  vecOp (.vmax h vd va vb x m) vd va vb 0 x m (fun _ a b _ => (minmaxElem m.et.toNat true a b, 0)) s
/-- (R181) -/
def execVabs (h : Hdr) (vd va : BitVec 4) (m : M6) (s : State) : Host.Outcome State Fault Refusal :=
  vecOp (.vabs h vd va m) vd va 0 0 Opnd.zero { m with bs := false }
    (fun _ a _ _ => match Ty.ofEt m.et.toNat with
      | .flt f => (signElem f false a, 0)
      | .int sg w => intElem m.sat sg w (intOf sg w a).natAbs
      | .e8m0 => (a, 0)) s
/-- (R181) -/
def execVneg (h : Hdr) (vd va : BitVec 4) (m : M6) (s : State) : Host.Outcome State Fault Refusal :=
  vecOp (.vneg h vd va m) vd va 0 0 Opnd.zero { m with bs := false }
    (fun _ a _ _ => match Ty.ofEt m.et.toNat with
      | .flt f => (signElem f true a, 0)
      | .int sg w => intElem m.sat sg w (-(intOf sg w a))
      | .e8m0 => (a, 0)) s
def execVexp2 (h : Hdr) (vd va : BitVec 4) (m : M6) (s : State) : Host.Outcome State Fault Refusal :=
  vecOp (.vexp2 h vd va m) vd va 0 0 Opnd.zero { m with bs := false } (fun _ a _ _ => approxElem m.et.toNat 0x08 Val.exp2 a) s
def execVlog2 (h : Hdr) (vd va : BitVec 4) (m : M6) (s : State) : Host.Outcome State Fault Refusal :=
  vecOp (.vlog2 h vd va m) vd va 0 0 Opnd.zero { m with bs := false } (fun _ a _ _ => approxElem m.et.toNat 0x09 Val.log2 a) s
def execVrcp (h : Hdr) (vd va : BitVec 4) (m : M6) (s : State) : Host.Outcome State Fault Refusal :=
  vecOp (.vrcp h vd va m) vd va 0 0 Opnd.zero { m with bs := false } (fun _ a _ _ => approxElem m.et.toNat 0x0A Val.rcp a) s
def execVrsq (h : Hdr) (vd va : BitVec 4) (m : M6) (s : State) : Host.Outcome State Fault Refusal :=
  vecOp (.vrsq h vd va m) vd va 0 0 Opnd.zero { m with bs := false } (fun _ a _ _ => approxElem m.et.toNat 0x0B Val.rsq a) s
def execVand (h : Hdr) (vd va vb : BitVec 4) (x : Opnd) (m : M6) (s : State) : Host.Outcome State Fault Refusal :=
  vecOp (.vand h vd va vb x m) vd va vb 0 x m (fun _ a b _ => (a &&& b, 0)) s
def execVor (h : Hdr) (vd va vb : BitVec 4) (x : Opnd) (m : M6) (s : State) : Host.Outcome State Fault Refusal :=
  vecOp (.vor h vd va vb x m) vd va vb 0 x m (fun _ a b _ => (a ||| b, 0)) s
def execVxor (h : Hdr) (vd va vb : BitVec 4) (x : Opnd) (m : M6) (s : State) : Host.Outcome State Fault Refusal :=
  vecOp (.vxor h vd va vb x m) vd va vb 0 x m (fun _ a b _ => (a ^^^ b, 0)) s
def execVsh (h : Hdr) (vd va vb : BitVec 4) (x : Opnd) (m : M6) (s : State) : Host.Outcome State Fault Refusal :=
  vecOp (.vsh h vd va vb x m) vd va vb 0 x m
    (fun _ a b _ => (shiftElem (Ty.ofEt m.et.toNat).width m.sh.toNat a b, 0)) s
def execVcmp (h : Hdr) (vd va vb : BitVec 4) (x : Opnd) (m : M6) (s : State) : Host.Outcome State Fault Refusal :=
  vecOp (.vcmp h vd va vb x m) vd va vb 0 x m
    (fun _ a b _ => (if cmpElem m.et.toNat m.cond.toNat a b then 2 ^ (Ty.ofEt m.et.toNat).width - 1 else 0, 0)) s
def execVsel (h : Hdr) (vd va vb vc : BitVec 4) (x : Opnd) (m : M6) (s : State) : Host.Outcome State Fault Refusal :=
  vecOp (.vsel h vd va vb vc x m) vd va vb vc x m (fun _ a b c => (if c ≠ 0 then a else b, 0)) s

/-- One level of the tree of R94: neighbours combine. -/
def pairUp (f : Nat → Nat → Flagged Nat) : List (Flagged Nat) → List (Flagged Nat)
  | a :: b :: r => ((f a.1 b.1).1, a.2 ||| b.2 ||| (f a.1 b.1).2) :: pairUp f r
  | l => l

/-- The tree over a row: levels until one value remains. -/
def treeOf (f : Nat → Nat → Flagged Nat) : Nat → List (Flagged Nat) → Flagged Nat
  | 0, l => l.headD (0, 0)
  | n + 1, l => treeOf f n (pairUp f l)

/-- The identity of a reduction (R94). -/
def redIdentity (et op : Nat) : Nat :=
  match Ty.ofEt et with
  | .flt f => if op = 0 then 0 else f.infBits (op == 2)
  | .int sg w => if op = 0 then 0 else if op = 1 then intBits w (intHi sg w) else intBits w (intLo sg w)
  | .e8m0 => 0

/-- One combination of a reduction (R185). -/
def redStep (et op mode : Nat) (a b : Nat) : Flagged Nat :=
  if op = 0 then byType et false mode (fun a b _ => a.add mode b) (fun a b _ => a + b) a b 0
  else (minmaxElem et (op == 2) a b, 0)

/-- The reduction of R94 and R185. -/
def State.reduce (s : State) (va : BitVec 4) (et op mode : Nat) : Flagged Nat :=
  let w := (Ty.ofEt et).width
  let k := 32 / w
  let idn := redIdentity et op
  let row := fun r => treeOf (redStep et op mode) 8 ((List.range (64 * k)).map fun i =>
    (if i / k < s.th.activeLanes then elemOf w (i % k) (s.th.getLane va.toNat r (i / k)) else idn, (0 : Word)))
  match s.th.activeRows with
  | [] => (idn, 0)
  | r :: rs => rs.foldl (fun acc r =>
      let x := row r
      let y := redStep et op mode acc.1 x.1
      (y.1, acc.2 ||| x.2 ||| y.2)) (row r)

/-- X(S) from a reduction's element (R185): signed integers are sign-extended. -/
def redWord (et v : Nat) : Word :=
  match Ty.ofEt et with
  | .int true w => sext w v
  | _ => word v

/-- `vred` (R185). -/
def execVred (h : Hdr) (va : BitVec 4) (x : Opnd) (m : M6) (s : State) : Host.Outcome State Fault Refusal :=
  native (.vred h va x m) (fun s =>
    let r := s.reduce va m.et.toNat m.cond.toNat (s.mode m.rnd)
    .done (s.later [.reg x] [.reg x (redWord m.et.toNat r.1), .flags r.2])) s

/-- `vbcast` (R186). -/
def execVbcast (h : Hdr) (vd : BitVec 4) (x : Opnd) (m : M6) (s : State) : Host.Outcome State Fault Refusal :=
  native (.vbcast h vd x m) (fun s =>
    .done (s.later [.vec vd] (lanesOf vd s.th.active fun r l => (s.laneB { m with bs := true } 0 x r l, 0)))) s

/-- `vperm` (R186). -/
def execVperm (h : Hdr) (vd va vb : BitVec 4) (x : Opnd) (m : M6) (s : State) : Host.Outcome State Fault Refusal :=
  native (.vperm h vd va vb x m) (fun s =>
    .done (s.later [.vec vd] (lanesOf vd s.th.active fun r l =>
      let b := if m.bs then (s.reg x).toNat else (s.th.getLane vb.toNat r l).toNat
      (s.th.getLane va.toNat (b / 64 % Config.vrows s.part) (b % 64), 0)))) s

/-- The element writes of `vcvt` in one row (R187): source and destination element indices. -/
def cvtMap (ks kd p lanes : Nat) : List (Nat × Nat) :=
  let m := min ks kd
  (List.range (lanes * m)).map fun j => (if kd < ks then j + p * 64 * m else j, if ks < kd then j + p * 64 * m else j)

/-- A lane with element `d` of width `w` replaced. -/
def setElem (w e : Nat) (x : Lane) (v : Nat) : Lane :=
  let mask : Lane := BitVec.ofNat 32 ((2 ^ w - 1) * 2 ^ (w * e))
  (x &&& ~~~mask) ||| (BitVec.ofNat 32 (v % 2 ^ w * 2 ^ (w * e)))

/-- The lanes of one row after `vcvt`, with the flags. A lane is written whole, so that the elements beside those that the part
gives go back to what they held at issue if another result has come between (R25; log 84, the model's choice). -/
def State.cvtRow (s : State) (vd va : BitVec 4) (src dst : Ty) (mode : Nat) (sat : Bool) (p r : Nat) : List Write × Word :=
  let ks := 32 / src.width
  let kd := 32 / dst.width
  let res := (cvtMap ks kd p s.th.activeLanes).map fun e =>
    (e.2, convert src dst mode sat (elemOf src.width (e.1 % ks) (s.th.getLane va.toNat r (e.1 / ks))))
  let m : Sparse Lane := forEach (fun (x : Nat × Flagged Nat) (m : Sparse Lane) =>
    let l := x.1 / kd
    put m l (setElem dst.width (x.1 % kd) (if has m l then get 0 m l else s.th.getLane vd.toNat r l) x.2.1)) res []
  (m.map fun e => .lane vd r e.1 e.2, res.foldl (fun f x => f ||| x.2.2) 0)

/-- `vcvt` (R187). -/
def execVcvt (h : Hdr) (vd va : BitVec 4) (x : Opnd) (m : M6) (s : State) : Host.Outcome State Fault Refusal :=
  native (.vcvt h vd va x m) (fun s =>
    let src := Ty.ofEt m.et.toNat
    let dst := Ty.ofCode m.tgt.toNat
    let ks := 32 / src.width
    let kd := 32 / dst.width
    let p := (s.reg x).toNat % (max ks kd / min ks kd)
    let rs := s.th.activeRows.map (s.cvtRow vd va src dst (s.mode m.rnd) m.sat p)
    .done (s.later [.vec vd] (rs.flatMap (·.1) ++ [.flags (rs.foldl (fun f r => f ||| r.2) 0)]))) s

/-- `vscale` (R182). -/
def execVscale (h : Hdr) (vd va vb : BitVec 4) (x : Opnd) (m : M6) (s : State) : Host.Outcome State Fault Refusal :=
  vecOp (.vscale h vd va vb x m) vd va vb 0 x m
    (fun s a b _ => scaleElem m.et.toNat (s.mode m.rnd)
      (if m.bs then (s.reg x).toInt else intOf true (Ty.ofEt m.et.toNat).width b) a) s

/-- `vmov` (R186). -/
def execVmov (h : Hdr) (vd va : BitVec 4) (m : M6) (s : State) : Host.Outcome State Fault Refusal :=
  vecOp (.vmov h vd va m) vd va 0 0 Opnd.zero { m with bs := false } (fun _ a _ _ => (a, 0)) s

/-! ### Group 0x7 -/

/-- The shape granted for a request (R174), and whether it is less than was asked for. -/
def shapeOf (part : Part) (rq lq : Nat) : Nat × Nat × Bool :=
  let rows := if rq = 0 then Config.vrows part else min rq (Config.vrows part)
  let lanes := if lq = 0 then Config.vlanes part else min lq (Config.vlanes part)
  (rows, lanes, (rq != 0 && decide (rows < rq)) || (lq != 0 && decide (lanes < lq)))

/-- `setshape` (R174). -/
def execSetshape (h : Hdr) (d a b : Opnd) (s : State) : Host.Outcome State Fault Refusal :=
  native (.setshape h d a b) (fun s =>
    let (rows, lanes, less) := shapeOf s.part (s.reg a).toNat (s.reg b).toNat
    let v := word (lanes * 256 + rows)
    let s := if less then s.warnBit wSHAPE else s
    let s := s.setTh { s.th with vshape := v, vact := word (lanes * 256 + (2 ^ rows - 1)) }
    .done (s.later [.reg d] [.reg d v])) s

/-- VACT as a write leaves it (R52). -/
def vactWord (nlanes mask : Nat) : Word := word (min nlanes 64 * 256 + mask % 16)

/-- `vact` (R175). -/
def execVact (h : Hdr) (d a b : Opnd) (s : State) : Host.Outcome State Fault Refusal :=
  native (.vact h d a b) (fun s =>
    let s' := s.setTh { s.th with vact := vactWord (s.reg a).toNat (s.reg b).toNat }
    .done (s'.later [.reg d] [.reg d (word s'.th.active.length)])) s

/-- Where an address leads by a mapping of any kind, whether or not the access at hand is permitted. A base that is not canonical
leads where its low 52 bits map (log 83, the model's choice). -/
def State.leadsTo (s : State) (va : Word) : Option Nat :=
  if local? s.who va then some (scratch s.th.core va.toNat)
  else
    [kRead, kWrite, kFetch].findSome? fun k =>
      match s.translate s.who va k with
      | .ok t => some t.pa
      | .error _ => none

/-- The memory format of an instruction (R189): the code of the scratchpad bank that the base lies in, permitted or not, else
MF. An MF that a bank's code replaces sets no W_MODFALL (log 16). -/
def State.memFmt (s : State) (va : Word) (mf : BitVec 4) : Nat :=
  match s.leadsTo va with
  | none => mf.toNat
  | some pa =>
    if s.kindOf pa = some .scratch then
      (get 0 (s.core ((pa - scratchBase) / 0x200000)).bfmt ((pa - scratchBase) % 0x200000 / 0x20000)).toNat
    else mf.toNat

/-- One element of a vector access: position, element of the lane, address and nibble. -/
structure VElem where
  row : Nat
  lane : Nat
  e : Nat
  va : Word
  nib : Nat
  deriving DecidableEq, Repr

/-- The address of the element `idx` places after a base (R190). -/
def elemAt (base : Word) (wbits : Nat) (idx : Int) : Word × Nat :=
  if wbits = 4 then (base + BitVec.ofInt 64 (idx / 2), (idx % 2).toNat)
  else (base + BitVec.ofInt 64 (idx * (wbits / 8 : Nat)), 0)

/-- The active elements of an access in ascending order (R191), from the index of each (R190). -/
def State.velems (s : State) (base : Word) (et wbits : Nat) (idx : Nat → Nat → Nat → Int) : List VElem :=
  s.th.active.flatMap fun p => (List.range (perLane et)).map fun e =>
    let a := elemAt base wbits (idx p.1 p.2 e)
    ⟨p.1, p.2, e, a.1, a.2⟩

/-- The index of an element of `vld` and `vst`. -/
def Thread.denseIdx (t : Thread) (k r l e : Nat) : Int := ((r * t.lanes + l) * k + e : Nat)

/-- The index of an element of `vgather` and `vscatter`. -/
def State.gatherIdx (s : State) (va : BitVec 4) (k r l e : Nat) : Int := (s.th.getLane va.toNat r l).toInt * k + e

/-- Check every element in order (R191). -/
def State.checkElems (s : State) (size k : Nat) : List VElem → Except Trap (List (VElem × Tr))
  | [] => .ok []
  | e :: r =>
    match s.check s.who e.va size k with
    | .error t => .error t
    | .ok t =>
      if s.csrBad t.pa size false then .error (.of .prot e.va)
      else (s.checkElems size k r).map ((e, t) :: ·)

/-- Send the accesses of a vector result, the n-th with offset twice its number plus its nibble. -/
def State.sendElems (out size k : Nat) (op : Nat → VElem → AccOp) (acq rel : Bool) (sco : Nat) : Nat → List (VElem × Tr) → State → State
  | _, [], s => s
  | n, (e, t) :: r, s =>
    State.sendElems out size k op acq rel sco (n + 1) r
      (((s.remember s.who e.va k t).access e.va t size (op n e) out (2 * n + e.nib) acq rel sco).afterCxl t.pa)

/-- A vector access: wait for fences, check every element, send them. -/
def State.vecAccess (s : State) (isLoad : Bool) (size k : Nat) (els : List VElem) (dsts : List Dst) (fin : Fin)
    (op : Nat → VElem → AccOp) (acq rel : Bool) (sco : Nat) : Res :=
  let w := s.fenced isLoad (!isLoad) ++ els.flatMap fun e => s.walkAfter e.va k
  if w ≠ [] then .park s (.ids w)
  else
    match s.checkElems size k els with
    | .error t => .trap t
    | .ok l => .done (State.sendElems s.next size k op acq rel sco 0 l (s.openOut dsts fin l.length))

/-- The bytes of a memory element (R189); 1 for a nibble. -/
def elemBytes (wbits : Nat) : Nat := (wbits + 7) / 8

/-- A vector load (R189 to R191). -/
def State.vecLoad (s : State) (vd : BitVec 4) (x : Opnd) (m : M7) (idx : Nat → Nat → Nat → Int) : Res :=
  let f := s.memFmt (s.reg x) m.mf
  let wb := fmtBits f m.et.toNat
  let els := s.velems (s.reg x) m.et.toNat wb idx
  s.vecAccess true (elemBytes wb) kRead els [.vec vd]
    (.lanes vd (els.map fun e => (64 * e.row + e.lane, e.e)) m.et.toNat f) (fun _ _ => .load) (loadAcq m.ord) (loadRel m.ord) m.sco.toNat

/-- The value that a store puts into memory, with the flags of its conversion (R189). -/
def storeElem (et f v : Nat) : Flagged Nat :=
  if copies f et then (v, 0) else convert (Ty.ofEt et) ((Ty.ofFmt f).getD .e8m0) 0 false v

/-- A vector store. -/
def State.vecStore (s : State) (vd : BitVec 4) (x : Opnd) (m : M7) (idx : Nat → Nat → Nat → Int) : Res :=
  let et := m.et.toNat
  let f := s.memFmt (s.reg x) m.mf
  let wb := fmtBits f et
  let els := s.velems (s.reg x) et wb idx
  let val := fun (e : VElem) => storeElem et f (elemOf (Ty.ofEt et).width e.e (s.th.getLane vd.toNat e.row e.lane))
  let flags := els.foldl (fun w e => w ||| (val e).2) 0
  s.vecAccess false (elemBytes wb) kWrite els [] (.done [.flags flags])
    (fun _ e => if wb = 4 then .storeNib (e.nib == 1) (BitVec.ofNat 4 (val e).1) else .store (toBytes (elemBytes wb) (val e).1))
    (storeAcq m.ord) (storeRel m.ord) m.sco.toNat

/-- `vld` (R188 to R191). -/
def execVld (h : Hdr) (vd : BitVec 4) (x : Opnd) (m : M7) (s : State) : Host.Outcome State Fault Refusal :=
  native (.vld h vd x m) (fun s => s.vecLoad vd x m (s.th.denseIdx (perLane m.et.toNat))) s
/-- `vst`. -/
def execVst (h : Hdr) (vd : BitVec 4) (x : Opnd) (m : M7) (s : State) : Host.Outcome State Fault Refusal :=
  native (.vst h vd x m) (fun s => s.vecStore vd x m (s.th.denseIdx (perLane m.et.toNat))) s
/-- `vgather`. -/
def execVgather (h : Hdr) (vd va : BitVec 4) (x : Opnd) (m : M7) (s : State) : Host.Outcome State Fault Refusal :=
  native (.vgather h vd va x m) (fun s => s.vecLoad vd x m (s.gatherIdx va (perLane m.et.toNat))) s
/-- `vscatter`. -/
def execVscatter (h : Hdr) (vd va : BitVec 4) (x : Opnd) (m : M7) (s : State) : Host.Outcome State Fault Refusal :=
  native (.vscatter h vd va x m) (fun s => s.vecStore vd x m (s.gatherIdx va (perLane m.et.toNat))) s

end Sys2Proof.Machine
end

