-- ==== Sys2Proof/Machine/Matrix.lean ====
section
/-! DEFINITION. The accumulator (R85 to R90), and groups 0x8 and 0x9: operand slots, tiles and scale registers (R192 to
R215). -/

namespace Sys2Proof.Machine

/-! ### Ownership (R192, R193) -/

/-- A SLOT_STATE trap with its reason. -/
def slotTrap (reason : Nat) : Res := .trap (.of .slotState (word reason))

/-- Slot `n` lies in the grant (R330). -/
def State.slotGranted (s : State) (n : Nat) : Bool := bit s.myCtx.bankmask (16 + n)
/-- Tile `n` lies in the grant. -/
def State.tileGranted (s : State) (n : Nat) : Bool := bit s.myCtx.bankmask (24 + n)
/-- Scale register `n` lies in the grant. -/
def State.scaleGranted (s : State) (n : Nat) : Bool := bit s.myCtx.bankmask (32 + n / 8)

/-- The reason for which a named item is refused: 1 outside the grant or another's, 2 not held or in a state that is
not accepted. -/
def State.itemReason (s : State) (granted : Bool) (owner : Option Nat) (ok : Bool) : Option Nat :=
  if !granted || (owner.isSome && owner != some s.cur) then some 1
  else if owner.isNone || !ok then some 2
  else none

/-- A slot that the thread must hold, in a state that the instruction accepts. -/
def State.slotReason (s : State) (n : Nat) (ok : Nat → Bool) : Option Nat :=
  s.itemReason (s.slotGranted n) (s.myCore.slot n).owner (ok (s.myCore.slot n).state)

/-- A tile that the thread must hold. -/
def State.tileReason (s : State) (n : Nat) (ok : Nat → Bool) : Option Nat :=
  s.itemReason (s.tileGranted n) (s.myCore.tile n).owner (ok (s.myCore.tile n).state)

/-- A scale register that the thread must hold. -/
def State.scaleHeld (s : State) (n : Nat) : Option Nat := s.itemReason (s.scaleGranted n) (s.myCore.scale n).owner true

/-- A scale register that the thread reads or writes: its own or a free one (R209). -/
def State.scaleReason (s : State) (n : Nat) : Option Nat :=
  if !s.scaleGranted n || ((s.myCore.scale n).owner.isSome && (s.myCore.scale n).owner != some s.cur) then some 1 else none

/-- Go on unless there is a reason to refuse. -/
def unlessSlot (r : Option Nat) (k : Res) : Res :=
  match r with
  | some n => slotTrap n
  | none => k

/-- Free the register of a previous binding when it is AUTO, held by the thread and bound to no other slot (R215). -/
def Core.freeAuto (k : Core) (uid o : Nat) (old : Slot) : Core :=
  let z := k.scale old.z
  if !old.unit && z.auto && z.owner == some uid &&
      !((List.range 8).any fun n => n != o && (k.slot n).owner == some uid && !(k.slot n).unit && (k.slot n).z == old.z) &&
      !(!(k.slot o).unit && (k.slot o).z == old.z && (k.slot o).owner == some uid)
  then k.setScale old.z { z with owner := none, auto := false } else k

/-- A thread writes a scale register: it holds it, and the generation advances (R55, R209). -/
def Core.writeScale (k : Core) (uid z : Nat) : Core :=
  let r := k.scale z
  k.setScale z { r with
    gen := (r.gen + 1) % 1024, owner := some uid, auto := if r.owner = some uid then r.auto else false }

/-! ### Reading memory in pieces -/

/-- A range cut at aligned 16-byte units, across which no access is atomic (R105): offset, address and bytes of each
piece. -/
def pieces : Nat → Nat → Word → Nat → List (Nat × Word × Nat)
  | 0, _, _, _ => []
  | n + 1, off, va, len =>
    if len = 0 then []
    else
      let m := min len (16 - va.toNat % 16)
      (off, va, m) :: pieces n (off + m) (va + word m) (len - m)

/-- The pieces of a range. -/
def piecesOf (off : Nat) (va : Word) (len : Nat) : List (Nat × Word × Nat) := pieces (len / 16 + 2) off va len

/-- Send one access for each piece of a checked range. -/
def State.sendPieces (s : State) (out k : Nat) (op : Nat → Nat → AccOp) (ps : List (Nat × Word × Nat)) : State :=
  forEach (fun (p : Nat × Word × Nat) s =>
    match s.translate s.who p.2.1 k with
    | .ok t => ((s.remember s.who p.2.1 k t).access p.2.1 t p.2.2 (op p.1 p.2.2) out p.1 false false).afterCxl t.pa
    | .error _ => s) ps s

/-- Wait for the fences and for what the walks follow (R377), then check a range under R167. -/
def State.rangeCheck (s : State) (isLoad : Bool) (va : Word) (len k : Nat) (go : Res) : Res :=
  let l := s.fenced isLoad (!isLoad) ++ s.walksAfter va len k
  if l ≠ [] then .park s (.ids l)
  else
    match s.checkRange s.who va len k with
    | .error t => .trap t
    | .ok _ => go

/-! ### The accumulator -/

/-- The unit in which sums are formed: 2^-700, below every product and every window. -/
def accUnit : Int := -700

/-- An exact value in that unit. -/
def inUnit (neg : Bool) (m : Nat) (e : Int) : Int :=
  (if neg then -1 else 1) * ((m * 2 ^ (e - accUnit).toNat : Nat) : Int)

/-- Put V into the window of anchor A (R88): N, and the flags of the tile. -/
def window (a : Int) (v : Int) : Int × Bool × Bool :=
  let lsb : Int := ((2 ^ (a - 96 - accUnit).toNat : Nat) : Int)
  let n := v / lsb
  let low := n * lsb != v
  if 2 ^ 127 - 1 < n then (2 ^ 127 - 1, low, true)
  else if n < -2 ^ 127 then (-2 ^ 127, low, true)
  else (n, low, false)

/-- What the products of one element come to: NaN operand, invalid, +inf, -inf, exact sum. -/
structure Dot where
  nan : Bool
  bad : Bool
  pos : Bool
  neg : Bool
  sum : Int
  deriving DecidableEq, Repr

/-- Add one product a times b times 2^sc (R88, R89). -/
def Dot.add (d : Dot) (a b : Val) (sc : Int) (scNan : Bool) : Dot :=
  if a = .nan ∨ b = .nan ∨ scNan then { d with nan := true }
  else
    match (a.mul b).1 with
    | .nan => { d with bad := true }
    | .inf n => if n then { d with neg := true } else { d with pos := true }
    | .num n m e _ => { d with sum := d.sum + inUnit n m (e + sc) }

/-- An operand element of a slot in an `mma` (R203). -/
def slotElem (fmt : Nat) (bs : Sparse Byte) (k i j : Nat) : Val :=
  ((Ty.ofFmt fmt).getD .e8m0).decode (plainElem fmt bs (i * k + j))

/-- The scale code of element (i, k): 127 for the unit scale (R203). -/
def scaleCode (c : Core) (z : Option (Nat × Nat)) (i k : Nat) : Nat :=
  match z with
  | none => 127
  | some (z, b) => (get 127 (c.scale z).bytes (32 * i + k / b)).toNat

/-- The dot product of row i of A and row j of B. -/
def dotOf (c : Core) (a b : Sparse Byte) (fa fb k : Nat) (za zb : Option (Nat × Nat)) (i j : Nat) : Dot :=
  (List.range k).foldl (fun d n =>
    let sa := scaleCode c za i n
    let sb := scaleCode c zb j n
    d.add (slotElem fa a k i n) (slotElem fb b k j n) ((sa : Int) + sb - 254) (sa == 255 || sb == 255)) ⟨false, false, false, false, 0⟩

/-- An element after one `mma`: the element, ACC_LOW, ACC_HIGH, NV (R88, R89). -/
def accumulate (a : Int) (e : Elem) (d : Dot) : Elem × Bool × Bool × Bool :=
  let pos := d.pos || e.cls == 1
  let neg := d.neg || e.cls == 2
  if e.cls = 3 ∨ d.nan then (⟨3, 0⟩, false, false, false)
  else if d.bad ∨ (pos ∧ neg) then (⟨3, 0⟩, false, false, true)
  else if pos then (⟨1, 0⟩, false, false, false)
  else if neg then (⟨2, 0⟩, false, false, false)
  else
    let w := window a (e.v.toInt * ((2 ^ (a - 96 - accUnit).toNat : Nat) : Int) + d.sum)
    (⟨0, BitVec.ofInt 128 w.1⟩, w.2.1, w.2.2, false)

/-- The largest finite magnitude of an operand format, as m times 2^e (R86). -/
def maxMag (fmt : Nat) : Nat × Int :=
  match Ty.ofFmt fmt with
  | some (.flt f) => (f.maxM, f.maxQ)
  | some (.int true _) => (128, 0)
  | _ => (255, 0)

/-- The largest non-NaN scale code that an `mma` applies to an operand (R86). -/
def maxScale (c : Core) (z : Option (Nat × Nat)) (k : Nat) : Nat :=
  match z with
  | none => 127
  | some (_, b) =>
    let codes := (List.range 32).flatMap fun i => (List.range (k / b)).map fun j => scaleCode c z i (j * b)
    let ok := codes.filter (· ≠ 255)
    if ok.isEmpty then 127 else ok.foldl max 0

/-- The anchor that the first `mma` sets (R86). -/
def firstAnchor (c : Core) (fa fb k : Nat) (za zb : Option (Nat × Nat)) : Int :=
  let p := (maxMag fa).2 + (maxMag fb).2 + bitLen ((maxMag fa).1 * (maxMag fb).1) +
    ((maxScale c za k : Int) + maxScale c zb k - 254)
  max (-512) (min 511 (p + 8))

/-- One `mma` accumulates into a tile: the tile, and the FLAGS bits of the issuer. -/
def Core.doMma (c : Core) (t : Tile) (a b : List Byte) (fa fb : Nat) (za zb : Option (Nat × Nat)) : Tile × Word :=
  let k := rowLen fa
  let anchor := if t.set then t.anchor else firstAnchor c fa fb k za zb
  let sa := sparseFrom 0 0 a
  let sb := sparseFrom 0 0 b
  let res := (List.range 1024).map fun n =>
    accumulate anchor (get Elem.zero t.el n) (dotOf c sa sb fa fb k za zb (n / 32) (n % 32))
  let low := res.any fun r => r.2.1
  let high := res.any fun r => r.2.2.1
  let nv := res.any fun r => r.2.2.2
  ({ t with anchor := anchor, set := true, el := sparseFrom Elem.zero 0 (res.map (·.1)), low := t.low || low,
            high := t.high || high },
   flagIf low fACCLOW ||| flagIf high fACCHIGH ||| flagIf nv fNV)

/-- `manch` (R87, R202): the tile, and the FLAGS bits of the issuer. -/
def Tile.reAnchor (t : Tile) (a : Int) : Tile × Word :=
  if !t.set then ({ t with anchor := a, set := true }, 0)
  else
    let res := (List.range 1024).map fun n =>
      let e := get Elem.zero t.el n
      if e.cls ≠ 0 then (e, false, false)
      else
        let w := window a (e.v.toInt * ((2 ^ (t.anchor - 96 - accUnit).toNat : Nat) : Int))
        ((⟨0, BitVec.ofInt 128 w.1⟩ : Elem), w.2.1, w.2.2)
    let low := res.any fun r => r.2.1
    let high := res.any fun r => r.2.2
    ({ t with anchor := a, el := sparseFrom Elem.zero 0 (res.map (·.1)), low := t.low || low, high := t.high || high },
     flagIf low fACCLOW ||| flagIf high fACCHIGH)

/-- `mzero` (R201). -/
def Tile.zeroed (t : Tile) : Tile := { t with anchor := 0, set := false, el := [], low := false, high := false, poison := false }

/-- The word of `mstat` (R208). -/
def Tile.statWord (t : Tile) : Word :=
  word (t.state * 2 ^ 30 + t.left * 2 ^ 24 + (if t.set then (BitVec.ofInt 10 t.anchor).toNat * 2 ^ 14 + 2 ^ 13 else 0) +
    (if t.high then 2 else 0) + if t.low then 1 else 0)

/-- A delivered element as FP32 (R90). -/
def Elem.f32 (anchor : Int) (mode : Nat) (e : Elem) : Flagged Nat :=
  match e.cls with
  | 1 => (Fmt.f32.infBits false, 0)
  | 2 => (Fmt.f32.infBits true, 0)
  | 3 => (Fmt.f32.nanBits, 0)
  | _ => Fmt.f32.round mode false (.num (decide (e.v.toInt < 0)) e.v.toInt.natAbs (anchor - 96) false)

/-- The thread's result of a queued matrix operation is ready; `bad` says that it comes from uncorrectable data. -/
def State.jobDone (s : State) (j : TileJob) (ws : List Write) (bad : Bool := false) : State :=
  s.onThread j.uid fun t => { t with
    outst := modFirst (fun o => o.id == j.out)
      (fun o => { o with need := 0, fin := .done ws, bad := if bad then [0] else [] }) t.outst }

/-- A scale register that an `mma` applies has received uncorrectable data since its issue (R27, R195). -/
def Core.badScale (c : Core) (z : Option (Nat × Nat)) : Bool :=
  match z with
  | some p => (c.scale p.1).poison
  | none => false

/-- Perform a matrix operation on its tile (R195). A tile that receives uncorrectable data is poisoned as a whole. -/
def State.doJob (s : State) (core : Nat) (j : TileJob) : State :=
  let c := s.core core
  match j.op with
  | .mma t a b fa fb za zb =>
    let r := c.doMma (c.tile t) a b fa fb za zb
    let t1 := { r.1 with poison := r.1.poison || c.badScale za || c.badScale zb }
    (((s.onCore core (·.setTile t t1)).onThread j.uid (·.flag r.2)).count (s.thread j.uid).asid 0x010).jobDone j []
  | .zero t => (s.onCore core (·.setTile t (c.tile t).zeroed)).jobDone j []
  | .anchor t a =>
    let r := (c.tile t).reAnchor a
    ((s.onCore core (·.setTile t r.1)).onThread j.uid (·.flag r.2)).jobDone j []
  | .stat t clear claimed r =>
    let v := (if claimed then { c.tile t with state := 1, left := 0 } else c.tile t).statWord
    let s := if clear then s.onCore core (·.setTile t { c.tile t with low := false, high := false }) else s
    s.jobDone j [.reg r v] (c.tile t).poison

/-- Perform the queued operations other than `mma` that have reached the head of the unit. -/
def State.runJobs (core : Nat) : Nat → State → State
  | 0, s => s
  | n + 1, s =>
    match (s.core core).jobs with
    | [] => s
    | j :: r =>
      match j.op with
      | .mma _ _ _ _ _ _ _ => s
      | _ =>
        if (s.thread j.uid).overLimit j.out then s
        else State.runJobs core n ((s.onCore core fun c => { c with jobs := r }).doJob core j)

/-- Queue an operation in the matrix unit: one that is not an `mma` is performed at once when nothing waits. -/
def State.queueJob (s : State) (dsts : List Dst) (op : TileOp) : State :=
  let j : TileJob := ⟨s.cur, s.next, op⟩
  let core := s.th.core
  let s := (s.openOut dsts (.done []) 1).onCore core fun c => { c with jobs := c.jobs ++ [j] }
  State.runJobs core (s.core core).jobs.length s

/-- An `mma` of the thread on a tile waits in the unit. -/
def State.tileBusy (s : State) (core tile : Nat) : Bool :=
  (s.core core).jobs.any fun j => match j.op with
    | .mma t _ _ _ _ _ _ => t == tile
    | .zero t => t == tile
    | .anchor t _ => t == tile
    | .stat t _ _ _ => t == tile

/-! ### Claiming and releasing -/

/-- The bits of a mask of items. -/
def maskBits (w : Word) : List Nat := (List.range 16).filter fun n => w.getLsbD n

/-- The owner of an item of `oclaim` (0 to 7 slots, 8 to 15 tiles). -/
def Core.itemOwner (k : Core) (n : Nat) : Option Nat := if n < 8 then (k.slot n).owner else (k.tile (n - 8)).owner
/-- The state of an item. -/
def Core.itemState (k : Core) (n : Nat) : Nat := if n < 8 then (k.slot n).state else (k.tile (n - 8)).state

/-- An item that `oclaim` finds busy (R196). A tile that still drains after its owner has released it is busy too (log 85, the
model's choice). -/
def State.itemBusy (s : State) (n : Nat) : Bool :=
  !bit s.myCtx.bankmask (16 + n) ||
    (s.myCore.itemOwner n != some s.cur && ((s.myCore.itemOwner n).isSome || s.myCore.itemState n != 0))

/-- Claim an item that the thread does not hold. -/
def Core.claim (uid n : Nat) (k : Core) : Core :=
  if k.itemOwner n = some uid then k
  else if n < 8 then k.setSlot n { Slot.new with state := 1, owner := some uid }
  else k.setTile (n - 8) { Tile.new with state := 1, owner := some uid }

/-- A mask word from bit numbers. -/
def maskWord (l : List Nat) : Word := word (l.foldl (fun v n => v + 2 ^ n) 0)

/-- `oclaim` (R196). -/
def execOclaim (h : Hdr) (s1 s2 : Opnd) (m : M8) (s : State) : Host.Outcome State Fault Refusal :=
  native (.oclaim h s1 s2 m) (fun s =>
    let items := maskBits (s.reg s1)
    let busy := items.filter s.itemBusy
    let s := if busy = [] then s.onMyCore fun k => forEach (Core.claim s.cur) items k else s
    .done (s.later [.reg s2] [.reg s2 (maskWord busy)])) s

/-- Release an item that the thread holds (R197). -/
def Core.release (uid n : Nat) (k : Core) : Core :=
  if n < 8 then
    let old := k.slot n
    (k.setSlot n Slot.new).freeAuto uid n old
  else
    let t := k.tile (n - 8)
    k.setTile (n - 8) (if t.state = 2 then { t with owner := none } else Tile.new)

/-- A write of a result goes to one of the slots. -/
def Write.into (w : Write) (l : List Nat) : Bool :=
  match w with
  | .row o _ _ => l.contains o
  | .part o _ _ => l.contains o
  | .loaded o => l.contains o
  | _ => false

/-- A result no longer reaches slots that its thread has released: what is known of it is dropped, and a fill that is under way
finds them dead. -/
def Outst.release (o : Outst) (l : List Nat) : Outst :=
  let ds := l.map Dst.slot
  match o.fin with
  | .done ws => { o with fin := .done (ws.filter fun w => !w.into l), dsts := o.dsts.filter fun d => !ds.contains d }
  | _ => { o with dead := o.dead ++ ds.filter o.dsts.contains }

/-- `orel` (R197). A release waits for what the unit still has to do on a named tile (R195). -/
def execOrel (h : Hdr) (s1 s2 : Opnd) (m : M8) (s : State) : Host.Outcome State Fault Refusal :=
  native (.orel h s1 s2 m) (fun s =>
    let items := maskBits (s.reg s1)
    let mine := items.filter fun n => s.myCore.itemOwner n == some s.cur
    if mine.any fun n => 8 ≤ n && s.tileBusy s.th.core (n - 8) then .park s .drain
    else
      let not := items.filter fun n => !mine.contains n
      let s := s.onMyCore fun k => forEach (Core.release s.cur) mine k
      let s := s.setTh { s.th with outst := s.th.outst.map (·.release (mine.filter (· < 8))) }
      .done (s.later [.reg s2] [.reg s2 (maskWord not)])) s

/-! ### Loading operand slots -/

/-- Bytes of a `tld` source (R198, R199). -/
def tldBytes (f k : Nat) : Nat :=
  if f = 8 ∨ f = 9 then 16704 else 32 * k * ((Ty.ofFmt (slotPlain f)).getD .e8m0).width / 8

/-- The lowest free granted scale register (R199). -/
def State.freeScale (s : State) : Option Nat :=
  (List.range 64).find? fun z => s.scaleGranted z && (s.myCore.scale z).owner.isNone

/-- The issue turn of `tld` once its checks have passed (R199). -/
def State.startTld (s : State) (o : Nat) (a b : Word) (fmt src k : Nat) (m : M8) (z : Option Nat) : State :=
  let d := slotPlain fmt
  let n := k / blkSize m.blk
  let uid := s.cur
  let s := s.onMyCore fun c =>
    let old := c.slot o
    let c := match z with
      | none => c.setSlot o { old with state := 2, fmt := d, unit := true, z := 0, gen := 0, blk := 0 }
      | some z =>
        let r := c.scale z
        let g := (r.gen + 1) % 1024
        (c.setScale z { r with owner := some uid, auto := true, gen := g }).setSlot o
          { old with state := 2, fmt := d, unit := false, z := z, gen := g, blk := m.blk.toNat }
    c.freeAuto uid o old
  let data := piecesOf 0 a (tldBytes (tldSource fmt src) k)
  let ps := match z with
    | none => data
    | some _ => data ++ piecesOf streamAt b (32 * n)
  let out := s.next
  let s := s.openOut ([.slot o] ++ (match z with
    | none => []
    | some z => [.scale z])) (.slot o fmt src k (z.map fun z => (z, n))) ps.length
  s.sendPieces out kRead (fun _ _ => .load) ps

/-- `tld` (R198, R199). -/
def execTld (h : Hdr) (oa : BitVec 3) (s1 s2 : Opnd) (fmt : BitVec 4) (m : M8) (s : State) : Host.Outcome State Fault Refusal :=
  native (.tld h oa s1 s2 fmt m) (fun s =>
    let o := oa.toNat
    let a := s.reg s1
    let k := rowLen (slotPlain fmt.toNat)
    let src := s.memFmt a fmt
    unlessSlot (s.slotReason o (· ≠ 0)) <|
      if !canonical a then .trap (.of .prot a)
      else if a.toNat % 16 ≠ 0 then .trap (.of .align a)
      else
        s.rangeCheck true a (tldBytes (tldSource fmt.toNat src) k) kRead <|
          if !m.sc then .done (s.startTld o a 0 fmt.toNat src k m none)
          else
            s.rangeCheck true (s.reg s2) (32 * (k / blkSize m.blk)) kRead <|
              match s.freeScale with
              | none => slotTrap 5
              | some z => .done (s.startTld o a (s.reg s2) fmt.toNat src k m (some z))) s

/-- `tfill` (R200). A slot that another fill has made FILLING is accepted too, and keeps the bytes of its unfilled rows (log 87,
the model's choice). -/
def execTfill (h : Hdr) (oa : BitVec 3) (s1 s2 : Opnd) (z : BitVec 6) (fmt : BitVec 4) (m : M8) (s : State) :
    Host.Outcome State Fault Refusal :=
  native (.tfill h oa s1 s2 z fmt m) (fun s =>
    let o := oa.toNat
    unlessSlot (s.slotReason o (· ≠ 0)) <| unlessSlot (if m.sc then s.scaleHeld z.toNat else none) <|
      let row := (List.replicate 64 (toBytes 8 (s.reg s1).toNat)).flatten
      let mask := s.reg s2
      let fresh := (s.myCore.slot o).state == 1
      let rows : List Write := (List.range 32).flatMap fun r =>
        if mask.getLsbD r then [.row o r row] else if fresh then [.row o r (List.replicate 512 0)] else []
      let uid := s.cur
      let s := s.onMyCore fun c =>
        let old := c.slot o
        let c := c.setSlot o { old with
          state := 2, fmt := fmt.toNat, unit := !m.sc, z := if m.sc then z.toNat else 0,
          gen := if m.sc then (c.scale z.toNat).gen else 0, blk := 0 }
        c.freeAuto uid o old
      .done (s.later [.slot o] (rows ++ [.loaded o]))) s

/-! ### Tiles and multiplication -/

/-- `mzero` (R201). -/
def execMzero (h : Hdr) (ta : BitVec 3) (m : M8) (s : State) : Host.Outcome State Fault Refusal :=
  native (.mzero h ta m) (fun s =>
    unlessSlot (s.tileReason ta.toNat (· == 1)) (.done (s.queueJob [] (.zero ta.toNat)))) s

/-- `manch` (R202). -/
def execManch (h : Hdr) (ta : BitVec 3) (s1 : Opnd) (m : M8) (s : State) : Host.Outcome State Fault Refusal :=
  native (.manch h ta s1 m) (fun s =>
    unlessSlot (s.tileReason ta.toNat (· == 1))
      (.done (s.queueJob [] (.anchor ta.toNat ((s.reg s1).setWidth 10).toInt)))) s

/-- A permitted pair of operand formats (R203). -/
def pairOk (a b : Nat) : Bool :=
  ((a == 4 || a == 5) && (b == 4 || b == 5)) || ((a == 7 || a == 10) && (b == 7 || b == 10)) ||
    (a == b && (a == 6 || a == 2 || a == 3))

/-- The scale of a slot as an `mma` applies it: register and block size. -/
def Slot.scaling (o : Slot) : Option (Nat × Nat) := if o.unit then none else some (o.z, blkSize (BitVec.ofNat 2 o.blk))

/-- SCALE_STALE for a slot (R193). -/
def staleTrap (o : Nat) (z : Nat) : Res := .trap (.of .scaleStale (word (o + z * 256)))

/-- Read the registers that slots are bound to, early or not (R195). -/
def State.readBound (s : State) (l : List Nat) : State :=
  s.readEarly ((l.filter fun o => !(s.myCore.slot o).unit).map fun o => .scale (s.myCore.slot o).z)

/-- A bound register is poisoned. -/
def State.boundPoison (s : State) (l : List Nat) : Bool :=
  l.any fun o => !(s.myCore.slot o).unit && s.poisonRead (.scale (s.myCore.slot o).z)

/-- `mma` (R203). POISON of a bound register is tested after SLOT_STATE and SCALE_STALE, as a register that the word itself does
not name (log 88, the model's choice). -/
def execMma (h : Hdr) (ta oa ob : BitVec 3) (m : M8) (s : State) : Host.Outcome State Fault Refusal :=
  native (.mma h ta oa ob m) (fun s =>
    let a := oa.toNat
    let b := ob.toNat
    let ok := fun st => st == 2 || st == 3
    unlessSlot (s.tileReason ta.toNat (· == 1)) <| unlessSlot (s.slotReason a ok) <| unlessSlot (s.slotReason b ok) <|
      let oa := s.myCore.slot a
      let ob := s.myCore.slot b
      if !pairOk oa.fmt ob.fmt then slotTrap 3
      else if s.myCore.stale oa then staleTrap a oa.z
      else if s.myCore.stale ob then staleTrap b ob.z
      else
        let s := s.readBound [a, b]
        if s.boundPoison [a, b] then .trap (.of .poison 0)
        else .done (s.queueJob [] (.mma ta.toNat (s.myCore.slot a).all (s.myCore.slot b).all oa.fmt ob.fmt oa.scaling ob.scaling))) s

/-! ### Draining rows -/

/-- The context owns a vector-capable slot number other than the issuer's on this core (R204). -/
def State.otherVecSlot (s : State) : Bool :=
  (List.range (vecSlots s.myCore.mode)).any fun n => n != 0 && n != s.th.slot && bit s.myCtx.slotmask n

/-- `mdrain` (R204): the tile drains once every earlier `mma` into it has accumulated. -/
def execMdrain (h : Hdr) (ta : BitVec 3) (s1 s2 : Opnd) (m : M8) (s : State) : Host.Outcome State Fault Refusal :=
  native (.mdrain h ta s1 s2 m) (fun s =>
    unlessSlot (s.tileReason ta.toNat (· == 1)) <|
      if !s.otherVecSlot then slotTrap 6
      else
        let out := s.next
        let d := (s.reg s1, s.reg s2, s.mode m.rnd, s.cur, out)
        let s := s.openOut [] (.done []) 1
        .done (s.onMyCore fun c => c.setTile ta.toNat
          { c.tile ta.toNat with state := 2, left := 32, read := false, drain := some d })) s

/-- The 32 elements of a row handler's v0 in a format (R206). -/
def State.rowElems (s : State) (fmt : Nat) : List (Flagged Nat) :=
  (List.range 32).map fun j =>
    let v := (s.th.getLane 0 0 j).toNat
    match Ty.ofFmt fmt with
    | some t => convert (.flt .f32) t 0 false v
    | none => (v, 0)

/-- The bytes of those elements. -/
def rowBytes (fmt : Nat) (els : List Nat) : List Byte :=
  if fmt = 0 then els.flatMap (toBytes 4) else packElems fmt els

/-- The bytes of one store of a `rowout` into memory: an element, or a byte with two nibbles. -/
def rowUnit (fmt : Nat) : Nat := if fmt = 0 then 4 else ((((Ty.ofFmt fmt).getD .e8m0).width + 7) / 8)

/-- The issuer and the result of the `mdrain` that a row handler serves. -/
def State.drainOf (s : State) : Option (Nat × Nat) :=
  match s.th.work with
  | .row _ tile _ core =>
    match ((s.core core).tile tile).drain with
    | some d => some d.2.2.2
    | none => none
  | _ => none

/-- The issuer of the `mdrain` that a row handler serves. -/
def State.drainIssuer (s : State) : Option Nat := s.drainOf.map Prod.fst

/-- A write of a result of a matrix operation that is known before the result returns. -/
def Outst.addWrite (o : Outst) (d : Dst) (w : Write) : Outst :=
  match o.fin with
  | .done ws => { o with fin := .done (ws ++ [w]), dsts := if o.dsts.contains d then o.dsts else o.dsts ++ [d] }
  | _ => o

/-- The result of a `rowout` into a slot, with the flags of its conversions (R206): bytes for a slot of the issuer of its `mdrain`
show early or late until that `mdrain` returns, those for a slot of its own until its own result does (R25). -/
def State.putPart (s : State) (o off : Nat) (bs : List Byte) (flags : Word) : State :=
  match s.drainOf with
  | some (u, out) =>
    if (s.myCore.slot o).owner = some u ∧ (s.thread u).outst.any fun r => r.id == out then
      (s.onThread u fun t => { t with
        outst := modFirst (fun r => r.id == out) (·.addWrite (.slot o) (.part o off bs)) t.outst }).later [] [.flags flags]
    else s.later [.slot o] [.part o off bs, .flags flags]
  | none => s.later [.slot o] [.part o off bs, .flags flags]

/-- The thread is a row handler. -/
def Thread.isRow (t : Thread) : Bool :=
  match t.work with
  | .row _ _ _ _ => true
  | _ => false

/-- `rowout` into memory (R206). -/
def State.rowoutMem (s : State) (va : Word) (fmt : Nat) : Res :=
  let els := s.rowElems fmt
  let bs := rowBytes fmt (els.map (·.1))
  let u := rowUnit fmt
  let flags := els.foldl (fun f e => f ||| e.2) 0
  let ves : List VElem := (List.range (bs.length / u)).map fun n => ⟨0, n, 0, va + word (n * u), 0⟩
  s.vecAccess false u kWrite ves [] (.done [.flags flags])
    (fun n _ => .store ((bs.drop (n * u)).take u)) false false 0

/-- `rowout` into a slot (R206). -/
def State.rowoutSlot (s : State) (o : Nat) (x : Word) (fmt : Nat) : Res :=
  let q := s.myCore.slot o
  let r := bits x 4 0
  let c := bits x 10 5
  let mine := q.owner == some s.cur || (q.owner.isSome && q.owner == s.drainIssuer)
  if !s.slotGranted o || (q.owner.isSome && !mine) then slotTrap 1
  else if q.owner.isNone || !(q.state == 1 || q.state == 3) then slotTrap 2
  else if !slotFmt (BitVec.ofNat 4 fmt) || decide (rowLen fmt < 32 * c + 32) || (q.state == 3 && q.fmt != fmt) then slotTrap 7
  else
    let els := s.rowElems fmt
    let bs := packElems fmt (els.map (·.1))
    let flags := els.foldl (fun f e => f ||| e.2) 0
    let base := if q.state = 1 then { q with state := 3, fmt := fmt, unit := true, bytes := [] } else q
    .done ((s.onMyCore fun k => k.setSlot o base).putPart o (512 * r + c * bs.length) bs flags)

/-- `rowout` (R206). -/
def execRowout (h : Hdr) (oa : BitVec 3) (s1 s2 : Opnd) (fmt : BitVec 4) (m : M8) (s : State) :
    Host.Outcome State Fault Refusal :=
  native (.rowout h oa s1 s2 fmt m) (fun s =>
    if !s.th.isRow then .trap (.of .illegalOp (Instr.rowout h oa s1 s2 fmt m).word)
    else if s1 ≠ Opnd.zero then s.rowoutMem (s.reg s1) fmt.toNat
    else s.rowoutSlot oa.toNat (s.reg s2) fmt.toNat) s

/-- `rowend` (R207). -/
def execRowend (h : Hdr) (m : M8) (s : State) : Host.Outcome State Fault Refusal :=
  native (.rowend h m) (fun s =>
    if !s.th.isRow then .trap (.of .illegalOp (Instr.rowend h m).word)
    else if s.drained s.cur then .done (s.endThread s.cur false)
    else .park s .drain) s

/-- `mstat` (R208). -/
def execMstat (h : Hdr) (ta : BitVec 3) (s1 s2 : Opnd) (m : M8) (s : State) : Host.Outcome State Fault Refusal :=
  native (.mstat h ta s1 s2 m) (fun s =>
    unlessSlot (s.tileReason ta.toNat (fun _ => true))
      (.done (s.queueJob [.reg s2] (.stat ta.toNat (bit (s.reg s1) 0) ((s.myCore.tile ta.toNat).state == 1) s2)))) s

/-! ### Scale registers -/

/-- `sld` (R210). -/
def execSld (h : Hdr) (s1 : Opnd) (z : BitVec 6) (m : M8) (s : State) : Host.Outcome State Fault Refusal :=
  native (.sld h s1 z m) (fun s =>
    let a := s.reg s1
    let n := 512 / blkSize m.blk
    let len := n * 32 * if m.sc then 4 else 1
    unlessSlot (s.scaleReason z.toNat) <|
      if !canonical a then .trap (.of .prot a)
      else if m.sc && a.toNat % 4 != 0 then .trap (.of .align a)
      else
        s.rangeCheck true a len kRead <|
          let ps := piecesOf 0 a len
          let s := s.onMyCore (·.writeScale s.cur z.toNat)
          let out := s.next
          .done ((s.openOut [.scale z.toNat] (.scale z.toNat n m.sc) ps.length).sendPieces out kRead (fun _ _ => .load) ps)) s

/-- `sst` (R210). -/
def execSst (h : Hdr) (s1 : Opnd) (z : BitVec 6) (m : M8) (s : State) : Host.Outcome State Fault Refusal :=
  native (.sst h s1 z m) (fun s =>
    let a := s.reg s1
    unlessSlot (s.scaleReason z.toNat) <|
      s.rangeCheck false a 1024 kWrite <|
        let bs := (s.myCore.scale z.toNat).all
        let ps := piecesOf 0 a 1024
        let out := s.next
        .done ((s.openOut [] (.done []) ps.length).sendPieces out kWrite (fun off n => .store ((bs.drop off).take n)) ps)) s

/-- Rewrite a scale register in place (R211). -/
def scaleOp (i : Instr) (z : BitVec 6) (f : State → List Byte → List Byte × Word) (s : State) : Host.Outcome State Fault Refusal :=
  native i (fun s =>
    unlessSlot (s.scaleReason z.toNat) <|
      let r := f s (s.myCore.scale z.toNat).all
      let s := s.onMyCore (·.writeScale s.cur z.toNat)
      .done (s.later [.scale z.toNat] [.scale z.toNat r.1, .flags r.2])) s

/-- Map the codes that are not NaN (R211). -/
def mapCodes (f : Nat → Nat) (bs : List Byte) : List Byte := bs.map fun b => if b = 255 then b else BitVec.ofNat 8 (f b.toNat)

/-- `sadd` (R211). -/
def execSadd (h : Hdr) (s1 : Opnd) (z : BitVec 6) (m : M8) (s : State) : Host.Outcome State Fault Refusal :=
  scaleOp (.sadd h s1 z m) z (fun s bs =>
    let n := (s.reg s1).toInt
    (mapCodes (fun c => (clamp 0 254 (c + n)).1.toNat) bs,
     flagIf (bs.any fun b => b != 255 && (clamp 0 254 (b.toNat + n)).2 != 0) fSAT)) s
/-- `smax` (R211). -/
def execSmax (h : Hdr) (s1 : Opnd) (z : BitVec 6) (m : M8) (s : State) : Host.Outcome State Fault Refusal :=
  scaleOp (.smax h s1 z m) z (fun s bs =>
    let n := (s.reg s1).toNat % 256
    (mapCodes (fun c => if n = 255 then 255 else max c n) bs, 0)) s
/-- `smin` (R211). -/
def execSmin (h : Hdr) (s1 : Opnd) (z : BitVec 6) (m : M8) (s : State) : Host.Outcome State Fault Refusal :=
  scaleOp (.smin h s1 z m) z (fun s bs =>
    let n := (s.reg s1).toNat % 256
    (mapCodes (fun c => if n = 255 then 255 else min c n) bs, 0)) s

/-- combine of R212: RNE the mean to nearest even, RZ the mean rounded down, RU the largest, RD the smallest. -/
def combineCodes (mode : Nat) (l : List Nat) : Nat :=
  let n := l.length
  let t := l.foldl (· + ·) 0
  if n ≤ 1 then l.headD 127
  else
    match mode with
    | 0 =>
      let q := t / n
      if 2 * (t % n) < n then q else if n < 2 * (t % n) then q + 1 else if q % 2 = 0 then q else q + 1
    | 1 => t / n
    | 2 => l.foldl max 0
    | _ => l.foldl min 255

/-- The regrouped codes of one register (R212). -/
def reblock (mode bs bd : Nat) (old : List Byte) : List Byte :=
  (List.range 1024).map fun x =>
    let i := x / 32
    let j := x % 32
    let lo := j * bd / bs
    let hi := (j * bd + bd - 1) / bs
    if 31 < hi then 127
    else
      let l := (List.range (hi - lo + 1)).map fun n => (old.getD (32 * i + lo + n) 127).toNat
      if l.contains 255 then 255 else BitVec.ofNat 8 (combineCodes mode l)

/-- `sreblk` (R212). -/
def execSreblk (h : Hdr) (s1 : Opnd) (z : BitVec 6) (m : M8) (s : State) : Host.Outcome State Fault Refusal :=
  scaleOp (.sreblk h s1 z m) z (fun s bs =>
    (reblock (s.mode m.rnd) (blkSize ((s.reg s1).setWidth 2)) (blkSize m.blk) bs, 0)) s

/-- `smov` (R213). -/
def execSmov (h : Hdr) (oa : BitVec 3) (z : BitVec 6) (m : M8) (s : State) : Host.Outcome State Fault Refusal :=
  native (.smov h oa z m) (fun s =>
    let o := oa.toNat
    unlessSlot (s.slotReason o (· ≠ 0)) <| unlessSlot (s.scaleReason z.toNat) <|
      if s.myCore.stale (s.myCore.slot o) then staleTrap o (s.myCore.slot o).z
      else
        let s := s.readBound [o]
        if s.boundPoison [o] then .trap (.of .poison 0)
        else
          let q := s.myCore.slot o
          let bs := if q.unit then List.replicate 1024 127 else (s.myCore.scale q.z).all
          let s := s.onMyCore (·.writeScale s.cur z.toNat)
          .done (s.later [.scale z.toNat] [.scale z.toNat bs])) s

/-- `sbind` (R213). -/
def execSbind (h : Hdr) (oa : BitVec 3) (s1 : Opnd) (z : BitVec 6) (m : M8) (s : State) : Host.Outcome State Fault Refusal :=
  native (.sbind h oa s1 z m) (fun s =>
    let o := oa.toNat
    let unit := bit (s.reg s1) 0
    unlessSlot (s.slotReason o (fun st => st == 2 || st == 3)) <| unlessSlot (if unit then none else s.scaleHeld z.toNat) <|
      if !unit && decide (32 < rowLen (s.myCore.slot o).fmt / blkSize m.blk) then slotTrap 4
      else
        let uid := s.cur
        let s := s.onMyCore fun c =>
          let old := c.slot o
          let c := c.setSlot o { old with
            unit := unit, z := if unit then 0 else z.toNat, gen := if unit then 0 else (c.scale z.toNat).gen,
            blk := if unit then 0 else m.blk.toNat }
          c.freeAuto uid o old
        .done (s.later [] [])) s

/-- The record of a slot (R214). -/
def Core.slotWord (k : Core) (n : Nat) : Word :=
  let o := k.slot n
  word (o.state * 2 ^ 24 + o.fmt * 2 ^ 20 + (if k.stale o then 2 ^ 19 else 0) + (if o.unit then 2 ^ 18 else 0) +
    o.blk * 2 ^ 16 + o.gen * 2 ^ 6 + o.z)

/-- `squery` (R214). -/
def execSquery (h : Hdr) (oa : BitVec 3) (s2 : Opnd) (m : M8) (s : State) : Host.Outcome State Fault Refusal :=
  native (.squery h oa s2 m) (fun s =>
    unlessSlot (s.slotReason oa.toNat (fun _ => true))
      (.done (s.later [.reg s2] [.reg s2 (s.myCore.slotWord oa.toNat)]))) s

/-- `sfree` (R215). -/
def execSfree (h : Hdr) (z : BitVec 6) (m : M8) (s : State) : Host.Outcome State Fault Refusal :=
  native (.sfree h z m) (fun s =>
    unlessSlot (s.scaleHeld z.toNat)
      (.done (State.later (s.onMyCore fun c => c.setScale z.toNat { c.scale z.toNat with owner := none, auto := false }) [] []))) s

/-- `sset` (R211). -/
def execSset (h : Hdr) (s1 : Opnd) (z : BitVec 6) (m : M8) (s : State) : Host.Outcome State Fault Refusal :=
  scaleOp (.sset h s1 z m) z (fun s bs => (bs.map fun _ => (s.reg s1).setWidth 8, 0)) s

end Sys2Proof.Machine
end

