-- ==== Sys2Proof/Machine/Tasks.lean ====
section
/-! DEFINITION. Group 0xA: tasks, cluster barriers and nomadic threads (R35 to R37, R223 to R227). -/

namespace Sys2Proof.Machine

/-! ### Tasks -/

/-- One 16-byte unit of a spilled entry on its way, as the hardware's store (R105). -/
def State.spillUnit (s : State) (e : Task) (va : Word) (t : Tr) (i : Nat) : State :=
  s.issueAcc (s.newAcc .host e.asid 0 0 (s.homeOf t.pa t.attr) (va + word (16 * i)) (t.pa + 16 * i) 16
    (.store ((e.bytes.drop (16 * i)).take 16)))

/-- Spill the oldest entry of a full deque to its context's area (R36, R49). -/
def State.spillOldest (s : State) (core : Nat) (go : State → Res) : Res :=
  match (s.core core).deque with
  | [] => go s
  | e :: r =>
    let c := s.ctx e.asid
    let n := get 0 c.spilledTasks core
    let a := c.spillAddr core (get 0 c.spillHead core + n)
    if 4096 ≤ n then .park s .deque
    else if !s.allDone (atHome [e.after]) then .park s (.ids (atHome [e.after]))
    else
      match s.translate ⟨e.asid, core, false⟩ a kWrite with
      | .error t => .trap { t with addr := if t.target.isSome then t.addr else a }
      | .ok t =>
        let s := forEach (fun i s => s.spillUnit e a t i) (List.range 4) (s.remember ⟨e.asid, core, false⟩ a kWrite t)
        let s := s.onCore core fun k => { k with deque := r }
        go (s.onCtx e.asid fun c => { c with spilledTasks := set 0 c.spilledTasks core (n + 1) })

/-- Push a task entry, spilling when all 64 entries are full. `t` gives the entry from the number of the access to its join
counter, which is the next but one. -/
def State.pushTask (s : State) (t : Nat → Task) (go : State → Res) : Res :=
  let core := s.th.core
  let push := fun (s : State) => go (s.onCore core fun k => { k with deque := k.deque ++ [t (s.next + 1)] })
  if (s.core core).deque.length < 64 then push s else s.spillOldest core push

/-- `fork` (R35, R36): the add to the join counter is performed before the entry is visible to a taker. -/
def execFork (h : Hdr) (a b : Opnd) (res : Bool) (s : State) : Host.Outcome State Fault Refusal :=
  native (.fork h a b res) (fun s =>
    let pc := s.arg a
    let j := s.arg b
    if pc.toNat % 8 ≠ 0 then .trap (.of .align pc)
    else
      s.word8 false false j kWrite fun s t =>
        s.pushTask (⟨s.th.asid, pc, [s.xr 1, s.xr 2, s.xr 3, s.xr 4], j, s.th.cls, ·⟩) fun s =>
          .done (s.single [] (.done []) j t 8 (.atom 0 1 0) false true 4)) s

/-- The thread was started from a task entry. -/
def Thread.isTask (t : Thread) : Bool :=
  match t.work with
  | .task _ => true
  | _ => false

/-- `tend` (R37, R224). -/
def execTend (h : Hdr) (res : Bool) (s : State) : Host.Outcome State Fault Refusal :=
  native (.tend h res) (fun s =>
    if s.th.isTask then s.leave else .trap (.of .illegalOp (Instr.tend h res).word)) s

/-- `joinw` (R37, R224): as `waita.eq` against zero. -/
def execJoinw (h : Hdr) (a : Opnd) (res : Bool) (s : State) : Host.Outcome State Fault Refusal :=
  native (.joinw h a res) (fun s =>
    let va := s.arg a
    s.word8 true false va kRead fun s t => .done (s.single [] (.done []) va t 8 (.waita 0 0) true false 4).parkOwn) s

/-! ### Barriers -/

/-- The key of a barrier: its cluster and number. -/
def barrierKey (core n : Nat) : Nat := core / 16 * 32 + n

/-- A barrier. -/
def State.barrier (s : State) (k : Nat) : Barrier := get Barrier.new s.barriers k
/-- Change a barrier. -/
def State.setBarrier (s : State) (k : Nat) (b : Barrier) : State := { s with barriers := put s.barriers k b }

/-- The context is granted the barrier number on a cluster (R225, R353). -/
def State.barrierGranted (s : State) (asid core n : Nat) : Bool :=
  (s.ctx asid).barriers.any fun b => b.1 == core / 16 && b.2.testBit n

/-- The position bit of a slot of a core (R225). -/
def slotBit (core slot : Nat) : BitVec 528 := (1 : BitVec 528) <<< (32 * (core % 16) + slot)
/-- The position bit of a core's engine. -/
def engineBit (core : Nat) : BitVec 528 := (1 : BitVec 528) <<< (512 + core % 16)

/-- ARRIVED covers MEMBERS. -/
def Barrier.full (b : Barrier) : Bool := b.members &&& ~~~b.arrived == 0

/-- The phase completes, and held engine arrivals are applied, one each per phase (R225, R226). -/
def Barrier.complete : Nat → Barrier → Barrier
  | 0, b => b
  | n + 1, b =>
    if !b.full then b
    else
      let ready := b.held.filter fun h => h.2 != 0
      let b := { b with
        arrived := ready.foldl (fun a h => a ||| engineBit h.1) 0, phase := b.phase + 1,
        held := b.held.map fun h => (h.1, h.2 - 1) }
      if ready.isEmpty then b else Barrier.complete n b

/-- Arrivals that may still be applied after one completion. -/
def Barrier.fuel (b : Barrier) : Nat := b.held.foldl (fun n h => n + h.2) 1

/-- A position arrives. -/
def Barrier.arrive (b : Barrier) (m : BitVec 528) : Barrier := Barrier.complete b.fuel { b with arrived := b.arrived ||| m }

/-- The barrier instruction's number, checked against the grant: PROT with the number (R225). -/
def State.onBarrier (s : State) (a : Opnd) (go : Nat → Nat → Res) : Res :=
  let n := bits (s.arg a) 4 0
  if s.barrierGranted s.th.asid s.th.core n then go n (barrierKey s.th.core n) else .trap (.of .prot (word n))

/-- The arrivals of the thread at a barrier that are still to be made. -/
def State.arriving (s : State) (key : Nat) : List Need :=
  ((s.pending (.thread s.cur)).filter fun a => match a.op with
    | .signal (.slot k _) _ => k == key
    | _ => false).map fun a => (a.id, 6)

/-- An instruction on a barrier follows the thread's own earlier arrivals there. -/
def State.afterArrivals (s : State) (key : Nat) (go : Res) : Res :=
  match s.arriving key with
  | [] => go
  | l => .park s (.ids l)

/-- Send an arrival to a barrier (log 80): a release at `sco` that follows what the egress points inside the agent's instance have
accepted of others (R118). -/
def State.sendArrival (s : State) (o : Owner) (asid out : Nat) (k : Signal) (key sco : Nat) : State :=
  let a := s.newAcc o asid out 0 (.net (key / 32)) 0 (2 ^ 56) 0 (.signal k [])
  let l := ((s.gathered a sco).filter fun b => b.owner != o).map fun b => (b.id, sco)
  s.issueAcc { a with op := .signal k l, rel := true, sco := sco }

/-- An arrival reaches its barrier (R226): a slot's sets its bit, and tells its thread the phase; an engine's that finds its bit
set is held for a later phase. One of a context that no longer holds the barrier is not made (R358). -/
def State.arriveAt (s : State) (a : Acc) (k : Signal) : State :=
  match k with
  | .slot key pos =>
    let b := s.barrier key
    let s := if s.barrierGranted a.asid (key / 32 * 16) (key % 32) then s.setBarrier key (b.arrive pos) else s
    s.deliver a (toBytes 8 b.phase.toNat) false
  | .engine key core =>
    let b := s.barrier key
    if !s.barrierGranted a.asid core (key % 32) then s
    else if b.arrived &&& engineBit core ≠ 0 then
      s.setBarrier key { b with held := put b.held (core % 16) (get 0 b.held (core % 16) + 1) }
    else s.setBarrier key (b.arrive (engineBit core))

/-- `barr` (R226): the arrival is a release at .cl (R125), after the thread's earlier accesses; later ones need not follow it. -/
def execBarr (h : Hdr) (d a : Opnd) (res : Bool) (s : State) : Host.Outcome State Fault Refusal :=
  native (.barr h d a res) (fun s =>
    s.onBarrier a fun n key =>
      let b := s.barrier key
      let me := slotBit s.th.core s.th.slot
      if b.members &&& me = 0 then .trap (.of .prot (word n))
      else
        s.afterArrivals key <|
          if b.arrived &&& me ≠ 0 then .park s (.arrive key b.phase)
          else .done (State.sendArrival (s.openOut [.reg d] (.word d) 1) (.thread s.cur) s.th.asid s.next (.slot key me) key 2)) s

/-- `bwait` (R226). -/
def execBwait (h : Hdr) (a : Opnd) (res : Bool) (s : State) : Host.Outcome State Fault Refusal :=
  native (.bwait h a res) (fun s =>
    s.onBarrier a fun _ key =>
      s.afterArrivals key <|
        let b := s.barrier key
        let me := slotBit s.th.core s.th.slot
        if b.members &&& me ≠ 0 ∧ b.arrived &&& me = 0 then .done s
        else .done (s.setTh { s.th with park := .barrier key b.phase, parkedAt := s.now })) s

/-- A chunk of what a barrier still misses (R226). -/
def Barrier.chunk (b : Barrier) (k : Nat) : Word :=
  let m := b.members &&& ~~~b.arrived
  if k < 8 then m.extractLsb' (64 * k) 64 else if k = 8 then (m.extractLsb' 512 16).setWidth 64 else 0

/-- `bmiss` (R226). -/
def execBmiss (h : Hdr) (d a b : Opnd) (res : Bool) (s : State) : Host.Outcome State Fault Refusal :=
  native (.bmiss h d a b res) (fun s =>
    s.onBarrier a fun _ key =>
      s.afterArrivals key (.done (s.later [.reg d] [.reg d ((s.barrier key).chunk (s.arg b).toNat)]))) s

/-- Every member of a descriptor belongs to the context (R225). -/
def State.membersOwned (s : State) (core : Nat) (m : BitVec 528) : Bool :=
  let c := s.ctx s.th.asid
  (List.range 528).all fun i =>
    !m.getLsbD i ||
      if i < 512 then c.coreset.contains (core / 16 * 16 + i / 32) && bit c.slotmask (i % 32)
      else c.coreset.contains (core / 16 * 16 + (i - 512))

/-- The barrier of a `bcfg`: that of the cluster that the thread was on at issue (R225), which stays with the instruction while a
nomadic thread moves to the descriptor's home (R33). -/
def State.cfgBarrier (s : State) (a : Opnd) (go : Nat → Res) : Res :=
  match s.th.kept with
  | [k] => go k.toNat
  | _ => s.onBarrier a fun _ key => go key

/-- `bcfg` (R225). -/
def execBcfg (h : Hdr) (a b : Opnd) (res : Bool) (s : State) : Host.Outcome State Fault Refusal :=
  native (.bcfg h a b res) (fun s =>
    s.cfgBarrier a fun key =>
      let va := s.arg b
      s.afterArrivals key <| (s.setTh { s.th with kept := [word key] }).descriptor va 16 80 fun s bs =>
        let m : BitVec 528 := BitVec.ofNat 528 (fromBytes (bs.take 66))
        if !s.membersOwned (key / 32 * 16) m then .trap (.of .prot va)
        else
          let x := s.barrier key
          let x := { x with members := m, arrived := x.arrived &&& m }
          .done ((s.setBarrier key (Barrier.complete x.fuel x)).later [] [])) s

/-! ### Nomads -/

/-- `migrate` (R34, R227). -/
def execMigrate (h : Hdr) (a : Opnd) (res : Bool) (s : State) : Host.Outcome State Fault Refusal :=
  native (.migrate h a res) (fun s =>
    let c := (s.reg a).toNat
    if !s.th.nomad then .trap (.of .slotState 2)
    else if Config.cores s.part ≤ c ∨ !s.inSet s.th.asid c then .trap (.of .prot (s.reg a))
    else if slotsOf (s.core c).mode ≤ s.th.slot then .trap (.of .slotState 2)
    else if c ≠ s.th.core ∧ s.th.exl then .trap (.of .slotState 2)
    else if !s.drained s.cur then .park s .drain
    else if c = s.th.core then .done s
    else
      let s := s.depart c
      .done (s.setTh { s.th with park := .moving c, parkedAt := s.now })) s

/-- The thread holds a slot, a tile or a scale register. -/
def Core.holdsUnits (k : Core) (uid : Nat) : Bool :=
  ((List.range 8).any fun n => (k.slot n).owner == some uid || (k.tile n).owner == some uid) ||
    (List.range 64).any fun n => (k.scale n).owner == some uid

/-- A destination that a nomadic thread does not have (R32). -/
def Dst.nomadLoses : Dst → Bool
  | .reg r => !r.shared && decide (16 ≤ r.n.toNat)
  | .vec _ => true
  | _ => false

/-- `nomad` (R32, R227). -/
def execNomad (h : Hdr) (res : Bool) (s : State) : Host.Outcome State Fault Refusal :=
  native (.nomad h res) (fun s =>
    if res then .done (s.setTh { s.th with nomad := false })
    else if s.th.nomad then .done s
    else if s.myCore.holdsUnits s.cur then .trap (.of .slotState 2)
    else
      .done (s.setTh { s.th with
        nomad := true, x := s.th.x.filter fun e => e.1 < 16, xPoison := s.th.xPoison.filter (· < 16), v := [], vPoison := [],
        vshape := 0x4001, vact := 0x4001,
        outst := s.th.outst.map fun o => { o with dead := o.dead ++ o.dsts.filter Dst.nomadLoses } })) s

/-- KIND and UNIT of a home (R227); none for the control-and-status window, for which the spec states neither, and for a cluster's
network interface, which no address has. -/
def homeKind : Home → Option (Nat × Nat)
  | .bank c _ => some (0, c)
  | .slice c => some (1, c)
  | .agent n => some (2, n)
  | .lpddr n => some (3, n)
  | .cxl n => some (4, n)
  | .peer n => some (5, n)
  | .csr _ => none
  | .net _ => none

/-- The word of `homeq` (R227). -/
def State.homeWord (s : State) (h : Home) : Word :=
  match homeKind h with
  | none => BitVec.ofNat 64 (Config.freeNat s.free)
  | some (k, u) =>
    let mig := match homeCore h with
      | some c => c != s.th.core && s.inSet s.th.asid c && decide (s.th.slot < slotsOf (s.core c).mode)
      | none => false
    word (u * 2 ^ 16 + (if mig then 2 ^ 5 else 0) + (if homeCore h = some s.th.core then 2 ^ 4 else 0) + k)

/-- `homeq` (R227). -/
def execHomeq (h : Hdr) (d a : Opnd) (res : Bool) (s : State) : Host.Outcome State Fault Refusal :=
  native (.homeq h d a res) (fun s =>
    let va := s.arg a
    if !canonical va then .trap (.of .prot va)
    else
      match s.translate s.who va kRead with
      | .error t =>
        if t.cause = .unitAbsent then .done (s.later [.reg d] [.reg d (s.homeWord (.cxl 0))]) else .trap t
      | .ok t =>
        .done ((s.remember s.who va kRead t).later [.reg d] [.reg d (s.homeWord (s.homeOf t.pa t.attr))])) s

end Sys2Proof.Machine
end

