-- ==== Sys2Proof/Machine/Engine.lean ====
section
/-! DEFINITION. Engine commands: descriptors and the send queue (R228, R229), transfers (R83, R230, R231), shadow
regions (R127, R232), and the posting of Geyser work (R233). What engines do after issue is shared by the events. -/

namespace Sys2Proof.Machine

/-! ### Descriptors -/

/-- The 8-byte word `i` of a descriptor. -/
def dword (bs : List Byte) (i : Nat) : Word := word (fromBytes ((bs.drop (8 * i)).take 8))

/-- A command waits, at issue, for the fences that bind stores (R122). -/
def State.fencedStore (s : State) (go : Res) : Res :=
  match s.fenced false true with
  | [] => go
  | l => .park s (.ids l)

/-- Read a command's descriptor in the local window, after the thread's earlier accesses to its banks (R228). -/
def State.localDescriptor (s : State) (va : Word) (len : Nat) (go : State → List Byte → Res) : Res :=
  let v := va.toNat
  let core := s.th.core
  let b1 := v / 0x20000
  let b2 := (v + len - 1) / 0x20000
  let pa := scratch core v
  if v % 16 ≠ 0 then .trap (.of .align va)
  else if 0x200000 < v + len then .trap (.of .prot va)
  else if !(s.ownsBank s.th.asid b1 && s.ownsBank s.th.asid b2) then .trap (.of .prot va)
  else
    match s.mustWait (.bank core b1) pa len, s.mustWait (.bank core b2) pa len with
    | some p, _ => .park s p
    | none, some p => .park s p
    | none, none =>
      if s.isPoisoned pa len then .trap (.of .poison 0)
      else go (s.touch (.bank core b1) va pa len) (s.bytes pa len)

/-- A reserved bit of word `i` of a descriptor is not zero: PROT at that word (R228). -/
def reservedWord (va : Word) (i : Nat) (bad : Bool) : Except Trap Unit :=
  if bad then .error (.of .prot (va + word (8 * i))) else .ok ()

/-- A word `v`, or a record, that an engine will write: checked as a store (R229), a word of the control-and-status window by the
rules of its register too (R13, R335). `w` is the word of the instruction. -/
def State.checkDone (s : State) (a : Word) (n : Nat) (plain : Bool) (v w : Word) : Except Trap Unit :=
  if a = 0 then .ok ()
  else
    match s.check s.who a n kWrite with
    | .error t => .error t
    | .ok t =>
      if s.csrBad t.pa n plain then .error (.of .prot a)
      else
        match s.csrFault t.pa v w with
        | some c => .error c
        | none => .ok ()

/-- Make checks in order: the first that fails counts. -/
def firstError : List (Except Trap Unit) → Except Trap Unit
  | [] => .ok ()
  | .error t :: _ => .error t
  | .ok _ :: r => firstError r

/-- CREC's record address. -/
def recAddr (crec : Word) : Word := crec &&& ~~~0xF

/-- The completion block at word `i` of a descriptor of the instruction with word `w` (R229). -/
def State.completionChecks (s : State) (va : Word) (bs : List Byte) (i : Nat) (w : Word) : List (Except Trap Unit) :=
  [s.checkDone (dword bs i) 8 (!bit (dword bs (i + 2)) 0) (dword bs (i + 1)) w,
    reservedWord va (i + 2) (bits (dword bs (i + 2)) 3 1 != 0), s.checkDone (recAddr (dword bs (i + 2))) 16 true 0 w]

/-- Checks of ranges wait for what their walks follow (R377): address, length and access kind of each. -/
def State.afterWalks (s : State) (l : List (Word × Nat × Nat)) (go : Res) : Res :=
  match l.flatMap fun r => s.walksAfter r.1 r.2.1 r.2.2 with
  | [] => go
  | ids => .park s (.ids ids)

/-- The words of a completion block that are walked for. -/
def completionWalks (bs : List Byte) (i : Nat) : List (Word × Nat × Nat) :=
  [(dword bs i, 8, kWrite), (recAddr (dword bs (i + 2)), 16, kWrite)].filter fun r => r.1 != 0

/-- Accesses of the thread that issues which order those after them, an engine's included, until they have been performed
(R119). -/
def State.acquiring (s : State) : List Need := ((s.pending (.thread s.cur)).filter (·.acq)).map fun a => (a.id, 6)

/-- A command enters the send queue with a result that returns later; the thread that finds the queue full parks until
its command has a place (R228). A `publish` and a `cmsg` are releases (R125, R127). -/
def State.post (s : State) (dsts : List Dst) (kind : CmdKind) (sco : BitVec 3) (caddr cval crec : Word) (len : Nat) : State :=
  let earlier := match kind with
    | .publish _ _ => s.releaseIds sco.toNat
    | .message _ _ _ _ _ => s.releaseIds sco.toNat
    | _ => s.earlierIds s.cur true true sco.toNat ++ s.acquiring
  let full := decide (64 ≤ s.queued (queueKey s.th.cc s.th.core))
  let o := s.next
  let s := s.openOut dsts (.done []) 1
  let c : Cmd :=
    { id := s.next, uid := s.cur, out := o, core := queueKey s.th.cc s.th.core, asid := s.th.asid, cls := s.th.cls, kind := kind,
      scope := sco.toNat, caddr := caddr, cval := cval, crec := crec, earlier := earlier, accepted := false, since := 0,
      pages := [], status := 0, trunc := false, len := len, conn := 0, leader := none, joined := [], got := [], lost := 0,
      ended := false, stage := 0, order := 0, reading := false }
  let s := { s with cmds := s.cmds ++ [c], next := s.next + 1 }
  if full then s.setTh { s.th with park := .sendQueue, parkedAt := s.now } else s

/-! ### Transfers -/

/-- Bits of an element of a format code (R71); a raw element is a byte. -/
def elemBits (f : Nat) : Nat := ((Ty.ofFmt f).getD .e8m0).width

/-- The bytes of `n` elements of a format code; for a Cinder code the range of R230. -/
def spanOf (f n : Nat) : Nat := if f = 8 ∨ f = 9 then 1044 * ((n + 1023) / 1024) else (n * elemBits f + 7) / 8

/-- A transfer between two formats copies its bytes (R83). -/
def plainCopy (sf df : Nat) : Bool := sf == 0 || df == 0 || sf == df

/-- A raw side takes the size of the other side's elements. -/
def sizeFmt (f other : Nat) : Nat := if f = 0 then other else f

/-- The elements `[e0, e1)` converted, as bytes; an odd last E2M1 element leaves a nibble (R70, R83). `src` holds the
source bytes from element `e0` on. Between different codes every element is converted, of one plain format too, so that a NaN
becomes the format's own (R75). -/
def convertSpan (fr sf df n : Nat) (src : List Byte) : List Byte :=
  let p := slotPlain sf
  let d := slotPlain df
  let els := if sf = 8 ∨ sf = 9 then ((decodeTensor fr src (sf == 9) ((n + 1023) / 1024)).1).take n
    else (List.range n).map (plainElem p (setList 0 [] 0 src))
  let els := (convertAll ((Ty.ofFmt p).getD .e8m0) ((Ty.ofFmt d).getD .e8m0) els).1
  if df = 8 ∨ df = 9 then encodeTensor (df == 9) els
  else packElems d (if d = 6 ∧ els.length % 2 = 1 then els ++ [0] else els)

/-- The payload bytes of a whole transfer. -/
def transferBytes (fr sf df len : Nat) (src : List Byte) : List Byte :=
  if plainCopy sf df then src.take (spanOf (sizeFmt sf df) len) else convertSpan fr sf df len src

/-- The last byte written is half a byte: an odd number of E2M1 elements, converted. -/
def oddNibble (sf df len : Nat) : Bool := df == 6 && !plainCopy sf df && len % 2 == 1

/-- Key of the translation of a page: its number and the side (0 source, 1 destination, 2 completion word, 3 record). -/
def pageKey (va : Word) (side : Nat) : Nat := va.toNat / 0x10000 * 4 + side

/-- The machine address and leaf that a list of translations gives an address. -/
def pageAt (pages : Sparse (Nat × Word)) (va : Word) (side : Nat) : Nat × Word :=
  let p := get (0, 0) pages (pageKey va side)
  (p.1 + va.toNat % 0x10000, p.2)

/-- The translation of an address that a command made at acceptance: machine address, as the tables give it for what engines
write as payload and as it is visible then for the rest (R127, R377), and leaf. -/
def Cmd.page (c : Cmd) (va : Word) (side : Nat) : Nat × Word := pageAt c.pages va side

/-- Machine address of a destination byte as the tables give it, with its leaf: in the scratchpad of a named core for a
multicast. -/
def Cmd.dstAt (c : Cmd) (core : Option Nat) (va : Word) : Nat × Word :=
  match core with
  | some k => (scratch k va.toNat, 0)
  | none => c.page va 1

/-- The first addresses of the 64 KiB pages that a range meets. -/
def pagesOf (va : Word) (len : Nat) : List Word :=
  if len = 0 then []
  else (List.range ((va.toNat % 0x10000 + len + 0xFFFF) / 0x10000)).map fun i => word (va.toNat / 0x10000 * 0x10000 + 0x10000 * i)

/-- The 16-byte units that a range of addresses meets, cut at their bounds: offset and length of each piece. -/
def cut16 (va : Word) (len : Nat) : List (Nat × Nat) :=
  if len = 0 then []
  else
    let lo := va.toNat % 16
    (List.range ((lo + len + 15) / 16)).map fun i =>
      let a := 16 * i - lo
      let b := min (16 * i + 16 - lo) len
      (a, b - a)

/-- The pieces in which an engine writes a range: the 16-byte units that it covers whole, and single bytes elsewhere (R105). -/
def cutWrites (va : Word) (len : Nat) : List (Nat × Nat) :=
  (cut16 va len).flatMap fun p => if p.2 = 16 then [p] else (List.range p.2).map fun i => (p.1 + i, 1)

/-- The agent that acts for a command. -/
def Cmd.agent (c : Cmd) : Owner :=
  match c.kind with
  | .npost _ _ _ _ _ _ _ => .geyser
  | .nrecv _ _ _ _ _ _ => .geyser
  | _ => .engine c.core

/-- The engine command with a number. -/
def State.cmd? (s : State) (id : Nat) : Option Cmd := s.cmds.find? fun c => c.id == id

/-- Change an engine command. -/
def State.onCmd (s : State) (id : Nat) (f : Cmd → Cmd) : State :=
  { s with cmds := s.cmds.map fun c => if c.id == id then f c else c }

/-- The region of a context that a frame belongs to, with the page's number (R127). -/
def State.regionOf (s : State) (frame : Nat) : Option (Nat × Nat × Nat) :=
  s.ctxs.findSome? fun e => e.2.regions.findSome? fun r =>
    (r.2.orig.findIdx? (· == frame)).map fun i => (e.1, r.1, i)

/-- The frame that an engine write to a frame of the tables goes to: the shadow frame of a shadowed page, taken from
the sinter pool at the first write; none when the pool is empty (R127, R383). -/
def State.engineFrame (s : State) (asid frame : Nat) : State × Option Nat :=
  match s.regionOf frame with
  | none => (s, some (s.visible (frame * 0x10000) / 0x10000))
  | some (a, r, i) =>
    let reg := get ⟨0, 0, [], []⟩ (s.ctx a).regions r
    if has reg.frames i then (s, some (get 0 reg.frames i))
    else
      match s.pool with
      | [] => (s.pageRequest 0 0 3 asid 0, none)
      | f :: rest =>
        (State.onCtx { s with pool := rest } a fun c => { c with
          regions := put c.regions r { reg with frames := put reg.frames i f } }, some f)

/-- Where an engine write to an address of the tables goes now; none when its page has no shadow frame yet (R127). -/
def State.engineAddr (s : State) (pa : Nat) : Option Nat :=
  match s.regionOf (pa / 0x10000) with
  | none => some (s.visible pa)
  | some (a, r, i) =>
    let reg := get ⟨0, 0, [], []⟩ (s.ctx a).regions r
    if has reg.frames i then some (get 0 reg.frames i * 0x10000 + pa % 0x10000) else none

/-- An engine write waits for a flip: a `publish` of its region, accepted before its command, is still to be made (R127,
R232). What an RMA write of a peer places was accepted when it arrived: `cmd` is then 0, and it waits for those accepted
before access `id`. -/
def State.waitsFlip (s : State) (pa cmd id : Nat) : Bool :=
  match s.regionOf (pa / 0x10000) with
  | none => false
  | some (asid, r, _) =>
    (s.cmds.takeWhile fun c => c.id != cmd).any fun c =>
      c.accepted && c.asid == asid && (cmd != 0 || decide (c.order ≤ id)) && match c.kind with
        | .publish q _ => q == r
        | _ => false

/-- Where a payload write of an engine goes: a page of a shadow region that has no shadow frame yet takes one with the first write
that is sent to it, so that the write reaches the home of the frame that it will be made to (R113, R127); one that waits for a
flip takes its frame afterwards. -/
def State.depositTo (s : State) (asid pa cmd id : Nat) : State × Nat :=
  match s.engineAddr pa with
  | some q => (s, q)
  | none =>
    if s.pool.isEmpty || s.waitsFlip pa cmd id then (s, s.visible pa)
    else
      let e := s.engineFrame asid (pa / 0x10000)
      (e.1, ((e.2.map fun f => f * 0x10000 + pa % 0x10000).getD (s.visible pa)))

/-- A payload write on its way to an address of the tables (R126). -/
def State.deposit (s : State) (o : Owner) (asid out cmd : Nat) (va : Word) (p : Nat × Word) (bs : List Byte)
    (bad nib : Bool) : State :=
  let e := s.depositTo asid p.1 cmd s.next
  e.1.issueAcc (e.1.newAcc o asid out 0 (e.1.homeOf e.2 p.2) va p.1 bs.length (.deposit cmd bs p.2 bad nib))

/-- Shadow regions have changed: payload writes on their way go to the homes of the frames that they will now be made to. -/
def State.rehomeDeposits (s : State) : State :=
  forEach (fun (a : Acc) s => match a.op with
    | .deposit c _ leaf _ _ =>
      let e := State.depositTo s a.asid a.pa c a.id
      { e.1 with accs := e.1.accs.map fun b => if b.id == a.id then { b with home := e.1.homeOf e.2 leaf } else b }
    | _ => s) s.accs s

/-- A read on its way of a piece of a source, at the machine address that the translation gave. -/
def State.readPiece (s : State) (o : Owner) (asid cmd : Nat) (va : Word) (p : Nat × Word) (off n : Nat) : State :=
  s.issueAcc (s.newAcc o asid cmd off (s.homeOf p.1 p.2) va p.1 n (.payload cmd))

/-! ### What an engine has read -/

/-- Two byte ranges, by offset and length, meet. -/
def meets (p q : Nat × Nat) : Bool := decide (p.1 < q.1 + q.2) && decide (q.1 < p.1 + p.2)

/-- The bytes read of a source, from an offset on. -/
def gotBytes (got : List Piece) (off n : Nat) : List Byte :=
  (List.range n).map fun i =>
    match got.find? fun g => decide (g.1 ≤ off + i) && decide (off + i < g.1 + g.2.1.length) with
    | some g => g.2.1.getD (off + i - g.1) 0
    | none => 0

/-- A range of a source held uncorrectable data. -/
def gotBad (got : List Piece) (p : Nat × Nat) : Bool := got.any fun g => g.2.2 && meets (g.1, g.2.1.length) p

/-- Every piece of a source that a range of it meets has been read. -/
def gotAll (got : List Piece) (pieces : List (Nat × Nat)) (p : Nat × Nat) : Bool :=
  pieces.all fun q => !meets q p || got.any fun g => g.1 == q.1

/-- A transfer from or to a Cinder code with a conversion: its bytes have no fixed places (R81, R83). -/
def wholly (sf df : Nat) : Bool := !plainCopy sf df && (sf == 8 || sf == 9 || df == 8 || df == 9)

/-- The elements that a byte range of a plain destination holds, from an even one on, so that no E2M1 pair is split. -/
def elemSpan (df len : Nat) (p : Nat × Nat) : Nat × Nat :=
  (p.1 * 8 / elemBits df / 2 * 2, min len ((p.1 * 8 + 8 * p.2 + elemBits df - 1) / elemBits df))

/-- The source bytes that a byte range of the destination needs: offset and length. -/
def sourceSpan (sf df len : Nat) (p : Nat × Nat) : Nat × Nat :=
  if plainCopy sf df then p
  else if wholly sf df then (0, spanOf sf len)
  else
    let e := elemSpan df len p
    (e.1 * elemBits sf / 8, (e.2 * elemBits sf + 7) / 8 - e.1 * elemBits sf / 8)

/-- The writes of one destination of a transfer: offset, bytes, and whether only a nibble of the byte is written. -/
def destPieces (va : Word) (sf df len bytes : Nat) : List (Nat × Nat × Bool) :=
  if oddNibble sf df len then ((cutWrites va (bytes - 1)).map fun p => (p.1, p.2, false)) ++ [(bytes - 1, 1, true)]
  else (cutWrites va bytes).map fun p => (p.1, p.2, false)

/-- Where `n` blocks of a Cinder source end that begin at a position. -/
def blocksEnd (fr : Nat) (bs : List Byte) (e5 : Bool) (n pos : Nat) : Nat :=
  (List.range n).foldl (fun p _ => (decodeBlock fr bs e5 p).2.2) pos

/-- The source bytes of a group of 1,024 elements held uncorrectable data. -/
def groupBad (fr sf : Nat) (got : List Piece) (src : List Byte) (g : Nat) : Bool :=
  if sf = 8 ∨ sf = 9 then
    let pos := fromBytes ((src.drop (4 * g)).take 4)
    gotBad got (4 * g, 4) || gotBad got (pos, blocksEnd fr src (sf == 9) 16 pos - pos)
  else gotBad got (g * 128 * elemBits sf, 128 * elemBits sf)

/-- The groups of 1,024 elements, of `n`, that the bytes of a piece of a destination come from: in a Cinder stream an index
word comes from the groups before its own (R81). -/
def pieceGroups (df n len : Nat) (bs : List Byte) (p : Nat × Nat) : List Nat :=
  let index := fun (i : Nat) => if i < n then fromBytes ((bs.drop (4 * i)).take 4) else bs.length
  (List.range n).filter fun i =>
    if df = 8 ∨ df = 9 then
      meets (index i, index (i + 1) - index i) p || decide (max (i + 1) (p.1 / 4) < min n ((p.1 + p.2 + 3) / 4))
    else
      let e := elemSpan df len p
      meets (e.1, e.2 - e.1) (1024 * i, 1024)

/-- The bytes of a piece of the destination of a transfer, and whether their source held uncorrectable data. `all` has all
bytes of a transfer that is converted whole. -/
def pieceOf (fr : Nat) (got : List Piece) (sf df len : Nat) (src all : List Byte) (p : Nat × Nat) : List Byte × Bool :=
  let sp := sourceSpan sf df len p
  if wholly sf df then
    ((all.drop p.1).take p.2, (pieceGroups df ((len + 1023) / 1024) len all p).any (groupBad fr sf got src))
  else if plainCopy sf df then (gotBytes got p.1 p.2, gotBad got sp)
  else
    let e := elemSpan df len p
    (((convertSpan fr sf df (e.2 - e.1) (gotBytes got sp.1 sp.2)).drop (p.1 - e.1 * elemBits df / 8)).take p.2, gotBad got sp)

/-- The bytes of the source of a transfer. -/
def sourceBytes (len sf : Nat) (dfs : List (Nat × Option Nat)) : Nat :=
  (dfs.map fun d => spanOf (sizeFmt sf d.1) len).foldl max 0

/-- Send the writes of one destination of a command that a piece of the source, just read, completes. -/
def State.sendDest (s : State) (c : Cmd) (got : List Piece) (new : Nat × Nat) (d : Nat × Option Nat) : State :=
  match c.kind with
  | .xfer src dst len sf dfs _ =>
    let pieces := cut16 src (sourceBytes len sf dfs)
    let whole := wholly sf d.1 && gotAll got pieces (0, spanOf sf len)
    let raw := if whole then gotBytes got 0 (spanOf sf len) else []
    let all := if whole then transferBytes s.free sf d.1 len raw else []
    let n := if wholly sf d.1 then all.length else spanOf (sizeFmt d.1 sf) len
    forEach (fun (p : Nat × Nat × Bool) s =>
      let sp := sourceSpan sf d.1 len (p.1, p.2.1)
      if meets sp new && gotAll got pieces sp then
        let b := pieceOf s.free got sf d.1 len raw all (p.1, p.2.1)
        s.deposit c.agent c.asid c.id c.id (dst + word p.1) (c.dstAt d.2 (dst + word p.1)) b.1 b.2 p.2.2
      else s) (destPieces dst sf d.1 len n) s
  | _ => s

/-- The destinations of a transfer. -/
def Cmd.dests (c : Cmd) : List (Nat × Option Nat) :=
  match c.kind with
  | .xfer _ _ _ _ dfs _ => dfs
  | _ => []

/-- A piece of the source of a transfer has been read, for the command and those merged with it (R230, R231): the writes
that it completes are sent, and operations whose source held uncorrectable data end with POISON (R229). -/
def State.doPayload (s : State) (a : Acc) (id : Nat) : State :=
  match s.cmd? id with
  | none => s
  | some c =>
    let piece : Piece := (a.off, s.loadBytes a, s.isPoisoned a.pa a.size)
    let got := c.got ++ [piece]
    let mine := fun (x : Cmd) => x.id == id || x.leader == some id
    let read := fun (x : Cmd) => { x with got := got, status := if piece.2.2 && x.status == 0 then 1 else x.status }
    let q := { s with cmds := s.cmds.map fun x => if mine x then read x else x }
    forEach (fun (x : Cmd) s => forEach (fun d s => State.sendDest s x got (a.off, a.size) d) x.dests s)
      (q.cmds.filter fun x => mine x && !x.ended) q

/-- A piece of a source has been read: of a packet of a Geyser message (R320), or of a transfer. -/
def State.readFor (s : State) (a : Acc) (id : Nat) : State :=
  if s.reqs.any fun r => r.cmd == id then
    let piece : Piece := (a.off, s.loadBytes a, s.isPoisoned a.pa a.size)
    let s := { s with reqs := s.reqs.map fun (r : WorkReq) =>
      if r.cmd == id then { r with pkts := r.pkts.map fun p =>
        if p.index == a.off / 4096 then { p with got := p.got ++ [piece] } else p } else r }
    if piece.2.2 then s.onCmd id fun c => { c with status := if c.status == 0 then 1 else c.status } else s
  else s.doPayload a id

/-! ### Shadow regions -/

/-- The 16-byte units of a written range hold uncorrectable data (R229). -/
def State.poisonUnits (s : State) (pa n : Nat) : State :=
  let us := (List.range ((pa + n + 15) / 16 - pa / 16)).map (· + pa / 16)
  { s with poisoned := s.poisoned ++ (us.filter fun u => !s.poisoned.contains u) }

/-- A payload write is performed (R126, R127); without a frame it is abandoned, and its operation ends with PAGE_ABSENT
(R383). -/
def State.doDeposit (s : State) (a : Acc) (id : Nat) (bs : List Byte) (leaf : Word) (bad nib : Bool) : State :=
  let e := s.engineFrame a.asid (a.pa / 0x10000)
  match e.2 with
  | none =>
    let s := e.1.onCmd id fun c => { c with status := 4, lost := c.lost + bs.length }
    { s with placing := s.placing.map fun (p : Placed) => if p.id == a.out then { p with failed := true } else p }
  | some f =>
    let pa := f * 0x10000 + a.pa % 0x10000
    let bs := if nib then [(e.1.byte pa).extractLsb' 4 4 ++ (bs.headD 0).extractLsb' 0 4] else bs
    let s := e.1.storeAt (e.1.homeOf pa leaf) a.src pa bs
    if bad then s.poisonUnits pa bs.length else s

/-- The frames that the translations of engine operations refer to: those of what they read, and of their completion
words (R127, R377). -/
def State.engineFrames (s : State) : List Nat :=
  let bases := fun (l : Sparse (Nat × Word)) => (l.filter fun p => p.1 % 2 == 0).map fun p => p.2.1 / 0x10000
  (s.cmds.flatMap fun c => bases c.pages) ++ s.reqs.flatMap fun r => match r.answer with
    | some w => bases w.pages
    | none => []

/-- Give frames back to the sinter pool to which no translation refers any longer: zero and full, which counts in the root as
often as the spec leaves open (R127, R383, R406, log 42). -/
def State.settlePool (s : State) : State :=
  if s.leaving.isEmpty then s
  else
    let used := s.engineFrames
    let busy := fun (f : Nat) =>
      used.contains f || (s.accs ++ s.waiters ++ s.resq ++ s.overflow).any fun a => a.pa / 0x10000 == f
    let back := s.leaving.filter fun f => !busy f
    let s := { s with leaving := s.leaving.filter busy }
    forEach (fun f (s : State) =>
      let s := (s.scrub (f * 0x10000) 0x10000).countN 0 0x060 (Config.freeNat (s.free + f))
      if s.retired.contains f then s else { s with pool := s.pool ++ [f] }) back s

/-- Close a shadow region (R232). -/
def State.closeRegion (s : State) (asid r : Nat) : State :=
  let reg := get ⟨0, 0, [], []⟩ (s.ctx asid).regions r
  let s := s.onCtx asid fun c => { c with regions := del c.regions r }
  (State.settlePool { s with leaving := s.leaving ++ reg.frames.map (·.2) }).rehomeDeposits

/-- The frames that the tables give the pages of a range, when all lie in HBM; else the address that does not. -/
def State.regionFrames (s : State) : Nat → Word → Except Trap (List Nat)
  | 0, _ => .ok []
  | n + 1, va =>
    match s.translate s.who va kWrite with
    | .error t => .error t
    | .ok t =>
      if local? s.who va ∨ s.kindOf t.pa ≠ some .hbm then .error (.of .prot va)
      else
        match s.regionFrames n (va + 0x10000) with
        | .error t => .error t
        | .ok l => .ok (t.raw / 0x10000 :: l)

/-- Two ranges overlap. -/
def overlaps (a n b m : Nat) : Bool := decide (a < b + m) && decide (b < a + n)

/-- `shadow` (R232). -/
def execShadow (h : Hdr) (d a b : Opnd) (m : MB) (s : State) : Host.Outcome State Fault Refusal :=
  native (.shadow h d a b m) (fun s =>
    let va := s.arg a
    let n := (s.arg b).toNat
    let asid := s.th.asid
    if n = 0 then
      match s.myCtx.regions.find? fun r => r.2.base == va with
      | none => .done (s.later [.reg d] [.reg d allOnes])
      | some r => .done ((s.closeRegion asid r.1).later [.reg d] [.reg d (word r.1)])
    else if va.toNat % 0x10000 ≠ 0 ∨ n % 0x10000 ≠ 0 then .trap (.of .align va)
    else
      s.afterWalks [(va, n, kWrite)] <|
        match s.checkRange s.who va n kWrite with
        | .error t => .trap t
        | .ok _ =>
          let s := s.rememberAll s.who kWrite (pagesOf va n)
          match s.regionFrames (n / 0x10000) va with
          | .error t => .trap t
          | .ok fs =>
            if s.myCtx.regions.any fun r => overlaps va.toNat n r.2.base.toNat (r.2.pages * 0x10000) then
              .trap (.of .prot va)
            else
              match (List.range 64).find? fun i => !has s.myCtx.regions i with
              | none => .done (s.later [.reg d] [.reg d allOnes])
              | some i =>
                let s := s.onCtx asid fun c => { c with regions := put c.regions i ⟨va, n / 0x10000, fs, []⟩ }
                .done (s.rehomeDeposits.later [.reg d] [.reg d (word i)])) s

/-- `publish` (R127, R232): its result returns after the flip. -/
def execPublish (h : Hdr) (d a : Opnd) (m : MB) (s : State) : Host.Outcome State Fault Refusal :=
  native (.publish h d a m) (fun s =>
    s.fencedStore <|
      let r := bits (s.reg a) 5 0
      if !has s.myCtx.regions r then .trap (.of .prot (s.reg a))
      else .done (s.post [.reg d] (.publish r d) m.sco 0 0 0 0)) s

/-- The cores that a multicast names (R231). -/
def State.namedCores (s : State) (mask : Word) : List Nat :=
  ((List.range 16).filter (bit mask ·)).map (· + s.th.core / 16 * 16)

/-- The destinations of a transfer: format and core of each. -/
def State.xferDsts (s : State) (dst mask : Word) (m : MB) : List (Nat × Option Nat) :=
  if m.mc then
    (s.namedCores mask).map fun c => ((get 0 (s.core c).bfmt (dst.toNat % 0x200000 / 0x20000)).toNat, some c)
  else [(s.memFmt dst m.df, none)]

/-- The destination range of a multicast (R231): in the local window, on cores of the core set, in owned banks. -/
def State.mcChecks (s : State) (dst mask : Word) (n : Nat) : Except Trap Unit :=
  if 0x200000 < dst.toNat + n then .error (.of .prot dst)
  else if (s.namedCores mask).any fun c => !s.inSet s.th.asid c then .error (.of .prot mask)
  else if n = 0 ∨ s.namedCores mask = [] then .ok ()
  else s.checkRange ⟨s.th.asid, s.th.core, false⟩ dst n kWrite

/-- The barrier word of a transfer (R230): grant and membership of the core's engine. -/
def State.barChecks (s : State) (va w : Word) : List (Except Trap Unit) :=
  let n := bits w 4 0
  [reservedWord va 3 (bits w 63 8 != 0 || bits w 6 5 != 0 || (!bit w 7 && n != 0)),
    if !bit w 7 then .ok ()
    else if !s.barrierGranted s.th.asid s.th.core n then .error (.of .prot (word n))
    else if (s.barrier (barrierKey s.th.core n)).members &&& engineBit s.th.core = 0 then .error (.of .prot (word n))
    else .ok ()]

/-- `xfer` (R230, R231): a Cinder code without the codec raises UNIT_ABSENT, whichever side it comes from (R13). -/
def execXfer (h : Hdr) (a b : Opnd) (m : MB) (s : State) : Host.Outcome State Fault Refusal :=
  native (.xfer h a b m) (fun s =>
    s.fencedStore <|
      let va := s.reg a
      let mask := s.reg b
      s.localDescriptor va 56 fun s bs =>
        let src := dword bs 0
        let dst := dword bs 1
        let len := bits (dword bs 2) 31 0
        let sf := s.memFmt src m.sf
        let dfs := s.xferDsts dst mask m
        let ns := (dfs.map fun d => spanOf (sizeFmt sf d.1) len).foldl max (if dfs = [] then spanOf sf len else 0)
        let nd := (dfs.map fun d => spanOf (sizeFmt d.1 sf) len).foldl max 0
        let cinder := (sf :: dfs.map (·.1)).any fun f => f == 8 || f == 9
        s.afterWalks ([(src, ns, kRead)] ++ (if m.mc then [] else [(dst, nd, kWrite)]) ++ completionWalks bs 4) <|
        let checks := [if cinder && !Config.cinder s.part then .error (.of .unitAbsent (Instr.xfer h a b m).word) else .ok (),
            s.checkRange s.who src ns kRead,
            if m.mc then s.mcChecks dst mask nd else s.checkRange s.who dst nd kWrite true,
            reservedWord va 2 (bits (dword bs 2) 63 32 != 0)] ++
          s.barChecks va (dword bs 3) ++ s.completionChecks va bs 4 (Instr.xfer h a b m).word
        match firstError checks with
        | .error t => .trap t
        | .ok _ =>
          let bar := if bit (dword bs 3) 7 then some (bits (dword bs 3) 4 0) else none
          .done (s.post [] (.xfer src dst len sf dfs bar) m.sco (dword bs 4) (dword bs 5) (dword bs 6) len)) s

/-! ### Geyser posting -/

/-- The connection that a descriptor's CONN names: an entry of KIND 5 with CONN (R233, R409). -/
def State.connOf (s : State) (i : Nat) : Option Nat :=
  let e := get (0, 0) s.myCtx.caps i
  if i < 1024 ∧ capKind e = 5 ∧ (capRights e).testBit 3 then some (bits e.2 15 0) else none

/-- The object of the remote window that RWIN names (R409). -/
def State.winOf (s : State) (i : Nat) (op : Nat) : Option Nat :=
  let e := get (0, 0) s.myCtx.caps i
  if i < 1024 ∧ capKind e = 6 ∧ (capRights e).testBit (if op = 2 then 1 else 0) then some (bits e.1 63 32) else none

/-- PROT at X(A) unless a name is held. -/
def needName (va : Word) (o : Option Nat) : Except Trap Unit :=
  match o with
  | some _ => .ok ()
  | none => .error (.of .prot va)

/-- `npost` (R233). -/
def execNpost (h : Hdr) (a : Opnd) (m : MB) (s : State) : Host.Outcome State Fault Refusal :=
  native (.npost h a m) (fun s =>
    s.fencedStore <|
      let va := s.reg a
      s.localDescriptor va 64 fun s bs =>
        let w := dword bs 0
        let op := bits w 7 0
        let len := bits (dword bs 2) 31 0
        let conn := s.connOf (bits w 31 16)
        let win := s.winOf (dword bs 4).toNat op
        let k := if op = 3 then kWrite else kRead
        s.afterWalks ((dword bs 1, len, k) :: completionWalks bs 5) <|
        let buf := s.checkRange s.who (dword bs 1) len k true
        let checks := [reservedWord va 0 (decide (3 < op) || bits w 63 32 != 0), needName va conn,
            buf, reservedWord va 2 (bits (dword bs 2) 63 32 != 0),
            if 2 ≤ op then needName va win else .ok ()] ++ s.completionChecks va bs 5 (Instr.npost h a m).word
        match firstError checks with
        | .error t => .trap t
        | .ok _ =>
          .done (s.post [] (.npost op (bits w 15 8) (conn.getD 0) (dword bs 1) len (dword bs 3) (win.getD 0)) m.sco
            (dword bs 5) (dword bs 6) (dword bs 7) len)) s

/-- A receive buffer is posted, or waits for one to complete (R233). -/
def State.postRecv (s : State) (bs : List Byte) (conn : Nat) (sco : BitVec 3) : Res :=
  let w := dword bs 0
  let len := bits (dword bs 2) 31 0
  if s.available s.th.asid (·.nrecv) ≤ s.postedBufs s.th.asid then
    .park (s.setTh { s.th with trace := [.got bs false], kept := [word conn] }) .recvBuffers
  else
    .done (State.post (s.setTh { s.th with kept := [] }) []
      (.nrecv (bit w 0) (if bits w 31 16 = 0xFFFF then none else some conn) (dword bs 1) len (dword bs 3) (dword bs 4)) sco
      (dword bs 5) (dword bs 6) (dword bs 7) len)

/-- `nrecv` (R233). The descriptor is read and checked in the issue turn; a command that waits keeps it (R228). -/
def execNrecv (h : Hdr) (a : Opnd) (m : MB) (s : State) : Host.Outcome State Fault Refusal :=
  native (.nrecv h a m) (fun s =>
    s.fencedStore <|
      match s.th.trace, s.th.kept with
      | [.got bs _], [conn] => s.postRecv bs conn.toNat m.sco
      | _, _ =>
        let va := s.reg a
        s.localDescriptor va 64 fun s bs =>
          let w := dword bs 0
          let len := bits (dword bs 2) 31 0
          let any := bits w 31 16 == 0xFFFF
          let conn := s.connOf (bits w 31 16)
          s.afterWalks ((dword bs 1, len, kWrite) :: completionWalks bs 5) <|
          let checks := [reservedWord va 0 (bits w 63 32 != 0 || bits w 15 1 != 0), if any then .ok () else needName va conn,
              s.checkRange s.who (dword bs 1) len kWrite true, reservedWord va 2 (bits (dword bs 2) 63 32 != 0)] ++
            s.completionChecks va bs 5 (Instr.nrecv h a m).word
          match firstError checks with
          | .error t => .trap t
          | .ok _ => s.postRecv bs (conn.getD 0) m.sco) s

end Sys2Proof.Machine
end

