-- ==== Sys2Proof/Machine/Launch.lean ====
section
/-! DEFINITION. Launches (R38 to R43, R235, R310 to R315, R397, R398, R401): reading a record, choosing an image,
admission and binding; and thread messages (R236, R410). -/

namespace Sys2Proof.Machine

/-! ### Reading a launch record -/

/-- How reading for a launch can fail: a status of R41, or a NESTED failure of an ancestor's tables. -/
inductive LaunchFail where
  | status (n : Nat)
  | nested (t : Trap)
  deriving DecidableEq, Repr

/-- Bytes that the launch unit reads through the context's tables: BADREC where the context cannot read them itself
(R313). -/
def State.launchRead (s : State) (w : Who) (va : Word) (n : Nat) : Except LaunchFail (List Byte) :=
  match s.checkRange w va n kRead with
  | .error t => if t.cause = .nested then .error (.nested t) else .error (.status 3)
  | .ok _ => .ok (s.readRange w kRead n va)

/-- The narrowest scope of a domain (R38). -/
def narrowest (domain : Nat) : Nat := 5 - domain

/-- A level word (R312): none when a zero field is not zero or a code is reserved. -/
def levelOf (w : Word) : Option Level :=
  if 5 < bits w 2 0 ∨ bit w 3 ∨ bits w 6 4 = 7 ∨ bits w 15 7 ≠ 0 ∨ bits w 63 42 ≠ 0 ∨ (bits w 2 0 ≠ 0 ∧ bits w 41 32 ≠ 0) then
    none
  else some ⟨bits w 2 0, bits w 6 4, bits w 31 16 + 1, bits w 41 32⟩

/-- The levels keep R38: each domain smaller than the one above, no scope narrower than its domain's; in a CC record
only module, core and slot. -/
def levelsOk (cc : Bool) : Option Nat → List Level → Bool
  | _, [] => true
  | prev, l :: r =>
    (match prev with
     | none => true
     | some p => decide (p < l.domain)) && decide (narrowest l.domain ≤ l.scope) &&
      (!cc || l.domain == 1 || l.domain == 4 || l.domain == 5) && levelsOk cc (some l.domain) r

/-- A launch record (R311): class, CC, code object, entry index, levels. -/
structure Record where
  cls : Nat
  cc : Bool
  uco : Word
  entry : Nat
  levels : List Level
  deriving DecidableEq, Repr

/-- The first `n` of a list of options, all present. -/
def allSome {α : Type} : List (Option α) → Option (List α)
  | [] => some []
  | none :: _ => none
  | some a :: r => (allSome r).map (a :: ·)

/-- Read a record's 128 bytes; none is BADREC (R313). -/
def recordOf (bs : List Byte) : Option Record :=
  let w0 := dword bs 0
  let n := bits w0 3 0
  if n = 0 ∨ 8 < n ∨ bits w0 63 7 ≠ 0 ∨ bits (dword bs 2) 63 16 ≠ 0 then none
  else if (List.range 5).any fun i => dword bs (3 + i) != 0 then none
  else if (List.range (8 - n)).any fun i => dword bs (8 + n + i) != 0 then none
  else
    match allSome ((List.range n).map fun i => levelOf (dword bs (8 + i))) with
    | none => none
    | some ls =>
      if levelsOk (bit w0 6) none ls then some ⟨bits w0 5 4, bit w0 6, dword bs 1, bits (dword bs 2) 15 0, ls⟩ else none

/-! ### Image selection -/

/-- An entry of an image's table (R310). -/
def entryOf (uco : Word) (bs : List Byte) : Entry :=
  let w := dword bs 1
  ⟨if dword bs 0 = 0 then 0 else uco + dword bs 0, bits w 6 0, bit w 7, bits w 15 8, bits w 19 16, bits w 23 20,
    bits w 30 24, bit w 31, bits w 35 32, bits w 39 36, bits w 46 40, (dword bs 2).setWidth 16, dword bs 3⟩

/-- How many units of a level's domain one instance of the level above holds (R314). -/
def capacity (p : Part) (cc : Bool) (above : Option Nat) (l : Level) : Nat :=
  let dies := Config.cores p / 160
  match l.domain with
  | 0 => 1024 - l.peerBase
  | 1 => 1
  | 2 => dies
  | 3 => if above = some 2 then 10 else 10 * dies
  | 4 => if cc then 128 else if above = some 3 then 16 else if above = some 2 then 160 else 160 * dies
  | _ => 65536

/-- Every level's count fits within one instance of the level above. -/
def countsFit (p : Part) (cc : Bool) : Option Nat → List Level → Bool
  | _, [] => true
  | above, l :: r => decide (l.count ≤ capacity p cc above l) && countsFit p cc (some l.domain) r

/-- The count of the slot level, 1 without one. -/
def slotCount (ls : List Level) : Nat :=
  match ls.getLast? with
  | some l => if l.domain = 5 then l.count else 1
  | none => 1

/-- The acceptable modes of an entry for a record (R314). -/
def modesFor (cls n : Nat) (e : Entry) : List Nat :=
  if cls = 0 then if n = 1 then [0, 1, 2].filter fun m => decide (e.xregs ≤ regsOf m) else []
  else [0, 1, 2].filter fun m =>
    decide (e.xregs ≤ regsOf m) && decide (n < if e.vec then vecSlots m else slotsOf m)

/-- An entry sets a bank to a Cinder code, which requires the codec (R13, R302). -/
def Entry.needsCinder (e : Entry) : Bool :=
  (List.range 16).any fun b => e.bset.getLsbD b && (bits e.bval (4 * b + 3) (4 * b) == 8 || bits e.bval (4 * b + 3) (4 * b) == 9)

/-- An entry fits the device (R314): its acceptable modes, none when it does not fit. A CC entry has one notional mode; of class
0 it runs in slot 0 alone, as any launch of that class does. -/
def State.fits (s : State) (r : Record) (e : Entry) : Option (List Nat) :=
  let f := Config.feat s.part
  if e.text = 0 ∨ (if r.cc then 32 else 64) < e.xregs ∨ 8 < e.oslots ∨ 8 < e.tiles ∨ 64 < e.zregs ∨ 32 < e.bars ∨
      e.units &&& bits f 3 0 ≠ e.units ∨ (e.needsCinder ∧ !Config.cinder s.part) ∨
      Config.vrows s.part < e.vrows ∨ Config.vlanes s.part < e.vlanes ∨
      !countsFit s.part r.cc none r.levels then none
  else if r.cc then if (if r.cls = 0 then 1 else 4) < slotCount r.levels then none else some [0]
  else
    match modesFor r.cls (slotCount r.levels) e with
    | [] => none
    | ms => some ms

/-- An image of the image table (R310): KIND, MAJOR, MINOR, NENTRY, ENTOFF. -/
structure Image where
  kind : Nat
  major : Nat
  minor : Nat
  nentry : Nat
  entoff : Word
  deriving DecidableEq, Repr

/-- An image table entry. -/
def imageOf (bs : List Byte) : Image :=
  ⟨(bs.getD 0 0).toNat, (bs.getD 1 0).toNat, (bs.getD 2 0).toNat, fromBytes ((bs.drop 4).take 2), dword bs 1⟩

/-- The image is of the record's kind. -/
def Image.suits (i : Image) (cc : Bool) : Bool := if cc then i.kind == 2 else decide (i.kind ≤ 1)

/-- The generic image of its kind. -/
def Image.generic (i : Image) : Bool := i.kind == 1 || (i.kind == 2 && i.major == 0 && i.minor == 0)

/-- The images in the order in which they are tried (R315). -/
def imageOrder (major minor : Nat) (l : List Image) : List Image :=
  let mine := l.filter fun i => !i.generic && i.major == major
  (mine.filter fun i => i.minor == minor) ++
    ((List.range minor).reverse.flatMap fun m => mine.filter fun i => i.minor == m) ++ l.filter Image.generic

/-- The address of a record's entry in an image's table (R310). -/
def Record.entryAt (r : Record) (i : Image) : Word := r.uco + i.entoff + word (32 * r.entry)

/-- Try images in order (R315): the bytes of the first entry that fits. -/
def State.pickImage (s : State) (w : Who) (r : Record) : List Image → Except LaunchFail (List Byte)
  | [] => .error (.status 2)
  | i :: rest =>
    if i.nentry ≤ r.entry then s.pickImage w r rest
    else
      match s.launchRead w (r.entryAt i) 32 with
      | .error f => .error f
      | .ok bs => if (s.fits r (entryOf r.uco bs)).isSome then .ok bs else s.pickImage w r rest

/-- The entries that this reads. -/
def State.entryRanges (s : State) (w : Who) (r : Record) : List Image → List (Word × Nat)
  | [] => []
  | i :: rest =>
    if i.nentry ≤ r.entry then s.entryRanges w r rest
    else
      (r.entryAt i, 32) :: match s.launchRead w (r.entryAt i) 32 with
        | .error _ => []
        | .ok bs => if (s.fits r (entryOf r.uco bs)).isSome then [] else s.entryRanges w r rest

/-- The bytes 55 53 41 4C 45 00 01 00 (R306). -/
def ucoMagic : List Byte := [0x55, 0x53, 0x41, 0x4C, 0x45, 0x00, 0x01, 0x00]

/-- The images of an object's table of a record's kind (R310). -/
def suitable (cc : Bool) (n : Nat) (tab : List Byte) : List Image :=
  ((List.range n).map fun i => imageOf ((tab.drop (32 * i)).take 32)).filter (·.suits cc)

/-- Those images in the order in which they are tried (R315). -/
def State.imagesOf (s : State) (cc : Bool) (n : Nat) (tab : List Byte) : List Image :=
  imageOrder (bits (Config.rev s.part) 23 16) (bits (Config.rev s.part) 15 8) (suitable cc n tab)

/-- The number of images that an object's header gives. -/
def imageCount (hd : List Byte) : Nat := fromBytes ((hd.drop 18).take 2)

/-- Choose the image of a record (R313, R315): the bytes of its entry. -/
def State.chooseEntry (s : State) (w : Who) (r : Record) : Except LaunchFail (List Byte) :=
  match s.launchRead w r.uco 64 with
  | .error f => .error f
  | .ok hd =>
    if hd.take 8 ≠ ucoMagic then .error (.status 3)
    else
      match s.launchRead w (r.uco + dword hd 4) (32 * imageCount hd) with
      | .error f => .error f
      | .ok tab =>
        if !((suitable r.cc (imageCount hd) tab).any fun i => decide (r.entry < i.nentry)) then .error (.status 3)
        else s.pickImage w r (s.imagesOf r.cc (imageCount hd) tab)

/-- A record from its bytes, with its effective class (R40). -/
def State.recordFor (s : State) (asid : Nat) (bs : List Byte) : Option Record :=
  (recordOf bs).map fun r => if r.cls = 0 ∧ !bit (s.ctx asid).slotmask 33 then { r with cls := 1 } else r

/-- What a launch of a record address reads, in its issue turn (R311): the bytes of the record and of the entry chosen. -/
def State.launchBytes (s : State) (w : Who) (xa : Word) : Except LaunchFail (List Byte × List Byte) :=
  if bits xa 5 4 ≠ 0 then .error (.status 3)
  else
    match s.launchRead w (xa &&& ~~~0x3F) 128 with
    | .error f => .error f
    | .ok bs =>
      match s.recordFor w.asid bs with
      | none => .error (.status 3)
      | some r => (s.chooseEntry w r).map fun e => (bs, e)

/-- What the bytes come to: the record, its entry and the acceptable modes. -/
def State.launchOf (s : State) (asid : Nat) (b : List Byte × List Byte) : Except LaunchFail (Record × Entry × List Nat) :=
  match s.recordFor asid b.1 with
  | none => .error (.status 3)
  | some r =>
    match s.fits r (entryOf r.uco b.2) with
    | none => .error (.status 2)
    | some ms => .ok (r, entryOf r.uco b.2, ms)

/-- What a launch of a record address comes to. -/
def State.readLaunch (s : State) (w : Who) (xa : Word) : Except LaunchFail (Record × Entry × List Nat) :=
  match s.launchBytes w xa with
  | .error f => .error f
  | .ok b => s.launchOf w.asid b

/-- The ranges that a launch of a record address reads. -/
def State.launchRanges (s : State) (w : Who) (xa : Word) : List (Word × Nat) :=
  let at_ := xa &&& ~~~0x3F
  if bits xa 5 4 ≠ 0 then []
  else
    (at_, 128) :: match s.launchRead w at_ 128 with
      | .error _ => []
      | .ok bs =>
        match s.recordFor w.asid bs with
        | none => []
        | some r =>
          (r.uco, 64) :: match s.launchRead w r.uco 64 with
            | .error _ => []
            | .ok hd =>
              if hd.take 8 ≠ ucoMagic then []
              else
                (r.uco + dword hd 4, 32 * imageCount hd) ::
                  match s.launchRead w (r.uco + dword hd 4) (32 * imageCount hd) with
                  | .error _ => []
                  | .ok tab => s.entryRanges w r (s.imagesOf r.cc (imageCount hd) tab)

/-- The 16-byte pieces of ranges of addresses. -/
def unitsIn (l : List (Word × Nat)) : List Word :=
  l.flatMap fun r => (cut16 r.1 r.2).map fun p => r.1 + word p.1

/-- The reads of a launch are counted (R406, R408). -/
def State.countLaunch (s : State) (w : Who) (xa : Word) : State :=
  forEach (fun (r : Word × Nat) s => s.countBulk w r.1 r.2 kRead) (s.launchRanges w xa) s

/-- Another agent holds a reservation on something that a launch reads, or on a node of its walk (R219). -/
def State.launchHeld (s : State) (o : Owner) (w : Who) (xa : Word) : Bool :=
  (unitsIn (s.launchRanges w xa)).any fun a => s.nodesHeld o w a kRead != [] || match s.translate w a kRead with
    | .ok t => s.reserved o t.pa 16
    | .error _ => false

/-- What the reads of a launch wait for: they follow the accesses of the thread that issues, and of those before it at its
egress points, to the homes that they and their walks go to, as its own loads would (R113, R118, R377), and reservations of
other agents (R219). -/
def State.launchWait (s : State) (xa : Word) : Option Park :=
  (unitsIn (s.launchRanges s.who xa)).findSome? fun a =>
    match s.walkAfter a kRead with
    | [] => (match s.translate s.who a kRead with
      | .ok t => s.mustWait (s.homeOf t.pa t.attr) t.pa 16
      | .error _ => none)
    | l => some (.ids l)

/-! ### The launch table -/

/-- An entry of the launch table that no uncompleted launch holds, nor one whose fast-path completion is still to come
(R235, R276): the search begins at the sequence number. -/
def Ctx.freeEntry (c : Ctx) : Option Nat :=
  ((List.range 4096).map fun i => (c.seq + i) % 4096).find? fun e =>
    !(c.launches.any fun l => bits l.handle 11 0 == e && (l.state != .completed || l.fast.isSome))

/-- A quota unit is free for a new launch: those on the overflow list come first (R41, R401). -/
def State.unitFree (s : State) (asid : Nat) : Bool :=
  let c := s.ctx asid
  decide (c.outstanding < s.available asid (·.lquota)) && c.overflow.all fun h =>
  match c.launch? h with
  | some l => l.quota
  | none => true

/-- Enter a launch in the table, under a new handle; `after` is what it follows as a release (R125). -/
def State.enterLaunch (s : State) (asid entry queue : Nat) (r : Record) (e : Entry) (modes : List Nat) (arg : Word)
    (host : Bool) (fast : Option (Word × Bool)) (after : List Need := []) : State × Word × Bool :=
  let c := s.ctx asid
  let h := word ((c.seq + 1) * 4096 + entry)
  let unit := s.unitFree asid
  let deferred := !unit && !host
  let l : Launch := ⟨h, queue, r.cls, r.cc, r.levels, e, modes, arg, if deferred then .deferred else .queued, 0, false, unit,
    none, host, [], [], fast, [], after, none⟩
  let s := s.onCtx asid fun c => { c with
    seq := c.seq + 1,
    launches := (c.launches.filter fun x => bits x.handle 11 0 != entry) ++ [l],
    overflow := if deferred then c.overflow ++ [h] else c.overflow }
  (if deferred then s.count asid 0x051 else s, h, deferred)

/-- Hold an entry of the table and a place in a queue for the launch that a bytecode of the thread that issues is about to make
(R275 step 2). Its handle is none that a launch has. -/
def State.holdEntry (s : State) (entry queue : Nat) : State :=
  let l : Launch := ⟨word entry, queue, 0, false, [], ⟨0, 0, false, 0, 0, 0, 0, false, 0, 0, 0, 0, 0⟩, [], word s.cur, .completed, 3,
    false, false, none, false, [], [], some (1, false), [], [], none⟩
  s.onCtx s.th.asid fun c => { c with launches := (c.launches.filter fun x => bits x.handle 11 0 != entry) ++ [l] }

/-- Give back what the thread that issues holds in the table (R275 step 3). -/
def State.dropHeld (s : State) : State :=
  s.onCtx s.th.asid fun c => { c with launches := c.launches.filter fun l => !(l.isHeld && l.arg == word s.cur) }

/-! ### Admission and binding -/

/-- Group cores by a key, in ascending order of the key. -/
def groupsBy (key : Nat → Nat) (cores : List Nat) : List (List Nat) :=
  (List.range 320).filterMap fun k =>
    match cores.filter fun c => key c == k with
    | [] => none
    | l => some l

/-- Move the element that satisfies a test to the front. -/
def toFront {α : Type} (p : α → Bool) (l : List α) : List α := l.filter p ++ l.filter fun a => !p a

/-- The slot numbers of a launch that are usable (R398): for class 0 slot 0 alone, while the context has the urgent class; a
launch that has been taken in as class 0 uses those of another class once that is revoked (R355, R359, log 77). -/
def State.usable (s : State) (asid : Nat) (l : Launch) : List Nat :=
  if l.cls = 0 ∧ (l.cc ∨ bit (s.ctx asid).slotmask 33) then [0]
  else if l.cc then [0, 1, 2, 3]
  else (List.range 32).filter fun n =>
    n != 0 && bit (s.ctx asid).slotmask n &&
      l.modes.any fun m => decide (n < if l.entry.vec then vecSlots m else slotsOf m)

/-- The cores that a launch may use, ascending. -/
def State.launchCores (s : State) (asid : Nat) (l : Launch) : List Nat :=
  if l.cc then List.range 128 else (List.range (Config.cores s.part)).filter fun c => (s.ctx asid).coreset.contains c

/-- An implied core (R398): the lowest whose bound slot is empty, else the one with the shortest run queue. -/
def State.impliedCore (s : State) (asid : Nat) (l : Launch) (cores : List Nat) (slot : Nat) : Option Nat :=
  match cores.find? fun c => (s.threadAt l.cc c slot).isNone with
  | some c => some c
  | none =>
    cores.foldl (fun (best : Option Nat) c =>
      let len := fun (k : Nat) => (get [] (s.ctx asid).runq (queueKey l.cc k)).length
      match best with
      | none => some c
      | some b => if len c < len b then some c else best) none

/-- A bound instance: its index at each level, core and slot. -/
abbrev Bound := List Nat × Nat × Nat

/-- Bind the levels from one instance on (R398). `cores` are those within it, `fixed` says that they are one core;
`pref` is the core and slot of a donor while every index so far is 0. None is an instance beyond what there is. -/
def State.bindFrom (s : State) (asid : Nat) (l : Launch) (slots : List Nat) :
    Option (Nat × Nat) → List Nat → Bool → List Level → Option (List Bound)
  | pref, cores, fixed, [] =>
    match slots with
    | [] => none
    | s0 :: _ =>
      let core := match pref with
        | some p => some p.1
        | none => if fixed then cores.head? else s.impliedCore asid l cores s0
      core.map fun c => [([], c, match pref with
        | some p => p.2
        | none => s0)]
  | pref, cores, fixed, lv :: r =>
    if lv.domain = 5 then
      match slots with
      | [] => none
      | s0 :: _ =>
        let core := match pref with
          | some p => some p.1
          | none => if fixed then cores.head? else s.impliedCore asid l cores s0
        let sl := match pref with
          | some p => toFront (· == p.2) slots
          | none => slots
        if sl.length < lv.count then none
        else core.map fun c => (List.range lv.count).map fun n => ([n], c, sl.getD n 0)
    else if lv.domain = 0 then
      let n := s.peer - lv.peerBase
      if s.peer < lv.peerBase ∨ lv.count ≤ n then some []
      else (s.bindFrom asid l slots (if n = 0 then pref else none) cores fixed r).map fun bs => bs.map fun b => (n :: b.1, b.2)
    else
      let groups := match lv.domain with
        | 1 => [cores]
        | 2 => groupsBy (· / 160) cores
        | 3 => groupsBy (· / 16) cores
        | _ => cores.map ([·])
      let groups := match pref with
        | some p => toFront (fun (g : List Nat) => g.contains p.1) groups
        | none => groups
      if groups.length < lv.count then none
      else
        (allSome ((List.range lv.count).map fun n =>
          (s.bindFrom asid l slots (if n = 0 then pref else none) (groups.getD n []) (lv.domain == 4) r).map fun bs =>
            bs.map fun (b : Bound) => ((n :: b.1, b.2) : Bound))).map List.flatten

/-- The indices of levels 4k to 4k + 3 (R39). -/
def packIndex (ix : List Nat) (k : Nat) : Word :=
  word ((List.range 4).foldl (fun v i => v + ix.getD (4 * k + i) 0 * 2 ^ (16 * i)) 0)

/-- Admit a launch (R397): every instance is bound and waits for its slot; one that cannot be bound completes as FAILED.
`donor` is the core and slot of a parent of the launch's kind that donates (R42). -/
def State.takeRecord (s : State) (asid : Nat) (h : Word) (donor : Option (Nat × Nat)) : State :=
  match (s.ctx asid).launch? h with
  | none => s
  | some l =>
    let slots := s.usable asid l
    let pref := match donor with
      | some p => if slots.contains p.2 ∧ (s.launchCores asid l).contains p.1 then some p else none
      | none => none
    let s := (s.count asid 0x050).onCtx asid fun c => { c with
      overflow := c.overflow.filter (· ≠ h),
      launches := modFirst (fun x => x.handle == h) (fun x => { x with state := .running, quota := true }) c.launches }
    match s.bindFrom asid l slots pref (s.launchCores asid l) false l.levels with
    | none => s.completeLaunch asid h 1
    | some bs =>
      let leaves := bs.map fun b => (⟨b.2.1, b.2.2, packIndex b.1 0, packIndex b.1 1, false, false⟩ : Leaf)
      let s := s.onCtx asid fun c => { c with
        launches := modFirst (fun x => x.handle == h) (fun x => { x with leaves := leaves }) c.launches,
        runq := (List.range leaves.length).foldl (fun q n =>
          let k := queueKey l.cc ((leaves.map (·.core)).getD n 0)
          put q k (get [] q k ++ [.leaf h n])) c.runq }
      if leaves = [] then s.completeLaunch asid h 0 else s

/-! ### Instructions -/

/-- The status that reading for a `launch` gave, or the bytes that it read: they stay with the instruction over a park (R311). -/
def State.keepLaunch (s : State) (r : Nat ⊕ (List Byte × List Byte)) : State :=
  match r with
  | .inl n => s.setTh { s.th with kept := [word n], trace := [] }
  | .inr b => s.setTh { s.th with kept := [0], trace := [.got b.1 false, .got b.2 false] }

/-- What a `launch` that goes on has read. -/
def Thread.launchKept (t : Thread) : Option (Nat ⊕ (List Byte × List Byte)) :=
  match t.kept, t.trace with
  | [_], [.got b _, .got c _] => some (.inr (b, c))
  | [n], [] => some (.inl n.toNat)
  | _, _ => none

/-- The handle and status that a `launch` gives. -/
def State.giveHandle (s : State) (d : Opnd) (hd : Word) (st : Nat) : Res :=
  .done (s.later (pairOf d true) [.reg d hd, .reg d.succ (word st)])

/-- A record that has been read is entered (R40, R235, R401): the launch, as a release at level 0's scope, is admitted only after
what came before it (R125). -/
def State.makeLaunch (s : State) (d : Opnd) (xa arg : Word) (x : Record × Entry × List Nat) : Res :=
  let q := bits xa 3 0
  if s.unitFree s.th.asid ∧ 256 ≤ s.myCtx.inQueue q then .park s (.launchQueue q)
  else
    match s.myCtx.freeEntry with
    | none => .park s .launchTable
    | some n =>
      let ids := s.releaseIds ((x.1.levels.map (·.scope)).headD 4)
      let e := s.enterLaunch s.th.asid n q x.1 x.2.1 x.2.2 arg false none ids
      e.1.giveHandle d e.2.1 (if e.2.2 then 1 else 0)

/-- A `launch` goes on from what it has read. -/
def State.launchFrom (s : State) (d : Opnd) (xa arg : Word) (r : Nat ⊕ (List Byte × List Byte)) : Res :=
  match r with
  | .inl n => s.giveHandle d 0 n
  | .inr b =>
    match s.launchOf s.th.asid b with
    | .ok x => s.makeLaunch d xa arg x
    | .error (.status n) => s.giveHandle d 0 n
    | .error (.nested t) => .trap t

/-- A `launch` has read: a seventeenth long instruction goes on once another result has returned (R23). -/
def State.launchRead? (s : State) (d : Opnd) (xa arg : Word) (r : Nat ⊕ (List Byte × List Byte)) : Res :=
  let q := (s.countLaunch s.who xa).keepLaunch r
  if 16 ≤ s.th.outst.length then .park q .room else q.launchFrom d xa arg r

/-- `launch` (R235, R41): a release at level 0's scope (R125). The launch unit reads the record in the issue turn, once (R311), as
the thread would (log 46). -/
def execLaunch (h : Hdr) (d a b : Opnd) (m : MB) (s : State) : Host.Outcome State Fault Refusal :=
  native (.launch h d a b m) (fun s =>
    let xa := s.arg a
    match s.th.launchKept with
    | some r => s.launchFrom d xa (s.arg b) r
    | none =>
      match s.launchWait xa with
      | some p => .park s p
      | none =>
        match s.launchBytes s.who xa with
        | .error (.nested t) => .trap t
        | .error (.status n) => s.launchRead? d xa (s.arg b) (.inl n)
        | .ok r => s.launchRead? d xa (s.arg b) (.inr r)) s

/-- The launch that a thread works for and that still holds its quota unit (R42). -/
def State.ownUnit (s : State) (uid : Nat) : Option Word :=
  match (s.thread uid).work with
  | .leaf h =>
    match (s.ctx (s.thread uid).asid).launch? h with
    | some l => if l.quota then some h else none
    | none => none
  | _ => none

/-- The thread waits for a launch, with a result that receives its status. -/
def State.awaitLaunch (s : State) (h : Word) (d : Opnd) : State :=
  let o := s.next
  let s := (s.openOut [.reg d] (.done []) 1).parkOwn
  s.onCtx s.th.asid fun c => { c with
    launches := modFirst (fun l => l.handle == h) (fun l => { l with waiters := l.waiters ++ [(s.cur, o, d)] }) c.launches }

/-- The first leaf of a launch starts in the slot that has just been donated to it, when it is bound to it (R42, R398). -/
def State.startDonated (s : State) (asid : Nat) (h : Word) (cc : Bool) (core slot : Nat) : State :=
  match ((s.ctx asid).launch? h).map (·.leaves) with
  | some (f :: _) =>
    if f.core = core ∧ f.slot = slot ∧ !f.started ∧ (s.threadAt cc core slot).isNone ∧ s.mayTake asid cc core slot (.leaf h 0) then
      s.take asid cc core slot (.leaf h 0)
    else s
  | _ => s

/-- A waiting thread leaves its slot, saved, to the launch that it waits for (R42): it donates its quota unit, when it holds
one, and the launch is admitted. A thread that works for no launch has no unit to give, and its slot goes to what waits (log 46). -/
def State.donate (s : State) (h : Word) (own : Option Word) : State :=
  let t := s.th
  let cc := match s.myCtx.launch? h with
    | some l => l.cc
    | none => false
  match own with
  | none => (s.vacate s.cur (.block t.core)).fill t.cc t.core t.slot
  | some own =>
    let s := s.onCtx t.asid fun c => { c with
      launches := c.launches.map fun l =>
        if l.handle == own then { l with quota := false }
        else if l.handle == h then { l with donor := some own.toNat } else l }
    let s := s.vacate s.cur (.block t.core)
    let s := s.takeRecord t.asid h (if cc = t.cc then some (t.core, t.slot) else none)
    let s := if cc = t.cc then s.startDonated t.asid h cc t.core t.slot else s
    s.fill t.cc t.core t.slot

/-- `lwait` (R235, R42). -/
def execLwait (h : Hdr) (d a : Opnd) (m : MB) (s : State) : Host.Outcome State Fault Refusal :=
  native (.lwait h d a m) (fun s =>
    let hd := s.arg a
    match s.myCtx.launch? hd with
    | none => .done (s.later [.reg d] [.reg d 3])
    | some l =>
      if l.state = .completed then .done (s.later [.reg d] [.reg d (word l.status)])
      else if l.state = .deferred ∧ !l.quota then
        if !s.allDone l.after then .park s (.ids l.after)
        else if s.drained s.cur then .done ((s.awaitLaunch hd d).donate hd (s.ownUnit s.cur)) else .park s .drain
      else .done (s.awaitLaunch hd d)) s

/-- The word of `lstat` (R235). -/
def lstatWord (l : Option Launch) : Word :=
  match l with
  | none => word (3 * 2 ^ 24 + 3)
  | some l =>
    match l.state with
    | .queued => 0
    | .deferred => 1
    | .running => 2
    | .completed => word (l.status * 2 ^ 24 + 3)

/-- `lstat` (R235). -/
def execLstat (h : Hdr) (d a : Opnd) (m : MB) (s : State) : Host.Outcome State Fault Refusal :=
  native (.lstat h d a m) (fun s => .done (s.later [.reg d] [.reg d (lstatWord (s.myCtx.launch? (s.arg a)))])) s

/-! ### Messages -/

/-- A gate of the issuer reaches a context (R410). -/
def Ctx.hasGate (c : Ctx) (asid : Nat) : Bool :=
  c.caps.any fun e => capKind e.2 == 7 && (capRights e.2).testBit 4 && bits e.2.2 11 0 == asid

/-- The live thread that has a number, or none inside for one that `tsave` has put into an image (R236, R342). -/
def State.mailbox (s : State) (asid thread : Nat) : Option (Option Nat) :=
  match s.named asid thread with
  | some u => some (some u)
  | none => if (s.ctx asid).imaged.contains thread then some none else none

/-- Deliver a message (R236): to the mailbox of a resident thread with room, behind what waits for it in the inbox,
else to the inbox. -/
def State.mailTo (s : State) (asid thread : Nat) (uid : Option Nat) (v sender : Word) : Option State :=
  let c := s.ctx asid
  let held : Option State :=
    if c.inbox.length < 256 then some (s.onCtx asid fun c => { c with inbox := c.inbox ++ [(thread, v, sender)] })
    else none
  match uid with
  | none => held
  | some u =>
    if (s.thread u).inSlot ∧ s.runs asid ∧ (s.thread u).mail.length < 4 ∧ !(c.inbox.any fun m => m.1 == thread) then
      some (s.onThread u fun t => { t with mail := t.mail ++ [(v, sender)] })
    else held

/-- `cmsg` (R236, R410): a message waits in the core's send queue (R228), from which it goes, as a release at .mo (R125), to its
target. A sender that finds the target's inbox full parks before it sends; one that fills meanwhile holds the message in the
queue (log 29). -/
def execCmsg (h : Hdr) (d a b : Opnd) (m : MB) (s : State) : Host.Outcome State Fault Refusal :=
  native (.cmsg h d a b m) (fun s =>
    let xa := s.arg a
    let tgt := if bits xa 27 16 = 0 then s.th.asid else bits xa 27 16
    let sender := word (s.th.asid * 2 ^ 16 + s.th.thread)
    if tgt ≠ s.th.asid ∧ !s.myCtx.hasGate tgt then .trap (.of .prot xa)
    else
      match s.mailbox tgt (bits xa 15 0) with
      | none => .done (s.post [.reg d] (.message tgt (bits xa 15 0) (s.arg b) sender d) 4 0 0 0 0)
      | some u =>
        if (s.mailTo tgt (bits xa 15 0) u (s.arg b) sender).isNone then .park s (.inbox tgt)
        else .done (s.post [.reg d] (.message tgt (bits xa 15 0) (s.arg b) sender d) 4 0 0 0 0)) s

/-- `mrecv` (R236). -/
def execMrecv (h : Hdr) (d a : Opnd) (m : MB) (s : State) : Host.Outcome State Fault Refusal :=
  native (.mrecv h d a m) (fun s =>
    match s.th.mail with
    | x :: r =>
      let s := s.setTh { s.th with mail := r }
      .done (s.later (pairOf d true) [.reg d x.1, .reg d.succ x.2])
    | [] =>
      if bit (s.arg a) 0 then .done (s.later (pairOf d true) [.reg d 0, .reg d.succ allOnes])
      else .park s .mail) s

end Sys2Proof.Machine
end

