-- ==== Sys2Proof/Machine/Steps.lean ====
section
/-! DEFINITION. Group 0xC: neighbour-paced execution (R237 to R257): membership, edges, beacons and markers, the ends
and advances of steps, cuts. -/

namespace Sys2Proof.Machine

/-! ### Edges and messages -/

/-- A core's neighbours, each once, in the order of its lists. -/
def StepState.neighbours (n : StepState) : List Nat :=
  ((n.preds.filter fun e => !e.left).map (·.core) ++ (n.succs.filter fun e => !e.left).map (·.core)).eraseDups

/-- Change the neighbour-paced state of a core. -/
def State.onStep (s : State) (core : Nat) (f : StepState → StepState) : State :=
  s.onCore core fun k => { k with nb := f k.nb }

/-- The edges that lead to other members: the core, its membership, and the edge as the core there numbers it. -/
def StepState.edges (n : StepState) : List (Nat × Nat × Nat) :=
  ((n.preds.filter fun e => !e.left).map fun e => (e.core, e.epoch, 2 * e.peer + 1)) ++
    (n.succs.filter fun e => !e.left).map fun e => (e.core, e.epoch, 2 * e.peer)

/-- Send a beacon or marker along every edge (R239, R249). -/
def State.sendAll (s : State) (core : Nat) (m : Beacon) : State :=
  let me := (s.core core).nb.epoch
  forEach (fun (d : Nat × Nat × Nat) s =>
    { s with beacons := s.beacons ++ [⟨s.next, core, d.1, d.2.2, me, d.2.1, m⟩], next := s.next + 1 }) (s.core core).nb.edges s

/-- Cores in their pairing wait that name a core as a neighbour: each has still to compare with it (R252). -/
def State.comparing (s : State) (core : Nat) : List Nat :=
  (s.cores.filter fun e => e.1 != core && e.2.nb.pairing.isSome && e.2.nb.asid == (s.core core).nb.asid &&
    e.2.nb.neighbours.contains core).map Prod.fst

/-- The core is a member of a group of the context (R246 reason 1). -/
def State.isMember (s : State) (core asid : Nat) : Bool := (s.core core).nb.active && (s.core core).nb.asid == asid

/-- A STEP_CFG trap with a reason (R246). -/
def stepCfg (reason : Nat) : Trap := .of .stepCfg (word reason)

/-- Participating slots per step (R240). -/
def StepState.slots (n : StepState) : Nat := if n.nt = 0 then 32 else n.nt

/-- A slot arrives at the end of the step, and the last one finishes it (R241). -/
def State.arriveStep (s : State) (core slot : Nat) : State :=
  let k := s.core core
  if k.step = k.stepDone ∨ k.nb.arrived.contains slot then s
  else if k.nb.arrived.length + 1 < k.nb.slots then s.onStep core fun n => { n with arrived := n.arrived ++ [slot] }
  else
    let s := s.onCore core fun k => { k with stepDone := k.step, nb := { k.nb with arrived := [] } }
    s.sendAll core (.done k.step)

/-- The conditions of R242 for a core between steps. -/
def Core.mayAdvance (k : Core) : Bool :=
  let s := k.step
  k.nb.active && s == k.stepDone &&
    (k.nb.preds.all fun e => e.loose || e.left || geMod e.pd s) &&
    (k.nb.succs.all fun e => e.left || geMod e.sd (s + 1 - word e.d + word e.h)) &&
    !(k.nb.cutPend && k.nb.cutStep == s)

/-- A thread waits in `stepend`. -/
def Thread.inStepend (t : Thread) : Bool := t.outst.any fun o => o.fin == .step

/-- The register that a result is for. -/
def Outst.dreg (o : Outst) : Opnd :=
  match o.dsts with
  | .reg r :: _ => r
  | _ => Opnd.zero

/-- A core begins its next step, and the threads parked in `stepend` wake with the new STEP (R242, R253). -/
def State.advanceStep (s : State) (core : Nat) : State :=
  let asid := (s.core core).nb.asid
  let v := (s.core core).step + 1
  let s := s.onCore core fun k => { k with step := v }
  { s with threads := s.threads.map fun e =>
      if !e.2.cc && e.2.asid == asid && e.2.core == core && e.2.inStepend then
        (e.1, { e.2 with outst := e.2.outst.map fun o =>
          if o.fin == .step then { o with need := 0, fin := .done [.reg o.dreg v] } else o })
      else e }

/-- A wait of `stepend`, `ldstep` or `stepcfg` is abandoned: the thread stands at its instruction again (R247, R252). -/
def Thread.abandon (t : Thread) (out : Option Nat) : Thread :=
  match out with
  | none => { t with park := .run, kept := [], held := none, buf := [] }
  | some o => { t with
      outst := t.outst.filter fun r => r.id != o, pc := t.pc - 8, park := .run, kept := [], held := none, buf := [] }

/-- The result of a thread's `stepend`. -/
def Thread.stependOut (t : Thread) : Option Nat := (t.outst.find? fun o => o.fin == .step).map (·.id)

/-- The thread waits in `ldstep`. -/
def Thread.inLdstep (t : Thread) : Bool :=
  match t.park with
  | .edge _ _ => true
  | _ => false

/-- A core leaves its group (R252, R248): its cut ends, its neighbours receive a leaving beacon, and its threads parked
in `stepend` or `ldstep` raise STEP_CFG 1. What cores in their pairing wait have still to compare with stays for them. -/
def State.leaveGroup (s : State) (core : Nat) : State :=
  let asid := (s.core core).nb.asid
  let late := s.comparing core
  let s := s.sendAll core .leaving
  let s := s.onStep core fun n =>
    if n.active && !late.isEmpty then
      { StepState.new with
        wdog := n.wdog, epoch := n.epoch, asid := n.asid, group := n.group, start := n.start, preds := n.preds, succs := n.succs,
        owed := late }
    else { StepState.new with wdog := n.wdog }
  forEach (fun (e : Nat × Thread) s =>
    if !e.2.cc && e.2.asid == asid && e.2.core == core && (e.2.inStepend || e.2.inLdstep) then
      (s.onThread e.1 (·.abandon e.2.stependOut)).raise e.1 (stepCfg 1) true
    else s) s.threads s

/-! ### Cuts -/

/-- A core adds to a cut's counter, as a release at .mo (R249). -/
def State.addCounter (s : State) (core pa : Nat) (h : Home) (v : Word) : State :=
  s.issueAcc { s.newAcc (.engine core) (s.core core).nb.asid 0 0 h 0 pa 8 (.atom 0 v 0) with rel := true, sco := 4 }

/-- A core receives a cut (R249). -/
def State.receiveCut (s : State) (core : Nat) (counter : Word) (pa : Nat) (h : Home) (k : Word) : State :=
  let c := s.core core
  if c.nb.cutPend ∧ c.nb.cutPa = pa then s
  else if c.nb.cutPend then s.addCounter core pa h 0x100000001
  else
    let s :=
      if geMod k c.step then
        s.onStep core fun n => { n with
          cutPend := true, cutHeld := false, cutWord := counter, cutPa := pa, cutHome := some h, cutStep := k }
      else s.addCounter core pa h 0x100000001
    s.sendAll core (.cut counter pa h k)

/-- A core releases the cut that is pending at it, and forwards the release (R249, R257). -/
def State.releaseCut (s : State) (core : Nat) : State :=
  let pa := (s.core core).nb.cutPa
  (s.onStep core fun n => { n with cutPend := false, cutHeld := false }).sendAll core (.release pa)

/-! ### `stepcfg` -/

/-- A predecessor entry (R252). -/
def predOf (a : Word) : Pred := ⟨bits a 8 0, bits a 18 16, 0, bit a 24, 0, 1, 0, 0, 0, false⟩

/-- A successor entry. -/
def succOf (a b : Word) : Succ :=
  ⟨bits a 8 0, bits a 18 16, 0, bits a 27 24, bits a 31 28, bits a 63 32, bits b 20 0, 0, false⟩

/-- A successor entry whose fields are in range. -/
def Succ.ok (e : Succ) : Bool :=
  decide (1 ≤ e.d) && decide (e.d ≤ 8) && decide (e.h < e.d) && decide (16 ≤ e.slotsz) && decide (e.slotsz ≤ 65536) &&
    e.slotsz % 16 == 0

/-- A descriptor of `stepcfg` after its header. -/
structure StepDesc where
  group : Nat
  nt : Nat
  wdog : Nat
  start : Word
  preds : List Pred
  succs : List Succ
  bad : Bool
  deriving DecidableEq, Repr

/-- Read a descriptor: `bad` says that a field is out of range or a reserved bit set (R246 reason 2). -/
def stepDesc (bs : List Byte) : StepDesc :=
  let w := dword bs 0
  let np := bits w 35 32
  let ns := bits w 39 36
  let pw := (List.range np).map fun i => (dword bs (2 + 2 * i), dword bs (3 + 2 * i))
  let sw := (List.range ns).map fun i => (dword bs (2 + 2 * (np + i)), dword bs (3 + 2 * (np + i)))
  let badP := fun (e : Word × Word) => bits e.1 15 9 != 0 || bits e.1 23 19 != 0 || bits e.1 63 25 != 0 || e.2 != 0
  let badS := fun (e : Word × Word) => bits e.1 15 9 != 0 || bits e.1 23 19 != 0 || bits e.2 63 21 != 0 || !(succOf e.1 e.2).ok
  ⟨bits w 31 0, bits w 44 40, bits w 51 48, dword bs 1, pw.map fun e => predOf e.1, sw.map fun e => succOf e.1 e.2,
    bits w 31 0 == 0 || bits w 47 45 != 0 || bits w 63 52 != 0 || pw.any badP || sw.any badS⟩

/-- Slot numbers of a context on a core. -/
def State.slotCountOn (s : State) (asid core : Nat) : Nat :=
  ((List.range (slotsOf (s.core core).mode)).filter fun n => bit (s.ctx asid).slotmask n).length

/-- Every bank that a range of the local window touches is the context's. -/
def State.banksOwned (s : State) (asid off n : Nat) : Bool :=
  (List.range ((off + n + 0x1FFFF) / 0x20000 - off / 0x20000)).all fun i => s.ownsBank asid (off / 0x20000 + i)

/-- A list of cores names one that it may not (R246 reason 3). -/
def State.badCores (s : State) (asid core : Nat) (l : List Nat) : Bool :=
  l.eraseDups.length != l.length ||
    l.any fun c => decide (Config.cores s.part ≤ c) || c == core || !s.inSet asid c

/-- The checks of reasons 1 to 4 (R246), in order. -/
def State.stepReason (s : State) (core asid : Nat) (d : StepDesc) : Option Nat :=
  let n := (s.core core).nb
  if n.active || n.pairing.isSome then some 1
  else if d.bad || decide (s.slotCountOn asid core < if d.nt = 0 then 32 else d.nt) then some 2
  else if s.badCores asid core (d.preds.map (·.core)) || s.badCores asid core (d.succs.map (·.core)) then some 3
  else if d.succs.any fun e => e.ring % 16 != 0 || decide (0x200000 < e.ring + e.d * e.slotsz) ||
      !s.banksOwned asid e.ring (e.d * e.slotsz) then some 4
  else none

/-- A core has executed `stepcfg` for a neighbour to compare with (R252). -/
def State.hasPaired (s : State) (asid core me : Nat) : Bool :=
  let n := (s.core core).nb
  n.asid == asid && (n.active || n.pairing.isSome || n.owed.contains me)

/-- Every neighbour that a pairing core names has executed `stepcfg`. -/
def State.mayPair (s : State) (core : Nat) : Bool :=
  let n := (s.core core).nb
  n.pairing.isSome && n.neighbours.all fun c => s.hasPaired n.asid c core

/-- Compare the entry of predecessor edge `i` with the producer's (R252). -/
def comparePred (me : StepState) (core i : Nat) (e : Pred) (p : StepState) : Nat :=
  if p.group ≠ me.group then 3
  else
    match p.succs[e.peer]? with
    | none => 1
    | some f => if f.core ≠ core ∨ f.peer ≠ i then 1 else if p.start ≠ me.start then 2 else if e.loose ∧ f.d = 1 then 4 else 0

/-- Compare the entry of successor edge `i` with the consumer's. -/
def compareSucc (me : StepState) (core i : Nat) (e : Succ) (c : StepState) : Nat :=
  if c.group ≠ me.group then 3
  else
    match c.preds[e.peer]? with
    | none => 1
    | some f => if f.core ≠ core ∨ f.peer ≠ i then 1 else if c.start ≠ me.start then 2 else if f.loose ∧ e.d = 1 then 4 else 0

/-- The result of a pairing: 0, or the first failing edge (R252). -/
def State.pairResult (s : State) (core : Nat) : Nat :=
  let n := (s.core core).nb
  let ps := (List.range n.preds.length).map fun i =>
    match n.preds[i]? with
    | some e => (comparePred n core i e (s.core e.core).nb, i * 2 ^ 8)
    | none => (0, 0)
  let ss := (List.range n.succs.length).map fun i =>
    match n.succs[i]? with
    | some e => (compareSucc n core i e (s.core e.core).nb, i * 2 ^ 8 + 2 ^ 11)
    | none => (0, 0)
  match (ps ++ ss).find? fun r => r.1 != 0 with
  | none => 0
  | some r => r.1 + r.2

/-- The ring parameters that a predecessor edge copies from its producer, and the membership of the producer that it is of. -/
def Pred.joined (e : Pred) (start : Word) (p : StepState) : Pred :=
  match p.succs[e.peer]? with
  | some f => { e with epoch := p.epoch, pd := start - 1, d := f.d, h := f.h, slotsz := f.slotsz, ring := f.ring }
  | none => { e with epoch := p.epoch, pd := start - 1 }

/-- The pairing of a core ends (R252): it joins, or it does not and keeps what other cores still compare with. -/
def State.pair (s : State) (core : Nat) : State :=
  let n := (s.core core).nb
  match n.pairing with
  | none => s
  | some (u, o, d, wdog) =>
    let r := s.pairResult core
    let late := s.comparing core
    let s :=
      if r = 0 then
        s.onCore core fun k => { k with
          step := n.start, stepDone := n.start - 1,
          nb := { n with
            active := true, wdog := wdog, pairing := none, owed := [], arrived := [], cutPend := false, cutHeld := false,
            preds := n.preds.map fun e => e.joined n.start (s.core e.core).nb,
            succs := n.succs.map fun e => { e with epoch := (s.core e.core).nb.epoch, sd := n.start - 1 } } }
      else s.onStep core fun n => { n with pairing := none, owed := late }
    let s := forEach (fun c s => s.onStep c fun n => { n with owed := n.owed.filter (· ≠ core) }) n.neighbours s
    s.onThread u fun t => { t with
      outst := modFirst (fun x => x.id == o) (fun x => { x with need := 0, fin := .done [.reg d (word r)] }) t.outst }

/-- The pairing wait of a `stepcfg` begins: its checks have been made in the issue turn. -/
def State.beginPairing (s : State) (x : StepDesc) (d : Opnd) : Res :=
  let o := s.next
  let asid := s.th.asid
  let s := (s.openOut [.reg d] (.done []) 1).parkOwn
  .done (s.onStep s.th.core fun k => { k with
    epoch := o, asid := asid, group := x.group, nt := x.nt, start := x.start, preds := x.preds, succs := x.succs, owed := [],
    pairing := some (s.cur, o, d, x.wdog) })

/-- `stepcfg` with a descriptor: the checks, then the pairing wait. A seventeenth long instruction keeps the descriptor until
another result has returned (R23, R228). -/
def State.joinGroup (s : State) (va : Word) (d : Opnd) : Res :=
  let core := s.th.core
  let asid := s.th.asid
  match s.th.trace with
  | [.got bs _] => s.beginPairing (stepDesc bs) d
  | _ =>
    if va.toNat % 64 ≠ 0 then .trap (.of .align va)
    else
      s.localDescriptor va 16 fun s hd =>
        let n := bits (dword hd 0) 35 32 + bits (dword hd 0) 39 36
        if 8 < bits (dword hd 0) 35 32 ∨ 8 < bits (dword hd 0) 39 36 then
          .trap (stepCfg (if (s.core core).nb.active || (s.core core).nb.pairing.isSome then 1 else 2))
        else
          s.localDescriptor va (16 + 16 * n) fun s bs =>
            match s.stepReason core asid (stepDesc bs) with
            | some r => .trap (stepCfg r)
            | none =>
              if 16 ≤ s.th.outst.length then .park (s.note (.got bs false)) .room else s.beginPairing (stepDesc bs) d

/-- `stepcfg` (R252). -/
def execStepcfg (h : Hdr) (d a : Opnd) (m : MC) (s : State) : Host.Outcome State Fault Refusal :=
  native (.stepcfg h d a m) (fun s =>
    let va := s.arg a
    if va ≠ 0 then s.joinGroup va d
    else if s.isMember s.th.core s.th.asid then .done ((s.leaveGroup s.th.core).later [.reg d] [.reg d 0])
    else .done (s.later [.reg d] [.reg d 1])) s

/-! ### Steps -/

/-- Only a member core's thread goes on (R246 reason 1). -/
def State.member (s : State) (go : Res) : Res := if s.isMember s.th.core s.th.asid then go else .trap (stepCfg 1)

/-- `stepend` (R253). -/
def execStepend (h : Hdr) (d : Opnd) (m : MC) (s : State) : Host.Outcome State Fault Refusal :=
  native (.stepend h d m) (fun s =>
    s.member <| s.released 4 <|
      let s := (s.openOut [.reg d] .step 1).parkOwn
      .done (s.arriveStep s.th.core s.th.slot)) s

/-- The access of an `ldstep` at the producer's bank (R254). -/
def State.edgeLoad (s : State) (d : Opnd) (e : Pred) (u o : Word) (n : Nat) : State :=
  let off := e.ring + u.toNat % e.d * e.slotsz + o.toNat
  let pa := scratch e.core off
  let t : Tr := ⟨pa, pa, 0x200000, 0, false, []⟩
  let s := s.setTh { s.th with kept := [] }
  s.single (loadDsts d n) (.load d n false) (word off) t n .load true false 4

/-- `ldstep` after its checks: served now, or parked (R245, R254). -/
def State.serveEdge (s : State) (d : Opnd) (i : Nat) (e : Pred) (u o : Word) (n : Nat) : Res :=
  let start := s.myCore.nb.start
  if geMod e.pd u then .done (s.edgeLoad d e u o n)
  else if e.left then .trap (.of .stepLost u)
  else if e.loose ∧ geMod e.pd start then .done ((s.edgeLoad d e e.pd o n).warnBit wSTALESKEW)
  else .park (s.setTh { s.th with kept := [u, o] }) (.edge i u)

/-- `ldstep` (R254): step and offset are read and the checks made in the issue turn; `kept` has both over the park. -/
def execLdstep (h : Hdr) (d a b : Opnd) (m : MC) (s : State) : Host.Outcome State Fault Refusal :=
  native (.ldstep h d a b m) (fun s =>
    s.member <|
      let k := s.myCore
      let n := accessSize m.sz
      match s.fenced true false, k.nb.preds[m.edge.toNat]?, s.th.kept with
      | [], some e, [u, o] => s.serveEdge d m.edge.toNat e u o n
      | [], some e, _ =>
        let u := k.step - s.arg b
        let o := s.arg a
        if o.toNat % n ≠ 0 then .trap (.of .align o)
        else if e.slotsz < o.toNat + n then .trap (.of .prot o)
        else if geMod (k.stepDone - word e.h) u then .trap (.of .stepLost u)
        else s.serveEdge d m.edge.toNat e u o n
      | [], none, _ => .trap (stepCfg 6)
      | l, _, _ => .park s (.ids l)) s

/-- The ring slot of a step a signed offset away from another: the sum is not wrapped (R255). -/
def stepSlot (step off : Word) (d : Nat) : Nat := (((step.toNat : Int) + off.toInt) % (d : Int)).toNat

/-- `stepaddr` (R255). -/
def execStepaddr (h : Hdr) (d b : Opnd) (m : MC) (s : State) : Host.Outcome State Fault Refusal :=
  native (.stepaddr h d b m) (fun s =>
    s.member <|
      match s.myCore.nb.succs[m.edge.toNat]? with
      | none => .trap (stepCfg 6)
      | some e =>
        let v := word (e.ring + stepSlot s.myCore.step (s.arg b) e.d * e.slotsz)
        .done (s.later [.reg d] [.reg d v])) s

/-- The word of `stepq`; none for a selector or an edge that is not listed (R256). -/
def Core.edgeWord (k : Core) (i : Nat) (sel : Word) : Option Word :=
  if sel = 0 then k.nb.preds[i]?.map (·.pd)
  else if sel = 1 then k.nb.succs[i]?.map (·.sd)
  else if sel = 2 then k.nb.succs[i]?.map fun e => e.sd + word e.d - word e.h - k.step
  else if sel = 3 then
    k.nb.preds[i]?.map fun e =>
      word (e.core + e.d * 2 ^ 16 + e.h * 2 ^ 20 + (if e.loose then 2 ^ 24 else 0) + if e.left then 2 ^ 25 else 0)
  else none

/-- `stepq` (R256). -/
def execStepq (h : Hdr) (d a : Opnd) (m : MC) (s : State) : Host.Outcome State Fault Refusal :=
  native (.stepq h d a m) (fun s =>
    s.member <|
      match s.myCore.edgeWord m.edge.toNat (s.arg a) with
      | none => .trap (stepCfg 6)
      | some v => .done (s.later [.reg d] [.reg d v])) s

/-- `cut` (R257). -/
def execCut (h : Hdr) (d a b : Opnd) (m : MC) (s : State) : Host.Outcome State Fault Refusal :=
  native (.cut h d a b m) (fun s =>
    s.member <|
      let core := s.th.core
      let va := s.arg a
      let pend := s.myCore.nb.cutPend
      let give := fun (s : State) (v : Word) => Res.done (s.later [.reg d] [.reg d v])
      if va = 0 then if pend then give (s.releaseCut core) 0 else give s 1
      else
        s.afterWalks [(va, 8, kWrite)] <|
          match s.check s.who va 8 kWrite with
          | .error t => .trap t
          | .ok t =>
            if s.csrBad t.pa 8 false then .trap (.of .prot va)
            else if pend then give s 1
            else give ((s.remember s.who va kWrite t).receiveCut core va t.pa (s.homeOf t.pa t.attr) (s.arg b)) 0) s

end Sys2Proof.Machine
end

