-- ==== Sys2Proof/Machine/Image.lean ====
section
/-! DEFINITION. Control registers by number (R57, R327, R413) and save images: writing one from a thread, making a
thread from one, and who may be saved or restored (R341 to R343, R389 to R391). -/

namespace Sys2Proof.Machine

/-! ### Control registers -/

/-- TID (R63). -/
def Thread.tid (t : Thread) : Word := word (t.slot * 2 ^ 16 + t.thread)

/-- CTXID of a context (R63). -/
def State.ctxid (s : State) (a : Nat) : Word := word ((s.ctx a).depth * 2 ^ 12 + a)

/-- A context-held register (R57, R327). -/
def Ctx.cr (c : Ctx) (n : Nat) : Word :=
  match n with
  | 0x040 => c.lsbase
  | 0x041 => c.lslim
  | 0x042 => c.dqbase
  | 0x0F8 => c.ghvec
  | 0x0F9 => c.arena
  | 0x100 => c.tvec
  | 0x106 => c.tsarea
  | 0x108 => c.deleg
  | 0x110 => c.slotmask
  | 0x111 => c.coredesc &&& ~~~0x3F
  | 0x112 => c.bankmask
  | 0x118 => c.ptroot
  | 0x120 => c.ceqbase
  | 0x121 => c.ceqhead
  | 0x122 => c.ceqtail
  | n => if 0x130 ≤ n ∧ n ≤ 0x13F then get 0 c.pcnt (n - 0x130) else get 0 c.psel (n - 0x140)

/-- Write a context-held register: each field under its Access column (R3, R48, R49, R64, R328, R330, R331, R333). -/
def Ctx.setCr (c : Ctx) (n : Nat) (v : Word) : Ctx :=
  match n with
  | 0x040 => { c with lsbase := v &&& ~~~0xFFFF }
  | 0x041 => { c with lslim := v &&& 0x1FFF }
  | 0x042 => { c with dqbase := v &&& ~~~0xFFFF }
  | 0x0F8 => { c with ghvec := v &&& ~~~7 }
  | 0x0F9 => { c with arena := v &&& ~~~0x3F }
  | 0x100 => { c with tvec := v &&& ~~~7 }
  | 0x106 => { c with tsarea := v &&& ~~~0x3F }
  | 0x108 => { c with deleg := v &&& c.delegMask &&& 0x3DFFDFF }
  | 0x110 => c
  | 0x111 => c
  | 0x112 => c
  | 0x118 => { c with ptroot := v &&& ~~~0xFFE }
  | 0x120 => { c with ceqbase := v &&& ~~~0xFE0 }
  | 0x121 => { c with ceqhead := v }
  | 0x122 => c
  | n =>
    if 0x130 ≤ n ∧ n ≤ 0x13F then { c with pcnt := set 0 c.pcnt (n - 0x130) v }
    else { c with psel := set 0 c.psel (n - 0x140) (v &&& 0x8000000000000FFF) }

/-- Refresh and the background scrub count 0x060 in the root (R406), at times that the spec does not state: what they add to a
counter that selects it is free at every read. -/
def State.upkeep (s : State) (a i : Nat) : Word :=
  let p := get 0 (s.ctx a).psel i
  if a = 0 ∧ bit p 63 ∧ bits p 11 0 = 0x060 then word (Config.freeNat (s.free + s.now.toNat)) else 0

/-- A register of the module (R413). -/
def State.moduleCr (s : State) (n : Nat) : Word :=
  match n with
  | 0x410 => s.vfsel
  | 0x411 => (get Vf.new s.vfs s.vfsel.toNat).ctl
  | 0x412 => s.cxlsel
  | 0x413 => get 0 s.cxlwin s.cxlsel.toNat
  | _ => s.pwrstat

/-- What VFCTL stores (R413): EN only with a live depth-1 context. -/
def State.vfctlOf (s : State) (v : Word) : Word :=
  let a := bits v 27 16
  word (a * 2 ^ 16 + if bit v 0 && has s.ctxs a && (s.ctx a).depth == 1 then 1 else 0)

/-- What CXLWIN stores (R413): EN only for an aligned range within the CXL range of R97. -/
def cxlwinOf (v : Word) : Word :=
  let base := bits v 63 30 * 2 ^ 30
  let size := 2 ^ bits v 29 25 * 2 ^ 30
  let ok := base % size == 0 && decide (0x080000000000 ≤ base) && decide (base + size ≤ 0x480000000000)
  (v &&& 0xFFFFFFFFFFE00002) ||| (if bit v 0 && ok then 1 else 0)

/-- Write a register of the module: LIMIT of PWRSTAT is sticky (R3, R413). -/
def State.setModuleCr (s : State) (n : Nat) (v : Word) : State :=
  match n with
  | 0x410 => { s with vfsel := v &&& 0xFF }
  | 0x411 =>
    let k := s.vfsel.toNat
    { s with vfs := put s.vfs k { get Vf.new s.vfs k with ctl := s.vfctlOf v } }
  | 0x412 => { s with cxlsel := v &&& 0xF }
  | 0x413 => { s with cxlwin := put s.cxlwin s.cxlsel.toNat (cxlwinOf v) }
  | _ => { s with pwrstat := s.pwrstat &&& (v ||| ~~~0x10000) }

/-- A register that a thread holds (R51, R52, R60, R61, R329). A slot without vector registers reads zero (R50). -/
def State.threadCr (s : State) (n : Nat) : Word :=
  let t := s.th
  match n with
  | 0x020 => if s.vecSlot then t.vshape else 0
  | 0x021 => if s.vecSlot then t.vact else 0
  | 0x030 => t.flags
  | 0x031 => t.warn
  | 0x101 => t.tcause
  | 0x102 => t.taddr
  | 0x103 => t.tpc
  | 0x104 => t.tstat
  | _ => t.tscr

/-- What VACT stores (R52). -/
def vactOf (v : Word) : Word := word (min (bits v 15 8) 64 * 2 ^ 8 + bits v 3 0)

/-- What VSHAPE holds after an image gave it: its fields in range (R51, log 37). -/
def vshapeOf (p : Part) (v : Word) : Word :=
  word (max 1 (min (bits v 15 8) 64) * 2 ^ 8 + max 1 (min (bits v 3 0) (Config.vrows p)))

/-- Write a register that a thread holds: sticky bits stay set only where 1 is written (R3). -/
def Thread.setCr (t : Thread) (n : Nat) (v : Word) : Thread :=
  match n with
  | 0x020 => t
  | 0x021 => { t with vact := vactOf v }
  | 0x030 => { t with flags := (v &&& 0x300) ||| (t.flags &&& v &&& 0xFF) }
  | 0x031 => { t with warn := t.warn &&& v }
  | 0x101 => { t with tcause := v &&& 0x3FF }
  | 0x102 => { t with taddr := v }
  | 0x103 => { t with tpc := v }
  | 0x104 => { t with tstat := (t.tstat &&& 1) ||| (v &&& 0xF0) }
  | _ => { t with tscr := v }

/-- Where a register number is held: 0 the core, 1 the thread, 2 the context, 3 the module, 4 read-only and derived. -/
def crHolder (n : Nat) : Nat :=
  if decide (n ∈ [0x010, 0x011, 0x012, 0x400, 0x401]) || (decide (0x050 ≤ n) && decide (n ≤ 0x05F)) then 0
  else if decide (n ∈ [0x020, 0x021, 0x030, 0x031, 0x101, 0x102, 0x103, 0x104, 0x105]) then 1
  else if decide (n ∈ [0x001, 0x060, 0x061, 0x062, 0x0F0, 0x0F1]) then 4
  else if 0x410 ≤ n then 3
  else 2

/-- CR(n) as the thread that issues reads it. -/
def State.readCr (s : State) (n : Nat) : Word :=
  match crHolder n with
  | 0 => s.myCore.cr n
  | 1 => s.threadCr n
  | 2 => if 0x130 ≤ n ∧ n ≤ 0x13F then s.myCtx.cr n + s.upkeep s.th.asid (n - 0x130) else s.myCtx.cr n
  | 3 => s.moduleCr n
  | _ =>
    match n with
    | 0x001 => s.now
    | 0x060 => s.th.tid
    | 0x061 => s.ctxid s.th.asid
    | 0x062 => word s.th.core
    | 0x0F0 => Config.feat s.part
    | _ => Config.rev s.part

/-- CR(n) := v by the thread that issues. A thread has no VACT while it is nomadic or its slot has no vector registers (R50,
R65). -/
def State.writeCr (s : State) (n : Nat) (v : Word) : State :=
  match crHolder n with
  | 0 => s.onMyCore (·.setCr n v)
  | 1 => if n = 0x021 ∧ (!s.vecSlot ∨ s.th.nomad) then s else s.setTh (s.th.setCr n v)
  | 2 => s.onCtx s.th.asid (·.setCr n v)
  | 3 => s.setModuleCr n v
  | _ => s

/-- The checks that a register's own rule makes on a read (R62, R240). -/
def State.crReadCheck (s : State) (n : Nat) : Option Trap :=
  if 0x050 ≤ n ∧ n ≤ 0x05F ∧ !s.ownsBank s.th.asid (n - 0x50) then some (.of .prot (word n))
  else if n = 0x012 ∧ s.myCore.nb.active ∧ s.myCore.nb.asid ≠ s.th.asid then some (stepCfg 7)
  else none

/-- The checks on a write (R59, R62, R240, R335). -/
def State.crWriteCheck (s : State) (n : Nat) (v w : Word) : Option Trap :=
  match s.crReadCheck n with
  | some t => some t
  | none =>
    if (n = 0x010 ∨ n = 0x011) ∧ s.myCore.nb.active then some (stepCfg 5)
    else if 0x050 ≤ n ∧ n ≤ 0x05F then
      if 10 < bits v 3 0 then some (.of .illegalOp w)
      else if (bits v 3 0 = 8 ∨ bits v 3 0 = 9) ∧ !Config.cinder s.part then some (.of .unitAbsent w)
      else none
    else none

/-! ### Writing an image -/

/-- A mask of numbers below 64. -/
def maskOf (l : List Nat) : Nat := (List.range 64).foldl (fun v i => if l.contains i then v + 2 ^ i else v) 0

/-- The units that a thread holds, in its core or saved with it. -/
def State.heldUnits (s : State) (uid : Nat) : List (Nat × Word × List Byte) :=
  let t := s.thread uid
  if t.cc then [] else if t.inSlot then (s.core t.core).unitsOf uid else t.units

/-- The image has a vector part (R341). -/
def State.hasVec (s : State) (t : Thread) : Bool := !t.cc && decide (t.slot < vecSlots (s.core t.core).mode)

/-- Numbers of a kind of unit in a list: slots from 0, tiles from 8, scale registers from 16. -/
def unitNums (us : List (Nat × Word × List Byte)) (lo hi : Nat) : List Nat :=
  (us.filter fun u => decide (lo ≤ u.1) && decide (u.1 < hi)).map fun u => u.1 - lo

/-- The scale register that a slot's record binds, none for UNIT. -/
def boundScale (r : Word) : Option Nat := if bit r 10 then none else some (bits r 17 12)

/-- Scale registers of a list that none of its slots is bound to. -/
def looseScales (us : List (Nat × Word × List Byte)) : List (Nat × Word × List Byte) :=
  us.filter fun u => decide (16 ≤ u.1) && !(us.any fun o => decide (o.1 < 8) && boundScale o.2.1 == some (u.1 - 16))

/-- The bytes after an image's header and vector part (R389). -/
def unitParts (us : List (Nat × Word × List Byte)) : List Byte :=
  let scaleBytes := fun (z : Nat) => match us.find? fun u => u.1 == 16 + z with
    | some u => u.2.2
    | none => List.replicate 1024 127
  let slots := (us.filter fun u => decide (u.1 < 8)).flatMap fun u =>
    u.2.2 ++ match boundScale u.2.1 with
      | some z => scaleBytes z
      | none => List.replicate 1024 127
  let tiles := (us.filter fun u => decide (8 ≤ u.1) && decide (u.1 < 16)).flatMap fun u => u.2.2
  slots ++ tiles ++ (looseScales us).flatMap fun u => u.2.2

/-- The size of an image (R341). -/
def imageSize (vec : Bool) (us : List (Nat × Word × List Byte)) : Nat :=
  1024 + (if vec then 16384 else 0) + 17408 * (unitNums us 0 16).length + 1024 * (looseScales us).length

/-- A wait as an image records it (R389, R390): WAIT, WADDR, WVAL, and whether PC has moved past the instruction. -/
def State.waitOf (s : State) (uid : Nat) : Nat × Word × Word × Bool :=
  let t := s.thread uid
  match t.outst.find? (s.isCond uid) with
  | some o =>
    match (s.waiters ++ s.overflow).find? fun a => a.owner == .thread uid && a.out == o.id with
    | some a =>
      match a.op with
      | .ldfe _ => (1, a.va, 0, true)
      | .stfe v => (2, a.va, v, true)
      | .waita _ v => (if o.dsts.isEmpty then 4 else 3, a.va, v, true)
      | _ => (0, 0, 0, true)
    | none =>
      match o.fin with
      | .sleep v => (5, 0, v, true)
      | .step => (0, 0, 0, true)
      | _ =>
        match (s.ctx t.asid).launches.find? fun l => l.waiters.any fun w => w.1 == uid && w.2.1 == o.id with
        | some l => (7, l.handle, 0, true)
        | none => (0, 0, 0, true)
  | none =>
    match t.park with
    | .barrier n ph => (6, word n, ph.setWidth 64, true)
    | .mail => (8, 0, 0, false)
    | _ => (0, 0, 0, false)

/-- KIND, and the words LAUNCH, JOIN and ROWREF (R389). -/
def Work.words (w : Work) : Nat × Word × Word × Word :=
  match w with
  | .leaf h => (0, h, 0, 0)
  | .task j => (1, 0, j, 0)
  | .row i t r c => (2, 0, 0, word (bits i 20 0 + t * 2 ^ 24 + r * 2 ^ 32 + c * 2 ^ 40))
  | .bare => (0, 0, 0, 0)

/-- Words as bytes. -/
def wordsBytes (l : List Word) : List Byte := l.flatMap fun w => toBytes 8 w.toNat

/-- A list filled up with zero words. -/
def padWords (l : List Word) (n : Nat) : List Word := l ++ List.replicate (n - l.length) 0

/-- The header of a thread's image (R389). -/
def State.imageHeader (s : State) (uid : Nat) : List Byte :=
  let t := s.thread uid
  let us := s.heldUnits uid
  let wt := s.waitOf uid
  let k := t.work.words
  let pc := if wt.2.2.2 then t.pc - 8 else t.pc
  let poisoned := fun (lo hi : Nat) =>
    maskOf ((us.filter fun u => decide (lo ≤ u.1) && decide (u.1 < hi) && bit u.2.1 32).map fun u => u.1 - lo)
  let recs := (List.range 8).map fun n => match us.find? fun u => u.1 == n with
    | some u => u.2.1 &&& 0xFFFFFFFF
    | none => 0
  let held := us.filter fun u => u.1 < 16 || !bit u.2.1 1
  let autos := maskOf ((held.filter fun u => decide (16 ≤ u.1) && bit u.2.1 0).map fun u => u.1 - 16)
  wordsBytes ([
    word (0x51A7 + t.asid * 2 ^ 16 + (s.ctx t.asid).depth * 2 ^ 28 + t.thread * 2 ^ 32 + t.slot * 2 ^ 48 +
      (if s.hasVec t then 2 ^ 53 else 0) + (if t.nomad then 2 ^ 54 else 0) + (if t.cc then 2 ^ 55 else 0) + k.1 * 2 ^ 56),
    word (t.core + (if t.cc then 0 else (s.core t.core).mode) * 2 ^ 9 + imageSize (s.hasVec t) us * 2 ^ 32),
    pc, t.flags, t.warn, t.tcause, t.taddr, t.tpc, t.tstat, t.tscr, t.vshape, t.vact,
    word (t.preds.toNat + maskOf t.pPoison * 2 ^ 8 + (if t.tephra then 2 ^ 16 else 0) + if t.guard then 2 ^ 17 else 0),
    word wt.1, wt.2.1, wt.2.2.1] ++
    padWords t.link 8 ++ [word (t.link.length + t.spilled * 2 ^ 16), word t.mail.length] ++
    padWords (t.mail.flatMap fun m => [m.1, m.2]) 8 ++
    [word (maskOf (unitNums us 0 8) + maskOf (unitNums us 8 16) * 2 ^ 8), word (maskOf (unitNums held 16 80)), word autos,
      word (maskOf t.xPoison), word (maskOf t.vPoison + poisoned 0 8 * 2 ^ 16 + poisoned 8 16 * 2 ^ 24)] ++
    recs ++ [k.2.1, k.2.2.1, k.2.2.2] ++ List.replicate 14 0 ++ (List.range 64).map t.getX)

/-- A thread's whole image. -/
def State.imageBytes (s : State) (uid : Nat) : List Byte :=
  let t := s.thread uid
  s.imageHeader uid ++ (if s.hasVec t then (dense 0 t.v 4096).flatMap (fun w => toBytes 4 w.toNat) else []) ++
    unitParts (s.heldUnits uid)

/-- Write bytes from a 4 KiB-aligned address on, in blocks of 4 KiB. -/
def State.writeBlocks (s : State) (w : Who) (src : Word) : Nat → Word → List Byte → State
  | 0, _, _ => s
  | n + 1, va, bs =>
    if bs.isEmpty then s
    else
      match s.translate w va kWrite with
      | .error _ => s
      | .ok t =>
        (s.storeAt (s.homeOf t.pa t.attr) src t.pa (bs.take 4096)).writeBlocks w src n (va + 4096) (bs.drop 4096)

/-- The 7 bits of a result's register, 0 for none (R390). -/
def Outst.dstBits (o : Outst) : Nat :=
  match o.dsts with
  | .reg r :: _ => (if r.shared then 64 else 0) + r.n.toNat
  | _ => 0

/-- Requests that a thread leaves registered go to its image (R390). -/
def State.registerImage (s : State) (uid img : Nat) : State :=
  let t := s.thread uid
  let move := fun (a : Acc) =>
    if a.owner == .thread uid then
      { a with owner := .image img, out := match t.outst.find? fun o => o.id == a.out with
          | some o => o.dstBits
          | none => 0 }
    else a
  { s with waiters := s.waiters.map move, overflow := s.overflow.map move }

/-- A wait that is not registered with a home or re-tested in place is given up: the instruction issues again when the
thread is restored (R390). -/
def State.dropWaits (s : State) (uid : Nat) : State :=
  let t := s.thread uid
  let s := s.onCtx t.asid fun c => { c with
    launches := c.launches.map fun l => { l with waiters := l.waiters.filter fun w => w.1 != uid } }
  if t.cc then s
  else s.onCore t.core fun k =>
    match k.nb.pairing with
    | some p => if p.1 = uid then { k with nb := { k.nb with pairing := none } } else k
    | none => k

/-- A thread goes into an image and is gone from its core (R342). -/
def State.removeSaved (s : State) (uid : Nat) : State :=
  let t := s.thread uid
  let s := ((s.dropWaits uid).endResv (.thread uid)).leaveLines uid
  let s := if t.cc ∨ !t.inSlot then s else s.onCore t.core (·.freeUnits uid)
  State.onCtx { s with threads := del s.threads uid } t.asid fun c => { c with
    imaged := if c.imaged.contains t.thread then c.imaged else t.thread :: c.imaged,
    runq := c.runq.map fun (q : Nat × List QEntry) => (q.1, q.2.filter (· != .thread uid)) }

/-- Save a drained thread into the image at an address (R342). -/
def State.saveTo (s : State) (uid : Nat) (va : Word) : State :=
  let bs := s.imageBytes uid
  let img := s.paOf s.who va kWrite
  let s := s.registerImage uid img
  (s.removeSaved uid).writeBlocks s.who (s.source (.thread s.cur) s.th.asid) (bs.length / 4096 + 1) va bs

/-! ### A thread from an image -/

/-- What the header of an image names (R389). -/
structure Header where
  asid : Nat
  thread : Nat
  slot : Nat
  cc : Bool
  core : Nat
  mode : Nat
  size : Nat
  deriving DecidableEq, Repr

/-- Read a header; none for bytes that are not a save image's (R343). -/
def headerOf (bs : List Byte) : Option Header :=
  let a := dword bs 0
  let b := dword bs 1
  if bits a 15 0 ≠ 0x51A7 then none
  else some ⟨bits a 27 16, bits a 47 32, bits a 52 48, bit a 55, bits b 8 0, bits b 10 9, bits b 63 32⟩

/-- Numbers whose bits are set in a mask. -/
def bitsSet (w : Word) : List Nat := (List.range 64).filter (bit w ·)

/-- `k` parts of `n` bytes each, from a list. -/
def parts (bs : List Byte) (n : Nat) (ks : List Nat) : List (Nat × List Byte) :=
  (List.range ks.length).map fun i => (ks.getD i 0, (bs.drop (n * i)).take n)

/-- The units of an image, each scale register once, as `unitsOf` lists them. -/
def imageUnits (bs : List Byte) (vec : Bool) : List (Nat × Word × List Byte) :=
  let held := dword bs 34
  let os := (bitsSet held).filter (· < 8)
  let ts := ((bitsSet held).filter fun n => decide (8 ≤ n) && decide (n < 16)).map (· - 8)
  let pois := dword bs 38
  let at0 := 1024 + if vec then 16384 else 0
  let slotRec := fun (n : Nat) => dword bs (39 + n) ||| (if bit pois (16 + n) then 0x100000000 else 0)
  let so := parts (bs.drop at0) 17408 os
  let st := parts (bs.drop (at0 + 17408 * os.length)) 17408 ts
  let bound := so.filterMap fun p => (boundScale (slotRec p.1)).map fun z =>
    let mine := bit (dword bs 35) z
    ((16 + z, word ((if bit (slotRec p.1) 18 || !mine then 1 else 0) + if mine then 0 else 2), p.2.drop 16384) :
      Nat × Word × List Byte)
  let loose := (bitsSet (dword bs 35)).filter fun z => !(bound.any fun b => b.1 == 16 + z)
  let sz := parts (bs.drop (at0 + 17408 * (os.length + ts.length))) 1024 loose
  let firsts := (List.range 64).filterMap fun z => bound.find? fun b => b.1 == 16 + z
  so.map (fun p => (p.1, slotRec p.1, p.2.take 16384)) ++
    st.map (fun p => (8 + p.1, (if bit pois (24 + p.1) then (2 ^ 32 : Word) else 0), p.2)) ++ firsts ++
    sz.map fun p => (16 + p.1, (if bit (dword bs 36) p.1 then (1 : Word) else 0), p.2)

/-- The association of an image (R389): KIND, LAUNCH, JOIN, ROWREF. -/
def State.workOf (s : State) (asid : Nat) (bs : List Byte) : Work :=
  match bits (dword bs 0) 57 56 with
  | 0 =>
    match (s.ctx asid).launch? (dword bs 47) with
    | some l => if l.state = .completed ∨ dword bs 47 = 0 then .bare else .leaf (dword bs 47)
    | none => .bare
  | 1 => .task (dword bs 48)
  | 2 =>
    let r := dword bs 49
    .row (word (bits r 20 0)) (bits r 26 24) (bits r 36 32) (bits r 48 40)
  | _ => .bare

/-- The thread that an image restores, not yet placed (R343, R389). Of an image that software has edited, LSPILLED is taken up to
the 1,023 that its field holds, and the LINK words as they stand, bit 1 included, where R47 has 512 and zero (log 37, the
model's choice). -/
def State.threadOf (s : State) (h : Header) (core : Nat) (bs : List Byte) : Thread :=
  let a := dword bs 0
  let w := dword bs 12
  let n := min (bits (dword bs 24) 3 0) 8
  let vec := bit a 53
  let mail := (List.range (min (bits (dword bs 25) 2 0) 4)).map fun i => (dword bs (26 + 2 * i), dword bs (27 + 2 * i))
  let lanes : List Lane := (List.range 4096).map fun i => BitVec.ofNat 32 (fromBytes ((bs.drop (1024 + 4 * i)).take 4))
  let work := s.workOf h.asid bs
  let cls := match work with
    | .leaf hd => (match (s.ctx h.asid).launch? hd with
      | some l => l.cls
      | none => 2)
    | _ => 2
  { Thread.new with
    asid := h.asid, thread := h.thread, slot := h.slot, cc := h.cc, place := .block core, work := work, cls := cls,
    pc := dword bs 2, flags := dword bs 3 &&& 0x3FF, warn := dword bs 4 &&& 0xF, tcause := dword bs 5 &&& 0x3FF,
    taddr := dword bs 6, tpc := dword bs 7, tstat := dword bs 8 &&& 0xF1, tscr := dword bs 9, vshape := vshapeOf s.part (dword bs 10),
    vact := vactOf (dword bs 11), preds := BitVec.ofNat 8 (bits w 7 0) ||| 1,
    pPoison := (bitsSet (w >>> 8)).filter fun i => decide (i < 8) && i != 0,
    tephra := h.cc && bit w 16, guard := h.cc && bit w 17, nomad := !h.cc && bit a 54,
    link := (List.range n).map fun i => dword bs (16 + i), spilled := bits (dword bs 24) 25 16, mail := mail,
    xPoison := (bitsSet (dword bs 37)).filter (· ≠ 0), vPoison := (bitsSet (dword bs 38)).filter (· < 16),
    x := sparseFrom 0 1 ((List.range (if h.cc then 31 else 63)).map fun i => dword bs (65 + i)),
    v := if vec then sparseFrom 0 0 lanes else [], units := if h.cc then [] else imageUnits bs vec }

/-- The destination operand that seven bits name. -/
def opndOf (n : Nat) : Opnd := ⟨n.testBit 6, BitVec.ofNat 6 n⟩

/-- A restored thread takes up its wait again (R390): a request still registered for the image becomes its own, `bwait`
is tested again for the phase it waited for, and any other instruction issues again. -/
def State.resumeWait (s : State) (uid img : Nat) (bs : List Byte) : State :=
  let wt := bits (dword bs 13) 7 0
  let t := s.thread uid
  let mine := fun (a : Acc) => a.owner == .image img
  if 1 ≤ wt ∧ wt ≤ 4 ∧ !t.exl then
    match (s.waiters ++ s.overflow).find? mine with
    | none => s
    | some a =>
      let o := s.next
      let take := fun (a : Acc) => if mine a then { a with owner := .thread uid, out := o } else a
      let r := opndOf a.out
      let (dsts, fin) : List Dst × Fin := match a.op with
        | .stfe _ => ([], .done [])
        | .waita _ _ => if wt = 4 then ([], .done []) else ([.reg r], .word r)
        | _ => ([.reg r], .word r)
      State.onThread { s with waiters := s.waiters.map take, overflow := s.overflow.map take, next := s.next + 1 } uid
        fun t => { t with pc := t.pc + 8, outst := [⟨o, dsts, fin, 1, [], [], []⟩], park := .own o, parkedAt := s.now }
  else
    let s := { s with waiters := s.waiters.filter (!mine ·), overflow := s.overflow.filter (!mine ·) }
    if wt = 6 ∧ !t.exl then
      s.onThread uid fun t => { t with
        pc := t.pc + 8, park := .barrier (dword bs 14).toNat ((dword bs 15).setWidth 32), parkedAt := s.now }
    else s

/-- Why an image is not restored on a core (R343, R391): 1 the number is live, 3 the core or the slot. -/
def State.loadRefusal (s : State) (h : Header) (core : Word) : Nat :=
  let c := core.toNat
  if (s.named h.asid h.thread).isSome then 1
  else if h.cc then if 128 ≤ c ∨ 4 ≤ h.slot then 3 else 0
  else if Config.cores s.part ≤ c ∨ !s.inSet h.asid c then 3
  else if slotsOf (s.core c).mode ≤ h.slot ∨ regsOf (s.core c).mode < regsOf h.mode then 3
  else 0

/-- Restore a thread from an image's bytes (R343); it is not placed yet. The answer's second part is its name. -/
def State.restore (s : State) (h : Header) (core img : Nat) (bs : List Byte) : State × Nat :=
  let uid := s.next
  let t := s.threadOf h core bs
  let s := { s with threads := put s.threads uid t, next := s.next + 1 }
  let s := s.onCtx h.asid fun c => { c with imaged := c.imaged.filter (· ≠ h.thread) }
  ((s.resumeWait uid img bs).onThread uid Thread.resumeExl, uid)

end Sys2Proof.Machine
end

