-- ==== Sys2Proof/Machine/System.lean ====
section
/-! DEFINITION. Group 0xD: control registers, return from a trap, saving and loading threads, partition modes,
translation caches, cache lines and signals (R338 to R348). -/

namespace Sys2Proof.Machine

/-! ### Control registers and `eret` -/

/-- `mfcr` (R340). -/
def execMfcr (h : Hdr) (d : Opnd) (crn : BitVec 12) (m : MR) (s : State) : Host.Outcome State Fault Refusal :=
  native (.mfcr h d crn m) (fun s =>
    match s.crReadCheck crn.toNat with
    | some t => .trap t
    | none => .done (s.setReg d (s.readCr crn.toNat))) s

/-- `mtcr` (R340): the old value goes to X(D) and X(A) to the register, as one step. -/
def execMtcr (h : Hdr) (d a : Opnd) (crn : BitVec 12) (m : MR) (s : State) : Host.Outcome State Fault Refusal :=
  native (.mtcr h d a crn m) (fun s =>
    let v := s.reg a
    match s.crWriteCheck crn.toNat v (Instr.mtcr h d a crn m).word with
    | some t => .trap t
    | none =>
      let old := s.readCr crn.toNat
      .done ((s.writeCr crn.toNat v).setReg d old)) s

/-- `eret` (R338). -/
def execEret (h : Hdr) (m : MD) (s : State) : Host.Outcome State Fault Refusal :=
  native (.eret h m) (fun s =>
    if !bit s.th.tstat 6 ∧ s.th.tpc.toNat % 8 ≠ 0 then .trap (.of .align s.th.tpc) else .done (s.setTh s.th.eret)) s

/-! ### Saving and loading threads -/

/-- A context that a system instruction names (R341, R346): 0 is the issuer's own; PROT for one outside the subtree. -/
def State.nameCtx (s : State) (n : Nat) (x : Word) : Except Trap Nat :=
  let a := if n = 0 then s.th.asid else n
  if has s.ctxs a && s.within a s.th.asid then .ok a else .error (.of .prot x)

/-- The thread that a save names (R341, R342); none inside when there is nothing to save. -/
def State.saveTarget (s : State) (xa : Word) : Except Trap (Option Nat) :=
  match s.nameCtx (bits xa 27 16) xa with
  | .error t => .error t
  | .ok a =>
    match s.named a (bits xa 15 0) with
    | none => .ok none
    | some u =>
      let t := s.thread u
      if u = s.cur then .error (.of .slotState 2)
      else if s.th.asid ≠ 0 ∧ !t.cc ∧ t.inSlot ∧ t.slot = 0 then .error (.of .prot xa)
      else
        match t.place with
        | .block _ => .ok (if t.cc && t.exl then some u else none)
        | _ => .ok (if s.beingSaved u then none else some u)

/-- The accesses of the thread that issues which are still to be performed. -/
def State.ownIds (s : State) : List Nat := (s.pending (.thread s.cur)).map (·.id)

/-- Another agent's reservation on a word of a range of pages: the wait for its end (R219). -/
def State.rangeHeld (s : State) (w : Who) (va : Word) (n k : Nat) : Option Park :=
  (s.resv.find? fun r => r.owner != .thread s.cur && decide (r.age < resvLimit) &&
    (List.range (n / 4096 + 1)).any fun i =>
      let p := s.paOf w (va + word (4096 * i)) k
      decide (p ≤ r.pa + 7) && decide (r.pa < p + 4096)).map fun r => .word r.pa 8

/-- The instruction waits until the named thread can be saved; meanwhile that thread issues nothing (R342). -/
def State.awaitSave (s : State) (u : Nat) : Res :=
  .park s (.threads [u])

/-- The end of an instruction that kept a mark over its wait. -/
def State.unkept (s : State) : State := s.setTh { s.th with kept := [] }

/-- `tsave` (R342). The image is written in one instant (log 89). -/
def execTsave (h : Hdr) (d a b : Opnd) (m : MD) (s : State) : Host.Outcome State Fault Refusal :=
  native (.tsave h d a b m) (fun s =>
    let va := s.arg b
    match s.saveTarget (s.arg a) with
    | .error t => .trap t
    | .ok none => .done (s.later [.reg d] [.reg d 0])
    | .ok (some u) =>
      let t := s.thread u
      let n := imageSize (s.hasVec t) (s.heldUnits u)
      if va.toNat % 4096 ≠ 0 then .trap (.of .align va)
      else
        s.afterWalks [(va, n, kWrite)] <|
          match s.checkRange s.who va n kWrite with
          | .error e => .trap e
          | .ok _ =>
            if s.ownIds ≠ [] then .park s (.ids (atHome s.ownIds))
            else if !s.savable u then s.awaitSave u
            else
              match s.rangeHeld s.who va n kWrite with
              | some p => .park s p
              | none =>
                let s := (s.countBulk s.who va n kWrite).saveTo u va
                let s := if t.inSlot then s.fill t.cc t.core t.slot else s
                .done (s.later [.reg d] [.reg d (word n)])) s

/-- The image at an address (R343): its header and its bytes, none for what is not an image of a context of the
issuer's subtree. -/
def State.loadImage (s : State) (va : Word) : Except Trap (Option (Header × List Byte)) :=
  if va.toNat % 4096 ≠ 0 then .error (.of .align va)
  else
    match s.checkRange s.who va 1024 kRead with
    | .error t => .error t
    | .ok _ =>
      match headerOf (s.readRange s.who kRead 1024 va) with
      | none => .ok none
      | some hd =>
        match s.checkRange s.who va hd.size kRead with
        | .error t => .error t
        | .ok _ =>
          if has s.ctxs hd.asid && s.within hd.asid s.th.asid then
            .ok (some (hd, s.readRange s.who kRead (max 1024 (min hd.size 0x60000)) va))
          else .ok none

/-- What reading an image waits for: another agent's reservation on a word of it (R219), the header first. -/
def State.imageHeld (s : State) (va : Word) : Option Park :=
  match s.rangeHeld s.who va 1023 kRead with
  | some p => some p
  | none =>
    match s.loadImage va with
    | .ok (some (hd, _)) => s.rangeHeld s.who va hd.size kRead
    | _ => none

/-- Reading an image is counted. -/
def State.countImage (s : State) (va : Word) : State :=
  s.countBulk s.who va (match s.loadImage va with
    | .ok (some (hd, _)) => hd.size
    | _ => 1024) kRead

/-- `tload` (R343). The image is read in one instant (log 89). -/
def execTload (h : Hdr) (d a b : Opnd) (m : MD) (s : State) : Host.Outcome State Fault Refusal :=
  native (.tload h d a b m) (fun s =>
    let va := s.arg a
    if s.ownIds ≠ [] ∧ va.toNat % 4096 = 0 then .park s (.ids (atHome s.ownIds))
    else
      match s.loadImage va with
      | .error t => .trap t
      | .ok img =>
        match s.imageHeld va with
        | some p => .park s p
        | none =>
          let s := s.countImage va
          match img with
          | none => .done (s.later [.reg d] [.reg d 2])
          | some (hd, bs) =>
            let core := if s.arg b = allOnes then word hd.core else s.arg b
            let r := s.loadRefusal hd core
            if r ≠ 0 then .done (s.later [.reg d] [.reg d (word r)])
            else
              let x := s.restore hd core.toNat (s.paOf s.who va kRead) bs
              .done ((x.1.enqueue x.2 core.toNat).later [.reg d] [.reg d 0])) s

/-- The loaded thread takes the vacated slot, ahead of the run queue; where the numbers of its units are not free there, it
stands first in the queue for it (R344, R391). -/
def State.placeFirst (s : State) (uid core : Nat) : State :=
  let t := s.thread uid
  let k := queueKey t.cc core
  if (s.threadAt t.cc core t.slot).isNone ∧ (t.cc ∨ (s.core core).unitsFree t.units) then
    s.take t.asid t.cc core t.slot (.thread uid)
  else
    (s.onThread uid fun t => { t with place := .queue core }).onCtx t.asid fun c => { c with
      runq := put c.runq k (.thread uid :: get [] c.runq k) }

/-- `tswap` after its checks: save, then load (R344). The loaded thread has the vacated slot's number (log 38). The answer is
none when nothing may change. -/
def State.swap (s : State) (u : Nat) (save load : Word) : Except Trap (Option State) :=
  let t := s.thread u
  let s1 := s.saveTo u save
  match s1.loadImage load with
  | .error e => .error e
  | .ok none => .ok none
  | .ok (some (hd, bs)) =>
    let hd' := if hd.cc = t.cc ∧ t.inSlot then { hd with slot := t.slot } else hd
    let core := word (if hd.cc = t.cc then t.core else hd.core)
    let owns := t.cc || (bit (s1.ctx hd.asid).slotmask t.slot && s1.inSet hd.asid t.core)
    if !owns ∨ s1.loadRefusal hd' core ≠ 0 then .ok none
    else
      let x := s1.restore hd' core.toNat (s1.paOf s1.who load kRead) bs
      let s2 := x.1.placeFirst x.2 core.toNat
      .ok (some (if t.inSlot then s2.fill t.cc t.core t.slot else s2))

/-- `tswap` of a live thread, its descriptor read. A wait after that keeps the descriptor. -/
def State.trySwap (s : State) (d : Opnd) (u : Nat) (bs : List Byte) : Res :=
  let save := dword bs 0
  let load := dword bs 1
  let n := imageSize (s.hasVec (s.thread u)) (s.heldUnits u)
  let wait := fun (p : Park) => Res.park (s.reread bs) p
  if save.toNat % 4096 ≠ 0 then .trap (.of .align save)
  else
    match s.checkRange s.who save n kWrite with
    | .error e => .trap e
    | .ok _ =>
      match s.loadImage load with
      | .error e => .trap e
      | .ok _ =>
        if !s.savable u then wait (.threads [u])
        else
          match s.rangeHeld s.who save 0x60000 kWrite, s.imageHeld load with
          | some p, _ => wait p
          | none, some p => wait p
          | none, none =>
            let s := (s.countBulk s.who save n kWrite).countImage load
            match s.swap u save load with
            | .error e => .trap e
            | .ok none => .done (s.later [.reg d] [.reg d 2])
            | .ok (some s) => .done (s.later [.reg d] [.reg d 0])

/-- `tswap` (R344). -/
def execTswap (h : Hdr) (d a b : Opnd) (m : MD) (s : State) : Host.Outcome State Fault Refusal :=
  native (.tswap h d a b m) (fun s =>
    match s.saveTarget (s.arg a) with
    | .error t => .trap t
    | .ok target =>
      if target.isSome ∧ s.ownIds ≠ [] then .park s (.ids (atHome s.ownIds))
      else
        s.descriptor (s.arg b) 16 16 fun s bs =>
          match target with
          | none => .done (s.later [.reg d] [.reg d 1])
          | some u => s.trySwap d u bs) s

/-! ### Partition modes -/

/-- A context may repartition a core (R345). -/
def State.mayRepart (s : State) (asid core : Nat) : Bool :=
  asid == 0 ||
    (bit (s.ctx asid).slotmask 34 &&
      (List.range 31).all fun i =>
        match s.slotOwner core (i + 1) with
        | none => true
        | some o => s.within o asid)

/-- Every slot of a core is empty or saved (R16). -/
def State.quiescent (s : State) (core : Nat) : Bool := !(s.threads.any fun e => !e.2.cc && e.2.place == .slot core)

/-- Set a core's mode for a context, with the result of R345. The threads and launches that wait for a slot of the core
are placed. The spec does not say where the rotation stands afterwards: it begins at slot 0 (log 3). -/
def State.repartition (s : State) (asid core mode : Nat) : State × Nat :=
  if !s.mayRepart asid core then (s, 2)
  else if (s.core core).mode = mode then (s, 0)
  else if !s.quiescent core then (s, 1)
  else
    let us := s.ctxs.flatMap fun e => s.stranded e.1
    (((s.onCore core fun k => { k with mode := mode, q := 0 }).fillCore core).resettle us, 0)

/-- `repart` (R345). -/
def execRepart (h : Hdr) (d a : Opnd) (m : MD) (s : State) : Host.Outcome State Fault Refusal :=
  native (.repart h d a m) (fun s =>
    let c := s.arg a
    if Config.cores s.part ≤ c.toNat ∨ !s.inSet s.th.asid c.toNat then .trap (.of .prot c)
    else
      let x := s.repartition s.th.asid c.toNat m.pm.toNat
      .done (x.1.later [.reg d] [.reg d (word x.2)])) s

/-! ### Translation caches -/

/-- A cached entry is of the translations that a `tlbinv` of a kind discards (R346): for `.va`, those of the 16 GiB
around the address. -/
def State.discards (s : State) (ti target : Nat) (va : Word) (e : TlbEntry) : Bool :=
  let near := fun (x : Word) => x.toNat / 2 ^ 34 == va.toNat / 2 ^ 34
  match ti with
  | 0 => (e.asid == target && near e.base) || e.via.any fun p => p.1 == target && near p.2
  | 1 => e.asid == target
  | _ => s.within e.asid target

/-- Discard cached translations. -/
def State.discardTlb (s : State) (ti target : Nat) (va : Word) : State :=
  { s with tlb := s.tlb.filter fun e => !s.discards ti target va e }

/-- Engine commands under way in a subtree: what was accepted and is not a receive buffer. -/
def State.openCmds (s : State) (asid : Nat) : List Nat :=
  (s.cmds.filter fun c => c.accepted && !c.isRecv && s.within c.asid asid).map (·.id)

/-- Accesses of a subtree on their way to their homes. -/
def State.openAccs (s : State) (asid : Nat) : List Nat := ((s.accs ++ s.resq).filter fun a => s.within a.asid asid).map (·.id)

/-- `tlbinv` (R346): after the issuer's own accesses, among them its stores to the tables, the discards; then the wait for
accesses translated before them, at whose end nothing cached meanwhile is left (R377). -/
def execTlbinv (h : Hdr) (d a b : Opnd) (m : MD) (s : State) : Host.Outcome State Fault Refusal :=
  native (.tlbinv h d a b m) (fun s =>
    match s.nameCtx (if m.ti = 3 then 0 else bits (s.arg b) 11 0) (s.arg b) with
    | .error t => if s.th.kept.isEmpty then .trap t else .done (s.unkept.later [.reg d] [.reg d 0])
    | .ok c =>
      if s.th.kept.isEmpty ∧ s.ownIds ≠ [] then .park s (.ids (atHome s.ownIds))
      else
        let first := s.th.kept.isEmpty
        let s := (s.discardTlb m.ti.toNat c (s.arg a)).unkept
        let l := s.openAccs c
        let k := s.openCmds c
        if !first ∨ (l = [] ∧ k = []) then .done (s.later [.reg d] [.reg d 0])
        else .park (s.setTh { s.th with kept := [1] }) (.quiet l k)) s

/-! ### Cache lines -/

/-- The frames of the pages of a range that lie in HBM, with the part of each that the range meets. -/
def State.hbmPieces (s : State) (w : Who) (k : Nat) : Nat → Word → Nat → List (Nat × Nat)
  | 0, _, _ => []
  | n + 1, va, len =>
    if len = 0 then []
    else
      let here := min len (0x10000 - va.toNat % 0x10000)
      let pa := s.paOf w va k
      let rest := s.hbmPieces w k n (va + word here) (len - here)
      if s.kindOf pa = some .hbm then (pa, here) :: rest else rest

/-- A line meets one of the pieces. -/
def meetsLine (ps : List (Nat × Nat)) (l : Nat) : Bool :=
  ps.any fun p => decide (p.1 < 128 * l + 128) && decide (128 * l < p.1 + p.2)

/-- Act on the lines of a range that caches hold (R347): 0 write back, 1 drop, 2 write back and drop. A drop takes the copies
that control cores hold of those lines. -/
def State.cacheLines (s : State) (co : Nat) (ps : List (Nat × Nat)) : State :=
  let hit := s.behind.filter fun b => meetsLine ps b.1
  let copied := fun (c : Nat × Nat × Nat × List Byte) => meetsLine ps (s.paOf ⟨c.2.1, c.1, true⟩ (word c.2.2.1) kRead / 128)
  let copies := s.icCopies.filter fun c => co == 0 || !copied c
  let s := if co = 1 then forEach (fun (b : Nat × Held) s => s.dropLine b.1 b.2) hit s else s
  { s with behind := s.behind.filter fun b => !meetsLine ps b.1, icCopies := copies }

/-- `cacheop` (R347), after the issuer's earlier accesses. -/
def execCacheop (h : Hdr) (d a b : Opnd) (m : MD) (s : State) : Host.Outcome State Fault Refusal :=
  native (.cacheop h d a b m) (fun s =>
    let va := s.arg a
    let n := (s.arg b).toNat
    let k := if m.co = 0 then kRead else kWrite
    s.afterWalks [(va, n, k)] <|
      match s.checkRange s.who va n k false true with
      | .error t => .trap t
      | .ok _ =>
        if s.ownIds ≠ [] then .park s (.ids (atHome s.ownIds))
        else
          let ps := if local? s.who va then [] else s.hbmPieces s.who k (n / 0x10000 + 2) va n
          .done ((s.cacheLines m.co.toNat ps).later [.reg d] [.reg d 0])) s

/-! ### Signals -/

/-- Entries of a host mailbox (R415). -/
def Vf.room (v : Vf) : Bool := decide (v.tail - v.head < 16)

/-- Write a host mailbox, and raise MSI-X vector 0 of its function (R415). -/
def State.postMailbox (s : State) (vf : Nat) (e : Event) : State :=
  let v := get Vf.new s.vfs vf
  { s with
    vfs := put s.vfs vf { v with ring := (v.ring ++ [e]).drop (v.ring.length - 15), tail := v.tail + 1 },
    msix := s.msix ++ [vf] }

/-- The number under which the physical function's mailbox is held. -/
def hostMailbox : Nat := 256

/-- The mailbox that selector 1 of `sigpost` reaches (R348, R350). -/
def State.mailboxOf (s : State) (asid : Nat) : Option Nat :=
  if asid = 0 then some hostMailbox
  else if (s.ctx asid).depth = 1 then
    (s.vfs.find? fun v => v.1 < 256 && bit v.2.ctl 0 && bits v.2.ctl 27 16 == asid).map Prod.fst
  else none

/-- The SIGNAL event of the thread that issues. -/
def State.signal (s : State) (v : Word) : Event :=
  ⟨3, 0, false, false, s.th.thread, s.th.asid, s.myCtx.depth, v, 0, s.now, none⟩

/-- Post a signal to a context's queue (R348, R362): a queue that is full or cannot be written refuses it. -/
def State.signalQueue (s : State) (tgt : Nat) (e : Event) : State × Nat :=
  if !s.hasQueue tgt then (s, 2)
  else if !s.queueRoom tgt ∨ (s.ctx tgt).heldEvents ≠ [] then (s, 1)
  else
    let x := s.writeEvent tgt e
    if (x.ctx tgt).writing = (s.ctx tgt).writing then (x.onCtx tgt fun c => { c with heldEvents := c.heldEvents.erase e }, 1)
    else (x, 0)

/-- `sigpost` (R348): a release, after the thread's earlier accesses. -/
def execSigpost (h : Hdr) (d a b : Opnd) (m : MD) (s : State) : Host.Outcome State Fault Refusal :=
  native (.sigpost h d a b m) (fun s =>
    s.released 6 <|
      let e := s.signal (s.arg b)
      let give := fun (x : State × Nat) => Res.done (x.1.later [.reg d] [.reg d (word x.2)])
      match bits (s.arg a) 1 0 with
      | 0 => if s.th.asid = 0 then give (s, 2) else give (s.signalQueue s.myCtx.parent e)
      | 1 =>
        match s.mailboxOf s.th.asid with
        | none => give (s, 2)
        | some v => if (get Vf.new s.vfs v).room then give (s.postMailbox v e, 0) else give (s, 1)
      | _ => give (s, 2)) s

end Sys2Proof.Machine
end

