-- ==== Sys2Proof/Machine/Grants.lean ====
section
/-! DEFINITION. Grants and revocations between contexts (R353 to R359, R409), and the reset of a subtree (R364). -/

namespace Sys2Proof.Machine

/-! ### Descriptors -/

/-- The bit of BANKMASK that a unit of `unitsOf` answers to: slots, tiles, groups of eight scale registers (R330). -/
def unitBit (n : Nat) : Nat := if n < 8 then 16 + n else if n < 16 then 16 + n else 32 + (n - 16) / 8

/-- A grant descriptor (R353); none when it is malformed. -/
def itemOf (bs : List Byte) : Option Item :=
  let w := dword bs
  let rest := fun (i : Nat) => (List.range (8 - i)).all fun k => w (i + k) == 0
  if bits (w 0) 63 8 ≠ 0 then none
  else
    match bits (w 0) 7 0 with
    | 0 =>
      if rest 2 && bits (w 1) 63 43 == 0 && !bit (w 1) 0 then
        some (.slots (word (bits (w 1) 31 0 + bits (w 1) 39 32 * 2 ^ 40)) (word (bits (w 1) 42 40 * 2 ^ 32)))
      else none
    | 1 =>
      if rest 7 && bits (w 6) 5 0 == 0 then
        some (.cores ((List.range 320).filter fun c => bit (w (1 + c / 64)) (c % 64)) (w 6))
      else none
    | 2 => if rest 2 && bits (w 1) 63 40 == 0 then some (.units (w 1)) else none
    | 3 =>
      if rest 4 && bits (w 1) 15 0 == 0 && bits (w 2) 15 0 == 0 && w 2 != 0 && bits (w 3) 63 3 == 0 then
        some (.memory (w 1).toNat (w 2).toNat (w 3).toNat)
      else none
    | 4 =>
      if rest 3 && decide ((w 1).toNat < 20) && bits (w 2) 63 32 == 0 then some (.barriers (w 1).toNat (w 2).toNat) else none
    | 5 => if rest 5 then some (.quotas (w 1).toNat (w 2).toNat (w 3).toNat (w 4).toNat) else none
    | 6 => if rest 2 && bits (w 1) 63 27 == 0 then some (.deleg (w 1)) else none
    | 7 => if rest 4 then some (.cap (w 1).toNat (w 2).toNat (w 3).toNat) else none
    | _ => none

/-! ### What contexts hold -/

/-- Everything that the contexts of a list hold of a mask. -/
def State.union (s : State) (l : List Nat) (f : Ctx → Word) : Word := l.foldl (fun m a => m ||| f (s.ctx a)) 0

/-- A carved mask (R354): 0 the issuer holds it, 4 what it lacks is with another child, 1 it lacks something else. -/
def State.carveShort (s : State) (issuer child : Nat) (want : Word) (f : Ctx → Word) : Nat :=
  let miss := want &&& ~~~(f (s.ctx issuer))
  if miss = 0 then 0
  else
    let others := (s.children issuer).filter (· ≠ child)
    if miss &&& ~~~(s.union (others.flatMap s.subtree) f) = 0 then 4 else 1

/-- Barrier numbers of a cluster that a context holds. -/
def Ctx.barrierMask (c : Ctx) (cluster : Nat) : Word :=
  (c.barriers.filter fun b => b.1 == cluster).foldl (fun m b => m ||| word b.2) 0

/-- Set the barrier numbers that a context holds on a cluster. -/
def Ctx.setBarriers (c : Ctx) (cluster : Nat) (m : Word) : Ctx :=
  { c with barriers := (c.barriers.filter fun b => b.1 != cluster) ++ if m = 0 then [] else [(cluster, m.toNat)] }

/-- The thread holds a unit of a mask on its core (R354, R357). -/
def Core.holdsOf (k : Core) (uid : Nat) (m : Word) : Bool :=
  ((List.range 8).any fun n => (bit m (16 + n) && (k.slot n).owner == some uid) || (bit m (24 + n) && (k.tile n).owner == some uid)) ||
    (List.range 64).any fun n => bit m (32 + n / 8) && (k.scale n).owner == some uid

/-- Barrel-core threads of the listed contexts that hold a unit of a mask. -/
def State.unitHolders (s : State) (l : List Nat) (m : Word) : List Nat :=
  (s.threads.filter fun e => !e.2.cc && e.2.inSlot && l.contains e.2.asid && (s.core e.2.core).holdsOf e.1 m).map Prod.fst

/-- The thread waits in `barr` or `bwait` on a barrier of a cluster that the mask names. -/
def Thread.waitsOn (t : Thread) (cluster mask : Nat) : Option Nat :=
  let hit := fun (k : Nat) => if k / 32 = cluster ∧ mask.testBit (k % 32) then some (k % 32) else none
  match t.park with
  | .barrier k _ => hit k
  | .arrive k _ => hit k
  | _ => none

/-- A range of addresses from `x` to `e` is covered by ranges that hold every right of a PERM. -/
def coveredBy (rs : List Range) (perm : Nat) : Nat → Nat → Nat → Bool
  | 0, x, e => decide (e ≤ x)
  | n + 1, x, e =>
    decide (e ≤ x) ||
      match rs.find? fun r => decide (r.base ≤ x) && decide (x < r.base + r.len) && r.perm &&& perm == perm with
      | none => false
      | some r => coveredBy rs perm n (r.base + r.len) e

/-- A capability entry; an index beyond the table is empty. -/
def Ctx.capAt (c : Ctx) (i : Nat) : Word × Word := if i < 1024 then get (0, 0) c.caps i else (0, 0)

/-- CTXS that a context has (R354, R367): each live child has used one. -/
def State.ctxsLeft (s : State) (a : Nat) : Nat := s.available a (·.ctxs) - (s.children a).length

/-! ### Grants -/

/-- What a grant would answer (R354, R368): 0, 1 or 4. -/
def State.grantResult (s : State) (issuer child : Nat) (i : Item) : Nat :=
  let c := s.ctx issuer
  match i with
  | .slots carved flags =>
    let r := s.carveShort issuer child carved (·.slotmask)
    if flags &&& ~~~c.slotmask ≠ 0 then 1
    else if r ≠ 0 then r
    else if s.threads.any fun e => !e.2.cc && e.2.inSlot && e.2.asid == issuer && bit carved e.2.slot then 4
    else 0
  | .cores l _ => if l.all (s.inSet issuer) then 0 else 1
  | .units m =>
    let r := s.carveShort issuer child m (·.bankmask)
    if r ≠ 0 then r else if s.unitHolders [issuer] m = [] then 0 else 4
  | .memory base len perm =>
    let k := s.ctx child
    if issuer ≠ 0 ∧ !coveredBy c.ranges perm c.ranges.length base (base + len) then 1
    else if k.ranges.any fun r => overlaps base len r.base r.len then 1
    else if 64 ≤ k.ranges.length then 1
    else 0
  | .barriers cl m =>
    let r := s.carveShort issuer child (word m) (·.barrierMask cl)
    if r ≠ 0 then r
    else if s.threads.any fun e => e.2.asid == issuer && (e.2.waitsOn cl m).isSome then 4
    else 0
  | .quotas lq cx nr nw =>
    if lq ≤ s.available issuer (·.lquota) ∧ cx ≤ s.ctxsLeft issuer ∧ nr ≤ s.available issuer (·.nrecv) ∧
        nw ≤ s.available issuer (·.nwr) then 0
    else 1
  | .deleg m => if m &&& ~~~c.delegMask = 0 then 0 else 1
  | .cap mine theirs _ =>
    let e := c.capAt mine
    if capKind e = 0 ∨ !(capRights e).testBit 5 ∨ 1024 ≤ theirs ∨ capKind ((s.ctx child).capAt theirs) ≠ 0 then 1 else 0

/-- The hardware writes a context's CORESET descriptor (R330, R332), in 16-byte units (R105), as releases at .mo. -/
def State.writeCoreset (s : State) (a : Nat) : State :=
  let c := s.ctx a
  let va := c.coredesc &&& ~~~0x3F
  if va = 0 ∨ a = 0 then s
  else
    match s.translate ⟨a, 0, true⟩ va kWrite with
    | .error t => s.reportFailure a va t
    | .ok t =>
      let m := c.coreset.foldl (fun m i => m ||| 2 ^ i) 0
      let bs := toBytes 40 m ++ toBytes 2 c.coreset.length ++ List.replicate 22 0
      forEach (fun i s => State.sendEvent s a va t bs i) (List.range 4) (s.remember ⟨a, 0, true⟩ va kWrite t)

/-- Writes of CORESET descriptors of contexts that are still to be performed (R332). -/
def State.coresetIds (s : State) (l : List Nat) : List Nat :=
  (s.accs.filter fun b => b.owner == .host && l.contains b.asid &&
    b.va.toNat / 64 == (s.ctx b.asid).coredesc.toNat / 64).map (·.id)

/-- Numbers in order, each once. -/
def merged (a b : List Nat) : List Nat := (List.range 320).filter fun c => a.contains c || b.contains c

/-! ### What a context may still use -/

/-- Leaves not yet started, and row handlers, that stand on what a context no longer holds are placed on what remains
(R359, R399). -/
def State.rebind (s : State) (asid : Nat) : State :=
  let c := s.ctx asid
  let move := fun (l : Launch) (f : Leaf) =>
    let holds := bit c.slotmask (if f.slot = 0 then 33 else f.slot)
    if l.cc ∨ f.started ∨ (c.coreset.contains f.core ∧ holds) then f
    else
      let slot := if holds then f.slot else (s.usable asid l).headD f.slot
      let core := if c.coreset.contains f.core then f.core else (s.coreFor asid slot).getD (c.coreset.headD f.core)
      { f with core := core, slot := slot }
  let ls := c.launches.map fun l => { l with leaves := l.leaves.map (move l) }
  let home := fun (k : Nat) (e : QEntry) =>
    match e with
    | .leaf h n =>
      match ls.find? fun l => l.handle == h with
      | some l => queueKey l.cc ((l.leaves.map (·.core)).getD n k)
      | none => k
    | .row _ _ _ _ _ _ _ => if c.coreset.contains k then k else c.coreset.headD k
    | .thread _ => k
  let q := forEach (fun (e : Nat × List QEntry) q =>
    forEach (fun x q => put q (home e.1 x) (get [] q (home e.1 x) ++ [x])) e.2 q) c.runq ([] : Sparse (List QEntry))
  s.onCtx asid fun c => { c with launches := ls, runq := q }

/-! ### Giving -/

/-- Apply a grant whose checks passed (R354). Leaves that had no slot left may have one now (R359). -/
def State.applyGrant (s : State) (issuer child : Nat) (i : Item) : State :=
  match i with
  | .slots carved flags =>
    (((s.onCtx issuer fun c => { c with slotmask := c.slotmask &&& ~~~carved }).onCtx child fun c =>
      { c with slotmask := c.slotmask ||| carved ||| flags }).rebind child).resettle (s.stranded child)
  | .cores l desc =>
    (((s.onCtx child fun c => { c with
      coreset := merged c.coreset l, coredesc := if desc = 0 then c.coredesc else desc }).writeCoreset child).rebind
        child).resettle (s.stranded child)
  | .units m =>
    (s.onCtx issuer fun c => { c with bankmask := c.bankmask &&& ~~~m }).onCtx child fun c =>
      { c with bankmask := c.bankmask ||| m }
  | .memory base len perm => s.onCtx child fun c => { c with ranges := c.ranges ++ [⟨base, len, perm⟩] }
  | .barriers cl m =>
    (s.onCtx issuer fun c => c.setBarriers cl (c.barrierMask cl &&& ~~~(word m))).onCtx child fun c =>
      c.setBarriers cl (c.barrierMask cl ||| word m)
  | .quotas lq cx nr nw =>
    s.onCtx child fun c => { c with lquota := c.lquota + lq, ctxs := c.ctxs + cx, nrecv := c.nrecv + nr, nwr := c.nwr + nw }
  | .deleg m =>
    forEach (fun a s => s.onCtx a fun c => { c with
      delegMask := if a = child then m else c.delegMask &&& m, deleg := c.deleg &&& m }) (s.subtree child) s
  | .cap mine theirs rights =>
    let e := (s.ctx issuer).capAt mine
    let w := putBits (e.1 ||| 0x10000) 15 8 (capRights e &&& rights)
    s.onCtx child fun c => { c with
      caps := put c.caps theirs (w, e.2), capFrom := put c.capFrom theirs mine }

/-! ### Engine operations and capabilities that a revocation ends -/

/-- The composed entry that a context has for a page, of any kind of access. -/
def State.anyEntry (s : State) (asid : Nat) (va : Word) : Option Tr :=
  [kRead, kWrite, kFetch].findSome? fun k =>
    match s.walk ((s.ctx asid).depth + 1) asid va k with
    | .ok t => some t
    | .error _ => none

/-- The frames of `n` pages of a context's space: those that the tables give, and those visible there (R127). -/
def State.rangeFrames (s : State) (asid : Nat) : Nat → Nat → List Nat
  | 0, _ => []
  | n + 1, base =>
    (match s.anyEntry asid (word base) with
     | some t => [t.raw / 0x10000, s.visible t.raw / 0x10000]
     | none => []) ++ s.rangeFrames asid n (base + 0x10000)

/-- The frames of the banks of a mask on the listed cores. -/
def bankFrames (cores : List Nat) (m : Word) : List Nat :=
  cores.flatMap fun c => (below 16 fun b => bit m b).flatMap fun b =>
    [scratch c (b * 0x20000) / 0x10000, scratch c (b * 0x20000) / 0x10000 + 1]

/-- The frames that the sources and destinations of an accepted command lie in. -/
def Cmd.payloadFrames (c : Cmd) : List Nat :=
  ((c.pages.filter fun p => decide (p.1 % 4 < 2)).map fun p => p.2.1 / 0x10000) ++
    match c.kind with
    | .xfer _ dst len sf dfs _ => dfs.flatMap fun d => match d.2 with
      | none => []
      | some k => (pagesOf dst (spanOf (sizeFmt d.1 sf) len)).map fun va => scratch k va.toNat / 0x10000
    | _ => []

/-- The command that an engine access works for. -/
def AccOp.cmdId : AccOp → Option Nat
  | .payload c => some c
  | .deposit c _ _ _ _ => some c
  | _ => none

/-- Commands merged with one that stops get their reads for themselves (R231). -/
def State.handOver (s : State) (ids : List Nat) : State :=
  forEach (fun (c : Cmd) (s : State) =>
    if !ids.contains c.id then s
    else
      match s.cmds.find? fun x => x.leader == some c.id && !ids.contains x.id with
      | none => s
      | some h =>
        { s with
          accs := s.accs.map fun a => if a.op == .payload c.id then { a with op := .payload h.id, out := h.id } else a,
          cmds := s.cmds.map fun x =>
            if x.id == h.id then { x with leader := none, joined := c.joined.filter (· ≠ h.id), reading := c.reading }
            else if x.leader == some c.id then { x with leader := some h.id } else x }) s.cmds s

/-- Engine operations of a subtree that meet revoked frames stop (R358): nothing more is read, writes in the frames are
dropped, the other payload writes are made or dropped as a free value says, and the operation completes as REVOKED. No
record or completion word of the subtree is written in the frames any more; nor is a window read or written there. -/
def State.stopCmds (s : State) (child : Nat) (frames : List Nat) : State :=
  let inside := fun (pa : Nat) => frames.contains (pa / 0x10000)
  let sub := fun (asid : Nat) => s.within asid child
  let ids := (s.cmds.filter fun c => c.accepted && c.stage == 0 && !c.ended && sub c.asid &&
    c.payloadFrames.any frames.contains).map (·.id)
  let s := s.handOver ids
  let windows := (s.reqs.filter fun r => match r.answer with
    | some w => sub w.asid && w.pages.any fun p => inside p.2.1
    | none => false).map (·.cmd)
  let stops := fun (a : Acc) => a.owner.unordered && !a.op.isSignal &&
    ((sub a.asid && inside a.pa) ||
      match a.op with
      | .payload c => ids.contains c || windows.contains c
      | .deposit c _ _ _ _ => ids.contains c && Config.freeBit s.free (5000 + a.id)
      | _ => false)
  let lost := (s.accs.filter stops).map (·.out)
  let gone := fun (c : Cmd) (a : Word) (side : Nat) => inside (c.page a side).1
  { s with
    accs := s.accs.filter (!stops ·),
    reqs := s.reqs.filter fun r => !(ids.contains r.cmd || windows.contains r.cmd),
    placing := s.placing.map fun (p : Placed) => if lost.contains p.id then { p with failed := true } else p,
    cmds := s.cmds.map fun c =>
      if !(c.accepted && sub c.asid) then c
      else
        let c := { c with
          caddr := if gone c c.caddr 2 then 0 else c.caddr, crec := if gone c (recAddr c.crec) 3 then c.crec &&& 1 else c.crec }
        if ids.contains c.id then { c with status := 3, ended := true, lost := 0 } else c }

/-- What a work request has moved: the bytes of the packets that were acknowledged, or that answered a read (R229). -/
def WorkReq.moved (r : WorkReq) (op len : Nat) : Nat :=
  let is := if op = 3 then r.got else (r.pkts.filter (·.acked)).map (·.index)
  is.foldl (fun n i => n + min 4096 (len - 4096 * i)) 0

/-- Close a Geyser connection: its outstanding requests and buffers complete with a status (R234, R357), after what has
been moved (R229). -/
def State.closeConn (s : State) (n status : Nat) : State :=
  let c := get Conn.new s.conns n
  let close := fun (x : Cmd) (len : Nat) => { x with status := status, ended := true, len := len, lost := 0 }
  let gone := (s.reqs.filter fun r => r.conn == n).map (·.cmd)
  { s with
    conns := put s.conns n { c with isOpen := false },
    reqs := s.reqs.filter fun r => r.conn != n,
    accs := s.accs.filter fun a => match a.op with
      | .payload k => !gone.contains k
      | _ => true,
    cmds := s.cmds.map fun x =>
      if !x.accepted || x.ended then x
      else
        match x.kind with
        | .npost op _ k _ len _ _ =>
          if k = n then close x (match s.reqs.find? fun r => r.cmd == x.id with
            | some r => r.moved op len
            | none => 0) else x
        | .nrecv _ k _ _ _ _ =>
          match s.bufs.find? fun b => b.cmd == x.id with
          | some b =>
            if k = some n ∨ b.matched.map Prod.fst = some n then
              match b.size with
              | some z => { close x z.2 with conn := n }
              | none => close x 0
            else x
          | none => x
        | _ => x }

/-- Calls in flight through an entry complete with REVOKED (R412). -/
def State.revokeCalls (s : State) (asid i : Nat) : State :=
  { s with calls := s.calls.map fun c => if c.asid == asid && c.cap == i then { c with revoked := true } else c }

/-- Revoke a capability entry: copies of it below first (R357). -/
def State.revokeCap (s : State) : Nat → Nat → Nat → State
  | 0, _, _ => s
  | n + 1, asid, i =>
    let s := forEach (fun d s =>
      forEach (fun (p : Nat × Nat) s => if p.2 = i then s.revokeCap n d p.1 else s) (s.ctx d).capFrom s) (s.children asid) s
    let e := (s.ctx asid).capAt i
    let s := s.revokeCalls asid i
    let s := match capKind e with
      | 5 => s.closeConn (bits e.2 15 0) 3
      | 4 => forEach (fun (k : Nat × Conn) s =>
          if k.2.asid = asid ∧ k.2.domain = bits e.1 63 32 ∧ k.2.isOpen then s.closeConn k.1 3 else s) s.conns s
      | _ => s
    s.onCtx asid fun c => { c with caps := del c.caps i, capFrom := del c.capFrom i }

/-! ### Revocation -/

/-- What a revocation would answer (R356, R368): 0, 1 or 4. -/
def State.revokeResult (s : State) (child : Nat) (i : Item) : Nat :=
  let c := s.ctx child
  let sub := s.subtree child
  match i with
  | .slots carved flags => if carved &&& ~~~(s.union sub (·.slotmask)) = 0 ∧ flags &&& ~~~c.slotmask = 0 then 0 else 1
  | .cores l _ => if l.all (s.inSet child) then 0 else 1
  | .units m => if m &&& ~~~(s.union sub (·.bankmask)) = 0 then 0 else 1
  | .memory base len _ =>
    match c.ranges.find? fun r => decide (r.base ≤ base) && decide (base + len ≤ r.base + r.len) with
    | none => 1
    | some r => if 64 ≤ c.ranges.length ∧ r.base < base ∧ base + len < r.base + r.len then 1 else 0
  | .barriers cl m => if word m &&& ~~~(s.union sub (·.barrierMask cl)) = 0 then 0 else 1
  | .quotas lq cx nr nw =>
    if c.lquota < lq ∨ c.ctxs < cx ∨ c.nrecv < nr ∨ c.nwr < nw then 1
    else if c.ctxs - cx < (s.subtree child).length - 1 then 4
    else 0
  | .deleg m => if m &&& ~~~c.delegMask = 0 then 0 else 1
  | .cap _ theirs _ => if capKind (c.capAt theirs) = 0 then 1 else 0

/-- A range without a part of it. -/
def Range.without (r : Range) (base len : Nat) : List Range :=
  if r.base ≤ base ∧ base + len ≤ r.base + r.len then
    (if r.base < base then [⟨r.base, base - r.base, r.perm⟩] else []) ++
      if base + len < r.base + r.len then [⟨base + len, r.base + r.len - (base + len), r.perm⟩] else []
  else [r]

/-- A thread raises REVOKED at the instruction that it is parked at, to the issuer (R357, R360). `out` is the result
that it gives up. -/
def State.raiseRevoked (s : State) (uid issuer : Nat) (out : Option Nat) (pc addr : Word) : State :=
  (s.onThread uid fun t => { t.abandon out with pc := pc }).raise uid ⟨.revoked, addr, some issuer⟩ true

/-- Threads parked at a word in revoked frames, or in the queue of a monitor, and requests registered for images there, end
their wait (R357). Those parked at a word of a bank, of which the spec says only that no access of theirs changes it afterwards,
end it likewise (R358, log 92). -/
def State.revokeWaits (s : State) (issuer child : Nat) (frames : List Nat) : State :=
  let hit := (s.waiters ++ s.resq ++ s.overflow).filter fun a => s.within a.asid child && frames.contains (a.pa / 0x10000)
  let gone := fun (a : Acc) => hit.any fun b => b.id == a.id
  let s := { s with
    waiters := s.waiters.filter (!gone ·), resq := s.resq.filter (!gone ·), overflow := s.overflow.filter (!gone ·) }
  forEach (fun (a : Acc) s =>
    match a.owner with
    | .thread u => if a.out = 0 then s else s.raiseRevoked u issuer (some a.out) a.pc a.va
    | _ => s) hit s

/-- Children's holdings of a counted amount are cut to what their parent still holds (R355). `need` is what a child must
keep, and `each` what the parent has used for each of them. -/
def State.fitBudget (s : State) (f : Ctx → Nat) (set : Ctx → Nat → Ctx) (need : State → Nat → Nat) (each : Nat) : Nat → Nat → State
  | 0, _ => s
  | n + 1, a =>
    let kids := s.children a
    let spare := f (s.ctx a) - kids.foldl (fun m c => m + each + need s c) 0
    let x := forEach (fun c (acc : State × Nat) =>
      let v := min (f (acc.1.ctx c)) (need s c + acc.2)
      ((acc.1.onCtx c (set · v)).fitBudget f set need each n c, acc.2 - (v - need s c))) kids (s, spare)
    x.1

/-- The first phase of a revocation (R356): in one instant the items leave the child and every descendant. -/
def State.markRevoke (s : State) (child : Nat) (i : Item) : State :=
  let sub := s.subtree child
  let onSub := fun (s : State) (f : Ctx → Ctx) => forEach (fun a s => s.onCtx a f) sub s
  match i with
  | .slots carved flags => onSub s fun c => { c with slotmask := c.slotmask &&& ~~~(carved ||| flags) }
  | .cores l _ =>
    forEach (fun a s => s.writeCoreset a) sub (onSub s fun c => { c with coreset := c.coreset.filter fun k => !l.contains k })
  | .units m => onSub s fun c => { c with bankmask := c.bankmask &&& ~~~m }
  | .memory base len _ => s.onCtx child fun c => { c with ranges := c.ranges.flatMap (·.without base len) }
  | .barriers cl m => onSub s fun c => c.setBarriers cl (c.barrierMask cl &&& ~~~(word m))
  | .quotas lq cx nr nw =>
    let s := s.onCtx child fun c => { c with lquota := c.lquota - lq, ctxs := c.ctxs - cx, nrecv := c.nrecv - nr, nwr := c.nwr - nw }
    let none := fun (_ : State) (_ : Nat) => 0
    let s := s.fitBudget (·.lquota) (fun c v => { c with lquota := v }) none 0 8 child
    let s := s.fitBudget (·.ctxs) (fun c v => { c with ctxs := v }) (fun s a => (s.subtree a).length - 1) 1 8 child
    let s := s.fitBudget (·.nrecv) (fun c v => { c with nrecv := v }) none 0 8 child
    s.fitBudget (·.nwr) (fun c v => { c with nwr := v }) none 0 8 child
  | .deleg m => onSub s fun c => { c with delegMask := c.delegMask &&& ~~~m, deleg := c.deleg &&& ~~~m }
  | .cap _ theirs _ => s.revokeCap 9 child theirs

/-- The frames that a revocation takes: a memory range of the issuer's space, or banks of the child's cores (R358). -/
def State.revokedFrames (s : State) (issuer child : Nat) (i : Item) : List Nat :=
  match i with
  | .memory base len _ => s.rangeFrames issuer (len / 0x10000) base
  | .units m => bankFrames (s.ctx child).coreset m
  | _ => []

/-- What a revocation ends at once in its frames (R357, R358): translations through a range, waits, shadow regions, engine
operations. -/
def State.cutOff (s : State) (issuer child : Nat) (i : Item) : State :=
  let frames := s.revokedFrames issuer child i
  match i with
  | .memory _ _ _ =>
    let s := (s.discardTlb 2 child 0).revokeWaits issuer child frames
    let s := forEach (fun a s => forEach (fun (r : Nat × Shadow) s =>
      if r.2.orig.any frames.contains then s.closeRegion a r.1 else s) (s.ctx a).regions s) (s.subtree child) s
    s.stopCmds child frames
  | .units _ => (s.revokeWaits issuer child frames).stopCmds child frames
  | _ => s

/-- Waits that begin in what a revocation has taken, while it waits for accesses there, end as those before it (R357, R358). -/
def State.settleRevokes (s : State) : State :=
  forEach (fun (w : Revoke) s =>
    if w.holders ≠ [] then s
    else match State.revokedFrames s w.issuer w.child w.item with
      | [] => s
      | l => State.revokeWaits s w.issuer w.child l) s.works s

/-- Accesses of the subtree that are on their way to revoked frames (R358). -/
def State.revokedAccs (s : State) (issuer child : Nat) (i : Item) : List Nat :=
  let frames := s.revokedFrames issuer child i
  if frames = [] then []
  else ((s.accs ++ s.resq).filter fun a => s.within a.asid child && frames.contains (a.pa / 0x10000)).map (·.id)

/-- The threads of a context that a revocation saves (R357): in revoked slots, on revoked cores, with revoked units. No context
but the root saves the urgent slot (R394). -/
def State.revokeThreads (s : State) (issuer : Nat) (i : Item) (a : Nat) : List Nat :=
  let on := fun (p : Nat × Thread → Bool) => (s.threads.filter fun e =>
    !e.2.cc && e.2.inSlot && e.2.asid == a && (issuer == 0 || e.2.slot != 0) && p e).map Prod.fst
  match i with
  | .slots carved _ => on fun e => bit carved e.2.slot
  | .cores l _ => on fun e => l.contains e.2.core
  | .units m => on fun e => (s.core e.2.core).holdsOf e.1 m
  | _ => []

/-- Save a thread that has drained into its context's block (R357, R369): a wait on reflection ends, and the instruction
that trapped issues again (R363). -/
def State.saveBlock (s : State) (uid : Nat) : State :=
  let t := s.thread uid
  let s := s.onThread uid fun t => match t.park with
    | .reflected _ _ _ => { t with park := .run }
    | _ => t
  let s := s.vacate uid (.block t.core)
  if t.inSlot then s.fill t.cc t.core t.slot else s

/-- Threads of a context that wait in run queues for what it no longer holds go to its block (R357). -/
def State.unqueueLost (s : State) (asid : Nat) : State :=
  let lost := fun (e : Nat × Thread) => !e.2.cc && e.2.asid == asid && e.2.place == .queue e.2.core &&
    !s.ownsSlot asid e.2.core e.2.slot
  let us := (s.threads.filter lost).map Prod.fst
  State.resettle (forEach (fun u s =>
    (s.unqueue asid (s.thread u).core (.thread u)).onThread u fun t => { t with place := .block t.core }) us s) us

/-- Scrubbing is counted in the revoking context; how often, the spec does not state (R406). -/
def State.countScrub (s : State) (asid : Nat) : State := s.countN asid 0x060 (Config.freeNat s.free)

/-- Zero the banks of a mask on the listed cores (R357). -/
def State.scrubBanks (s : State) (cores : List Nat) (m : Word) : State :=
  forEach (fun c s =>
    forEach (fun b s =>
      if bit m b then (s.scrub (scratch c (b * 0x20000)) 0x20000).onCore c (·.setCr (0x50 + b) 0) else s) (List.range 16) s)
    cores s

/-- The membership of a revoked core in a group ends (R248), before its threads are saved: those that wait there for a step trap. -/
def State.leaveCores (s : State) (i : Item) (a : Nat) : State :=
  match i with
  | .cores l _ => forEach (fun k s => if (s.core k).nb.active && (s.core k).nb.asid == a then s.leaveGroup k else s) l s
  | _ => s

/-- The effects of a revocation in one context whose threads have drained (R357). -/
def State.leaveItems (s : State) (issuer : Nat) (i : Item) (a : Nat) (us : List Nat) : State :=
  let s := State.resettle (forEach (fun u s => if has s.threads u then s.saveBlock u else s) us s) us
  match i with
  | .slots _ _ => (s.unqueueLost a).rebind a
  | .cores _ _ => (s.unqueueLost a).rebind a
  | .barriers cl m =>
    let s := forEach (fun (e : Nat × Thread) s =>
      if e.2.asid ≠ a then s
      else
        match e.2.waitsOn cl m with
        | none => s
        | some n =>
          s.raiseRevoked e.1 issuer none (match e.2.park with
            | .barrier _ _ => e.2.pc - 8
            | _ => e.2.pc) (word n)) s.threads s
    forEach (fun n s => if m.testBit n then s.setBarrier (cl * 32 + n) Barrier.new else s) (List.range 32) s
  | _ => s

/-- The second phase (R356): the effects come to the holding contexts one at a time, deepest first. The answer has the
contexts that are left and the threads that the first of them waits for. One that has been freed meanwhile holds nothing. -/
def State.cascade (s : State) (issuer : Nat) (i : Item) : List Nat → State × List Nat × List Nat
  | [] => (s, [], [])
  | a :: rest =>
    if !has s.ctxs a then s.cascade issuer i rest
    else
      let s := s.leaveCores i a
      let us := s.revokeThreads issuer i a
      if us.all s.savable then (s.leaveItems issuer i a us).cascade issuer i rest else (s, a :: rest, us)

/-- A revocation ends (R356, R357): banks are scrubbed, and carved items return to the issuer. -/
def State.endRevoke (s : State) (r : Revoke) : State :=
  match r.item with
  | .slots carved _ => s.onCtx r.issuer fun c => { c with slotmask := c.slotmask ||| carved }
  | .units m =>
    let s := (s.scrubBanks (s.ctx r.child).coreset m).countScrub r.issuer
    s.onCtx r.issuer fun c => { c with bankmask := c.bankmask ||| m }
  | .barriers cl m => s.onCtx r.issuer fun c => c.setBarriers cl (c.barrierMask cl ||| word m)
  | _ => s

/-! ### Reset -/

/-- Discard a thread without saving it (R364). -/
def State.discard (s : State) (uid : Nat) : State :=
  let t := s.thread uid
  let s := ((s.dropWaits uid).endResv (.thread uid)).leaveLines uid
  let s := forEach (fun (w : Revoke) s => if w.uid = uid then s.endRevoke w else s) s.works s
  let mine := fun (a : Acc) => a.owner == .thread uid
  let s := if t.cc then s
    else s.onCore t.core fun k =>
      let k := k.freeUnits uid
      { k with
        jobs := k.jobs.filter fun j => j.uid != uid,
        tiles := k.tiles.map fun e => match e.2.drain with
          | some (_, _, _, u, _) => if u = uid then (e.1, Tile.new) else e
          | none => e }
  let s := { s with
    threads := del s.threads uid, works := s.works.filter fun w => w.uid != uid,
    accs := s.accs.filter (!mine ·), waiters := s.waiters.filter (!mine ·), resq := s.resq.filter (!mine ·),
    overflow := s.overflow.filter (!mine ·), cmds := s.cmds.filter fun c => c.accepted || c.uid != uid }
  if t.inSlot then s.fill t.cc t.core t.slot else s

/-- A thread of a subtree is draining for a trap entry, which completes before a reset discards it (R388). -/
def State.trapsDrain (s : State) (a : Nat) : Bool :=
  s.threads.any fun e => s.within e.2.asid a && match e.2.park with
    | .trap _ _ => true
    | _ => false

/-- Step 1 of a reset (R364). -/
def State.resetMark (s : State) (a : Nat) : State := s.onCtx a fun c => { c with state := .resetting }

/-- A launch that a reset ends (R364): what has completed stays as it is. -/
def Launch.reset (l : Launch) : Launch :=
  if l.state = .completed then l else { l with state := .completed, status := 2, quota := false, waiters := [], ending := none }

/-- Steps 2 to 4 of a reset (R364): the threads, launches and engine operations of the subtree are gone. -/
def State.resetBegin (s : State) (a : Nat) : State :=
  let sub := s.subtree a
  let inSub := fun (k : Nat) => sub.contains k
  let s := s.resetMark a
  let s := forEach (fun b s => s.onCtx b fun c => { c with
    inbox := [], heldEvents := [], writing := [], imaged := [], runq := [], overflow := [], spilledTasks := [], spillHead := [],
    refused := [], launches := c.launches.map Launch.reset }) sub s
  let s := forEach (fun (e : Nat × Thread) s => if inSub e.2.asid then s.discard e.1 else s) s.threads s
  let s := forEach (fun (k : Nat × Core) s =>
    if (k.2.nb.active || k.2.nb.pairing.isSome) && inSub k.2.nb.asid then s.leaveGroup k.1 else s) s.cores s
  let s := forEach (fun b s => forEach (fun (r : Nat × Shadow) s => s.closeRegion b r.1) (s.ctx b).regions s) sub s
  let keep := fun (x : Acc) => !inSub x.asid
  let ended := (s.cmds.filter fun c => inSub c.asid).map (·.id)
  let cut := (s.accs.filter fun x => !keep x).map (·.out)
  let s := s.handOver ended
  { s with
    accs := s.accs.filter keep, waiters := s.waiters.filter keep, resq := s.resq.filter keep, overflow := s.overflow.filter keep,
    cmds := s.cmds.filter fun c => !inSub c.asid,
    reqs := s.reqs.filter fun r => !ended.contains r.cmd && match r.answer with
      | some w => !inSub w.asid
      | none => true,
    bufs := s.bufs.filter fun r => !ended.contains r.cmd,
    placing := s.placing.map fun (p : Placed) => if cut.contains p.id then { p with failed := true } else p,
    windows := s.windows.filter fun w => !inSub w.2.asid,
    counts := s.counts.filter fun c => !inSub c.asid,
    cores := s.cores.map fun k => (k.1, { k.2 with deque := k.2.deque.filter fun t => !inSub t.asid }) }

/-- A fast-path result of the subtree is still to become FAILED, or a write of the hardware's to be performed (R276, R364). -/
def State.resetOwes (s : State) (a : Nat) : Bool :=
  ((s.accs ++ s.resq ++ s.overflow).any fun x => s.within x.asid a) ||
    (s.subtree a).any fun b => (s.ctx b).launches.any fun l => match l.fast with
      | some f => f.2
      | none => false

/-- All carved and counted items of a freed context return to another (R364, R371). -/
def State.giveBack (s : State) (from_ tgt : Nat) : State :=
  let c := s.ctx from_
  let s := forEach (fun (b : Nat × Nat) s =>
    forEach (fun n s => if b.2.testBit n then s.setBarrier (b.1 * 32 + n) Barrier.new else s) (List.range 32) s) c.barriers s
  s.onCtx tgt fun p => { p with
    slotmask := p.slotmask ||| (c.slotmask &&& 0x0000FF00FFFFFFFF), bankmask := p.bankmask ||| c.bankmask,
    barriers := (c.barriers.foldl (fun p b => p.setBarriers b.1 (p.barrierMask b.1 ||| word b.2)) p).barriers }

/-- Zero `n` pages that a context holds, in its parent's space (R364). -/
def State.scrubRange (s : State) (parent : Nat) : Nat → Nat → State
  | 0, _ => s
  | n + 1, base =>
    State.scrubRange (match s.anyEntry parent (word base) with
      | none => s
      | some t => if s.kindOf t.raw = none ∨ s.kindOf t.raw = some .csr then s else s.scrub (s.visible t.raw) 0x10000)
      parent n (base + 0x10000)

/-- Remove a context from the tree; the translations tagged with it are discarded. -/
def State.forget (s : State) (a : Nat) : State :=
  { s with ctxs := del s.ctxs a, tlb := s.tlb.filter fun e => e.asid != a && !e.via.any fun p => p.1 == a }

/-- Order contexts deepest first. -/
def State.deepest (s : State) (l : List Nat) : List Nat :=
  (List.range 8).reverse.flatMap fun d => l.filter fun a => (s.ctx a).depth == d

/-- Steps 5 to 8 of a reset (R364) by a context. -/
def State.resetEnd (s : State) (issuer a : Nat) (release : Bool) : State :=
  let sub := s.subtree a
  let s := forEach (fun b s => forEach (fun (e : Nat × Word × Word) s => s.revokeCap 1 b e.1) (s.ctx b).caps s) (s.deepest sub) s
  let s := forEach (fun (k : Nat × Conn) s => if k.2.isOpen && sub.contains k.2.asid then s.closeConn k.1 7 else s) s.conns s
  let s := { s with calls := s.calls.filter fun c => !sub.contains c.asid }
  let s := forEach (fun d s => (s.giveBack d (s.ctx d).parent).forget d) ((s.deepest sub).filter (· ≠ a)) s
  let c := s.ctx a
  let s := forEach (fun (r : Range) s => s.scrubRange c.parent (r.len / 0x10000) r.base) c.ranges s
  let s := (s.scrubBanks c.coreset c.bankmask).countScrub issuer
  let s := s.discardTlb 2 a 0
  let s := s.setCtx a { Ctx.new c.depth c.parent c.block with
    slotmask := c.slotmask, coreset := c.coreset, coredesc := c.coredesc, bankmask := c.bankmask, ranges := c.ranges,
    barriers := c.barriers, lquota := c.lquota, ctxs := c.ctxs, nrecv := c.nrecv, nwr := c.nwr, delegMask := c.delegMask,
    seq := c.seq, launches := c.launches, line := c.line }
  if release then
    (s.giveBack a c.parent).onCtx a fun x => { Ctx.new x.depth x.parent x.block with
      seq := x.seq, launches := x.launches, line := x.line }
  else s

end Sys2Proof.Machine
end

