-- ==== Sys2Proof/Machine/Contexts.lean ====
section
/-! DEFINITION. Group 0xE: creating, granting, running, stopping, answering, resetting, freeing and reading contexts
(R365 to R372). -/

namespace Sys2Proof.Machine

/-! ### Shared operations -/

/-- The context that X(A) names (R365, R366): its ASID is in the bits from `lo` on. `kind` is 0 a child, 1 a
descendant, 2 a descendant or at the root the root, 3 a descendant or the issuer's own. -/
def State.targetCtx (s : State) (xa : Word) (lo kind : Nat) : Except Trap Nat :=
  let n := bits xa (lo + 11) lo
  let a := if n = 0 then s.th.asid else n
  let own := a == s.th.asid
  let ok := has s.ctxs a && s.within a s.th.asid &&
    match kind with
    | 0 => !own && (s.ctx a).parent == s.th.asid
    | 1 => !own
    | 2 => !own || s.th.asid == 0
    | _ => true
  if ok then .ok a else .error (.of .prot xa)

/-- Before it acts, the instruction waits, as a release at .mo, for the issuer's earlier accesses, and for its turn on the
context that it names (R366). -/
def State.turn (s : State) (a : Nat) (go : State → Res) : Res :=
  let act :=
    let l := (s.ctx a).line.filter fun u => u == s.cur || s.inLine u
    let l := if l.contains s.cur then l else l ++ [s.cur]
    let s := s.onCtx a fun c => { c with line := l }
    if l.head? = some s.cur then
      match go s with
      | .done d => .done ((d.unkept).leaveLines s.cur)
      | r => r
    else .park s (.line a)
  if s.th.kept.isEmpty && s.th.trace.isEmpty then s.released 4 act else act

/-- The result of a context instruction. -/
def State.answer (s : State) (d : Opnd) (v : Word) : Res := .done (s.later [.reg d] [.reg d v])

/-- The context or an ancestor is being reset (R364). -/
def State.resetting (s : State) (a : Nat) : Bool :=
  (s.ctx a).state == .resetting || (s.ancestors a).any fun p => (s.ctx p).state == .resetting

/-- Mark that an instruction in progress keeps over a park. -/
def State.keep (s : State) (v : Word) : State := s.setTh { s.th with kept := [v] }

/-! ### Creation -/

/-- The frames of a context block (R367): 512 KiB in HBM that no live block overlaps. -/
def State.blockFrames (s : State) (xa : Word) : Nat → Word → Except Trap (List Nat)
  | 0, _ => .ok []
  | n + 1, va =>
    match s.translate s.who va kWrite with
    | .error t => .error t
    | .ok t =>
      if s.kindOf t.pa ≠ some .hbm ∨ s.ctxs.any fun e => e.2.block.contains (t.raw / 0x10000) then .error (.of .prot xa)
      else
        match s.blockFrames xa n (va + 0x10000) with
        | .error t => .error t
        | .ok l => .ok (t.raw / 0x10000 :: l)

/-- The lowest free ASID (R349, R367). -/
def State.freeAsid (s : State) : Option Nat := ((List.range 4095).map (· + 1)).find? fun a => !has s.ctxs a

/-- `ctxnew` (R367). -/
def execCtxnew (h : Hdr) (d a : Opnd) (s : State) : Host.Outcome State Fault Refusal :=
  native (.ctxnew h d a) (fun s =>
    let xa := s.arg a
    let me := s.th.asid
    s.released 4 <|
      if xa.toNat % 0x10000 ≠ 0 then .trap (.of .align xa)
      else
        match s.checkRange s.who xa 0x80000 kWrite with
        | .error t => .trap t
        | .ok _ =>
          match s.blockFrames xa 8 xa with
          | .error t => .trap t
          | .ok fs =>
            let s := s.rememberAll s.who kWrite (pagesOf xa 0x80000)
            if s.myCtx.depth = 7 then s.answer d allOnes
            else if s.ctxsLeft me = 0 then s.answer d (allOnes - 1)
            else
              match s.freeAsid with
              | none => s.answer d (allOnes - 2)
              | some n =>
                let s := s.setCtx n (Ctx.new (s.myCtx.depth + 1) me fs)
                s.answer d (s.ctxid n)) s

/-! ### Grants and revocations -/

/-- The descriptor of a grant or revocation: 64 bytes, 16-aligned, read as plain loads (R353, R366). -/
def State.itemAt (s : State) (va : Word) (go : State → Option Item → Res) : Res :=
  s.descriptor va 16 64 fun s bs => go s (itemOf bs)

/-- A context instruction that has written CORESET descriptors returns once they have been performed (R332, R366): `kept` is 4
over that wait. -/
def State.afterCoreset (s : State) (l : List Nat) (d : Opnd) : Res :=
  match s.coresetIds l with
  | [] => (s.unkept.leaveLines s.cur).answer d 0
  | ids => .park (s.keep 4) (.quiet ids [])

/-- `ctxgrant` (R354, R368). -/
def execCtxgrant (h : Hdr) (d a b : Opnd) (s : State) : Host.Outcome State Fault Refusal :=
  native (.ctxgrant h d a b) (fun s =>
    let va := s.arg b
    if s.th.kept = [4] then (s.unkept.leaveLines s.cur).answer d 0
    else
      match s.targetCtx (s.arg a) 0 0 with
      | .error t => .trap t
      | .ok c =>
        s.turn c fun s => s.itemAt va fun s item =>
          if s.resetting c then s.answer d 2
          else
            match item with
            | none => s.answer d 3
            | some i =>
              let r := s.grantResult s.th.asid c i
              if r = 0 then (s.applyGrant s.th.asid c i).afterCoreset (match i with
                | .cores _ _ => [c]
                | _ => []) d
              else s.answer d (word r)) s

/-- A revocation under way (R356): the cascade, then the wait for accesses in what is revoked (R358) and for the CORESET
descriptors that it has written (R332), then its end. `kept` is 2 once that wait is over. -/
def State.goRevoke (s : State) (r : Revoke) (d : Opnd) : Res :=
  let others := s.works.filter fun w => w.uid != s.cur
  if s.th.kept = [2] then ((State.endRevoke { s with works := others } r).unkept.leaveLines s.cur).answer d 0
  else
    let x := s.cascade r.issuer r.item r.holders
    let rest := { r with holders := x.2.1 }
    if x.2.1 ≠ [] then .park (State.keep { x.1 with works := others ++ [rest] } 1) (.threads x.2.2)
    else
      let q := x.1.cutOff r.issuer r.child r.item
      match q.revokedAccs r.issuer r.child r.item ++ q.coresetIds (match r.item with
        | .cores _ _ => q.subtree r.child
        | _ => []) with
      | [] => ((State.endRevoke { q with works := others } r).unkept.leaveLines s.cur).answer d 0
      | l => .park (State.keep { q with works := others ++ [rest] } 2) (.quiet l [])

/-- `ctxrevoke` (R356, R368): a revocation whose checks pass is marked in one instant. -/
def execCtxrevoke (h : Hdr) (d a b : Opnd) (s : State) : Host.Outcome State Fault Refusal :=
  native (.ctxrevoke h d a b) (fun s =>
    let va := s.arg b
    match s.works.find? fun w => w.uid == s.cur with
    | some r => s.goRevoke r d
    | none =>
      match s.targetCtx (s.arg a) 0 0 with
      | .error t => .trap t
      | .ok c =>
        s.turn c fun s => s.itemAt va fun s item =>
          if s.resetting c then s.answer d 2
          else
            match item with
            | none => s.answer d 3
            | some i =>
              let r := s.revokeResult c i
              if r = 0 then (s.markRevoke c i).goRevoke ⟨s.cur, s.th.asid, c, i, s.deepest (s.subtree c)⟩ d
              else s.answer d (word r)) s

/-! ### Running and stopping -/

/-- The run queues of a subtree's contexts are served (R369). -/
def State.serveQueues (s : State) (a : Nat) : State :=
  forEach (fun c s => forEach (fun (q : Nat × List QEntry) s =>
    if q.2.isEmpty then s
    else if q.1 < 512 then s.fillCore q.1
    else forEach (fun n s => s.fillControl (q.1 - 512) n) (List.range 4) s) (s.ctx c).runq s) (s.subtree a) s

/-- The target becomes RUNNING; saved counters return (R369, R407). -/
def State.runCtx (s : State) (a : Nat) : State :=
  let s := s.onCtx a fun c => { c with
    state := .running, pcnt := if c.state = .stopped then c.pcntSaved else c.pcnt, pcntSaved := [] }
  s.serveQueues a

/-- `ctxrun` (R369). -/
def execCtxrun (h : Hdr) (d a : Opnd) (s : State) : Host.Outcome State Fault Refusal :=
  native (.ctxrun h d a) (fun s =>
    match s.targetCtx (s.arg a) 0 1 with
    | .error t => .trap t
    | .ok c =>
      s.turn c fun s =>
        if s.resetting c then s.answer d 2
        else if (s.ctx c).state = .running then s.answer d 1
        else (s.runCtx c).answer d 0) s

/-- The threads of a subtree that a stop by a context saves: those in slots or on their way, and the urgent slot's for the
root alone (R369, R394). -/
def State.stopThreads (s : State) (issuer a : Nat) : List Nat :=
  (s.threads.filter fun e => s.within e.2.asid a && (e.2.cc || e.2.slot != 0 || issuer == 0) && match e.2.place with
    | .slot _ => true
    | .moving _ => true
    | _ => false).map Prod.fst

/-- A context becomes STOPPED: from now on its events count in the saved counters (R351, R407). -/
def State.markStopped (s : State) (a : Nat) : State := s.onCtx a fun c => { c with state := .stopped, pcntSaved := c.pcnt }

/-- Save every thread of a list into its context's block. -/
def State.saveAll (s : State) (us : List Nat) : State :=
  forEach (fun u s => if has s.threads u && (s.thread u).inSlot then s.saveBlock u else s) us s

/-- `ctxstop` (R369): `kept` marks the wait for the drains. -/
def execCtxstop (h : Hdr) (d a : Opnd) (s : State) : Host.Outcome State Fault Refusal :=
  native (.ctxstop h d a) (fun s =>
    match s.targetCtx (s.arg a) 0 1 with
    | .error t => .trap t
    | .ok c =>
      s.turn c fun s =>
        if s.resetting c then s.answer d 2
        else if (s.ctx c).state = .stopped ∧ s.th.kept.isEmpty then s.answer d 1
        else
          let s := if s.th.kept.isEmpty then s.markStopped c else s
          let us := s.stopThreads s.th.asid c
          if us.all s.savable then (s.saveAll us).answer d 0
          else .park (s.keep 1) (.threads us)) s

/-! ### Answering traps -/

/-- A thread that waited on reflection goes on at an address. -/
def Thread.goOn (t : Thread) (pc : Word) : Thread := { t with pc := pc, park := .run, buf := [] }

/-- Answer a TRAP event (R370): the state and the result. -/
def State.answerTrap (s : State) (u : Nat) (tr : Trap) (precise : Bool) (act : Nat) : State × Nat :=
  let t := s.thread u
  match act with
  | 0 => (s.onThread u (·.goOn t.pc), 0)
  | 1 => if t.tephra then (s, 2) else (s.onThread u (·.goOn (t.pc + 8)), 0)
  | 2 =>
    if (s.ctx t.asid).tvec = 0 ∨ t.exl then (s, 2)
    else if t.cc then (s.enterControl u tr precise t.pc, 0)
    else (s.enterLocal u tr precise t.pc, 0)
  | _ => (s.endThread u true, 0)

/-- `ctxevt` (R370): an event that is still held has not been posted (R362). -/
def execCtxevt (h : Hdr) (d a b : Opnd) (s : State) : Host.Outcome State Fault Refusal :=
  native (.ctxevt h d a b) (fun s =>
    let xa := s.arg a
    let act := bits (s.arg b) 1 0
    match s.targetCtx xa 16 2 with
    | .error t => .trap t
    | .ok c =>
      s.turn c fun s =>
        match s.named c (bits xa 15 0) with
        | none => s.answer d 1
        | some u =>
          match (s.thread u).park with
          | .reflected tgt tr precise =>
            if tgt ≠ s.th.asid ∨ (s.ctx tgt).heldEvents.any (fun e => e.uid == some u) then s.answer d 1
            else
              let x := s.answerTrap u tr precise act
              x.1.answer d (word x.2)
          | _ => s.answer d 1) s

/-! ### Reset and freeing -/

/-- `ctxreset` in its turn (R364, R371). `kept` is 3 while trap entries of the subtree drain (R388), and 1 between the two
halves of the reset. -/
def State.goReset (s : State) (c : Nat) (release : Bool) (d : Opnd) : Res :=
  if s.th.kept = [1] then if s.resetOwes c then .park s .pass else (s.resetEnd s.th.asid c release).answer d 0
  else if s.trapsDrain c then .park ((s.resetMark c).keep 3) .pass
  else .park ((s.resetBegin c).keep 1) .pass

/-- `ctxreset` (R364, R371): the subtree is RESETTING between its two halves; a reset that finds one under way waits for
it and answers 2. -/
def execCtxreset (h : Hdr) (d a b : Opnd) (s : State) : Host.Outcome State Fault Refusal :=
  native (.ctxreset h d a b) (fun s =>
    match s.targetCtx (s.arg a) 0 1 with
    | .error t => if s.th.kept = [2] then s.unkept.answer d 2 else .trap t
    | .ok c =>
      if s.th.kept.isEmpty ∧ s.resetting c then .park (s.keep 2) .pass
      else if s.th.kept = [2] then if s.resetting c then .park s .pass else s.unkept.answer d 2
      else
        let release := bit (s.arg b) 0
        s.turn c fun s => s.goReset c release d) s

/-- A child can be freed (R371). -/
def State.mayFree (s : State) (a : Nat) : Bool :=
  let c := s.ctx a
  c.state == .new && (s.children a).isEmpty && c.imaged.isEmpty && !(s.threads.any fun e => e.2.asid == a) &&
    !(c.launches.any fun l => l.state == .queued || l.state == .deferred)

/-- `ctxfree` (R371). -/
def execCtxfree (h : Hdr) (d a : Opnd) (s : State) : Host.Outcome State Fault Refusal :=
  native (.ctxfree h d a) (fun s =>
    match s.targetCtx (s.arg a) 0 0 with
    | .error t => .trap t
    | .ok c =>
      s.turn c fun s =>
        if s.mayFree c then ((s.giveBack c s.th.asid).forget c).answer d 0 else s.answer d 1) s

/-! ### Status -/

/-- STATE of `ctxstat`. -/
def CtxState.code : CtxState → Nat
  | .new => 0
  | .running => 1
  | .stopped => 2
  | .resetting => 3

/-- Live threads of a context, saved ones included (R372). -/
def State.liveThreads (s : State) (a : Nat) : Nat :=
  (s.threads.filter fun e => e.2.asid == a).length + (s.ctx a).imaged.length

/-- The status word of a context (R372). -/
def State.statusWord (s : State) (a : Nat) : Word :=
  let c := s.ctx a
  word (c.state.code + (if (s.ancestors a).any fun p => (s.ctx p).state == .stopped then 2 ^ 3 else 0) + a * 2 ^ 4 +
    c.depth * 2 ^ 16 + min c.heldEvents.length 65535 * 2 ^ 20 + min (s.liveThreads a) 65535 * 2 ^ 36 +
    (s.children a).length * 2 ^ 52)

/-- What `ctxstat` answers to a selector (R372). -/
def State.ctxStat (s : State) (a : Nat) (sel : Word) : Word :=
  let c := s.ctx a
  if sel = 0 then s.statusWord a
  else if sel = 1 then c.slotmask
  else if sel = 2 then c.bankmask
  else if sel = 3 then word (c.lquota % 2 ^ 32 * 2 ^ 32 + c.outstanding % 2 ^ 32)
  else if sel = 4 then word (s.ctxsLeft a % 2 ^ 32 * 2 ^ 32 + c.lost % 2 ^ 32)
  else 0

/-- `ctxstat` (R372). -/
def execCtxstat (h : Hdr) (d a b : Opnd) (s : State) : Host.Outcome State Fault Refusal :=
  native (.ctxstat h d a b) (fun s =>
    let sel := s.arg b
    match s.targetCtx (s.arg a) 0 3 with
    | .error t => .trap t
    | .ok c => s.turn c fun s => s.answer d (s.ctxStat c sel)) s

end Sys2Proof.Machine
end

