-- ==== Sys2Proof/Machine/Tephra.lean ====
section
/-! DEFINITION. Tephra bytecode (R258 to R290): values, objects and frames, inline caches, the guard path and `uret`,
allocation and heap-slot stores, launches from a cache hit, and the 39 bytecodes. A bytecode makes its accesses one after
the other; how many of them before other agents act, and which of its plain stores are performed later, is open (R280,
R283). -/

namespace Sys2Proof.Machine

/-! ### Stopping, and accesses -/

/-- What an access that a bytecode makes leads to: bytes, and whether they are uncorrectable; or none where it has been sent
and the thread waits for it. -/
abbrev Made := State × Option (List Byte × Bool)

/-- How a bytecode ends, or pauses, without its effect: a trap, a park that restarts it (R283), guard entry (R272), guard
entry that keeps what the bytecode has allocated (R275 step 5); an access that cannot be performed in this instant; or the
next access, which is still to be made, with whether it writes. -/
inductive Stop where
  | trap (t : Trap)
  | park (p : Park)
  | guard (reason : Nat) (aux site : Word)
  | guardIn (s : State) (reason : Nat) (aux site : Word)
  | wait
  | next (write : Bool) (f : State → Made)

/-- What a bytecode does: a state change with a value, or a stop. -/
abbrev TM := StateT State (Except Stop)

/-- The state. -/
def tGet : TM State := fun s => .ok (s, s)

/-- Change the state. -/
def tPut (s : State) : TM Unit := fun _ => .ok ((), s)

/-- Stop with a trap. -/
def tTrap {α : Type} (c : Cause) (a : Word) : TM α := fun _ => .error (.trap (.of c a))

/-- Enter the guard path. -/
def tGuard {α : Type} (reason : Nat) (aux site : Word) : TM α := fun _ => .error (.guard reason aux site)

/-- Park and restart. -/
def tPark {α : Type} (p : Park) : TM α := fun _ => .error (.park p)

/-- How an access of a bytecode stands to the thread's others: plain, so that a store may be performed after what the bytecode
does next (R283); plain, but performed before that; or a release, and an acquire where it reads, at .mo (R280). -/
inductive Manner where
  | plain
  | inPlace
  | ordered
  deriving DecidableEq, Repr

/-- The head of `bursts` while a body runs: 0, its accesses are made in this instant; 1, each is left for its bytecode's turn to
make; 2, they are tried, to see whether it will trap; 3, this one may be performed later. -/
def State.makes (s : State) : Bool := s.bursts.head? == some 0 || s.bursts.head? == some 2

/-- What other agents see of a bytecode, or may change, in one step: taken from the thread's trace when a turn before this one
has made it; else made, or left for the bytecode's turn to make. -/
def tLive (write : Bool) (check : State → Except Stop (State → Made)) : TM (List Byte) := fun s =>
  match s.th.trace with
  | .got bs bad :: r => if bad then .error (.trap (.of .poison 0)) else .ok (bs, s.setTh { s.th with trace := r })
  | .open _ :: _ => .error .wait
  | [] =>
    match check s with
    | .error e => .error e
    | .ok f =>
      if s.makes then
        match f s with
        | (q, some x) => if x.2 then .error (.trap (.of .poison 0)) else .ok (x.1, q)
        | (_, none) => .error .wait
      else .error (.next write f)

/-- The thread waits before it makes an access. -/
def State.awaits (s : State) (p : Park) : Made := (s.onThread s.cur fun t => { t with park := p, parkedAt := s.now }, none)

/-- An access of a bytecode can be performed in this instant: it reaches no CXL window, the thread follows nothing that is under
way at its home, and no other agent's reservation or bank queue holds it back (R113, R118, R219). A release also has nothing
to wait for (R119). -/
def State.atOnce (s : State) (h : Home) (pa size : Nat) (op : AccOp) (rel : Bool := false) : Bool :=
  (match h with
   | .cxl _ => false
   | _ => true) && (s.mustWait h pa size).isNone && (!op.isResv || s.bankUsed h pa == 0) && (!rel || (s.releaseIds 4).isEmpty)

/-- An access that may be performed later: a store, or a change of RC. -/
def AccOp.later (op : AccOp) : Bool :=
  match op with
  | .store _ => true
  | .atom n _ _ => n == 16
  | _ => false

/-- Make an access of a bytecode: in this instant, or as one on which the thread parks (R106), or as one that it leaves behind. -/
def State.make (s : State) (va : Word) (t : Tr) (size k : Nat) (op : AccOp) (m : Manner := .plain) : Made :=
  let h := s.homeOf t.pa t.attr
  let rel := m == .ordered
  let s := s.remember s.who va k t
  if s.bursts.head? = some 3 ∧ m = .plain ∧ op.later then (s.access va t size op 0 0 false false, some ([], false))
  else if s.bursts.head? = some 2 ∨ s.atOnce h t.pa size op rel then
    let a := s.newAcc (.thread s.cur) s.th.asid 0 0 h va t.pa size op
    let q := s.bump.rehome h t.pa size
    (q.perform a, some (match op with
      | .store _ => ([], false)
      | _ => (q.loadBytes a, q.isPoisoned t.pa size)))
  else
    ((((s.openOut [] .trace 1).access va t size op s.next 0 (rel && op.isLoad) rel 4).note (.open s.next)).onThread s.cur fun t =>
      { t with park := .own s.next, parkedAt := s.now, buf := [] }, none)

/-- The value of an aligned store. -/
def AccOp.stored : AccOp → Word
  | .store bs => BitVec.ofNat 64 (fromBytes bs)
  | _ => 0

/-- Reach an address (R267, R283): the checks of R167, and those of the control-and-status window (R335). -/
def State.reach (s : State) (va : Word) (size k : Nat) (op : AccOp) : Except Stop Tr :=
  match s.check s.who va size k with
  | .error t => .error (.trap t)
  | .ok t =>
    if s.csrBad t.pa size (!op.isResv) then .error (.trap (.of .prot va))
    else
      match if op.isStore then s.csrFault t.pa op.stored va else none with
      | some tr => .error (.trap tr)
      | none => .ok t

/-- What an access of a bytecode waits for before it is checked: the thread's fences (R171), and what its walk follows (R377). -/
def State.beforeReach (s : State) (va : Word) (k : Nat) (op : AccOp) : List Need :=
  if s.bursts.head? = some 2 then [] else s.fenced op.isLoad op.isStore ++ s.walkAfter va k

/-- An access of a bytecode. -/
def tAccess (va : Word) (size k : Nat) (op : AccOp) (m : Manner := .plain) : TM (List Byte) :=
  tLive op.isStore fun s =>
    match s.beforeReach va k op with
    | [] =>
      match s.reach va size k op with
      | .error e => .error e
      | .ok t => .ok fun q => q.make va t size k op m
    | l => .ok fun q => q.awaits (.ids l)

/-- Read `size` bytes, a plain access at .th. -/
def tRead (va : Word) (size : Nat) : TM Word := do return BitVec.ofNat 64 (fromBytes (← tAccess va size kRead .load))

/-- Write `size` bytes. -/
def tWrite (va : Word) (size : Nat) (v : Word) (m : Manner := .plain) : TM Unit := do
  let _ ← tAccess va size kWrite (.store (toBytes size v.toNat)) m

/-- Change a word at its home in one instant; the answer is the old value. -/
def tAtom (va : Word) (op : Nat) (b d : Word) (m : Manner := .plain) : TM Word := do
  return BitVec.ofNat 64 (fromBytes (← tAccess va 8 kWrite (.atom op b d) m))

/-- Read a private register; a poisoned one traps (R27). -/
def tX (n : Nat) : TM Word := fun s =>
  if s.th.xPoison.contains n then .error (.trap (.of .poison 0)) else .ok (s.xr n, s)

/-- Write a private register. -/
def tSetX (n : Nat) (v : Word) : TM Unit := fun s => .ok ((), s.setTh (s.th.setX n v))

/-- The pc: in a body it is that of the next bytecode. -/
def tPc : TM Word := fun s => .ok (s.th.pc, s)

/-- Continue at an address, with the buffer discarded (R110). -/
def tGo (a : Word) : TM Unit := fun s => .ok ((), s.jumpTo a)

/-- Jump by a number of words from the word after the instruction (R282). -/
def tJump (off : Word) : TM Unit := do tGo ((← tPc) + off * 4)

/-- Set bits in FLAGS. -/
def tFlag (f : Word) : TM Unit := fun s => .ok ((), s.flag f)

/-- Run an action for each element, in order. -/
def tEach {α : Type} (f : α → TM Unit) : List α → TM Unit
  | [] => pure ()
  | a :: r => do f a; tEach f r

/-- Run an action for each element and collect what it answers. -/
def tAll {α β : Type} (f : α → TM β) : List α → TM (List β)
  | [] => pure []
  | a :: r => do
    let b ← f a
    let bs ← tAll f r
    pure (b :: bs)

/-! ### Registers of the interpreter, frames and constants (R258, R265, R267) -/

/-- The address of f(n). -/
def tFrameAt (n : Nat) : TM Word := do return (← tX 28) + word (8 * n)

/-- f(n). -/
def tF (n : Nat) : TM Word := do tRead (← tFrameAt n) 8

/-- f(n) := v. -/
def tSetF (n : Nat) (v : Word) : TM Unit := do tWrite (← tFrameAt n) 8 v

/-- A field of the current function object. -/
def tFn (off : Nat) : TM Word := do tRead ((← tX 29) + word off) 8

/-- K(n). -/
def tK (n : Nat) : TM Word := do tRead ((← tFn 24) + word (8 * n)) 8

/-! ### Values (R261 to R263) -/

/-- nil, false and true. -/
abbrev vNil : Word := 0x3
abbrev vFalse : Word := 0xB
abbrev vTrue : Word := 0x13

/-- The tag of a value. -/
def tagOf (v : Word) : Nat := bits v 2 0

/-- The value has a layout of R261. -/
def valueOk (v : Word) : Bool :=
  match tagOf v with
  | 0 => true
  | 1 => true
  | 2 => bits v 31 3 == 0
  | 3 => decide (bits v 63 3 ≤ 2)
  | _ => false

/-- Examine a value: TYPE at a layout that is not one of R261. -/
def tExamine (v : Word) : TM Unit := if valueOk v then pure () else tTrap .type v

/-- The number that a small integer holds. -/
def smallOf (v : Word) : Int := (v.sshiftRight 3).toInt

/-- A small integer. -/
def mkInt (n : Int) : Word := BitVec.ofInt 64 (n * 8)

/-- A number that a small integer can hold. -/
def intFits (n : Int) : Bool := decide (-2 ^ 60 ≤ n) && decide (n < 2 ^ 60)

/-- The small integer of an address (R267, R268). -/
def mkAddr (a : Word) : Word := a <<< 3

/-- The address that a small integer holds. -/
def addrOf (v : Word) : Word := v.sshiftRight 3

/-- true or false. -/
def mkBool (b : Bool) : Word := if b then vTrue else vFalse

/-- The value is false (R263). -/
def isFalse (v : Word) : Bool := v == vNil || v == vFalse || v == 0 || v == 2 || v == 0x8000000000000002

/-- The value is a small integer, else TYPE. -/
def tInt (v : Word) : TM Int := if tagOf v = 0 then pure (smallOf v) else tTrap .type v

/-- The KIND of a heap object, none for another value. -/
def tKind (v : Word) : TM (Option Nat) := do
  tExamine v
  if tagOf v = 1 then
    let h ← tRead (v - 1) 8
    pure (some (bits h 3 0))
  else pure none

/-- KIND numbers of R264. -/
abbrev kTensor : Nat := 1
abbrev kArray : Nat := 2
abbrev kMap : Nat := 3
abbrev kFunction : Nat := 4
abbrev kCell : Nat := 5
abbrev kNativeFn : Nat := 9

/-- Touch a value (R278): a tensor with FAILED enters the guard path. -/
def tTouch (site : Word) (v : Word) : TM Unit := do
  tExamine v
  if tagOf v = 1 then
    let h ← tRead (v - 1) 8
    if bits h 3 0 = kTensor ∧ bit h 4 then tGuard 3 v site else pure ()
  else pure ()

/-- The class word of a value (R262). -/
def tClass (v : Word) : TM Word := do
  match ← tKind v with
  | none => pure (if tagOf v = 0 then 0x8000000000000000 else if tagOf v = 2 then 0x8000000000000001 else 0x8000000000000002)
  | some k =>
    if k = kTensor then tRead (v + 15) 8
    else
      let h ← tRead (v - 1) 8
      pure (0xC000000000000000 + word (bits h 63 32))

/-! ### The guard path (R272) -/

/-- Guard entry at the bytecode at `pc`: the native handler at GHVEC, or GUARD when there is none (R64). -/
def State.guardEnter (s : State) (pc : Word) (reason : Nat) (aux site : Word) : State :=
  let gh := s.myCtx.ghvec &&& ~~~7
  let s := s.setTh { s.th with pc := pc }
  if gh = 0 then s.raise s.cur (.of .guard pc) true
  else
    let s := s.count s.th.asid 0x055
    let t := ((((s.th.setX 19 aux).setX 20 (word reason)).setX 21 pc).setX 22 site).setX 23 0
    s.setTh { t with guard := true, tephra := false, pc := gh, buf := [] }

/-- Bytes of a bytecode (R282). -/
def codeBytes (i : Instr) : Word :=
  match encode i with
  | .byte2 _ _ => 8
  | _ => 4

/-- The choice of `bursts` that governs the next run of a body. -/
def State.burst (s : State) (n : Nat) : State := { s with bursts := n :: s.bursts }

/-- That choice is used up. -/
def State.spent (s : State) : State := { s with bursts := s.bursts.tail }

/-- What is left of a bytecode in progress that ends in a stop: no trace, and nothing held for a launch. -/
def State.untraced (s : State) : State :=
  if s.th.trace.isEmpty then s else s.dropHeld.setTh { s.th with trace := [] }

/-- What a stop of a bytecode at `s` comes to. -/
def Stop.outcome (e : Stop) (s : State) : State :=
  let q := s.untraced
  match e with
  | .trap t => q.raise s.cur t true
  | .park p => q.parkAt s.th.pc p
  | .guard r a c => q.guardEnter s.th.pc r a c
  | .guardIn d r a c => d.spent.dropHeld.guardEnter s.th.pc r a c
  | _ => q

/-- How far a turn takes a body: to its end, to a stop, or to accesses that are still to be made. -/
inductive TEnd where
  | fin (d : State)
  | stop (e : Stop) (s : State)
  | more (s : State)

/-- The trap that a body comes to, if everything that it still does is done in this instant. -/
def State.foresees (s : State) (m : State → Except Stop (Unit × State)) : Option Trap :=
  match m (s.burst 2) with
  | .error (.trap t) => some t
  | _ => none

/-- Make up to `n` accesses of a body, one by one. A trap that a later one takes is found before a write is made, so that it is
precise (R4, R283); the thread's own accesses are performed before that is decided. A choice of the run decides which plain
stores are performed later. -/
def tSteps (m : State → Except Stop (Unit × State)) : Nat → State → TEnd
  | 0, s =>
    match m (s.burst 1) with
    | .ok (_, d) => .fin d.spent
    | _ => .more s
  | n + 1, s =>
    match m (s.burst 1) with
    | .ok (_, d) => .fin d.spent
    | .error (.next w f) =>
      match if w then s.foresees m else none with
      | some t =>
        match s.earlierIds s.cur true true 6 with
        | [] => .stop (.trap t) s
        | l => .more (s.awaits (.ids l)).1
      | none =>
        match f (s.burst (if Config.freeBit s.free s.next then 3 else 1)) with
        | (q, some x) => tSteps m n (q.spent.note (.got x.1 x.2))
        | (q, none) => .more q.spent
    | .error e => .stop e s

/-- A turn of a body in which up to `n` accesses are made, or, for 0, all that can be performed in this instant. -/
def tRun (m : State → Except Stop (Unit × State)) (n : Nat) (s : State) : TEnd :=
  match m (s.burst 0) with
  | .ok (_, d) => if n = 0 then .fin d.spent else tSteps m n s
  | .error .wait => tSteps m (if n = 0 then 65536 else n) s
  | .error e => .stop e s

/-- How many accesses the next turn of a bytecode makes. -/
def State.nextBurst (s : State) : Nat :=
  match s.bursts with
  | n :: _ => n
  | [] => Config.freeNat s.free

/-- The meaning of a bytecode with a body (R283): it waits for the thread's results; its body runs with the pc advanced by its
words. -/
def bytecode (i : Instr) (body : TM Unit) (s : State) : Host.Outcome State Fault Refusal :=
  if !has s.threads s.cur then .fault .noThread
  else if !s.th.outst.isEmpty then .next (s.parkAt s.th.pc .drain)
  else
    match tRun (fun q => body (q.advance (codeBytes i))) s.nextBurst s.spent with
    | .fin d => .next ((d.count s.th.asid 0x054).finish s.th.pc false false)
    | .stop e q => .next (e.outcome q)
    | .more q => .next { q with free := q.free + 1 }

/-! ### Inline caches (R269, R270) -/

/-- The address of site `ic` of the current function. -/
def tSite (ic : BitVec 16) : TM Word := do return (← tFn 32) + word (256 * ic.toNat)

/-- What a control core holds of an inline-cache entry (R110). -/
def State.icCopy (s : State) (va : Word) : Option (List Byte) :=
  (s.icCopies.find? fun c => c.1 == s.th.core && c.2.1 == s.th.asid && c.2.2.1 == va.toNat).map fun c => c.2.2.2

/-- Word `i` of an entry joins the copy of those before it. -/
def State.icKeep (s : State) (va : Word) (i : Nat) (bs : List Byte) : State :=
  let old := if i = 0 then [] else (s.icCopy va).getD []
  if old.length ≠ 8 * i then s
  else { s with icCopies := (s.th.core, s.th.asid, va.toNat, old ++ bs) ::
    s.icCopies.filter fun c => !(c.1 == s.th.core && c.2.1 == s.th.asid && c.2.2.1 == va.toNat) }

/-- Read word `i` of an entry from memory, which makes a copy. -/
def State.icMake (s : State) (va : Word) (i : Nat) (t : Tr) : Made :=
  match s.make (va + word (8 * i)) t 8 kRead .load with
  | (q, some x) => (if x.2 then q else q.icKeep va i x.1, some x)
  | r => r

/-- Read word `i` of an entry; a header, instead, finds a whole copy that no `icsync` has discarded (R110, R173, R271). -/
def tIcWord (va : Word) (i : Nat) : TM (List Byte) :=
  tLive false fun s =>
    match s.beforeReach (va + word (8 * i)) kRead .load with
    | [] =>
      match s.reach (va + word (8 * i)) 8 kRead .load with
      | .error e => .error e
      | .ok t => .ok fun q =>
        match q.icCopy va with
        | none => q.icMake va i t
        | some c =>
          if i = 0 ∧ c.length = 64 ∧ c ≠ q.bytes t.pa 64 ∧ Config.useStale q.free va.toNat then (q, some (c, false))
          else q.icMake va i t
    | l => .ok fun q => q.awaits (.ids l)

/-- Read an entry: the header, and then the words after it (R270). -/
def tEntry (va : Word) : TM (List Byte) := do
  let h ← tIcWord va 0
  if h.length = 64 then pure h
  else
    let ws ← tAll (fun i => tIcWord va (i + 1)) (List.range 7)
    pure (h ++ ws.flatten)

/-- The fields of an entry's header (R269). -/
def icKind (e : List Byte) : Nat := bits (dword e 0) 1 0
def icAct (e : List Byte) : Nat := bits (dword e 0) 7 6
def icOp (e : List Byte) : Nat := bits (dword e 0) 11 8
def icNarg (e : List Byte) : Nat := bits (dword e 0) 15 12
def icShape (e : List Byte) : Nat := bits (dword e 0) 63 32

/-- Look through entries from `n` on, `left` of them. -/
def tSearch (base : Word) (kind : Nat) (hit : List Byte → Bool) : Nat → Nat → TM (Word × List Byte)
  | 0, _ => tGuard 1 0 base
  | left + 1, n => do
    let a := base + word (64 * n)
    let e ← tEntry a
    if n = 0 ∧ bit (dword e 0) 2 then tGuard 2 0 base
    else if icKind e = kind ∧ hit e then
      if icAct e = 3 ∨ (kind = 1 ∧ ((dword e 1).toNat < 16 ∨ (dword e 1).toNat % 8 ≠ 0)) then tTrap .type a
      else pure (a, e)
    else tSearch base kind hit left (n + 1)

/-- A lookup at a site (R270). -/
def tLookup (ic : BitVec 16) (kind : Nat) (hit : List Byte → Bool) : TM (Word × List Byte) := do
  let base ← tSite ic
  let w ← tFn 48
  if bits w 31 16 ≤ ic.toNat then tTrap .type base else tSearch base kind hit 4 0

/-- The key words of classes (R269): up to four, the rest zero. -/
def icKeys (e : List Byte) (cls : List Word) : Bool := (List.range 4).all fun i => dword e (2 + i) == cls.getD i 0

/-! ### Allocation and heap-slot stores (R279, R280) -/

/-- The arena descriptor, 0 for none. Its address stays what the bytecode has first found (R64). -/
def tArena : TM Word := do
  return BitVec.ofNat 64 (fromBytes (← tLive false fun _ => .ok fun q =>
    (q, some (toBytes 8 (q.myCtx.arena &&& ~~~0x3F).toNat, false))))

/-- MARKING. -/
def tMarking : TM Bool := do
  let ar ← tArena
  if ar = 0 then pure false
  else
    let ph ← tRead (ar + 32) 8
    pure (bit ph 0)

/-- The GC bits of a new object (R275). -/
def tGc : TM Word := do return if ← tMarking then 2 else 0

/-- Write `n` words from an address on with what the spec does not state. -/
def tFill (va : Word) : Nat → TM Unit
  | 0 => pure ()
  | n + 1 => do
    tFill va n
    fun s => tWrite (va + word (8 * n)) 8 (word (fromBytes ((List.range 8).map fun i => Config.freeByte s.free (8 * n + i))))
      .plain s

/-- Round up to 64. -/
def up64 (n : Nat) : Nat := (n + 63) / 64 * 64

/-- Allocate bytes from the arena, in one atomic operation on CUR; failure enters the guard path with reason 4. Every word is
written (R279). -/
def tAlloc (n : Nat) (site : Word) : TM Word := do
  let n := up64 n
  let ar ← tArena
  if ar = 0 then tGuard 4 (word n) site
  else
    let lim ← tRead (ar + 8) 8
    let cur ← tAtom ar 18 (word n) lim .ordered
    if lim.toNat < cur.toNat + n then tGuard 4 (word n) site
    else
      tFill cur (n / 8)
      pure cur

/-- Add 1 to RC of an object, unless it is sticky: an atomic operation of its own (R280). -/
def tRetain (v : Word) : TM Unit := do
  if tagOf v = 1 then
    let _ ← tAtom (v + 7) 16 0 0
  else pure ()

/-- Append an object to the zero-count queue, if it has room. -/
def tZeroCount (obj : Word) : TM Unit := do
  let ar ← tArena
  if ar = 0 then pure ()
  else
    let t ← tAtom (ar + 64) 0 1 0
    let size ← tRead (ar + 48) 8
    let head ← tRead (ar + 56) 8
    if (t - head).toNat < size.toNat then
      let base ← tRead (ar + 40) 8
      tWrite (base + word (8 * (t.toNat % size.toNat))) 8 obj
    else pure ()

/-- Subtract 1 from RC of an object: not when it is sticky or 0; a fall to 0 appends it to the zero-count queue. -/
def tRelease (v : Word) : TM Unit := do
  if tagOf v = 1 then
    let w ← tAtom (v + 7) 17 0 0
    if bits w 63 16 = 1 then tZeroCount (v - 1) else pure ()
  else pure ()

/-- Mark the card of an object while MARKING is set. -/
def tCard (obj : Word) : TM Unit := do
  if ← tMarking then
    let ar ← tArena
    let hb ← tRead (ar + 16) 8
    let cb ← tRead (ar + 24) 8
    tWrite (cb + ((obj - hb) >>> 9)) 1 1 .ordered
  else pure ()

/-- Whether the slot is written before RC of the new value rises: towards other threads the two are not ordered (R280). -/
def tSlotFirst : TM Bool := do
  let l ← tLive false fun _ => .ok fun q =>
    (q, some ([if q.bursts.head? = some 1 then Config.freeByte q.free q.next else 0], false))
  return (l.getD 0 0).getLsbD 0

/-- RC of the new value rises, and the slot is swapped (R280 steps 1 and 2). -/
def tSwap (slot v : Word) : TM Word := do
  if ← tSlotFirst then
    let old ← tAtom slot 8 v 0 .ordered
    tRetain v
    pure old
  else
    tRetain v
    tAtom slot 8 v 0 .ordered

/-- A store of a value into a heap slot of an object (R280). -/
def tHeapStore (slot obj v : Word) : TM Unit := do
  let old ← tSwap slot v
  tRelease old
  tCard obj

/-- The first store into a slot of a new object: what memory held there is no value of the object, and is not released. -/
def tFirstStore (slot obj v : Word) : TM Unit := do
  let _ ← tSwap slot v
  tCard obj

/-! ### Calls (R47, R267, R288) -/

/-- Push a link entry (R47). -/
def tPush (e : Word) : TM Unit := do
  let s ← tGet
  if s.th.link.length < 8 then tPut (s.setTh { s.th with link := e :: s.th.link })
  else
    let a := s.spillAt s.th.spilled
    if s.myCtx.spillLimit < 8 * (s.th.spilled + 1) then tTrap .linkOvf a
    else
      tWrite a 8 (s.th.link.getLastD 0)
      fun s => .ok ((), s.setTh { s.th with link := e :: s.th.link.dropLast, spilled := s.th.spilled + 1 })

/-- Pop the newest link entry (R47). -/
def tPop : TM Word := do
  let s ← tGet
  match s.th.link with
  | e :: r => do
    tPut (s.setTh { s.th with link := r })
    pure e
  | [] =>
    if s.th.spilled = 0 then tTrap .linkUnf 0
    else
      let e ← tRead (s.spillAt (s.th.spilled - 1)) 8
      fun s => .ok (e, s.setTh { s.th with spilled := s.th.spilled - 1 })

/-- Leave for native code at an address. -/
def tNativeMode (a : Word) : TM Unit := fun s => .ok ((), s.setTh { s.th with tephra := false, pc := a, buf := [] })

/-- A native call (R288): the address of f(A), up to four operands, and their count. -/
def tNativeCall (a : BitVec 8) (target : Word) (args : List Word) : TM Unit := do
  tPush (linkEntry (← tPc) true)
  tSetX 1 (← tFrameAt a.toNat)
  tEach (fun i => tSetX (2 + i) (args.getD i 0)) (List.range args.length)
  tSetX 6 (word args.length)
  tNativeMode target

/-- NFRAME and NPARAM of a function object (R265). -/
def nframeOf (w : Word) : Nat := if bits w 15 8 = 0 then 256 else bits w 15 8
def nparamOf (w : Word) : Nat := bits w 7 0

/-- Call a function object with `b` arguments in f(a + 3) onward (R267). -/
def tEnter (fn : Word) (a b : Nat) (site : Word) : TM Unit := do
  let fb ← tX 28
  let nfb := fb + word (8 * (a + 3))
  let w ← tRead (fn + 48) 8
  let lim ← tX 30
  if lim.toNat < nfb.toNat + 8 * nframeOf w then tGuard 6 0 site
  else if b ≠ nparamOf w then tGuard 5 0 site
  else
    let code ← tRead (fn + 16) 8
    let me ← tX 29
    tSetF (a + 1) (mkAddr fb)
    tSetF (a + 2) (mkAddr me)
    tEach (fun i => tWrite (nfb + word (8 * (b + i))) 8 vNil) (List.range (nframeOf w - b))
    tPush (linkEntry (← tPc) true)
    tSetX 28 nfb
    tSetX 29 fn
    tGo code

/-- `raise` of a value (R268). -/
def tRaise (v : Word) : TM Unit := do
  let r ← tX 31
  if r = 0 then tGuard 8 v 0
  else
    let h ← tRead r 8
    let fb ← tRead (r + 8) 8
    let fn ← tRead (r + 16) 8
    let prev ← tRead (r + 24) 8
    let d ← tRead (r + 32) 8
    let s ← tGet
    let now := s.th.link.length + s.th.spilled
    if (now : Int) < smallOf d ∨ smallOf d < 0 then tTrap .type d
    else
      let k := now - (smallOf d).toNat
      tWrite r 8 v
      tSetX 28 (addrOf fb)
      tSetX 29 (addrOf fn)
      tSetX 31 (addrOf prev)
      fun s => .ok ((), State.jumpTo (s.setTh { s.th with
        link := s.th.link.drop k, spilled := s.th.spilled - (k - s.th.link.length) }) (addrOf h))

/-! ### Launching from a cache hit (R274, R275) -/

/-- The value is a tensor. -/
def tIsTensor (v : Word) : TM Bool := do
  match ← tKind v with
  | some k => pure (k == kTensor)
  | none => pure false

/-- Park while PENDING of a tensor is not 0, and with `inuse` while INUSE is not (R277). -/
def tSettle (inuse : Bool) (v : Word) : TM Unit := do
  if ← tIsTensor v then
    let p ← tRead (v + 111) 8
    let u ← if inuse then tRead (v + 119) 8 else pure 0
    if p ≠ 0 ∨ u ≠ 0 then tPark (.tensor (v + 111) inuse) else pure ()
  else pure ()

/-- A DTYPE that a result may have (R266). -/
def dtypeOk (d : Nat) : Bool := decide (d ≤ 7) || d == 10

/-- Bytes of `n` elements of a format (R71); a raw element is a byte. -/
def tensorBytes (d n : Nat) : Nat := (n * ((Ty.ofFmt d).getD .e8m0).width + 7) / 8

/-- Row-major strides of dimensions (R275). -/
def strides : List Nat → List Nat
  | [] => []
  | _ :: r => r.foldl (· * ·) 1 :: strides r

/-- The source operand's CLASS and dimensions, with the TYPE checks of R275. -/
def tSource (tmpl : Word) (rclass rdims : Nat) (ops : List Word) : TM (Word × List Nat) := do
  if rdims = 3 ∨ !dtypeOk (rclass % 16) then tTrap .type tmpl
  else if rdims = 2 then
    if rclass / 16 % 8 ≠ 0 then tTrap .type tmpl else pure (0, [1, 1, 1, 1])
  else
    match ops[rdims]? with
    | none => tTrap .type tmpl
    | some v =>
      if ← tIsTensor v then
        let c ← tRead (v + 15) 8
        if bits c 6 4 ≠ rclass / 16 % 8 then tTrap .type tmpl
        else
          let ds ← tAll (fun i => tRead (v + 23 + word (8 * i)) 8) (List.range 4)
          pure (c, ds.map (·.toNat))
      else tTrap .type tmpl

/-- The result tensor of a template (R275 step 4). -/
def tResult (res : Word) (shape rclass rdims : Nat) (cls : Word) (dims : List Nat) : TM Unit := do
  tWrite res 8 (word (shape * 2 ^ 32 + kTensor))
  tWrite (res + 8) 8 (← tGc)
  let c := if rdims = 2 then word rclass else word (rclass ||| 0x80) + word (bits cls 39 8 * 2 ^ 8)
  tWrite (res + 16) 8 c
  tEach (fun i => tWrite (res + word (24 + 8 * i)) 8 (word (dims.getD i 1))) (List.range 4)
  tEach (fun i => tWrite (res + word (56 + 8 * i)) 8 (word ((strides dims).getD i 1))) (List.range 4)
  tWrite (res + 88) 8 (res + 128)
  tWrite (res + 96) 8 0
  tWrite (res + 104) 8 (word (rclass % 16))
  tWrite (res + 112) 8 0
  tWrite (res + 120) 8 0

/-- Reserve a record in a launch queue, and an entry of the launch table (R275 step 2). -/
def tReserve (q : Nat) : TM Nat := do
  return fromBytes (← tLive false fun s =>
    if 256 ≤ s.myCtx.inQueue q then .error (.park (.launchQueue q))
    else
      match s.myCtx.freeEntry with
      | none => .error (.park .launchTable)
      | some n => .ok fun p => (p.holdEntry n q, some (toBytes 8 n, false)))

/-- The launch of step 5 of R275, in the entry that is held for it: a release at level 0's scope, as by `launch`. A refused one
enters the guard path. -/
def tEnterLaunch (rec blk res site : Word) (n : Nat) : TM Word := do
  return BitVec.ofNat 64 (fromBytes (← tLive true fun s =>
    match s.launchWait rec with
    | some p => .ok fun q => q.awaits p
    | none =>
      match s.readLaunch s.who rec with
      | .error (.nested t) => .error (.trap t)
      | .error (.status st) => .error (.guardIn (s.countLaunch s.who rec) 7 (word st) site)
      | .ok (r, e, ms) => .ok fun p =>
        let p := p.countLaunch p.who rec
        let x := p.enterLaunch p.th.asid n (bits rec 3 0) r e ms blk false (some (res, false))
          (p.releaseIds ((r.levels.map (·.scope)).headD 4))
        (x.1, some (toBytes 8 x.2.1.toNat, false))))

/-- Step 7 has been made: the launch unit may process the completion (R276). -/
def tMade (hd res : Word) : TM Unit := fun s =>
  .ok ((), s.onCtx s.th.asid fun c => { c with
    launches := modFirst (fun l => l.handle == hd) (fun l => { l with fast := some (res, true) }) c.launches })

/-- Steps 5 to 8 of R275. -/
def tLaunch (a : BitVec 8) (rec blk res : Word) (ops : List Word) (site : Word) (n : Nat) : TM Unit := do
  let hd ← tEnterLaunch rec blk res site n
  tEach (fun v => do
    if ← tIsTensor v then
      let _ ← tAtom (v + 119) 0 1 0 .ordered
    else pure ()) ops
  if res = 0 then tSetF a.toNat vNil
  else
    tWrite (res + 112) 8 hd .inPlace
    tSetF a.toNat (res + 1)
  tMade hd res

/-- A hit whose ACT is 2 (R275). -/
def tFast (a : BitVec 8) (tmpl : Word) (ops : List Word) (site : Word) : TM Unit := do
  tEach (tSettle false) ops
  tEach (tTouch site) ops
  let rec_ ← tRead tmpl 8
  let w1 ← tRead (tmpl + 8) 8
  let w2 ← tRead (tmpl + 16) 8
  let rclass := bits w1 7 0
  let rdims := bits w2 1 0
  let src ← if rclass = 0 then pure (0, []) else tSource tmpl rclass rdims ops
  let n ← tReserve (bits rec_ 3 0)
  let args := up64 (8 * (ops.length + 2))
  let data := if rclass = 0 then 0 else 128 + up64 (tensorBytes (rclass % 16) (src.2.foldl (· * ·) 1))
  let blk ← tAlloc (args + data) site
  let res := if rclass = 0 then 0 else blk + word args
  tWrite blk 8 (word ops.length)
  tWrite (blk + 8) 8 (if res = 0 then 0 else res + 1)
  tEach (fun i => tWrite (blk + word (16 + 8 * i)) 8 (ops.getD i 0)) (List.range ops.length)
  if rclass = 0 then pure () else tResult res (bits w2 63 32) rclass rdims src.1 src.2
  tLaunch a rec_ blk res ops site n

/-! ### `uret` (R165, R273) -/

/-- Return to Tephra mode at the bytecode at X(21), with the guard bit cleared (R273). -/
def State.uretMode (s : State) : State :=
  s.setTh { s.th with guard := false, tephra := true, pc := s.arg ⟨false, 21⟩, buf := [] }

/-- The raise of X(23) as if by a `raise` at X(21) (R273); where an access of it must wait, `uret` is issued again. -/
def State.uretRaise (s : State) : Res :=
  match tRun (fun q => tRaise (s.arg ⟨false, 23⟩) q.uretMode) 0 s with
  | .fin d => .done d
  | .stop e q => .done (e.outcome q.uretMode)
  | .more q => .park q q.th.park

/-- `uret` (R165, R273). -/
def execUret (h : Hdr) (kind : BitVec 2) (s : State) : Host.Outcome State Fault Refusal :=
  native (.uret h kind) (fun s =>
    if !(s.th.cc && s.th.guard && !s.th.sup) then .trap (.of .illegalOp (Instr.uret h kind).word)
    else if s.arg ⟨false, 23⟩ = 0 then .done s.uretMode
    else if !s.drained s.cur then .park s .drain
    else s.uretRaise) s

/-! ### Data movement (R284) -/

/-- `nop`. -/
def execTNop (s : State) : Host.Outcome State Fault Refusal := bytecode .tNop (pure ()) s

/-- `move`. -/
def execTMove (a b : BitVec 8) (s : State) : Host.Outcome State Fault Refusal :=
  bytecode (.tMove a b) (do tSetF a.toNat (← tF b.toNat)) s

/-- `loadk`. -/
def execTLoadk (a : BitVec 8) (k : BitVec 16) (s : State) : Host.Outcome State Fault Refusal :=
  bytecode (.tLoadk a k) (do tSetF a.toNat (← tK k.toNat)) s

/-- `loadi`. -/
def execTLoadi (a : BitVec 8) (i : BitVec 16) (s : State) : Host.Outcome State Fault Refusal :=
  bytecode (.tLoadi a i) (tSetF a.toNat (mkInt i.toInt)) s

/-- `loadc`. -/
def execTLoadc (a b : BitVec 8) (s : State) : Host.Outcome State Fault Refusal :=
  bytecode (.tLoadc a b)
    (match b.toNat with
     | 0 => tSetF a.toNat vNil
     | 1 => tSetF a.toNat vFalse
     | 2 => tSetF a.toNat vTrue
     | n => tTrap .type (word n)) s

/-- Element `n` of FN.CELLS: the address of a cell (R284). -/
def tCell (n : Nat) : TM Word := do
  let cells ← tFn 56
  match ← tKind cells with
  | some k =>
    if k ≠ kArray then tTrap .type cells
    else
      let len ← tRead (cells + 15) 8
      if len.toNat ≤ n then tTrap .type cells
      else
        let data ← tRead (cells + 31) 8
        let c ← tRead (data + word (8 * n)) 8
        if tagOf c = 1 then pure (c - 1) else tTrap .type c
  | none => tTrap .type cells

/-- `getcell`. -/
def execTGetcell (a b : BitVec 8) (s : State) : Host.Outcome State Fault Refusal :=
  bytecode (.tGetcell a b) (do tSetF a.toNat (← tRead ((← tCell b.toNat) + 16) 8)) s

/-- `setcell`. -/
def execTSetcell (a b : BitVec 8) (s : State) : Host.Outcome State Fault Refusal :=
  bytecode (.tSetcell a b) (do
    let c ← tCell b.toNat
    tHeapStore (c + 16) c (← tF a.toNat)) s

/-- `del`. -/
def execTDel (a : BitVec 8) (s : State) : Host.Outcome State Fault Refusal :=
  bytecode (.tDel a) (tSetF a.toNat vNil) s

/-! ### Attributes and items (R285) -/

/-- The address of the slot of an attribute hit on a receiver. -/
def tAttr (recv : Word) (ic : BitVec 16) : TM Word := do
  tExamine recv
  let site ← tSite ic
  if tagOf recv ≠ 1 then tGuard 5 0 site
  else
    tTouch site recv
    let h ← tRead (recv - 1) 8
    let r ← tLookup ic 1 (fun e => icShape e == bits h 63 32)
    pure (recv - 1 + dword r.2 1)

/-- `getg`. -/
def execTGetg (a b : BitVec 8) (ic : BitVec 16) (nm : BitVec 8) (s : State) : Host.Outcome State Fault Refusal :=
  bytecode (.tGetg a b ic nm) (do tSetF a.toNat (← tRead (← tAttr (← tFn 40) ic) 8)) s

/-- `setg`. -/
def execTSetg (a b : BitVec 8) (ic : BitVec 16) (nm : BitVec 8) (s : State) : Host.Outcome State Fault Refusal :=
  bytecode (.tSetg a b ic nm) (do
    let g ← tFn 40
    tHeapStore (← tAttr g ic) (g - 1) (← tF a.toNat)) s

/-- `getattr`. -/
def execTGetattr (a b c : BitVec 8) (ic : BitVec 16) (nm : BitVec 8) (s : State) : Host.Outcome State Fault Refusal :=
  bytecode (.tGetattr a b c ic nm) (do tSetF a.toNat (← tRead (← tAttr (← tF b.toNat) ic) 8)) s

/-- `setattr`. -/
def execTSetattr (a b c : BitVec 8) (ic : BitVec 16) (nm : BitVec 8) (s : State) : Host.Outcome State Fault Refusal :=
  bytecode (.tSetattr a b c ic nm) (do
    let r ← tF a.toNat
    tHeapStore (← tAttr r ic) (r - 1) (← tF c.toNat)) s

/-- The address of an element of an array container; every other case enters the guard path, a tensor after it has
settled. -/
def tItem (store : Bool) (cont idx : Word) : TM Word := do
  let k ← tKind cont
  tExamine idx
  tSettle store cont
  tTouch 0 cont
  tTouch 0 idx
  if k = some kArray ∧ tagOf idx = 0 then
    let len ← tRead (cont + 15) 8
    if smallOf idx < 0 ∨ (len.toNat : Int) ≤ smallOf idx then tGuard 5 0 0
    else
      let data ← tRead (cont + 31) 8
      pure (data + idx)
  else tGuard 5 0 0

/-- `getitem`. -/
def execTGetitem (a b c : BitVec 8) (s : State) : Host.Outcome State Fault Refusal :=
  bytecode (.tGetitem a b c) (do tSetF a.toNat (← tRead (← tItem false (← tF b.toNat) (← tF c.toNat)) 8)) s

/-- `setitem`. -/
def execTSetitem (a b c : BitVec 8) (s : State) : Host.Outcome State Fault Refusal :=
  bytecode (.tSetitem a b c) (do
    let cont ← tF a.toNat
    tHeapStore (← tItem true cont (← tF b.toNat)) (cont - 1) (← tF c.toNat)) s

/-- `len`. -/
def execTLen (a b : BitVec 8) (s : State) : Host.Outcome State Fault Refusal :=
  bytecode (.tLen a b) (do
    let v ← tF b.toNat
    tTouch 0 v
    match ← tKind v with
    | none => tGuard 5 0 0
    | some k =>
      if k = kArray ∨ k = kMap then tSetF a.toNat (mkAddr (← tRead (v + 15) 8))
      else if k = kTensor then
        let c ← tRead (v + 15) 8
        if bits c 6 4 = 0 then tGuard 5 0 0 else tSetF a.toNat (mkAddr (← tRead (v + 23) 8))
      else tGuard 5 0 0) s

/-- `isinst`. -/
def execTIsinst (a b c : BitVec 8) (s : State) : Host.Outcome State Fault Refusal :=
  bytecode (.tIsinst a b c) (do
    let n ← tInt (← tK c.toNat)
    let v ← tF b.toNat
    tTouch 0 v
    let k ← tKind v
    let r := match k with
      | some k => decide (0 ≤ n) && decide (n ≤ 15) && decide (n = k)
      | none => (n == 16 && tagOf v == 0) || (n == 17 && tagOf v == 2) || (n == 18 && tagOf v == 3)
    tSetF a.toNat (mkBool r)) s

/-! ### Operators (R286) -/

/-- An exact integer result, if it fits. -/
def intResult (n : Int) : Option (Word × Word) := if intFits n then some (mkInt n, 0) else none

/-- The short float of an FP32 result with its flags. -/
def floatResult (r : Flagged Val) : Option (Word × Word) :=
  let q := Fmt.f32.result 0 r
  some (word (q.1 * 2 ^ 32 + 2), q.2)

/-- The FP32 number of a short float. -/
def floatOf (v : Word) : Val := Fmt.f32.decode (bits v 63 32)

/-- The cases of `binop` that are computed inline: the value and the FLAGS bits. -/
def inlineBinop (op : Nat) (l r : Word) : Option (Word × Word) :=
  if tagOf l = 0 ∧ tagOf r = 0 then
    let a := smallOf l
    let b := smallOf r
    match op with
    | 0 => intResult (a + b)
    | 1 => intResult (a - b)
    | 2 => intResult (a * b)
    | 8 => some (l &&& r, 0)
    | 9 => some (l ||| r, 0)
    | 10 => some (l ^^^ r, 0)
    | 11 => if 0 ≤ b ∧ b ≤ 63 then intResult (a * 2 ^ b.toNat) else none
    | 12 => if 0 ≤ b then some (mkInt (a >>> (min b.toNat 64)), 0) else none
    | _ => none
  else if tagOf l = 2 ∧ tagOf r = 2 then
    match op with
    | 0 => floatResult ((floatOf l).add 0 (floatOf r))
    | 1 => floatResult ((floatOf l).add 0 (floatOf r).neg)
    | 2 => floatResult ((floatOf l).mul (floatOf r))
    | 3 => if bits r 62 32 = 0 then none else floatResult ((floatOf l).div (floatOf r))
    | _ => none
  else none

/-- The cases of `unop` that are computed inline. -/
def inlineUnop (op : Nat) (v : Word) : Option (Word × Word) :=
  if op = 1 then some (mkBool (isFalse v), 0)
  else if tagOf v = 0 then intResult (if op = 0 then -smallOf v else -smallOf v - 1)
  else if tagOf v = 2 ∧ op = 0 then floatResult ((floatOf v).neg, 0)
  else none

/-- The cases of `compare` on two values that are computed inline. -/
def inlineCompare (op : Nat) (l r : Word) : Option (Word × Word) :=
  if tagOf l = 0 ∧ tagOf r = 0 then
    let a := smallOf l
    let b := smallOf r
    some (mkBool (match op with
      | 0 => decide (a = b)
      | 1 => decide (a ≠ b)
      | 2 => decide (a < b)
      | 3 => decide (a ≤ b)
      | 4 => decide (b < a)
      | _ => decide (b ≤ a)), 0)
  else if tagOf l = 2 ∧ tagOf r = 2 then some (mkBool (Fmt.f32.cond op (bits l 63 32) (bits r 63 32)), 0)
  else none

/-- An operator on operands: FAILED first (R278), then the inline cases, then the site. -/
def tOperator (a : BitVec 8) (ic : BitVec 16) (op : Nat) (ops : List Word) (inl : Option (Word × Word)) : TM Unit := do
  tEach tExamine ops
  let site ← tSite ic
  tEach (tTouch site) ops
  match inl with
  | some r =>
    tFlag r.2
    tSetF a.toNat r.1
  | none =>
    let cls ← tAll tClass ops
    let r ← tLookup ic 3 (fun e => icOp e == op && icKeys e cls)
    match icAct r.2 with
    | 1 => tNativeCall a (dword r.2 6) ops
    | 2 => tFast a (dword r.2 6) ops site
    | _ => tTrap .type r.1

/-- `binop`. -/
def execTBinop (a b c : BitVec 8) (ic : BitVec 16) (op : BitVec 8) (s : State) : Host.Outcome State Fault Refusal :=
  bytecode (.tBinop a b c ic op) (do
    let l ← tF b.toNat
    let r ← tF c.toNat
    tOperator a ic op.toNat [l, r] (inlineBinop op.toNat l r)) s

/-- `unop`. -/
def execTUnop (a b : BitVec 8) (ic : BitVec 16) (op : BitVec 8) (s : State) : Host.Outcome State Fault Refusal :=
  bytecode (.tUnop a b ic op) (do
    let v ← tF b.toNat
    tOperator a ic op.toNat [v] (inlineUnop op.toNat v)) s

/-- `compare`; .is and .isnot compare the words. -/
def execTCompare (a b c : BitVec 8) (ic : BitVec 16) (op : BitVec 8) (s : State) : Host.Outcome State Fault Refusal :=
  bytecode (.tCompare a b c ic op) (do
    let l ← tF b.toNat
    let r ← tF c.toNat
    if op.toNat = 6 then tSetF a.toNat (mkBool (l == r))
    else if op.toNat = 7 then tSetF a.toNat (mkBool (l != r))
    else tOperator a ic op.toNat [l, r] (inlineCompare op.toNat l r)) s

/-! ### Control flow (R287) -/

/-- `jmp`. -/
def execTJmp (off : BitVec 24) (s : State) : Host.Outcome State Fault Refusal :=
  bytecode (.tJmp off) (tJump (off.signExtend 64)) s

/-- A jump on the truth of f(a). -/
def tBranch (want : Bool) (a : BitVec 8) (off : BitVec 16) : TM Unit := do
  let v ← tF a.toNat
  tExamine v
  if isFalse v != want then tJump (off.signExtend 64) else pure ()

/-- `jt`. -/
def execTJt (a : BitVec 8) (off : BitVec 16) (s : State) : Host.Outcome State Fault Refusal :=
  bytecode (.tJt a off) (tBranch true a off) s

/-- `jf`. -/
def execTJf (a : BitVec 8) (off : BitVec 16) (s : State) : Host.Outcome State Fault Refusal :=
  bytecode (.tJf a off) (tBranch false a off) s

/-- `forprep`. A difference that no small integer holds is a free value. -/
def execTForprep (a : BitVec 8) (off : BitVec 16) (s : State) : Host.Outcome State Fault Refusal :=
  bytecode (.tForprep a off) (do
    let i ← tInt (← tF a.toNat)
    let _ ← tInt (← tF (a.toNat + 1))
    let w ← tF (a.toNat + 2)
    let st ← tInt w
    if st = 0 then tTrap .type w
    else
      let s ← tGet
      tSetF a.toNat (if intFits (i - st) then mkInt (i - st) else word (8 * Config.freeNat s.free))
      tJump (off.signExtend 64)) s

/-- `forloop`. -/
def execTForloop (a : BitVec 8) (off : BitVec 16) (s : State) : Host.Outcome State Fault Refusal :=
  bytecode (.tForloop a off) (do
    let i ← tInt (← tF a.toNat)
    let l ← tInt (← tF (a.toNat + 1))
    let st ← tInt (← tF (a.toNat + 2))
    if !intFits (i + st) then pure ()
    else
      tSetF a.toNat (mkInt (i + st))
      if (0 < st ∧ i + st ≤ l) ∨ (st < 0 ∧ l ≤ i + st) then
        tSetF (a.toNat + 3) (mkInt (i + st))
        tJump (off.signExtend 64)
      else pure ()) s

/-- `iter`. -/
def execTIter (a b : BitVec 8) (s : State) : Host.Outcome State Fault Refusal :=
  bytecode (.tIter a b) (do
    let v ← tF b.toNat
    tTouch 0 v
    if (← tKind v) = some kArray then
      tSetF a.toNat v
      tSetF (a.toNat + 1) 0
    else tGuard 5 0 0) s

/-- `next`. -/
def execTNext (a : BitVec 8) (off : BitVec 16) (s : State) : Host.Outcome State Fault Refusal :=
  bytecode (.tNext a off) (do
    let v ← tF a.toNat
    if (← tKind v) = some kArray then
      let i ← tInt (← tF (a.toNat + 1))
      let len ← tRead (v + 15) 8
      if 0 ≤ i ∧ i < (len.toNat : Int) then
        let data ← tRead (v + 31) 8
        tSetF (a.toNat + 2) (← tRead (data + mkInt i) 8)
        tSetF (a.toNat + 1) (mkInt (i + 1))
      else tJump (off.signExtend 64)
    else tGuard 5 0 0) s

/-- `halt`: the result, as a release, and the end of the thread (R164). -/
def execTHalt (a : BitVec 8) (s : State) : Host.Outcome State Fault Refusal :=
  bytecode (.tHalt a) (do
    tWrite ((← tX 27) + 16) 8 (← tF a.toNat) .ordered
    fun s => .ok ((), s.endThread s.cur false)) s

/-! ### Calls (R288) -/

/-- What a call hit leads to. -/
def tCallAct (a : BitVec 8) (b : Nat) (e : List Byte) (args : List Word) (site : Word) : TM Unit :=
  match icAct e with
  | 0 => tEnter (dword e 6 - 1) a.toNat b site
  | 1 => tNativeCall a (dword e 6) args
  | _ => tFast a (dword e 6) args site

/-- The arguments of a call. -/
def tArgs (a : BitVec 8) (b : Nat) : TM (List Word) := tAll (fun i => tF (a.toNat + 3 + i)) (List.range b)

/-- `call`. -/
def execTCall (a b : BitVec 8) (ic : BitVec 16) (s : State) : Host.Outcome State Fault Refusal :=
  bytecode (.tCall a b ic) (do
    let f ← tF a.toNat
    let site ← tSite ic
    match ← tKind f with
    | some k =>
      if k = kFunction then
        tEach (tTouch site) (← tArgs a b.toNat)
        tEnter (f - 1) a.toNat b.toNat site
      else if k = kNativeFn ∧ b.toNat ≤ 4 then
        let args ← tArgs a b.toNat
        tEach (tTouch site) args
        let cls ← tAll tClass args
        let r ← tLookup ic 2 (fun e => icNarg e == b.toNat && dword e 1 == f && icKeys e cls)
        tCallAct a b.toNat r.2 args site
      else tGuard 5 0 site
    | none => tGuard 5 0 site) s

/-- `callm`: B counts the receiver, which is argument 0. -/
def execTCallm (a b c : BitVec 8) (ic : BitVec 16) (s : State) : Host.Outcome State Fault Refusal :=
  bytecode (.tCallm a b c ic) (do
    let site ← tSite ic
    if 4 < b.toNat then tGuard 5 0 site
    else
      let recv ← tF (a.toNat + 3)
      let args ← tArgs a b.toNat
      tTouch site recv
      tEach (tTouch site) args
      let rc ← tClass recv
      let cls ← tAll tClass args
      let r ← tLookup ic 2 (fun e => icNarg e == b.toNat && dword e 1 == rc && icKeys e cls)
      tCallAct a b.toNat r.2 args site) s

/-- `native`. -/
def execTNative (a b c : BitVec 8) (s : State) : Host.Outcome State Fault Refusal :=
  bytecode (.tNative a b c) (do
    if 4 < c.toNat then tTrap .type (c.setWidth 64)
    else
      let k ← tK b.toNat
      let _ ← tInt k
      let args ← tAll (fun i => tF (a.toNat + 1 + i)) (List.range c.toNat)
      tNativeCall a (addrOf k) args) s

/-- `ret` (R267). -/
def execTRet (a : BitVec 8) (s : State) : Host.Outcome State Fault Refusal :=
  bytecode (.tRet a) (do
    let fb ← tX 28
    let v ← tF a.toNat
    let ofb ← tRead (fb - 16) 8
    let ofn ← tRead (fb - 8) 8
    let e ← tPop
    tWrite (fb - 24) 8 v
    tSetX 28 (addrOf ofb)
    tSetX 29 (addrOf ofn)
    if bit e 0 then tGo (e &&& ~~~3) else tNativeMode (e &&& ~~~3)) s

/-! ### Construction (R289) -/

/-- `mkarr`. -/
def execTMkarr (a b c : BitVec 8) (s : State) : Host.Outcome State Fault Refusal :=
  bytecode (.tMkarr a b c) (do
    let vs ← tAll (fun i => tF (b.toNat + i)) (List.range c.toNat)
    let o ← tAlloc (48 + 8 * c.toNat) 0
    tWrite o 4 (word kArray)
    tWrite (o + 8) 8 (← tGc)
    tWrite (o + 16) 8 (c.setWidth 64)
    tWrite (o + 24) 8 (c.setWidth 64)
    tWrite (o + 32) 8 (o + 48)
    tEach (fun i => tFirstStore (o + word (48 + 8 * i)) o (vs.getD i 0)) (List.range c.toNat)
    tSetF a.toNat (o + 1)) s

/-- `mkmap`. -/
def execTMkmap (a b : BitVec 8) (s : State) : Host.Outcome State Fault Refusal :=
  bytecode (.tMkmap a b) (do
    if 12 < b.toNat then tTrap .type (b.setWidth 64)
    else
      let n := 2 ^ b.toNat
      let o ← tAlloc (64 + 16 * n) 0
      tWrite o 4 (word kMap)
      tWrite (o + 8) 8 (← tGc)
      tWrite (o + 16) 8 0
      tWrite (o + 24) 8 (word n)
      tWrite (o + 32) 8 (o + 64)
      tEach (fun i => tFirstStore (o + word (64 + 8 * i)) o vNil) (List.range (2 * n))
      tSetF a.toNat (o + 1)) s

/-- `mkfunc`. -/
def execTMkfunc (a b c : BitVec 8) (s : State) : Host.Outcome State Fault Refusal :=
  bytecode (.tMkfunc a b c) (do
    let f ← tK b.toNat
    let v ← tF c.toNat
    if (← tKind f) = some kFunction then
      let ws ← tAll (fun i => tRead (f - 1 + word (8 * i)) 8) (List.range 7)
      let o ← tAlloc 64 0
      tEach (fun i => tWrite (o + word (8 * i)) 8 (ws.getD i 0)) (List.range 7)
      tFirstStore (o + 56) o v
      tSetF a.toNat (o + 1)
    else tTrap .type f) s

/-- `import`: the guard path. -/
def execTImport (a b : BitVec 8) (s : State) : Host.Outcome State Fault Refusal :=
  bytecode (.tImport a b) (tGuard 5 0 0) s

/-! ### Exceptions and waiting (R290) -/

/-- `tryb` (R268). -/
def execTTryb (a : BitVec 8) (off : BitVec 16) (s : State) : Host.Outcome State Fault Refusal :=
  bytecode (.tTryb a off) (do
    let pc ← tPc
    let fb ← tX 28
    let fn ← tX 29
    let prev ← tX 31
    let s ← tGet
    tSetF a.toNat (mkAddr (pc + off.signExtend 64 * 4))
    tSetF (a.toNat + 1) (mkAddr fb)
    tSetF (a.toNat + 2) (mkAddr fn)
    tSetF (a.toNat + 3) (mkAddr prev)
    tSetF (a.toNat + 4) (mkInt (s.th.link.length + s.th.spilled))
    tSetX 31 (fb + word (8 * a.toNat))) s

/-- `tryend`. -/
def execTTryend (a : BitVec 8) (s : State) : Host.Outcome State Fault Refusal :=
  bytecode (.tTryend a) (do
    let h ← tX 31
    if h = (← tFrameAt a.toNat) then tSetX 31 (addrOf (← tF (a.toNat + 3))) else tTrap .type h) s

/-- `raise`. -/
def execTRaise (a : BitVec 8) (s : State) : Host.Outcome State Fault Refusal :=
  bytecode (.tRaise a) (do tRaise (← tF a.toNat)) s

/-- `await`. -/
def execTAwait (a : BitVec 8) (s : State) : Host.Outcome State Fault Refusal :=
  bytecode (.tAwait a) (do
    let v ← tF a.toNat
    tSettle false v
    tTouch 0 v) s

end Sys2Proof.Machine
end

