-- ==== Sys2Proof/Machine/Events.lean ====
section
/-! DEFINITION. Events of threads, accesses, the matrix unit, launches and neighbour-paced cores: what comes about by
itself. Of each event one predicate says when it can happen; an event that cannot happen changes nothing. -/

namespace Sys2Proof.Machine

/-! ### Waking and placing threads -/

/-- The name of a launch among all contexts. -/
def launchKey (asid : Nat) (h : Word) : Nat := asid + 4096 * h.toNat

/-- The launch that a name stands for. -/
def State.launchAt (s : State) (k : Nat) : Option Launch := (s.ctx (k % 4096)).launch? (word (k / 4096))

/-- A bytecode that waits for a tensor may restart (R277). -/
def State.canTensorWake (s : State) (t : Nat) : Bool :=
  has s.threads t && (s.thread t).park.byEvent && s.woken t

/-- TENSOR_PENDING_WAKE (R277): the thread restarts its bytecode. -/
def execTensorPendingWake (t : Nat) (s : State) : Host.Outcome State Fault Refusal :=
  .next (if s.canTensorWake t then s.onThread t fun h => { h with park := .run } else s)

/-- A word that the launch unit reads for a context; 0 where it cannot be read. -/
def State.hwRead (s : State) (w : Who) (va : Word) : Word :=
  match s.loadWords w [va] with
  | .ok [v] => v
  | _ => 0

/-- The operands that an argument block lists (R275). -/
def State.fastOperands (s : State) (w : Who) (blk : Word) : List Word :=
  (List.range (min (s.hwRead w blk).toNat 16)).map fun i => s.hwRead w (blk + word (16 + 8 * i))

/-- The words that are read for the completion of a fast-path launch: the argument block's, and the headers of its operands. -/
def State.fastWords (s : State) (w : Who) (blk : Word) : List Word :=
  let ops := s.fastOperands w blk
  blk :: (List.range ops.length).map (fun i => blk + word (16 + 8 * i)) ++ (ops.filter fun v => tagOf v == 1).map (· - 1)

/-- A unit that acts for a context sends an access to a word at .mo; a failed translation loses it. -/
def State.hwWord (s : State) (w : Who) (va : Word) (op : AccOp) (rel : Bool) : State :=
  match s.translate w va kWrite with
  | .error _ => s
  | .ok t => (s.remember w va kWrite t).send .host w.asid va t 8 op false rel 4

/-- The completion of a fast-path launch may be processed (R276): no other agent holds a reservation on what is read for it. -/
def State.canFastComplete (s : State) (k : Nat) : Bool :=
  match s.launchAt k with
  | some l => l.state == .completed && (match l.fast with
    | some f => f.2
    | none => false) && !s.wordsHeld .host ⟨k % 4096, 0, true⟩ (s.fastWords ⟨k % 4096, 0, true⟩ l.arg)
  | none => false

/-- Subtract 1 from INUSE of a value that is a tensor. -/
def State.unuse (s : State) (w : Who) (v : Word) : State :=
  if tagOf v ≠ 1 then s
  else
    if bits (s.hwRead w (v - 1)) 3 0 = kTensor then s.hwWord w (v + 119) (.atom 0 allOnes 0) false else s

/-- The steps of R276: INUSE of the operands, FAILED, PENDING. -/
def State.fastComplete (s : State) (k : Nat) : State :=
  match s.launchAt k with
  | none => s
  | some l =>
    let asid := k % 4096
    let w : Who := ⟨asid, 0, true⟩
    let ops := s.fastOperands w l.arg
    let s := s.countWords w (s.fastWords w l.arg)
    let res := match l.fast with
      | some f => f.1
      | none => 0
    let s := forEach (fun v s => s.unuse w v) ops s
    let s := if res ≠ 0 ∧ (l.status = 1 ∨ l.status = 2) then s.hwWord w res (.atom 2 0x10 0) false else s
    let s := if res ≠ 0 then s.hwWord w (res + 112) (.store (toBytes 8 0)) true else s
    s.onCtx asid fun c => { c with
      launches := modFirst (fun x => x.handle == l.handle) (fun x => { x with fast := none }) c.launches }

/-- FAST_PATH_COMPLETION (R276). -/
def execFastPathCompletion (k : Nat) (s : State) : Host.Outcome State Fault Refusal :=
  .next (if s.canFastComplete k then s.fastComplete k else s)

/-- Where a thread that the hardware saved may be placed (R359): its core when its slot is still there for it, else the
first core that has it; a control-core thread on its core, unless a local trap holds it (R337). -/
def State.placeFor (s : State) (t : Nat) : Option Nat :=
  let h := s.thread t
  match h.place with
  | .block c =>
    if !has s.threads t || !s.runs h.asid || !s.woken t then none
    else if h.cc then if h.exl then none else some c
    else if s.slotUsable h.asid c h.slot then some c
    else s.coreFor h.asid h.slot
  | _ => none

/-- A thread of a run queue may take its empty slot, as the first entry that may (R30, R391). -/
def State.canTakeSlot (s : State) (t : Nat) : Bool :=
  let h := s.thread t
  match h.place with
  | .queue c =>
    has s.threads t && s.runs h.asid && (s.threadAt h.cc c h.slot).isNone &&
      (get [] (s.ctx h.asid).runq (queueKey h.cc c)).find? (s.mayTake h.asid h.cc c h.slot) == some (.thread t)
  | _ => false

/-- RESTORED_THREAD_PLACEMENT can happen. -/
def State.canPlace (s : State) (t : Nat) : Bool := (s.placeFor t).isSome || s.canTakeSlot t

/-- A saved thread joins the run queue of its core, or takes its slot. -/
def State.placeThread (s : State) (t : Nat) : State :=
  match s.placeFor t with
  | some c => s.enqueue t c
  | none =>
    let h := s.thread t
    if s.canTakeSlot t then s.take h.asid h.cc h.core h.slot (.thread t) else s

/-- RESTORED_THREAD_PLACEMENT (R359, R391). -/
def execRestoredThreadPlacement (t : Nat) (s : State) : Host.Outcome State Fault Refusal :=
  .next (s.placeThread t)

/-- A sleeper's target has passed (R222). -/
def Outst.slept (now : Word) (o : Outst) : Bool :=
  match o.fin with
  | .sleep v => geMod now v
  | _ => false

/-- SLEEP_WAKE can happen. -/
def State.canSleepWake (s : State) (t : Nat) : Bool :=
  has s.threads t && (s.thread t).outst.any (Outst.slept s.now)

/-- SLEEP_WAKE (R222): the result is NOW. -/
def execSleepWake (t : Nat) (s : State) : Host.Outcome State Fault Refusal :=
  .next (if s.canSleepWake t then
    s.onThread t fun h => { h with
      outst := modFirst (Outst.slept s.now) (fun o => { o with need := 0, fin := .done [.reg o.dreg s.now] }) h.outst }
  else s)

/-- TRAP_ENTRY can happen: the drain is over (R26). -/
def State.canEnterTrap (s : State) (t : Nat) : Bool :=
  has s.threads t && s.drained t && match (s.thread t).park with
    | .trap _ _ => true
    | _ => false

/-- TRAP_ENTRY (R336, R337, R360). -/
def execTrapEntry (t : Nat) (s : State) : Host.Outcome State Fault Refusal :=
  .next (if s.canEnterTrap t then
    match (s.thread t).park with
    | .trap tr precise => s.takeTrap t tr precise (s.thread t).pc
    | _ => s
  else s)

/-- MIGRATION_ARRIVAL can happen: the thread is on its way. -/
def State.canArrive (s : State) (t : Nat) : Bool :=
  has s.threads t && match (s.thread t).place with
    | .moving _ => true
    | _ => false

/-- A migrating thread lands (R34 step 4): in its slot, else at the tail of the run queue; where it may no longer be, it
is saved (R357). -/
def State.land (s : State) (t : Nat) : State :=
  let c := (s.thread t).core
  let s := s.onThread t fun h => { h with park := .run, last := 0, hold := 0 }
  let h := s.thread t
  if !s.slotUsable h.asid c h.slot then s.onThread t fun h => { h with place := .block c }
  else if (s.threadAt false c h.slot).isNone then s.onThread t fun h => { h with place := .slot c }
  else s.enqueue t c

/-- MIGRATION_ARRIVAL (R34). -/
def execMigrationArrival (t : Nat) (s : State) : Host.Outcome State Fault Refusal :=
  .next (if s.canArrive t then s.land t else s)

/-- The mailbox that entry `n` of an inbox may move to: that of a resident thread with room, for the first entry with its
number (R236, R395). -/
def State.inboxTo (s : State) (c n : Nat) : Option (Nat × Nat × Word × Word) :=
  match (s.ctx c).inbox[n]? with
  | none => none
  | some m =>
    match s.named c m.1 with
    | none => none
    | some u =>
      if s.runs c && (s.thread u).inSlot && decide ((s.thread u).mail.length < 4) &&
          !(((s.ctx c).inbox.take n).any fun x => x.1 == m.1) then some (u, m)
      else none

/-- INBOX_TO_MAILBOX (R236, R395). -/
def execInboxToMailbox (c n : Nat) (s : State) : Host.Outcome State Fault Refusal :=
  .next (match s.inboxTo c n with
    | none => s
    | some (u, m) =>
      (s.onCtx c fun x => { x with inbox := x.inbox.eraseIdx n }).onThread u fun h => { h with mail := h.mail ++ [m.2] })

/-! ### Results and accesses -/

/-- LONG_RESULT_RETURN can happen. -/
def State.canReturn (s : State) (t o : Nat) : Bool :=
  has s.threads t && match (s.thread t).outst.find? fun r => r.id == o with
    | some r => s.mayReturn t r
    | none => false

/-- LONG_RESULT_RETURN (R22, R27). -/
def execLongResultReturn (t o : Nat) (s : State) : Host.Outcome State Fault Refusal :=
  .next (if s.canReturn t o then
    match (s.thread t).outst.find? fun r => r.id == o with
    | some r => s.returnResult t r
    | none => s
  else s)

/-- An access of a thread to a CXL window (R106). -/
def Acc.isCxl (a : Acc) : Bool :=
  (match a.owner with
   | .thread _ => true
   | _ => false) &&
  match a.home with
  | .cxl _ => true
  | _ => false

/-- The access has timed out (R106). -/
def State.timedOut (s : State) (a : Acc) : Bool := a.isCxl && a.due != 0 && geMod s.now a.due

/-- A payload write may be made: it waits for no flip, and no reservation of another agent holds the frame that it goes to
(R127, R219). -/
def State.mayDeposit (s : State) (a : Acc) (cmd : Nat) : Bool :=
  !s.waitsFlip a.pa cmd a.id && match s.engineAddr a.pa with
    | some pa => !s.reserved a.owner pa a.size
    | none => true

/-- An access may be performed now, those that the CXL ports complete apart. -/
def State.canPerform (s : State) (k : Nat) : Bool :=
  match s.accs.find? fun a => a.id == k with
  | none => false
  | some a =>
    !a.isCxl && s.mayPerform a && match a.op with
      | .deposit c _ _ _ _ => s.mayDeposit a c
      | _ => true

/-- Take an access from those on their way. -/
def State.unsend (s : State) (k : Nat) : State := { s with accs := s.accs.filter fun a => a.id != k }

/-- The contexts that a read of an engine is counted in: that of its command, and those of the commands merged with it
(R406). -/
def State.readers (s : State) (a : Acc) (cmd : Nat) : List Nat :=
  (a.asid :: (s.cmds.filter fun c => c.leader == some cmd).map (·.asid)).eraseDups

/-- An access is performed at its home: it leaves the list, acts, and frames that nothing uses return to the pool. -/
def State.performNow (s : State) (a : Acc) : State :=
  let s := s.unsend a.id
  let s := match a.op with
    | .payload c =>
      ((forEach (fun n (s : State) => s.countAccess { a with asid := n }) (s.readers a c) s).rehome a.home a.pa a.size).readFor a c
    | .deposit c bs leaf bad nib => (s.countAccess a).doDeposit a c bs leaf bad nib
    | .signal k _ => (s.countAccess a).arriveAt a k
    | _ => s.perform a
  State.settlePool { s with free := s.free + 1 }

/-- HOME_ACCESS_PERFORMED (R112). -/
def execHomeAccessPerformed (k : Nat) (s : State) : Host.Outcome State Fault Refusal :=
  .next (if s.canPerform k then
    match s.accs.find? fun a => a.id == k with
    | some a => s.performNow a
    | none => s
  else s)

/-- A CXL access may complete before its timeout (R106). -/
def State.canCxl (s : State) (k : Nat) : Bool :=
  match s.accs.find? fun a => a.id == k with
  | none => false
  | some a => a.isCxl && !s.timedOut a && s.mayPerform a

/-- CXL_ACCESS_COMPLETE (R106): the thread resumes once its result has returned. -/
def execCxlAccessComplete (k : Nat) (s : State) : Host.Outcome State Fault Refusal :=
  .next (if s.canCxl k then
    match s.accs.find? fun a => a.id == k with
    | some a => s.performNow a
    | none => s
  else s)

/-- A CXL access has timed out. -/
def State.canLongLat (s : State) (k : Nat) : Bool :=
  match s.accs.find? fun a => a.id == k with
  | none => false
  | some a => s.timedOut a

/-- A thread gives a result up and stands at its instruction again. One that makes its accesses turn by turn has not left
it. -/
def Thread.giveUp (t : Thread) (out : Nat) : Thread :=
  let u := t.abandon (some out)
  if t.outst.any fun o => o.id == out && o.fin == .trace then { u with pc := t.pc, trace := [] } else u

/-- LONG_LAT at an access (R106): its result is given up, whether a store or atomic was performed is open, and what
comes late is discarded. -/
def State.longLatAt (s : State) (a : Acc) (u : Nat) : State :=
  let mine := s.accs.filter fun b => b.owner == a.owner && b.out == a.out
  let s := { s with accs := s.accs.filter fun b => !(b.owner == a.owner && b.out == a.out) }
  let s := forEach (fun (b : Acc) s =>
    if b.op.isStore ∧ Config.freeBit s.free (8000 + b.id) then s.perform { b with out := 0 } else s) mine s
  (s.onThread u (·.giveUp a.out)).raise u (.of .longLat a.va) true

/-- LONG_LAT (R106). -/
def execLongLat (k : Nat) (s : State) : Host.Outcome State Fault Refusal :=
  .next (if s.canLongLat k then
    match s.accs.find? fun a => a.id == k with
    | some a =>
      (match a.owner with
       | .thread u => State.longLatAt { s with free := s.free + 1 } a u
       | _ => s)
    | none => s
  else s)

/-- A reservation has been held for 4,096 cycles since it was forwarded (R219). -/
def State.canExpire (s : State) (t : Nat) : Bool := s.resv.any fun r => r.owner == .thread t && decide (resvLimit ≤ r.age)

/-- RESERVATION_EXPIRY (R219): it ends unwritten. -/
def execReservationExpiry (t : Nat) (s : State) : Host.Outcome State Fault Refusal :=
  .next (if s.canExpire t then s.endResv (.thread t) else s)

/-! ### The matrix unit -/

/-- The queued operation at the head of the unit is an `mma`, and its thread has room for its result (R23). -/
def State.canAccumulate (s : State) (core : Nat) : Bool :=
  match (s.core core).jobs with
  | [] => false
  | j :: _ => !(s.thread j.uid).overLimit j.out && match j.op with
    | .mma _ _ _ _ _ _ _ => true
    | _ => false

/-- MMA_ACCUMULATION (R88): the `mma` accumulates, and what waited behind it follows. -/
def execMmaAccumulation (core : Nat) (s : State) : Host.Outcome State Fault Refusal :=
  .next (if s.canAccumulate core then
    match (s.core core).jobs with
    | [] => s
    | j :: r => State.runJobs core r.length ((s.onCore core fun c => { c with jobs := r }).doJob core j)
  else s)

/-- MDRAIN_READOUT can happen: every earlier operation on the tile is done (R195, R204), and its thread has room for its
result (R23). -/
def State.canReadout (s : State) (core tile : Nat) : Bool :=
  let t := (s.core core).tile tile
  t.state == 2 && !t.read && !s.tileBusy core tile && match t.drain with
    | some (_, _, _, u, o) => !(s.thread u).overLimit o
    | none => false

/-- The first empty vector-capable slot of a context on a core (R204). -/
def State.emptyVecSlot (s : State) (asid core : Nat) : Option Nat :=
  (List.range (vecSlots (s.core core).mode)).find? fun n =>
    n != 0 && s.slotOwner core n == some asid && (s.threadAt false core n).isNone

/-- A row starts its handler, or waits at the tail of the run queue (R204, R205). -/
def State.rowHandler (s : State) (asid core : Nat) (tile row : Nat) (pc arg issuer : Word) (lanes : List Lane) (cls : Nat) :
    State :=
  let e : QEntry := .row tile row pc arg issuer lanes cls
  match s.emptyVecSlot asid core with
  | some n =>
    if s.mayTake asid false core n e then s.startRow asid core n tile row pc arg issuer lanes cls
    else s.onCtx asid fun c => { c with runq := put c.runq core (get [] c.runq core ++ [e]) }
  | none => s.onCtx asid fun c => { c with runq := put c.runq core (get [] c.runq core ++ [e]) }

/-- The elements of a tile's row as delivered (R90). -/
def Tile.rowElems (t : Tile) (mode row : Nat) : List (Flagged Nat) :=
  (List.range 32).map fun j => (get Elem.zero t.el (32 * row + j)).f32 t.anchor mode

/-- The read-out of a draining tile (R204): its rows in order, with flags for the issuer. -/
def State.readout (s : State) (core tile : Nat) : State :=
  let t := (s.core core).tile tile
  match t.drain with
  | none => s
  | some (pc, arg, mode, u, _) =>
    let h := s.thread u
    let flags := (List.range 32).foldl (fun f r => (t.rowElems mode r).foldl (fun f e => f ||| e.2) f) 0
    let s := (s.onCore core (·.setTile tile { t with read := true })).onThread u (·.flag flags)
    forEach (fun r s =>
      s.rowHandler h.asid core tile r pc arg h.tid ((t.rowElems mode r).map fun e => BitVec.ofNat 32 e.1) h.cls)
      (List.range 32) s

/-- MDRAIN_READOUT (R204). -/
def execMdrainReadout (core tile : Nat) (s : State) : Host.Outcome State Fault Refusal :=
  .next (if s.canReadout core tile then s.readout core tile else s)

/-! ### Launches -/

/-- Quota units that no launch of a context holds (R41, R401). -/
def State.freeUnits (s : State) (asid : Nat) : Nat := s.available asid (·.lquota) - (s.ctx asid).outstanding

/-- The overflow list with, for each launch, whether it holds a unit: free units go to its head (R401). -/
def State.overflowUnits (s : State) (asid : Nat) : List (Launch × Bool) :=
  let ls := (s.ctx asid).overflow.filterMap (s.ctx asid).launch?
  let bare := ls.filter fun l => !l.quota
  let given := bare.take (s.freeUnits asid)
  ls.map fun l => (l, l.quota || given.any fun g => g.handle == l.handle)

/-- What a launch follows as a release has been performed (R125). -/
def State.launchReady (s : State) (l : Launch) : Bool := s.allDone l.after

/-- The launches of a queue that may be admitted: none behind one that its release holds back (R125), or behind a host record
that waits for a unit (R397). -/
def State.admissible (s : State) (asid q : Nat) : List Launch :=
  let l := ((s.ctx asid).launches.filter fun l => l.queue == q && l.state == .queued).takeWhile s.launchReady
  let spare := decide ((s.overflowUnits asid).length < s.freeUnits asid + ((s.overflowUnits asid).filter (·.1.quota)).length)
  match l.findIdx? fun x => !x.quota with
  | none => l
  | some i => l.take (if spare then i + 1 else i)

/-- The launch of a class that a context's turn takes (R40, R397), with the queue it comes from. -/
def State.turnOf (s : State) (cls asid : Nat) : Option (Word × Option Nat) :=
  match (s.overflowUnits asid).find? fun e => e.2 && e.1.cls == cls && s.launchReady e.1 with
  | some e => some (e.1.handle, none)
  | none =>
    (List.range 16).findSome? fun i =>
      let q := ((s.ctx asid).rotation + i) % 16
      ((s.admissible asid q).find? fun l => l.cls == cls).map fun l => (l.handle, some q)

/-- Contexts in rotation by ASID. -/
def State.rotated (s : State) : List Nat :=
  let l := (s.ctxs.map Prod.fst).filter s.runs
  l.filter (s.rotation ≤ ·) ++ l.filter (· < s.rotation)

/-- The launch that the launch unit takes next (R397). -/
def State.nextLaunch (s : State) : Option (Nat × Word × Option Nat) :=
  (List.range 4).findSome? fun cls => s.rotated.findSome? fun a => (s.turnOf cls a).map fun h => (a, h)

/-- LAUNCH_ADMIT can happen. -/
def State.canAdmit (s : State) (l : Nat) : Bool :=
  match s.nextLaunch with
  | some (a, h, _) => launchKey a h == l
  | none => false

/-- LAUNCH_ADMIT (R397, R398). -/
def execLaunchAdmit (l : Nat) (s : State) : Host.Outcome State Fault Refusal :=
  .next (if s.canAdmit l then
    match s.nextLaunch with
    | some (a, h, q) =>
      let s := State.onCtx { s with rotation := a + 1 } a fun c => { c with
        rotation := match q with
          | some q => (q + 1) % 16
          | none => c.rotation }
      s.takeRecord a h none
    | none => s
  else s)

/-- The core and slot in which a leaf may start now: the first entry of its queue that may take the slot (R30, R399). -/
def State.leafPlace (s : State) (c l n : Nat) : Option (Bool × Nat × Nat) :=
  match (s.ctx c).launch? (word l) with
  | none => none
  | some x =>
    match x.leaves[n]? with
    | none => none
    | some f =>
      if s.runs c && !f.started && (s.threadAt x.cc f.core f.slot).isNone &&
          (get [] (s.ctx c).runq (queueKey x.cc f.core)).find? (s.mayTake c x.cc f.core f.slot) == some (.leaf (word l) n) then
        some (x.cc, f.core, f.slot)
      else none

/-- LEAF_START (R399). -/
def execLeafStart (c l n : Nat) (s : State) : Host.Outcome State Fault Refusal :=
  .next (match s.leafPlace c l n with
    | some (cc, core, slot) => s.take c cc core slot (.leaf (word l) n)
    | none => s)

/-- The mode that a launch would have a core repartitioned to (R400). -/
def State.repartMode (s : State) (core l : Nat) : Option Nat :=
  let a := l % 4096
  let mine := fun (x : Launch) => !x.cc && x.state == .running && x.leaves.any fun f => f.core == core
  match s.launchAt l with
  | none => none
  | some x =>
    let ok := s.runs a && mine x && (x.leaves.any fun f => f.core == core && !f.started) &&
      !x.modes.contains (s.core core).mode && bit (s.ctx a).slotmask 34 && s.mayRepart a core && s.quiescent core &&
      !((s.ctx a).launches.any fun y => y.handle != x.handle && mine y)
    if ok then (List.range 3).find? fun m => x.modes.contains m else none

/-- LAUNCH_REPARTITION (R400). -/
def execLaunchRepartition (core l : Nat) (s : State) : Host.Outcome State Fault Refusal :=
  .next (match s.repartMode core l with
    | some m => (s.repartition (l % 4096) core m).1
    | none => s)

/-! ### Neighbour-paced execution -/

/-- STEP_ADVANCE can happen (R242, R248). -/
def State.canAdvance (s : State) (core : Nat) : Bool := (s.core core).mayAdvance && s.runs (s.core core).nb.asid

/-- STEP_ADVANCE (R242). -/
def execStepAdvance (core : Nat) (s : State) : Host.Outcome State Fault Refusal :=
  .next (if s.canAdvance core then s.advanceStep core else s)

/-- A marker of a cut takes effect when its member's context runs (R248). -/
def Beacon.isMarker : Beacon → Bool
  | .cut _ _ _ _ => true
  | .release _ => true
  | _ => false

/-- A message of an edge may arrive: those sent before it on the same edge have, and its destination is not comparing
edges (R239, R252). -/
def State.beaconAt (s : State) (k : Nat) : Option BeaconMsg :=
  match s.beacons.find? fun b => b.id == k with
  | none => none
  | some b =>
    let n := (s.core b.dst).nb
    if (s.beacons.takeWhile fun x => x.id != k).any (fun x => x.src == b.src && x.dst == b.dst && x.edge == b.edge) ||
        n.pairing.isSome || (b.msg.isMarker && n.active && !s.runs n.asid) then none
    else some b

/-- A message leaves the edge. -/
def State.unbeacon (s : State) (k : Nat) : State := { s with beacons := s.beacons.filter fun b => b.id != k }

/-- The destination has the edge, in the memberships that the message is of (R239): one that has been left, or paired anew, since
it was sent takes nothing from it. -/
def State.hasEdge (s : State) (b : BeaconMsg) : Bool :=
  let n := (s.core b.dst).nb
  let named := fun (core epoch : Nat) => core == b.src && epoch == b.srcEpoch
  n.active && n.epoch == b.dstEpoch &&
    if b.edge % 2 = 0 then (n.preds[b.edge / 2]?).any fun e => named e.core e.epoch
    else (n.succs[b.edge / 2]?).any fun e => named e.core e.epoch

/-- Change the edge that a message came along. -/
def State.onEdge (s : State) (b : BeaconMsg) (f : Pred → Pred) (g : Succ → Succ) : State :=
  s.onStep b.dst fun n =>
    if b.edge % 2 = 0 then { n with preds := n.preds.modify (b.edge / 2) f }
    else { n with succs := n.succs.modify (b.edge / 2) g }

/-- BEACON_ARRIVAL (R239): PD and SD. -/
def execBeaconArrival (k : Nat) (s : State) : Host.Outcome State Fault Refusal :=
  .next (match s.beaconAt k with
    | none => s
    | some b =>
      match b.msg with
      | .done v =>
        let s := s.unbeacon k
        if s.hasEdge b then s.onEdge b (fun e => { e with pd := v }) (fun e => { e with sd := v }) else s
      | _ => s)

/-- LEAVING_BEACON_ARRIVAL (R252): the edge gates no longer. -/
def execLeavingBeaconArrival (k : Nat) (s : State) : Host.Outcome State Fault Refusal :=
  .next (match s.beaconAt k with
    | none => s
    | some b =>
      match b.msg with
      | .leaving =>
        let s := s.unbeacon k
        if s.hasEdge b then s.onEdge b (fun e => { e with left := true }) (fun e => { e with left := true }) else s
      | _ => s)

/-- CUT_MARKER_ARRIVAL (R249). -/
def execCutMarkerArrival (k : Nat) (s : State) : Host.Outcome State Fault Refusal :=
  .next (match s.beaconAt k with
    | none => s
    | some b =>
      match b.msg with
      | .cut w pa h v =>
        let s := s.unbeacon k
        if s.hasEdge b then s.receiveCut b.dst w pa h v else s
      | _ => s)

/-- RELEASE_MARKER_ARRIVAL (R249): forwarded from where the cut is pending. -/
def execReleaseMarkerArrival (k : Nat) (s : State) : Host.Outcome State Fault Refusal :=
  .next (match s.beaconAt k with
    | none => s
    | some b =>
      match b.msg with
      | .release pa =>
        let s := s.unbeacon k
        if s.hasEdge b ∧ (s.core b.dst).nb.cutPend ∧ (s.core b.dst).nb.cutPa = pa then s.releaseCut b.dst else s
      | _ => s)

/-- CUT_HOLD can happen: the core, whose context runs (R248), stands at K, and its beacon for K has arrived everywhere (R249). -/
def State.canHold (s : State) (core : Nat) : Bool :=
  let k := s.core core
  k.nb.active && s.runs k.nb.asid && k.nb.cutPend && !k.nb.cutHeld && k.step == k.stepDone && k.stepDone == k.nb.cutStep &&
    !(s.beacons.any fun b => b.src == core && match b.msg with
      | .done _ => true
      | _ => false)

/-- CUT_HOLD (R249). -/
def execCutHold (core : Nat) (s : State) : Host.Outcome State Fault Refusal :=
  .next (if s.canHold core then
    let n := (s.core core).nb
    let s := s.onStep core fun n => { n with cutHeld := true }
    match n.cutHome with
    | some h => s.addCounter core n.cutPa h 1
    | none => s
  else s)

/-- STEPCFG_PAIRING (R252). -/
def execStepcfgPairing (core : Nat) (s : State) : Host.Outcome State Fault Refusal :=
  .next (if s.mayPair core then s.pair core else s)

/-- What a neighbour-paced wait of a thread is: the watchdog, the result to give up, and the address that STEP_STALL
reports (R247). -/
def State.stallOf (s : State) (t : Nat) : Option (Nat × Option Nat × Nat) :=
  let h := s.thread t
  let k := s.core h.core
  let n := k.nb
  if h.cc ∨ !h.inSlot then none
  else
    match n.pairing with
    | some (u, o, _, wdog) =>
      if u = t then
        let ps := n.preds.zipIdx.find? fun e => !s.hasPaired n.asid e.1.core h.core
        let ss := n.succs.zipIdx.find? fun e => !s.hasPaired n.asid e.1.core h.core
        some (wdog, some o, match ps, ss with
          | some p, _ => 32 + p.2
          | none, some q => 32 + 16 + q.2
          | none, none => 32)
      else none
    | none =>
      match h.park with
      | .edge i _ => some (n.wdog, none, i)
      | _ =>
        if !h.inStepend then none
        else
          let v := k.step
          let ps := n.preds.zipIdx.find? fun e => !(e.1.loose || e.1.left || geMod e.1.pd v)
          let ss := n.succs.zipIdx.find? fun e => !(e.1.left || geMod e.1.sd (v + 1 - word e.1.d + word e.1.h))
          some (n.wdog, h.stependOut, if k.step ≠ k.stepDone then 0x80
            else match ps, ss with
              | some p, _ => p.2
              | none, some q => 16 + q.2
              | none, none => 64)

/-- STEP_STALL can happen: the watchdog runs and its time has passed (R247). -/
def State.canStall (s : State) (t : Nat) : Bool :=
  has s.threads t && match s.stallOf t with
    | none => false
    | some (w, _, _) => w != 0 && decide (2 ^ (w + 10) ≤ (s.now - (s.thread t).parkedAt).toNat)

/-- STEP_STALL (R247): the wait is abandoned, and the thread traps at its instruction, not precisely. -/
def execStepStall (t : Nat) (s : State) : Host.Outcome State Fault Refusal :=
  .next (if s.canStall t then
    match s.stallOf t with
    | none => s
    | some (_, o, a) =>
      let s := s.onCore (s.thread t).core fun k => match k.nb.pairing with
        | some p => if p.1 = t then { k with nb := { k.nb with pairing := none } } else k
        | none => k
      (s.onThread t (·.abandon o)).raise t (.of .stepStall (word a)) false
  else s)

/-! ### Event queues and counters -/

/-- HELD_EVENT_POST can happen: the queue has room, and its next entry can be written (R362). -/
def State.canPostHeld (s : State) (c : Nat) : Bool :=
  has s.ctxs c && !(s.ctx c).heldEvents.isEmpty && s.hasQueue c && s.queueRoom c &&
    s.nodesHeld .host ⟨c, 0, true⟩ (s.ctx c).eventAddr kWrite == [] &&
    match s.translate ⟨c, 0, true⟩ (s.ctx c).eventAddr kWrite with
    | .ok t => !s.reserved .host t.pa 32
    | .error _ => c == 0

/-- HELD_EVENT_POST (R362). -/
def execHeldEventPost (c : Nat) (s : State) : Host.Outcome State Fault Refusal :=
  .next (if s.canPostHeld c then
    match (s.ctx c).heldEvents with
    | [] => s
    | e :: r => (s.onCtx c fun x => { x with heldEvents := r }).writeEvent c e
  else s)

/-- Add events to the counters that select them (R333, R407). -/
def addCounts (psel pcnt : Sparse Word) (code n : Nat) : Sparse Word :=
  (List.range 16).foldl (fun p i =>
    if bit (get 0 psel i) 63 && bits (get 0 psel i) 11 0 == code then set 0 p i (get 0 p i + word n) else p) pcnt

/-- COUNTER_EVENT_DELIVERY (R407): to the saved counters of a STOPPED context. -/
def execCounterEventDelivery (k : Nat) (s : State) : Host.Outcome State Fault Refusal :=
  .next (match s.counts.find? fun c => c.id == k with
    | none => s
    | some c =>
      let s := { s with counts := s.counts.filter fun x => x.id != k }
      if !has s.ctxs c.asid then s
      else
        s.onCtx c.asid fun x =>
          if x.state = .stopped then { x with pcntSaved := addCounts x.psel x.pcntSaved c.code c.n }
          else { x with pcnt := addCounts x.psel x.pcnt c.code c.n })

end Sys2Proof.Machine
end

