-- ==== Sys2Proof/Machine/Net.lean ====
section
/-! DEFINITION. Events of the engines: acceptance and completion of commands, flips of shadow regions (R126, R127, R229,
R231), and the Geyser engine (R233, R234, R320 to R323). -/

namespace Sys2Proof.Machine

/-! ### Acceptance -/

/-- A queued command stands first in its core's send queue. -/
def State.firstQueued (s : State) (c : Cmd) : Bool :=
  !((s.cmds.takeWhile fun x => x.id != c.id).any fun x => x.core == c.core && !x.accepted)

/-- Work requests that a context has outstanding in the engine. -/
def State.requestsOf (s : State) (asid : Nat) : Nat :=
  (s.cmds.filter fun c => c.asid == asid && c.accepted && match c.kind with
    | .npost _ _ _ _ _ _ _ => true
    | _ => false).length

/-- A work request has a place within the context's NWR. -/
def State.nwrRoom (s : State) (c : Cmd) : Bool :=
  match c.kind with
  | .npost _ _ _ _ _ _ _ => decide (s.requestsOf c.asid < s.available c.asid (·.nwr))
  | _ => true

/-- A message has a place to go (R236): its target's mailbox or its context's inbox, or its target lives no more. -/
def State.mailRoom (s : State) (c : Cmd) : Bool :=
  match c.kind with
  | .message tgt n v sender _ =>
    match s.mailbox tgt n with
    | none => true
    | some u => (s.mailTo tgt n u v sender).isSome
  | _ => true

/-- Who an engine acts for. -/
def Cmd.who (c : Cmd) : Who := ⟨c.asid, c.core, false⟩

/-- The ranges of a command's payload: address, length, side and access kind (R230, R233). -/
def Cmd.ranges (c : Cmd) : List (Word × Nat × Nat × Nat) :=
  match c.kind with
  | .xfer src dst len sf dfs _ =>
    (src, (dfs.map fun d => spanOf (sizeFmt sf d.1) len).foldl max (if dfs = [] then spanOf sf len else 0), 0, kRead) ::
      dfs.filterMap fun d => if d.2.isNone then some (dst, spanOf (sizeFmt d.1 sf) len, 1, kWrite) else none
  | .npost op _ _ laddr len _ _ => [if op = 3 then (laddr, len, 1, kWrite) else (laddr, len, 0, kRead)]
  | .nrecv _ _ laddr len _ _ => [(laddr, len, 1, kWrite)]
  | _ => []

/-- The addresses whose translations a command takes at its acceptance, with the kind of access (R377). -/
def Cmd.walks (c : Cmd) : List (Word × Nat) :=
  (c.ranges.flatMap fun r => (pagesOf r.1 r.2.1).map fun a => (a, r.2.2.2)) ++
    ([c.caddr, recAddr c.crec].filter (· != 0)).map fun a => (a, kWrite)

/-- No agent holds a reservation on a node that those translations read (R219). -/
def State.walksFree (s : State) (c : Cmd) : Bool :=
  s.resv.isEmpty || c.walks.all fun a => s.nodesHeld (.engine c.core) c.who a.1 a.2 == []

/-- ENGINE_COMMAND_ACCEPT can happen (R126, R228), its thread having room for its result (R23). -/
def State.canAccept (s : State) (k : Nat) : Bool :=
  match s.cmd? k with
  | none => false
  | some c => !c.accepted && s.firstQueued c && s.allDone c.earlier && s.nwrRoom c && s.mailRoom c && s.walksFree c &&
      !(s.thread c.uid).overLimit c.out

/-- Translate a page for a command, from its first address: what is read and the completion word are translated to the frame
visible now, payload writes find theirs when they are made (R127). A failure ends the command with a status, WRITE_DUP for a
read-duplicated destination, else PAGE_ABSENT (R108, R377); a receive buffer's pages are translated again for each packet
(R234). -/
def State.pageInto (s : State) (c : Cmd) (side k : Nat) (va : Word) : Cmd :=
  match s.translate c.who va k with
  | .ok t => { c with pages := put c.pages (pageKey va side) (if side % 2 = 0 then t.pa else t.raw, t.attr) }
  | .error t =>
    if c.status ≠ 0 ∨ c.isRecv then c else { c with status := if t.cause = .writeDup then 2 else 4, len := 0 }

/-- Translate a word's page without effect on the status. -/
def State.wordInto (s : State) (c : Cmd) (side : Nat) (va : Word) : Cmd :=
  if va = 0 then c
  else { s.pageInto c side kWrite (word (va.toNat / 0x10000 * 0x10000)) with status := c.status, len := c.len }

/-- All translations of a command. -/
def State.translateCmd (s : State) (c : Cmd) : Cmd :=
  let c := c.ranges.foldl (fun c r => (pagesOf r.1 r.2.1).foldl (s.pageInto · r.2.2.1 r.2.2.2) c) c
  s.wordInto (s.wordInto c 2 c.caddr) 3 (recAddr c.crec)

/-- The reads that a transfer is made in: offset and length of each (R105, R230). -/
def Cmd.reads (c : Cmd) : List (Nat × Nat) :=
  match c.kind with
  | .xfer src _ len sf dfs _ => cut16 src (sourceBytes len sf dfs)
  | _ => []

/-- A destination in the local window (R231). -/
def Cmd.toLocal (c : Cmd) : Bool :=
  match c.kind with
  | .xfer _ dst _ _ dfs _ => dfs.any (·.2.isSome) || decide (dst.toNat < 0x200000)
  | _ => false

/-- Two transfers have the same machine source, LEN and formats. -/
def sameSource (c d : Cmd) : Bool :=
  match c.kind, d.kind with
  | .xfer src _ len sf dfs _, .xfer src' _ len' sf' dfs' _ =>
    let n := (dfs.map fun e => spanOf (sizeFmt sf e.1) len).foldl max 0
    len == len' && sf == sf' && (dfs.map (·.1)).eraseDups == (dfs'.map (·.1)).eraseDups &&
      (List.range (n / 0x10000 + 2)).all fun i =>
        let o := word (min (0x10000 * i) (n - 1))
        (c.page (src + o) 0).1 == (d.page (src' + o) 0).1
  | _, _ => false

/-- Every read of a transfer has been made, its leader's for a merged one. -/
def Cmd.haveRead (c : Cmd) : Bool := decide (c.reads.length ≤ c.got.length)

/-- Nanoseconds within which commands merge (R231). -/
def mergeTime : Nat := 64

/-- The command that a transfer merges with at its cluster's combining node (R231): its reads have not been sent, since they
follow the acceptance of every command that can still merge with it (R126). -/
def State.mergeWith (s : State) (c : Cmd) : Option Nat :=
  if !c.toLocal then none
  else
    (s.cmds.find? fun d =>
      d.accepted && d.leader.isNone && d.status == 0 && d.id != c.id && d.toLocal && d.core / 16 == c.core / 16 &&
        sameSource d c && decide ((s.now - d.since).toNat ≤ mergeTime) && d.reads != [] && !d.reading).map (·.id)

/-- The agent that reads for a transfer: its engine, or its cluster's combining node for merged commands (R117, R231). -/
def Cmd.reader (c : Cmd) : Owner := if c.joined = [] then c.agent else .node (c.core / 16)

/-- Send the reads of a transfer. -/
def State.sendReads (s : State) (c : Cmd) : State :=
  match c.kind with
  | .xfer src _ _ _ _ _ =>
    forEach (fun (p : Nat × Nat) s =>
      State.readPiece s c.reader c.asid c.id (src + word p.1) (c.page (src + word p.1) 0) p.1 p.2) c.reads
      (s.onCmd c.id fun c => { c with reading := true })
  | _ => s

/-- The reads of a transfer may be sent: it has been accepted, and no other command can still merge with it (R126, R231,
log 30). -/
def State.readyToRead (s : State) (c : Cmd) : Bool :=
  c.accepted && !c.ended && !c.reading && c.leader.isNone && c.reads != [] &&
    (!c.toLocal || decide (mergeTime < (s.now - c.since).toNat))

/-- Transfers that have waited for others to merge with begin to read. -/
def State.settleReads (s : State) : State := forEach (fun c s => if s.readyToRead c then s.sendReads c else s) s.cmds s

/-- The packets of a message (R320). -/
def packetCount (len : Nat) : Nat := max 1 ((len + 4095) / 4096)

/-- Packets with consecutive sequence numbers (R320). -/
def newPkts (psn n : Nat) : List Pkt :=
  (List.range n).map fun i => ⟨psn + i, i, false, false, false, 0, 0, 0, false, []⟩

/-- A work request enters the Geyser engine: its packets take consecutive sequence numbers (R320). The request of an RMA
read is one packet. -/
def State.startRequest (s : State) (c : Cmd) : State :=
  let shut := fun (n : Nat) => !(get Conn.new s.conns n).isOpen
  let fail := s.onCmd c.id fun c => { c with status := 6, ended := true, len := 0 }
  match c.kind with
  | .npost op _ conn _ len _ _ =>
    let k := get Conn.new s.conns conn
    if shut conn then fail
    else
      let n := if op = 3 then 1 else packetCount len
      let m := if op = 0 then k.sentU else if op = 1 then k.sentT else k.psn
      { s with
        reqs := s.reqs ++ [⟨c.id, conn, m, newPkts k.psn n, [], none⟩],
        conns := put s.conns conn { k with
          psn := k.psn + n, sentU := k.sentU + (if op = 0 then 1 else 0), sentT := k.sentT + if op = 1 then 1 else 0 } }
  | .nrecv _ conn _ _ _ _ =>
    if conn.any shut then fail else { s with bufs := s.bufs ++ [⟨c.id, none, none, []⟩] }
  | _ => s

/-- The result of a command returns to the thread that issued it. -/
def State.resultTo (s : State) (c : Cmd) (ws : List Write) : State :=
  s.onThread c.uid fun t => { t with
    outst := modFirst (fun o => o.id == c.out) (fun o => { o with need := 0, fin := .done ws }) t.outst }

/-- A message leaves the send queue (R228, R236): it is queued for its thread, or no live thread has that number. -/
def State.acceptMessage (s : State) (c : Cmd) (tgt n : Nat) (v sender : Word) (d : Opnd) : State :=
  let s := { s with cmds := s.cmds.filter fun x => x.id != c.id }
  match s.mailbox tgt n with
  | none => s.resultTo c [.reg d 1]
  | some u => ((s.mailTo tgt n u v sender).getD s).resultTo c [.reg d 0]

/-- The walks of a command's translations (R377, R406). -/
def State.rememberCmd (s : State) (c : Cmd) : State :=
  forEach (fun (a : Word × Nat) s => State.rememberAll s c.who a.2 [a.1]) c.walks s

/-- Acceptance (R126, R228, R377): the ranges are translated, the instruction's result returns, and the engine begins.
That of `publish` returns after its flip. -/
def State.accept (s : State) (c : Cmd) : State :=
  match c.kind with
  | .message tgt n v sender d => s.acceptMessage c tgt n v sender d
  | _ =>
    let s := s.rememberCmd c
    let c := s.translateCmd { c with accepted := true, since := s.now, order := s.next }
    let m := match c.kind with
      | .xfer _ _ _ _ _ _ => if c.status = 0 ∧ c.reads ≠ [] then s.mergeWith c else none
      | _ => none
    let c := { c with leader := m, ended := decide (c.status ≠ 0) }
    let s := { s with cmds := (s.cmds.filter fun x => x.id != c.id) ++ [c] }
    let s := match m with
      | some l => s.onCmd l fun x => { x with joined := x.joined ++ [c.id] }
      | none => s
    let s := match c.kind with
      | .publish _ _ => s
      | _ => s.resultTo c []
    if c.status ≠ 0 ∨ m.isSome then s else s.settleReads.startRequest c

/-- ENGINE_COMMAND_ACCEPT (R126). -/
def execEngineCommandAccept (k : Nat) (s : State) : Host.Outcome State Fault Refusal :=
  .next (if s.canAccept k then
    match s.cmd? k with
    | some c => s.accept c
    | none => s
  else s)

/-! ### Completion -/

/-- Engine accesses that belong to a command are still to be performed. -/
def State.cmdBusy (s : State) (c : Cmd) : Bool :=
  (s.pending c.agent).any fun a => a.out == c.id || a.op.cmdId == some c.id

/-- Every payload write of a command has been performed (R126). -/
def State.cmdDone (s : State) (c : Cmd) : Bool :=
  !s.cmdBusy c && match c.kind with
    | .publish _ _ => false
    | .xfer _ _ _ _ _ _ => c.ended || c.haveRead
    | _ => c.ended

/-- The connection of a Geyser operation, for a buffer of any connection that of its message, and whether it is a receive. -/
def State.connection (s : State) (c : Cmd) : Option (Nat × Bool) :=
  match c.kind with
  | .npost _ _ n _ _ _ _ => some (n, false)
  | .nrecv _ (some n) _ _ _ _ => some (n, true)
  | .nrecv _ none _ _ _ _ => ((s.bufs.find? fun b => b.cmd == c.id).bind (·.matched)).map fun m => (m.1, true)
  | _ => none

/-- On an ordered connection, completions are written in posting order (R234). -/
def State.inOrder (s : State) (c : Cmd) : Bool :=
  match s.connection c with
  | none => true
  | some n => !(get Conn.new s.conns n.1).ordered || !((s.cmds.takeWhile fun x => x.id != c.id).any fun x =>
      x.accepted && s.connection x == some n)

/-- ENGINE_OPERATION_COMPLETE can happen: the next step of an operation's end (R229). -/
def State.canComplete (s : State) (k : Nat) : Bool :=
  match s.cmd? k with
  | none => false
  | some c => c.accepted && s.cmdDone c && s.inOrder c

/-- What an operation has moved: elements of a transfer, without those whose write was abandoned, else bytes (R229, log 33). -/
def Cmd.moved (c : Cmd) : Nat :=
  match c.kind with
  | .xfer _ _ _ sf dfs _ => c.len - c.lost * 8 / elemBits (sizeFmt ((dfs.map (·.1)).headD 0) sf)
  | .nrecv _ _ _ _ _ _ => c.len
  | _ => c.len - c.lost

/-- The 16 bytes of a completion record (R229). -/
def Cmd.record (c : Cmd) : List Byte :=
  toBytes 8 c.moved ++ toBytes 2 c.status ++ [if c.trunc then 1 else 0, 0] ++ toBytes 4 c.conn

/-- The completion record is sent, as a payload write (R127, R229). -/
def State.sendRecord (s : State) (c : Cmd) : State :=
  let va := recAddr c.crec
  if va = 0 ∨ !has c.pages (pageKey va 3) then s
  else s.deposit c.agent c.asid c.id c.id va (c.page va 3) c.record false false

/-- The completion word is sent, as a release at the command's scope: written or added to (R126, R229). -/
def State.sendCompletion (s : State) (c : Cmd) : State :=
  if c.caddr = 0 ∨ !has c.pages (pageKey c.caddr 2) then s
  else
    let p := c.page c.caddr 2
    let op : AccOp := if bit c.crec 0 then .atom 0 c.cval 0 else .store (toBytes 8 c.cval.toNat)
    s.issueAcc { s.newAcc c.agent c.asid c.id 0 (s.homeOf p.1 p.2) c.caddr p.1 8 op with rel := true, sco := c.scope }

/-- The barrier arrival of a transfer is sent (R226, R229): a release at .sy (R125), which finds what the egress points inside the
engine's instances have accepted performed (R118). -/
def State.engineArrive (s : State) (c : Cmd) : State :=
  match c.kind with
  | .xfer _ _ _ _ _ (some n) =>
    let key := barrierKey c.core n
    s.sendArrival (.engine c.core) c.asid c.id (.engine key c.core) key 6
  | _ => s

/-- The end of an engine operation (R229), one step at a time: the record, then the word, then the arrival, each once what
went before has been performed. -/
def State.complete (s : State) (c : Cmd) : State :=
  if c.stage = 0 then (s.sendRecord c).onCmd c.id fun c => { c with stage := 1 }
  else if c.stage = 1 then (s.sendCompletion c).onCmd c.id fun c => { c with stage := 2 }
  else if c.stage = 2 then (s.engineArrive c).onCmd c.id fun c => { c with stage := 3 }
  else
    { s with
      cmds := s.cmds.filter fun x => x.id != c.id, reqs := s.reqs.filter fun r => r.cmd != c.id,
      bufs := s.bufs.filter fun b => b.cmd != c.id, free := s.free + 1 }

/-- ENGINE_OPERATION_COMPLETE (R229). -/
def execEngineOperationComplete (k : Nat) (s : State) : Host.Outcome State Fault Refusal :=
  .next (if s.canComplete k then
    match s.cmd? k with
    | some c => s.complete c
    | none => s
  else s)

/-- Frames of the tables that a command's payload writes go to, on a side: 1 its destination, 3 its record. -/
def Cmd.framesOf (c : Cmd) (side : Nat) : List Nat := (c.pages.filter fun p => p.1 % 4 == side).map fun p => p.2.1 / 0x10000

/-- A payload write of a command, or of none accepted before it, is on its way to frames of the tables. -/
def State.depositsIn (s : State) (orig : List Nat) (p : Acc → Nat → Bool) : Bool :=
  s.accs.any fun a => orig.contains (a.pa / 0x10000) && match a.op with
    | .deposit k _ _ _ _ => p a k
    | _ => false

/-- An engine operation accepted before a `publish` may still write to its region (R127): what it has sent, what its reads
will bring, and its record. -/
def State.writesTo (s : State) (orig : List Nat) (c : Cmd) : Bool :=
  s.depositsIn orig (fun _ k => k == c.id) ||
    (!c.isRecv && c.stage == 0 && (c.framesOf 3).any orig.contains) ||
    ((c.framesOf 1).any orig.contains && !c.ended && (match c.kind with
      | .xfer _ _ _ _ _ _ => !c.haveRead
      | .npost op _ _ _ _ _ _ => op == 3
      | _ => false))

/-- PUBLISH_FLIP can happen. -/
def State.canFlip (s : State) (k : Nat) : Bool :=
  match s.cmd? k with
  | none => false
  | some c =>
    match c.kind with
    | .publish r _ =>
      let reg := get ⟨0, 0, [], []⟩ (s.ctx c.asid).regions r
      c.accepted && !((s.cmds.takeWhile fun x => x.id != k).any fun x => x.accepted && s.writesTo reg.orig x) &&
        !s.depositsIn reg.orig fun a k => k == 0 && decide (a.id < c.order)
    | _ => false

/-- The flip of a region (R127, R232): shadow frames become visible, the old ones leave, and the result returns. -/
def State.flip (s : State) (c : Cmd) (r : Nat) (d : Opnd) : State :=
  let reg := get ⟨0, 0, [], []⟩ (s.ctx c.asid).regions r
  let olds := reg.frames.map fun f => s.visible (reg.orig.getD f.1 0 * 0x10000) / 0x10000
  let remap := forEach (fun (f : Nat × Nat) m => put m (reg.orig.getD f.1 0) f.2) reg.frames s.remap
  let s := State.onCtx { s with remap := remap, leaving := s.leaving ++ olds } c.asid fun x => { x with
    regions := if has x.regions r then put x.regions r { reg with frames := [] } else x.regions }
  let s := s.resultTo c [.reg d (word reg.frames.length)]
  (State.settlePool { s with cmds := s.cmds.filter fun x => x.id != c.id }).rehomeDeposits

/-- PUBLISH_FLIP (R127). -/
def execPublishFlip (k : Nat) (s : State) : Host.Outcome State Fault Refusal :=
  .next (if s.canFlip k then
    match s.cmd? k with
    | some c => (match c.kind with
      | .publish r d => s.flip c r d
      | _ => s)
    | none => s
  else s)

/-! ### Geyser: sending -/

/-- A connection. -/
def State.conn (s : State) (n : Nat) : Conn := get Conn.new s.conns n

/-- Change a connection. -/
def State.onConn (s : State) (n : Nat) (f : Conn → Conn) : State := { s with conns := put s.conns n (f (s.conn n)) }

/-- What a work request sends: the context, address and length of the payload, and its translations (R233, R234). -/
def State.sourceOf (s : State) (r : WorkReq) : Nat × Word × Nat × Sparse (Nat × Word) :=
  match r.answer with
  | some w => (w.asid, w.va, w.len, w.pages)
  | none =>
    match s.cmd? r.cmd with
    | none => (0, 0, 0, [])
    | some c =>
      match c.kind with
      | .npost op _ _ laddr len _ _ => (c.asid, laddr, if op = 3 then 0 else len, c.pages)
      | _ => (c.asid, 0, 0, [])

/-- The reads of the payload of a packet: offset in the message, and length (R105). -/
def packetReads (va : Word) (len i : Nat) : List (Nat × Nat) :=
  (cut16 (va + word (4096 * i)) (min 4096 (len - 4096 * i))).map fun p => (4096 * i + p.1, p.2)

/-- The packets that may be sent, or whose payload may be read, each with its request. -/
def State.sendable (s : State) : List (WorkReq × Pkt) :=
  s.reqs.flatMap fun r =>
    let x := s.sourceOf r
    (r.pkts.filter fun p => !p.acked && (!p.sent || p.again) &&
      (!p.reading || p.got.length == (packetReads x.2.1 x.2.2.1 p.index).length)).map fun p => (r, p)

/-- Change a packet of a connection's requests. -/
def State.onPkt (s : State) (conn psn : Nat) (f : Pkt → Pkt) : State :=
  { s with reqs := s.reqs.map fun r =>
      if r.conn == conn then { r with pkts := r.pkts.map fun p => if p.psn == psn then f p else p } else r }

/-- The link of Ethernet port `p`. -/
def portLink (p : Nat) : Nat := 3 + p

/-- The port that an entropy value selects: the next one up in ascending order (R320). -/
def State.portFor (s : State) (e : Nat) : Option Nat :=
  ((List.range 8).map fun i => (e + i) % 8).find? fun p => s.linkUp (portLink p)

/-- A message leaves for a connection's peer: to this module itself, else to the fabric. -/
def State.toPeer (s : State) (k : Conn) (port entropy : Nat) (m : NetMsg) : State :=
  { s with net := s.net ++ [⟨s.next, k.peer == s.peer, port, entropy, m⟩], next := s.next + 1 }

/-- The payload of a packet is read from the local buffer, for each transmission anew (R321, R323). -/
def State.readPacket (s : State) (r : WorkReq) (p : Pkt) : State :=
  let x := s.sourceOf r
  let s := s.onPkt r.conn p.psn fun p => { p with reading := true, got := [] }
  forEach (fun (e : Nat × Nat) s =>
    let va := x.2.1 + word e.1
    State.readPiece s .geyser x.1 r.cmd va (pageAt x.2.2.2 va 0) e.1 e.2) (packetReads x.2.1 x.2.2.1 p.index) s

/-- The message that carries a packet whose payload has been read. -/
def State.packetOf (s : State) (r : WorkReq) (p : Pkt) : NetMsg :=
  let x := s.sourceOf r
  let k := s.conn r.conn
  let n := min 4096 (x.2.2.1 - 4096 * p.index)
  let data := gotBytes p.got (4096 * p.index) n
  let bad := (p.got.filter (·.2.2)).map fun g => (g.1 - 4096 * p.index, g.2.1.length)
  match r.answer with
  | some w => .packet k.peerConn p.psn w.psn p.index r.pkts.length w.len 4 0 0 false data bad
  | none =>
    match (s.cmd? r.cmd).map Cmd.kind with
    | some (.npost op retry _ _ len tag win) =>
      .packet k.peerConn p.psn r.mseq p.index (if op = 3 then 1 else r.pkts.length) len op tag win
        (decide (retry ≤ p.refusals)) data bad
    | _ => .packet k.peerConn p.psn r.mseq p.index r.pkts.length 0 0 0 0 true data bad

/-- Transmit a packet (R320): it takes the next entropy value of its connection's rotation. With every port down, the
connection fails (R234). -/
def State.transmit (s : State) (r : WorkReq) (p : Pkt) : State :=
  let k := s.conn r.conn
  let e := k.entropy.getD (k.rotation % max 1 k.entropy.length) 0
  match s.portFor e with
  | none => s.closeConn r.conn 6
  | some port =>
    let m := s.packetOf r p
    let asid := (s.sourceOf r).1
    let s := s.onPkt r.conn p.psn fun p => { p with
      sent := true, again := false, sentAt := s.now, later := 0, reading := false, got := [] }
    let s := s.onConn r.conn fun k => { k with rotation := k.rotation + 1 }
    let s := s.count asid 0x040
    (if p.sent then s.count asid 0x041 else s).toPeer k port e m

/-- GEYSER_PACKET_SEND (R320): the k-th of the packets that may be sent; its payload is read first. -/
def execGeyserPacketSend (k : Nat) (s : State) : Host.Outcome State Fault Refusal :=
  .next (match s.sendable[k]? with
    | none => s
    | some (r, p) =>
      let x := s.sourceOf r
      if p.reading || (packetReads x.2.1 x.2.2.1 p.index).isEmpty then s.transmit r p else s.readPacket r p)

/-! ### Geyser: receiving -/

/-- A message on its way in. -/
def State.inbound (s : State) (k : Nat) : Option InFlight := s.net.find? fun m => m.id == k && m.inbound

/-- A message has been received. -/
def State.received (s : State) (k : Nat) : State := { s with net := s.net.filter fun m => m.id != k }

/-- The posted buffer that a send of a connection takes: the oldest that is free and fits (R234). -/
def State.bufferFor (s : State) (n : Nat) (tagged : Bool) (tag : Word) : Option Nat :=
  (s.bufs.find? fun b => b.matched.isNone && match s.cmd? b.cmd with
    | none => false
    | some c => c.asid == (s.conn n).asid && !c.ended && match c.kind with
      | .nrecv t cn _ _ g m => t == tagged && (cn.isNone || cn == some n) && (!tagged || (tag ^^^ g) &&& m == 0)
      | _ => false).map (·.cmd)

/-- Match one send of a connection (R322). -/
def State.matchOne (s : State) (n : Nat) (tagged : Bool) (m : Nat) : State :=
  let k := s.conn n
  if k.settled.contains (tagged, m) then s
  else
    let tag := match k.tags.find? fun t => t.1 == m with
      | some t => t.2
      | none => 0
    match s.bufferFor n tagged tag with
    | none => s
    | some id =>
      State.onConn { s with bufs := s.bufs.map fun b => if b.cmd == id then { b with matched := some (n, m) } else b } n
        fun k => { k with settled := (tagged, m) :: k.settled }

/-- Match a send, every earlier one of its kind first (R322). -/
def State.matchUpTo (s : State) (n : Nat) (tagged : Bool) (m : Nat) : State :=
  forEach (fun i s => s.matchOne n tagged i) (List.range (m + 1)) s

/-- The buffer that a message of a connection has been matched to. -/
def State.bufferOf (s : State) (n : Nat) (tagged : Bool) (m : Nat) : Option RecvBuf :=
  s.bufs.find? fun b => b.matched == some (n, m) && match s.cmd? b.cmd with
    | some c => (match c.kind with
      | .nrecv t _ _ _ _ _ => t == tagged
      | _ => false)
    | none => false

/-- Every earlier tagged send of the connection has shown its tag or ended: a packet that overtakes one waits. -/
def State.tagsKnown (s : State) (n m : Nat) : Bool :=
  let k := s.conn n
  (List.range m).all fun i => k.settled.contains (true, i) || k.tags.any fun t => t.1 == i

/-- What a placement meets: for each page that can be written the address that the tables give, the leaf, the offset and the
length; whether a page is read-duplicated; and the trap of the first page that fails (R108, R234). -/
structure Placing where
  parts : List (Nat × Word × Nat × Nat)
  dup : Bool
  fail : Option Trap
  deriving DecidableEq, Repr

/-- The parts of a range that its pages cut: address, offset and length of each. -/
def partsOf (va : Word) (len : Nat) : List (Word × Nat × Nat) :=
  (pagesOf va len).map fun p =>
    let a := if p.toNat < va.toNat then va else p
    let off := a.toNat - va.toNat
    (a, off, min (len - off) (0x10000 - a.toNat % 0x10000))

/-- Translate the pages of a placement. -/
def State.placingOf (s : State) (w : Who) (va : Word) (len : Nat) : Placing :=
  (partsOf va len).foldl (fun acc p =>
    if acc.fail.isSome then acc
    else
      match s.translate w p.1 kWrite with
      | .ok t => { acc with parts := acc.parts ++ [(t.raw, t.attr, p.2.1, p.2.2)] }
      | .error t => if t.cause = .writeDup then { acc with dup := true } else { acc with fail := some t }) ⟨[], false, none⟩

/-- Send the writes of a packet's payload, under the number of its placement (R105, R126). -/
def State.place (s : State) (id cmd asid : Nat) (va : Word) (l : List (Nat × Word × Nat × Nat)) (bs : List Byte)
    (bad : List (Nat × Nat)) : State :=
  forEach (fun (e : Nat × Word × Nat × Nat) s =>
    forEach (fun (p : Nat × Nat) s =>
      let off := e.2.2.1 + p.1
      State.deposit s .geyser asid id cmd (va + word off) (e.1 + p.1, e.2.1) ((bs.drop off).take p.2)
        (bad.any (meets · (off, p.2))) false) (cutWrites (va + word e.2.2.1) e.2.2.2) s) l s

/-- A packet's payload is on its way to its place; one with uncorrectable data among the bytes that are placed ends its
operation with POISON (R229). -/
def State.startPlacing (s : State) (p : Placed) (asid : Nat) (va : Word) (l : List (Nat × Word × Nat × Nat)) (bs : List Byte)
    (bad : List (Nat × Nat)) : State :=
  let id := s.next
  let s := { s with placing := s.placing ++ [{ p with id := id }], next := s.next + 1 }
  let s := if !(bad.any (meets · (0, bs.length))) then s
    else s.onCmd p.cmd fun c => { c with status := if c.status == 0 then 1 else c.status }
  s.place id p.cmd asid va l bs bad

/-- The page request of a failed placement (R234, R382): for an absent page only. -/
def State.placeRequest (s : State) (asid : Nat) (t : Trap) : State :=
  match t.target with
  | some d => if bits t.addr 1 0 = 0 then s.pageRequest d t.addr.toNat 1 asid 0 else s
  | none => if t.cause = .pageAbsent then s.pageRequest asid t.addr.toNat 1 asid 0 else s

/-- Where a packet's payload goes: who it is placed for, address, bytes, and the command; none when no buffer or window
takes it. -/
def State.placeTarget (s : State) (n op mseq index : Nat) (tag : Word) (win : Nat) (payload : List Byte) :
    Option (Who × Word × List Byte × Nat) :=
  if op ≤ 1 then
    match s.bufferOf n (op == 1) mseq with
    | none => none
    | some b =>
      match s.cmd? b.cmd with
      | none => none
      | some c =>
        match c.kind with
        | .nrecv _ _ laddr len _ _ => some (c.who, laddr + word (4096 * index), payload.take (len - 4096 * index), c.id)
        | _ => none
  else if op = 2 then
    if !has s.windows win then none
    else
      let w := get ⟨0, 0, false, 0, 0, false, false⟩ s.windows win
      let off := tag.toNat + 4096 * index
      if w.wr ∧ off + payload.length ≤ w.len then some (⟨w.asid, w.core, w.cc⟩, w.base + word off, payload, 0) else none
  else none

/-- The matching that an arriving packet brings about. -/
def State.matched (s : State) (n op mseq : Nat) (tag : Word) : State :=
  if 1 < op then s
  else
    let s := if op = 1 ∧ !((s.conn n).tags.any fun t => t.1 == mseq) then
        s.onConn n fun k => { k with tags := k.tags ++ [(mseq, tag)] }
      else s
    s.matchUpTo n (op == 1) mseq

/-- A packet may arrive now. -/
def State.canReceive (s : State) (k : Nat) : Bool :=
  match s.inbound k with
  | none => false
  | some f =>
    match f.msg with
    | .packet n _ mseq _ _ _ op _ _ _ _ _ => op != 1 || s.tagsKnown n mseq
    | _ => false

/-- Answer a packet. -/
def State.reply (s : State) (n : Nat) (m : Nat → NetMsg) : State :=
  let k := s.conn n
  s.toPeer k ((s.portFor 0).getD 0) 0 (m k.peerConn)

/-- A packet has been placed: it is acknowledged, and a duplicate of it will be. -/
def State.ackPacket (s : State) (n psn : Nat) : State :=
  (s.onConn n fun k => { k with placed := if k.placed.contains psn then k.placed else psn :: k.placed }).reply n
    fun p => .ack p psn

/-- A send is refused: when its sender has no retransmission left it is over, and a buffer that it had completes with
PAGE_ABSENT and the full length (R234). -/
def State.refuse (s : State) (n op mseq len psn status : Nat) (last : Bool) : State :=
  let s := if last ∧ op ≤ 1 then
      let s := s.onConn n fun k => { k with settled := (op == 1, mseq) :: k.settled }
      match s.bufferOf n (op == 1) mseq with
      | some b => s.onCmd b.cmd fun c => { c with status := status, ended := true, len := len, conn := n }
      | none => s
    else s
  s.reply n fun p => .refuse p psn status

/-- Packet `index` of a message has reached its buffer, which ends once every packet has (R234). -/
def State.placedInto (s : State) (p : Placed) : State :=
  let s := { s with bufs := s.bufs.map fun (b : RecvBuf) =>
    if b.cmd == p.cmd then { b with size := some (p.count, p.len), placed := p.index :: b.placed } else b }
  let s := if p.dup then s.onCmd p.cmd fun c => { c with status := if c.status == 0 then 2 else c.status } else s
  match s.bufs.find? fun b => b.cmd == p.cmd with
  | none => s
  | some b =>
    if p.count ≤ b.placed.length then
      s.onCmd p.cmd fun c => if c.ended then c else { c with
        ended := true, len := p.len, conn := p.conn, trunc := match c.kind with
          | .nrecv _ _ _ l _ _ => decide (l < p.len)
          | _ => false }
    else s

/-- Packet `index` of the data that an RMA read asked for has been placed; the read ends once all has (R234). -/
def State.answered (s : State) (p : Placed) : State :=
  let s := { s with reqs := s.reqs.map fun (r : WorkReq) => if r.cmd == p.cmd then { r with got := p.index :: r.got } else r }
  if s.reqs.any fun r => r.cmd == p.cmd && decide (p.count ≤ r.got.length) then
    State.onCmd { s with reqs := s.reqs.filter fun r => r.cmd != p.cmd } p.cmd fun c => { c with ended := true }
  else s

/-- The writes of a placement have been made. One of which a write was abandoned, placed for no operation of this module, is
refused as an absent page (R383). -/
def State.finishPlaced (s : State) (p : Placed) : State :=
  let s := { s with placing := s.placing.filter fun q => q.id != p.id }
  if !(s.conn p.conn).isOpen then s
  else if p.op = 2 ∧ p.failed then s.reply p.conn fun q => .refuse q p.psn 4
  else
    let s := if p.op ≤ 1 then s.placedInto p else if p.op = 4 then s.answered p else s
    s.ackPacket p.conn p.psn

/-- Every placement whose writes have been made ends: its packet is acknowledged. -/
def State.settlePlacing (s : State) : State :=
  if s.placing.isEmpty then s
  else
    let busy := (s.pending .geyser).map (·.out)
    forEach (fun (p : Placed) s => if busy.contains p.id then s else s.finishPlaced p) s.placing s

/-- The data that answers an RMA read (R234): the window's bytes, in packets of this module's own. -/
def State.answerRead (s : State) (n psn len : Nat) (tag : Word) (win : Nat) : State :=
  let w := get ⟨0, 0, false, 0, 0, false, false⟩ s.windows win
  let who : Who := ⟨w.asid, w.core, w.cc⟩
  let va := w.base + tag
  if !has s.windows win ∨ !w.rd ∨ w.len < tag.toNat + len then s.reply n fun p => .refuse p psn 4
  else
    match s.checkRange who va len kRead with
    | .error t => (s.placeRequest w.asid t).reply n fun p => .refuse p psn 4
    | .ok _ =>
      let pages := (pagesOf va len).foldl (fun l a => match s.translate who a kRead with
        | .ok t => put l (pageKey a 0) (t.pa, t.attr)
        | .error _ => l) []
      let s := s.rememberAll who kRead (pagesOf va len)
      let k := s.conn n
      let req : WorkReq := ⟨s.next, n, psn, newPkts k.psn (packetCount len), [], some ⟨w.asid, va, len, psn, pages⟩⟩
      (State.onConn { s with reqs := s.reqs ++ [req], next := s.next + 1 } n fun k => { k with
        psn := k.psn + packetCount len }).ackPacket n psn

/-- Data that answers an RMA read is placed locally (R234). -/
def State.placeAnswer (s : State) (n psn mseq index count : Nat) (payload : List Byte) (bad : List (Nat × Nat)) : State :=
  match s.reqs.find? fun r => r.conn == n && r.answer.isNone && r.pkts.any fun p => p.psn == mseq with
  | none => s.ackPacket n psn
  | some r =>
    match s.cmd? r.cmd with
    | none => s.ackPacket n psn
    | some c =>
      match c.kind with
      | .npost _ _ _ laddr _ _ _ =>
        let va := laddr + word (4096 * index)
        let l := (partsOf va payload.length).map fun p =>
          let q := c.page p.1 1
          ((q.1, q.2, p.2.1, p.2.2) : Nat × Word × Nat × Nat)
        s.startPlacing ⟨0, n, psn, 4, c.id, index, count, 0, false, false⟩ c.asid va l payload bad
      | _ => s.ackPacket n psn

/-- A packet arrives (R234, R320 to R322): one that has been placed is only acknowledged, and one that is being placed is
dropped; a send is matched; then the payload is placed, or the packet refused. -/
def State.arrivePacket (s : State) (n psn mseq index count len op : Nat) (tag : Word) (win : Nat) (last : Bool)
    (payload : List Byte) (bad : List (Nat × Nat)) : State :=
  if !(s.conn n).isOpen ∨ (s.placing.any fun p => p.conn == n && p.psn == psn) then s
  else if (s.conn n).placed.contains psn then s.ackPacket n psn
  else if op = 4 then s.placeAnswer n psn mseq index count payload bad
  else if op = 3 then s.answerRead n psn len tag win
  else
    let s := s.matched n op mseq tag
    match s.placeTarget n op mseq index tag win payload with
    | none => s.refuse n op mseq len psn (if op ≤ 1 then 5 else 4) last
    | some (w, va, bs, c) =>
      let s := s.rememberAll w kWrite (pagesOf va bs.length)
      let l := s.placingOf w va bs.length
      match l.fail with
      | some t => (s.placeRequest w.asid t).refuse n op mseq len psn 4 last
      | none => s.startPlacing ⟨0, n, psn, op, c, index, count, len, l.dup, false⟩ w.asid va l.parts bs bad

/-- GEYSER_PACKET_ARRIVAL (R234, R322). -/
def execGeyserPacketArrival (k : Nat) (s : State) : Host.Outcome State Fault Refusal :=
  .next (if s.canReceive k then
    match s.inbound k with
    | none => s
    | some f =>
      let s := State.received { s with free := s.free + 1 } k
      match f.msg with
      | .packet n psn mseq index count len op tag win last payload bad =>
        (s.arrivePacket n psn mseq index count len op tag win last payload bad).settlePlacing
      | _ => s
  else s)

/-! ### Geyser: answers, timeouts and failures -/

/-- A request of this module's that its acknowledgements end: all but an RMA read, whose data ends it (R234). -/
def State.endsByAck (s : State) (r : WorkReq) : Bool :=
  r.answer.isSome || match (s.cmd? r.cmd).map Cmd.kind with
    | some (.npost op _ _ _ _ _ _) => op != 3
    | _ => true

/-- An acknowledgement of packet `psn` (R321): packets before it that three later ones have passed are sent again, and a
request with every packet acknowledged ends (R234). -/
def State.acknowledge (s : State) (n psn : Nat) : State :=
  if (s.conn n).acked.contains psn ∨ (s.conn n).psn ≤ psn then s
  else
    let s := s.onConn n fun k => { k with acked := psn :: k.acked }
    let reqs := s.reqs.map fun r =>
      if r.conn == n then
        { r with pkts := r.pkts.map fun p =>
            if p.psn == psn then { p with acked := true, again := false }
            else if p.psn < psn && p.sent && !p.acked then
              { p with later := p.later + 1, again := p.again || decide (p.later + 1 = 3) }
            else p }
      else r
    let ends := reqs.filter fun r => r.pkts.all (·.acked) && s.endsByAck r
    { s with
      reqs := reqs.filter fun r => !ends.any fun x => x.cmd == r.cmd,
      cmds := s.cmds.map fun c => if ends.any fun r => r.cmd == c.id then { c with ended := true } else c }

/-- GEYSER_ACK_ARRIVAL (R321). -/
def execGeyserAckArrival (k : Nat) (s : State) : Host.Outcome State Fault Refusal :=
  .next (match s.inbound k with
    | none => s
    | some f =>
      match f.msg with
      | .ack n psn => (s.received k).acknowledge n psn
      | _ => s)

/-- The packets that have stayed unacknowledged for their connection's timeout, with their connection (R321). -/
def State.overdue (s : State) : List (Nat × Nat) :=
  s.reqs.flatMap fun r =>
    (r.pkts.filter fun p => p.sent && !p.acked && !p.again && decide ((s.conn r.conn).timeout ≤ (s.now - p.sentAt).toNat)).map
      fun p => (r.conn, p.psn)

/-- GEYSER_RETRANSMIT_TIMEOUT (R321): the k-th overdue packet is to be sent again. -/
def execGeyserRetransmitTimeout (k : Nat) (s : State) : Host.Outcome State Fault Refusal :=
  .next (match s.overdue[k]? with
    | none => s
    | some (n, psn) => s.onPkt n psn fun p => { p with again := true })

/-- A refusal of a packet (R234): it is sent again, or the request ends after RETRY retransmissions. It is counted in the context
of its connection (R406). -/
def State.refused (s : State) (n psn status : Nat) : State :=
  let s := s.count (s.conn n).asid 0x042
  match s.reqs.find? fun r => r.conn == n && r.pkts.any fun p => p.psn == psn && !p.acked with
  | none => s
  | some r =>
    match s.cmd? r.cmd with
    | none => s
    | some c =>
      match c.kind with
      | .npost op retry _ _ len _ _ =>
        if r.pkts.any fun p => p.psn == psn && decide (retry ≤ p.refusals) then
          let s := s.onCmd c.id fun c => { c with status := status, ended := true, len := r.moved op len }
          { s with reqs := s.reqs.filter fun x => x.cmd != c.id }
        else s.onPkt n psn fun p => { p with refusals := p.refusals + 1, again := true }
      | _ => s

/-- GEYSER_REFUSAL (R234). -/
def execGeyserRefusal (k : Nat) (s : State) : Host.Outcome State Fault Refusal :=
  .next (match s.inbound k with
    | none => s
    | some f =>
      match f.msg with
      | .refuse n psn status => (s.received k).refused n psn status
      | _ => s)

/-- GEYSER_CONNECTION_FAILURE (R234): its outstanding requests, and the buffers matched to it, complete with CONN_ERR. -/
def execGeyserConnectionFailure (n : Nat) (s : State) : Host.Outcome State Fault Refusal :=
  .next (if (s.conn n).isOpen then s.closeConn n 6 else s)

end Sys2Proof.Machine
end

