-- ==== Sys2Proof/Machine/Platform.lean ====
section
/-! DEFINITION. Register writes as steps of their own (R340), service replies (R412), and what the host, the links, power
and the boot do (R413 to R424). -/

namespace Sys2Proof.Machine

/-! ### Register writes -/

/-- The write half of an `mtcr` (R340): the checks of its privilege (R326), the number and its own rule, then the write.
The word that TADDR would hold for a decode trap is not stated for a write without its instruction. -/
def State.crWrite (s : State) (n : BitVec 12) (v : Word) : State :=
  let w := word (Config.freeNat s.free)
  if (decide (1 ≤ crPriv n) && !s.th.sup) || (decide (2 ≤ crPriv n) && s.th.asid != 0) then
    State.raise { s with free := s.free + 1 } s.cur (.of .priv w) true
  else if !crKnown n then State.raise { s with free := s.free + 1 } s.cur (.of .illegalOp w) true
  else
    match s.crWriteCheck n.toNat v w with
    | some t => State.raise { s with free := s.free + 1 } s.cur t true
    | none => s.writeCr n.toNat v

/-- A register write of the thread that issues. -/
def crEvent (n : BitVec 12) (v : Word) (s : State) : Host.Outcome State Fault Refusal :=
  if has s.threads s.cur then .next (s.crWrite n v) else .fault .noThread

/-- BFMT_WRITE (R62). -/
def execBfmtWrite (b : BitVec 4) (v : Word) (s : State) : Host.Outcome State Fault Refusal :=
  crEvent (0x050 + b.setWidth 12) v s

/-- The counters of R59: STEP and STEPDONE. -/
def isStepCounter (n : BitVec 12) : Bool := n == 0x010 || n == 0x011

/-- STEP_COUNTER_WRITE (R59): of STEP for 0x010, of STEPDONE for every other number. -/
def execStepCounterWrite (n : BitVec 12) (v : Word) (s : State) : Host.Outcome State Fault Refusal :=
  crEvent (if isStepCounter n then n else 0x011) v s

/-- DEPCFG_WRITE (R240). -/
def execDepcfgWrite (v : Word) (s : State) : Host.Outcome State Fault Refusal := crEvent 0x012 v s

/-- DELEG_WRITE (R328). -/
def execDelegWrite (v : Word) (s : State) : Host.Outcome State Fault Refusal := crEvent 0x108 v s

/-- PCNT_WRITE (R407). -/
def execPcntWrite (n : BitVec 4) (v : Word) (s : State) : Host.Outcome State Fault Refusal :=
  crEvent (0x130 + n.setWidth 12) v s

/-- SALCFG_WRITE (R334). -/
def execSalcfgWrite (v : Word) (s : State) : Host.Outcome State Fault Refusal := crEvent 0x400 v s

/-- VFCTL_WRITE (R413). -/
def execVfctlWrite (v : Word) (s : State) : Host.Outcome State Fault Refusal := crEvent 0x411 v s

/-- CXLWIN_WRITE (R413). -/
def execCxlwinWrite (v : Word) (s : State) : Host.Outcome State Fault Refusal := crEvent 0x413 v s

/-- REGISTER_WRITE (R340). -/
def execRegisterWrite (n : BitVec 12) (v : Word) (s : State) : Host.Outcome State Fault Refusal := crEvent n v s

/-- CSR_WINDOW_STORE (R335): a store at an offset of the control-and-status window. -/
def execCsrWindowStore (off : Nat) (v : Word) (s : State) : Host.Outcome State Fault Refusal :=
  .next (if off < Config.cores s.part * 0x8000 ∧ off % 8 = 0 then s.setCsr (csrBase + off) v else s)

/-! ### Service replies (R411, R412) -/

/-- Whose addresses a call's arguments are. -/
def Call.who (c : Call) : Who := ⟨c.asid, c.core, c.cc⟩

/-- An argument of a call: x2 to x5. -/
def Call.arg (c : Call) (n : Nat) : Word := c.args.getD (n - 2) 0

/-- A service thread writes bytes of a caller's space, in pieces (R105); what cannot be translated is left out. The writes are
attributed to the caller (log 42). -/
def State.serviceWrite (s : State) (w : Who) (va : Word) (bs : List Byte) (rel : Bool := false) : State :=
  forEach (fun (p : Nat × Nat) s =>
    match s.translate w (va + word p.1) kWrite with
    | .ok t =>
      let b := (bs.drop p.1).take p.2
      State.send s .host w.asid (va + word p.1) t b.length (.store b) false rel 4
    | .error _ => s) (if rel then [(0, bs.length)] else cutWrites va bs.length) s

/-- The bytes that READ delivers: no more than the call asks for. -/
def Call.delivered (c : Call) (r : Reply) : List Byte := if c.code = 0x002 then r.data.take (c.arg 4).toNat else []

/-- Word +0 of a capability entry (R409). -/
def capWord (kind rights object : Nat) : Word := word (kind % 16 + rights % 64 * 2 ^ 8 + object % 2 ^ 32 * 2 ^ 32)

/-- A new entry, at the lowest empty index of a table; none when it is full. -/
def State.newCap (s : State) (asid : Nat) (e : Word × Word) : Option (State × Word) :=
  match (List.range 1024).find? fun i => capKind ((s.ctx asid).capAt i) == 0 with
  | none => none
  | some i => some (s.onCtx asid fun c => { c with caps := put c.caps i e, capFrom := del c.capFrom i }, word i)

/-- What an operation comes to: the state, STATUS and RESULT. A new entry needs room in the table (status 6). -/
def State.grantEntry (s : State) (asid : Nat) (e : Word × Word) : State × Nat × Word :=
  match s.newCap asid e with
  | none => (s, 6, 0)
  | some (s, i) => (s, 0, i)

/-- A connection number that no connection has had. -/
def State.freeConn (s : State) : Nat := ((List.range (s.conns.length + 1)).find? fun n => !has s.conns n).getD 0

/-- CONNECT (R412): entropy set 0 to 255, timeout 100 us. RESULT of the service carries the connection's object above its
number at the peer. -/
def State.connect (s : State) (c : Call) (r : Reply) : State × Nat × Word :=
  let n := s.freeConn
  let e := (s.ctx c.asid).capAt c.cap
  match s.newCap c.asid (capWord 5 8 (bits r.result 63 32), word n) with
  | none => (s, 6, 0)
  | some (s, i) =>
    ({ s with conns := put s.conns n { Conn.new with
        asid := c.asid, domain := bits e.1 63 32, peer := bits (c.arg 2) 9 0, peerAsid := bits (c.arg 3) 11 0,
        peerConn := bits r.result 15 0, ordered := bit (c.arg 5) 0, isOpen := true, entropy := List.range 256,
        timeout := 100000 } }, 0, i)

/-- The effect of an operation that the service grants (R412). -/
def State.serve (s : State) (c : Call) (r : Reply) : State × Nat × Word :=
  let e := (s.ctx c.asid).capAt c.cap
  match c.code with
  | 0x000 => (s, 0, e.1)
  | 0x001 =>
    s.grantEntry c.asid (capWord (if bit r.result 32 then 3 else 2) (bits (c.arg 4) 1 0) (bits r.result 31 0), 0)
  | 0x002 => (s.serviceWrite c.who (c.arg 3) (c.delivered r), 0, word (c.delivered r).length)
  | 0x003 => (s, 0, r.result)
  | 0x004 =>
    let s := if capKind e = 5 then s.closeConn (bits e.2 15 0) 6 else s
    (s.onCtx c.asid fun x => { x with caps := del x.caps c.cap, capFrom := del x.capFrom c.cap }, 0, 0)
  | 0x020 => s.connect c r
  | 0x021 =>
    let w : RmaWindow := ⟨c.asid, c.core, c.cc, c.arg 2, (c.arg 3).toNat, bit (c.arg 4) 0, bit (c.arg 4) 1⟩
    ({ s with windows := put s.windows (bits r.result 31 0) w }, 0, r.result)
  | 0x022 =>
    let k := bits (c.arg 2) 31 0
    let rights := if has s.windows k then
        let w := get ⟨0, 0, false, 0, 0, false, false⟩ s.windows k
        (if w.rd then 1 else 0) + if w.wr then 2 else 0
      else bits r.result 1 0
    s.grantEntry c.asid (capWord 6 rights k, 0)
  | _ =>
    let a := if c.arg 2 = 0 then c.asid else (c.arg 2).toNat
    if has s.ctxs a && s.within a c.asid then s.grantEntry c.asid (capWord 7 0x30 0, word a) else (s, 4, 0)

/-- LENGTH of a reply record: DATA of the entry for QUERY, the bytes read for READ, else what the service says. -/
def State.replyLength (s : State) (c : Call) (r : Reply) (result : Word) : Word :=
  match c.code with
  | 0x000 => ((s.ctx c.asid).capAt c.cap).2
  | 0x002 => result
  | _ => r.len

/-- The reply of the root's service threads (R412): the writes of the operation are sent first, then those of +8 to +31, and
STATUS last, as a release at .mo. -/
def State.replyTo (s : State) (c : Call) (r : Reply) : State :=
  let x := if c.revoked then (s, 8, r.result) else if r.status ≠ 0 then (s, r.status.toNat, r.result) else s.serve c r
  let len := if x.2.1 = 0 then s.replyLength c r x.2.2 else r.len
  let y := x.1.serviceWrite c.who (c.reply + 8) (toBytes 8 x.2.2.toNat ++ toBytes 8 len.toNat ++ toBytes 8 0)
  let z := y.serviceWrite c.who c.reply (toBytes 8 x.2.1) true
  State.onCtx { z with calls := z.calls.filter fun d => d.id != c.id } c.asid fun d => { d with calls := d.calls - 1 }

/-- SERVICE_REPLY (R412). -/
def execServiceReply (k : Nat) (r : Reply) (s : State) : Host.Outcome State Fault Refusal :=
  .next (match s.calls.find? fun c => c.id == k with
    | none => s
    | some c => s.replyTo c r)

/-! ### The host -/

/-- The context that a virtual function is bound to (R350, R413). -/
def State.boundTo (s : State) (vf : Nat) : Option Nat :=
  let c := (get Vf.new s.vfs vf).ctl
  let a := bits c 27 16
  if vf < 256 ∧ bit c 0 ∧ has s.ctxs a ∧ (s.ctx a).depth = 1 then some a else none

/-- The host port is up: the boot has brought it up, and its link has a healthy lane (R414, R418, R421). -/
def State.hostLink (s : State) : Bool := s.hostUp && s.linkUp 2

/-- A launch that the host writes into a queue (R41, R235, R397, R415). -/
def State.hostLaunch (s : State) (a q : Nat) (rec arg : Word) : State :=
  if rec.toNat % 64 ≠ 0 then s
  else if 256 ≤ (s.ctx a).inQueue q then { s with aer := s.aer + 1 }
  else if s.resetting a then s
  else
    match s.readLaunch ⟨a, 0, true⟩ rec, (s.ctx a).freeEntry with
    | .ok (r, e, ms), some n => ((s.countLaunch ⟨a, 0, true⟩ rec).enterLaunch a n q r e ms arg true none).1
    | _, _ => s.countLaunch ⟨a, 0, true⟩ rec

/-- HOST_QUEUE_WRITE (R415): an unbound function ignores every write. -/
def execHostQueueWrite (vf q : Nat) (rec arg : Word) (s : State) : Host.Outcome State Fault Refusal :=
  .next (match s.boundTo vf with
    | none => s
    | some a => if s.hostLink ∧ q < 16 then s.hostLaunch a q rec arg else s)

/-- The event at a slot of a mailbox ring. -/
def Vf.slot (v : Vf) (i : Nat) : Option Event :=
  let back := (v.tail + 15 - i) % 16
  if v.tail = 0 ∨ v.ring.length ≤ back then none else v.ring[v.ring.length - 1 - back]?

/-- What the host reads in the window of a virtual function (R415): 8 bytes. -/
def State.barWord (s : State) (vf off : Nat) : Word :=
  match s.boundTo vf with
  | none => 0
  | some a =>
    let v := get Vf.new s.vfs vf
    if 0x1000 ≤ off ∧ off < 0x1200 then
      match v.slot ((off - 0x1000) / 32) with
      | none => 0
      | some e => word (fromBytes ((e.bytes.drop ((off - 0x1000) % 32 / 8 * 8)).take 8))
    else if off = 0x1200 then word v.tail
    else if off = 0x1208 then word v.head
    else if off = 0x2000 then s.ctxStat a 0
    else 0

/-- The host reads the window. -/
def State.barRead (s : State) (vf off : Nat) : State :=
  if s.hostLink then { s with replies := toBytes 8 (s.barWord vf off).toNat :: s.replies } else s

/-- The host writes the window outside its queues: the mailbox head alone is writable (R415). -/
def State.barWrite (s : State) (vf off : Nat) (v : Word) : State :=
  if s.hostLink ∧ (s.boundTo vf).isSome ∧ off = 0x1208 then
    { s with vfs := put s.vfs vf { get Vf.new s.vfs vf with head := v.toNat } }
  else s

/-- What an agent outside the module may ask of a home: loads, stores, and the atomic set (R414, R417). -/
def AccOp.outer : AccOp → Bool
  | .load => true
  | .store _ => true
  | .atom _ _ _ => true
  | _ => false

/-- An access of the host, a CXL device or a peer module enters, at .sy (R116, R414, R417). It names a machine address of
memory within one 16-byte unit (log 78). -/
def State.enter (s : State) (o : Owner) (pa size : Nat) (op : AccOp) : State :=
  let up := match o with
    | .host => s.hostLink
    | .device => bit (Config.feat s.part) 3 && s.linksUp 0 2
    | .peer n => n != s.peer && s.linksUp 11 16
    | _ => false
  let size := match op with
    | .store bs => bs.length
    | .atom _ _ _ => 8
    | _ => size
  if !up ∨ !op.outer ∨ size = 0 ∨ 16 < pa % 16 + size then s
  else if op.isLoad ∧ op ≠ .load ∧ pa % 8 ≠ 0 then s
  else
    match s.kindOf pa with
    | none => s
    | some .csr => s
    | some .peer => s
    | some _ => s.issueAcc { s.newAcc o 0 1 0 (s.homeOf pa 0) (word pa) pa size op with sco := 6 }

/-- A function level reset waits: a trap entry of the subtree drains (R388), or a context instruction on it is in progress
(R366). -/
def State.flrWaits (s : State) (a : Nat) : Bool := s.trapsDrain a || (s.ctx a).line.any s.inLine

/-- FUNCTION_LEVEL_RESET (R364, R414): a `ctxreset` without RELEASE, in its two halves; the binding stays. -/
def execFunctionLevelReset (vf : Nat) (s : State) : Host.Outcome State Fault Refusal :=
  .next (match s.boundTo vf with
    | none => s
    | some a =>
      if s.flrWaits a then s
      else
        let s := if s.resetting a then s else s.resetBegin a
        if s.resetOwes a then s else s.resetEnd 0 a false)

/-- The context of the virtual function that asks, 0 for the physical function. -/
def State.asker (s : State) (vf : Option Nat) : Nat :=
  match vf with
  | none => 0
  | some v => (s.boundTo v).getD 0

/-- The first 184 bytes of an attestation report (R423). -/
def State.report (s : State) (asid : Nat) (nonce : List Byte) : List Byte :=
  [0x55, 0x41, 0x54, 0x54, 0x00, 0x01, 0x00, 0x00] ++ toBytes 8 s.now.toNat ++ (nonce ++ List.replicate 32 0).take 32 ++
    s.digest ++ s.cfgDigest ++ toBytes 8 asid

/-- ATTESTATION_REQUEST (R423), once the firmware has its identity key: the signature's bytes and length are not stated. -/
def execAttestationRequest (vf : Option Nat) (nonce : List Byte) (s : State) : Host.Outcome State Fault Refusal :=
  .next (if s.identity = [] then s
    else
      let n := Config.freeNat s.free % 1281
      let body := s.report (s.asker vf) nonce
      let sig := (List.range n).map (Config.signByte body s.free)
      { s with replies := (body ++ toBytes 8 n ++ sig) :: s.replies, free := s.free + 1 })

/-- UNSUPPORTED_REQUEST (R414): completed with Unsupported Request. -/
def execUnsupportedRequest (kind : HostRequest) (s : State) : Host.Outcome State Fault Refusal :=
  .next { s with unsupported := s.unsupported ++ [kind] }

/-! ### Links, power, time and memory -/

/-- The width that a link trains at: the widest that its healthy lanes allow (R418). -/
def Link.trained (l : Link) : Nat := ([16, 8, 4, 2, 1].find? fun w => decide (w ≤ l.width)).getD 0

/-- LINK_LANE_FAILURE (R418): one lane fewer is healthy; without one the link is down. -/
def execLinkLaneFailure (link : Nat) (s : State) : Host.Outcome State Fault Refusal :=
  .next (if link < 27 then
    let l := get (Link.new link) s.links link
    { s with links := put s.links link { l with width := l.width - 1 } }
  else s)

/-- MHZ of PWRSTAT (R413). -/
def State.mhz (s : State) : Nat := bits s.pwrstat 15 0

/-- POWER_LIMIT (R424): 50 MHz lower, down to 500, and LIMIT is set. -/
def execPowerLimit (s : State) : Host.Outcome State Fault Refusal :=
  .next (if 500 < s.mhz then { s with pwrstat := word (max 500 (s.mhz - 50)) ||| 0x10000 } else s)

/-- A thread still stands in a slot, or is on its way to one. -/
def State.someResident (s : State) : Bool := s.threads.any fun e => match e.2.place with
  | .slot _ => true
  | .moving _ => true
  | _ => false

/-- Every context stops, and each thread that has drained is saved (R369, R424), but for the row handlers of an `mdrain` that is
still waited for, which run to their end (R204). -/
def State.stopAll (s : State) : State :=
  let s := forEach (fun (e : Nat × Ctx) s =>
    if e.2.state = .running ∨ e.2.state = .new then s.markStopped e.1 else s) s.ctxs s
  let q : State := { s with inputs := .event .coolingFailure :: s.inputs }
  forEach (fun (e : Nat × Thread) s =>
    if s.savable e.1 ∧ (s.thread e.1).inSlot ∧ !q.handlesSaved e.2.work then s.saveBlock e.1 else s) s.threads s

/-- COOLING_FAILURE (R424) at the lowest clock: every context stops as by `ctxstop`, which waits for each thread to drain, and
then a SIGNAL goes to the host mailbox. -/
def execCoolingFailure (s : State) : Host.Outcome State Fault Refusal :=
  .next (if 500 < s.mhz then s
    else
      let s := s.stopAll
      if s.someResident then s
      else
        let e : Event := ⟨3, 0, false, false, 0, 0, 0, word (Config.freeNat s.free), 0, s.now, none⟩
        let s : State := { s with free := s.free + 1 }
        if (get Vf.new s.vfs hostMailbox).room then s.postMailbox hostMailbox e else s)

/-- NOW_FORWARD_STEP (R419): only when the module lags by more than 1 ms. -/
def execNowForwardStep (ns : Nat) (s : State) : Host.Outcome State Fault Refusal :=
  .next (if 1000000 < ns then { s with now := s.now + word ns } else s)

/-- UNCORRECTABLE_MEMORY_DATA (R387): the 16-byte unit at an address of memory. -/
def execUncorrectableMemoryData (pa : Nat) (s : State) : Host.Outcome State Fault Refusal :=
  .next (match s.kindOf pa with
    | none => s
    | some .csr => s
    | some .peer => s
    | some _ => if s.poisoned.contains (pa / 16) then s else { s with poisoned := pa / 16 :: s.poisoned })

/-! ### Bring-up (R421, R422) -/

/-- The public key of the identity key pair: 1,793 bytes, the length of a Falcon-1024 key (log 79). -/
def identityKey : List Byte := (List.range 1793).map Config.identityByte

/-- What a module reset leaves of a state: memory, links and peers as they stand, the frames that homes have retired (R384), and
what is the model's own. -/
def State.afterReset (s : State) : State :=
  { State.reset with
    part := s.part, mem := s.mem, empty := s.empty, poisoned := s.poisoned, behind := s.behind, badFrames := s.badFrames,
    retired := s.retired,
    links := s.links, answers := s.answers, ctxs := [], inputs := s.inputs, sched := s.sched, ahead := s.ahead, bursts := s.bursts,
    next := s.next, free := s.free + 1 }

/-- The frames of the sinter pool: HBM frames of the record's list that are not retired (R383, R418). -/
def State.poolFrames (s : State) (r : BootRecord) : List Nat :=
  (r.sinter.eraseDups).filter fun f => !(s.retired ++ r.retired).contains f && s.kindOf (f * 0x10000) == some .hbm

/-- One initial grant of a virtual function's context (R353, R422): as `ctxgrant` makes it. -/
def State.bootGrant (s : State) (vf : Nat) (bs : List Byte) : State :=
  match s.boundTo vf, itemOf bs with
  | some a, some i => if s.grantResult 0 a i = 0 then s.applyGrant 0 a i else s
  | _, _ => s

/-- The eight frames of a context block that the firmware supplies for a context: HBM frames that no block has and no pool
holds (R352). -/
def State.bootBlock (s : State) (r : BootRecord) (a : Nat) : Option (List Nat) :=
  match r.blocks.find? fun b => b.1 == a with
  | none => none
  | some b =>
    let fs := (List.range 8).map (b.2 + ·)
    if fs.all fun f => s.kindOf (f * 0x10000) == some .hbm && !s.pool.contains f && !(s.retired ++ r.retired).contains f &&
        !s.ctxs.any fun e => e.2.block.contains f then some fs else none

/-- The depth-1 contexts that virtual functions are bound to, each with its block (R352). -/
def State.bootContexts (s : State) (r : BootRecord) : State :=
  forEach (fun (v : Nat × Word) s =>
    let a := bits v.2 27 16
    if a = 0 ∨ !bit v.2 0 ∨ has s.ctxs a then s
    else
      match s.bootBlock r a with
      | none => s
      | some fs => { s with ctxs := put s.ctxs a (Ctx.new 1 0 fs) }) r.vf s

/-- The root as the record sets it up (R421 step 6). -/
def bootRoot (p : Part) (r : BootRecord) : Ctx :=
  (((Ctx.root p).setCr 0x120 r.ceqbase).setCr 0x100 r.tvec).setCr 0x118 r.ptroot

/-- The firmware goes on as the root's supervisor (R421 step 7): on a control core, log 1. -/
def bootThread (entry : Word) : Thread :=
  { Thread.new with cc := true, place := .slot 0, tstat := 1, pc := entry }

/-- Steps 5 to 7 of the boot. -/
def State.bootWith (s : State) (r : BootRecord) : State :=
  let pool := s.poolFrames r
  let s := forEach (fun f s => s.scrub (f * 0x10000) 0x10000) pool s
  let s : State := { s with
    peer := r.peer % 1024, domain := r.domain, pool := pool, retired := (s.retired ++ r.retired).eraseDups, now := r.now,
    powerLimit := min r.power 3600, ctxs := [(0, bootRoot s.part r)],
    cxlwin := forEach (fun (w : Nat × Word) m => if w.1 < 16 then put m w.1 (cxlwinOf w.2) else m) r.cxl [] }
  let s := s.bootContexts r
  let s := forEach (fun (v : Nat × Word) s =>
    if v.1 < 256 then { s with vfs := put s.vfs v.1 { Vf.new with ctl := s.vfctlOf v.2 } } else s) r.vf s
  let s := forEach (fun (g : Nat × List Byte) s => s.bootGrant g.1 g.2) r.grants s
  { s.startThread (bootThread r.entry) with hostUp := true, booted := true }

/-- BRING_UP (R421): module reset. An image that fails is signalled to the board management controller; the firmware derives
its key pair; a record that fails leaves a module that serves attestation alone; a link or memory that does not train stops the
sequence there. -/
def execBringUp (r : BootRecord) (s : State) : Host.Outcome State Fault Refusal :=
  let z := s.afterReset
  .next (if !Config.imageSigned r.image then { z with bootFail := true }
    else
      let z : State := { z with digest := digestOf r.image, cfgDigest := digestOf r.record, identity := identityKey }
      if Config.recordSigned r.image r.record ∧ r.trained then z.bootWith r else z)

end Sys2Proof.Machine
end

