-- ==== Sys2Proof/Machine/Dispatch.lean ====
section
/-! DEFINITION. The one dispatch of an instruction to its meaning: native functions, Tephra bytecodes, events. -/

namespace Sys2Proof.Machine

def exec (i : Instr) (s : State) : Host.Outcome State Fault Refusal :=
  match i with
  | .add h d a b m => Sys2Proof.Machine.execAdd h d a b m s
  | .sub h d a b m => Sys2Proof.Machine.execSub h d a b m s
  | .mul h d a b m => Sys2Proof.Machine.execMul h d a b m s
  | .mulh h d a b m => Sys2Proof.Machine.execMulh h d a b m s
  | .div h d a b m => Sys2Proof.Machine.execDiv h d a b m s
  | .rem h d a b m => Sys2Proof.Machine.execRem h d a b m s
  | .and h d a b m => Sys2Proof.Machine.execAnd h d a b m s
  | .or h d a b m => Sys2Proof.Machine.execOr h d a b m s
  | .xor h d a b m => Sys2Proof.Machine.execXor h d a b m s
  | .andn h d a b m => Sys2Proof.Machine.execAndn h d a b m s
  | .shl h d a b m => Sys2Proof.Machine.execShl h d a b m s
  | .shr h d a b m => Sys2Proof.Machine.execShr h d a b m s
  | .sra h d a b m => Sys2Proof.Machine.execSra h d a b m s
  | .rot h d a b m => Sys2Proof.Machine.execRot h d a b m s
  | .min h d a b m => Sys2Proof.Machine.execMin h d a b m s
  | .max h d a b m => Sys2Proof.Machine.execMax h d a b m s
  | .clz h d a m => Sys2Proof.Machine.execClz h d a m s
  | .ctz h d a m => Sys2Proof.Machine.execCtz h d a m s
  | .popc h d a m => Sys2Proof.Machine.execPopc h d a m s
  | .bswap h d a m => Sys2Proof.Machine.execBswap h d a m s
  | .sel h d a b m => Sys2Proof.Machine.execSel h d a b m s
  | .mov h d a m => Sys2Proof.Machine.execMov h d a m s
  | .abs h d a m => Sys2Proof.Machine.execAbs h d a m s
  | .ext h d a m => Sys2Proof.Machine.execExt h d a m s
  | .ins h d a m => Sys2Proof.Machine.execIns h d a m s
  | .fadd h d a b m => Sys2Proof.Machine.execFadd h d a b m s
  | .fsub h d a b m => Sys2Proof.Machine.execFsub h d a b m s
  | .fmul h d a b m => Sys2Proof.Machine.execFmul h d a b m s
  | .ffma h d a b m => Sys2Proof.Machine.execFfma h d a b m s
  | .fdiv h d a b m => Sys2Proof.Machine.execFdiv h d a b m s
  | .fmin h d a b m => Sys2Proof.Machine.execFmin h d a b m s
  | .fmax h d a b m => Sys2Proof.Machine.execFmax h d a b m s
  | .fcvt h d a m => Sys2Proof.Machine.execFcvt h d a m s
  | .fsqrt h d a m => Sys2Proof.Machine.execFsqrt h d a m s
  | .addi h d a imm => Sys2Proof.Machine.execAddi h d a imm s
  | .andi h d a imm => Sys2Proof.Machine.execAndi h d a imm s
  | .ori h d a imm => Sys2Proof.Machine.execOri h d a imm s
  | .xori h d a imm => Sys2Proof.Machine.execXori h d a imm s
  | .shli h d a imm => Sys2Proof.Machine.execShli h d a imm s
  | .shri h d a imm => Sys2Proof.Machine.execShri h d a imm s
  | .srai h d a imm => Sys2Proof.Machine.execSrai h d a imm s
  | .movi h d imm => Sys2Proof.Machine.execMovi h d imm s
  | .movh h d imm => Sys2Proof.Machine.execMovh h d imm s
  | .muli h d a imm => Sys2Proof.Machine.execMuli h d a imm s
  | .cmp h cond pd a b => Sys2Proof.Machine.execCmp h cond pd a b s
  | .cmpi h cond pd a imm => Sys2Proof.Machine.execCmpi h cond pd a imm s
  | .pand h pd pa pb => Sys2Proof.Machine.execPand h pd pa pb s
  | .por h pd pa pb => Sys2Proof.Machine.execPor h pd pa pb s
  | .pxor h pd pa pb => Sys2Proof.Machine.execPxor h pd pa pb s
  | .pnot h pd pa => Sys2Proof.Machine.execPnot h pd pa s
  | .pmov h pd pa => Sys2Proof.Machine.execPmov h pd pa s
  | .fcmp h cond pd a b => Sys2Proof.Machine.execFcmp h cond pd a b s
  | .br h a kind off => Sys2Proof.Machine.execBr h a kind off s
  | .jmp h a kind off => Sys2Proof.Machine.execJmp h a kind off s
  | .call h kind off => Sys2Proof.Machine.execCall h kind off s
  | .callr h a kind off => Sys2Proof.Machine.execCallr h a kind off s
  | .ret h kind => Sys2Proof.Machine.execRet h kind s
  | .loop h a kind off => Sys2Proof.Machine.execLoop h a kind off s
  | .trap h kind code => Sys2Proof.Machine.execTrap h kind code s
  | .gatedServiceCall h kind code => Sys2Proof.Machine.execGatedServiceCall h kind code s
  | .brk h kind code => Sys2Proof.Machine.execBrk h kind code s
  | .nop h kind => Sys2Proof.Machine.execNop h kind s
  | .exit h kind => Sys2Proof.Machine.execExit h kind s
  | .uret h kind => Sys2Proof.Machine.execUret h kind s
  | .ld h d a m => Sys2Proof.Machine.execLd h d a m s
  | .st h d a m => Sys2Proof.Machine.execSt h d a m s
  | .pf h a m => Sys2Proof.Machine.execPf h a m s
  | .fence h kinds m => Sys2Proof.Machine.execFence h kinds m s
  | .ifence h m => Sys2Proof.Machine.execIfence h m s
  | .icsync h m => Sys2Proof.Machine.execIcsync h m s
  | .atom h d a b m => Sys2Proof.Machine.execAtom h d a b m s
  | .ldfe h d a m => Sys2Proof.Machine.execLdfe h d a m s
  | .stfe h a b m => Sys2Proof.Machine.execStfe h a b m s
  | .fset h d a m => Sys2Proof.Machine.execFset h d a m s
  | .fget h d a m => Sys2Proof.Machine.execFget h d a m s
  | .waita h d a b m => Sys2Proof.Machine.execWaita h d a b m s
  | .mon h d a m => Sys2Proof.Machine.execMon h d a m s
  | .monrel h a b m => Sys2Proof.Machine.execMonrel h a b m s
  | .time h d m => Sys2Proof.Machine.execTime h d m s
  | .sleep h d a m => Sys2Proof.Machine.execSleep h d a m s
  | .yield h m => Sys2Proof.Machine.execYield h m s
  | .vadd h vd va vb r m => Sys2Proof.Machine.execVadd h vd va vb r m s
  | .vsub h vd va vb r m => Sys2Proof.Machine.execVsub h vd va vb r m s
  | .vmul h vd va vb r m => Sys2Proof.Machine.execVmul h vd va vb r m s
  | .vfma h vd va vb vc r m => Sys2Proof.Machine.execVfma h vd va vb vc r m s
  | .vmin h vd va vb r m => Sys2Proof.Machine.execVmin h vd va vb r m s
  | .vmax h vd va vb r m => Sys2Proof.Machine.execVmax h vd va vb r m s
  | .vabs h vd va m => Sys2Proof.Machine.execVabs h vd va m s
  | .vneg h vd va m => Sys2Proof.Machine.execVneg h vd va m s
  | .vexp2 h vd va m => Sys2Proof.Machine.execVexp2 h vd va m s
  | .vlog2 h vd va m => Sys2Proof.Machine.execVlog2 h vd va m s
  | .vrcp h vd va m => Sys2Proof.Machine.execVrcp h vd va m s
  | .vrsq h vd va m => Sys2Proof.Machine.execVrsq h vd va m s
  | .vand h vd va vb r m => Sys2Proof.Machine.execVand h vd va vb r m s
  | .vor h vd va vb r m => Sys2Proof.Machine.execVor h vd va vb r m s
  | .vxor h vd va vb r m => Sys2Proof.Machine.execVxor h vd va vb r m s
  | .vsh h vd va vb r m => Sys2Proof.Machine.execVsh h vd va vb r m s
  | .vcmp h vd va vb r m => Sys2Proof.Machine.execVcmp h vd va vb r m s
  | .vsel h vd va vb vc r m => Sys2Proof.Machine.execVsel h vd va vb vc r m s
  | .vred h va r m => Sys2Proof.Machine.execVred h va r m s
  | .vbcast h vd r m => Sys2Proof.Machine.execVbcast h vd r m s
  | .vperm h vd va vb r m => Sys2Proof.Machine.execVperm h vd va vb r m s
  | .vcvt h vd va r m => Sys2Proof.Machine.execVcvt h vd va r m s
  | .vscale h vd va vb r m => Sys2Proof.Machine.execVscale h vd va vb r m s
  | .vmov h vd va m => Sys2Proof.Machine.execVmov h vd va m s
  | .setshape h d a b => Sys2Proof.Machine.execSetshape h d a b s
  | .vld h vd r m => Sys2Proof.Machine.execVld h vd r m s
  | .vst h vd r m => Sys2Proof.Machine.execVst h vd r m s
  | .vgather h vd va r m => Sys2Proof.Machine.execVgather h vd va r m s
  | .vscatter h vd va r m => Sys2Proof.Machine.execVscatter h vd va r m s
  | .vact h d a b => Sys2Proof.Machine.execVact h d a b s
  | .oclaim h s1 s2 m => Sys2Proof.Machine.execOclaim h s1 s2 m s
  | .orel h s1 s2 m => Sys2Proof.Machine.execOrel h s1 s2 m s
  | .tld h oa s1 s2 fmt m => Sys2Proof.Machine.execTld h oa s1 s2 fmt m s
  | .tfill h oa s1 s2 z fmt m => Sys2Proof.Machine.execTfill h oa s1 s2 z fmt m s
  | .mzero h ta m => Sys2Proof.Machine.execMzero h ta m s
  | .manch h ta s1 m => Sys2Proof.Machine.execManch h ta s1 m s
  | .mma h ta oa ob m => Sys2Proof.Machine.execMma h ta oa ob m s
  | .mdrain h ta s1 s2 m => Sys2Proof.Machine.execMdrain h ta s1 s2 m s
  | .rowout h oa s1 s2 fmt m => Sys2Proof.Machine.execRowout h oa s1 s2 fmt m s
  | .rowend h m => Sys2Proof.Machine.execRowend h m s
  | .mstat h ta s1 s2 m => Sys2Proof.Machine.execMstat h ta s1 s2 m s
  | .sld h s1 z m => Sys2Proof.Machine.execSld h s1 z m s
  | .sst h s1 z m => Sys2Proof.Machine.execSst h s1 z m s
  | .sadd h s1 z m => Sys2Proof.Machine.execSadd h s1 z m s
  | .smax h s1 z m => Sys2Proof.Machine.execSmax h s1 z m s
  | .smin h s1 z m => Sys2Proof.Machine.execSmin h s1 z m s
  | .sreblk h s1 z m => Sys2Proof.Machine.execSreblk h s1 z m s
  | .smov h oa z m => Sys2Proof.Machine.execSmov h oa z m s
  | .sbind h oa s1 z m => Sys2Proof.Machine.execSbind h oa s1 z m s
  | .squery h oa s2 m => Sys2Proof.Machine.execSquery h oa s2 m s
  | .sfree h z m => Sys2Proof.Machine.execSfree h z m s
  | .sset h s1 z m => Sys2Proof.Machine.execSset h s1 z m s
  | .fork h a b res => Sys2Proof.Machine.execFork h a b res s
  | .tend h res => Sys2Proof.Machine.execTend h res s
  | .joinw h a res => Sys2Proof.Machine.execJoinw h a res s
  | .barr h d a res => Sys2Proof.Machine.execBarr h d a res s
  | .bwait h a res => Sys2Proof.Machine.execBwait h a res s
  | .bmiss h d a b res => Sys2Proof.Machine.execBmiss h d a b res s
  | .bcfg h a b res => Sys2Proof.Machine.execBcfg h a b res s
  | .migrate h a res => Sys2Proof.Machine.execMigrate h a res s
  | .nomad h res => Sys2Proof.Machine.execNomad h res s
  | .homeq h d a res => Sys2Proof.Machine.execHomeq h d a res s
  | .xfer h a b m => Sys2Proof.Machine.execXfer h a b m s
  | .shadow h d a b m => Sys2Proof.Machine.execShadow h d a b m s
  | .publish h d a m => Sys2Proof.Machine.execPublish h d a m s
  | .npost h a m => Sys2Proof.Machine.execNpost h a m s
  | .nrecv h a m => Sys2Proof.Machine.execNrecv h a m s
  | .launch h d a b m => Sys2Proof.Machine.execLaunch h d a b m s
  | .lwait h d a m => Sys2Proof.Machine.execLwait h d a m s
  | .lstat h d a m => Sys2Proof.Machine.execLstat h d a m s
  | .cmsg h d a b m => Sys2Proof.Machine.execCmsg h d a b m s
  | .mrecv h d a m => Sys2Proof.Machine.execMrecv h d a m s
  | .stepcfg h d a m => Sys2Proof.Machine.execStepcfg h d a m s
  | .stepend h d m => Sys2Proof.Machine.execStepend h d m s
  | .ldstep h d a b m => Sys2Proof.Machine.execLdstep h d a b m s
  | .stepaddr h d b m => Sys2Proof.Machine.execStepaddr h d b m s
  | .stepq h d a m => Sys2Proof.Machine.execStepq h d a m s
  | .cut h d a b m => Sys2Proof.Machine.execCut h d a b m s
  | .mfcr h d crn m => Sys2Proof.Machine.execMfcr h d crn m s
  | .mtcr h d a crn m => Sys2Proof.Machine.execMtcr h d a crn m s
  | .eret h m => Sys2Proof.Machine.execEret h m s
  | .tsave h d a b m => Sys2Proof.Machine.execTsave h d a b m s
  | .tload h d a b m => Sys2Proof.Machine.execTload h d a b m s
  | .tswap h d a b m => Sys2Proof.Machine.execTswap h d a b m s
  | .repart h d a m => Sys2Proof.Machine.execRepart h d a m s
  | .tlbinv h d a b m => Sys2Proof.Machine.execTlbinv h d a b m s
  | .cacheop h d a b m => Sys2Proof.Machine.execCacheop h d a b m s
  | .sigpost h d a b m => Sys2Proof.Machine.execSigpost h d a b m s
  | .ctxnew h d a => Sys2Proof.Machine.execCtxnew h d a s
  | .ctxgrant h d a b => Sys2Proof.Machine.execCtxgrant h d a b s
  | .ctxrevoke h d a b => Sys2Proof.Machine.execCtxrevoke h d a b s
  | .ctxrun h d a => Sys2Proof.Machine.execCtxrun h d a s
  | .ctxstop h d a => Sys2Proof.Machine.execCtxstop h d a s
  | .ctxevt h d a b => Sys2Proof.Machine.execCtxevt h d a b s
  | .ctxreset h d a b => Sys2Proof.Machine.execCtxreset h d a b s
  | .ctxfree h d a => Sys2Proof.Machine.execCtxfree h d a s
  | .ctxstat h d a b => Sys2Proof.Machine.execCtxstat h d a b s
  | .tNop => Sys2Proof.Machine.execTNop s
  | .tMove a b => Sys2Proof.Machine.execTMove a b s
  | .tLoadk a k => Sys2Proof.Machine.execTLoadk a k s
  | .tLoadi a imm => Sys2Proof.Machine.execTLoadi a imm s
  | .tLoadc a b => Sys2Proof.Machine.execTLoadc a b s
  | .tGetg a b ic nm => Sys2Proof.Machine.execTGetg a b ic nm s
  | .tSetg a b ic nm => Sys2Proof.Machine.execTSetg a b ic nm s
  | .tGetattr a b c ic nm => Sys2Proof.Machine.execTGetattr a b c ic nm s
  | .tSetattr a b c ic nm => Sys2Proof.Machine.execTSetattr a b c ic nm s
  | .tGetitem a b c => Sys2Proof.Machine.execTGetitem a b c s
  | .tSetitem a b c => Sys2Proof.Machine.execTSetitem a b c s
  | .tBinop a b c ic op => Sys2Proof.Machine.execTBinop a b c ic op s
  | .tUnop a b ic op => Sys2Proof.Machine.execTUnop a b ic op s
  | .tCompare a b c ic op => Sys2Proof.Machine.execTCompare a b c ic op s
  | .tJmp off => Sys2Proof.Machine.execTJmp off s
  | .tJt a off => Sys2Proof.Machine.execTJt a off s
  | .tJf a off => Sys2Proof.Machine.execTJf a off s
  | .tCall a b ic => Sys2Proof.Machine.execTCall a b ic s
  | .tCallm a b c ic => Sys2Proof.Machine.execTCallm a b c ic s
  | .tRet a => Sys2Proof.Machine.execTRet a s
  | .tMkarr a b c => Sys2Proof.Machine.execTMkarr a b c s
  | .tMkmap a b => Sys2Proof.Machine.execTMkmap a b s
  | .tMkfunc a b c => Sys2Proof.Machine.execTMkfunc a b c s
  | .tGetcell a b => Sys2Proof.Machine.execTGetcell a b s
  | .tSetcell a b => Sys2Proof.Machine.execTSetcell a b s
  | .tForprep a off => Sys2Proof.Machine.execTForprep a off s
  | .tForloop a off => Sys2Proof.Machine.execTForloop a off s
  | .tIter a b => Sys2Proof.Machine.execTIter a b s
  | .tNext a off => Sys2Proof.Machine.execTNext a off s
  | .tRaise a => Sys2Proof.Machine.execTRaise a s
  | .tTryb a off => Sys2Proof.Machine.execTTryb a off s
  | .tTryend a => Sys2Proof.Machine.execTTryend a s
  | .tImport a b => Sys2Proof.Machine.execTImport a b s
  | .tNative a b c => Sys2Proof.Machine.execTNative a b c s
  | .tAwait a => Sys2Proof.Machine.execTAwait a s
  | .tDel a => Sys2Proof.Machine.execTDel a s
  | .tLen a b => Sys2Proof.Machine.execTLen a b s
  | .tIsinst a b c => Sys2Proof.Machine.execTIsinst a b c s
  | .tHalt a => Sys2Proof.Machine.execTHalt a s
  | .tensorPendingWake t => Sys2Proof.Machine.execTensorPendingWake t s
  | .fastPathCompletion k => Sys2Proof.Machine.execFastPathCompletion k s
  | .longResultReturn t o => Sys2Proof.Machine.execLongResultReturn t o s
  | .homeAccessPerformed k => Sys2Proof.Machine.execHomeAccessPerformed k s
  | .reservationExpiry t => Sys2Proof.Machine.execReservationExpiry t s
  | .restoredThreadPlacement t => Sys2Proof.Machine.execRestoredThreadPlacement t s
  | .sleepWake t => Sys2Proof.Machine.execSleepWake t s
  | .cxlAccessComplete k => Sys2Proof.Machine.execCxlAccessComplete k s
  | .longLat k => Sys2Proof.Machine.execLongLat k s
  | .trapEntry t => Sys2Proof.Machine.execTrapEntry t s
  | .migrationArrival t => Sys2Proof.Machine.execMigrationArrival t s
  | .inboxToMailbox c n => Sys2Proof.Machine.execInboxToMailbox c n s
  | .engineCommandAccept k => Sys2Proof.Machine.execEngineCommandAccept k s
  | .engineOperationComplete k => Sys2Proof.Machine.execEngineOperationComplete k s
  | .publishFlip k => Sys2Proof.Machine.execPublishFlip k s
  | .mmaAccumulation core => Sys2Proof.Machine.execMmaAccumulation core s
  | .mdrainReadout core tile => Sys2Proof.Machine.execMdrainReadout core tile s
  | .launchAdmit l => Sys2Proof.Machine.execLaunchAdmit l s
  | .leafStart c l n => Sys2Proof.Machine.execLeafStart c l n s
  | .launchRepartition core l => Sys2Proof.Machine.execLaunchRepartition core l s
  | .geyserPacketSend k => Sys2Proof.Machine.execGeyserPacketSend k s
  | .geyserPacketArrival k => Sys2Proof.Machine.execGeyserPacketArrival k s
  | .geyserAckArrival k => Sys2Proof.Machine.execGeyserAckArrival k s
  | .geyserRetransmitTimeout k => Sys2Proof.Machine.execGeyserRetransmitTimeout k s
  | .geyserRefusal k => Sys2Proof.Machine.execGeyserRefusal k s
  | .geyserConnectionFailure n => Sys2Proof.Machine.execGeyserConnectionFailure n s
  | .stepAdvance core => Sys2Proof.Machine.execStepAdvance core s
  | .beaconArrival k => Sys2Proof.Machine.execBeaconArrival k s
  | .stepcfgPairing core => Sys2Proof.Machine.execStepcfgPairing core s
  | .leavingBeaconArrival k => Sys2Proof.Machine.execLeavingBeaconArrival k s
  | .cutMarkerArrival k => Sys2Proof.Machine.execCutMarkerArrival k s
  | .cutHold core => Sys2Proof.Machine.execCutHold core s
  | .releaseMarkerArrival k => Sys2Proof.Machine.execReleaseMarkerArrival k s
  | .stepStall t => Sys2Proof.Machine.execStepStall t s
  | .heldEventPost c => Sys2Proof.Machine.execHeldEventPost c s
  | .counterEventDelivery k => Sys2Proof.Machine.execCounterEventDelivery k s
  | .serviceReply k r => Sys2Proof.Machine.execServiceReply k r s
  | .bfmtWrite b v => Sys2Proof.Machine.execBfmtWrite b v s
  | .stepCounterWrite n v => Sys2Proof.Machine.execStepCounterWrite n v s
  | .depcfgWrite v => Sys2Proof.Machine.execDepcfgWrite v s
  | .delegWrite v => Sys2Proof.Machine.execDelegWrite v s
  | .pcntWrite n v => Sys2Proof.Machine.execPcntWrite n v s
  | .salcfgWrite v => Sys2Proof.Machine.execSalcfgWrite v s
  | .vfctlWrite v => Sys2Proof.Machine.execVfctlWrite v s
  | .cxlwinWrite v => Sys2Proof.Machine.execCxlwinWrite v s
  | .registerWrite n v => Sys2Proof.Machine.execRegisterWrite n v s
  | .csrWindowStore off v => Sys2Proof.Machine.execCsrWindowStore off v s
  | .hostQueueWrite vf q rec arg => Sys2Proof.Machine.execHostQueueWrite vf q rec arg s
  | .functionLevelReset vf => Sys2Proof.Machine.execFunctionLevelReset vf s
  | .attestationRequest vf nonce => Sys2Proof.Machine.execAttestationRequest vf nonce s
  | .linkLaneFailure link => Sys2Proof.Machine.execLinkLaneFailure link s
  | .powerLimit => Sys2Proof.Machine.execPowerLimit s
  | .coolingFailure => Sys2Proof.Machine.execCoolingFailure s
  | .nowForwardStep ns => Sys2Proof.Machine.execNowForwardStep ns s
  | .bringUp r => Sys2Proof.Machine.execBringUp r s
  | .uncorrectableMemoryData pa => Sys2Proof.Machine.execUncorrectableMemoryData pa s
  | .unsupportedRequest kind => Sys2Proof.Machine.execUnsupportedRequest kind s

end Sys2Proof.Machine
end

