-- ==== Sys2Proof/Machine/Fetch.lean ====
section
/-! DEFINITION. Fetching the instruction of the thread that issues (R109, R110, R166), the first bytecode of a leaf
(R260), and the decode traps of words that are no instruction (R141, R283). -/

namespace Sys2Proof.Machine

/-- Bytes of a word of code: 4 in Tephra mode, else 8. -/
def Thread.codeSize (t : Thread) : Nat := if t.tephra then 4 else 8

/-- What a fetch comes to: an instruction, a never word (R131), a trap, the guard path (R260), or a wait. -/
inductive Fetched where
  | instr (s : State) (i : Instr)
  | never (s : State)
  | trap (s : State) (t : Trap)
  | guard (s : State) (site : Word)
  | wait (s : State) (p : Park)

/-- What reading one word of code comes to. -/
inductive CodeWord where
  | got (s : State) (v : Word)
  | trap (t : Trap)
  | wait (p : Park)

/-- The word of the fetch buffer at an address. -/
def Thread.buffered (t : Thread) (a : Word) : Option Word := (t.buf.find? fun b => b.1 == a).map Prod.snd

/-- The word of code at an address (R109, R166): from the buffer, else a plain read of its home, after the thread's
earlier accesses there and those that acquire (R119); its walk likewise (R377). -/
def State.codeWord (s : State) (a : Word) : CodeWord :=
  match s.th.buffered a with
  | some v => .got s v
  | none =>
    match s.walkAfter a kFetch, s.check s.who a s.th.codeSize kFetch with
    | n :: l, _ => .wait (.ids (n :: l))
    | [], .error t => .trap t
    | [], .ok t =>
      let h := s.homeOf t.pa t.attr
      match s.mustWait h t.pa s.th.codeSize with
      | some p => .wait p
      | none =>
        let s := s.touch h a t.pa s.th.codeSize
        if s.isPoisoned t.pa s.th.codeSize then .trap (.of .poison a)
        else
          let v := word (s.readNat t.pa s.th.codeSize)
          let s := s.remember s.who a kFetch t
          .got (s.setTh { s.th with buf := s.th.buf ++ [(a, v)] }) v

/-- Up to `n` further words from an address on, as long as they can be read and the buffer holds fewer than 4 besides the
word at the pc (R109). -/
def State.fetchAhead : Nat → Word → State → State
  | 0, _, s => s
  | n + 1, a, s =>
    if 5 ≤ s.th.buf.length then s
    else
      match s.codeWord a with
      | .got q _ => State.fetchAhead n (a + word s.th.codeSize) q
      | _ => s

/-- The buffer keeps the word at the pc and the four that follow it (R109). -/
def State.trimBuf (s : State) : State :=
  s.setTh { s.th with buf := s.th.buf.filter fun b => decide ((b.1 - s.th.pc).toNat < 5 * s.th.codeSize) }

/-- Fetch and decode in native mode (R131, R141). -/
def State.fetchNative (s : State) : Fetched :=
  match s.codeWord s.th.pc with
  | .trap t => .trap s t
  | .wait p => .wait s p
  | .got q w =>
    let q := State.fetchAhead q.ahead (q.th.pc + 8) q
    if isNever w then .never q
    else
      match decodeNative w with
      | .ok i => .instr q i
      | .error _ => .trap q (.of .illegalOp w)

/-- Decode a bytecode from its words (R283): TADDR of TYPE is the word that fails. -/
def State.decodeCode (s : State) (w v : Word) : Fetched :=
  match decodeTephra (w.setWidth 32) (v.setWidth 32) with
  | .ok i => .instr s i
  | .error _ =>
    match decodeTephra (w.setWidth 32) 0 with
    | .ok _ => .trap s (.of .type v)
    | .error _ => .trap s (.of .type w)

/-- Fetch and decode in Tephra mode (R110, R282). -/
def State.fetchTephra (s : State) : Fetched :=
  match s.codeWord s.th.pc with
  | .trap t => .trap s t
  | .wait p => .wait s p
  | .got q w =>
    if icBearing (w.setWidth 32) then
      match q.codeWord (q.th.pc + 4) with
      | .trap t => .trap q t
      | .wait p => .wait q p
      | .got q v => (State.fetchAhead q.ahead (q.th.pc + 8) q).decodeCode w v
    else (State.fetchAhead q.ahead (q.th.pc + 4) q).decodeCode w 0

/-- The inline-cache slot that a bytecode names (R282). -/
def siteSlot (i : Instr) : Option Nat :=
  match i with
  | .tGetg _ _ ic _ => some ic.toNat
  | .tSetg _ _ ic _ => some ic.toNat
  | .tGetattr _ _ _ ic _ => some ic.toNat
  | .tSetattr _ _ _ ic _ => some ic.toNat
  | .tBinop _ _ _ ic _ => some ic.toNat
  | .tUnop _ _ ic _ => some ic.toNat
  | .tCompare _ _ _ ic _ => some ic.toNat
  | .tCall _ _ ic => some ic.toNat
  | .tCallm _ _ _ ic => some ic.toNat
  | _ => none

/-- The guard path of a first bytecode whose frame is too small (R260): X(22) is its inline-cache site, if it has one (R272), for
which the function object's IC word is read at once. -/
def State.guardFirst (s : State) (i : Instr) : Fetched :=
  match siteSlot i with
  | none => .guard s 0
  | some n =>
    let a := s.th.getX 29 + 32
    match s.check s.who a 8 kRead with
    | .error t => .trap s t
    | .ok t =>
      match s.mustWait (s.homeOf t.pa t.attr) t.pa 8 with
      | some p => .wait s p
      | none =>
        let s := (s.remember s.who a kRead t).touch (s.homeOf t.pa t.attr) a t.pa 8
        if s.isPoisoned t.pa 8 then .trap s (.of .poison 0) else .guard s (s.readWord t.pa + word (256 * n))

/-- A first bytecode is fetched, and enters the guard path; until then the leaf is still to begin it. -/
def State.fetchFirst (s : State) : Fetched :=
  let begun := fun (q : State) => q.setTh { q.th with startFault := 0 }
  match s.trimBuf.fetchTephra with
  | .instr q i =>
    match q.guardFirst i with
    | .guard q site => .guard (begun q) site
    | r => r
  | r => r

/-- The words that a Tephra leaf reads at its start (R260): the first that cannot be read. -/
def State.startTrap (s : State) (arg : Word) : Option Trap :=
  match s.loadWords s.who (s.startWords s.who arg) with
  | .error t => some t
  | .ok _ => none

/-- What the first bytecode of a leaf comes to before it is fetched (R260); none once that is settled. -/
def State.firstBytecode (s : State) : Option Fetched :=
  let t := s.th
  let cleared := s.setTh { t with startFault := 0 }
  if !t.tephra then none
  else
    match t.startFault with
    | 0 => none
    | 1 => some (.trap cleared (.of .type (t.getX 29 + 1)))
    | 2 => some s.fetchFirst
    | _ =>
      if !s.startReadable s.who (t.getX 27) then some (.wait s .run)
      else
        match s.startTrap (t.getX 27) with
        | some tr => some (.trap s tr)
        | none =>
          some (.wait ((s.countWords s.who (s.startWords s.who (t.getX 27))).setTh
            (s.tephraStart { t with startFault := 0 } (t.getX 27))) .run)

/-- Fetch the next instruction of the thread that issues. -/
def State.fetchNext (s : State) : Fetched :=
  match s.firstBytecode with
  | some r => r
  | none => if s.th.tephra then s.trimBuf.fetchTephra else s.trimBuf.fetchNative

end Sys2Proof.Machine
end

