-- ==== Sys2Proof/Machine/Turns.lean ====
section
/-! DEFINITION. Who may act next: the events that can come about, the issue rotation of barrel cores (R18 to R21), the
rotation of control cores (R260), and the inputs from outside. -/

namespace Sys2Proof.Machine

/-- Continue from a next state. -/
def onNext (o : Host.Outcome State Fault Refusal) (f : State → State) : Host.Outcome State Fault Refusal :=
  match o with
  | .next s => .next (f s)
  | .fault r => .fault r
  | .refused r => .refused r

/-! ### A thread's turn -/

/-- A parked thread resumes (R28): what a barrier wait kept for its switch marker is dropped. -/
def Thread.resume (t : Thread) : Thread :=
  { t with
    park := .run,
    kept := match t.park with
      | .barrier _ _ => []
      | _ => t.kept }

/-- A trap that a fetched word raises as no instruction: the word has been issued (R408). -/
def Trap.decodes (t : Trap) : Bool := t.cause == .illegalOp || t.cause == .type

/-- A thread takes its turn in cycle `c` of its core: it fetches and issues one instruction. -/
def State.issueTurn (s : State) (uid c : Nat) : Host.Outcome State Fault Refusal :=
  let s : State := { s with cur := uid }
  let s := s.setTh { s.th.resume with last := c + 1 }
  match s.fetchNext with
  | .instr q i => exec i q
  | .never q => .next (((q.advance 8).counted q.th.cc q.th.asid).finish q.th.pc false false)
  | .trap q t => .next (if t.decodes && !q.th.cc then q.trapNow t else q.raise q.cur t true)
  | .guard q site => .next (q.guardEnter q.th.pc 6 0 site)
  | .wait q p => .next (q.parkAt q.th.pc p)

/-! ### Barrel cores -/

/-- The thread of a slot, when it is eligible (R18, R222). -/
def State.eligible (s : State) (core slot : Nat) : Option Nat :=
  match s.threadAt false core slot with
  | none => none
  | some u =>
    let t := s.thread u
    let c := (s.core core).cycle
    if s.ready u && (t.last == 0 || decide (t.last + 3 ≤ c)) && (t.hold == 0 || decide (t.hold < c)) then some u else none

/-- The slots after a position, in cyclic order. -/
def slotOrder (n q : Nat) : List Nat := (List.range (n - 1)).map fun i => (q + 1 + i) % n

/-- The thread that a rotation position gives its cycle to (R19), and whether step 3 does. -/
def State.pickAt (s : State) (core n q : Nat) : Option (Nat × Bool) :=
  let l := (slotOrder n q).filterMap (s.eligible core)
  if q = 0 then l.head?.map fun u => (u, true)
  else
    match s.eligible core q with
    | some u => some (u, false)
    | none =>
      match l.find? fun u => s.slotOwner core q == some (s.thread u).asid with
      | some u => some (u, false)
      | none => (l.find? fun u => bit (s.ctx (s.thread u).asid).slotmask 32).map fun u => (u, true)

/-- What a cycle of a core goes to: the urgent slot first, which does not advance the rotation (R19, R20). -/
inductive Turn where
  | urgent (uid : Nat)
  | own (uid : Nat)
  | across (uid : Nat)
  | idle
  deriving DecidableEq, Repr

/-- The choice of a cycle. -/
def State.turnAt (s : State) (core : Nat) : Turn :=
  let k := s.core core
  match s.eligible core 0 with
  | some u => .urgent u
  | none =>
    match s.pickAt core (slotsOf k.mode) k.q with
    | some (u, false) => .own u
    | some (u, true) => .across u
    | none => .idle

/-- Entries of run queues that may take a slot from a parked thread do so (R31), and empty slots are filled (R30). -/
def State.serveCore (s : State) (core : Nat) : State :=
  let s := forEach (fun (e : Nat × Thread) s =>
    if !e.2.cc && e.2.place == .queue core && s.woken e.1 && s.runs e.2.asid then s.displace e.1 else s) s.threads s
  s.fillCore core

/-- Every parked thread-cycle of a core is counted (R408). -/
def State.countParked (s : State) (core : Nat) : State :=
  forEach (fun (e : Nat × Thread) s =>
    if !e.2.cc && e.2.place == .slot core && e.2.park != .run && !s.woken e.1 then s.count e.2.asid 0x003 else s) s.threads s

/-- Reservations of a core's threads grow a cycle older (R219). -/
def State.ageResv (s : State) (cc : Bool) (core : Nat) : State :=
  { s with resv := s.resv.map fun r => match r.owner with
      | .thread u => if (s.thread u).cc == cc && (s.thread u).core == core then { r with age := r.age + 1 } else r
      | _ => r }

/-- Of two writes of a cycle to one shared register, that of the higher-numbered slot remains (R45): results of slots above the
one that issued stand. -/
def Core.settleShared (k : Core) (slot : Nat) : Core :=
  forEach (fun (e : Nat × Nat × Word × Word) k =>
    if slot < e.2.1 && k.getY e.1 != e.2.2.1 then Core.setY k e.1 e.2.2.1 else k) k.yNow k

/-- The end of a cycle of a core: its cycle count, the rotation unless the urgent slot took the cycle, and NOW. -/
def State.tick (s : State) (core : Nat) (urgent : Bool) : State :=
  let s := s.ageResv false core
  State.onCore { s with now := s.now + 1 } core fun k => { k with
    cycle := k.cycle + 1, q := if urgent then k.q else (k.q + 1) % slotsOf k.mode, yNow := [] }

/-- The thread of a slot takes the cycle of its core. -/
def State.slotTurn (s : State) (core uid : Nat) (urgent : Bool) : Host.Outcome State Fault Refusal :=
  onNext (s.issueTurn uid (s.core core).cycle) fun q =>
    (State.onCore q core (Core.settleShared · (s.thread uid).slot)).tick core urgent

/-- A cycle of a barrel core (R18 to R21). -/
def State.coreCycle (s : State) (core : Nat) : Host.Outcome State Fault Refusal :=
  let s := (s.serveCore core).countParked core
  match s.turnAt core with
  | .urgent u => s.slotTurn core u true
  | .own u => s.slotTurn core u false
  | .across u => (s.count (s.thread u).asid 0x002).slotTurn core u false
  | .idle => .next (s.tick core false)

/-! ### Control cores -/

/-- The next ready thread of a control core in rotation (R260) that no `yield` holds back (R222). -/
def State.controlPick (s : State) (core : Nat) : Option Nat :=
  ((List.range 4).map fun i => (get 0 s.ccTurn core + i) % 4).findSome? fun n =>
    match s.threadAt true core n with
    | none => none
    | some u =>
      if s.ready u && ((s.thread u).hold == 0 || decide ((s.thread u).hold < get 0 s.ccCycle core)) then some u else none

/-- The end of a turn of a control core. -/
def State.controlTick (s : State) (core : Nat) : State :=
  let s := s.ageResv true core
  { s with now := s.now + 1, ccCycle := put s.ccCycle core (get 0 s.ccCycle core + 1) }

/-- A turn of a control core. -/
def State.controlTurn (s : State) (core : Nat) : Host.Outcome State Fault Refusal :=
  match s.controlPick core with
  | none => .next (s.controlTick core)
  | some u =>
    onNext (State.issueTurn { s with ccTurn := put s.ccTurn core ((s.thread u).slot + 1) } u (get 0 s.ccCycle core))
      (·.controlTick core)

/-! ### Events that can come about -/

/-- The events of the machine that come about by themselves: the rows of the table of the same names. -/
inductive Happening where
  | tensorPendingWake (t : Nat)
  | fastPathCompletion (k : Nat)
  | longResultReturn (t o : Nat)
  | homeAccessPerformed (k : Nat)
  | reservationExpiry (t : Nat)
  | restoredThreadPlacement (t : Nat)
  | sleepWake (t : Nat)
  | cxlAccessComplete (k : Nat)
  | longLat (k : Nat)
  | trapEntry (t : Nat)
  | migrationArrival (t : Nat)
  | inboxToMailbox (c n : Nat)
  | engineCommandAccept (k : Nat)
  | engineOperationComplete (k : Nat)
  | publishFlip (k : Nat)
  | mmaAccumulation (core : Nat)
  | mdrainReadout (core tile : Nat)
  | launchAdmit (l : Nat)
  | leafStart (c l n : Nat)
  | launchRepartition (core l : Nat)
  | geyserPacketSend (k : Nat)
  | geyserPacketArrival (k : Nat)
  | geyserAckArrival (k : Nat)
  | geyserRetransmitTimeout (k : Nat)
  | geyserRefusal (k : Nat)
  | stepAdvance (core : Nat)
  | beaconArrival (k : Nat)
  | stepcfgPairing (core : Nat)
  | leavingBeaconArrival (k : Nat)
  | cutMarkerArrival (k : Nat)
  | cutHold (core : Nat)
  | releaseMarkerArrival (k : Nat)
  | stepStall (t : Nat)
  | heldEventPost (c : Nat)
  | counterEventDelivery (k : Nat)
  deriving DecidableEq, Repr

/-- An event comes about: its meaning. -/
def Happening.run (e : Happening) (s : State) : Host.Outcome State Fault Refusal :=
  match e with
  | .tensorPendingWake t => execTensorPendingWake t s
  | .fastPathCompletion k => execFastPathCompletion k s
  | .longResultReturn t o => execLongResultReturn t o s
  | .homeAccessPerformed k => execHomeAccessPerformed k s
  | .reservationExpiry t => execReservationExpiry t s
  | .restoredThreadPlacement t => execRestoredThreadPlacement t s
  | .sleepWake t => execSleepWake t s
  | .cxlAccessComplete k => execCxlAccessComplete k s
  | .longLat k => execLongLat k s
  | .trapEntry t => execTrapEntry t s
  | .migrationArrival t => execMigrationArrival t s
  | .inboxToMailbox c n => execInboxToMailbox c n s
  | .engineCommandAccept k => execEngineCommandAccept k s
  | .engineOperationComplete k => execEngineOperationComplete k s
  | .publishFlip k => execPublishFlip k s
  | .mmaAccumulation core => execMmaAccumulation core s
  | .mdrainReadout core tile => execMdrainReadout core tile s
  | .launchAdmit l => execLaunchAdmit l s
  | .leafStart c l n => execLeafStart c l n s
  | .launchRepartition core l => execLaunchRepartition core l s
  | .geyserPacketSend k => execGeyserPacketSend k s
  | .geyserPacketArrival k => execGeyserPacketArrival k s
  | .geyserAckArrival k => execGeyserAckArrival k s
  | .geyserRetransmitTimeout k => execGeyserRetransmitTimeout k s
  | .geyserRefusal k => execGeyserRefusal k s
  | .stepAdvance core => execStepAdvance core s
  | .beaconArrival k => execBeaconArrival k s
  | .stepcfgPairing core => execStepcfgPairing core s
  | .leavingBeaconArrival k => execLeavingBeaconArrival k s
  | .cutMarkerArrival k => execCutMarkerArrival k s
  | .cutHold core => execCutHold core s
  | .releaseMarkerArrival k => execReleaseMarkerArrival k s
  | .stepStall t => execStepStall t s
  | .heldEventPost c => execHeldEventPost c s
  | .counterEventDelivery k => execCounterEventDelivery k s

/-- Keep a value under a condition. -/
def when (c : Bool) (i : Happening) : List Happening := if c then [i] else []

/-- Events of a thread. -/
def State.threadEvents (s : State) (t : Nat) : List Happening :=
  when (s.canTensorWake t) (.tensorPendingWake t) ++
    ((s.thread t).outst.filter fun o => s.canReturn t o.id).map (fun o => .longResultReturn t o.id) ++
    when (s.canExpire t) (.reservationExpiry t) ++ when (s.canPlace t) (.restoredThreadPlacement t) ++
    when (s.canSleepWake t) (.sleepWake t) ++ when (s.canEnterTrap t) (.trapEntry t) ++
    when (s.canArrive t) (.migrationArrival t) ++ when (s.canStall t) (.stepStall t)

/-- Events of an access. -/
def State.accEvents (s : State) (k : Nat) : List Happening :=
  when (s.canPerform k) (.homeAccessPerformed k) ++ when (s.canCxl k) (.cxlAccessComplete k) ++
    when (s.canLongLat k) (.longLat k)

/-- Events of an engine command. -/
def State.cmdEvents (s : State) (k : Nat) : List Happening :=
  when (s.canAccept k) (.engineCommandAccept k) ++ when (s.canComplete k) (.engineOperationComplete k) ++
    when (s.canFlip k) (.publishFlip k)

/-- Events of a launch of a context. -/
def State.launchEvents (s : State) (a : Nat) (l : Launch) : List Happening :=
  let k := launchKey a l.handle
  when (s.canFastComplete k) (.fastPathCompletion k) ++
    ((List.range l.leaves.length).filter fun n => (s.leafPlace a l.handle.toNat n).isSome).map
      (fun n => .leafStart a l.handle.toNat n) ++
    ((l.leaves.map (·.core)).eraseDups.filter fun c => (s.repartMode c k).isSome).map fun c => .launchRepartition c k

/-- Events of a context. -/
def State.ctxEvents (s : State) (a : Nat) : List Happening :=
  ((List.range (s.ctx a).inbox.length).filter fun n => (s.inboxTo a n).isSome).map (fun n => .inboxToMailbox a n) ++
    when (s.canPostHeld a) (.heldEventPost a) ++ (s.ctx a).launches.flatMap (s.launchEvents a)

/-- Events of a barrel core. -/
def State.coreEvents (s : State) (c : Nat) : List Happening :=
  when (s.canAccumulate c) (.mmaAccumulation c) ++
    ((List.range 8).filter fun t => s.canReadout c t).map (fun t => .mdrainReadout c t) ++
    when (s.canAdvance c) (.stepAdvance c) ++ when (s.mayPair c) (.stepcfgPairing c) ++ when (s.canHold c) (.cutHold c)

/-- The arrival of a message of an edge. -/
def BeaconMsg.event (b : BeaconMsg) : Happening :=
  match b.msg with
  | .done _ => .beaconArrival b.id
  | .leaving => .leavingBeaconArrival b.id
  | .cut _ _ _ _ => .cutMarkerArrival b.id
  | .release _ => .releaseMarkerArrival b.id

/-- The arrival of a message of the Ethernet ports. -/
def State.netEvents (s : State) (m : InFlight) : List Happening :=
  if !m.inbound then []
  else
    match m.msg with
    | .packet _ _ _ _ _ _ _ _ _ _ _ _ => when (s.canReceive m.id) (.geyserPacketArrival m.id)
    | .ack _ _ => [.geyserAckArrival m.id]
    | .refuse _ _ _ => [.geyserRefusal m.id]

/-- Every event that can come about now. -/
def State.events (s : State) : List Happening :=
  [s.threads.flatMap fun e => s.threadEvents e.1, s.accs.flatMap fun a => s.accEvents a.id,
    s.cmds.flatMap fun c => s.cmdEvents c.id, s.ctxs.flatMap fun e => s.ctxEvents e.1,
    (match s.nextLaunch with
     | some (a, h, _) => [.launchAdmit (launchKey a h)]
     | none => []),
    s.cores.flatMap fun e => s.coreEvents e.1, (List.range s.sendable.length).map fun k => .geyserPacketSend k,
    (List.range s.overdue.length).map fun k => .geyserRetransmitTimeout k, s.net.flatMap s.netEvents,
    (s.beacons.filter fun b => (s.beaconAt b.id).isSome).map BeaconMsg.event,
    s.counts.map fun c => .counterEventDelivery c.id].flatten

/-! ### Agents -/

/-- What may happen next. -/
inductive Agent where
  | event (e : Happening)
  | core (c : Nat)
  | control (c : Nat)
  | input
  /-- The next egress point of an access accepts it (R118). -/
  | port (k : Nat)
  deriving DecidableEq, Repr

/-- The barrel cores whose cycles matter: those with a thread, a reservation, a waiting entry, or tasks that a slot could take. -/
def State.liveCores (s : State) : List Nat :=
  let held : List Nat := (s.threads.filter fun e => !e.2.cc && (e.2.inSlot || s.resv.any fun r => r.owner == .thread e.1)).map
    fun e => e.2.core
  let queued : List Nat := s.ctxs.flatMap fun e => (e.2.runq.filter fun q => decide (q.1 < 512) && !q.2.isEmpty).map Prod.fst
  let tasks : List Nat := (s.cores.filter fun e => !e.2.deque.isEmpty).flatMap fun e =>
    (List.range 16).map fun i => e.1 / 16 * 16 + i
  (held ++ queued ++ tasks).eraseDups

/-- The control cores that have a ready thread, or a thread whose reservation grows older (R219). -/
def State.liveControls (s : State) : List Nat :=
  ((s.threads.filter fun e => e.2.cc && (e.2.inSlot && s.ready e.1 || s.resv.any fun r => r.owner == .thread e.1)).map
    fun e => e.2.core).eraseDups

/-- What comes from outside the module (R412 to R424): the rows of the table that stand for the platform. -/
def Instr.outside : Instr → Bool
  | .serviceReply _ _ => true
  | .hostQueueWrite _ _ _ _ => true
  | .functionLevelReset _ => true
  | .attestationRequest _ _ => true
  | .linkLaneFailure _ => true
  | .powerLimit => true
  | .coolingFailure => true
  | .nowForwardStep _ => true
  | .bringUp _ => true
  | .uncorrectableMemoryData _ => true
  | .unsupportedRequest _ => true
  | .geyserConnectionFailure _ => true
  | _ => false

/-- An input that cannot be taken yet. -/
def State.inputWaits (s : State) : Input → Bool
  | .event (.functionLevelReset vf) =>
    match s.boundTo vf with
    | some a => s.flrWaits a
    | none => false
  | .event (.hostQueueWrite vf _ rec _) =>
    match s.boundTo vf with
    | some a => s.launchHeld .host ⟨a, 0, true⟩ rec
    | none => false
  | _ => false

/-- An event that has begun and is still to end: it stands first among the inputs until it has (R364, R424). -/
def State.inputLasts (s : State) : Instr → Bool
  | .functionLevelReset vf =>
    match s.boundTo vf with
    | some a => s.resetting a
    | none => false
  | .coolingFailure => decide (s.mhz ≤ 500) && s.someResident
  | _ => false

/-- The input at the head of the list, when it can be taken. -/
def State.inputAgent (s : State) : List Agent :=
  match s.inputs with
  | [] => []
  | i :: _ => if s.inputWaits i then [] else [.input]

/-- Everything that may happen next. -/
def State.agents (s : State) : List Agent :=
  [s.events.map .event, s.liveCores.map .core, s.liveControls.map .control, s.inputAgent,
    (s.accs.filter fun a => s.canPass a.id).map fun a => .port a.id].flatten

/-- Take the first input: an event of the platform, or a message that now travels inwards. -/
def State.takeInput (s : State) : Host.Outcome State Fault Refusal :=
  match s.inputs with
  | [] => .next s
  | .event i :: r =>
    if Instr.outside i then
      onNext (exec i { s with inputs := r }) fun q => if q.inputLasts i then { q with inputs := .event i :: q.inputs } else q
    else .next { s with inputs := r }
  | .net p e m :: r => .next { s with inputs := r, net := s.net ++ [⟨s.next, true, p, e, m⟩], next := s.next + 1 }
  | .barRead vf off :: r => .next (State.barRead { s with inputs := r } vf off)
  | .barWrite vf off v :: r => .next (State.barWrite { s with inputs := r } vf off v)
  | .access o pa n op :: r => .next (State.enter { s with inputs := r } o pa n op)
  | .peers l :: r => .next { s with inputs := r, answers := l }

/-- One agent acts. -/
def State.act (s : State) (a : Agent) : Host.Outcome State Fault Refusal :=
  match a with
  | .event e => e.run s
  | .core c => s.coreCycle c
  | .control c => s.controlTurn c
  | .input => s.takeInput
  | .port k => .next (s.pass k)

/-- Which of the agents acts: `sched` says, else the only one does, else the choice is free (log 5). -/
def State.choose (s : State) (l : List Agent) : State × Option Agent :=
  match s.sched with
  | n :: r => ({ s with sched := r }, l[n % l.length]?)
  | [] =>
    match l with
    | [a] => (s, some a)
    | _ => ({ s with free := s.free + 1 }, l[Config.nextAgent s.free % l.length]?)

/-! ### What comes about at once -/

/-- A thread whose request was refused a place parks, and leaves its slot once it is at rest (R29). -/
def State.evictThread (s : State) (uid out : Nat) : State :=
  let t := s.thread uid
  if !has s.threads uid || !t.inSlot then s
  else
    let s := if t.park = .run then s.onThread uid fun t => { t with park := .own out, parkedAt := s.now } else s
    if s.atRest uid then (s.vacate uid (.block t.core)).fill t.cc t.core t.slot else s

/-- A pairing that every neighbour is ready for ends, and a core whose conditions hold begins its next step, in the first
instant in which that is so (R242, R252). -/
def State.settleStep (s : State) (core : Nat) : State :=
  let s := if s.mayPair core then s.pair core else s
  if s.canAdvance core then s.advanceStep core else s

/-- What comes about by itself before anything else acts: neighbours pair and steps begin (R242, R252), overflowed requests take
free places (R29), spilled tasks return (R36), placements end (R234), evicted threads leave their slots (R29), transfers that
have waited for others to merge with read (R231), and queue entries, launches and revocations whose writes are made end. -/
def State.settle (s : State) : State :=
  let s := forEach (fun (e : Nat × Core) s => State.settleStep s e.1) s.cores s
  let s := (if s.overflow.isEmpty then s else s.refill).refillDeques.settlePlacing
  let s := s.settleEvents.settleLaunches.settleReads.settleRevokes
  forEach (fun (a : Acc) s => match a.owner with
    | .thread u => s.evictThread u a.out
    | _ => s) s.overflow s

end Sys2Proof.Machine
end

