-- ==== Sys2Proof/Machine/Step.lean ====
section
/-! DEFINITION. One step of the module: an event, a cycle of a core, or an input; and the placing of an instruction where
the next step fetches. -/

namespace Sys2Proof.Machine

/-- One step. When nothing can happen, time passes. -/
def step (s : State) : Host.Outcome State Fault Refusal :=
  match s.agents with
  | [] => .next { s with now := s.now + 1 }
  | a :: l =>
    match s.choose (a :: l) with
    | (q, some b) => onNext (q.act b) State.settle
    | (q, none) => .next q

/-- A supervisor thread of the root on barrel core 0, which fetches at address 0 of its local window. -/
def placedNative : Thread := { Thread.new with slot := 1, place := .slot 0, tstat := 1 }

/-- A supervisor thread of the root on control core 0 in Tephra mode: code at 0x20000, frame at 0x30000, function object
at 0x40000. -/
def placedTephra : Thread :=
  { Thread.new with
    cc := true, place := .slot 0, tstat := 1, tephra := true, pc := 0x20000, x := [(28, 0x30000), (29, 0x40000)] }

/-- Bytes of code are placed at a machine address. -/
def State.placeBytes (s : State) (pa : Nat) (bs : List Byte) : State :=
  { s with mem := setBytes s.mem pa bs, poisoned := s.poisoned.filter fun u => !covered (pa / 16 * 16) 16 u }

/-- The one thread, which the next step gives its turn, a bytecode making all its accesses in it. -/
def State.placeThreadAs (s : State) (t : Thread) (a : Agent) : State :=
  let s : State := { s with threads := [(s.next, t)], next := s.next + 1, inputs := [], bursts := [0] }
  { s with sched := if s.agents = [a] then s.sched else s.agents.idxOf a :: s.sched }

/-- An instruction stored where the next step fetches (log 1): a native word in bank 0 of core 0, a bytecode in HBM
under a page table that maps 16 GiB. -/
def State.withFetchWord (s : State) (nbits w : Nat) : State :=
  if tableTephra nbits then
    let s := ((s.placeBytes 0x20000 (tableBytes nbits w)).placeBytes 0x10000 (toBytes 8 0x11001)).placeBytes 0x11000
      (toBytes 8 0xF)
    State.placeThreadAs (s.onCtx 0 fun c => { c with ptroot := 0x10001 }) placedTephra (.control 0)
  else
    let s := (s.placeBytes (scratch 0 0) (tableBytes nbits w)).onCore 0 fun k => { k with mode := 0, q := 0 }
    s.placeThreadAs placedNative (.core 0)

end Sys2Proof.Machine
end

