-- ==== Sys2Proof/Laws/Fields.lean ====
section
/-! SUPPORT. The fields of an encoded word read back: each format's parts, and the modifiers of each group. -/

namespace Sys2Proof

/-! ### Concatenated bits -/

theorem app_hi {n m : Nat} (x : BitVec n) (y : BitVec m) (k l : Nat) (h : m ≤ k) :
    (x ++ y).extractLsb' k l = x.extractLsb' (k - m) l := by
  apply BitVec.eq_of_getLsbD_eq
  intro i hi
  have : ¬ k + i < m := by omega
  have e : k + i - m = k - m + i := by omega
  simp only [BitVec.getLsbD_extractLsb', BitVec.getLsbD_append, hi, this, e, decide_true, Bool.true_and, if_false]

theorem app_lo {n m : Nat} (x : BitVec n) (y : BitVec m) (k l : Nat) (h : k + l ≤ m) :
    (x ++ y).extractLsb' k l = y.extractLsb' k l := by
  apply BitVec.eq_of_getLsbD_eq
  intro i hi
  have : k + i < m := by omega
  simp only [BitVec.getLsbD_extractLsb', BitVec.getLsbD_append, hi, this, decide_true, Bool.true_and, if_true]

theorem app_self {n m : Nat} (x : BitVec n) (y : BitVec m) : (x ++ y).extractLsb' 0 m = y :=
  (app_lo x y 0 m (by omega)).trans BitVec.extractLsb'_eq_self

theorem ext_ext {n : Nat} (x : BitVec n) (a b k l : Nat) (h : k + l ≤ b) :
    (x.extractLsb' a b).extractLsb' k l = x.extractLsb' (a + k) l := by
  apply BitVec.eq_of_getLsbD_eq
  intro i hi
  have : k + i < b := by omega
  simp only [BitVec.getLsbD_extractLsb', hi, this, decide_true, Bool.true_and, Nat.add_assoc]

theorem bit_ext {n : Nat} (x : BitVec n) (k : Nat) (b : Bool) (h : x.extractLsb' k 1 = BitVec.ofBool b) : x.getLsbD k = b := by
  have e := congrArg (fun y : BitVec 1 => y.getLsbD 0) h
  cases b <;> simpa using e


/-! ### The common fields of a word -/

theorem mkWord_sw (h : Hdr) (g : BitVec 4) (f : BitVec 6) (b : BitVec 49) : (mkWord h g f b).extractLsb' 63 1 = (BitVec.ofBool h.sw) :=
  ((app_hi (n := 15) (m := 49) ((BitVec.ofBool h.sw) ++ h.pg ++ (BitVec.ofBool h.pn) ++ g ++ f) b 63 1 (by decide)).trans
    ((app_hi (n := 9) (m := 6) ((BitVec.ofBool h.sw) ++ h.pg ++ (BitVec.ofBool h.pn) ++ g) f 14 1 (by decide)).trans
    ((app_hi (n := 5) (m := 4) ((BitVec.ofBool h.sw) ++ h.pg ++ (BitVec.ofBool h.pn)) g 8 1 (by decide)).trans
    ((app_hi (n := 4) (m := 1) ((BitVec.ofBool h.sw) ++ h.pg) (BitVec.ofBool h.pn) 4 1 (by decide)).trans
    ((app_hi (n := 1) (m := 3) ((BitVec.ofBool h.sw)) h.pg 3 1 (by decide)).trans
    BitVec.extractLsb'_eq_self)))))

theorem mkWord_pg (h : Hdr) (g : BitVec 4) (f : BitVec 6) (b : BitVec 49) : (mkWord h g f b).extractLsb' 60 3 = h.pg :=
  ((app_hi (n := 15) (m := 49) ((BitVec.ofBool h.sw) ++ h.pg ++ (BitVec.ofBool h.pn) ++ g ++ f) b 60 3 (by decide)).trans
    ((app_hi (n := 9) (m := 6) ((BitVec.ofBool h.sw) ++ h.pg ++ (BitVec.ofBool h.pn) ++ g) f 11 3 (by decide)).trans
    ((app_hi (n := 5) (m := 4) ((BitVec.ofBool h.sw) ++ h.pg ++ (BitVec.ofBool h.pn)) g 5 3 (by decide)).trans
    ((app_hi (n := 4) (m := 1) ((BitVec.ofBool h.sw) ++ h.pg) (BitVec.ofBool h.pn) 1 3 (by decide)).trans
    (app_self (n := 1) (m := 3) ((BitVec.ofBool h.sw)) h.pg)))))

theorem mkWord_pn (h : Hdr) (g : BitVec 4) (f : BitVec 6) (b : BitVec 49) : (mkWord h g f b).extractLsb' 59 1 = (BitVec.ofBool h.pn) :=
  ((app_hi (n := 15) (m := 49) ((BitVec.ofBool h.sw) ++ h.pg ++ (BitVec.ofBool h.pn) ++ g ++ f) b 59 1 (by decide)).trans
    ((app_hi (n := 9) (m := 6) ((BitVec.ofBool h.sw) ++ h.pg ++ (BitVec.ofBool h.pn) ++ g) f 10 1 (by decide)).trans
    ((app_hi (n := 5) (m := 4) ((BitVec.ofBool h.sw) ++ h.pg ++ (BitVec.ofBool h.pn)) g 4 1 (by decide)).trans
    (app_self (n := 4) (m := 1) ((BitVec.ofBool h.sw) ++ h.pg) (BitVec.ofBool h.pn)))))

theorem mkWord_grp (h : Hdr) (g : BitVec 4) (f : BitVec 6) (b : BitVec 49) : (mkWord h g f b).extractLsb' 55 4 = g :=
  ((app_hi (n := 15) (m := 49) ((BitVec.ofBool h.sw) ++ h.pg ++ (BitVec.ofBool h.pn) ++ g ++ f) b 55 4 (by decide)).trans
    ((app_hi (n := 9) (m := 6) ((BitVec.ofBool h.sw) ++ h.pg ++ (BitVec.ofBool h.pn) ++ g) f 6 4 (by decide)).trans
    (app_self (n := 5) (m := 4) ((BitVec.ofBool h.sw) ++ h.pg ++ (BitVec.ofBool h.pn)) g)))

theorem mkWord_fn (h : Hdr) (g : BitVec 4) (f : BitVec 6) (b : BitVec 49) : (mkWord h g f b).extractLsb' 49 6 = f :=
  ((app_hi (n := 15) (m := 49) ((BitVec.ofBool h.sw) ++ h.pg ++ (BitVec.ofBool h.pn) ++ g ++ f) b 49 6 (by decide)).trans
    (app_self (n := 9) (m := 6) ((BitVec.ofBool h.sw) ++ h.pg ++ (BitVec.ofBool h.pn) ++ g) f))

theorem mkWord_body (h : Hdr) (g : BitVec 4) (f : BitVec 6) (b : BitVec 49) (k l : Nat) (hk : k + l ≤ 49) : (mkWord h g f b).extractLsb' k l = b.extractLsb' k l :=
  app_lo (n := 15) (m := 49) (BitVec.ofBool h.sw ++ h.pg ++ BitVec.ofBool h.pn ++ g ++ f) b k l hk

theorem hdr_mkWord (h : Hdr) (g : BitVec 4) (f : BitVec 6) (b : BitVec 49) : hdr (mkWord h g f b) = h := by
  have e1 : (mkWord h g f b).getLsbD 63 = h.sw := bit_ext _ 63 _ (mkWord_sw h g f b)
  have e2 : (mkWord h g f b).getLsbD 59 = h.pn := bit_ext _ 59 _ (mkWord_pn h g f b)
  simp only [hdr, e1, e2, mkWord_pg]

/-- An operand field read back. -/
theorem opnd_of (w : Word) (k : Nat) (r : Opnd) (h : w.extractLsb' k 7 = r.bits) : opnd w k = r := by
  have e1 : w.extractLsb' (k + 6) 1 = BitVec.ofBool r.shared := by
    rw [← ext_ext w k 7 6 1 (by decide), h]
    exact (app_hi (n := 1) (m := 6) (BitVec.ofBool r.shared) r.n 6 1 (by decide)).trans BitVec.extractLsb'_eq_self
  have e2 : w.extractLsb' k 6 = r.n := by
    have := ext_ext w k 7 0 6 (by decide)
    rw [h] at this
    exact this.symm.trans (app_self (n := 1) (m := 6) (BitVec.ofBool r.shared) r.n)
  have e3 : w.getLsbD (k + 6) = r.shared := bit_ext _ _ _ e1
  simp only [opnd, e2, e3]

/-! ### The formats (R133) -/

theorem fmtR_d (h : Hdr) (g : BitVec 4) (f : BitVec 6) (d a b : Opnd) (m : BitVec 28) : (mkWord h g f (fmtR d a b m)).extractLsb' 42 7 = d.bits :=
  (mkWord_body h g f (fmtR d a b m) 42 7 (by decide)).trans
    ((app_hi (n := 21) (m := 28) (d.bits ++ a.bits ++ b.bits) m 42 7 (by decide)).trans
    ((app_hi (n := 14) (m := 7) (d.bits ++ a.bits) b.bits 14 7 (by decide)).trans
    ((app_hi (n := 7) (m := 7) (d.bits) a.bits 7 7 (by decide)).trans
    BitVec.extractLsb'_eq_self)))

theorem fmtR_d_opnd (h : Hdr) (g : BitVec 4) (f : BitVec 6) (d a b : Opnd) (m : BitVec 28) : opnd (mkWord h g f (fmtR d a b m)) 42 = d :=
  opnd_of _ _ _ (fmtR_d h g f d a b m)

theorem fmtR_a (h : Hdr) (g : BitVec 4) (f : BitVec 6) (d a b : Opnd) (m : BitVec 28) : (mkWord h g f (fmtR d a b m)).extractLsb' 35 7 = a.bits :=
  (mkWord_body h g f (fmtR d a b m) 35 7 (by decide)).trans
    ((app_hi (n := 21) (m := 28) (d.bits ++ a.bits ++ b.bits) m 35 7 (by decide)).trans
    ((app_hi (n := 14) (m := 7) (d.bits ++ a.bits) b.bits 7 7 (by decide)).trans
    (app_self (n := 7) (m := 7) (d.bits) a.bits)))

theorem fmtR_a_opnd (h : Hdr) (g : BitVec 4) (f : BitVec 6) (d a b : Opnd) (m : BitVec 28) : opnd (mkWord h g f (fmtR d a b m)) 35 = a :=
  opnd_of _ _ _ (fmtR_a h g f d a b m)

theorem fmtR_b (h : Hdr) (g : BitVec 4) (f : BitVec 6) (d a b : Opnd) (m : BitVec 28) : (mkWord h g f (fmtR d a b m)).extractLsb' 28 7 = b.bits :=
  (mkWord_body h g f (fmtR d a b m) 28 7 (by decide)).trans
    ((app_hi (n := 21) (m := 28) (d.bits ++ a.bits ++ b.bits) m 28 7 (by decide)).trans
    (app_self (n := 14) (m := 7) (d.bits ++ a.bits) b.bits))

theorem fmtR_b_opnd (h : Hdr) (g : BitVec 4) (f : BitVec 6) (d a b : Opnd) (m : BitVec 28) : opnd (mkWord h g f (fmtR d a b m)) 28 = b :=
  opnd_of _ _ _ (fmtR_b h g f d a b m)

theorem fmtR_m (h : Hdr) (g : BitVec 4) (f : BitVec 6) (d a b : Opnd) (m : BitVec 28) : (mkWord h g f (fmtR d a b m)).extractLsb' 0 28 = m :=
  (mkWord_body h g f (fmtR d a b m) 0 28 (by decide)).trans
    (app_self (n := 21) (m := 28) (d.bits ++ a.bits ++ b.bits) m)

theorem fmtI_d (h : Hdr) (g : BitVec 4) (f : BitVec 6) (d a : Opnd) (imm : BitVec 35) : (mkWord h g f (fmtI d a imm)).extractLsb' 42 7 = d.bits :=
  (mkWord_body h g f (fmtI d a imm) 42 7 (by decide)).trans
    ((app_hi (n := 14) (m := 35) (d.bits ++ a.bits) imm 42 7 (by decide)).trans
    ((app_hi (n := 7) (m := 7) (d.bits) a.bits 7 7 (by decide)).trans
    BitVec.extractLsb'_eq_self))

theorem fmtI_d_opnd (h : Hdr) (g : BitVec 4) (f : BitVec 6) (d a : Opnd) (imm : BitVec 35) : opnd (mkWord h g f (fmtI d a imm)) 42 = d :=
  opnd_of _ _ _ (fmtI_d h g f d a imm)

theorem fmtI_a (h : Hdr) (g : BitVec 4) (f : BitVec 6) (d a : Opnd) (imm : BitVec 35) : (mkWord h g f (fmtI d a imm)).extractLsb' 35 7 = a.bits :=
  (mkWord_body h g f (fmtI d a imm) 35 7 (by decide)).trans
    ((app_hi (n := 14) (m := 35) (d.bits ++ a.bits) imm 35 7 (by decide)).trans
    (app_self (n := 7) (m := 7) (d.bits) a.bits))

theorem fmtI_a_opnd (h : Hdr) (g : BitVec 4) (f : BitVec 6) (d a : Opnd) (imm : BitVec 35) : opnd (mkWord h g f (fmtI d a imm)) 35 = a :=
  opnd_of _ _ _ (fmtI_a h g f d a imm)

theorem fmtI_imm (h : Hdr) (g : BitVec 4) (f : BitVec 6) (d a : Opnd) (imm : BitVec 35) : (mkWord h g f (fmtI d a imm)).extractLsb' 0 35 = imm :=
  (mkWord_body h g f (fmtI d a imm) 0 35 (by decide)).trans
    (app_self (n := 14) (m := 35) (d.bits ++ a.bits) imm)

theorem fmtC_cond (h : Hdr) (g : BitVec 4) (f : BitVec 6) (cond : BitVec 4) (pd : BitVec 3) (a b : Opnd) (m : BitVec 28) : (mkWord h g f (fmtC cond pd a b m)).extractLsb' 45 4 = cond :=
  (mkWord_body h g f (fmtC cond pd a b m) 45 4 (by decide)).trans
    ((app_hi (n := 21) (m := 28) (cond ++ pd ++ a.bits ++ b.bits) m 45 4 (by decide)).trans
    ((app_hi (n := 14) (m := 7) (cond ++ pd ++ a.bits) b.bits 17 4 (by decide)).trans
    ((app_hi (n := 7) (m := 7) (cond ++ pd) a.bits 10 4 (by decide)).trans
    ((app_hi (n := 4) (m := 3) (cond) pd 3 4 (by decide)).trans
    BitVec.extractLsb'_eq_self))))

theorem fmtC_pd (h : Hdr) (g : BitVec 4) (f : BitVec 6) (cond : BitVec 4) (pd : BitVec 3) (a b : Opnd) (m : BitVec 28) : (mkWord h g f (fmtC cond pd a b m)).extractLsb' 42 3 = pd :=
  (mkWord_body h g f (fmtC cond pd a b m) 42 3 (by decide)).trans
    ((app_hi (n := 21) (m := 28) (cond ++ pd ++ a.bits ++ b.bits) m 42 3 (by decide)).trans
    ((app_hi (n := 14) (m := 7) (cond ++ pd ++ a.bits) b.bits 14 3 (by decide)).trans
    ((app_hi (n := 7) (m := 7) (cond ++ pd) a.bits 7 3 (by decide)).trans
    (app_self (n := 4) (m := 3) (cond) pd))))

theorem fmtC_a (h : Hdr) (g : BitVec 4) (f : BitVec 6) (cond : BitVec 4) (pd : BitVec 3) (a b : Opnd) (m : BitVec 28) : (mkWord h g f (fmtC cond pd a b m)).extractLsb' 35 7 = a.bits :=
  (mkWord_body h g f (fmtC cond pd a b m) 35 7 (by decide)).trans
    ((app_hi (n := 21) (m := 28) (cond ++ pd ++ a.bits ++ b.bits) m 35 7 (by decide)).trans
    ((app_hi (n := 14) (m := 7) (cond ++ pd ++ a.bits) b.bits 7 7 (by decide)).trans
    (app_self (n := 7) (m := 7) (cond ++ pd) a.bits)))

theorem fmtC_a_opnd (h : Hdr) (g : BitVec 4) (f : BitVec 6) (cond : BitVec 4) (pd : BitVec 3) (a b : Opnd) (m : BitVec 28) : opnd (mkWord h g f (fmtC cond pd a b m)) 35 = a :=
  opnd_of _ _ _ (fmtC_a h g f cond pd a b m)

theorem fmtC_b (h : Hdr) (g : BitVec 4) (f : BitVec 6) (cond : BitVec 4) (pd : BitVec 3) (a b : Opnd) (m : BitVec 28) : (mkWord h g f (fmtC cond pd a b m)).extractLsb' 28 7 = b.bits :=
  (mkWord_body h g f (fmtC cond pd a b m) 28 7 (by decide)).trans
    ((app_hi (n := 21) (m := 28) (cond ++ pd ++ a.bits ++ b.bits) m 28 7 (by decide)).trans
    (app_self (n := 14) (m := 7) (cond ++ pd ++ a.bits) b.bits))

theorem fmtC_b_opnd (h : Hdr) (g : BitVec 4) (f : BitVec 6) (cond : BitVec 4) (pd : BitVec 3) (a b : Opnd) (m : BitVec 28) : opnd (mkWord h g f (fmtC cond pd a b m)) 28 = b :=
  opnd_of _ _ _ (fmtC_b h g f cond pd a b m)

theorem fmtCI_cond (h : Hdr) (g : BitVec 4) (f : BitVec 6) (cond : BitVec 4) (pd : BitVec 3) (a : Opnd) (imm : BitVec 35) : (mkWord h g f (fmtCI cond pd a imm)).extractLsb' 45 4 = cond :=
  (mkWord_body h g f (fmtCI cond pd a imm) 45 4 (by decide)).trans
    ((app_hi (n := 14) (m := 35) (cond ++ pd ++ a.bits) imm 45 4 (by decide)).trans
    ((app_hi (n := 7) (m := 7) (cond ++ pd) a.bits 10 4 (by decide)).trans
    ((app_hi (n := 4) (m := 3) (cond) pd 3 4 (by decide)).trans
    BitVec.extractLsb'_eq_self)))

theorem fmtCI_pd (h : Hdr) (g : BitVec 4) (f : BitVec 6) (cond : BitVec 4) (pd : BitVec 3) (a : Opnd) (imm : BitVec 35) : (mkWord h g f (fmtCI cond pd a imm)).extractLsb' 42 3 = pd :=
  (mkWord_body h g f (fmtCI cond pd a imm) 42 3 (by decide)).trans
    ((app_hi (n := 14) (m := 35) (cond ++ pd ++ a.bits) imm 42 3 (by decide)).trans
    ((app_hi (n := 7) (m := 7) (cond ++ pd) a.bits 7 3 (by decide)).trans
    (app_self (n := 4) (m := 3) (cond) pd)))

theorem fmtCI_a (h : Hdr) (g : BitVec 4) (f : BitVec 6) (cond : BitVec 4) (pd : BitVec 3) (a : Opnd) (imm : BitVec 35) : (mkWord h g f (fmtCI cond pd a imm)).extractLsb' 35 7 = a.bits :=
  (mkWord_body h g f (fmtCI cond pd a imm) 35 7 (by decide)).trans
    ((app_hi (n := 14) (m := 35) (cond ++ pd ++ a.bits) imm 35 7 (by decide)).trans
    (app_self (n := 7) (m := 7) (cond ++ pd) a.bits))

theorem fmtCI_a_opnd (h : Hdr) (g : BitVec 4) (f : BitVec 6) (cond : BitVec 4) (pd : BitVec 3) (a : Opnd) (imm : BitVec 35) : opnd (mkWord h g f (fmtCI cond pd a imm)) 35 = a :=
  opnd_of _ _ _ (fmtCI_a h g f cond pd a imm)

theorem fmtCI_imm (h : Hdr) (g : BitVec 4) (f : BitVec 6) (cond : BitVec 4) (pd : BitVec 3) (a : Opnd) (imm : BitVec 35) : (mkWord h g f (fmtCI cond pd a imm)).extractLsb' 0 35 = imm :=
  (mkWord_body h g f (fmtCI cond pd a imm) 0 35 (by decide)).trans
    (app_self (n := 14) (m := 35) (cond ++ pd ++ a.bits) imm)

theorem fmtP_cond (h : Hdr) (g : BitVec 4) (f : BitVec 6) (pd : PDst) (pa pb : BitVec 3) : (mkWord h g f (fmtP pd pa pb)).extractLsb' 45 4 = pd.cond :=
  (mkWord_body h g f (fmtP pd pa pb) 45 4 (by decide)).trans
    ((app_hi (n := 21) (m := 28) (pd.cond ++ pd.p ++ (0 : BitVec 4) ++ pa ++ (0 : BitVec 4) ++ pb) (0 : BitVec 28) 45 4 (by decide)).trans
    ((app_hi (n := 18) (m := 3) (pd.cond ++ pd.p ++ (0 : BitVec 4) ++ pa ++ (0 : BitVec 4)) pb 17 4 (by decide)).trans
    ((app_hi (n := 14) (m := 4) (pd.cond ++ pd.p ++ (0 : BitVec 4) ++ pa) (0 : BitVec 4) 14 4 (by decide)).trans
    ((app_hi (n := 11) (m := 3) (pd.cond ++ pd.p ++ (0 : BitVec 4)) pa 10 4 (by decide)).trans
    ((app_hi (n := 7) (m := 4) (pd.cond ++ pd.p) (0 : BitVec 4) 7 4 (by decide)).trans
    ((app_hi (n := 4) (m := 3) pd.cond pd.p 3 4 (by decide)).trans BitVec.extractLsb'_eq_self))))))

theorem fmtP_pd (h : Hdr) (g : BitVec 4) (f : BitVec 6) (pd : PDst) (pa pb : BitVec 3) : (mkWord h g f (fmtP pd pa pb)).extractLsb' 42 3 = pd.p :=
  (mkWord_body h g f (fmtP pd pa pb) 42 3 (by decide)).trans
    ((app_hi (n := 21) (m := 28) (pd.cond ++ pd.p ++ (0 : BitVec 4) ++ pa ++ (0 : BitVec 4) ++ pb) (0 : BitVec 28) 42 3 (by decide)).trans
    ((app_hi (n := 18) (m := 3) (pd.cond ++ pd.p ++ (0 : BitVec 4) ++ pa ++ (0 : BitVec 4)) pb 14 3 (by decide)).trans
    ((app_hi (n := 14) (m := 4) (pd.cond ++ pd.p ++ (0 : BitVec 4) ++ pa) (0 : BitVec 4) 11 3 (by decide)).trans
    ((app_hi (n := 11) (m := 3) (pd.cond ++ pd.p ++ (0 : BitVec 4)) pa 7 3 (by decide)).trans
    ((app_hi (n := 7) (m := 4) (pd.cond ++ pd.p) (0 : BitVec 4) 4 3 (by decide)).trans
    (app_self (n := 4) (m := 3) pd.cond pd.p))))))

theorem fmtP_pdst (h : Hdr) (g : BitVec 4) (f : BitVec 6) (pd : PDst) (pa pb : BitVec 3) : pdst (mkWord h g f (fmtP pd pa pb)) = pd := by
  unfold pdst; rw [fmtP_cond, fmtP_pd]

theorem fmtP_pa (h : Hdr) (g : BitVec 4) (f : BitVec 6) (pd : PDst) (pa pb : BitVec 3) : (mkWord h g f (fmtP pd pa pb)).extractLsb' 35 3 = pa :=
  (mkWord_body h g f (fmtP pd pa pb) 35 3 (by decide)).trans
    ((app_hi (n := 21) (m := 28) (pd.cond ++ pd.p ++ (0 : BitVec 4) ++ pa ++ (0 : BitVec 4) ++ pb) (0 : BitVec 28) 35 3 (by decide)).trans
    ((app_hi (n := 18) (m := 3) (pd.cond ++ pd.p ++ (0 : BitVec 4) ++ pa ++ (0 : BitVec 4)) pb 7 3 (by decide)).trans
    ((app_hi (n := 14) (m := 4) (pd.cond ++ pd.p ++ (0 : BitVec 4) ++ pa) (0 : BitVec 4) 4 3 (by decide)).trans
    (app_self (n := 11) (m := 3) (pd.cond ++ pd.p ++ (0 : BitVec 4)) pa))))

theorem fmtP_pb (h : Hdr) (g : BitVec 4) (f : BitVec 6) (pd : PDst) (pa pb : BitVec 3) : (mkWord h g f (fmtP pd pa pb)).extractLsb' 28 3 = pb :=
  (mkWord_body h g f (fmtP pd pa pb) 28 3 (by decide)).trans
    ((app_hi (n := 21) (m := 28) (pd.cond ++ pd.p ++ (0 : BitVec 4) ++ pa ++ (0 : BitVec 4) ++ pb) (0 : BitVec 28) 28 3 (by decide)).trans
    (app_self (n := 18) (m := 3) (pd.cond ++ pd.p ++ (0 : BitVec 4) ++ pa ++ (0 : BitVec 4)) pb))

theorem fmtB_a (h : Hdr) (g : BitVec 4) (f : BitVec 6) (a : Opnd) (kind : BitVec 2) (off : BitVec 40) : (mkWord h g f (fmtB a kind off)).extractLsb' 42 7 = a.bits :=
  (mkWord_body h g f (fmtB a kind off) 42 7 (by decide)).trans
    ((app_hi (n := 9) (m := 40) (a.bits ++ kind) off 42 7 (by decide)).trans
    ((app_hi (n := 7) (m := 2) (a.bits) kind 2 7 (by decide)).trans
    BitVec.extractLsb'_eq_self))

theorem fmtB_a_opnd (h : Hdr) (g : BitVec 4) (f : BitVec 6) (a : Opnd) (kind : BitVec 2) (off : BitVec 40) : opnd (mkWord h g f (fmtB a kind off)) 42 = a :=
  opnd_of _ _ _ (fmtB_a h g f a kind off)

theorem fmtB_kind (h : Hdr) (g : BitVec 4) (f : BitVec 6) (a : Opnd) (kind : BitVec 2) (off : BitVec 40) : (mkWord h g f (fmtB a kind off)).extractLsb' 40 2 = kind :=
  (mkWord_body h g f (fmtB a kind off) 40 2 (by decide)).trans
    ((app_hi (n := 9) (m := 40) (a.bits ++ kind) off 40 2 (by decide)).trans
    (app_self (n := 7) (m := 2) (a.bits) kind))

theorem fmtB_off (h : Hdr) (g : BitVec 4) (f : BitVec 6) (a : Opnd) (kind : BitVec 2) (off : BitVec 40) : (mkWord h g f (fmtB a kind off)).extractLsb' 0 40 = off :=
  (mkWord_body h g f (fmtB a kind off) 0 40 (by decide)).trans
    (app_self (n := 9) (m := 40) (a.bits ++ kind) off)

theorem fmtM_d (h : Hdr) (g : BitVec 4) (f : BitVec 6) (d : BitVec 7) (a : Opnd) (m : M4) : (mkWord h g f (fmtM d a m)).extractLsb' 42 7 = d :=
  (mkWord_body h g f (fmtM d a m) 42 7 (by decide)).trans
    ((app_hi (n := 25) (m := 24) (d ++ a.bits ++ m.sz ++ m.ord ++ m.sco ++ m.hint ++ (BitVec.ofBool m.x)) m.off 42 7 (by decide)).trans
    ((app_hi (n := 24) (m := 1) (d ++ a.bits ++ m.sz ++ m.ord ++ m.sco ++ m.hint) (BitVec.ofBool m.x) 18 7 (by decide)).trans
    ((app_hi (n := 22) (m := 2) (d ++ a.bits ++ m.sz ++ m.ord ++ m.sco) m.hint 17 7 (by decide)).trans
    ((app_hi (n := 19) (m := 3) (d ++ a.bits ++ m.sz ++ m.ord) m.sco 15 7 (by decide)).trans
    ((app_hi (n := 17) (m := 2) (d ++ a.bits ++ m.sz) m.ord 12 7 (by decide)).trans
    ((app_hi (n := 14) (m := 3) (d ++ a.bits) m.sz 10 7 (by decide)).trans
    ((app_hi (n := 7) (m := 7) (d) a.bits 7 7 (by decide)).trans
    BitVec.extractLsb'_eq_self)))))))

theorem fmtM_a (h : Hdr) (g : BitVec 4) (f : BitVec 6) (d : BitVec 7) (a : Opnd) (m : M4) : (mkWord h g f (fmtM d a m)).extractLsb' 35 7 = a.bits :=
  (mkWord_body h g f (fmtM d a m) 35 7 (by decide)).trans
    ((app_hi (n := 25) (m := 24) (d ++ a.bits ++ m.sz ++ m.ord ++ m.sco ++ m.hint ++ (BitVec.ofBool m.x)) m.off 35 7 (by decide)).trans
    ((app_hi (n := 24) (m := 1) (d ++ a.bits ++ m.sz ++ m.ord ++ m.sco ++ m.hint) (BitVec.ofBool m.x) 11 7 (by decide)).trans
    ((app_hi (n := 22) (m := 2) (d ++ a.bits ++ m.sz ++ m.ord ++ m.sco) m.hint 10 7 (by decide)).trans
    ((app_hi (n := 19) (m := 3) (d ++ a.bits ++ m.sz ++ m.ord) m.sco 8 7 (by decide)).trans
    ((app_hi (n := 17) (m := 2) (d ++ a.bits ++ m.sz) m.ord 5 7 (by decide)).trans
    ((app_hi (n := 14) (m := 3) (d ++ a.bits) m.sz 3 7 (by decide)).trans
    (app_self (n := 7) (m := 7) (d) a.bits)))))))

theorem fmtM_a_opnd (h : Hdr) (g : BitVec 4) (f : BitVec 6) (d : BitVec 7) (a : Opnd) (m : M4) : opnd (mkWord h g f (fmtM d a m)) 35 = a :=
  opnd_of _ _ _ (fmtM_a h g f d a m)

theorem fmtV_vd (h : Hdr) (g : BitVec 4) (f : BitVec 6) (vd va vb vc : BitVec 4) (s : Opnd) (m : BitVec 26) : (mkWord h g f (fmtV vd va vb vc s m)).extractLsb' 45 4 = vd :=
  (mkWord_body h g f (fmtV vd va vb vc s m) 45 4 (by decide)).trans
    ((app_hi (n := 23) (m := 26) (vd ++ va ++ vb ++ vc ++ s.bits) m 45 4 (by decide)).trans
    ((app_hi (n := 16) (m := 7) (vd ++ va ++ vb ++ vc) s.bits 19 4 (by decide)).trans
    ((app_hi (n := 12) (m := 4) (vd ++ va ++ vb) vc 12 4 (by decide)).trans
    ((app_hi (n := 8) (m := 4) (vd ++ va) vb 8 4 (by decide)).trans
    ((app_hi (n := 4) (m := 4) (vd) va 4 4 (by decide)).trans
    BitVec.extractLsb'_eq_self)))))

theorem fmtV_va (h : Hdr) (g : BitVec 4) (f : BitVec 6) (vd va vb vc : BitVec 4) (s : Opnd) (m : BitVec 26) : (mkWord h g f (fmtV vd va vb vc s m)).extractLsb' 41 4 = va :=
  (mkWord_body h g f (fmtV vd va vb vc s m) 41 4 (by decide)).trans
    ((app_hi (n := 23) (m := 26) (vd ++ va ++ vb ++ vc ++ s.bits) m 41 4 (by decide)).trans
    ((app_hi (n := 16) (m := 7) (vd ++ va ++ vb ++ vc) s.bits 15 4 (by decide)).trans
    ((app_hi (n := 12) (m := 4) (vd ++ va ++ vb) vc 8 4 (by decide)).trans
    ((app_hi (n := 8) (m := 4) (vd ++ va) vb 4 4 (by decide)).trans
    (app_self (n := 4) (m := 4) (vd) va)))))

theorem fmtV_vb (h : Hdr) (g : BitVec 4) (f : BitVec 6) (vd va vb vc : BitVec 4) (s : Opnd) (m : BitVec 26) : (mkWord h g f (fmtV vd va vb vc s m)).extractLsb' 37 4 = vb :=
  (mkWord_body h g f (fmtV vd va vb vc s m) 37 4 (by decide)).trans
    ((app_hi (n := 23) (m := 26) (vd ++ va ++ vb ++ vc ++ s.bits) m 37 4 (by decide)).trans
    ((app_hi (n := 16) (m := 7) (vd ++ va ++ vb ++ vc) s.bits 11 4 (by decide)).trans
    ((app_hi (n := 12) (m := 4) (vd ++ va ++ vb) vc 4 4 (by decide)).trans
    (app_self (n := 8) (m := 4) (vd ++ va) vb))))

theorem fmtV_vc (h : Hdr) (g : BitVec 4) (f : BitVec 6) (vd va vb vc : BitVec 4) (s : Opnd) (m : BitVec 26) : (mkWord h g f (fmtV vd va vb vc s m)).extractLsb' 33 4 = vc :=
  (mkWord_body h g f (fmtV vd va vb vc s m) 33 4 (by decide)).trans
    ((app_hi (n := 23) (m := 26) (vd ++ va ++ vb ++ vc ++ s.bits) m 33 4 (by decide)).trans
    ((app_hi (n := 16) (m := 7) (vd ++ va ++ vb ++ vc) s.bits 7 4 (by decide)).trans
    (app_self (n := 12) (m := 4) (vd ++ va ++ vb) vc)))

theorem fmtV_s (h : Hdr) (g : BitVec 4) (f : BitVec 6) (vd va vb vc : BitVec 4) (s : Opnd) (m : BitVec 26) : (mkWord h g f (fmtV vd va vb vc s m)).extractLsb' 26 7 = s.bits :=
  (mkWord_body h g f (fmtV vd va vb vc s m) 26 7 (by decide)).trans
    ((app_hi (n := 23) (m := 26) (vd ++ va ++ vb ++ vc ++ s.bits) m 26 7 (by decide)).trans
    (app_self (n := 16) (m := 7) (vd ++ va ++ vb ++ vc) s.bits))

theorem fmtV_s_opnd (h : Hdr) (g : BitVec 4) (f : BitVec 6) (vd va vb vc : BitVec 4) (s : Opnd) (m : BitVec 26) : opnd (mkWord h g f (fmtV vd va vb vc s m)) 26 = s :=
  opnd_of _ _ _ (fmtV_s h g f vd va vb vc s m)

theorem fmtV_m (h : Hdr) (g : BitVec 4) (f : BitVec 6) (vd va vb vc : BitVec 4) (s : Opnd) (m : BitVec 26) : (mkWord h g f (fmtV vd va vb vc s m)).extractLsb' 0 26 = m :=
  (mkWord_body h g f (fmtV vd va vb vc s m) 0 26 (by decide)).trans
    (app_self (n := 23) (m := 26) (vd ++ va ++ vb ++ vc ++ s.bits) m)

theorem fmtT_ta (h : Hdr) (g : BitVec 4) (f : BitVec 6) (ta oa ob : BitVec 3) (s1 s2 : Opnd) (z : BitVec 6) (fmt : BitVec 4) (m : M8) : (mkWord h g f (fmtT ta oa ob s1 s2 z fmt m)).extractLsb' 46 3 = ta :=
  (mkWord_body h g f (fmtT ta oa ob s1 s2 z fmt m) 46 3 (by decide)).trans
    ((app_hi (n := 39) (m := 10) (ta ++ oa ++ ob ++ s1.bits ++ s2.bits ++ z ++ fmt ++ m.rnd ++ (BitVec.ofBool m.sc) ++ m.blk) (0 : BitVec 10) 46 3 (by decide)).trans
    ((app_hi (n := 37) (m := 2) (ta ++ oa ++ ob ++ s1.bits ++ s2.bits ++ z ++ fmt ++ m.rnd ++ (BitVec.ofBool m.sc)) m.blk 36 3 (by decide)).trans
    ((app_hi (n := 36) (m := 1) (ta ++ oa ++ ob ++ s1.bits ++ s2.bits ++ z ++ fmt ++ m.rnd) (BitVec.ofBool m.sc) 34 3 (by decide)).trans
    ((app_hi (n := 33) (m := 3) (ta ++ oa ++ ob ++ s1.bits ++ s2.bits ++ z ++ fmt) m.rnd 33 3 (by decide)).trans
    ((app_hi (n := 29) (m := 4) (ta ++ oa ++ ob ++ s1.bits ++ s2.bits ++ z) fmt 30 3 (by decide)).trans
    ((app_hi (n := 23) (m := 6) (ta ++ oa ++ ob ++ s1.bits ++ s2.bits) z 26 3 (by decide)).trans
    ((app_hi (n := 16) (m := 7) (ta ++ oa ++ ob ++ s1.bits) s2.bits 20 3 (by decide)).trans
    ((app_hi (n := 9) (m := 7) (ta ++ oa ++ ob) s1.bits 13 3 (by decide)).trans
    ((app_hi (n := 6) (m := 3) (ta ++ oa) ob 6 3 (by decide)).trans
    ((app_hi (n := 3) (m := 3) (ta) oa 3 3 (by decide)).trans
    BitVec.extractLsb'_eq_self))))))))))

theorem fmtT_oa (h : Hdr) (g : BitVec 4) (f : BitVec 6) (ta oa ob : BitVec 3) (s1 s2 : Opnd) (z : BitVec 6) (fmt : BitVec 4) (m : M8) : (mkWord h g f (fmtT ta oa ob s1 s2 z fmt m)).extractLsb' 43 3 = oa :=
  (mkWord_body h g f (fmtT ta oa ob s1 s2 z fmt m) 43 3 (by decide)).trans
    ((app_hi (n := 39) (m := 10) (ta ++ oa ++ ob ++ s1.bits ++ s2.bits ++ z ++ fmt ++ m.rnd ++ (BitVec.ofBool m.sc) ++ m.blk) (0 : BitVec 10) 43 3 (by decide)).trans
    ((app_hi (n := 37) (m := 2) (ta ++ oa ++ ob ++ s1.bits ++ s2.bits ++ z ++ fmt ++ m.rnd ++ (BitVec.ofBool m.sc)) m.blk 33 3 (by decide)).trans
    ((app_hi (n := 36) (m := 1) (ta ++ oa ++ ob ++ s1.bits ++ s2.bits ++ z ++ fmt ++ m.rnd) (BitVec.ofBool m.sc) 31 3 (by decide)).trans
    ((app_hi (n := 33) (m := 3) (ta ++ oa ++ ob ++ s1.bits ++ s2.bits ++ z ++ fmt) m.rnd 30 3 (by decide)).trans
    ((app_hi (n := 29) (m := 4) (ta ++ oa ++ ob ++ s1.bits ++ s2.bits ++ z) fmt 27 3 (by decide)).trans
    ((app_hi (n := 23) (m := 6) (ta ++ oa ++ ob ++ s1.bits ++ s2.bits) z 23 3 (by decide)).trans
    ((app_hi (n := 16) (m := 7) (ta ++ oa ++ ob ++ s1.bits) s2.bits 17 3 (by decide)).trans
    ((app_hi (n := 9) (m := 7) (ta ++ oa ++ ob) s1.bits 10 3 (by decide)).trans
    ((app_hi (n := 6) (m := 3) (ta ++ oa) ob 3 3 (by decide)).trans
    (app_self (n := 3) (m := 3) (ta) oa))))))))))

theorem fmtT_ob (h : Hdr) (g : BitVec 4) (f : BitVec 6) (ta oa ob : BitVec 3) (s1 s2 : Opnd) (z : BitVec 6) (fmt : BitVec 4) (m : M8) : (mkWord h g f (fmtT ta oa ob s1 s2 z fmt m)).extractLsb' 40 3 = ob :=
  (mkWord_body h g f (fmtT ta oa ob s1 s2 z fmt m) 40 3 (by decide)).trans
    ((app_hi (n := 39) (m := 10) (ta ++ oa ++ ob ++ s1.bits ++ s2.bits ++ z ++ fmt ++ m.rnd ++ (BitVec.ofBool m.sc) ++ m.blk) (0 : BitVec 10) 40 3 (by decide)).trans
    ((app_hi (n := 37) (m := 2) (ta ++ oa ++ ob ++ s1.bits ++ s2.bits ++ z ++ fmt ++ m.rnd ++ (BitVec.ofBool m.sc)) m.blk 30 3 (by decide)).trans
    ((app_hi (n := 36) (m := 1) (ta ++ oa ++ ob ++ s1.bits ++ s2.bits ++ z ++ fmt ++ m.rnd) (BitVec.ofBool m.sc) 28 3 (by decide)).trans
    ((app_hi (n := 33) (m := 3) (ta ++ oa ++ ob ++ s1.bits ++ s2.bits ++ z ++ fmt) m.rnd 27 3 (by decide)).trans
    ((app_hi (n := 29) (m := 4) (ta ++ oa ++ ob ++ s1.bits ++ s2.bits ++ z) fmt 24 3 (by decide)).trans
    ((app_hi (n := 23) (m := 6) (ta ++ oa ++ ob ++ s1.bits ++ s2.bits) z 20 3 (by decide)).trans
    ((app_hi (n := 16) (m := 7) (ta ++ oa ++ ob ++ s1.bits) s2.bits 14 3 (by decide)).trans
    ((app_hi (n := 9) (m := 7) (ta ++ oa ++ ob) s1.bits 7 3 (by decide)).trans
    (app_self (n := 6) (m := 3) (ta ++ oa) ob)))))))))

theorem fmtT_s1 (h : Hdr) (g : BitVec 4) (f : BitVec 6) (ta oa ob : BitVec 3) (s1 s2 : Opnd) (z : BitVec 6) (fmt : BitVec 4) (m : M8) : (mkWord h g f (fmtT ta oa ob s1 s2 z fmt m)).extractLsb' 33 7 = s1.bits :=
  (mkWord_body h g f (fmtT ta oa ob s1 s2 z fmt m) 33 7 (by decide)).trans
    ((app_hi (n := 39) (m := 10) (ta ++ oa ++ ob ++ s1.bits ++ s2.bits ++ z ++ fmt ++ m.rnd ++ (BitVec.ofBool m.sc) ++ m.blk) (0 : BitVec 10) 33 7 (by decide)).trans
    ((app_hi (n := 37) (m := 2) (ta ++ oa ++ ob ++ s1.bits ++ s2.bits ++ z ++ fmt ++ m.rnd ++ (BitVec.ofBool m.sc)) m.blk 23 7 (by decide)).trans
    ((app_hi (n := 36) (m := 1) (ta ++ oa ++ ob ++ s1.bits ++ s2.bits ++ z ++ fmt ++ m.rnd) (BitVec.ofBool m.sc) 21 7 (by decide)).trans
    ((app_hi (n := 33) (m := 3) (ta ++ oa ++ ob ++ s1.bits ++ s2.bits ++ z ++ fmt) m.rnd 20 7 (by decide)).trans
    ((app_hi (n := 29) (m := 4) (ta ++ oa ++ ob ++ s1.bits ++ s2.bits ++ z) fmt 17 7 (by decide)).trans
    ((app_hi (n := 23) (m := 6) (ta ++ oa ++ ob ++ s1.bits ++ s2.bits) z 13 7 (by decide)).trans
    ((app_hi (n := 16) (m := 7) (ta ++ oa ++ ob ++ s1.bits) s2.bits 7 7 (by decide)).trans
    (app_self (n := 9) (m := 7) (ta ++ oa ++ ob) s1.bits))))))))

theorem fmtT_s1_opnd (h : Hdr) (g : BitVec 4) (f : BitVec 6) (ta oa ob : BitVec 3) (s1 s2 : Opnd) (z : BitVec 6) (fmt : BitVec 4) (m : M8) : opnd (mkWord h g f (fmtT ta oa ob s1 s2 z fmt m)) 33 = s1 :=
  opnd_of _ _ _ (fmtT_s1 h g f ta oa ob s1 s2 z fmt m)

theorem fmtT_s2 (h : Hdr) (g : BitVec 4) (f : BitVec 6) (ta oa ob : BitVec 3) (s1 s2 : Opnd) (z : BitVec 6) (fmt : BitVec 4) (m : M8) : (mkWord h g f (fmtT ta oa ob s1 s2 z fmt m)).extractLsb' 26 7 = s2.bits :=
  (mkWord_body h g f (fmtT ta oa ob s1 s2 z fmt m) 26 7 (by decide)).trans
    ((app_hi (n := 39) (m := 10) (ta ++ oa ++ ob ++ s1.bits ++ s2.bits ++ z ++ fmt ++ m.rnd ++ (BitVec.ofBool m.sc) ++ m.blk) (0 : BitVec 10) 26 7 (by decide)).trans
    ((app_hi (n := 37) (m := 2) (ta ++ oa ++ ob ++ s1.bits ++ s2.bits ++ z ++ fmt ++ m.rnd ++ (BitVec.ofBool m.sc)) m.blk 16 7 (by decide)).trans
    ((app_hi (n := 36) (m := 1) (ta ++ oa ++ ob ++ s1.bits ++ s2.bits ++ z ++ fmt ++ m.rnd) (BitVec.ofBool m.sc) 14 7 (by decide)).trans
    ((app_hi (n := 33) (m := 3) (ta ++ oa ++ ob ++ s1.bits ++ s2.bits ++ z ++ fmt) m.rnd 13 7 (by decide)).trans
    ((app_hi (n := 29) (m := 4) (ta ++ oa ++ ob ++ s1.bits ++ s2.bits ++ z) fmt 10 7 (by decide)).trans
    ((app_hi (n := 23) (m := 6) (ta ++ oa ++ ob ++ s1.bits ++ s2.bits) z 6 7 (by decide)).trans
    (app_self (n := 16) (m := 7) (ta ++ oa ++ ob ++ s1.bits) s2.bits)))))))

theorem fmtT_s2_opnd (h : Hdr) (g : BitVec 4) (f : BitVec 6) (ta oa ob : BitVec 3) (s1 s2 : Opnd) (z : BitVec 6) (fmt : BitVec 4) (m : M8) : opnd (mkWord h g f (fmtT ta oa ob s1 s2 z fmt m)) 26 = s2 :=
  opnd_of _ _ _ (fmtT_s2 h g f ta oa ob s1 s2 z fmt m)

theorem fmtT_z (h : Hdr) (g : BitVec 4) (f : BitVec 6) (ta oa ob : BitVec 3) (s1 s2 : Opnd) (z : BitVec 6) (fmt : BitVec 4) (m : M8) : (mkWord h g f (fmtT ta oa ob s1 s2 z fmt m)).extractLsb' 20 6 = z :=
  (mkWord_body h g f (fmtT ta oa ob s1 s2 z fmt m) 20 6 (by decide)).trans
    ((app_hi (n := 39) (m := 10) (ta ++ oa ++ ob ++ s1.bits ++ s2.bits ++ z ++ fmt ++ m.rnd ++ (BitVec.ofBool m.sc) ++ m.blk) (0 : BitVec 10) 20 6 (by decide)).trans
    ((app_hi (n := 37) (m := 2) (ta ++ oa ++ ob ++ s1.bits ++ s2.bits ++ z ++ fmt ++ m.rnd ++ (BitVec.ofBool m.sc)) m.blk 10 6 (by decide)).trans
    ((app_hi (n := 36) (m := 1) (ta ++ oa ++ ob ++ s1.bits ++ s2.bits ++ z ++ fmt ++ m.rnd) (BitVec.ofBool m.sc) 8 6 (by decide)).trans
    ((app_hi (n := 33) (m := 3) (ta ++ oa ++ ob ++ s1.bits ++ s2.bits ++ z ++ fmt) m.rnd 7 6 (by decide)).trans
    ((app_hi (n := 29) (m := 4) (ta ++ oa ++ ob ++ s1.bits ++ s2.bits ++ z) fmt 4 6 (by decide)).trans
    (app_self (n := 23) (m := 6) (ta ++ oa ++ ob ++ s1.bits ++ s2.bits) z))))))

theorem fmtT_fmt (h : Hdr) (g : BitVec 4) (f : BitVec 6) (ta oa ob : BitVec 3) (s1 s2 : Opnd) (z : BitVec 6) (fmt : BitVec 4) (m : M8) : (mkWord h g f (fmtT ta oa ob s1 s2 z fmt m)).extractLsb' 16 4 = fmt :=
  (mkWord_body h g f (fmtT ta oa ob s1 s2 z fmt m) 16 4 (by decide)).trans
    ((app_hi (n := 39) (m := 10) (ta ++ oa ++ ob ++ s1.bits ++ s2.bits ++ z ++ fmt ++ m.rnd ++ (BitVec.ofBool m.sc) ++ m.blk) (0 : BitVec 10) 16 4 (by decide)).trans
    ((app_hi (n := 37) (m := 2) (ta ++ oa ++ ob ++ s1.bits ++ s2.bits ++ z ++ fmt ++ m.rnd ++ (BitVec.ofBool m.sc)) m.blk 6 4 (by decide)).trans
    ((app_hi (n := 36) (m := 1) (ta ++ oa ++ ob ++ s1.bits ++ s2.bits ++ z ++ fmt ++ m.rnd) (BitVec.ofBool m.sc) 4 4 (by decide)).trans
    ((app_hi (n := 33) (m := 3) (ta ++ oa ++ ob ++ s1.bits ++ s2.bits ++ z ++ fmt) m.rnd 3 4 (by decide)).trans
    (app_self (n := 29) (m := 4) (ta ++ oa ++ ob ++ s1.bits ++ s2.bits ++ z) fmt)))))

/-! ### The modifiers -/

theorem encM0_rnd (h : Hdr) (g : BitVec 4) (f : BitVec 6) (d a b : Opnd) (m : M0) :
    (mkWord h g f (fmtR d a b (encM0 m))).extractLsb' 25 3 = m.rnd := by
  have e := ext_ext (mkWord h g f (fmtR d a b (encM0 m))) 0 28 25 3 (by decide)
  rw [fmtR_m] at e
  exact (Eq.trans (by rw [Nat.zero_add] at e; exact e.symm)
    ((app_hi (n := 12) (m := 16) (m.rnd ++ (BitVec.ofBool m.u) ++ (BitVec.ofBool m.sat) ++ (0 : BitVec 7)) m.low 25 3 (by decide)).trans
    ((app_hi (n := 5) (m := 7) (m.rnd ++ (BitVec.ofBool m.u) ++ (BitVec.ofBool m.sat)) (0 : BitVec 7) 9 3 (by decide)).trans
    ((app_hi (n := 4) (m := 1) (m.rnd ++ (BitVec.ofBool m.u)) (BitVec.ofBool m.sat) 2 3 (by decide)).trans
    ((app_hi (n := 3) (m := 1) (m.rnd) (BitVec.ofBool m.u) 1 3 (by decide)).trans
    BitVec.extractLsb'_eq_self)))))

theorem encM0_u (h : Hdr) (g : BitVec 4) (f : BitVec 6) (d a b : Opnd) (m : M0) :
    (mkWord h g f (fmtR d a b (encM0 m))).extractLsb' 24 1 = (BitVec.ofBool m.u) := by
  have e := ext_ext (mkWord h g f (fmtR d a b (encM0 m))) 0 28 24 1 (by decide)
  rw [fmtR_m] at e
  exact (Eq.trans (by rw [Nat.zero_add] at e; exact e.symm)
    ((app_hi (n := 12) (m := 16) (m.rnd ++ (BitVec.ofBool m.u) ++ (BitVec.ofBool m.sat) ++ (0 : BitVec 7)) m.low 24 1 (by decide)).trans
    ((app_hi (n := 5) (m := 7) (m.rnd ++ (BitVec.ofBool m.u) ++ (BitVec.ofBool m.sat)) (0 : BitVec 7) 8 1 (by decide)).trans
    ((app_hi (n := 4) (m := 1) (m.rnd ++ (BitVec.ofBool m.u)) (BitVec.ofBool m.sat) 1 1 (by decide)).trans
    (app_self (n := 3) (m := 1) (m.rnd) (BitVec.ofBool m.u))))))

theorem encM0_u_bit (h : Hdr) (g : BitVec 4) (f : BitVec 6) (d a b : Opnd) (m : M0) : (mkWord h g f (fmtR d a b (encM0 m))).getLsbD 24 = m.u :=
  bit_ext _ _ _ (encM0_u h g f d a b m)

theorem encM0_sat (h : Hdr) (g : BitVec 4) (f : BitVec 6) (d a b : Opnd) (m : M0) :
    (mkWord h g f (fmtR d a b (encM0 m))).extractLsb' 23 1 = (BitVec.ofBool m.sat) := by
  have e := ext_ext (mkWord h g f (fmtR d a b (encM0 m))) 0 28 23 1 (by decide)
  rw [fmtR_m] at e
  exact (Eq.trans (by rw [Nat.zero_add] at e; exact e.symm)
    ((app_hi (n := 12) (m := 16) (m.rnd ++ (BitVec.ofBool m.u) ++ (BitVec.ofBool m.sat) ++ (0 : BitVec 7)) m.low 23 1 (by decide)).trans
    ((app_hi (n := 5) (m := 7) (m.rnd ++ (BitVec.ofBool m.u) ++ (BitVec.ofBool m.sat)) (0 : BitVec 7) 7 1 (by decide)).trans
    (app_self (n := 4) (m := 1) (m.rnd ++ (BitVec.ofBool m.u)) (BitVec.ofBool m.sat)))))

theorem encM0_sat_bit (h : Hdr) (g : BitVec 4) (f : BitVec 6) (d a b : Opnd) (m : M0) : (mkWord h g f (fmtR d a b (encM0 m))).getLsbD 23 = m.sat :=
  bit_ext _ _ _ (encM0_sat h g f d a b m)

theorem encM0_low (h : Hdr) (g : BitVec 4) (f : BitVec 6) (d a b : Opnd) (m : M0) :
    (mkWord h g f (fmtR d a b (encM0 m))).extractLsb' 0 16 = m.low := by
  have e := ext_ext (mkWord h g f (fmtR d a b (encM0 m))) 0 28 0 16 (by decide)
  rw [fmtR_m] at e
  exact (Eq.trans (by rw [Nat.zero_add] at e; exact e.symm)
    (app_self (n := 12) (m := 16) (m.rnd ++ (BitVec.ofBool m.u) ++ (BitVec.ofBool m.sat) ++ (0 : BitVec 7)) m.low))

theorem decM0_mkWord (h : Hdr) (g : BitVec 4) (f : BitVec 6) (d a b : Opnd) (m : M0) : decM0 (mkWord h g f (fmtR d a b (encM0 m))) = m := by
  simp only [decM0, encM0_rnd, encM0_u_bit, encM0_sat_bit, encM0_low]

theorem encM5_op (h : Hdr) (g : BitVec 4) (f : BitVec 6) (d a b : Opnd) (m : M5) :
    (mkWord h g f (fmtR d a b (encM5 m))).extractLsb' 24 4 = m.op := by
  have e := ext_ext (mkWord h g f (fmtR d a b (encM5 m))) 0 28 24 4 (by decide)
  rw [fmtR_m] at e
  exact (Eq.trans (by rw [Nat.zero_add] at e; exact e.symm)
    ((app_hi (n := 25) (m := 3) (m.op ++ (BitVec.ofBool m.c) ++ m.sco ++ (0 : BitVec 17)) m.pr 24 4 (by decide)).trans
    ((app_hi (n := 8) (m := 17) (m.op ++ (BitVec.ofBool m.c) ++ m.sco) (0 : BitVec 17) 21 4 (by decide)).trans
    ((app_hi (n := 5) (m := 3) (m.op ++ (BitVec.ofBool m.c)) m.sco 4 4 (by decide)).trans
    ((app_hi (n := 4) (m := 1) (m.op) (BitVec.ofBool m.c) 1 4 (by decide)).trans
    BitVec.extractLsb'_eq_self)))))

theorem encM5_c (h : Hdr) (g : BitVec 4) (f : BitVec 6) (d a b : Opnd) (m : M5) :
    (mkWord h g f (fmtR d a b (encM5 m))).extractLsb' 23 1 = (BitVec.ofBool m.c) := by
  have e := ext_ext (mkWord h g f (fmtR d a b (encM5 m))) 0 28 23 1 (by decide)
  rw [fmtR_m] at e
  exact (Eq.trans (by rw [Nat.zero_add] at e; exact e.symm)
    ((app_hi (n := 25) (m := 3) (m.op ++ (BitVec.ofBool m.c) ++ m.sco ++ (0 : BitVec 17)) m.pr 23 1 (by decide)).trans
    ((app_hi (n := 8) (m := 17) (m.op ++ (BitVec.ofBool m.c) ++ m.sco) (0 : BitVec 17) 20 1 (by decide)).trans
    ((app_hi (n := 5) (m := 3) (m.op ++ (BitVec.ofBool m.c)) m.sco 3 1 (by decide)).trans
    (app_self (n := 4) (m := 1) (m.op) (BitVec.ofBool m.c))))))

theorem encM5_c_bit (h : Hdr) (g : BitVec 4) (f : BitVec 6) (d a b : Opnd) (m : M5) : (mkWord h g f (fmtR d a b (encM5 m))).getLsbD 23 = m.c :=
  bit_ext _ _ _ (encM5_c h g f d a b m)

theorem encM5_sco (h : Hdr) (g : BitVec 4) (f : BitVec 6) (d a b : Opnd) (m : M5) :
    (mkWord h g f (fmtR d a b (encM5 m))).extractLsb' 20 3 = m.sco := by
  have e := ext_ext (mkWord h g f (fmtR d a b (encM5 m))) 0 28 20 3 (by decide)
  rw [fmtR_m] at e
  exact (Eq.trans (by rw [Nat.zero_add] at e; exact e.symm)
    ((app_hi (n := 25) (m := 3) (m.op ++ (BitVec.ofBool m.c) ++ m.sco ++ (0 : BitVec 17)) m.pr 20 3 (by decide)).trans
    ((app_hi (n := 8) (m := 17) (m.op ++ (BitVec.ofBool m.c) ++ m.sco) (0 : BitVec 17) 17 3 (by decide)).trans
    (app_self (n := 5) (m := 3) (m.op ++ (BitVec.ofBool m.c)) m.sco))))

theorem encM5_pr (h : Hdr) (g : BitVec 4) (f : BitVec 6) (d a b : Opnd) (m : M5) :
    (mkWord h g f (fmtR d a b (encM5 m))).extractLsb' 0 3 = m.pr := by
  have e := ext_ext (mkWord h g f (fmtR d a b (encM5 m))) 0 28 0 3 (by decide)
  rw [fmtR_m] at e
  exact (Eq.trans (by rw [Nat.zero_add] at e; exact e.symm)
    (app_self (n := 25) (m := 3) (m.op ++ (BitVec.ofBool m.c) ++ m.sco ++ (0 : BitVec 17)) m.pr))

theorem decM5_mkWord (h : Hdr) (g : BitVec 4) (f : BitVec 6) (d a b : Opnd) (m : M5) : decM5 (mkWord h g f (fmtR d a b (encM5 m))) = m := by
  simp only [decM5, encM5_op, encM5_c_bit, encM5_sco, encM5_pr]

theorem encMB_sco (h : Hdr) (g : BitVec 4) (f : BitVec 6) (d a b : Opnd) (m : MB) :
    (mkWord h g f (fmtR d a b (encMB m))).extractLsb' 25 3 = m.sco := by
  have e := ext_ext (mkWord h g f (fmtR d a b (encMB m))) 0 28 25 3 (by decide)
  rw [fmtR_m] at e
  exact (Eq.trans (by rw [Nat.zero_add] at e; exact e.symm)
    ((app_hi (n := 12) (m := 16) (m.sco ++ m.sf ++ m.df ++ (BitVec.ofBool m.mc)) (0 : BitVec 16) 25 3 (by decide)).trans
    ((app_hi (n := 11) (m := 1) (m.sco ++ m.sf ++ m.df) (BitVec.ofBool m.mc) 9 3 (by decide)).trans
    ((app_hi (n := 7) (m := 4) (m.sco ++ m.sf) m.df 8 3 (by decide)).trans
    ((app_hi (n := 3) (m := 4) (m.sco) m.sf 4 3 (by decide)).trans
    BitVec.extractLsb'_eq_self)))))

theorem encMB_sf (h : Hdr) (g : BitVec 4) (f : BitVec 6) (d a b : Opnd) (m : MB) :
    (mkWord h g f (fmtR d a b (encMB m))).extractLsb' 21 4 = m.sf := by
  have e := ext_ext (mkWord h g f (fmtR d a b (encMB m))) 0 28 21 4 (by decide)
  rw [fmtR_m] at e
  exact (Eq.trans (by rw [Nat.zero_add] at e; exact e.symm)
    ((app_hi (n := 12) (m := 16) (m.sco ++ m.sf ++ m.df ++ (BitVec.ofBool m.mc)) (0 : BitVec 16) 21 4 (by decide)).trans
    ((app_hi (n := 11) (m := 1) (m.sco ++ m.sf ++ m.df) (BitVec.ofBool m.mc) 5 4 (by decide)).trans
    ((app_hi (n := 7) (m := 4) (m.sco ++ m.sf) m.df 4 4 (by decide)).trans
    (app_self (n := 3) (m := 4) (m.sco) m.sf)))))

theorem encMB_df (h : Hdr) (g : BitVec 4) (f : BitVec 6) (d a b : Opnd) (m : MB) :
    (mkWord h g f (fmtR d a b (encMB m))).extractLsb' 17 4 = m.df := by
  have e := ext_ext (mkWord h g f (fmtR d a b (encMB m))) 0 28 17 4 (by decide)
  rw [fmtR_m] at e
  exact (Eq.trans (by rw [Nat.zero_add] at e; exact e.symm)
    ((app_hi (n := 12) (m := 16) (m.sco ++ m.sf ++ m.df ++ (BitVec.ofBool m.mc)) (0 : BitVec 16) 17 4 (by decide)).trans
    ((app_hi (n := 11) (m := 1) (m.sco ++ m.sf ++ m.df) (BitVec.ofBool m.mc) 1 4 (by decide)).trans
    (app_self (n := 7) (m := 4) (m.sco ++ m.sf) m.df))))

theorem encMB_mc (h : Hdr) (g : BitVec 4) (f : BitVec 6) (d a b : Opnd) (m : MB) :
    (mkWord h g f (fmtR d a b (encMB m))).extractLsb' 16 1 = (BitVec.ofBool m.mc) := by
  have e := ext_ext (mkWord h g f (fmtR d a b (encMB m))) 0 28 16 1 (by decide)
  rw [fmtR_m] at e
  exact (Eq.trans (by rw [Nat.zero_add] at e; exact e.symm)
    ((app_hi (n := 12) (m := 16) (m.sco ++ m.sf ++ m.df ++ (BitVec.ofBool m.mc)) (0 : BitVec 16) 16 1 (by decide)).trans
    (app_self (n := 11) (m := 1) (m.sco ++ m.sf ++ m.df) (BitVec.ofBool m.mc))))

theorem encMB_mc_bit (h : Hdr) (g : BitVec 4) (f : BitVec 6) (d a b : Opnd) (m : MB) : (mkWord h g f (fmtR d a b (encMB m))).getLsbD 16 = m.mc :=
  bit_ext _ _ _ (encMB_mc h g f d a b m)

theorem decMB_mkWord (h : Hdr) (g : BitVec 4) (f : BitVec 6) (d a b : Opnd) (m : MB) : decMB (mkWord h g f (fmtR d a b (encMB m))) = m := by
  simp only [decMB, encMB_sco, encMB_sf, encMB_df, encMB_mc_bit]

theorem encMC_edge (h : Hdr) (g : BitVec 4) (f : BitVec 6) (d a b : Opnd) (m : MC) :
    (mkWord h g f (fmtR d a b (encMC m))).extractLsb' 25 3 = m.edge := by
  have e := ext_ext (mkWord h g f (fmtR d a b (encMC m))) 0 28 25 3 (by decide)
  rw [fmtR_m] at e
  exact (Eq.trans (by rw [Nat.zero_add] at e; exact e.symm)
    ((app_hi (n := 6) (m := 22) (m.edge ++ m.sz) (0 : BitVec 22) 25 3 (by decide)).trans
    ((app_hi (n := 3) (m := 3) (m.edge) m.sz 3 3 (by decide)).trans
    BitVec.extractLsb'_eq_self)))

theorem encMC_sz (h : Hdr) (g : BitVec 4) (f : BitVec 6) (d a b : Opnd) (m : MC) :
    (mkWord h g f (fmtR d a b (encMC m))).extractLsb' 22 3 = m.sz := by
  have e := ext_ext (mkWord h g f (fmtR d a b (encMC m))) 0 28 22 3 (by decide)
  rw [fmtR_m] at e
  exact (Eq.trans (by rw [Nat.zero_add] at e; exact e.symm)
    ((app_hi (n := 6) (m := 22) (m.edge ++ m.sz) (0 : BitVec 22) 22 3 (by decide)).trans
    (app_self (n := 3) (m := 3) (m.edge) m.sz)))

theorem decMC_mkWord (h : Hdr) (g : BitVec 4) (f : BitVec 6) (d a b : Opnd) (m : MC) : decMC (mkWord h g f (fmtR d a b (encMC m))) = m := by
  simp only [decMC, encMC_edge, encMC_sz]

theorem encMD_pm (h : Hdr) (g : BitVec 4) (f : BitVec 6) (d a b : Opnd) (m : MD) :
    (mkWord h g f (fmtR d a b (encMD m))).extractLsb' 16 2 = m.pm := by
  have e := ext_ext (mkWord h g f (fmtR d a b (encMD m))) 0 28 16 2 (by decide)
  rw [fmtR_m] at e
  exact (Eq.trans (by rw [Nat.zero_add] at e; exact e.symm)
    ((app_hi (n := 16) (m := 12) ((0 : BitVec 10) ++ m.pm ++ m.co ++ m.ti) m.crn 16 2 (by decide)).trans
    ((app_hi (n := 14) (m := 2) ((0 : BitVec 10) ++ m.pm ++ m.co) m.ti 4 2 (by decide)).trans
    ((app_hi (n := 12) (m := 2) ((0 : BitVec 10) ++ m.pm) m.co 2 2 (by decide)).trans
    (app_self (n := 10) (m := 2) ((0 : BitVec 10)) m.pm)))))

theorem encMD_co (h : Hdr) (g : BitVec 4) (f : BitVec 6) (d a b : Opnd) (m : MD) :
    (mkWord h g f (fmtR d a b (encMD m))).extractLsb' 14 2 = m.co := by
  have e := ext_ext (mkWord h g f (fmtR d a b (encMD m))) 0 28 14 2 (by decide)
  rw [fmtR_m] at e
  exact (Eq.trans (by rw [Nat.zero_add] at e; exact e.symm)
    ((app_hi (n := 16) (m := 12) ((0 : BitVec 10) ++ m.pm ++ m.co ++ m.ti) m.crn 14 2 (by decide)).trans
    ((app_hi (n := 14) (m := 2) ((0 : BitVec 10) ++ m.pm ++ m.co) m.ti 2 2 (by decide)).trans
    (app_self (n := 12) (m := 2) ((0 : BitVec 10) ++ m.pm) m.co))))

theorem encMD_ti (h : Hdr) (g : BitVec 4) (f : BitVec 6) (d a b : Opnd) (m : MD) :
    (mkWord h g f (fmtR d a b (encMD m))).extractLsb' 12 2 = m.ti := by
  have e := ext_ext (mkWord h g f (fmtR d a b (encMD m))) 0 28 12 2 (by decide)
  rw [fmtR_m] at e
  exact (Eq.trans (by rw [Nat.zero_add] at e; exact e.symm)
    ((app_hi (n := 16) (m := 12) ((0 : BitVec 10) ++ m.pm ++ m.co ++ m.ti) m.crn 12 2 (by decide)).trans
    (app_self (n := 14) (m := 2) ((0 : BitVec 10) ++ m.pm ++ m.co) m.ti)))

theorem encMD_crn (h : Hdr) (g : BitVec 4) (f : BitVec 6) (d a b : Opnd) (m : MD) :
    (mkWord h g f (fmtR d a b (encMD m))).extractLsb' 0 12 = m.crn := by
  have e := ext_ext (mkWord h g f (fmtR d a b (encMD m))) 0 28 0 12 (by decide)
  rw [fmtR_m] at e
  exact (Eq.trans (by rw [Nat.zero_add] at e; exact e.symm)
    (app_self (n := 16) (m := 12) ((0 : BitVec 10) ++ m.pm ++ m.co ++ m.ti) m.crn))

theorem decMD_mkWord (h : Hdr) (g : BitVec 4) (f : BitVec 6) (d a b : Opnd) (m : MD) : decMD (mkWord h g f (fmtR d a b (encMD m))) = m := by
  simp only [decMD, encMD_pm, encMD_co, encMD_ti, encMD_crn]

theorem encM6_et (h : Hdr) (g : BitVec 4) (f : BitVec 6) (vd va vb vc : BitVec 4) (s : Opnd) (m : M6) :
    (mkWord h g f (fmtV vd va vb vc s (encM6 m))).extractLsb' 23 3 = m.et := by
  have e := ext_ext (mkWord h g f (fmtV vd va vb vc s (encM6 m))) 0 26 23 3 (by decide)
  rw [fmtV_m] at e
  exact (Eq.trans (by rw [Nat.zero_add] at e; exact e.symm)
    ((app_hi (n := 18) (m := 8) (m.et ++ m.rnd ++ (BitVec.ofBool m.sat) ++ m.cond ++ m.tgt ++ m.sh ++ (BitVec.ofBool m.bs)) (0 : BitVec 8) 23 3 (by decide)).trans
    ((app_hi (n := 17) (m := 1) (m.et ++ m.rnd ++ (BitVec.ofBool m.sat) ++ m.cond ++ m.tgt ++ m.sh) (BitVec.ofBool m.bs) 15 3 (by decide)).trans
    ((app_hi (n := 15) (m := 2) (m.et ++ m.rnd ++ (BitVec.ofBool m.sat) ++ m.cond ++ m.tgt) m.sh 14 3 (by decide)).trans
    ((app_hi (n := 11) (m := 4) (m.et ++ m.rnd ++ (BitVec.ofBool m.sat) ++ m.cond) m.tgt 12 3 (by decide)).trans
    ((app_hi (n := 7) (m := 4) (m.et ++ m.rnd ++ (BitVec.ofBool m.sat)) m.cond 8 3 (by decide)).trans
    ((app_hi (n := 6) (m := 1) (m.et ++ m.rnd) (BitVec.ofBool m.sat) 4 3 (by decide)).trans
    ((app_hi (n := 3) (m := 3) (m.et) m.rnd 3 3 (by decide)).trans
    BitVec.extractLsb'_eq_self))))))))

theorem encM6_rnd (h : Hdr) (g : BitVec 4) (f : BitVec 6) (vd va vb vc : BitVec 4) (s : Opnd) (m : M6) :
    (mkWord h g f (fmtV vd va vb vc s (encM6 m))).extractLsb' 20 3 = m.rnd := by
  have e := ext_ext (mkWord h g f (fmtV vd va vb vc s (encM6 m))) 0 26 20 3 (by decide)
  rw [fmtV_m] at e
  exact (Eq.trans (by rw [Nat.zero_add] at e; exact e.symm)
    ((app_hi (n := 18) (m := 8) (m.et ++ m.rnd ++ (BitVec.ofBool m.sat) ++ m.cond ++ m.tgt ++ m.sh ++ (BitVec.ofBool m.bs)) (0 : BitVec 8) 20 3 (by decide)).trans
    ((app_hi (n := 17) (m := 1) (m.et ++ m.rnd ++ (BitVec.ofBool m.sat) ++ m.cond ++ m.tgt ++ m.sh) (BitVec.ofBool m.bs) 12 3 (by decide)).trans
    ((app_hi (n := 15) (m := 2) (m.et ++ m.rnd ++ (BitVec.ofBool m.sat) ++ m.cond ++ m.tgt) m.sh 11 3 (by decide)).trans
    ((app_hi (n := 11) (m := 4) (m.et ++ m.rnd ++ (BitVec.ofBool m.sat) ++ m.cond) m.tgt 9 3 (by decide)).trans
    ((app_hi (n := 7) (m := 4) (m.et ++ m.rnd ++ (BitVec.ofBool m.sat)) m.cond 5 3 (by decide)).trans
    ((app_hi (n := 6) (m := 1) (m.et ++ m.rnd) (BitVec.ofBool m.sat) 1 3 (by decide)).trans
    (app_self (n := 3) (m := 3) (m.et) m.rnd))))))))

theorem encM6_sat (h : Hdr) (g : BitVec 4) (f : BitVec 6) (vd va vb vc : BitVec 4) (s : Opnd) (m : M6) :
    (mkWord h g f (fmtV vd va vb vc s (encM6 m))).extractLsb' 19 1 = (BitVec.ofBool m.sat) := by
  have e := ext_ext (mkWord h g f (fmtV vd va vb vc s (encM6 m))) 0 26 19 1 (by decide)
  rw [fmtV_m] at e
  exact (Eq.trans (by rw [Nat.zero_add] at e; exact e.symm)
    ((app_hi (n := 18) (m := 8) (m.et ++ m.rnd ++ (BitVec.ofBool m.sat) ++ m.cond ++ m.tgt ++ m.sh ++ (BitVec.ofBool m.bs)) (0 : BitVec 8) 19 1 (by decide)).trans
    ((app_hi (n := 17) (m := 1) (m.et ++ m.rnd ++ (BitVec.ofBool m.sat) ++ m.cond ++ m.tgt ++ m.sh) (BitVec.ofBool m.bs) 11 1 (by decide)).trans
    ((app_hi (n := 15) (m := 2) (m.et ++ m.rnd ++ (BitVec.ofBool m.sat) ++ m.cond ++ m.tgt) m.sh 10 1 (by decide)).trans
    ((app_hi (n := 11) (m := 4) (m.et ++ m.rnd ++ (BitVec.ofBool m.sat) ++ m.cond) m.tgt 8 1 (by decide)).trans
    ((app_hi (n := 7) (m := 4) (m.et ++ m.rnd ++ (BitVec.ofBool m.sat)) m.cond 4 1 (by decide)).trans
    (app_self (n := 6) (m := 1) (m.et ++ m.rnd) (BitVec.ofBool m.sat))))))))

theorem encM6_sat_bit (h : Hdr) (g : BitVec 4) (f : BitVec 6) (vd va vb vc : BitVec 4) (s : Opnd) (m : M6) : (mkWord h g f (fmtV vd va vb vc s (encM6 m))).getLsbD 19 = m.sat :=
  bit_ext _ _ _ (encM6_sat h g f vd va vb vc s m)

theorem encM6_cond (h : Hdr) (g : BitVec 4) (f : BitVec 6) (vd va vb vc : BitVec 4) (s : Opnd) (m : M6) :
    (mkWord h g f (fmtV vd va vb vc s (encM6 m))).extractLsb' 15 4 = m.cond := by
  have e := ext_ext (mkWord h g f (fmtV vd va vb vc s (encM6 m))) 0 26 15 4 (by decide)
  rw [fmtV_m] at e
  exact (Eq.trans (by rw [Nat.zero_add] at e; exact e.symm)
    ((app_hi (n := 18) (m := 8) (m.et ++ m.rnd ++ (BitVec.ofBool m.sat) ++ m.cond ++ m.tgt ++ m.sh ++ (BitVec.ofBool m.bs)) (0 : BitVec 8) 15 4 (by decide)).trans
    ((app_hi (n := 17) (m := 1) (m.et ++ m.rnd ++ (BitVec.ofBool m.sat) ++ m.cond ++ m.tgt ++ m.sh) (BitVec.ofBool m.bs) 7 4 (by decide)).trans
    ((app_hi (n := 15) (m := 2) (m.et ++ m.rnd ++ (BitVec.ofBool m.sat) ++ m.cond ++ m.tgt) m.sh 6 4 (by decide)).trans
    ((app_hi (n := 11) (m := 4) (m.et ++ m.rnd ++ (BitVec.ofBool m.sat) ++ m.cond) m.tgt 4 4 (by decide)).trans
    (app_self (n := 7) (m := 4) (m.et ++ m.rnd ++ (BitVec.ofBool m.sat)) m.cond))))))

theorem encM6_to (h : Hdr) (g : BitVec 4) (f : BitVec 6) (vd va vb vc : BitVec 4) (s : Opnd) (m : M6) :
    (mkWord h g f (fmtV vd va vb vc s (encM6 m))).extractLsb' 11 4 = m.tgt := by
  have e := ext_ext (mkWord h g f (fmtV vd va vb vc s (encM6 m))) 0 26 11 4 (by decide)
  rw [fmtV_m] at e
  exact (Eq.trans (by rw [Nat.zero_add] at e; exact e.symm)
    ((app_hi (n := 18) (m := 8) (m.et ++ m.rnd ++ (BitVec.ofBool m.sat) ++ m.cond ++ m.tgt ++ m.sh ++ (BitVec.ofBool m.bs)) (0 : BitVec 8) 11 4 (by decide)).trans
    ((app_hi (n := 17) (m := 1) (m.et ++ m.rnd ++ (BitVec.ofBool m.sat) ++ m.cond ++ m.tgt ++ m.sh) (BitVec.ofBool m.bs) 3 4 (by decide)).trans
    ((app_hi (n := 15) (m := 2) (m.et ++ m.rnd ++ (BitVec.ofBool m.sat) ++ m.cond ++ m.tgt) m.sh 2 4 (by decide)).trans
    (app_self (n := 11) (m := 4) (m.et ++ m.rnd ++ (BitVec.ofBool m.sat) ++ m.cond) m.tgt)))))

theorem encM6_sh (h : Hdr) (g : BitVec 4) (f : BitVec 6) (vd va vb vc : BitVec 4) (s : Opnd) (m : M6) :
    (mkWord h g f (fmtV vd va vb vc s (encM6 m))).extractLsb' 9 2 = m.sh := by
  have e := ext_ext (mkWord h g f (fmtV vd va vb vc s (encM6 m))) 0 26 9 2 (by decide)
  rw [fmtV_m] at e
  exact (Eq.trans (by rw [Nat.zero_add] at e; exact e.symm)
    ((app_hi (n := 18) (m := 8) (m.et ++ m.rnd ++ (BitVec.ofBool m.sat) ++ m.cond ++ m.tgt ++ m.sh ++ (BitVec.ofBool m.bs)) (0 : BitVec 8) 9 2 (by decide)).trans
    ((app_hi (n := 17) (m := 1) (m.et ++ m.rnd ++ (BitVec.ofBool m.sat) ++ m.cond ++ m.tgt ++ m.sh) (BitVec.ofBool m.bs) 1 2 (by decide)).trans
    (app_self (n := 15) (m := 2) (m.et ++ m.rnd ++ (BitVec.ofBool m.sat) ++ m.cond ++ m.tgt) m.sh))))

theorem encM6_bs (h : Hdr) (g : BitVec 4) (f : BitVec 6) (vd va vb vc : BitVec 4) (s : Opnd) (m : M6) :
    (mkWord h g f (fmtV vd va vb vc s (encM6 m))).extractLsb' 8 1 = (BitVec.ofBool m.bs) := by
  have e := ext_ext (mkWord h g f (fmtV vd va vb vc s (encM6 m))) 0 26 8 1 (by decide)
  rw [fmtV_m] at e
  exact (Eq.trans (by rw [Nat.zero_add] at e; exact e.symm)
    ((app_hi (n := 18) (m := 8) (m.et ++ m.rnd ++ (BitVec.ofBool m.sat) ++ m.cond ++ m.tgt ++ m.sh ++ (BitVec.ofBool m.bs)) (0 : BitVec 8) 8 1 (by decide)).trans
    (app_self (n := 17) (m := 1) (m.et ++ m.rnd ++ (BitVec.ofBool m.sat) ++ m.cond ++ m.tgt ++ m.sh) (BitVec.ofBool m.bs))))

theorem encM6_bs_bit (h : Hdr) (g : BitVec 4) (f : BitVec 6) (vd va vb vc : BitVec 4) (s : Opnd) (m : M6) : (mkWord h g f (fmtV vd va vb vc s (encM6 m))).getLsbD 8 = m.bs :=
  bit_ext _ _ _ (encM6_bs h g f vd va vb vc s m)

theorem decM6_mkWord (h : Hdr) (g : BitVec 4) (f : BitVec 6) (vd va vb vc : BitVec 4) (s : Opnd) (m : M6) : decM6 (mkWord h g f (fmtV vd va vb vc s (encM6 m))) = m := by
  simp only [decM6, encM6_et, encM6_rnd, encM6_sat_bit, encM6_cond, encM6_to, encM6_sh, encM6_bs_bit]

theorem encM7_et (h : Hdr) (g : BitVec 4) (f : BitVec 6) (vd va vb vc : BitVec 4) (s : Opnd) (m : M7) :
    (mkWord h g f (fmtV vd va vb vc s (encM7 m))).extractLsb' 23 3 = m.et := by
  have e := ext_ext (mkWord h g f (fmtV vd va vb vc s (encM7 m))) 0 26 23 3 (by decide)
  rw [fmtV_m] at e
  exact (Eq.trans (by rw [Nat.zero_add] at e; exact e.symm)
    ((app_hi (n := 12) (m := 14) (m.et ++ m.ord ++ m.sco ++ m.mf) (0 : BitVec 14) 23 3 (by decide)).trans
    ((app_hi (n := 8) (m := 4) (m.et ++ m.ord ++ m.sco) m.mf 9 3 (by decide)).trans
    ((app_hi (n := 5) (m := 3) (m.et ++ m.ord) m.sco 5 3 (by decide)).trans
    ((app_hi (n := 3) (m := 2) (m.et) m.ord 2 3 (by decide)).trans
    BitVec.extractLsb'_eq_self)))))

theorem encM7_ord (h : Hdr) (g : BitVec 4) (f : BitVec 6) (vd va vb vc : BitVec 4) (s : Opnd) (m : M7) :
    (mkWord h g f (fmtV vd va vb vc s (encM7 m))).extractLsb' 21 2 = m.ord := by
  have e := ext_ext (mkWord h g f (fmtV vd va vb vc s (encM7 m))) 0 26 21 2 (by decide)
  rw [fmtV_m] at e
  exact (Eq.trans (by rw [Nat.zero_add] at e; exact e.symm)
    ((app_hi (n := 12) (m := 14) (m.et ++ m.ord ++ m.sco ++ m.mf) (0 : BitVec 14) 21 2 (by decide)).trans
    ((app_hi (n := 8) (m := 4) (m.et ++ m.ord ++ m.sco) m.mf 7 2 (by decide)).trans
    ((app_hi (n := 5) (m := 3) (m.et ++ m.ord) m.sco 3 2 (by decide)).trans
    (app_self (n := 3) (m := 2) (m.et) m.ord)))))

theorem encM7_sco (h : Hdr) (g : BitVec 4) (f : BitVec 6) (vd va vb vc : BitVec 4) (s : Opnd) (m : M7) :
    (mkWord h g f (fmtV vd va vb vc s (encM7 m))).extractLsb' 18 3 = m.sco := by
  have e := ext_ext (mkWord h g f (fmtV vd va vb vc s (encM7 m))) 0 26 18 3 (by decide)
  rw [fmtV_m] at e
  exact (Eq.trans (by rw [Nat.zero_add] at e; exact e.symm)
    ((app_hi (n := 12) (m := 14) (m.et ++ m.ord ++ m.sco ++ m.mf) (0 : BitVec 14) 18 3 (by decide)).trans
    ((app_hi (n := 8) (m := 4) (m.et ++ m.ord ++ m.sco) m.mf 4 3 (by decide)).trans
    (app_self (n := 5) (m := 3) (m.et ++ m.ord) m.sco))))

theorem encM7_mf (h : Hdr) (g : BitVec 4) (f : BitVec 6) (vd va vb vc : BitVec 4) (s : Opnd) (m : M7) :
    (mkWord h g f (fmtV vd va vb vc s (encM7 m))).extractLsb' 14 4 = m.mf := by
  have e := ext_ext (mkWord h g f (fmtV vd va vb vc s (encM7 m))) 0 26 14 4 (by decide)
  rw [fmtV_m] at e
  exact (Eq.trans (by rw [Nat.zero_add] at e; exact e.symm)
    ((app_hi (n := 12) (m := 14) (m.et ++ m.ord ++ m.sco ++ m.mf) (0 : BitVec 14) 14 4 (by decide)).trans
    (app_self (n := 8) (m := 4) (m.et ++ m.ord ++ m.sco) m.mf)))

theorem decM7_mkWord (h : Hdr) (g : BitVec 4) (f : BitVec 6) (vd va vb vc : BitVec 4) (s : Opnd) (m : M7) : decM7 (mkWord h g f (fmtV vd va vb vc s (encM7 m))) = m := by
  simp only [decM7, encM7_et, encM7_ord, encM7_sco, encM7_mf]

theorem fmtM_sz (h : Hdr) (g : BitVec 4) (f : BitVec 6) (d : BitVec 7) (a : Opnd) (m : M4) : (mkWord h g f (fmtM d a m)).extractLsb' 32 3 = m.sz :=
  (mkWord_body h g f (fmtM d a m) 32 3 (by decide)).trans
    ((app_hi (n := 25) (m := 24) (d ++ a.bits ++ m.sz ++ m.ord ++ m.sco ++ m.hint ++ (BitVec.ofBool m.x)) m.off 32 3 (by decide)).trans
    ((app_hi (n := 24) (m := 1) (d ++ a.bits ++ m.sz ++ m.ord ++ m.sco ++ m.hint) (BitVec.ofBool m.x) 8 3 (by decide)).trans
    ((app_hi (n := 22) (m := 2) (d ++ a.bits ++ m.sz ++ m.ord ++ m.sco) m.hint 7 3 (by decide)).trans
    ((app_hi (n := 19) (m := 3) (d ++ a.bits ++ m.sz ++ m.ord) m.sco 5 3 (by decide)).trans
    ((app_hi (n := 17) (m := 2) (d ++ a.bits ++ m.sz) m.ord 2 3 (by decide)).trans
    (app_self (n := 14) (m := 3) (d ++ a.bits) m.sz))))))

theorem fmtM_ord (h : Hdr) (g : BitVec 4) (f : BitVec 6) (d : BitVec 7) (a : Opnd) (m : M4) : (mkWord h g f (fmtM d a m)).extractLsb' 30 2 = m.ord :=
  (mkWord_body h g f (fmtM d a m) 30 2 (by decide)).trans
    ((app_hi (n := 25) (m := 24) (d ++ a.bits ++ m.sz ++ m.ord ++ m.sco ++ m.hint ++ (BitVec.ofBool m.x)) m.off 30 2 (by decide)).trans
    ((app_hi (n := 24) (m := 1) (d ++ a.bits ++ m.sz ++ m.ord ++ m.sco ++ m.hint) (BitVec.ofBool m.x) 6 2 (by decide)).trans
    ((app_hi (n := 22) (m := 2) (d ++ a.bits ++ m.sz ++ m.ord ++ m.sco) m.hint 5 2 (by decide)).trans
    ((app_hi (n := 19) (m := 3) (d ++ a.bits ++ m.sz ++ m.ord) m.sco 3 2 (by decide)).trans
    (app_self (n := 17) (m := 2) (d ++ a.bits ++ m.sz) m.ord)))))

theorem fmtM_sco (h : Hdr) (g : BitVec 4) (f : BitVec 6) (d : BitVec 7) (a : Opnd) (m : M4) : (mkWord h g f (fmtM d a m)).extractLsb' 27 3 = m.sco :=
  (mkWord_body h g f (fmtM d a m) 27 3 (by decide)).trans
    ((app_hi (n := 25) (m := 24) (d ++ a.bits ++ m.sz ++ m.ord ++ m.sco ++ m.hint ++ (BitVec.ofBool m.x)) m.off 27 3 (by decide)).trans
    ((app_hi (n := 24) (m := 1) (d ++ a.bits ++ m.sz ++ m.ord ++ m.sco ++ m.hint) (BitVec.ofBool m.x) 3 3 (by decide)).trans
    ((app_hi (n := 22) (m := 2) (d ++ a.bits ++ m.sz ++ m.ord ++ m.sco) m.hint 2 3 (by decide)).trans
    (app_self (n := 19) (m := 3) (d ++ a.bits ++ m.sz ++ m.ord) m.sco))))

theorem fmtM_hint (h : Hdr) (g : BitVec 4) (f : BitVec 6) (d : BitVec 7) (a : Opnd) (m : M4) : (mkWord h g f (fmtM d a m)).extractLsb' 25 2 = m.hint :=
  (mkWord_body h g f (fmtM d a m) 25 2 (by decide)).trans
    ((app_hi (n := 25) (m := 24) (d ++ a.bits ++ m.sz ++ m.ord ++ m.sco ++ m.hint ++ (BitVec.ofBool m.x)) m.off 25 2 (by decide)).trans
    ((app_hi (n := 24) (m := 1) (d ++ a.bits ++ m.sz ++ m.ord ++ m.sco ++ m.hint) (BitVec.ofBool m.x) 1 2 (by decide)).trans
    (app_self (n := 22) (m := 2) (d ++ a.bits ++ m.sz ++ m.ord ++ m.sco) m.hint)))

theorem fmtM_x (h : Hdr) (g : BitVec 4) (f : BitVec 6) (d : BitVec 7) (a : Opnd) (m : M4) : (mkWord h g f (fmtM d a m)).extractLsb' 24 1 = (BitVec.ofBool m.x) :=
  (mkWord_body h g f (fmtM d a m) 24 1 (by decide)).trans
    ((app_hi (n := 25) (m := 24) (d ++ a.bits ++ m.sz ++ m.ord ++ m.sco ++ m.hint ++ (BitVec.ofBool m.x)) m.off 24 1 (by decide)).trans
    (app_self (n := 24) (m := 1) (d ++ a.bits ++ m.sz ++ m.ord ++ m.sco ++ m.hint) (BitVec.ofBool m.x)))

theorem fmtM_x_bit (h : Hdr) (g : BitVec 4) (f : BitVec 6) (d : BitVec 7) (a : Opnd) (m : M4) : (mkWord h g f (fmtM d a m)).getLsbD 24 = m.x :=
  bit_ext _ _ _ (fmtM_x h g f d a m)

theorem fmtM_off (h : Hdr) (g : BitVec 4) (f : BitVec 6) (d : BitVec 7) (a : Opnd) (m : M4) : (mkWord h g f (fmtM d a m)).extractLsb' 0 24 = m.off :=
  (mkWord_body h g f (fmtM d a m) 0 24 (by decide)).trans
    (app_self (n := 25) (m := 24) (d ++ a.bits ++ m.sz ++ m.ord ++ m.sco ++ m.hint ++ (BitVec.ofBool m.x)) m.off)

theorem decM4_mkWord (h : Hdr) (g : BitVec 4) (f : BitVec 6) (d : BitVec 7) (a : Opnd) (m : M4) : decM4 (mkWord h g f (fmtM d a m)) = m := by
  simp only [decM4, fmtM_sz, fmtM_ord, fmtM_sco, fmtM_hint, fmtM_x_bit, fmtM_off]

theorem fmtT_rnd (h : Hdr) (g : BitVec 4) (f : BitVec 6) (ta oa ob : BitVec 3) (s1 s2 : Opnd) (z : BitVec 6) (fmt : BitVec 4) (m : M8) : (mkWord h g f (fmtT ta oa ob s1 s2 z fmt m)).extractLsb' 13 3 = m.rnd :=
  (mkWord_body h g f (fmtT ta oa ob s1 s2 z fmt m) 13 3 (by decide)).trans
    ((app_hi (n := 39) (m := 10) (ta ++ oa ++ ob ++ s1.bits ++ s2.bits ++ z ++ fmt ++ m.rnd ++ (BitVec.ofBool m.sc) ++ m.blk) (0 : BitVec 10) 13 3 (by decide)).trans
    ((app_hi (n := 37) (m := 2) (ta ++ oa ++ ob ++ s1.bits ++ s2.bits ++ z ++ fmt ++ m.rnd ++ (BitVec.ofBool m.sc)) m.blk 3 3 (by decide)).trans
    ((app_hi (n := 36) (m := 1) (ta ++ oa ++ ob ++ s1.bits ++ s2.bits ++ z ++ fmt ++ m.rnd) (BitVec.ofBool m.sc) 1 3 (by decide)).trans
    (app_self (n := 33) (m := 3) (ta ++ oa ++ ob ++ s1.bits ++ s2.bits ++ z ++ fmt) m.rnd))))

theorem fmtT_sc (h : Hdr) (g : BitVec 4) (f : BitVec 6) (ta oa ob : BitVec 3) (s1 s2 : Opnd) (z : BitVec 6) (fmt : BitVec 4) (m : M8) : (mkWord h g f (fmtT ta oa ob s1 s2 z fmt m)).extractLsb' 12 1 = (BitVec.ofBool m.sc) :=
  (mkWord_body h g f (fmtT ta oa ob s1 s2 z fmt m) 12 1 (by decide)).trans
    ((app_hi (n := 39) (m := 10) (ta ++ oa ++ ob ++ s1.bits ++ s2.bits ++ z ++ fmt ++ m.rnd ++ (BitVec.ofBool m.sc) ++ m.blk) (0 : BitVec 10) 12 1 (by decide)).trans
    ((app_hi (n := 37) (m := 2) (ta ++ oa ++ ob ++ s1.bits ++ s2.bits ++ z ++ fmt ++ m.rnd ++ (BitVec.ofBool m.sc)) m.blk 2 1 (by decide)).trans
    (app_self (n := 36) (m := 1) (ta ++ oa ++ ob ++ s1.bits ++ s2.bits ++ z ++ fmt ++ m.rnd) (BitVec.ofBool m.sc))))

theorem fmtT_sc_bit (h : Hdr) (g : BitVec 4) (f : BitVec 6) (ta oa ob : BitVec 3) (s1 s2 : Opnd) (z : BitVec 6) (fmt : BitVec 4) (m : M8) : (mkWord h g f (fmtT ta oa ob s1 s2 z fmt m)).getLsbD 12 = m.sc :=
  bit_ext _ _ _ (fmtT_sc h g f ta oa ob s1 s2 z fmt m)

theorem fmtT_blk (h : Hdr) (g : BitVec 4) (f : BitVec 6) (ta oa ob : BitVec 3) (s1 s2 : Opnd) (z : BitVec 6) (fmt : BitVec 4) (m : M8) : (mkWord h g f (fmtT ta oa ob s1 s2 z fmt m)).extractLsb' 10 2 = m.blk :=
  (mkWord_body h g f (fmtT ta oa ob s1 s2 z fmt m) 10 2 (by decide)).trans
    ((app_hi (n := 39) (m := 10) (ta ++ oa ++ ob ++ s1.bits ++ s2.bits ++ z ++ fmt ++ m.rnd ++ (BitVec.ofBool m.sc) ++ m.blk) (0 : BitVec 10) 10 2 (by decide)).trans
    (app_self (n := 37) (m := 2) (ta ++ oa ++ ob ++ s1.bits ++ s2.bits ++ z ++ fmt ++ m.rnd ++ (BitVec.ofBool m.sc)) m.blk))

theorem decM8_mkWord (h : Hdr) (g : BitVec 4) (f : BitVec 6) (ta oa ob : BitVec 3) (s1 s2 : Opnd) (z : BitVec 6) (fmt : BitVec 4) (m : M8) : decM8 (mkWord h g f (fmtT ta oa ob s1 s2 z fmt m)) = m := by
  simp only [decM8, fmtT_rnd, fmtT_sc_bit, fmtT_blk]

/-- MOD of group 0xA. -/
theorem encRes_bit (h : Hdr) (g : BitVec 4) (f : BitVec 6) (d a b : Opnd) (r : Bool) :
    (mkWord h g f (fmtR d a b (encRes r))).getLsbD 0 = r := by
  have e := ext_ext (mkWord h g f (fmtR d a b (encRes r))) 0 28 0 1 (by decide)
  rw [fmtR_m, Nat.zero_add] at e
  exact bit_ext _ _ _ (e.symm.trans (app_self (n := 27) (m := 1) (0 : BitVec 27) (BitVec.ofBool r)))

theorem fmtM_d7_opnd (h : Hdr) (g : BitVec 4) (f : BitVec 6) (d a : Opnd) (m : M4) :
    opnd (mkWord h g f (fmtM d.bits a m)) 42 = d :=
  opnd_of _ _ _ (fmtM_d h g f d.bits a m)

/-- The kinds of `fence` (R171). -/
theorem fmtM_kinds (h : Hdr) (g : BitVec 4) (f : BitVec 6) (k : BitVec 4) (a : Opnd) (m : M4) :
    (mkWord h g f (fmtM (k.zeroExtend 7) a m)).extractLsb' 42 4 = k := by
  have e := ext_ext (mkWord h g f (fmtM (k.zeroExtend 7) a m)) 42 7 0 4 (by decide)
  rw [fmtM_d] at e
  refine e.symm.trans ?_
  apply BitVec.eq_of_getLsbD_eq
  intro i hi
  have h7 : i < 7 := by omega
  simp only [BitVec.getLsbD_extractLsb', BitVec.getLsbD_setWidth, hi, h7, Nat.zero_add, decide_true, Bool.true_and]

/-- The code of `trap` and `brk` (R163). -/
theorem fmtB_code (h : Hdr) (g : BitVec 4) (f : BitVec 6) (c : BitVec 16) (a : Opnd) (k : BitVec 2) :
    (mkWord h g f (fmtB a k (c.zeroExtend 40))).extractLsb' 0 16 = c := by
  have e := ext_ext (mkWord h g f (fmtB a k (c.zeroExtend 40))) 0 40 0 16 (by decide)
  rw [fmtB_off] at e
  refine e.symm.trans ?_
  apply BitVec.eq_of_getLsbD_eq
  intro i hi
  have h40 : i < 40 := by omega
  simp only [BitVec.getLsbD_extractLsb', BitVec.getLsbD_setWidth, hi, h40, Nat.zero_add, decide_true, Bool.true_and]

/-! ### Bytecode words (R282) -/

theorem tw_op (op a b c : BitVec 8) : (tw op a b c).extractLsb' 24 8 = op :=
  ((app_hi (n := 24) (m := 8) (op ++ a ++ b) c 24 8 (by decide)).trans
    ((app_hi (n := 16) (m := 8) (op ++ a) b 16 8 (by decide)).trans
    ((app_hi (n := 8) (m := 8) (op) a 8 8 (by decide)).trans
    BitVec.extractLsb'_eq_self)))

theorem tw_a (op a b c : BitVec 8) : (tw op a b c).extractLsb' 16 8 = a :=
  ((app_hi (n := 24) (m := 8) (op ++ a ++ b) c 16 8 (by decide)).trans
    ((app_hi (n := 16) (m := 8) (op ++ a) b 8 8 (by decide)).trans
    (app_self (n := 8) (m := 8) (op) a)))

theorem tw_b (op a b c : BitVec 8) : (tw op a b c).extractLsb' 8 8 = b :=
  ((app_hi (n := 24) (m := 8) (op ++ a ++ b) c 8 8 (by decide)).trans
    (app_self (n := 16) (m := 8) (op ++ a) b))

theorem tw_c (op a b c : BitVec 8) : (tw op a b c).extractLsb' 0 8 = c :=
  (app_self (n := 24) (m := 8) (op ++ a ++ b) c)

theorem twk_op (op a : BitVec 8) (k : BitVec 16) : (twk op a k).extractLsb' 24 8 = op :=
  ((app_hi (n := 16) (m := 16) (op ++ a) k 24 8 (by decide)).trans
    ((app_hi (n := 8) (m := 8) (op) a 8 8 (by decide)).trans
    BitVec.extractLsb'_eq_self))

theorem twk_a (op a : BitVec 8) (k : BitVec 16) : (twk op a k).extractLsb' 16 8 = a :=
  ((app_hi (n := 16) (m := 16) (op ++ a) k 16 8 (by decide)).trans
    (app_self (n := 8) (m := 8) (op) a))

theorem twk_k (op a : BitVec 8) (k : BitVec 16) : (twk op a k).extractLsb' 0 16 = k :=
  (app_self (n := 16) (m := 16) (op ++ a) k)

theorem two_op (op : BitVec 8) (o : BitVec 24) : (two op o).extractLsb' 24 8 = op :=
  ((app_hi (n := 8) (m := 24) (op) o 24 8 (by decide)).trans
    BitVec.extractLsb'_eq_self)

theorem two_o (op : BitVec 8) (o : BitVec 24) : (two op o).extractLsb' 0 24 = o :=
  (app_self (n := 8) (m := 24) (op) o)

theorem tw2_op (op : BitVec 8) (ic : BitVec 16) : (tw2 op ic).extractLsb' 16 8 = op :=
  ((app_hi (n := 16) (m := 16) ((0 : BitVec 8) ++ op) ic 16 8 (by decide)).trans
    (app_self (n := 8) (m := 8) ((0 : BitVec 8)) op))

theorem tw2_ic (op : BitVec 8) (ic : BitVec 16) : (tw2 op ic).extractLsb' 0 16 = ic :=
  (app_self (n := 16) (m := 16) ((0 : BitVec 8) ++ op) ic)

end Sys2Proof
end

