-- ==== Sys2Proof/Laws/PerInstr.lean ====
section
/-! SUPPORT. Decoding the encoding of a well-formed instruction gives it back, one lemma for each constructor. -/

namespace Sys2Proof.Laws.Encoding

open Sys2Proof

/-- A well-formed instruction is read back from its words: a one-word bytecode whatever follows it. -/
def Statement (i : Instr) : Prop :=
  i.wf = true →
    match encode i with
    | .native w => decodeNative w = .ok i
    | .byte1 w => ∀ v, decodeTephra w v = .ok i
    | .byte2 w v => decodeTephra w v = .ok i
    | .event => True

theorem of_native {i : Instr} {w : Word} (he : encode i = .native w) (hc : i.wf = true → candidate w = some i) :
    Statement i := by
  intro hw
  rw [he]
  simp only [decodeNative, accept, hc hw, he, hw, if_true]

theorem of_byte1 {i : Instr} {w : Lane} (he : encode i = .byte1 w) (hb : icBearing w = false)
    (hc : ∀ v, candidateT w v = some i) : Statement i := by
  intro hw
  rw [he]
  intro v
  simp only [decodeTephra, accept, hb, hc v, he, hw, if_true, Bool.false_eq_true, if_false]

theorem of_byte2 {i : Instr} {w v : Lane} (he : encode i = .byte2 w v) (hb : icBearing w = true)
    (hc : candidateT w v = some i) : Statement i := by
  intro hw
  rw [he]
  simp only [decodeTephra, accept, hb, hc, he, hw, if_true]

theorem of_event {i : Instr} (he : encode i = .event) : Statement i := by
  intro _
  rw [he]
  trivial

theorem ic_of {w : Lane} {op : BitVec 8} {b : Bool} (h : w.extractLsb' 24 8 = op)
    (hb : decide (op.toNat ∈ [0x05, 0x06, 0x07, 0x08, 0x0B, 0x0C, 0x0D, 0x11, 0x12]) = b) : icBearing w = b := by
  rw [icBearing, h, hb]

theorem add (h : Hdr) (d : Opnd) (a : Opnd) (b : Opnd) (m : M0) : Statement (.add h d a b m) :=
  of_native rfl (fun _ => by
    unfold candidate
    rw [mkWord_grp, mkWord_fn]
    change some (Instr.add (hdr _) (opnd _ 42) (opnd _ 35) (opnd _ 28) (decM0 _)) = _
    rw [hdr_mkWord, fmtR_d_opnd, fmtR_a_opnd, fmtR_b_opnd, decM0_mkWord])

theorem sub (h : Hdr) (d : Opnd) (a : Opnd) (b : Opnd) (m : M0) : Statement (.sub h d a b m) :=
  of_native rfl (fun _ => by
    unfold candidate
    rw [mkWord_grp, mkWord_fn]
    change some (Instr.sub (hdr _) (opnd _ 42) (opnd _ 35) (opnd _ 28) (decM0 _)) = _
    rw [hdr_mkWord, fmtR_d_opnd, fmtR_a_opnd, fmtR_b_opnd, decM0_mkWord])

theorem mul (h : Hdr) (d : Opnd) (a : Opnd) (b : Opnd) (m : M0) : Statement (.mul h d a b m) :=
  of_native rfl (fun _ => by
    unfold candidate
    rw [mkWord_grp, mkWord_fn]
    change some (Instr.mul (hdr _) (opnd _ 42) (opnd _ 35) (opnd _ 28) (decM0 _)) = _
    rw [hdr_mkWord, fmtR_d_opnd, fmtR_a_opnd, fmtR_b_opnd, decM0_mkWord])

theorem mulh (h : Hdr) (d : Opnd) (a : Opnd) (b : Opnd) (m : M0) : Statement (.mulh h d a b m) :=
  of_native rfl (fun _ => by
    unfold candidate
    rw [mkWord_grp, mkWord_fn]
    change some (Instr.mulh (hdr _) (opnd _ 42) (opnd _ 35) (opnd _ 28) (decM0 _)) = _
    rw [hdr_mkWord, fmtR_d_opnd, fmtR_a_opnd, fmtR_b_opnd, decM0_mkWord])

theorem div (h : Hdr) (d : Opnd) (a : Opnd) (b : Opnd) (m : M0) : Statement (.div h d a b m) :=
  of_native rfl (fun _ => by
    unfold candidate
    rw [mkWord_grp, mkWord_fn]
    change some (Instr.div (hdr _) (opnd _ 42) (opnd _ 35) (opnd _ 28) (decM0 _)) = _
    rw [hdr_mkWord, fmtR_d_opnd, fmtR_a_opnd, fmtR_b_opnd, decM0_mkWord])

theorem rem (h : Hdr) (d : Opnd) (a : Opnd) (b : Opnd) (m : M0) : Statement (.rem h d a b m) :=
  of_native rfl (fun _ => by
    unfold candidate
    rw [mkWord_grp, mkWord_fn]
    change some (Instr.rem (hdr _) (opnd _ 42) (opnd _ 35) (opnd _ 28) (decM0 _)) = _
    rw [hdr_mkWord, fmtR_d_opnd, fmtR_a_opnd, fmtR_b_opnd, decM0_mkWord])

theorem and (h : Hdr) (d : Opnd) (a : Opnd) (b : Opnd) (m : M0) : Statement (.and h d a b m) :=
  of_native rfl (fun _ => by
    unfold candidate
    rw [mkWord_grp, mkWord_fn]
    change some (Instr.and (hdr _) (opnd _ 42) (opnd _ 35) (opnd _ 28) (decM0 _)) = _
    rw [hdr_mkWord, fmtR_d_opnd, fmtR_a_opnd, fmtR_b_opnd, decM0_mkWord])

theorem or (h : Hdr) (d : Opnd) (a : Opnd) (b : Opnd) (m : M0) : Statement (.or h d a b m) :=
  of_native rfl (fun _ => by
    unfold candidate
    rw [mkWord_grp, mkWord_fn]
    change some (Instr.or (hdr _) (opnd _ 42) (opnd _ 35) (opnd _ 28) (decM0 _)) = _
    rw [hdr_mkWord, fmtR_d_opnd, fmtR_a_opnd, fmtR_b_opnd, decM0_mkWord])

theorem xor (h : Hdr) (d : Opnd) (a : Opnd) (b : Opnd) (m : M0) : Statement (.xor h d a b m) :=
  of_native rfl (fun _ => by
    unfold candidate
    rw [mkWord_grp, mkWord_fn]
    change some (Instr.xor (hdr _) (opnd _ 42) (opnd _ 35) (opnd _ 28) (decM0 _)) = _
    rw [hdr_mkWord, fmtR_d_opnd, fmtR_a_opnd, fmtR_b_opnd, decM0_mkWord])

theorem andn (h : Hdr) (d : Opnd) (a : Opnd) (b : Opnd) (m : M0) : Statement (.andn h d a b m) :=
  of_native rfl (fun _ => by
    unfold candidate
    rw [mkWord_grp, mkWord_fn]
    change some (Instr.andn (hdr _) (opnd _ 42) (opnd _ 35) (opnd _ 28) (decM0 _)) = _
    rw [hdr_mkWord, fmtR_d_opnd, fmtR_a_opnd, fmtR_b_opnd, decM0_mkWord])

theorem shl (h : Hdr) (d : Opnd) (a : Opnd) (b : Opnd) (m : M0) : Statement (.shl h d a b m) :=
  of_native rfl (fun _ => by
    unfold candidate
    rw [mkWord_grp, mkWord_fn]
    change some (Instr.shl (hdr _) (opnd _ 42) (opnd _ 35) (opnd _ 28) (decM0 _)) = _
    rw [hdr_mkWord, fmtR_d_opnd, fmtR_a_opnd, fmtR_b_opnd, decM0_mkWord])

theorem shr (h : Hdr) (d : Opnd) (a : Opnd) (b : Opnd) (m : M0) : Statement (.shr h d a b m) :=
  of_native rfl (fun _ => by
    unfold candidate
    rw [mkWord_grp, mkWord_fn]
    change some (Instr.shr (hdr _) (opnd _ 42) (opnd _ 35) (opnd _ 28) (decM0 _)) = _
    rw [hdr_mkWord, fmtR_d_opnd, fmtR_a_opnd, fmtR_b_opnd, decM0_mkWord])

theorem sra (h : Hdr) (d : Opnd) (a : Opnd) (b : Opnd) (m : M0) : Statement (.sra h d a b m) :=
  of_native rfl (fun _ => by
    unfold candidate
    rw [mkWord_grp, mkWord_fn]
    change some (Instr.sra (hdr _) (opnd _ 42) (opnd _ 35) (opnd _ 28) (decM0 _)) = _
    rw [hdr_mkWord, fmtR_d_opnd, fmtR_a_opnd, fmtR_b_opnd, decM0_mkWord])

theorem rot (h : Hdr) (d : Opnd) (a : Opnd) (b : Opnd) (m : M0) : Statement (.rot h d a b m) :=
  of_native rfl (fun _ => by
    unfold candidate
    rw [mkWord_grp, mkWord_fn]
    change some (Instr.rot (hdr _) (opnd _ 42) (opnd _ 35) (opnd _ 28) (decM0 _)) = _
    rw [hdr_mkWord, fmtR_d_opnd, fmtR_a_opnd, fmtR_b_opnd, decM0_mkWord])

theorem min (h : Hdr) (d : Opnd) (a : Opnd) (b : Opnd) (m : M0) : Statement (.min h d a b m) :=
  of_native rfl (fun _ => by
    unfold candidate
    rw [mkWord_grp, mkWord_fn]
    change some (Instr.min (hdr _) (opnd _ 42) (opnd _ 35) (opnd _ 28) (decM0 _)) = _
    rw [hdr_mkWord, fmtR_d_opnd, fmtR_a_opnd, fmtR_b_opnd, decM0_mkWord])

theorem max (h : Hdr) (d : Opnd) (a : Opnd) (b : Opnd) (m : M0) : Statement (.max h d a b m) :=
  of_native rfl (fun _ => by
    unfold candidate
    rw [mkWord_grp, mkWord_fn]
    change some (Instr.max (hdr _) (opnd _ 42) (opnd _ 35) (opnd _ 28) (decM0 _)) = _
    rw [hdr_mkWord, fmtR_d_opnd, fmtR_a_opnd, fmtR_b_opnd, decM0_mkWord])

theorem clz (h : Hdr) (d : Opnd) (a : Opnd) (m : M0) : Statement (.clz h d a m) :=
  of_native rfl (fun _ => by
    unfold candidate
    rw [mkWord_grp, mkWord_fn]
    change some (Instr.clz (hdr _) (opnd _ 42) (opnd _ 35) (decM0 _)) = _
    rw [hdr_mkWord, fmtR_d_opnd, fmtR_a_opnd, decM0_mkWord])

theorem ctz (h : Hdr) (d : Opnd) (a : Opnd) (m : M0) : Statement (.ctz h d a m) :=
  of_native rfl (fun _ => by
    unfold candidate
    rw [mkWord_grp, mkWord_fn]
    change some (Instr.ctz (hdr _) (opnd _ 42) (opnd _ 35) (decM0 _)) = _
    rw [hdr_mkWord, fmtR_d_opnd, fmtR_a_opnd, decM0_mkWord])

theorem popc (h : Hdr) (d : Opnd) (a : Opnd) (m : M0) : Statement (.popc h d a m) :=
  of_native rfl (fun _ => by
    unfold candidate
    rw [mkWord_grp, mkWord_fn]
    change some (Instr.popc (hdr _) (opnd _ 42) (opnd _ 35) (decM0 _)) = _
    rw [hdr_mkWord, fmtR_d_opnd, fmtR_a_opnd, decM0_mkWord])

theorem bswap (h : Hdr) (d : Opnd) (a : Opnd) (m : M0) : Statement (.bswap h d a m) :=
  of_native rfl (fun _ => by
    unfold candidate
    rw [mkWord_grp, mkWord_fn]
    change some (Instr.bswap (hdr _) (opnd _ 42) (opnd _ 35) (decM0 _)) = _
    rw [hdr_mkWord, fmtR_d_opnd, fmtR_a_opnd, decM0_mkWord])

theorem sel (h : Hdr) (d : Opnd) (a : Opnd) (b : Opnd) (m : M0) : Statement (.sel h d a b m) :=
  of_native rfl (fun _ => by
    unfold candidate
    rw [mkWord_grp, mkWord_fn]
    change some (Instr.sel (hdr _) (opnd _ 42) (opnd _ 35) (opnd _ 28) (decM0 _)) = _
    rw [hdr_mkWord, fmtR_d_opnd, fmtR_a_opnd, fmtR_b_opnd, decM0_mkWord])

theorem mov (h : Hdr) (d : Opnd) (a : Opnd) (m : M0) : Statement (.mov h d a m) :=
  of_native rfl (fun _ => by
    unfold candidate
    rw [mkWord_grp, mkWord_fn]
    change some (Instr.mov (hdr _) (opnd _ 42) (opnd _ 35) (decM0 _)) = _
    rw [hdr_mkWord, fmtR_d_opnd, fmtR_a_opnd, decM0_mkWord])

theorem abs (h : Hdr) (d : Opnd) (a : Opnd) (m : M0) : Statement (.abs h d a m) :=
  of_native rfl (fun _ => by
    unfold candidate
    rw [mkWord_grp, mkWord_fn]
    change some (Instr.abs (hdr _) (opnd _ 42) (opnd _ 35) (decM0 _)) = _
    rw [hdr_mkWord, fmtR_d_opnd, fmtR_a_opnd, decM0_mkWord])

theorem ext (h : Hdr) (d : Opnd) (a : Opnd) (m : M0) : Statement (.ext h d a m) :=
  of_native rfl (fun _ => by
    unfold candidate
    rw [mkWord_grp, mkWord_fn]
    change some (Instr.ext (hdr _) (opnd _ 42) (opnd _ 35) (decM0 _)) = _
    rw [hdr_mkWord, fmtR_d_opnd, fmtR_a_opnd, decM0_mkWord])

theorem ins (h : Hdr) (d : Opnd) (a : Opnd) (m : M0) : Statement (.ins h d a m) :=
  of_native rfl (fun _ => by
    unfold candidate
    rw [mkWord_grp, mkWord_fn]
    change some (Instr.ins (hdr _) (opnd _ 42) (opnd _ 35) (decM0 _)) = _
    rw [hdr_mkWord, fmtR_d_opnd, fmtR_a_opnd, decM0_mkWord])

theorem fadd (h : Hdr) (d : Opnd) (a : Opnd) (b : Opnd) (m : M0) : Statement (.fadd h d a b m) :=
  of_native rfl (fun _ => by
    unfold candidate
    rw [mkWord_grp, mkWord_fn]
    change some (Instr.fadd (hdr _) (opnd _ 42) (opnd _ 35) (opnd _ 28) (decM0 _)) = _
    rw [hdr_mkWord, fmtR_d_opnd, fmtR_a_opnd, fmtR_b_opnd, decM0_mkWord])

theorem fsub (h : Hdr) (d : Opnd) (a : Opnd) (b : Opnd) (m : M0) : Statement (.fsub h d a b m) :=
  of_native rfl (fun _ => by
    unfold candidate
    rw [mkWord_grp, mkWord_fn]
    change some (Instr.fsub (hdr _) (opnd _ 42) (opnd _ 35) (opnd _ 28) (decM0 _)) = _
    rw [hdr_mkWord, fmtR_d_opnd, fmtR_a_opnd, fmtR_b_opnd, decM0_mkWord])

theorem fmul (h : Hdr) (d : Opnd) (a : Opnd) (b : Opnd) (m : M0) : Statement (.fmul h d a b m) :=
  of_native rfl (fun _ => by
    unfold candidate
    rw [mkWord_grp, mkWord_fn]
    change some (Instr.fmul (hdr _) (opnd _ 42) (opnd _ 35) (opnd _ 28) (decM0 _)) = _
    rw [hdr_mkWord, fmtR_d_opnd, fmtR_a_opnd, fmtR_b_opnd, decM0_mkWord])

theorem ffma (h : Hdr) (d : Opnd) (a : Opnd) (b : Opnd) (m : M0) : Statement (.ffma h d a b m) :=
  of_native rfl (fun _ => by
    unfold candidate
    rw [mkWord_grp, mkWord_fn]
    change some (Instr.ffma (hdr _) (opnd _ 42) (opnd _ 35) (opnd _ 28) (decM0 _)) = _
    rw [hdr_mkWord, fmtR_d_opnd, fmtR_a_opnd, fmtR_b_opnd, decM0_mkWord])

theorem fdiv (h : Hdr) (d : Opnd) (a : Opnd) (b : Opnd) (m : M0) : Statement (.fdiv h d a b m) :=
  of_native rfl (fun _ => by
    unfold candidate
    rw [mkWord_grp, mkWord_fn]
    change some (Instr.fdiv (hdr _) (opnd _ 42) (opnd _ 35) (opnd _ 28) (decM0 _)) = _
    rw [hdr_mkWord, fmtR_d_opnd, fmtR_a_opnd, fmtR_b_opnd, decM0_mkWord])

theorem fmin (h : Hdr) (d : Opnd) (a : Opnd) (b : Opnd) (m : M0) : Statement (.fmin h d a b m) :=
  of_native rfl (fun _ => by
    unfold candidate
    rw [mkWord_grp, mkWord_fn]
    change some (Instr.fmin (hdr _) (opnd _ 42) (opnd _ 35) (opnd _ 28) (decM0 _)) = _
    rw [hdr_mkWord, fmtR_d_opnd, fmtR_a_opnd, fmtR_b_opnd, decM0_mkWord])

theorem fmax (h : Hdr) (d : Opnd) (a : Opnd) (b : Opnd) (m : M0) : Statement (.fmax h d a b m) :=
  of_native rfl (fun _ => by
    unfold candidate
    rw [mkWord_grp, mkWord_fn]
    change some (Instr.fmax (hdr _) (opnd _ 42) (opnd _ 35) (opnd _ 28) (decM0 _)) = _
    rw [hdr_mkWord, fmtR_d_opnd, fmtR_a_opnd, fmtR_b_opnd, decM0_mkWord])

theorem fcvt (h : Hdr) (d : Opnd) (a : Opnd) (m : M0) : Statement (.fcvt h d a m) :=
  of_native rfl (fun _ => by
    unfold candidate
    rw [mkWord_grp, mkWord_fn]
    change some (Instr.fcvt (hdr _) (opnd _ 42) (opnd _ 35) (decM0 _)) = _
    rw [hdr_mkWord, fmtR_d_opnd, fmtR_a_opnd, decM0_mkWord])

theorem fsqrt (h : Hdr) (d : Opnd) (a : Opnd) (m : M0) : Statement (.fsqrt h d a m) :=
  of_native rfl (fun _ => by
    unfold candidate
    rw [mkWord_grp, mkWord_fn]
    change some (Instr.fsqrt (hdr _) (opnd _ 42) (opnd _ 35) (decM0 _)) = _
    rw [hdr_mkWord, fmtR_d_opnd, fmtR_a_opnd, decM0_mkWord])

theorem addi (h : Hdr) (d : Opnd) (a : Opnd) (imm : BitVec 35) : Statement (.addi h d a imm) :=
  of_native rfl (fun _ => by
    unfold candidate
    rw [mkWord_grp, mkWord_fn]
    change some (Instr.addi (hdr _) (opnd _ 42) (opnd _ 35) (BitVec.extractLsb' 0 35 _)) = _
    rw [hdr_mkWord, fmtI_d_opnd, fmtI_a_opnd, fmtI_imm])

theorem andi (h : Hdr) (d : Opnd) (a : Opnd) (imm : BitVec 35) : Statement (.andi h d a imm) :=
  of_native rfl (fun _ => by
    unfold candidate
    rw [mkWord_grp, mkWord_fn]
    change some (Instr.andi (hdr _) (opnd _ 42) (opnd _ 35) (BitVec.extractLsb' 0 35 _)) = _
    rw [hdr_mkWord, fmtI_d_opnd, fmtI_a_opnd, fmtI_imm])

theorem ori (h : Hdr) (d : Opnd) (a : Opnd) (imm : BitVec 35) : Statement (.ori h d a imm) :=
  of_native rfl (fun _ => by
    unfold candidate
    rw [mkWord_grp, mkWord_fn]
    change some (Instr.ori (hdr _) (opnd _ 42) (opnd _ 35) (BitVec.extractLsb' 0 35 _)) = _
    rw [hdr_mkWord, fmtI_d_opnd, fmtI_a_opnd, fmtI_imm])

theorem xori (h : Hdr) (d : Opnd) (a : Opnd) (imm : BitVec 35) : Statement (.xori h d a imm) :=
  of_native rfl (fun _ => by
    unfold candidate
    rw [mkWord_grp, mkWord_fn]
    change some (Instr.xori (hdr _) (opnd _ 42) (opnd _ 35) (BitVec.extractLsb' 0 35 _)) = _
    rw [hdr_mkWord, fmtI_d_opnd, fmtI_a_opnd, fmtI_imm])

theorem shli (h : Hdr) (d : Opnd) (a : Opnd) (imm : BitVec 35) : Statement (.shli h d a imm) :=
  of_native rfl (fun _ => by
    unfold candidate
    rw [mkWord_grp, mkWord_fn]
    change some (Instr.shli (hdr _) (opnd _ 42) (opnd _ 35) (BitVec.extractLsb' 0 35 _)) = _
    rw [hdr_mkWord, fmtI_d_opnd, fmtI_a_opnd, fmtI_imm])

theorem shri (h : Hdr) (d : Opnd) (a : Opnd) (imm : BitVec 35) : Statement (.shri h d a imm) :=
  of_native rfl (fun _ => by
    unfold candidate
    rw [mkWord_grp, mkWord_fn]
    change some (Instr.shri (hdr _) (opnd _ 42) (opnd _ 35) (BitVec.extractLsb' 0 35 _)) = _
    rw [hdr_mkWord, fmtI_d_opnd, fmtI_a_opnd, fmtI_imm])

theorem srai (h : Hdr) (d : Opnd) (a : Opnd) (imm : BitVec 35) : Statement (.srai h d a imm) :=
  of_native rfl (fun _ => by
    unfold candidate
    rw [mkWord_grp, mkWord_fn]
    change some (Instr.srai (hdr _) (opnd _ 42) (opnd _ 35) (BitVec.extractLsb' 0 35 _)) = _
    rw [hdr_mkWord, fmtI_d_opnd, fmtI_a_opnd, fmtI_imm])

theorem movi (h : Hdr) (d : Opnd) (imm : BitVec 35) : Statement (.movi h d imm) :=
  of_native rfl (fun _ => by
    unfold candidate
    rw [mkWord_grp, mkWord_fn]
    change some (Instr.movi (hdr _) (opnd _ 42) (BitVec.extractLsb' 0 35 _)) = _
    rw [hdr_mkWord, fmtI_d_opnd, fmtI_imm])

theorem movh (h : Hdr) (d : Opnd) (imm : BitVec 35) : Statement (.movh h d imm) :=
  of_native rfl (fun _ => by
    unfold candidate
    rw [mkWord_grp, mkWord_fn]
    change some (Instr.movh (hdr _) (opnd _ 42) (BitVec.extractLsb' 0 35 _)) = _
    rw [hdr_mkWord, fmtI_d_opnd, fmtI_imm])

theorem muli (h : Hdr) (d : Opnd) (a : Opnd) (imm : BitVec 35) : Statement (.muli h d a imm) :=
  of_native rfl (fun _ => by
    unfold candidate
    rw [mkWord_grp, mkWord_fn]
    change some (Instr.muli (hdr _) (opnd _ 42) (opnd _ 35) (BitVec.extractLsb' 0 35 _)) = _
    rw [hdr_mkWord, fmtI_d_opnd, fmtI_a_opnd, fmtI_imm])

theorem cmp (h : Hdr) (cond : BitVec 4) (pd : BitVec 3) (a : Opnd) (b : Opnd) : Statement (.cmp h cond pd a b) :=
  of_native rfl (fun _ => by
    unfold candidate
    rw [mkWord_grp, mkWord_fn]
    change some (Instr.cmp (hdr _) (BitVec.extractLsb' 45 4 _) (BitVec.extractLsb' 42 3 _) (opnd _ 35) (opnd _ 28)) = _
    rw [hdr_mkWord, fmtC_cond, fmtC_pd, fmtC_a_opnd, fmtC_b_opnd])

theorem cmpi (h : Hdr) (cond : BitVec 4) (pd : BitVec 3) (a : Opnd) (imm : BitVec 35) : Statement (.cmpi h cond pd a imm) :=
  of_native rfl (fun _ => by
    unfold candidate
    rw [mkWord_grp, mkWord_fn]
    change some (Instr.cmpi (hdr _) (BitVec.extractLsb' 45 4 _) (BitVec.extractLsb' 42 3 _) (opnd _ 35) (BitVec.extractLsb' 0 35 _)) = _
    rw [hdr_mkWord, fmtCI_cond, fmtCI_pd, fmtCI_a_opnd, fmtCI_imm])

theorem pand (h : Hdr) (pd : PDst) (pa : BitVec 3) (pb : BitVec 3) : Statement (.pand h pd pa pb) :=
  of_native rfl (fun _ => by
    unfold candidate
    rw [mkWord_grp, mkWord_fn]
    change some (Instr.pand (hdr _) (pdst _) (BitVec.extractLsb' 35 3 _) (BitVec.extractLsb' 28 3 _)) = _
    rw [hdr_mkWord, fmtP_pdst, fmtP_pa, fmtP_pb])

theorem por (h : Hdr) (pd : PDst) (pa : BitVec 3) (pb : BitVec 3) : Statement (.por h pd pa pb) :=
  of_native rfl (fun _ => by
    unfold candidate
    rw [mkWord_grp, mkWord_fn]
    change some (Instr.por (hdr _) (pdst _) (BitVec.extractLsb' 35 3 _) (BitVec.extractLsb' 28 3 _)) = _
    rw [hdr_mkWord, fmtP_pdst, fmtP_pa, fmtP_pb])

theorem pxor (h : Hdr) (pd : PDst) (pa : BitVec 3) (pb : BitVec 3) : Statement (.pxor h pd pa pb) :=
  of_native rfl (fun _ => by
    unfold candidate
    rw [mkWord_grp, mkWord_fn]
    change some (Instr.pxor (hdr _) (pdst _) (BitVec.extractLsb' 35 3 _) (BitVec.extractLsb' 28 3 _)) = _
    rw [hdr_mkWord, fmtP_pdst, fmtP_pa, fmtP_pb])

theorem pnot (h : Hdr) (pd : PDst) (pa : BitVec 3) : Statement (.pnot h pd pa) :=
  of_native rfl (fun _ => by
    unfold candidate
    rw [mkWord_grp, mkWord_fn]
    change some (Instr.pnot (hdr _) (pdst _) (BitVec.extractLsb' 35 3 _)) = _
    rw [hdr_mkWord, fmtP_pdst, fmtP_pa])

theorem pmov (h : Hdr) (pd : PDst) (pa : BitVec 3) : Statement (.pmov h pd pa) :=
  of_native rfl (fun _ => by
    unfold candidate
    rw [mkWord_grp, mkWord_fn]
    change some (Instr.pmov (hdr _) (pdst _) (BitVec.extractLsb' 35 3 _)) = _
    rw [hdr_mkWord, fmtP_pdst, fmtP_pa])

theorem fcmp (h : Hdr) (cond : BitVec 4) (pd : BitVec 3) (a : Opnd) (b : Opnd) : Statement (.fcmp h cond pd a b) :=
  of_native rfl (fun _ => by
    unfold candidate
    rw [mkWord_grp, mkWord_fn]
    change some (Instr.fcmp (hdr _) (BitVec.extractLsb' 45 4 _) (BitVec.extractLsb' 42 3 _) (opnd _ 35) (opnd _ 28)) = _
    rw [hdr_mkWord, fmtC_cond, fmtC_pd, fmtC_a_opnd, fmtC_b_opnd])

theorem br (h : Hdr) (a : Opnd) (kind : BitVec 2) (off : BitVec 40) : Statement (.br h a kind off) :=
  of_native rfl (fun _ => by
    unfold candidate
    rw [mkWord_grp, mkWord_fn]
    change some (Instr.br (hdr _) (opnd _ 42) (BitVec.extractLsb' 40 2 _) (BitVec.extractLsb' 0 40 _)) = _
    rw [hdr_mkWord, fmtB_a_opnd, fmtB_kind, fmtB_off])

theorem jmp (h : Hdr) (a : Opnd) (kind : BitVec 2) (off : BitVec 40) : Statement (.jmp h a kind off) :=
  of_native rfl (fun _ => by
    unfold candidate
    rw [mkWord_grp, mkWord_fn]
    change some (Instr.jmp (hdr _) (opnd _ 42) (BitVec.extractLsb' 40 2 _) (BitVec.extractLsb' 0 40 _)) = _
    rw [hdr_mkWord, fmtB_a_opnd, fmtB_kind, fmtB_off])

theorem call (h : Hdr) (kind : BitVec 2) (off : BitVec 40) : Statement (.call h kind off) :=
  of_native rfl (fun _ => by
    unfold candidate
    rw [mkWord_grp, mkWord_fn]
    change some (Instr.call (hdr _) (BitVec.extractLsb' 40 2 _) (BitVec.extractLsb' 0 40 _)) = _
    rw [hdr_mkWord, fmtB_kind, fmtB_off])

theorem callr (h : Hdr) (a : Opnd) (kind : BitVec 2) (off : BitVec 40) : Statement (.callr h a kind off) :=
  of_native rfl (fun _ => by
    unfold candidate
    rw [mkWord_grp, mkWord_fn]
    change some (Instr.callr (hdr _) (opnd _ 42) (BitVec.extractLsb' 40 2 _) (BitVec.extractLsb' 0 40 _)) = _
    rw [hdr_mkWord, fmtB_a_opnd, fmtB_kind, fmtB_off])

theorem ret (h : Hdr) (kind : BitVec 2) : Statement (.ret h kind) :=
  of_native rfl (fun _ => by
    unfold candidate
    rw [mkWord_grp, mkWord_fn]
    change some (Instr.ret (hdr _) (BitVec.extractLsb' 40 2 _)) = _
    rw [hdr_mkWord, fmtB_kind])

theorem loop (h : Hdr) (a : Opnd) (kind : BitVec 2) (off : BitVec 40) : Statement (.loop h a kind off) :=
  of_native rfl (fun _ => by
    unfold candidate
    rw [mkWord_grp, mkWord_fn]
    change some (Instr.loop (hdr _) (opnd _ 42) (BitVec.extractLsb' 40 2 _) (BitVec.extractLsb' 0 40 _)) = _
    rw [hdr_mkWord, fmtB_a_opnd, fmtB_kind, fmtB_off])

theorem trap (h : Hdr) (kind : BitVec 2) (code : BitVec 16) : Statement (.trap h kind code) :=
  of_native rfl (fun hw => by
    unfold candidate
    rw [mkWord_grp, mkWord_fn]
    change some (if 4096 ≤ (BitVec.extractLsb' 0 16 _).toNat then
      Instr.trap (hdr _) (BitVec.extractLsb' 40 2 _) (BitVec.extractLsb' 0 16 _)
      else Instr.gatedServiceCall (hdr _) (BitVec.extractLsb' 40 2 _) (BitVec.extractLsb' 0 16 _)) = _
    rw [hdr_mkWord, fmtB_kind, fmtB_code, if_pos (by simpa [Instr.wf] using hw)])

theorem gatedServiceCall (h : Hdr) (kind : BitVec 2) (code : BitVec 16) : Statement (.gatedServiceCall h kind code) :=
  of_native rfl (fun hw => by
    unfold candidate
    rw [mkWord_grp, mkWord_fn]
    change some (if 4096 ≤ (BitVec.extractLsb' 0 16 _).toNat then
      Instr.trap (hdr _) (BitVec.extractLsb' 40 2 _) (BitVec.extractLsb' 0 16 _)
      else Instr.gatedServiceCall (hdr _) (BitVec.extractLsb' 40 2 _) (BitVec.extractLsb' 0 16 _)) = _
    rw [hdr_mkWord, fmtB_kind, fmtB_code, if_neg (by simpa [Instr.wf] using hw)])

theorem brk (h : Hdr) (kind : BitVec 2) (code : BitVec 16) : Statement (.brk h kind code) :=
  of_native rfl (fun _ => by
    unfold candidate
    rw [mkWord_grp, mkWord_fn]
    change some (Instr.brk (hdr _) (BitVec.extractLsb' 40 2 _) (BitVec.extractLsb' 0 16 _)) = _
    rw [hdr_mkWord, fmtB_kind, fmtB_code])

theorem nop (h : Hdr) (kind : BitVec 2) : Statement (.nop h kind) :=
  of_native rfl (fun _ => by
    unfold candidate
    rw [mkWord_grp, mkWord_fn]
    change some (Instr.nop (hdr _) (BitVec.extractLsb' 40 2 _)) = _
    rw [hdr_mkWord, fmtB_kind])

theorem exit (h : Hdr) (kind : BitVec 2) : Statement (.exit h kind) :=
  of_native rfl (fun _ => by
    unfold candidate
    rw [mkWord_grp, mkWord_fn]
    change some (Instr.exit (hdr _) (BitVec.extractLsb' 40 2 _)) = _
    rw [hdr_mkWord, fmtB_kind])

theorem uret (h : Hdr) (kind : BitVec 2) : Statement (.uret h kind) :=
  of_native rfl (fun _ => by
    unfold candidate
    rw [mkWord_grp, mkWord_fn]
    change some (Instr.uret (hdr _) (BitVec.extractLsb' 40 2 _)) = _
    rw [hdr_mkWord, fmtB_kind])

theorem ld (h : Hdr) (d : Opnd) (a : Opnd) (m : M4) : Statement (.ld h d a m) :=
  of_native rfl (fun _ => by
    unfold candidate
    rw [mkWord_grp, mkWord_fn]
    change some (Instr.ld (hdr _) (opnd _ 42) (opnd _ 35) (decM4 _)) = _
    rw [hdr_mkWord, fmtM_d7_opnd, fmtM_a_opnd, decM4_mkWord])

theorem st (h : Hdr) (d : Opnd) (a : Opnd) (m : M4) : Statement (.st h d a m) :=
  of_native rfl (fun _ => by
    unfold candidate
    rw [mkWord_grp, mkWord_fn]
    change some (Instr.st (hdr _) (opnd _ 42) (opnd _ 35) (decM4 _)) = _
    rw [hdr_mkWord, fmtM_d7_opnd, fmtM_a_opnd, decM4_mkWord])

theorem pf (h : Hdr) (a : Opnd) (m : M4) : Statement (.pf h a m) :=
  of_native rfl (fun _ => by
    unfold candidate
    rw [mkWord_grp, mkWord_fn]
    change some (Instr.pf (hdr _) (opnd _ 35) (decM4 _)) = _
    rw [hdr_mkWord, fmtM_a_opnd, decM4_mkWord])

theorem fence (h : Hdr) (kinds : BitVec 4) (m : M4) : Statement (.fence h kinds m) :=
  of_native rfl (fun _ => by
    unfold candidate
    rw [mkWord_grp, mkWord_fn]
    change some (Instr.fence (hdr _) (BitVec.extractLsb' 42 4 _) (decM4 _)) = _
    rw [hdr_mkWord, fmtM_kinds, decM4_mkWord])

theorem ifence (h : Hdr) (m : M4) : Statement (.ifence h m) :=
  of_native rfl (fun _ => by
    unfold candidate
    rw [mkWord_grp, mkWord_fn]
    change some (Instr.ifence (hdr _) (decM4 _)) = _
    rw [hdr_mkWord, decM4_mkWord])

theorem icsync (h : Hdr) (m : M4) : Statement (.icsync h m) :=
  of_native rfl (fun _ => by
    unfold candidate
    rw [mkWord_grp, mkWord_fn]
    change some (Instr.icsync (hdr _) (decM4 _)) = _
    rw [hdr_mkWord, decM4_mkWord])

theorem atom (h : Hdr) (d : Opnd) (a : Opnd) (b : Opnd) (m : M5) : Statement (.atom h d a b m) :=
  of_native rfl (fun _ => by
    unfold candidate
    rw [mkWord_grp, mkWord_fn]
    change some (Instr.atom (hdr _) (opnd _ 42) (opnd _ 35) (opnd _ 28) (decM5 _)) = _
    rw [hdr_mkWord, fmtR_d_opnd, fmtR_a_opnd, fmtR_b_opnd, decM5_mkWord])

theorem ldfe (h : Hdr) (d : Opnd) (a : Opnd) (m : M5) : Statement (.ldfe h d a m) :=
  of_native rfl (fun _ => by
    unfold candidate
    rw [mkWord_grp, mkWord_fn]
    change some (Instr.ldfe (hdr _) (opnd _ 42) (opnd _ 35) (decM5 _)) = _
    rw [hdr_mkWord, fmtR_d_opnd, fmtR_a_opnd, decM5_mkWord])

theorem stfe (h : Hdr) (a : Opnd) (b : Opnd) (m : M5) : Statement (.stfe h a b m) :=
  of_native rfl (fun _ => by
    unfold candidate
    rw [mkWord_grp, mkWord_fn]
    change some (Instr.stfe (hdr _) (opnd _ 35) (opnd _ 28) (decM5 _)) = _
    rw [hdr_mkWord, fmtR_a_opnd, fmtR_b_opnd, decM5_mkWord])

theorem fset (h : Hdr) (d : Opnd) (a : Opnd) (m : M5) : Statement (.fset h d a m) :=
  of_native rfl (fun _ => by
    unfold candidate
    rw [mkWord_grp, mkWord_fn]
    change some (Instr.fset (hdr _) (opnd _ 42) (opnd _ 35) (decM5 _)) = _
    rw [hdr_mkWord, fmtR_d_opnd, fmtR_a_opnd, decM5_mkWord])

theorem fget (h : Hdr) (d : Opnd) (a : Opnd) (m : M5) : Statement (.fget h d a m) :=
  of_native rfl (fun _ => by
    unfold candidate
    rw [mkWord_grp, mkWord_fn]
    change some (Instr.fget (hdr _) (opnd _ 42) (opnd _ 35) (decM5 _)) = _
    rw [hdr_mkWord, fmtR_d_opnd, fmtR_a_opnd, decM5_mkWord])

theorem waita (h : Hdr) (d : Opnd) (a : Opnd) (b : Opnd) (m : M5) : Statement (.waita h d a b m) :=
  of_native rfl (fun _ => by
    unfold candidate
    rw [mkWord_grp, mkWord_fn]
    change some (Instr.waita (hdr _) (opnd _ 42) (opnd _ 35) (opnd _ 28) (decM5 _)) = _
    rw [hdr_mkWord, fmtR_d_opnd, fmtR_a_opnd, fmtR_b_opnd, decM5_mkWord])

theorem mon (h : Hdr) (d : Opnd) (a : Opnd) (m : M5) : Statement (.mon h d a m) :=
  of_native rfl (fun _ => by
    unfold candidate
    rw [mkWord_grp, mkWord_fn]
    change some (Instr.mon (hdr _) (opnd _ 42) (opnd _ 35) (decM5 _)) = _
    rw [hdr_mkWord, fmtR_d_opnd, fmtR_a_opnd, decM5_mkWord])

theorem monrel (h : Hdr) (a : Opnd) (b : Opnd) (m : M5) : Statement (.monrel h a b m) :=
  of_native rfl (fun _ => by
    unfold candidate
    rw [mkWord_grp, mkWord_fn]
    change some (Instr.monrel (hdr _) (opnd _ 35) (opnd _ 28) (decM5 _)) = _
    rw [hdr_mkWord, fmtR_a_opnd, fmtR_b_opnd, decM5_mkWord])

theorem time (h : Hdr) (d : Opnd) (m : M5) : Statement (.time h d m) :=
  of_native rfl (fun _ => by
    unfold candidate
    rw [mkWord_grp, mkWord_fn]
    change some (Instr.time (hdr _) (opnd _ 42) (decM5 _)) = _
    rw [hdr_mkWord, fmtR_d_opnd, decM5_mkWord])

theorem sleep (h : Hdr) (d : Opnd) (a : Opnd) (m : M5) : Statement (.sleep h d a m) :=
  of_native rfl (fun _ => by
    unfold candidate
    rw [mkWord_grp, mkWord_fn]
    change some (Instr.sleep (hdr _) (opnd _ 42) (opnd _ 35) (decM5 _)) = _
    rw [hdr_mkWord, fmtR_d_opnd, fmtR_a_opnd, decM5_mkWord])

theorem yield (h : Hdr) (m : M5) : Statement (.yield h m) :=
  of_native rfl (fun _ => by
    unfold candidate
    rw [mkWord_grp, mkWord_fn]
    change some (Instr.yield (hdr _) (decM5 _)) = _
    rw [hdr_mkWord, decM5_mkWord])

theorem vadd (h : Hdr) (vd : BitVec 4) (va : BitVec 4) (vb : BitVec 4) (s : Opnd) (m : M6) : Statement (.vadd h vd va vb s m) :=
  of_native rfl (fun _ => by
    unfold candidate
    rw [mkWord_grp, mkWord_fn]
    change some (Instr.vadd (hdr _) (BitVec.extractLsb' 45 4 _) (BitVec.extractLsb' 41 4 _) (BitVec.extractLsb' 37 4 _) (opnd _ 26) (decM6 _)) = _
    rw [hdr_mkWord, fmtV_vd, fmtV_va, fmtV_vb, fmtV_s_opnd, decM6_mkWord])

theorem vsub (h : Hdr) (vd : BitVec 4) (va : BitVec 4) (vb : BitVec 4) (s : Opnd) (m : M6) : Statement (.vsub h vd va vb s m) :=
  of_native rfl (fun _ => by
    unfold candidate
    rw [mkWord_grp, mkWord_fn]
    change some (Instr.vsub (hdr _) (BitVec.extractLsb' 45 4 _) (BitVec.extractLsb' 41 4 _) (BitVec.extractLsb' 37 4 _) (opnd _ 26) (decM6 _)) = _
    rw [hdr_mkWord, fmtV_vd, fmtV_va, fmtV_vb, fmtV_s_opnd, decM6_mkWord])

theorem vmul (h : Hdr) (vd : BitVec 4) (va : BitVec 4) (vb : BitVec 4) (s : Opnd) (m : M6) : Statement (.vmul h vd va vb s m) :=
  of_native rfl (fun _ => by
    unfold candidate
    rw [mkWord_grp, mkWord_fn]
    change some (Instr.vmul (hdr _) (BitVec.extractLsb' 45 4 _) (BitVec.extractLsb' 41 4 _) (BitVec.extractLsb' 37 4 _) (opnd _ 26) (decM6 _)) = _
    rw [hdr_mkWord, fmtV_vd, fmtV_va, fmtV_vb, fmtV_s_opnd, decM6_mkWord])

theorem vfma (h : Hdr) (vd : BitVec 4) (va : BitVec 4) (vb : BitVec 4) (vc : BitVec 4) (s : Opnd) (m : M6) : Statement (.vfma h vd va vb vc s m) :=
  of_native rfl (fun _ => by
    unfold candidate
    rw [mkWord_grp, mkWord_fn]
    change some (Instr.vfma (hdr _) (BitVec.extractLsb' 45 4 _) (BitVec.extractLsb' 41 4 _) (BitVec.extractLsb' 37 4 _) (BitVec.extractLsb' 33 4 _) (opnd _ 26) (decM6 _)) = _
    rw [hdr_mkWord, fmtV_vd, fmtV_va, fmtV_vb, fmtV_vc, fmtV_s_opnd, decM6_mkWord])

theorem vmin (h : Hdr) (vd : BitVec 4) (va : BitVec 4) (vb : BitVec 4) (s : Opnd) (m : M6) : Statement (.vmin h vd va vb s m) :=
  of_native rfl (fun _ => by
    unfold candidate
    rw [mkWord_grp, mkWord_fn]
    change some (Instr.vmin (hdr _) (BitVec.extractLsb' 45 4 _) (BitVec.extractLsb' 41 4 _) (BitVec.extractLsb' 37 4 _) (opnd _ 26) (decM6 _)) = _
    rw [hdr_mkWord, fmtV_vd, fmtV_va, fmtV_vb, fmtV_s_opnd, decM6_mkWord])

theorem vmax (h : Hdr) (vd : BitVec 4) (va : BitVec 4) (vb : BitVec 4) (s : Opnd) (m : M6) : Statement (.vmax h vd va vb s m) :=
  of_native rfl (fun _ => by
    unfold candidate
    rw [mkWord_grp, mkWord_fn]
    change some (Instr.vmax (hdr _) (BitVec.extractLsb' 45 4 _) (BitVec.extractLsb' 41 4 _) (BitVec.extractLsb' 37 4 _) (opnd _ 26) (decM6 _)) = _
    rw [hdr_mkWord, fmtV_vd, fmtV_va, fmtV_vb, fmtV_s_opnd, decM6_mkWord])

theorem vabs (h : Hdr) (vd : BitVec 4) (va : BitVec 4) (m : M6) : Statement (.vabs h vd va m) :=
  of_native rfl (fun _ => by
    unfold candidate
    rw [mkWord_grp, mkWord_fn]
    change some (Instr.vabs (hdr _) (BitVec.extractLsb' 45 4 _) (BitVec.extractLsb' 41 4 _) (decM6 _)) = _
    rw [hdr_mkWord, fmtV_vd, fmtV_va, decM6_mkWord])

theorem vneg (h : Hdr) (vd : BitVec 4) (va : BitVec 4) (m : M6) : Statement (.vneg h vd va m) :=
  of_native rfl (fun _ => by
    unfold candidate
    rw [mkWord_grp, mkWord_fn]
    change some (Instr.vneg (hdr _) (BitVec.extractLsb' 45 4 _) (BitVec.extractLsb' 41 4 _) (decM6 _)) = _
    rw [hdr_mkWord, fmtV_vd, fmtV_va, decM6_mkWord])

theorem vexp2 (h : Hdr) (vd : BitVec 4) (va : BitVec 4) (m : M6) : Statement (.vexp2 h vd va m) :=
  of_native rfl (fun _ => by
    unfold candidate
    rw [mkWord_grp, mkWord_fn]
    change some (Instr.vexp2 (hdr _) (BitVec.extractLsb' 45 4 _) (BitVec.extractLsb' 41 4 _) (decM6 _)) = _
    rw [hdr_mkWord, fmtV_vd, fmtV_va, decM6_mkWord])

theorem vlog2 (h : Hdr) (vd : BitVec 4) (va : BitVec 4) (m : M6) : Statement (.vlog2 h vd va m) :=
  of_native rfl (fun _ => by
    unfold candidate
    rw [mkWord_grp, mkWord_fn]
    change some (Instr.vlog2 (hdr _) (BitVec.extractLsb' 45 4 _) (BitVec.extractLsb' 41 4 _) (decM6 _)) = _
    rw [hdr_mkWord, fmtV_vd, fmtV_va, decM6_mkWord])

theorem vrcp (h : Hdr) (vd : BitVec 4) (va : BitVec 4) (m : M6) : Statement (.vrcp h vd va m) :=
  of_native rfl (fun _ => by
    unfold candidate
    rw [mkWord_grp, mkWord_fn]
    change some (Instr.vrcp (hdr _) (BitVec.extractLsb' 45 4 _) (BitVec.extractLsb' 41 4 _) (decM6 _)) = _
    rw [hdr_mkWord, fmtV_vd, fmtV_va, decM6_mkWord])

theorem vrsq (h : Hdr) (vd : BitVec 4) (va : BitVec 4) (m : M6) : Statement (.vrsq h vd va m) :=
  of_native rfl (fun _ => by
    unfold candidate
    rw [mkWord_grp, mkWord_fn]
    change some (Instr.vrsq (hdr _) (BitVec.extractLsb' 45 4 _) (BitVec.extractLsb' 41 4 _) (decM6 _)) = _
    rw [hdr_mkWord, fmtV_vd, fmtV_va, decM6_mkWord])

theorem vand (h : Hdr) (vd : BitVec 4) (va : BitVec 4) (vb : BitVec 4) (s : Opnd) (m : M6) : Statement (.vand h vd va vb s m) :=
  of_native rfl (fun _ => by
    unfold candidate
    rw [mkWord_grp, mkWord_fn]
    change some (Instr.vand (hdr _) (BitVec.extractLsb' 45 4 _) (BitVec.extractLsb' 41 4 _) (BitVec.extractLsb' 37 4 _) (opnd _ 26) (decM6 _)) = _
    rw [hdr_mkWord, fmtV_vd, fmtV_va, fmtV_vb, fmtV_s_opnd, decM6_mkWord])

theorem vor (h : Hdr) (vd : BitVec 4) (va : BitVec 4) (vb : BitVec 4) (s : Opnd) (m : M6) : Statement (.vor h vd va vb s m) :=
  of_native rfl (fun _ => by
    unfold candidate
    rw [mkWord_grp, mkWord_fn]
    change some (Instr.vor (hdr _) (BitVec.extractLsb' 45 4 _) (BitVec.extractLsb' 41 4 _) (BitVec.extractLsb' 37 4 _) (opnd _ 26) (decM6 _)) = _
    rw [hdr_mkWord, fmtV_vd, fmtV_va, fmtV_vb, fmtV_s_opnd, decM6_mkWord])

theorem vxor (h : Hdr) (vd : BitVec 4) (va : BitVec 4) (vb : BitVec 4) (s : Opnd) (m : M6) : Statement (.vxor h vd va vb s m) :=
  of_native rfl (fun _ => by
    unfold candidate
    rw [mkWord_grp, mkWord_fn]
    change some (Instr.vxor (hdr _) (BitVec.extractLsb' 45 4 _) (BitVec.extractLsb' 41 4 _) (BitVec.extractLsb' 37 4 _) (opnd _ 26) (decM6 _)) = _
    rw [hdr_mkWord, fmtV_vd, fmtV_va, fmtV_vb, fmtV_s_opnd, decM6_mkWord])

theorem vsh (h : Hdr) (vd : BitVec 4) (va : BitVec 4) (vb : BitVec 4) (s : Opnd) (m : M6) : Statement (.vsh h vd va vb s m) :=
  of_native rfl (fun _ => by
    unfold candidate
    rw [mkWord_grp, mkWord_fn]
    change some (Instr.vsh (hdr _) (BitVec.extractLsb' 45 4 _) (BitVec.extractLsb' 41 4 _) (BitVec.extractLsb' 37 4 _) (opnd _ 26) (decM6 _)) = _
    rw [hdr_mkWord, fmtV_vd, fmtV_va, fmtV_vb, fmtV_s_opnd, decM6_mkWord])

theorem vcmp (h : Hdr) (vd : BitVec 4) (va : BitVec 4) (vb : BitVec 4) (s : Opnd) (m : M6) : Statement (.vcmp h vd va vb s m) :=
  of_native rfl (fun _ => by
    unfold candidate
    rw [mkWord_grp, mkWord_fn]
    change some (Instr.vcmp (hdr _) (BitVec.extractLsb' 45 4 _) (BitVec.extractLsb' 41 4 _) (BitVec.extractLsb' 37 4 _) (opnd _ 26) (decM6 _)) = _
    rw [hdr_mkWord, fmtV_vd, fmtV_va, fmtV_vb, fmtV_s_opnd, decM6_mkWord])

theorem vsel (h : Hdr) (vd : BitVec 4) (va : BitVec 4) (vb : BitVec 4) (vc : BitVec 4) (s : Opnd) (m : M6) : Statement (.vsel h vd va vb vc s m) :=
  of_native rfl (fun _ => by
    unfold candidate
    rw [mkWord_grp, mkWord_fn]
    change some (Instr.vsel (hdr _) (BitVec.extractLsb' 45 4 _) (BitVec.extractLsb' 41 4 _) (BitVec.extractLsb' 37 4 _) (BitVec.extractLsb' 33 4 _) (opnd _ 26) (decM6 _)) = _
    rw [hdr_mkWord, fmtV_vd, fmtV_va, fmtV_vb, fmtV_vc, fmtV_s_opnd, decM6_mkWord])

theorem vred (h : Hdr) (va : BitVec 4) (s : Opnd) (m : M6) : Statement (.vred h va s m) :=
  of_native rfl (fun _ => by
    unfold candidate
    rw [mkWord_grp, mkWord_fn]
    change some (Instr.vred (hdr _) (BitVec.extractLsb' 41 4 _) (opnd _ 26) (decM6 _)) = _
    rw [hdr_mkWord, fmtV_va, fmtV_s_opnd, decM6_mkWord])

theorem vbcast (h : Hdr) (vd : BitVec 4) (s : Opnd) (m : M6) : Statement (.vbcast h vd s m) :=
  of_native rfl (fun _ => by
    unfold candidate
    rw [mkWord_grp, mkWord_fn]
    change some (Instr.vbcast (hdr _) (BitVec.extractLsb' 45 4 _) (opnd _ 26) (decM6 _)) = _
    rw [hdr_mkWord, fmtV_vd, fmtV_s_opnd, decM6_mkWord])

theorem vperm (h : Hdr) (vd : BitVec 4) (va : BitVec 4) (vb : BitVec 4) (s : Opnd) (m : M6) : Statement (.vperm h vd va vb s m) :=
  of_native rfl (fun _ => by
    unfold candidate
    rw [mkWord_grp, mkWord_fn]
    change some (Instr.vperm (hdr _) (BitVec.extractLsb' 45 4 _) (BitVec.extractLsb' 41 4 _) (BitVec.extractLsb' 37 4 _) (opnd _ 26) (decM6 _)) = _
    rw [hdr_mkWord, fmtV_vd, fmtV_va, fmtV_vb, fmtV_s_opnd, decM6_mkWord])

theorem vcvt (h : Hdr) (vd : BitVec 4) (va : BitVec 4) (s : Opnd) (m : M6) : Statement (.vcvt h vd va s m) :=
  of_native rfl (fun _ => by
    unfold candidate
    rw [mkWord_grp, mkWord_fn]
    change some (Instr.vcvt (hdr _) (BitVec.extractLsb' 45 4 _) (BitVec.extractLsb' 41 4 _) (opnd _ 26) (decM6 _)) = _
    rw [hdr_mkWord, fmtV_vd, fmtV_va, fmtV_s_opnd, decM6_mkWord])

theorem vscale (h : Hdr) (vd : BitVec 4) (va : BitVec 4) (vb : BitVec 4) (s : Opnd) (m : M6) : Statement (.vscale h vd va vb s m) :=
  of_native rfl (fun _ => by
    unfold candidate
    rw [mkWord_grp, mkWord_fn]
    change some (Instr.vscale (hdr _) (BitVec.extractLsb' 45 4 _) (BitVec.extractLsb' 41 4 _) (BitVec.extractLsb' 37 4 _) (opnd _ 26) (decM6 _)) = _
    rw [hdr_mkWord, fmtV_vd, fmtV_va, fmtV_vb, fmtV_s_opnd, decM6_mkWord])

theorem vmov (h : Hdr) (vd : BitVec 4) (va : BitVec 4) (m : M6) : Statement (.vmov h vd va m) :=
  of_native rfl (fun _ => by
    unfold candidate
    rw [mkWord_grp, mkWord_fn]
    change some (Instr.vmov (hdr _) (BitVec.extractLsb' 45 4 _) (BitVec.extractLsb' 41 4 _) (decM6 _)) = _
    rw [hdr_mkWord, fmtV_vd, fmtV_va, decM6_mkWord])

theorem setshape (h : Hdr) (d : Opnd) (a : Opnd) (b : Opnd) : Statement (.setshape h d a b) :=
  of_native rfl (fun _ => by
    unfold candidate
    rw [mkWord_grp, mkWord_fn]
    change some (Instr.setshape (hdr _) (opnd _ 42) (opnd _ 35) (opnd _ 28)) = _
    rw [hdr_mkWord, fmtR_d_opnd, fmtR_a_opnd, fmtR_b_opnd])

theorem vld (h : Hdr) (vd : BitVec 4) (s : Opnd) (m : M7) : Statement (.vld h vd s m) :=
  of_native rfl (fun _ => by
    unfold candidate
    rw [mkWord_grp, mkWord_fn]
    change some (Instr.vld (hdr _) (BitVec.extractLsb' 45 4 _) (opnd _ 26) (decM7 _)) = _
    rw [hdr_mkWord, fmtV_vd, fmtV_s_opnd, decM7_mkWord])

theorem vst (h : Hdr) (vd : BitVec 4) (s : Opnd) (m : M7) : Statement (.vst h vd s m) :=
  of_native rfl (fun _ => by
    unfold candidate
    rw [mkWord_grp, mkWord_fn]
    change some (Instr.vst (hdr _) (BitVec.extractLsb' 45 4 _) (opnd _ 26) (decM7 _)) = _
    rw [hdr_mkWord, fmtV_vd, fmtV_s_opnd, decM7_mkWord])

theorem vgather (h : Hdr) (vd : BitVec 4) (va : BitVec 4) (s : Opnd) (m : M7) : Statement (.vgather h vd va s m) :=
  of_native rfl (fun _ => by
    unfold candidate
    rw [mkWord_grp, mkWord_fn]
    change some (Instr.vgather (hdr _) (BitVec.extractLsb' 45 4 _) (BitVec.extractLsb' 41 4 _) (opnd _ 26) (decM7 _)) = _
    rw [hdr_mkWord, fmtV_vd, fmtV_va, fmtV_s_opnd, decM7_mkWord])

theorem vscatter (h : Hdr) (vd : BitVec 4) (va : BitVec 4) (s : Opnd) (m : M7) : Statement (.vscatter h vd va s m) :=
  of_native rfl (fun _ => by
    unfold candidate
    rw [mkWord_grp, mkWord_fn]
    change some (Instr.vscatter (hdr _) (BitVec.extractLsb' 45 4 _) (BitVec.extractLsb' 41 4 _) (opnd _ 26) (decM7 _)) = _
    rw [hdr_mkWord, fmtV_vd, fmtV_va, fmtV_s_opnd, decM7_mkWord])

theorem vact (h : Hdr) (d : Opnd) (a : Opnd) (b : Opnd) : Statement (.vact h d a b) :=
  of_native rfl (fun _ => by
    unfold candidate
    rw [mkWord_grp, mkWord_fn]
    change some (Instr.vact (hdr _) (opnd _ 42) (opnd _ 35) (opnd _ 28)) = _
    rw [hdr_mkWord, fmtR_d_opnd, fmtR_a_opnd, fmtR_b_opnd])

theorem oclaim (h : Hdr) (s1 : Opnd) (s2 : Opnd) (m : M8) : Statement (.oclaim h s1 s2 m) :=
  of_native rfl (fun _ => by
    unfold candidate
    rw [mkWord_grp, mkWord_fn]
    change some (Instr.oclaim (hdr _) (opnd _ 33) (opnd _ 26) (decM8 _)) = _
    rw [hdr_mkWord, fmtT_s1_opnd, fmtT_s2_opnd, decM8_mkWord])

theorem orel (h : Hdr) (s1 : Opnd) (s2 : Opnd) (m : M8) : Statement (.orel h s1 s2 m) :=
  of_native rfl (fun _ => by
    unfold candidate
    rw [mkWord_grp, mkWord_fn]
    change some (Instr.orel (hdr _) (opnd _ 33) (opnd _ 26) (decM8 _)) = _
    rw [hdr_mkWord, fmtT_s1_opnd, fmtT_s2_opnd, decM8_mkWord])

theorem tld (h : Hdr) (oa : BitVec 3) (s1 : Opnd) (s2 : Opnd) (fmt : BitVec 4) (m : M8) : Statement (.tld h oa s1 s2 fmt m) :=
  of_native rfl (fun _ => by
    unfold candidate
    rw [mkWord_grp, mkWord_fn]
    change some (Instr.tld (hdr _) (BitVec.extractLsb' 43 3 _) (opnd _ 33) (opnd _ 26) (BitVec.extractLsb' 16 4 _) (decM8 _)) = _
    rw [hdr_mkWord, fmtT_oa, fmtT_s1_opnd, fmtT_s2_opnd, fmtT_fmt, decM8_mkWord])

theorem tfill (h : Hdr) (oa : BitVec 3) (s1 : Opnd) (s2 : Opnd) (z : BitVec 6) (fmt : BitVec 4) (m : M8) : Statement (.tfill h oa s1 s2 z fmt m) :=
  of_native rfl (fun _ => by
    unfold candidate
    rw [mkWord_grp, mkWord_fn]
    change some (Instr.tfill (hdr _) (BitVec.extractLsb' 43 3 _) (opnd _ 33) (opnd _ 26) (BitVec.extractLsb' 20 6 _) (BitVec.extractLsb' 16 4 _) (decM8 _)) = _
    rw [hdr_mkWord, fmtT_oa, fmtT_s1_opnd, fmtT_s2_opnd, fmtT_z, fmtT_fmt, decM8_mkWord])

theorem mzero (h : Hdr) (ta : BitVec 3) (m : M8) : Statement (.mzero h ta m) :=
  of_native rfl (fun _ => by
    unfold candidate
    rw [mkWord_grp, mkWord_fn]
    change some (Instr.mzero (hdr _) (BitVec.extractLsb' 46 3 _) (decM8 _)) = _
    rw [hdr_mkWord, fmtT_ta, decM8_mkWord])

theorem manch (h : Hdr) (ta : BitVec 3) (s1 : Opnd) (m : M8) : Statement (.manch h ta s1 m) :=
  of_native rfl (fun _ => by
    unfold candidate
    rw [mkWord_grp, mkWord_fn]
    change some (Instr.manch (hdr _) (BitVec.extractLsb' 46 3 _) (opnd _ 33) (decM8 _)) = _
    rw [hdr_mkWord, fmtT_ta, fmtT_s1_opnd, decM8_mkWord])

theorem mma (h : Hdr) (ta : BitVec 3) (oa : BitVec 3) (ob : BitVec 3) (m : M8) : Statement (.mma h ta oa ob m) :=
  of_native rfl (fun _ => by
    unfold candidate
    rw [mkWord_grp, mkWord_fn]
    change some (Instr.mma (hdr _) (BitVec.extractLsb' 46 3 _) (BitVec.extractLsb' 43 3 _) (BitVec.extractLsb' 40 3 _) (decM8 _)) = _
    rw [hdr_mkWord, fmtT_ta, fmtT_oa, fmtT_ob, decM8_mkWord])

theorem mdrain (h : Hdr) (ta : BitVec 3) (s1 : Opnd) (s2 : Opnd) (m : M8) : Statement (.mdrain h ta s1 s2 m) :=
  of_native rfl (fun _ => by
    unfold candidate
    rw [mkWord_grp, mkWord_fn]
    change some (Instr.mdrain (hdr _) (BitVec.extractLsb' 46 3 _) (opnd _ 33) (opnd _ 26) (decM8 _)) = _
    rw [hdr_mkWord, fmtT_ta, fmtT_s1_opnd, fmtT_s2_opnd, decM8_mkWord])

theorem rowout (h : Hdr) (oa : BitVec 3) (s1 : Opnd) (s2 : Opnd) (fmt : BitVec 4) (m : M8) : Statement (.rowout h oa s1 s2 fmt m) :=
  of_native rfl (fun _ => by
    unfold candidate
    rw [mkWord_grp, mkWord_fn]
    change some (Instr.rowout (hdr _) (BitVec.extractLsb' 43 3 _) (opnd _ 33) (opnd _ 26) (BitVec.extractLsb' 16 4 _) (decM8 _)) = _
    rw [hdr_mkWord, fmtT_oa, fmtT_s1_opnd, fmtT_s2_opnd, fmtT_fmt, decM8_mkWord])

theorem rowend (h : Hdr) (m : M8) : Statement (.rowend h m) :=
  of_native rfl (fun _ => by
    unfold candidate
    rw [mkWord_grp, mkWord_fn]
    change some (Instr.rowend (hdr _) (decM8 _)) = _
    rw [hdr_mkWord, decM8_mkWord])

theorem mstat (h : Hdr) (ta : BitVec 3) (s1 : Opnd) (s2 : Opnd) (m : M8) : Statement (.mstat h ta s1 s2 m) :=
  of_native rfl (fun _ => by
    unfold candidate
    rw [mkWord_grp, mkWord_fn]
    change some (Instr.mstat (hdr _) (BitVec.extractLsb' 46 3 _) (opnd _ 33) (opnd _ 26) (decM8 _)) = _
    rw [hdr_mkWord, fmtT_ta, fmtT_s1_opnd, fmtT_s2_opnd, decM8_mkWord])

theorem sld (h : Hdr) (s1 : Opnd) (z : BitVec 6) (m : M8) : Statement (.sld h s1 z m) :=
  of_native rfl (fun _ => by
    unfold candidate
    rw [mkWord_grp, mkWord_fn]
    change some (Instr.sld (hdr _) (opnd _ 33) (BitVec.extractLsb' 20 6 _) (decM8 _)) = _
    rw [hdr_mkWord, fmtT_s1_opnd, fmtT_z, decM8_mkWord])

theorem sst (h : Hdr) (s1 : Opnd) (z : BitVec 6) (m : M8) : Statement (.sst h s1 z m) :=
  of_native rfl (fun _ => by
    unfold candidate
    rw [mkWord_grp, mkWord_fn]
    change some (Instr.sst (hdr _) (opnd _ 33) (BitVec.extractLsb' 20 6 _) (decM8 _)) = _
    rw [hdr_mkWord, fmtT_s1_opnd, fmtT_z, decM8_mkWord])

theorem sadd (h : Hdr) (s1 : Opnd) (z : BitVec 6) (m : M8) : Statement (.sadd h s1 z m) :=
  of_native rfl (fun _ => by
    unfold candidate
    rw [mkWord_grp, mkWord_fn]
    change some (Instr.sadd (hdr _) (opnd _ 33) (BitVec.extractLsb' 20 6 _) (decM8 _)) = _
    rw [hdr_mkWord, fmtT_s1_opnd, fmtT_z, decM8_mkWord])

theorem smax (h : Hdr) (s1 : Opnd) (z : BitVec 6) (m : M8) : Statement (.smax h s1 z m) :=
  of_native rfl (fun _ => by
    unfold candidate
    rw [mkWord_grp, mkWord_fn]
    change some (Instr.smax (hdr _) (opnd _ 33) (BitVec.extractLsb' 20 6 _) (decM8 _)) = _
    rw [hdr_mkWord, fmtT_s1_opnd, fmtT_z, decM8_mkWord])

theorem smin (h : Hdr) (s1 : Opnd) (z : BitVec 6) (m : M8) : Statement (.smin h s1 z m) :=
  of_native rfl (fun _ => by
    unfold candidate
    rw [mkWord_grp, mkWord_fn]
    change some (Instr.smin (hdr _) (opnd _ 33) (BitVec.extractLsb' 20 6 _) (decM8 _)) = _
    rw [hdr_mkWord, fmtT_s1_opnd, fmtT_z, decM8_mkWord])

theorem sreblk (h : Hdr) (s1 : Opnd) (z : BitVec 6) (m : M8) : Statement (.sreblk h s1 z m) :=
  of_native rfl (fun _ => by
    unfold candidate
    rw [mkWord_grp, mkWord_fn]
    change some (Instr.sreblk (hdr _) (opnd _ 33) (BitVec.extractLsb' 20 6 _) (decM8 _)) = _
    rw [hdr_mkWord, fmtT_s1_opnd, fmtT_z, decM8_mkWord])

theorem smov (h : Hdr) (oa : BitVec 3) (z : BitVec 6) (m : M8) : Statement (.smov h oa z m) :=
  of_native rfl (fun _ => by
    unfold candidate
    rw [mkWord_grp, mkWord_fn]
    change some (Instr.smov (hdr _) (BitVec.extractLsb' 43 3 _) (BitVec.extractLsb' 20 6 _) (decM8 _)) = _
    rw [hdr_mkWord, fmtT_oa, fmtT_z, decM8_mkWord])

theorem sbind (h : Hdr) (oa : BitVec 3) (s1 : Opnd) (z : BitVec 6) (m : M8) : Statement (.sbind h oa s1 z m) :=
  of_native rfl (fun _ => by
    unfold candidate
    rw [mkWord_grp, mkWord_fn]
    change some (Instr.sbind (hdr _) (BitVec.extractLsb' 43 3 _) (opnd _ 33) (BitVec.extractLsb' 20 6 _) (decM8 _)) = _
    rw [hdr_mkWord, fmtT_oa, fmtT_s1_opnd, fmtT_z, decM8_mkWord])

theorem squery (h : Hdr) (oa : BitVec 3) (s2 : Opnd) (m : M8) : Statement (.squery h oa s2 m) :=
  of_native rfl (fun _ => by
    unfold candidate
    rw [mkWord_grp, mkWord_fn]
    change some (Instr.squery (hdr _) (BitVec.extractLsb' 43 3 _) (opnd _ 26) (decM8 _)) = _
    rw [hdr_mkWord, fmtT_oa, fmtT_s2_opnd, decM8_mkWord])

theorem sfree (h : Hdr) (z : BitVec 6) (m : M8) : Statement (.sfree h z m) :=
  of_native rfl (fun _ => by
    unfold candidate
    rw [mkWord_grp, mkWord_fn]
    change some (Instr.sfree (hdr _) (BitVec.extractLsb' 20 6 _) (decM8 _)) = _
    rw [hdr_mkWord, fmtT_z, decM8_mkWord])

theorem sset (h : Hdr) (s1 : Opnd) (z : BitVec 6) (m : M8) : Statement (.sset h s1 z m) :=
  of_native rfl (fun _ => by
    unfold candidate
    rw [mkWord_grp, mkWord_fn]
    change some (Instr.sset (hdr _) (opnd _ 33) (BitVec.extractLsb' 20 6 _) (decM8 _)) = _
    rw [hdr_mkWord, fmtT_s1_opnd, fmtT_z, decM8_mkWord])

theorem fork (h : Hdr) (a : Opnd) (b : Opnd) (res : Bool) : Statement (.fork h a b res) :=
  of_native rfl (fun _ => by
    unfold candidate
    rw [mkWord_grp, mkWord_fn]
    change some (Instr.fork (hdr _) (opnd _ 35) (opnd _ 28) (BitVec.getLsbD _ 0)) = _
    rw [hdr_mkWord, fmtR_a_opnd, fmtR_b_opnd, encRes_bit])

theorem tend (h : Hdr) (res : Bool) : Statement (.tend h res) :=
  of_native rfl (fun _ => by
    unfold candidate
    rw [mkWord_grp, mkWord_fn]
    change some (Instr.tend (hdr _) (BitVec.getLsbD _ 0)) = _
    rw [hdr_mkWord, encRes_bit])

theorem joinw (h : Hdr) (a : Opnd) (res : Bool) : Statement (.joinw h a res) :=
  of_native rfl (fun _ => by
    unfold candidate
    rw [mkWord_grp, mkWord_fn]
    change some (Instr.joinw (hdr _) (opnd _ 35) (BitVec.getLsbD _ 0)) = _
    rw [hdr_mkWord, fmtR_a_opnd, encRes_bit])

theorem barr (h : Hdr) (d : Opnd) (a : Opnd) (res : Bool) : Statement (.barr h d a res) :=
  of_native rfl (fun _ => by
    unfold candidate
    rw [mkWord_grp, mkWord_fn]
    change some (Instr.barr (hdr _) (opnd _ 42) (opnd _ 35) (BitVec.getLsbD _ 0)) = _
    rw [hdr_mkWord, fmtR_d_opnd, fmtR_a_opnd, encRes_bit])

theorem bwait (h : Hdr) (a : Opnd) (res : Bool) : Statement (.bwait h a res) :=
  of_native rfl (fun _ => by
    unfold candidate
    rw [mkWord_grp, mkWord_fn]
    change some (Instr.bwait (hdr _) (opnd _ 35) (BitVec.getLsbD _ 0)) = _
    rw [hdr_mkWord, fmtR_a_opnd, encRes_bit])

theorem bmiss (h : Hdr) (d : Opnd) (a : Opnd) (b : Opnd) (res : Bool) : Statement (.bmiss h d a b res) :=
  of_native rfl (fun _ => by
    unfold candidate
    rw [mkWord_grp, mkWord_fn]
    change some (Instr.bmiss (hdr _) (opnd _ 42) (opnd _ 35) (opnd _ 28) (BitVec.getLsbD _ 0)) = _
    rw [hdr_mkWord, fmtR_d_opnd, fmtR_a_opnd, fmtR_b_opnd, encRes_bit])

theorem bcfg (h : Hdr) (a : Opnd) (b : Opnd) (res : Bool) : Statement (.bcfg h a b res) :=
  of_native rfl (fun _ => by
    unfold candidate
    rw [mkWord_grp, mkWord_fn]
    change some (Instr.bcfg (hdr _) (opnd _ 35) (opnd _ 28) (BitVec.getLsbD _ 0)) = _
    rw [hdr_mkWord, fmtR_a_opnd, fmtR_b_opnd, encRes_bit])

theorem migrate (h : Hdr) (a : Opnd) (res : Bool) : Statement (.migrate h a res) :=
  of_native rfl (fun _ => by
    unfold candidate
    rw [mkWord_grp, mkWord_fn]
    change some (Instr.migrate (hdr _) (opnd _ 35) (BitVec.getLsbD _ 0)) = _
    rw [hdr_mkWord, fmtR_a_opnd, encRes_bit])

theorem nomad (h : Hdr) (res : Bool) : Statement (.nomad h res) :=
  of_native rfl (fun _ => by
    unfold candidate
    rw [mkWord_grp, mkWord_fn]
    change some (Instr.nomad (hdr _) (BitVec.getLsbD _ 0)) = _
    rw [hdr_mkWord, encRes_bit])

theorem homeq (h : Hdr) (d : Opnd) (a : Opnd) (res : Bool) : Statement (.homeq h d a res) :=
  of_native rfl (fun _ => by
    unfold candidate
    rw [mkWord_grp, mkWord_fn]
    change some (Instr.homeq (hdr _) (opnd _ 42) (opnd _ 35) (BitVec.getLsbD _ 0)) = _
    rw [hdr_mkWord, fmtR_d_opnd, fmtR_a_opnd, encRes_bit])

theorem xfer (h : Hdr) (a : Opnd) (b : Opnd) (m : MB) : Statement (.xfer h a b m) :=
  of_native rfl (fun _ => by
    unfold candidate
    rw [mkWord_grp, mkWord_fn]
    change some (Instr.xfer (hdr _) (opnd _ 35) (opnd _ 28) (decMB _)) = _
    rw [hdr_mkWord, fmtR_a_opnd, fmtR_b_opnd, decMB_mkWord])

theorem shadow (h : Hdr) (d : Opnd) (a : Opnd) (b : Opnd) (m : MB) : Statement (.shadow h d a b m) :=
  of_native rfl (fun _ => by
    unfold candidate
    rw [mkWord_grp, mkWord_fn]
    change some (Instr.shadow (hdr _) (opnd _ 42) (opnd _ 35) (opnd _ 28) (decMB _)) = _
    rw [hdr_mkWord, fmtR_d_opnd, fmtR_a_opnd, fmtR_b_opnd, decMB_mkWord])

theorem publish (h : Hdr) (d : Opnd) (a : Opnd) (m : MB) : Statement (.publish h d a m) :=
  of_native rfl (fun _ => by
    unfold candidate
    rw [mkWord_grp, mkWord_fn]
    change some (Instr.publish (hdr _) (opnd _ 42) (opnd _ 35) (decMB _)) = _
    rw [hdr_mkWord, fmtR_d_opnd, fmtR_a_opnd, decMB_mkWord])

theorem npost (h : Hdr) (a : Opnd) (m : MB) : Statement (.npost h a m) :=
  of_native rfl (fun _ => by
    unfold candidate
    rw [mkWord_grp, mkWord_fn]
    change some (Instr.npost (hdr _) (opnd _ 35) (decMB _)) = _
    rw [hdr_mkWord, fmtR_a_opnd, decMB_mkWord])

theorem nrecv (h : Hdr) (a : Opnd) (m : MB) : Statement (.nrecv h a m) :=
  of_native rfl (fun _ => by
    unfold candidate
    rw [mkWord_grp, mkWord_fn]
    change some (Instr.nrecv (hdr _) (opnd _ 35) (decMB _)) = _
    rw [hdr_mkWord, fmtR_a_opnd, decMB_mkWord])

theorem launch (h : Hdr) (d : Opnd) (a : Opnd) (b : Opnd) (m : MB) : Statement (.launch h d a b m) :=
  of_native rfl (fun _ => by
    unfold candidate
    rw [mkWord_grp, mkWord_fn]
    change some (Instr.launch (hdr _) (opnd _ 42) (opnd _ 35) (opnd _ 28) (decMB _)) = _
    rw [hdr_mkWord, fmtR_d_opnd, fmtR_a_opnd, fmtR_b_opnd, decMB_mkWord])

theorem lwait (h : Hdr) (d : Opnd) (a : Opnd) (m : MB) : Statement (.lwait h d a m) :=
  of_native rfl (fun _ => by
    unfold candidate
    rw [mkWord_grp, mkWord_fn]
    change some (Instr.lwait (hdr _) (opnd _ 42) (opnd _ 35) (decMB _)) = _
    rw [hdr_mkWord, fmtR_d_opnd, fmtR_a_opnd, decMB_mkWord])

theorem lstat (h : Hdr) (d : Opnd) (a : Opnd) (m : MB) : Statement (.lstat h d a m) :=
  of_native rfl (fun _ => by
    unfold candidate
    rw [mkWord_grp, mkWord_fn]
    change some (Instr.lstat (hdr _) (opnd _ 42) (opnd _ 35) (decMB _)) = _
    rw [hdr_mkWord, fmtR_d_opnd, fmtR_a_opnd, decMB_mkWord])

theorem cmsg (h : Hdr) (d : Opnd) (a : Opnd) (b : Opnd) (m : MB) : Statement (.cmsg h d a b m) :=
  of_native rfl (fun _ => by
    unfold candidate
    rw [mkWord_grp, mkWord_fn]
    change some (Instr.cmsg (hdr _) (opnd _ 42) (opnd _ 35) (opnd _ 28) (decMB _)) = _
    rw [hdr_mkWord, fmtR_d_opnd, fmtR_a_opnd, fmtR_b_opnd, decMB_mkWord])

theorem mrecv (h : Hdr) (d : Opnd) (a : Opnd) (m : MB) : Statement (.mrecv h d a m) :=
  of_native rfl (fun _ => by
    unfold candidate
    rw [mkWord_grp, mkWord_fn]
    change some (Instr.mrecv (hdr _) (opnd _ 42) (opnd _ 35) (decMB _)) = _
    rw [hdr_mkWord, fmtR_d_opnd, fmtR_a_opnd, decMB_mkWord])

theorem stepcfg (h : Hdr) (d : Opnd) (a : Opnd) (m : MC) : Statement (.stepcfg h d a m) :=
  of_native rfl (fun _ => by
    unfold candidate
    rw [mkWord_grp, mkWord_fn]
    change some (Instr.stepcfg (hdr _) (opnd _ 42) (opnd _ 35) (decMC _)) = _
    rw [hdr_mkWord, fmtR_d_opnd, fmtR_a_opnd, decMC_mkWord])

theorem stepend (h : Hdr) (d : Opnd) (m : MC) : Statement (.stepend h d m) :=
  of_native rfl (fun _ => by
    unfold candidate
    rw [mkWord_grp, mkWord_fn]
    change some (Instr.stepend (hdr _) (opnd _ 42) (decMC _)) = _
    rw [hdr_mkWord, fmtR_d_opnd, decMC_mkWord])

theorem ldstep (h : Hdr) (d : Opnd) (a : Opnd) (b : Opnd) (m : MC) : Statement (.ldstep h d a b m) :=
  of_native rfl (fun _ => by
    unfold candidate
    rw [mkWord_grp, mkWord_fn]
    change some (Instr.ldstep (hdr _) (opnd _ 42) (opnd _ 35) (opnd _ 28) (decMC _)) = _
    rw [hdr_mkWord, fmtR_d_opnd, fmtR_a_opnd, fmtR_b_opnd, decMC_mkWord])

theorem stepaddr (h : Hdr) (d : Opnd) (b : Opnd) (m : MC) : Statement (.stepaddr h d b m) :=
  of_native rfl (fun _ => by
    unfold candidate
    rw [mkWord_grp, mkWord_fn]
    change some (Instr.stepaddr (hdr _) (opnd _ 42) (opnd _ 28) (decMC _)) = _
    rw [hdr_mkWord, fmtR_d_opnd, fmtR_b_opnd, decMC_mkWord])

theorem stepq (h : Hdr) (d : Opnd) (a : Opnd) (m : MC) : Statement (.stepq h d a m) :=
  of_native rfl (fun _ => by
    unfold candidate
    rw [mkWord_grp, mkWord_fn]
    change some (Instr.stepq (hdr _) (opnd _ 42) (opnd _ 35) (decMC _)) = _
    rw [hdr_mkWord, fmtR_d_opnd, fmtR_a_opnd, decMC_mkWord])

theorem cut (h : Hdr) (d : Opnd) (a : Opnd) (b : Opnd) (m : MC) : Statement (.cut h d a b m) :=
  of_native rfl (fun _ => by
    unfold candidate
    rw [mkWord_grp, mkWord_fn]
    change some (Instr.cut (hdr _) (opnd _ 42) (opnd _ 35) (opnd _ 28) (decMC _)) = _
    rw [hdr_mkWord, fmtR_d_opnd, fmtR_a_opnd, fmtR_b_opnd, decMC_mkWord])

theorem mfcr (h : Hdr) (d : Opnd) (crn : BitVec 12) (m : MR) : Statement (.mfcr h d crn m) :=
  of_native rfl (fun _ => by
    unfold candidate
    rw [mkWord_grp, mkWord_fn]
    change some (Instr.mfcr (hdr _) (opnd _ 42) (decMD _).crn (decMD _).rest) = _
    rw [hdr_mkWord, fmtR_d_opnd, decMD_mkWord]
    rfl)

theorem mtcr (h : Hdr) (d : Opnd) (a : Opnd) (crn : BitVec 12) (m : MR) : Statement (.mtcr h d a crn m) :=
  of_native rfl (fun _ => by
    unfold candidate
    rw [mkWord_grp, mkWord_fn]
    change some (Instr.mtcr (hdr _) (opnd _ 42) (opnd _ 35) (decMD _).crn (decMD _).rest) = _
    rw [hdr_mkWord, fmtR_d_opnd, fmtR_a_opnd, decMD_mkWord]
    rfl)

theorem eret (h : Hdr) (m : MD) : Statement (.eret h m) :=
  of_native rfl (fun _ => by
    unfold candidate
    rw [mkWord_grp, mkWord_fn]
    change some (Instr.eret (hdr _) (decMD _)) = _
    rw [hdr_mkWord, decMD_mkWord])

theorem tsave (h : Hdr) (d : Opnd) (a : Opnd) (b : Opnd) (m : MD) : Statement (.tsave h d a b m) :=
  of_native rfl (fun _ => by
    unfold candidate
    rw [mkWord_grp, mkWord_fn]
    change some (Instr.tsave (hdr _) (opnd _ 42) (opnd _ 35) (opnd _ 28) (decMD _)) = _
    rw [hdr_mkWord, fmtR_d_opnd, fmtR_a_opnd, fmtR_b_opnd, decMD_mkWord])

theorem tload (h : Hdr) (d : Opnd) (a : Opnd) (b : Opnd) (m : MD) : Statement (.tload h d a b m) :=
  of_native rfl (fun _ => by
    unfold candidate
    rw [mkWord_grp, mkWord_fn]
    change some (Instr.tload (hdr _) (opnd _ 42) (opnd _ 35) (opnd _ 28) (decMD _)) = _
    rw [hdr_mkWord, fmtR_d_opnd, fmtR_a_opnd, fmtR_b_opnd, decMD_mkWord])

theorem tswap (h : Hdr) (d : Opnd) (a : Opnd) (b : Opnd) (m : MD) : Statement (.tswap h d a b m) :=
  of_native rfl (fun _ => by
    unfold candidate
    rw [mkWord_grp, mkWord_fn]
    change some (Instr.tswap (hdr _) (opnd _ 42) (opnd _ 35) (opnd _ 28) (decMD _)) = _
    rw [hdr_mkWord, fmtR_d_opnd, fmtR_a_opnd, fmtR_b_opnd, decMD_mkWord])

theorem repart (h : Hdr) (d : Opnd) (a : Opnd) (m : MD) : Statement (.repart h d a m) :=
  of_native rfl (fun _ => by
    unfold candidate
    rw [mkWord_grp, mkWord_fn]
    change some (Instr.repart (hdr _) (opnd _ 42) (opnd _ 35) (decMD _)) = _
    rw [hdr_mkWord, fmtR_d_opnd, fmtR_a_opnd, decMD_mkWord])

theorem tlbinv (h : Hdr) (d : Opnd) (a : Opnd) (b : Opnd) (m : MD) : Statement (.tlbinv h d a b m) :=
  of_native rfl (fun _ => by
    unfold candidate
    rw [mkWord_grp, mkWord_fn]
    change some (Instr.tlbinv (hdr _) (opnd _ 42) (opnd _ 35) (opnd _ 28) (decMD _)) = _
    rw [hdr_mkWord, fmtR_d_opnd, fmtR_a_opnd, fmtR_b_opnd, decMD_mkWord])

theorem cacheop (h : Hdr) (d : Opnd) (a : Opnd) (b : Opnd) (m : MD) : Statement (.cacheop h d a b m) :=
  of_native rfl (fun _ => by
    unfold candidate
    rw [mkWord_grp, mkWord_fn]
    change some (Instr.cacheop (hdr _) (opnd _ 42) (opnd _ 35) (opnd _ 28) (decMD _)) = _
    rw [hdr_mkWord, fmtR_d_opnd, fmtR_a_opnd, fmtR_b_opnd, decMD_mkWord])

theorem sigpost (h : Hdr) (d : Opnd) (a : Opnd) (b : Opnd) (m : MD) : Statement (.sigpost h d a b m) :=
  of_native rfl (fun _ => by
    unfold candidate
    rw [mkWord_grp, mkWord_fn]
    change some (Instr.sigpost (hdr _) (opnd _ 42) (opnd _ 35) (opnd _ 28) (decMD _)) = _
    rw [hdr_mkWord, fmtR_d_opnd, fmtR_a_opnd, fmtR_b_opnd, decMD_mkWord])

theorem ctxnew (h : Hdr) (d : Opnd) (a : Opnd) : Statement (.ctxnew h d a) :=
  of_native rfl (fun _ => by
    unfold candidate
    rw [mkWord_grp, mkWord_fn]
    change some (Instr.ctxnew (hdr _) (opnd _ 42) (opnd _ 35)) = _
    rw [hdr_mkWord, fmtR_d_opnd, fmtR_a_opnd])

theorem ctxgrant (h : Hdr) (d : Opnd) (a : Opnd) (b : Opnd) : Statement (.ctxgrant h d a b) :=
  of_native rfl (fun _ => by
    unfold candidate
    rw [mkWord_grp, mkWord_fn]
    change some (Instr.ctxgrant (hdr _) (opnd _ 42) (opnd _ 35) (opnd _ 28)) = _
    rw [hdr_mkWord, fmtR_d_opnd, fmtR_a_opnd, fmtR_b_opnd])

theorem ctxrevoke (h : Hdr) (d : Opnd) (a : Opnd) (b : Opnd) : Statement (.ctxrevoke h d a b) :=
  of_native rfl (fun _ => by
    unfold candidate
    rw [mkWord_grp, mkWord_fn]
    change some (Instr.ctxrevoke (hdr _) (opnd _ 42) (opnd _ 35) (opnd _ 28)) = _
    rw [hdr_mkWord, fmtR_d_opnd, fmtR_a_opnd, fmtR_b_opnd])

theorem ctxrun (h : Hdr) (d : Opnd) (a : Opnd) : Statement (.ctxrun h d a) :=
  of_native rfl (fun _ => by
    unfold candidate
    rw [mkWord_grp, mkWord_fn]
    change some (Instr.ctxrun (hdr _) (opnd _ 42) (opnd _ 35)) = _
    rw [hdr_mkWord, fmtR_d_opnd, fmtR_a_opnd])

theorem ctxstop (h : Hdr) (d : Opnd) (a : Opnd) : Statement (.ctxstop h d a) :=
  of_native rfl (fun _ => by
    unfold candidate
    rw [mkWord_grp, mkWord_fn]
    change some (Instr.ctxstop (hdr _) (opnd _ 42) (opnd _ 35)) = _
    rw [hdr_mkWord, fmtR_d_opnd, fmtR_a_opnd])

theorem ctxevt (h : Hdr) (d : Opnd) (a : Opnd) (b : Opnd) : Statement (.ctxevt h d a b) :=
  of_native rfl (fun _ => by
    unfold candidate
    rw [mkWord_grp, mkWord_fn]
    change some (Instr.ctxevt (hdr _) (opnd _ 42) (opnd _ 35) (opnd _ 28)) = _
    rw [hdr_mkWord, fmtR_d_opnd, fmtR_a_opnd, fmtR_b_opnd])

theorem ctxreset (h : Hdr) (d : Opnd) (a : Opnd) (b : Opnd) : Statement (.ctxreset h d a b) :=
  of_native rfl (fun _ => by
    unfold candidate
    rw [mkWord_grp, mkWord_fn]
    change some (Instr.ctxreset (hdr _) (opnd _ 42) (opnd _ 35) (opnd _ 28)) = _
    rw [hdr_mkWord, fmtR_d_opnd, fmtR_a_opnd, fmtR_b_opnd])

theorem ctxfree (h : Hdr) (d : Opnd) (a : Opnd) : Statement (.ctxfree h d a) :=
  of_native rfl (fun _ => by
    unfold candidate
    rw [mkWord_grp, mkWord_fn]
    change some (Instr.ctxfree (hdr _) (opnd _ 42) (opnd _ 35)) = _
    rw [hdr_mkWord, fmtR_d_opnd, fmtR_a_opnd])

theorem ctxstat (h : Hdr) (d : Opnd) (a : Opnd) (b : Opnd) : Statement (.ctxstat h d a b) :=
  of_native rfl (fun _ => by
    unfold candidate
    rw [mkWord_grp, mkWord_fn]
    change some (Instr.ctxstat (hdr _) (opnd _ 42) (opnd _ 35) (opnd _ 28)) = _
    rw [hdr_mkWord, fmtR_d_opnd, fmtR_a_opnd, fmtR_b_opnd])

theorem tNop  : Statement (.tNop) :=
  of_byte1 rfl (ic_of (tw_op _ _ _ _) rfl) (fun _ => by
    unfold candidateT
    rw [tw_op]
    rfl)

theorem tMove (a : BitVec 8) (b : BitVec 8) : Statement (.tMove a b) :=
  of_byte1 rfl (ic_of (tw_op _ _ _ _) rfl) (fun _ => by
    unfold candidateT
    rw [tw_op]
    change some (Instr.tMove (BitVec.extractLsb' 16 8 _) (BitVec.extractLsb' 8 8 _)) = _
    rw [tw_a, tw_b])

theorem tLoadk (a : BitVec 8) (k : BitVec 16) : Statement (.tLoadk a k) :=
  of_byte1 rfl (ic_of (twk_op _ _ _) rfl) (fun _ => by
    unfold candidateT
    rw [twk_op]
    change some (Instr.tLoadk (BitVec.extractLsb' 16 8 _) (BitVec.extractLsb' 0 16 _)) = _
    rw [twk_a, twk_k])

theorem tLoadi (a : BitVec 8) (i : BitVec 16) : Statement (.tLoadi a i) :=
  of_byte1 rfl (ic_of (twk_op _ _ _) rfl) (fun _ => by
    unfold candidateT
    rw [twk_op]
    change some (Instr.tLoadi (BitVec.extractLsb' 16 8 _) (BitVec.extractLsb' 0 16 _)) = _
    rw [twk_a, twk_k])

theorem tLoadc (a : BitVec 8) (b : BitVec 8) : Statement (.tLoadc a b) :=
  of_byte1 rfl (ic_of (tw_op _ _ _ _) rfl) (fun _ => by
    unfold candidateT
    rw [tw_op]
    change some (Instr.tLoadc (BitVec.extractLsb' 16 8 _) (BitVec.extractLsb' 8 8 _)) = _
    rw [tw_a, tw_b])

theorem tGetg (a : BitVec 8) (b : BitVec 8) (ic : BitVec 16) (nm : BitVec 8) : Statement (.tGetg a b ic nm) :=
  of_byte2 rfl (ic_of (tw_op _ _ _ _) rfl) (by
    unfold candidateT
    rw [tw_op]
    change some (Instr.tGetg (BitVec.extractLsb' 16 8 _) (BitVec.extractLsb' 8 8 _) (BitVec.extractLsb' 0 16 _) (BitVec.extractLsb' 16 8 _)) = _
    rw [tw_a, tw_b, tw2_ic, tw2_op])

theorem tSetg (a : BitVec 8) (b : BitVec 8) (ic : BitVec 16) (nm : BitVec 8) : Statement (.tSetg a b ic nm) :=
  of_byte2 rfl (ic_of (tw_op _ _ _ _) rfl) (by
    unfold candidateT
    rw [tw_op]
    change some (Instr.tSetg (BitVec.extractLsb' 16 8 _) (BitVec.extractLsb' 8 8 _) (BitVec.extractLsb' 0 16 _) (BitVec.extractLsb' 16 8 _)) = _
    rw [tw_a, tw_b, tw2_ic, tw2_op])

theorem tGetattr (a : BitVec 8) (b : BitVec 8) (c : BitVec 8) (ic : BitVec 16) (nm : BitVec 8) : Statement (.tGetattr a b c ic nm) :=
  of_byte2 rfl (ic_of (tw_op _ _ _ _) rfl) (by
    unfold candidateT
    rw [tw_op]
    change some (Instr.tGetattr (BitVec.extractLsb' 16 8 _) (BitVec.extractLsb' 8 8 _) (BitVec.extractLsb' 0 8 _) (BitVec.extractLsb' 0 16 _) (BitVec.extractLsb' 16 8 _)) = _
    rw [tw_a, tw_b, tw_c, tw2_ic, tw2_op])

theorem tSetattr (a : BitVec 8) (b : BitVec 8) (c : BitVec 8) (ic : BitVec 16) (nm : BitVec 8) : Statement (.tSetattr a b c ic nm) :=
  of_byte2 rfl (ic_of (tw_op _ _ _ _) rfl) (by
    unfold candidateT
    rw [tw_op]
    change some (Instr.tSetattr (BitVec.extractLsb' 16 8 _) (BitVec.extractLsb' 8 8 _) (BitVec.extractLsb' 0 8 _) (BitVec.extractLsb' 0 16 _) (BitVec.extractLsb' 16 8 _)) = _
    rw [tw_a, tw_b, tw_c, tw2_ic, tw2_op])

theorem tGetitem (a : BitVec 8) (b : BitVec 8) (c : BitVec 8) : Statement (.tGetitem a b c) :=
  of_byte1 rfl (ic_of (tw_op _ _ _ _) rfl) (fun _ => by
    unfold candidateT
    rw [tw_op]
    change some (Instr.tGetitem (BitVec.extractLsb' 16 8 _) (BitVec.extractLsb' 8 8 _) (BitVec.extractLsb' 0 8 _)) = _
    rw [tw_a, tw_b, tw_c])

theorem tSetitem (a : BitVec 8) (b : BitVec 8) (c : BitVec 8) : Statement (.tSetitem a b c) :=
  of_byte1 rfl (ic_of (tw_op _ _ _ _) rfl) (fun _ => by
    unfold candidateT
    rw [tw_op]
    change some (Instr.tSetitem (BitVec.extractLsb' 16 8 _) (BitVec.extractLsb' 8 8 _) (BitVec.extractLsb' 0 8 _)) = _
    rw [tw_a, tw_b, tw_c])

theorem tBinop (a : BitVec 8) (b : BitVec 8) (c : BitVec 8) (ic : BitVec 16) (op : BitVec 8) : Statement (.tBinop a b c ic op) :=
  of_byte2 rfl (ic_of (tw_op _ _ _ _) rfl) (by
    unfold candidateT
    rw [tw_op]
    change some (Instr.tBinop (BitVec.extractLsb' 16 8 _) (BitVec.extractLsb' 8 8 _) (BitVec.extractLsb' 0 8 _) (BitVec.extractLsb' 0 16 _) (BitVec.extractLsb' 16 8 _)) = _
    rw [tw_a, tw_b, tw_c, tw2_ic, tw2_op])

theorem tUnop (a : BitVec 8) (b : BitVec 8) (ic : BitVec 16) (op : BitVec 8) : Statement (.tUnop a b ic op) :=
  of_byte2 rfl (ic_of (tw_op _ _ _ _) rfl) (by
    unfold candidateT
    rw [tw_op]
    change some (Instr.tUnop (BitVec.extractLsb' 16 8 _) (BitVec.extractLsb' 8 8 _) (BitVec.extractLsb' 0 16 _) (BitVec.extractLsb' 16 8 _)) = _
    rw [tw_a, tw_b, tw2_ic, tw2_op])

theorem tCompare (a : BitVec 8) (b : BitVec 8) (c : BitVec 8) (ic : BitVec 16) (op : BitVec 8) : Statement (.tCompare a b c ic op) :=
  of_byte2 rfl (ic_of (tw_op _ _ _ _) rfl) (by
    unfold candidateT
    rw [tw_op]
    change some (Instr.tCompare (BitVec.extractLsb' 16 8 _) (BitVec.extractLsb' 8 8 _) (BitVec.extractLsb' 0 8 _) (BitVec.extractLsb' 0 16 _) (BitVec.extractLsb' 16 8 _)) = _
    rw [tw_a, tw_b, tw_c, tw2_ic, tw2_op])

theorem tJmp (off : BitVec 24) : Statement (.tJmp off) :=
  of_byte1 rfl (ic_of (two_op _ _) rfl) (fun _ => by
    unfold candidateT
    rw [two_op]
    change some (Instr.tJmp (BitVec.extractLsb' 0 24 _)) = _
    rw [two_o])

theorem tJt (a : BitVec 8) (off : BitVec 16) : Statement (.tJt a off) :=
  of_byte1 rfl (ic_of (twk_op _ _ _) rfl) (fun _ => by
    unfold candidateT
    rw [twk_op]
    change some (Instr.tJt (BitVec.extractLsb' 16 8 _) (BitVec.extractLsb' 0 16 _)) = _
    rw [twk_a, twk_k])

theorem tJf (a : BitVec 8) (off : BitVec 16) : Statement (.tJf a off) :=
  of_byte1 rfl (ic_of (twk_op _ _ _) rfl) (fun _ => by
    unfold candidateT
    rw [twk_op]
    change some (Instr.tJf (BitVec.extractLsb' 16 8 _) (BitVec.extractLsb' 0 16 _)) = _
    rw [twk_a, twk_k])

theorem tCall (a : BitVec 8) (b : BitVec 8) (ic : BitVec 16) : Statement (.tCall a b ic) :=
  of_byte2 rfl (ic_of (tw_op _ _ _ _) rfl) (by
    unfold candidateT
    rw [tw_op]
    change some (Instr.tCall (BitVec.extractLsb' 16 8 _) (BitVec.extractLsb' 8 8 _) (BitVec.extractLsb' 0 16 _)) = _
    rw [tw_a, tw_b, tw2_ic])

theorem tCallm (a : BitVec 8) (b : BitVec 8) (c : BitVec 8) (ic : BitVec 16) : Statement (.tCallm a b c ic) :=
  of_byte2 rfl (ic_of (tw_op _ _ _ _) rfl) (by
    unfold candidateT
    rw [tw_op]
    change some (Instr.tCallm (BitVec.extractLsb' 16 8 _) (BitVec.extractLsb' 8 8 _) (BitVec.extractLsb' 0 8 _) (BitVec.extractLsb' 0 16 _)) = _
    rw [tw_a, tw_b, tw_c, tw2_ic])

theorem tRet (a : BitVec 8) : Statement (.tRet a) :=
  of_byte1 rfl (ic_of (tw_op _ _ _ _) rfl) (fun _ => by
    unfold candidateT
    rw [tw_op]
    change some (Instr.tRet (BitVec.extractLsb' 16 8 _)) = _
    rw [tw_a])

theorem tMkarr (a : BitVec 8) (b : BitVec 8) (c : BitVec 8) : Statement (.tMkarr a b c) :=
  of_byte1 rfl (ic_of (tw_op _ _ _ _) rfl) (fun _ => by
    unfold candidateT
    rw [tw_op]
    change some (Instr.tMkarr (BitVec.extractLsb' 16 8 _) (BitVec.extractLsb' 8 8 _) (BitVec.extractLsb' 0 8 _)) = _
    rw [tw_a, tw_b, tw_c])

theorem tMkmap (a : BitVec 8) (b : BitVec 8) : Statement (.tMkmap a b) :=
  of_byte1 rfl (ic_of (tw_op _ _ _ _) rfl) (fun _ => by
    unfold candidateT
    rw [tw_op]
    change some (Instr.tMkmap (BitVec.extractLsb' 16 8 _) (BitVec.extractLsb' 8 8 _)) = _
    rw [tw_a, tw_b])

theorem tMkfunc (a : BitVec 8) (b : BitVec 8) (c : BitVec 8) : Statement (.tMkfunc a b c) :=
  of_byte1 rfl (ic_of (tw_op _ _ _ _) rfl) (fun _ => by
    unfold candidateT
    rw [tw_op]
    change some (Instr.tMkfunc (BitVec.extractLsb' 16 8 _) (BitVec.extractLsb' 8 8 _) (BitVec.extractLsb' 0 8 _)) = _
    rw [tw_a, tw_b, tw_c])

theorem tGetcell (a : BitVec 8) (b : BitVec 8) : Statement (.tGetcell a b) :=
  of_byte1 rfl (ic_of (tw_op _ _ _ _) rfl) (fun _ => by
    unfold candidateT
    rw [tw_op]
    change some (Instr.tGetcell (BitVec.extractLsb' 16 8 _) (BitVec.extractLsb' 8 8 _)) = _
    rw [tw_a, tw_b])

theorem tSetcell (a : BitVec 8) (b : BitVec 8) : Statement (.tSetcell a b) :=
  of_byte1 rfl (ic_of (tw_op _ _ _ _) rfl) (fun _ => by
    unfold candidateT
    rw [tw_op]
    change some (Instr.tSetcell (BitVec.extractLsb' 16 8 _) (BitVec.extractLsb' 8 8 _)) = _
    rw [tw_a, tw_b])

theorem tForprep (a : BitVec 8) (off : BitVec 16) : Statement (.tForprep a off) :=
  of_byte1 rfl (ic_of (twk_op _ _ _) rfl) (fun _ => by
    unfold candidateT
    rw [twk_op]
    change some (Instr.tForprep (BitVec.extractLsb' 16 8 _) (BitVec.extractLsb' 0 16 _)) = _
    rw [twk_a, twk_k])

theorem tForloop (a : BitVec 8) (off : BitVec 16) : Statement (.tForloop a off) :=
  of_byte1 rfl (ic_of (twk_op _ _ _) rfl) (fun _ => by
    unfold candidateT
    rw [twk_op]
    change some (Instr.tForloop (BitVec.extractLsb' 16 8 _) (BitVec.extractLsb' 0 16 _)) = _
    rw [twk_a, twk_k])

theorem tIter (a : BitVec 8) (b : BitVec 8) : Statement (.tIter a b) :=
  of_byte1 rfl (ic_of (tw_op _ _ _ _) rfl) (fun _ => by
    unfold candidateT
    rw [tw_op]
    change some (Instr.tIter (BitVec.extractLsb' 16 8 _) (BitVec.extractLsb' 8 8 _)) = _
    rw [tw_a, tw_b])

theorem tNext (a : BitVec 8) (off : BitVec 16) : Statement (.tNext a off) :=
  of_byte1 rfl (ic_of (twk_op _ _ _) rfl) (fun _ => by
    unfold candidateT
    rw [twk_op]
    change some (Instr.tNext (BitVec.extractLsb' 16 8 _) (BitVec.extractLsb' 0 16 _)) = _
    rw [twk_a, twk_k])

theorem tRaise (a : BitVec 8) : Statement (.tRaise a) :=
  of_byte1 rfl (ic_of (tw_op _ _ _ _) rfl) (fun _ => by
    unfold candidateT
    rw [tw_op]
    change some (Instr.tRaise (BitVec.extractLsb' 16 8 _)) = _
    rw [tw_a])

theorem tTryb (a : BitVec 8) (off : BitVec 16) : Statement (.tTryb a off) :=
  of_byte1 rfl (ic_of (twk_op _ _ _) rfl) (fun _ => by
    unfold candidateT
    rw [twk_op]
    change some (Instr.tTryb (BitVec.extractLsb' 16 8 _) (BitVec.extractLsb' 0 16 _)) = _
    rw [twk_a, twk_k])

theorem tTryend (a : BitVec 8) : Statement (.tTryend a) :=
  of_byte1 rfl (ic_of (tw_op _ _ _ _) rfl) (fun _ => by
    unfold candidateT
    rw [tw_op]
    change some (Instr.tTryend (BitVec.extractLsb' 16 8 _)) = _
    rw [tw_a])

theorem tImport (a : BitVec 8) (b : BitVec 8) : Statement (.tImport a b) :=
  of_byte1 rfl (ic_of (tw_op _ _ _ _) rfl) (fun _ => by
    unfold candidateT
    rw [tw_op]
    change some (Instr.tImport (BitVec.extractLsb' 16 8 _) (BitVec.extractLsb' 8 8 _)) = _
    rw [tw_a, tw_b])

theorem tNative (a : BitVec 8) (b : BitVec 8) (c : BitVec 8) : Statement (.tNative a b c) :=
  of_byte1 rfl (ic_of (tw_op _ _ _ _) rfl) (fun _ => by
    unfold candidateT
    rw [tw_op]
    change some (Instr.tNative (BitVec.extractLsb' 16 8 _) (BitVec.extractLsb' 8 8 _) (BitVec.extractLsb' 0 8 _)) = _
    rw [tw_a, tw_b, tw_c])

theorem tAwait (a : BitVec 8) : Statement (.tAwait a) :=
  of_byte1 rfl (ic_of (tw_op _ _ _ _) rfl) (fun _ => by
    unfold candidateT
    rw [tw_op]
    change some (Instr.tAwait (BitVec.extractLsb' 16 8 _)) = _
    rw [tw_a])

theorem tDel (a : BitVec 8) : Statement (.tDel a) :=
  of_byte1 rfl (ic_of (tw_op _ _ _ _) rfl) (fun _ => by
    unfold candidateT
    rw [tw_op]
    change some (Instr.tDel (BitVec.extractLsb' 16 8 _)) = _
    rw [tw_a])

theorem tLen (a : BitVec 8) (b : BitVec 8) : Statement (.tLen a b) :=
  of_byte1 rfl (ic_of (tw_op _ _ _ _) rfl) (fun _ => by
    unfold candidateT
    rw [tw_op]
    change some (Instr.tLen (BitVec.extractLsb' 16 8 _) (BitVec.extractLsb' 8 8 _)) = _
    rw [tw_a, tw_b])

theorem tIsinst (a : BitVec 8) (b : BitVec 8) (c : BitVec 8) : Statement (.tIsinst a b c) :=
  of_byte1 rfl (ic_of (tw_op _ _ _ _) rfl) (fun _ => by
    unfold candidateT
    rw [tw_op]
    change some (Instr.tIsinst (BitVec.extractLsb' 16 8 _) (BitVec.extractLsb' 8 8 _) (BitVec.extractLsb' 0 8 _)) = _
    rw [tw_a, tw_b, tw_c])

theorem tHalt (a : BitVec 8) : Statement (.tHalt a) :=
  of_byte1 rfl (ic_of (tw_op _ _ _ _) rfl) (fun _ => by
    unfold candidateT
    rw [tw_op]
    change some (Instr.tHalt (BitVec.extractLsb' 16 8 _)) = _
    rw [tw_a])

theorem tensorPendingWake (t : Nat) : Statement (.tensorPendingWake t) := of_event rfl

theorem fastPathCompletion (k : Nat) : Statement (.fastPathCompletion k) := of_event rfl

theorem longResultReturn (t : Nat) (o : Nat) : Statement (.longResultReturn t o) := of_event rfl

theorem homeAccessPerformed (k : Nat) : Statement (.homeAccessPerformed k) := of_event rfl

theorem reservationExpiry (t : Nat) : Statement (.reservationExpiry t) := of_event rfl

theorem restoredThreadPlacement (t : Nat) : Statement (.restoredThreadPlacement t) := of_event rfl

theorem sleepWake (t : Nat) : Statement (.sleepWake t) := of_event rfl

theorem cxlAccessComplete (k : Nat) : Statement (.cxlAccessComplete k) := of_event rfl

theorem longLat (k : Nat) : Statement (.longLat k) := of_event rfl

theorem trapEntry (t : Nat) : Statement (.trapEntry t) := of_event rfl

theorem migrationArrival (t : Nat) : Statement (.migrationArrival t) := of_event rfl

theorem inboxToMailbox (c : Nat) (n : Nat) : Statement (.inboxToMailbox c n) := of_event rfl

theorem engineCommandAccept (k : Nat) : Statement (.engineCommandAccept k) := of_event rfl

theorem engineOperationComplete (k : Nat) : Statement (.engineOperationComplete k) := of_event rfl

theorem publishFlip (k : Nat) : Statement (.publishFlip k) := of_event rfl

theorem mmaAccumulation (core : Nat) : Statement (.mmaAccumulation core) := of_event rfl

theorem mdrainReadout (core : Nat) (tile : Nat) : Statement (.mdrainReadout core tile) := of_event rfl

theorem launchAdmit (l : Nat) : Statement (.launchAdmit l) := of_event rfl

theorem leafStart (c : Nat) (l : Nat) (n : Nat) : Statement (.leafStart c l n) := of_event rfl

theorem launchRepartition (core : Nat) (l : Nat) : Statement (.launchRepartition core l) := of_event rfl

theorem geyserPacketSend (k : Nat) : Statement (.geyserPacketSend k) := of_event rfl

theorem geyserPacketArrival (k : Nat) : Statement (.geyserPacketArrival k) := of_event rfl

theorem geyserAckArrival (k : Nat) : Statement (.geyserAckArrival k) := of_event rfl

theorem geyserRetransmitTimeout (k : Nat) : Statement (.geyserRetransmitTimeout k) := of_event rfl

theorem geyserRefusal (k : Nat) : Statement (.geyserRefusal k) := of_event rfl

theorem geyserConnectionFailure (n : Nat) : Statement (.geyserConnectionFailure n) := of_event rfl

theorem stepAdvance (core : Nat) : Statement (.stepAdvance core) := of_event rfl

theorem beaconArrival (k : Nat) : Statement (.beaconArrival k) := of_event rfl

theorem stepcfgPairing (core : Nat) : Statement (.stepcfgPairing core) := of_event rfl

theorem leavingBeaconArrival (k : Nat) : Statement (.leavingBeaconArrival k) := of_event rfl

theorem cutMarkerArrival (k : Nat) : Statement (.cutMarkerArrival k) := of_event rfl

theorem cutHold (core : Nat) : Statement (.cutHold core) := of_event rfl

theorem releaseMarkerArrival (k : Nat) : Statement (.releaseMarkerArrival k) := of_event rfl

theorem stepStall (t : Nat) : Statement (.stepStall t) := of_event rfl

theorem heldEventPost (c : Nat) : Statement (.heldEventPost c) := of_event rfl

theorem counterEventDelivery (k : Nat) : Statement (.counterEventDelivery k) := of_event rfl

theorem serviceReply (k : Nat) (r : Reply) : Statement (.serviceReply k r) := of_event rfl

theorem bfmtWrite (b : BitVec 4) (v : Word) : Statement (.bfmtWrite b v) := of_event rfl

theorem stepCounterWrite (n : BitVec 12) (v : Word) : Statement (.stepCounterWrite n v) := of_event rfl

theorem depcfgWrite (v : Word) : Statement (.depcfgWrite v) := of_event rfl

theorem delegWrite (v : Word) : Statement (.delegWrite v) := of_event rfl

theorem pcntWrite (n : BitVec 4) (v : Word) : Statement (.pcntWrite n v) := of_event rfl

theorem salcfgWrite (v : Word) : Statement (.salcfgWrite v) := of_event rfl

theorem vfctlWrite (v : Word) : Statement (.vfctlWrite v) := of_event rfl

theorem cxlwinWrite (v : Word) : Statement (.cxlwinWrite v) := of_event rfl

theorem registerWrite (n : BitVec 12) (v : Word) : Statement (.registerWrite n v) := of_event rfl

theorem csrWindowStore (off : Nat) (v : Word) : Statement (.csrWindowStore off v) := of_event rfl

theorem hostQueueWrite (vf : Nat) (q : Nat) (rec : Word) (arg : Word) : Statement (.hostQueueWrite vf q rec arg) := of_event rfl

theorem functionLevelReset (vf : Nat) : Statement (.functionLevelReset vf) := of_event rfl

theorem attestationRequest (vf : Option Nat) (nonce : List Byte) : Statement (.attestationRequest vf nonce) := of_event rfl

theorem linkLaneFailure (link : Nat) : Statement (.linkLaneFailure link) := of_event rfl

theorem powerLimit : Statement (.powerLimit) := of_event rfl

theorem coolingFailure : Statement (.coolingFailure) := of_event rfl

theorem nowForwardStep (ns : Nat) : Statement (.nowForwardStep ns) := of_event rfl

theorem bringUp (r : BootRecord) : Statement (.bringUp r) := of_event rfl

theorem uncorrectableMemoryData (pa : Nat) : Statement (.uncorrectableMemoryData pa) := of_event rfl

theorem unsupportedRequest (kind : HostRequest) : Statement (.unsupportedRequest kind) := of_event rfl

end Sys2Proof.Laws.Encoding
end

