-- ==== Sys2Proof/Safety.lean ====
section
/-! DEFINITION. What counts as a safe state of a run, when an instruction can do its work, and what its end leaves: the
terms in which the statements speak. -/

namespace Sys2Proof

open Machine

/-- The one destination of a short register or predicate function (R148 to R157) and of `time` (R222). -/
def Instr.scalarDst : Instr → Option Dst
  | .add _ d _ _ _ => some (.reg d)
  | .sub _ d _ _ _ => some (.reg d)
  | .mul _ d _ _ _ => some (.reg d)
  | .mulh _ d _ _ _ => some (.reg d)
  | .div _ d _ _ _ => some (.reg d)
  | .rem _ d _ _ _ => some (.reg d)
  | .and _ d _ _ _ => some (.reg d)
  | .or _ d _ _ _ => some (.reg d)
  | .xor _ d _ _ _ => some (.reg d)
  | .andn _ d _ _ _ => some (.reg d)
  | .shl _ d _ _ _ => some (.reg d)
  | .shr _ d _ _ _ => some (.reg d)
  | .sra _ d _ _ _ => some (.reg d)
  | .rot _ d _ _ _ => some (.reg d)
  | .min _ d _ _ _ => some (.reg d)
  | .max _ d _ _ _ => some (.reg d)
  | .sel _ d _ _ _ => some (.reg d)
  | .fadd _ d _ _ _ => some (.reg d)
  | .fsub _ d _ _ _ => some (.reg d)
  | .fmul _ d _ _ _ => some (.reg d)
  | .ffma _ d _ _ _ => some (.reg d)
  | .fmin _ d _ _ _ => some (.reg d)
  | .fmax _ d _ _ _ => some (.reg d)
  | .clz _ d _ _ => some (.reg d)
  | .ctz _ d _ _ => some (.reg d)
  | .popc _ d _ _ => some (.reg d)
  | .bswap _ d _ _ => some (.reg d)
  | .mov _ d _ _ => some (.reg d)
  | .abs _ d _ _ => some (.reg d)
  | .ext _ d _ _ => some (.reg d)
  | .ins _ d _ _ => some (.reg d)
  | .fcvt _ d _ _ => some (.reg d)
  | .addi _ d _ _ => some (.reg d)
  | .andi _ d _ _ => some (.reg d)
  | .ori _ d _ _ => some (.reg d)
  | .xori _ d _ _ => some (.reg d)
  | .shli _ d _ _ => some (.reg d)
  | .shri _ d _ _ => some (.reg d)
  | .srai _ d _ _ => some (.reg d)
  | .muli _ d _ _ => some (.reg d)
  | .movi _ d _ => some (.reg d)
  | .movh _ d _ => some (.reg d)
  | .time _ d _ => some (.reg d)
  | .cmp _ _ pd _ _ => some (.pred pd)
  | .cmpi _ _ pd _ _ => some (.pred pd)
  | .fcmp _ _ pd _ _ => some (.pred pd)
  | .pand _ pd _ _ => some (.pred pd.p)
  | .por _ pd _ _ => some (.pred pd.p)
  | .pxor _ pd _ _ => some (.pred pd.p)
  | .pnot _ pd _ => some (.pred pd.p)
  | .pmov _ pd _ => some (.pred pd.p)
  | _ => none

end Sys2Proof

namespace Sys2Proof.Machine

/-- The canonical form of memory: addresses rise strictly and no listed byte is 0 (log 2). -/
def State.wf (s : State) : Bool := Memory.wf s.mem

/-- The state after `n` steps, when every step answers a next state. -/
def State.after : Nat → State → Option State
  | 0, s => some s
  | n + 1, s =>
    match step s with
    | .next t => State.after n t
    | .fault _ => none
    | .refused _ => none

/-! ### Native instructions -/

/-- What an instruction reads: its guard and its sources. -/
def Info.sources (f : Info) : List Dst := .pred f.hdr.pg :: f.reads

/-- A native instruction is ready to do its work: a thread issues it, the checks of R144 pass, its guard holds (R131), no fence
that guards one of its accesses is unmet (R171), none of the registers that it names waits for a result (R25), none that it
reads is poisoned (R27), and it does not go on from a park (R4). -/
def State.begins (s : State) (i : Instr) : Bool :=
  let f := i.info
  has s.threads s.cur && (s.decodeChecks f).isNone && !s.unitMissing f && (s.pred f.hdr.pg != f.hdr.pn) &&
    (s.holdBack f).isNone && (f.sources ++ f.writes).all (fun d => !s.outstanding d) &&
    f.sources.all (fun d => !s.poisonedDst d) && s.th.held.isNone && s.th.trace.isEmpty

/-- It is clear to: one whose effect is that of one instant finds room for its result, too (R23). -/
def State.clear (s : State) (i : Instr) : Bool := s.begins i && !(i.info.acts && decide (16 ≤ s.th.outst.length))

/-- What is left after a native instruction that began in `s` and whose effect led to `d`: the count of an issued
instruction, then the word leaves the fetch buffer, W_MODFALL (R145), the switch marker (R24) and the limit of R23. -/
def State.ends (s : State) (i : Instr) (d : State) : State :=
  (d.counted s.th.cc s.th.asid).finish s.th.pc i.info.hdr.sw i.info.fall

/-- The state in which a native instruction does its work: its pc has moved past its 8 bytes. -/
def State.past (s : State) : State := s.advance 8

/-- An instruction completes with an effect: in every state that is clear for it, it answers the next state in which the
effect has led to `d`. -/
def Completes (i : Instr) (s d : State) : Prop := s.clear i = true → exec i s = .next (s.ends i d)

/-- A native instruction goes on after a park (R4): its guard and its operands have been read in its issue turn, and stay with
it. -/
def State.resumes (s : State) (i : Instr) : Bool := has s.threads s.cur && (s.decodeChecks i.info).isNone && s.goesOn i

/-- An instruction that goes on completes with an effect. -/
def Resumes (i : Instr) (s d : State) : Prop := s.resumes i = true → exec i s = .next (s.ends i d)

/-- A native instruction that is clear parks: what it did before it parked has led to `q`, and it is issued again when `p` is
over, with its operands if it has had its issue turn. -/
def Parks (i : Instr) (s q : State) (p : Park) : Prop := s.clear i = true → exec i s = .next (s.parkBody q i s.th.pc p)

/-! ### Accesses -/

/-- An access goes out in the issue turn: no fence holds it back (R171), its walk follows nothing that is under way (R377), the
checks of R167 pass with the translation `t`,
the control-and-status window serves it (R335), and it moves no nomadic thread (R33). -/
def State.goesOut (s : State) (loads stores plain : Bool) (va : Word) (size k : Nat) (t : Tr) : Prop :=
  s.fenced loads stores = [] ∧ s.walkAfter va k = [] ∧ s.check s.who va size k = .ok t ∧ s.csrBad t.pa size plain = false ∧
    s.movesTo (s.homeOf t.pa t.attr) = none

/-- A new outstanding result with its one access at a scope, whose translation is remembered. -/
def State.sent (s : State) (dsts : List Dst) (fin : Fin) (va : Word) (t : Tr) (size k : Nat) (op : AccOp) (acq rel : Bool)
    (sco : Nat := 0) : State :=
  (s.remember s.who va k t).single dsts fin va t size op acq rel sco

/-- A store at a home has no effect but its own: nothing waits for a word, the frame's home can write, it lies in no context
block, no other home's cache holds a line (R376), and no log is kept at the port. -/
def State.quietHome (s : State) (h : Home) (pa : Nat) : Bool :=
  s.waiters.isEmpty && !s.badFrames.contains (pa / 0x10000) && (s.blockOf pa).isEmpty && s.behind.isEmpty &&
    match portOf h with
    | none => true
    | some c => !bit (s.core c).salcfg 0

/-- A read that is made at once of a home waits for nothing: no access of the thread to it, or that acquires, is on its way
(R113, R119), none that an egress point accepted first (R118), and no other agent holds a reservation on the bytes (R219). -/
def State.readsAtOnce (s : State) (h : Home) (pa n : Nat) : Prop := s.mustWait h pa n = none

/-- An access of a range goes out: no fence holds it back (R171), its walks follow nothing that is under way (R377), and the
checks of R167 pass. -/
def State.rangeReady (s : State) (isLoad : Bool) (va : Word) (len k : Nat) : Prop :=
  s.fenced isLoad (!isLoad) = [] ∧ s.walksAfter va len k = [] ∧ s.checkRange s.who va len k = .ok ()

/-- The accesses of a vector's elements go out, with their translations. -/
def State.elemsReady (s : State) (isLoad : Bool) (size k : Nat) (els : List VElem) (l : List (VElem × Tr)) : Prop :=
  s.fenced isLoad (!isLoad) = [] ∧ (∀ e ∈ els, s.walkAfter e.va k = []) ∧ s.checkElems size k els = .ok l

/-- A node of the tree by which a row is reduced (R94): level 0 has the elements in order, and node `i` of a level combines
nodes `2 i` and `2 i + 1` of the level below, with the flags of both and of the combination. -/
def treeNode (f : Nat → Nat → Flagged Nat) (leaf : Nat → Flagged Nat) : Nat → Nat → Flagged Nat
  | 0, i => leaf i
  | n + 1, i =>
    let a := treeNode f leaf n (2 * i)
    let b := treeNode f leaf n (2 * i + 1)
    ((f a.1 b.1).1, a.2 ||| b.2 ||| (f a.1 b.1).2)

/-- A descriptor can be read in the issue turn: its thread has room for a result (R23), its address is canonical and aligned, its
range passes as a load, and each of its 16-byte pieces can be read at once, none uncorrectable (R366). `bs` has its bytes and
`q` the state after the reads, which have been counted. -/
def State.descriptorReady (s : State) (va : Word) (align len : Nat) (bs : List Byte) (q : State) : Prop :=
  s.th.outst.length < 16 ∧ canonical va = true ∧ va.toNat % align = 0 ∧ s.checkRange s.who va len kRead = .ok () ∧
    State.seekAll ((len + 15) / 16) 0 va [] false s = .got q bs false

/-- A command's descriptor can be read: a multiple of 16 within the local window, in banks of the context that can be read at
once, and without poison (R228). -/
def State.localReady (s : State) (va : Word) (len : Nat) : Prop :=
  va.toNat % 16 = 0 ∧ va.toNat + len ≤ 0x200000 ∧ s.ownsBank s.th.asid (va.toNat / 0x20000) = true ∧
    s.ownsBank s.th.asid ((va.toNat + len - 1) / 0x20000) = true ∧
    s.readsAtOnce (.bank s.th.core (va.toNat / 0x20000)) (scratch s.th.core va.toNat) len ∧
    s.readsAtOnce (.bank s.th.core ((va.toNat + len - 1) / 0x20000)) (scratch s.th.core va.toNat) len ∧
    s.isPoisoned (scratch s.th.core va.toNat) len = false

/-- The state after the read of a command's descriptor, which has been counted (R408). -/
def State.localRead (s : State) (va : Word) (len : Nat) : State :=
  s.touch (.bank s.th.core (va.toNat / 0x20000)) va (scratch s.th.core va.toNat) len

/-- The bytes of a command's descriptor. -/
def State.localBytes (s : State) (va : Word) (len : Nat) : List Byte := s.bytes (scratch s.th.core va.toNat) len

/-- A context instruction acts at once on the context that it names: what a release at .mo waits for has been performed (R118),
and no other instruction waits for the context (R366). -/
def State.turnFree (s : State) (a : Nat) : Prop :=
  s.releaseIds 4 = [] ∧ (s.ctx a).line.filter (fun u => u == s.cur || s.inLine u) = []

/-- A context instruction that goes on still has its turn on the context that it names. -/
def State.turnKept (s : State) (a : Nat) : Prop :=
  ((s.ctx a).line.filter fun u => u == s.cur || s.inLine u).head? = some s.cur

/-- The line of a context without those that no longer wait in it. -/
def State.tidied (s : State) (a : Nat) : State :=
  s.onCtx a fun c => { c with line := c.line.filter fun u => u == s.cur || s.inLine u }

/-- The issuer stands first in the line of a context. -/
def State.inTurn (s : State) (a : Nat) : State := s.onCtx a fun c => { c with line := [s.cur] }

/-- The end of a context instruction of a thread that acted at once: its result is ready, and it leaves the line. -/
def State.turned (s : State) (uid : Nat) (d : Opnd) (v : Word) : State :=
  ((s.later [.reg d] [.reg d v]).unkept).leaveLines uid

/-! ### Bytecodes -/

/-- A bytecode is clear to do its work in one turn: a thread issues it that has drained (R283), no access of it has been made
before, and all that it makes are made before other agents act. -/
def State.bcClear (s : State) : Bool :=
  has s.threads s.cur && s.drained s.cur && s.th.trace.isEmpty && s.bursts.head? == some 0

/-- What is left after a bytecode that began in `s` and whose effect led to `d`. -/
def State.bcEnds (s d : State) : State := (d.spent.count s.th.asid 0x054).finish s.th.pc false false

end Sys2Proof.Machine
end

