-- ==== Sys2Proof/Certificates/Slice0/Obligations.lean ====
section
/-! DEFINITION. The statements for the provers. -/

open Sys2Proof Sys2Proof.Machine

/-! ### The machine as a whole -/

/-- What reset leaves, by R10, R16, R39, R46, R51, R52, R55, R58 to R62, R240, R328 to R334, R349, R354, R367, R413 and
R418: no thread, access, operation or message under way; the root alone, running, at depth 0, holding every core, bank,
slot and barrier; every core in mode A with its counters, formats and edges zero and its scale registers at 127 with
generation 0; and what a new thread starts with. That memory lists nothing, that the part is the AF880 and that y0 to
y63 and the operand slots are zero are the model's choices (logs 2, 3 and 4). -/
def Obligations.ResetState : Prop :=
  let s := State.reset
  let c := s.ctx 0
  let t := Thread.new
  s.wf = true ∧ s.mem = [] ∧ s.threads = [] ∧ s.accs = [] ∧ s.cmds = [] ∧ s.net = [] ∧ s.beacons = [] ∧ s.barriers = [] ∧
    s.resv = [] ∧ s.now = 0 ∧ s.vfsel = 0 ∧ s.cxlsel = 0 ∧ s.pwrstat = 1000 ∧
    (∀ n, (get Vf.new s.vfs n).ctl = 0) ∧ (∀ n, get 0 s.cxlwin n = 0) ∧
    s.ctxs.map Prod.fst = [0] ∧ c.state = .running ∧ c.depth = 0 ∧ (∀ a, s.inSet 0 a = true → a < Config.cores s.part) ∧
    (∀ a, a < Config.cores s.part → a ∈ c.coreset) ∧ (∀ n, n < 32 → c.bankmask.getLsbD n = true) ∧
    (∀ n, n < 16 → c.slotmask.getLsbD n = true) ∧
    c.lsbase = 0 ∧ c.lslim = 0 ∧ c.dqbase = 0 ∧ c.ghvec = 0 ∧ c.arena = 0 ∧ c.tvec = 0 ∧ c.tsarea = 0 ∧ c.deleg = 0 ∧
    c.ptroot = 0 ∧ c.ceqbase = 0 ∧ c.ceqhead = 0 ∧ c.ceqtail = 0 ∧ c.pcnt = [] ∧ c.psel = [] ∧ c.launches = [] ∧
    (∀ k, (s.core k).mode = 0 ∧ (s.core k).step = 0 ∧ (s.core k).stepDone = 0 ∧ (s.core k).bfmt = [] ∧
      (s.core k).nb.active = false ∧ (s.core k).nb.preds = [] ∧ (s.core k).nb.succs = [] ∧ (s.core k).salcfg = 0 ∧
      (s.core k).salseq = 0 ∧ ∀ n, (s.core k).getY n = 0 ∧ ((s.core k).scale n).gen = 0 ∧ ((s.core k).scale n).auto = false ∧
        ((s.core k).tile n).state = 0 ∧ ((s.core k).slot n).state = 0 ∧
        ∀ i, get 127 ((s.core k).scale n).bytes i = 127) ∧
    (∀ n, t.getX n = 0 ∧ t.getP n = (n == 0)) ∧ t.vshape = 0x4001 ∧ t.vact = 0x4001 ∧ t.flags = 0 ∧ t.warn = 0 ∧
    t.tcause = 0 ∧ t.taddr = 0 ∧ t.tpc = 0 ∧ t.tstat = 0 ∧ t.link = [] ∧ t.spilled = 0 ∧ t.tephra = false ∧ t.nomad = false

/-- R44: the scalar banks. x0 reads zero and discards writes; any other register holds what was written, and a write
leaves every other register as it was; a private register belongs to one thread, a shared one to one core, all of whose
threads see it. -/
def Obligations.RegisterBanks : Prop :=
  ∀ (s : State) (d r : Opnd) (v : Word) (u : Nat), has s.threads s.cur = true →
    s.reg .zero = 0 ∧ (s.setReg .zero v).th = s.th ∧ (s.setReg .zero v).reg r = s.reg r ∧
    (d ≠ .zero → (s.setReg d v).reg d = v) ∧ (r ≠ d → (s.setReg d v).reg r = s.reg r) ∧
    (u ≠ s.cur → (s.setReg d v).thread u = s.thread u) ∧
    (d.shared = true → ((s.thread u).core = s.th.core → (s.setReg d v).regOf u d = v) ∧
      ((s.thread u).core ≠ s.th.core → (s.setReg d v).regOf u r = s.regOf u r)) ∧
    (d.shared = false → u ≠ s.cur → (s.setReg d v).regOf u r = s.regOf u r)

/-- The predicate registers of R46, whole: p0 reads true and discards writes; p1 to p7 hold the bit last written, each
thread its own; a new thread has them zero. -/
def Obligations.PredicateRegisters : Prop :=
  ∀ (s : State) (p q : BitVec 3) (b : Bool) (u : Nat), has s.threads s.cur = true →
    s.pred 0 = true ∧ (s.setPred 0 b).th = s.th ∧ (∀ r, (s.setPred 0 b).pred r = s.pred r) ∧
    (p ≠ 0 → (s.setPred p b).pred p = b) ∧ (q ≠ p → (s.setPred p b).pred q = s.pred q) ∧
    (u ≠ s.cur → (s.setPred p b).thread u = s.thread u) ∧ ∀ n, Thread.new.getP n = (n == 0)

/-- A step runs the instruction at the pc (R109, R110, R131, R141, R282). `z` is the state in which thread `u` has the
turn of cycle `c`. A native word that is read at its pc is executed as decoded, with the words after it fetched ahead;
the never word only passes; one that is no instruction raises ILLEGAL_OP. A bytecode has one word or two; one that is
none raises TYPE with the word that fails. A word that is not in the buffer is the 8 bytes (4 in Tephra mode) at the pc. A
step in which a barrel core acts gives its turn to the thread that the rotation picks (R19), settles what the cycle's
results and that thread wrote to shared registers (R45), and then ends the cycle; one of a control core likewise. After
either, what comes about at once has come about (`settle`). Whatever the instruction, a thread that issues it goes on to a
next state: none faults and none is refused. Three clauses are the model's choices: that a step in which nothing can happen
moves NOW by 1 (log 8), how many words are fetched ahead (log 63), and the position that a control core's rotation goes on
from (log 71). -/
def Obligations.StepRunsInstruction : Prop :=
  ∀ (s q r y : State) (u c k : Nat) (w v a : Word) (i : Instr) (t : Tr) (e : DecodeError) (l : List Agent),
    let z := State.trimBuf (State.setTh { s with cur := u } { (s.thread u).resume with last := c + 1 })
    let pc := z.th.pc
    let n := z.th.codeSize
    let ahead := fun (x : State) (d : Word) => State.fetchAhead x.ahead (x.th.pc + d) x
    let turn := fun (x : State) (urgent : Bool) => onNext (onNext (x.issueTurn u c) fun p =>
      (State.onCore p k (Core.settleShared · (x.thread u).slot)).tick k urgent) State.settle
    (z.th.tephra = false → z.codeWord pc = .got q w →
      (isNever w = false → decodeNative w = .ok i → s.issueTurn u c = exec i (ahead q 8)) ∧
      (isNever w = true → s.issueTurn u c = .next
        ((((ahead q 8).advance 8).counted (ahead q 8).th.cc (ahead q 8).th.asid).finish (ahead q 8).th.pc false false)) ∧
      (isNever w = false → decodeNative w = .error e →
        s.issueTurn u c = .next ((ahead q 8).trapNow (.of .illegalOp w)))) ∧
    (z.th.tephra = true → z.th.startFault = 0 → z.codeWord pc = .got q w →
      (icBearing (w.setWidth 32) = false →
        (decodeTephra (w.setWidth 32) 0 = .ok i → s.issueTurn u c = exec i (ahead q 4)) ∧
        (decodeTephra (w.setWidth 32) 0 = .error e →
          s.issueTurn u c = .next ((ahead q 4).trapNow (.of .type w)))) ∧
      (icBearing (w.setWidth 32) = true → q.codeWord (q.th.pc + 4) = .got r v →
        (decodeTephra (w.setWidth 32) (v.setWidth 32) = .ok i → s.issueTurn u c = exec i (ahead r 8)) ∧
        (decodeTephra (w.setWidth 32) (v.setWidth 32) = .error e →
          s.issueTurn u c = .next ((ahead r 8).trapNow
            (.of .type (if (decodeTephra (w.setWidth 32) 0).isOk then v else w)))))) ∧
    (z.th.buffered a = none → z.walkAfter a kFetch = [] → z.check z.who a n kFetch = .ok t →
      z.readsAtOnce (z.homeOf t.pa t.attr) t.pa n → z.behind = [] → z.isPoisoned t.pa n = false →
      ∃ x : State, z.codeWord a = .got x (word (fromBytes (z.bytes t.pa n))) ∧
        x.th.buffered a = some (word (fromBytes (z.bytes t.pa n))) ∧ x.th.pc = pc ∧ x.mem = z.mem) ∧
    (s.agents ≠ [] → s.choose s.agents = (r, some (.core k)) → (r.serveCore k).countParked k = y → (y.core k).cycle = c →
      (y.turnAt k = .urgent u → step s = turn y true) ∧ (y.turnAt k = .own u → step s = turn y false) ∧
      (y.turnAt k = .across u → step s = turn (y.count (y.thread u).asid 0x002) false) ∧
      (y.turnAt k = .idle → step s = .next (y.tick k false).settle)) ∧
    (s.agents ≠ [] → s.choose s.agents = (r, some (.control k)) → r.controlPick k = some u → step s =
      onNext (onNext (State.issueTurn { r with ccTurn := put r.ccTurn k ((r.thread u).slot + 1) } u (get 0 r.ccCycle k))
        (·.controlTick k)) State.settle) ∧
    (s.agents = l → l = [] → step s = .next { s with now := s.now + 1 }) ∧
    (∀ i : Instr, has s.threads s.cur = true → ∃ t : State, exec i s = .next t)

/-- Words written out from the encodings of R130 to R141, R158, R163, R194, R217, R228, R251, R339, R365 and R282 to
R290 decode to the instructions that they stand for; a reserved field and an unassigned function are refused by name. -/
def Obligations.WordsDecode : Prop :=
  let x := fun (n : BitVec 6) => (⟨false, n⟩ : Opnd)
  let h : Hdr := ⟨false, 0, false⟩
  let sw : Hdr := ⟨true, 0, false⟩
  decodeNative 0x8200205300000000 = .ok (.ld sw (x 8) (x 10) ⟨3, 0, 0, 0, false, 0⟩) ∧
  decodeNative 0xA2001C5B60FFFFF0 = .ok (.ld ⟨true, 2, false⟩ (x 7) (x 11) ⟨3, 1, 4, 0, false, 0xFFFFF0⟩) ∧
  decodeNative 0x018A0CFFFFFFFFFD = .ok (.loop h (x 3) 0 0xFFFFFFFFFD) ∧
  decodeNative 0x004E304800005200 = .ok (.fcvt h (x 12) (x 9) ⟨0, false, false, 0x5200⟩) ∧
  decodeNative 0x040C550000000000 = .ok (.mma h 1 2 5 ⟨0, false, 0⟩) ∧
  decodeNative 0x828A3C68E2400000 = .ok (.waita sw (x 15) (x 13) (x 14) ⟨2, false, 4, 0⟩) ∧
  decodeNative 0x0580006008000000 = .ok (.xfer h (x 12) (x 0) ⟨4, 0, 0, false⟩) ∧
  decodeNative 0x86041C50B2C00000 = .ok (.ldstep sw (x 7) (x 10) (x 11) ⟨1, 3⟩) ∧
  decodeNative 0x068254A800000105 = .ok (.mtcr h (x 21) (x 21) 0x105 ⟨0, 0, 0⟩) ∧
  decodeNative 0x0684000000000000 = .ok (.eret h ⟨0, 0, 0, 0⟩) ∧
  decodeNative 0x0702143070000000 = .ok (.ctxgrant h (x 5) (x 6) (x 7)) ∧
  decodeNative 0x018C000000000002 = .ok (.gatedServiceCall h 0 2) ∧
  decodeTephra 0x07020001 0 = .ok (.tGetattr 2 0 1 0 0) ∧ (∀ v, decodeTephra 0x03030001 v = .ok (.tLoadi 3 1)) ∧
  decodeTephra 0x0B020203 1 = .ok (.tBinop 2 2 3 1 0) ∧ (∀ v, decodeTephra 0x13020000 v = .ok (.tRet 2)) ∧
  decodeNative 0x0684000000000001 = .error .reservedBits ∧ decodeNative 0x07FE000000000000 = .error .unassigned

/-- Decoding and encoding agree (R130 to R141, R282 to R290): every well-formed instruction of the table that has an
encoding is read back from its words with every operand, and a word that decodes is the encoding of the one well-formed
instruction read from it. -/
def Obligations.DecodeEncode : Prop :=
  (∀ i : Instr, Sys2Proof.Laws.Encoding.Statement i) ∧
  (∀ (w : Word) (i : Instr), decodeNative w = .ok i → i.wf = true ∧ encode i = .native w) ∧
  (∀ (w v : Lane) (i : Instr), decodeTephra w v = .ok i →
    i.wf = true ∧ (encode i = .byte1 w ∨ encode i = .byte2 w v) ∧ (icBearing w = true ↔ encode i = .byte2 w v)) ∧
  ∀ (i : Instr) (w : Word), i.wf = true → encode i = .native w → isNever w = false → decodeBytes false (encodeBytes i) = .ok i

/-- R97: whatever happens in a step, memory keeps its canonical form, in which each address stands at most once and an
unlisted byte is the zero of log 2: equal memories are equal lists. -/
def Obligations.MemoryStaysCanonical : Prop :=
  ∀ s t : State, s.wf = true → step s = .next t → t.wf = true

/-! ### Groups 0x0 to 0x2: registers and predicates -/

/-- R149: `add`, `sub`, `mul` and `mulh` in every form. Without .sat the first three wrap; with it the exact signed
result is clamped to -2^63 .. 2^63 - 1 and SAT is set when it clamps. `mulh` gives bits 127:64 of the product. R149,
R152: `min`, `max`, `sel`, `mov`, `abs`. R149, R152: `clz`, `ctz`, `popc`, `bswap`, `ext` and `ins`. The bits that `clz`
and `ctz` pass are zero, and the next one is set; byte i of `bswap` is byte 7 - i of its operand; a field of POS and LEN
has bits POS to POS + LEN - 1, with LEN 0 for 64. -/
def Obligations.IntegerFunctions : Prop :=
  (∀ (s : State) (h : Hdr) (d a b : Opnd) (m : M0),
     let x := s.reg a
     let y := s.reg b
     let sat : Int → Flagged Word := fun v =>
       if 2 ^ 63 - 1 < v then (0x7FFFFFFFFFFFFFFF, fSAT)
       else if v < -2 ^ 63 then (0x8000000000000000, fSAT)
       else (BitVec.ofInt 64 v, 0)
     Completes (.add h d a b m) s (s.past.setResult d (if m.sat then sat (x.toInt + y.toInt) else (x + y, 0))) ∧
     Completes (.sub h d a b m) s (s.past.setResult d (if m.sat then sat (x.toInt - y.toInt) else (x - y, 0))) ∧
     Completes (.mul h d a b m) s (s.past.setResult d (if m.sat then sat (x.toInt * y.toInt) else (x * y, 0))) ∧
     Completes (.mulh h d a b m) s (s.past.setResult d
       (if m.u then (x.setWidth 128 * y.setWidth 128).extractLsb' 64 64
        else (x.signExtend 128 * y.signExtend 128).extractLsb' 64 64, 0))) ∧
  (∀ (s : State) (h : Hdr) (d a b : Opnd) (m : M0),
     let x := s.reg a
     let y := s.reg b
     let le := if m.u then x.ule y else x.sle y
     Completes (.min h d a b m) s (s.past.setResult d (if le then x else y, 0)) ∧
     Completes (.max h d a b m) s (s.past.setResult d (if le then y else x, 0)) ∧
     Completes (.sel h d a b m) s (s.past.setResult d (if s.pred (m.low.extractLsb' 0 3) then x else y, 0)) ∧
     Completes (.mov h d a m) s (s.past.setResult d (x, 0)) ∧
     Completes (.abs h d a m) s (s.past.setResult d (if x.msb then -x else x, 0))) ∧
  ((∀ (s : State) (h : Hdr) (d a : Opnd) (m : M0),
     let x := s.reg a
     let n := if (m.low.extractLsb' 0 6).toNat = 0 then 64 else (m.low.extractLsb' 0 6).toNat
     let p := (m.low.extractLsb' 8 6).toNat
     Completes (.clz h d a m) s (s.past.setResult d (word (leading x), 0)) ∧
     Completes (.ctz h d a m) s (s.past.setResult d (word (trailing x), 0)) ∧
     Completes (.popc h d a m) s (s.past.setResult d
       (BitVec.ofNat 64 ((List.range 64).countP fun i => x.getLsbD i), 0)) ∧
     Completes (.bswap h d a m) s (s.past.setResult d
       (x.extractLsb' 0 8 ++ x.extractLsb' 8 8 ++ x.extractLsb' 16 8 ++ x.extractLsb' 24 8 ++
         x.extractLsb' 32 8 ++ x.extractLsb' 40 8 ++ x.extractLsb' 48 8 ++ x.extractLsb' 56 8, 0)) ∧
     Completes (.ext h d a m) s (s.past.setResult d
       (if m.u then word (x.toNat / 2 ^ p % 2 ^ n) else sext n (x.toNat / 2 ^ p % 2 ^ n), 0)) ∧
     Completes (.ins h d a m) s (s.past.setResult d
       ((s.reg d &&& ~~~word ((2 ^ n - 1) * 2 ^ p)) ||| (word (x.toNat * 2 ^ p) &&& word ((2 ^ n - 1) * 2 ^ p)), 0))) ∧
   ∀ x : Word,
     leading x ≤ 64 ∧ (∀ i < leading x, x.getLsbD (63 - i) = false) ∧
     (leading x < 64 → x.getLsbD (63 - leading x) = true) ∧
     trailing x ≤ 64 ∧ (∀ i < trailing x, x.getLsbD i = false) ∧ (trailing x < 64 → x.getLsbD (trailing x) = true))

/-- R150: `div` and `rem`, signed and with .u. A zero divisor gives all ones or the dividend and sets DZ; -2^63 by -1
gives -2^63 and 0; else the quotient truncates toward zero and the remainder takes the sign of the dividend. -/
def Obligations.DivRem : Prop :=
  ∀ (s : State) (h : Hdr) (d a b : Opnd) (m : M0),
    let x := s.reg a
    let y := s.reg b
    Completes (.div h d a b m) s (s.past.setResult d
      (if y = 0 then (0xFFFFFFFFFFFFFFFF, fDZ) else (if m.u then x.udiv y else x.sdiv y, 0))) ∧
    Completes (.rem h d a b m) s (s.past.setResult d
      (if y = 0 then (x, fDZ) else (if m.u then x.umod y else x.srem y, 0)))

/-- R149, R151: the bitwise functions, and the shifts by X(B) mod 64; `sra.u` shifts in zeros (R145). -/
def Obligations.LogicShift : Prop :=
  ∀ (s : State) (h : Hdr) (d a b : Opnd) (m : M0),
    let x := s.reg a
    let y := s.reg b
    let c := (y &&& 63).toNat
    Completes (.and h d a b m) s (s.past.setResult d (x &&& y, 0)) ∧
    Completes (.or h d a b m) s (s.past.setResult d (x ||| y, 0)) ∧
    Completes (.xor h d a b m) s (s.past.setResult d (x ^^^ y, 0)) ∧
    Completes (.andn h d a b m) s (s.past.setResult d (x &&& ~~~y, 0)) ∧
    Completes (.shl h d a b m) s (s.past.setResult d (x <<< c, 0)) ∧
    Completes (.shr h d a b m) s (s.past.setResult d (x >>> c, 0)) ∧
    Completes (.sra h d a b m) s (s.past.setResult d (if m.u then x >>> c else x.sshiftRight c, 0)) ∧
    Completes (.rot h d a b m) s (s.past.setResult d ((x <<< c) ||| (x >>> (64 - c)), 0))

/-- R153: group 0x1 with its 35-bit immediate, sign-extended; shifts by IMM mod 64; `movh` joins the low 35 bits of
X(D), which it reads as a source, to IMM, whose bits 34:29 are reserved. -/
def Obligations.Immediates : Prop :=
  ∀ (s : State) (h : Hdr) (d a : Opnd) (imm : BitVec 35),
    let x := s.reg a
    let i := imm.signExtend 64
    let c := (imm &&& 63).toNat
    Completes (.addi h d a imm) s (s.past.setResult d (x + i, 0)) ∧
    Completes (.andi h d a imm) s (s.past.setResult d (x &&& i, 0)) ∧
    Completes (.ori h d a imm) s (s.past.setResult d (x ||| i, 0)) ∧
    Completes (.xori h d a imm) s (s.past.setResult d (x ^^^ i, 0)) ∧
    Completes (.shli h d a imm) s (s.past.setResult d (x <<< c, 0)) ∧
    Completes (.shri h d a imm) s (s.past.setResult d (x >>> c, 0)) ∧
    Completes (.srai h d a imm) s (s.past.setResult d (x.sshiftRight c, 0)) ∧
    Completes (.movi h d imm) s (s.past.setResult d (i, 0)) ∧
    Completes (.movh h d imm) s (s.past.setResult d
      ((s.reg d &&& 0x7FFFFFFFF) + (imm.setWidth 64 <<< 35), 0)) ∧
    Completes (.muli h d a imm) s (s.past.setResult d (x * i, 0)) ∧
    (Instr.movh h d imm).info.reads = [.reg d] ∧ ((Instr.movh h d imm).wf = true ↔ imm.toNat < 2 ^ 29)

/-- R154, R155: the short FP32 functions of group 0x0, `fcvt`, and `fdiv` and `fsqrt`, which are long (R22): their
result is outstanding at once, and returns with the flags that computing it sets. -/
def Obligations.ScalarFloat : Prop :=
  ∀ (s : State) (h : Hdr) (d a b : Opnd) (m : M0),
    let mode := s.mode m.rnd
    let x := f32Of (s.reg a)
    let y := f32Of (s.reg b)
    let out : Flagged Word → State := fun r => s.past.openOut [.reg d] (.done [.reg d r.1, .flags r.2]) 0
    Completes (.fadd h d a b m) s (s.past.setResult d (f32Result mode (x.add mode y))) ∧
    Completes (.fsub h d a b m) s (s.past.setResult d (f32Result mode (x.add mode y.neg))) ∧
    Completes (.fmul h d a b m) s (s.past.setResult d (f32Result mode (x.mul y))) ∧
    Completes (.ffma h d a b m) s (s.past.setResult d (f32Result mode (Val.fma mode x y (f32Of (s.reg d))))) ∧
    Completes (.fmin h d a b m) s (s.past.setResult d
      (word (Fmt.f32.minmax false ((s.reg a).toNat % 2 ^ 32) ((s.reg b).toNat % 2 ^ 32)), 0)) ∧
    Completes (.fmax h d a b m) s (s.past.setResult d
      (word (Fmt.f32.minmax true ((s.reg a).toNat % 2 ^ 32) ((s.reg b).toNat % 2 ^ 32)), 0)) ∧
    Completes (.fcvt h d a m) s (s.past.setResult d (fcvtWord m mode (s.reg a))) ∧
    Completes (.fdiv h d a b m) s (out (f32Result mode (x.div y))) ∧
    Completes (.fsqrt h d a m) s (out (f32Result mode x.sqrt))

/-- R156, R157: compares write P(PD) and set no flag; the predicate functions, which pass over a COND that has no meaning
there and set W_MODFALL for it (R145). -/
def Obligations.Predicates : Prop :=
  (∀ (s : State) (h : Hdr) (cond : BitVec 4) (pd pa pb : BitVec 3) (qd : PDst) (a b : Opnd) (imm : BitVec 35),
    Completes (.cmp h cond pd a b) s (s.past.setPred pd (condWord cond (s.reg a) (s.reg b))) ∧
    Completes (.cmpi h cond pd a imm) s (s.past.setPred pd (condWord cond (s.reg a) (imm.signExtend 64))) ∧
    Completes (.fcmp h cond pd a b) s (s.past.setPred pd
      (Fmt.f32.cond cond.toNat ((s.reg a).toNat % 2 ^ 32) ((s.reg b).toNat % 2 ^ 32))) ∧
    Completes (.pand h qd pa pb) s (s.past.setPred qd.p (s.pred pa && s.pred pb)) ∧
    Completes (.por h qd pa pb) s (s.past.setPred qd.p (s.pred pa || s.pred pb)) ∧
    Completes (.pxor h qd pa pb) s (s.past.setPred qd.p (xor (s.pred pa) (s.pred pb))) ∧
    Completes (.pnot h qd pa) s (s.past.setPred qd.p (!s.pred pa)) ∧
    Completes (.pmov h qd pa) s (s.past.setPred qd.p (s.pred pa)) ∧
    ∀ i ∈ [Instr.pand h qd pa pb, .por h qd pa pb, .pxor h qd pa pb, .pnot h qd pa, .pmov h qd pa],
      i.info.fall = (qd.cond != 0)) ∧
  (∀ x y : Word,
    condWord 0 x y = (x == y) ∧ condWord 1 x y = (x != y) ∧ condWord 2 x y = x.slt y ∧ condWord 3 x y = x.sle y ∧
    condWord 4 x y = y.slt x ∧ condWord 5 x y = y.sle x ∧ condWord 6 x y = x.ult y ∧ condWord 7 x y = x.ule y ∧
    condWord 8 x y = y.ult x ∧ condWord 9 x y = y.ule x)

/-- A false guard (R131): for every native instruction that does not go on from a park, nothing but the pc moves. The other
checks of R144 that come before the guard have passed. -/
def Obligations.FalseGuard : Prop :=
  ∀ (s : State) (i : Instr) (w : Word), encode i = .native w →
    let h := i.info.hdr
    has s.threads s.cur = true → s.pred h.pg = h.pn → s.outstanding (.pred h.pg) = false →
    s.poisonedDst (.pred h.pg) = false → s.decodeChecks i.info = none → s.th.held = none →
    exec i s = .next ((s.past.counted s.th.cc s.th.asid).finish s.th.pc h.sw false) ∧
    ∀ t, exec i s = .next t →
      t.th.pc = s.th.pc + 8 ∧ (∀ r, t.reg r = s.reg r) ∧ (∀ p, t.pred p = s.pred p) ∧ t.th.v = s.th.v ∧
      t.th.vshape = s.th.vshape ∧ t.th.vact = s.th.vact ∧ t.th.flags = s.th.flags ∧ t.th.warn = s.th.warn ∧
      t.th.link = s.th.link ∧ t.th.spilled = s.th.spilled ∧ t.th.outst = s.th.outst ∧ t.th.fences = s.th.fences ∧
      t.th.tstat = s.th.tstat ∧ t.th.tpc = s.th.tpc ∧ t.th.tcause = s.th.tcause ∧ t.th.taddr = s.th.taddr ∧
      t.th.tscr = s.th.tscr ∧ t.mem = s.mem ∧ t.empty = s.empty ∧ t.accs = s.accs ∧ t.cmds = s.cmds ∧ t.cores = s.cores ∧
      t.ctxs = s.ctxs ∧ t.barriers = s.barriers ∧ t.resv = s.resv ∧ (∀ u, u ≠ s.cur → t.thread u = s.thread u) ∧
      (h.sw = false → s.th.park = .run → s.th.outst.length ≤ 16 → t.th.park = .run)

/-- The frame of the short register and predicate functions (R149 to R157, `time` R222): with destination `d`, every
other register and predicate of the thread and every shared register of the core but `d` keeps its value, FLAGS only
gains bits and a predicate function sets none, WARN only gains W_MODFALL, and neither memory, nor an access under way, a
context, a barrier, a vector or matrix register, a link entry or a trap register changes; nor does another thread. -/
def Obligations.ScalarFrame : Prop :=
  ∀ (s t : State) (i : Instr) (d : Dst), i.scalarDst = some d → s.clear i = true → exec i s = .next t →
    t.th.pc = s.th.pc + 8 ∧ (∀ r, Dst.reg r ≠ d → t.reg r = s.reg r) ∧ (∀ p, Dst.pred p ≠ d → t.pred p = s.pred p) ∧
    (∀ n, n < 64 → Dst.reg ⟨true, BitVec.ofNat 6 n⟩ ≠ d → (t.core s.th.core).getY n = (s.core s.th.core).getY n) ∧
    (∀ c, c ≠ s.th.core → t.core c = s.core c) ∧
    (∀ k, (t.core k).slots = (s.core k).slots ∧ (t.core k).tiles = (s.core k).tiles ∧
      (t.core k).scales = (s.core k).scales ∧ (t.core k).step = (s.core k).step) ∧
    t.th.flags &&& s.th.flags = s.th.flags ∧ (∀ p, d = .pred p → t.th.flags = s.th.flags) ∧
    (t.th.warn = s.th.warn ∨ t.th.warn = s.th.warn ||| wMODFALL) ∧
    t.th.v = s.th.v ∧ t.th.vshape = s.th.vshape ∧ t.th.vact = s.th.vact ∧ t.th.link = s.th.link ∧
    t.th.spilled = s.th.spilled ∧ t.th.outst = s.th.outst ∧ t.th.fences = s.th.fences ∧ t.th.tstat = s.th.tstat ∧
    t.th.tpc = s.th.tpc ∧ t.th.tcause = s.th.tcause ∧ t.th.taddr = s.th.taddr ∧ t.th.tscr = s.th.tscr ∧
    (∀ u, u ≠ s.cur → t.thread u = s.thread u) ∧
    (∀ a, t.byte a = s.byte a) ∧ (∀ a, t.full a = s.full a) ∧ t.accs = s.accs ∧ t.ctxs = s.ctxs ∧
    t.barriers = s.barriers ∧ t.resv = s.resv ∧ t.now = s.now

/-! ### Group 0x3 -/

/-- R159, R162, R164: `br` under its condition, `loop`, and `nop`. A taken branch goes to PC + Sext(OFF) × 8 and
discards the fetch buffer. `loop` reads X(A), a shared one with what another slot's result wrote in the same cycle or without
(`State.loopRead`). R160, R161, R47 while the link store has room: `jmp`, `call`, `callr` and `ret`. A call
pushes the address of the next word with MODE 0; a target that is not 8-byte aligned raises ALIGN; `ret` of a MODE 0
entry continues there, of a MODE 1 entry resumes Tephra on a control core and raises ILLEGAL_OP on a barrel core; an
empty store with nothing spilled raises LINK_UNF. -/
def Obligations.ControlTransfers : Prop :=
  (∀ (s : State) (h : Hdr) (a : Opnd) (kind : BitVec 2) (off : BitVec 40),
     let x := s.reg a
     let go : State → State := fun p => p.setTh { p.th with pc := s.th.pc + off.signExtend 64 * 8, buf := [] }
     Completes (.br h a 0 off) s (go s.past) ∧
     Completes (.br h a 1 off) s (if x = 0 then go s.past else s.past) ∧
     Completes (.br h a 2 off) s (if x ≠ 0 then go s.past else s.past) ∧
     Completes (.br h a 3 off) s (if x.msb then go s.past else s.past) ∧
     (let v := s.past.loopRead a - 1
      Completes (.loop h a kind off) s (if v ≠ 0 then go (s.past.setReg a v) else s.past.setReg a v)) ∧
     (a.shared = false ∨ (∀ e ∈ s.myCore.yNow, e.2.1 = s.th.slot) → s.past.loopRead a = x) ∧
     (∀ v, s.past.loopRead a = v → v = x ∨ ∃ e ∈ s.myCore.yNow, e.1 = a.n.toNat ∧ e.2.1 ≠ s.th.slot ∧ v = e.2.2.2) ∧
     Completes (.nop h kind) s s.past) ∧
  (∀ (s : State) (h : Hdr) (a : Opnd) (kind : BitVec 2) (off : BitVec 40) (e : Word) (r : List Word),
     let x := s.reg a + off.signExtend 64 * 8
     let back := (s.th.pc + 8) &&& ~~~3
     let go : Word → List Word → State := fun pc l => s.past.setTh { s.past.th with pc := pc, buf := [], link := l }
     (x.toNat % 8 = 0 → Completes (.jmp h a kind off) s (go x s.th.link)) ∧
     (x.toNat % 8 ≠ 0 → s.clear (.jmp h a kind off) = true →
       exec (.jmp h a kind off) s = .next (s.trapNow (.of .align x))) ∧
     (s.th.link.length < 8 →
       Completes (.call h kind off) s (go (s.th.pc + off.signExtend 64 * 8) (back :: s.th.link)) ∧
       (x.toNat % 8 = 0 → Completes (.callr h a kind off) s (go x (back :: s.th.link)))) ∧
     (x.toNat % 8 ≠ 0 → s.clear (.callr h a kind off) = true →
       exec (.callr h a kind off) s = .next (s.trapNow (.of .align x))) ∧
     (s.th.link = e :: r → e.getLsbD 0 = false → Completes (.ret h kind) s (go (e &&& ~~~3) r)) ∧
     (s.th.link = e :: r → e.getLsbD 0 = true → s.th.cc = true →
       Completes (.ret h kind) s (let p := go (e &&& ~~~3) r; p.setTh { p.th with tephra := true })) ∧
     (s.th.link = e :: r → e.getLsbD 0 = true → s.th.cc = false → s.clear (.ret h kind) = true →
       exec (.ret h kind) s = .next (s.trapNow (.of .illegalOp (e &&& ~~~3)))) ∧
     (s.th.link = [] → s.th.spilled = 0 → s.clear (.ret h kind) = true →
       exec (.ret h kind) s = .next (s.trapNow (.of .linkUnf 0))))

/-- R47: the ninth entry, and the return from an empty store. Where the spill area has no room, `call` raises LINK_OVF at the
address that it would spill to; where it has, the oldest entry is stored there as a plain access of a long result, and the
thread parks as with the switch marker. `ret` of an empty store with spilled entries reads the newest of them from the spill
area, where the thread has drained and the read can be made at once, and continues there. -/
def Obligations.LinkSpill : Prop :=
  (∀ (s : State) (h : Hdr) (kind : BitVec 2) (off : BitVec 40) (t : Tr), 8 ≤ s.th.link.length →
     let base := s.myCtx.lsbase + word (s.th.thread * s.myCtx.spillLimit)
     let a := base + word (8 * s.th.spilled)
     let p := s.past
     s.clear (.call h kind off) = true →
     (s.myCtx.spillLimit < 8 * (s.th.spilled + 1) →
       exec (.call h kind off) s = .next (s.trapNow (.of .linkOvf a))) ∧
     (8 * (s.th.spilled + 1) ≤ s.myCtx.spillLimit → p.goesOut false true true a 8 kWrite t →
       p.csrFault t.pa (s.th.link.getLastD 0) (Instr.call h kind off).word = none →
       ∃ d : State, exec (.call h kind off) s = .next (s.ends (.call h kind off) d.parkSwitch) ∧
         d.th.pc = s.th.pc + off.signExtend 64 * 8 ∧ d.th.spilled = s.th.spilled + 1 ∧
         d.th.link = ((s.th.pc + 8) &&& ~~~3) :: s.th.link.dropLast ∧
         d.th.outst.length = s.th.outst.length + 1 ∧
         ∃ acc : Acc, d.accs = s.accs ++ [acc] ∧ acc.op = .store (toBytes 8 (s.th.link.getLastD 0).toNat) ∧ acc.pa = t.pa ∧
           acc.size = 8 ∧ acc.owner = .thread s.cur)) ∧
  (∀ (s : State) (h : Hdr) (kind : BitVec 2) (t : Tr), s.th.link = [] → 0 < s.th.spilled → s.drained s.cur = true →
     s.behind = [] →
     let a := s.myCtx.lsbase + word (s.th.thread * s.myCtx.spillLimit) + word (8 * (s.th.spilled - 1))
     let p := s.past
     let hm := p.homeOf t.pa t.attr
     let e := s.readWord t.pa
     p.goesOut true false true a 8 kRead t → p.translate p.who a kRead = .ok t → p.kindOf t.pa ≠ some .cxl →
     p.readsAtOnce hm t.pa 8 → s.isPoisoned t.pa 8 = false → e.getLsbD 0 = false →
     ∃ d : State, Completes (.ret h kind) s d ∧ d.th.pc = e &&& ~~~3 ∧ d.th.link = [] ∧
       d.th.spilled = s.th.spilled - 1 ∧ d.mem = s.mem ∧ ∀ r, d.reg r = s.reg r)

/-! ### Traps and the return from one -/

/-- R163: `trap` with a code of 0x1000 or above and `brk` raise SERVICE and BREAK with TADDR the code, at once where the
thread has drained (R26), else after its drain. R336: the local entry of a trap on a barrel core. DELEG has the code's
bit, TVEC is not 0 and EXL is clear: TPC, TADDR and TCAUSE are written, PS receives S, EXL and S are set, the fetch
buffer is discarded and the pc is TVEC. R360: a trap that is not taken locally is reflected. The thread keeps its slot
and its trap registers and waits, and the nearest ancestor whose DELEG has the code's bit, else the root, receives a
TRAP event if it has a queue with room. -/
def Obligations.TrapsTaken : Prop :=
  (∀ (s : State) (h : Hdr) (kind : BitVec 2) (code : BitVec 16),
     let sv : Trap := .of .service (code.setWidth 64)
     let bk : Trap := .of .brk (code.setWidth 64)
     let q := s.counted s.th.cc s.th.asid
     (s.clear (.trap h kind code) = true → s.drained s.cur = true →
       exec (.trap h kind code) s = .next (q.takeTrap s.cur sv true s.th.pc)) ∧
     (s.clear (.brk h kind code) = true → s.drained s.cur = true →
       exec (.brk h kind code) s = .next (q.takeTrap s.cur bk true s.th.pc)) ∧
     (s.clear (.trap h kind code) = true → s.drained s.cur = false →
       exec (.trap h kind code) s = .next (q.setTh { s.th with park := .trap sv true, parkedAt := s.now })) ∧
     (s.clear (.brk h kind code) = true → s.drained s.cur = false →
       exec (.brk h kind code) s = .next (q.setTh { s.th with park := .trap bk true, parkedAt := s.now }))) ∧
  (∀ (s : State) (tr : Trap) (precise : Bool) (pc : Word), tr.target = none → s.th.cc = false →
     bit s.myCtx.deleg tr.cause.code = true → s.myCtx.tvec ≠ 0 → bit s.th.tstat 4 = false →
     let t := s.takeTrap s.cur tr precise pc
     t.th.pc = s.myCtx.tvec ∧ t.th.tpc = pc ∧ t.th.taddr = tr.addr ∧
     t.th.tcause = word (tr.cause.code + if precise then 2 ^ 8 else 0) ∧
     bit t.th.tstat 0 = true ∧ bit t.th.tstat 4 = true ∧ bit t.th.tstat 5 = bit s.th.tstat 0 ∧
     bit t.th.tstat 6 = bit s.th.tstat 6 ∧ bit t.th.tstat 7 = bit s.th.tstat 7 ∧ t.th.buf = [] ∧
     t.th.park = .run ∧ (∀ r, t.reg r = s.reg r) ∧ (∀ p, t.pred p = s.pred p) ∧ t.th.link = s.th.link ∧
     t.th.flags = s.th.flags ∧ t.th.tscr = s.th.tscr ∧ t.mem = s.mem ∧ t.cores = s.cores ∧ t.ctxs = s.ctxs ∧
     (∀ u, u ≠ s.cur → t.thread u = s.thread u)) ∧
  (∀ (s : State) (tr : Trap) (precise : Bool) (pc : Word), has s.threads s.cur = true →
     s.takesLocally s.cur tr = false → s.hasQueue (s.reflectTo s.cur tr) = true →
     let tgt := s.reflectTo s.cur tr
     let t := s.takeTrap s.cur tr precise pc
     (tr.target = none → tgt = ((s.ancestors s.th.asid).find? fun a => bit (s.ctx a).deleg tr.cause.code).getD 0) ∧
     ∃ q : State, q.thread s.cur = { s.th with
       park := .reflected tgt tr precise, pc := pc, buf := [], kept := [], held := none, trace := [] } ∧
       q.mem = s.mem ∧ q.ctxs = s.ctxs ∧ q.cores = s.cores ∧
       t = q.postEvent tgt ⟨1, tr.cause.code, precise, s.th.cc, s.th.thread, s.th.asid, s.myCtx.depth, tr.addr, pc, s.now, some s.cur⟩)

/-- R338: `eret` in supervisor state. The pc is TPC, S receives PS, EXL is cleared, the fetch buffer is discarded; with
PMODE 0 a TPC that is not 8-byte aligned raises ALIGN. In user state it raises PRIV (R326, R142). -/
def Obligations.EretReturns : Prop :=
  ∀ (s : State) (h : Hdr) (m : MD),
    ((bit s.th.tstat 6 = true ∨ s.th.tpc.toNat % 8 = 0) →
      Completes (.eret h m) s (s.past.setTh { s.past.th with
        pc := s.th.tpc, buf := [],
        tstat := (s.th.tstat &&& 0xFFFFFFFFFFFFFFEE) ||| (if bit s.th.tstat 5 then 1 else 0) })) ∧
    (bit s.th.tstat 6 = false → s.th.tpc.toNat % 8 ≠ 0 → s.clear (.eret h m) = true →
      exec (.eret h m) s = .next (s.trapNow (.of .align s.th.tpc))) ∧
    (has s.threads s.cur = true → s.th.cc = false → bit s.th.tstat 0 = false →
      exec (.eret h m) s = .next (s.trapNow (.of .priv (Instr.eret h m).word)))

/-! ### Groups 0x4 and 0x5: memory and synchronisation -/

/-- R167 to R169, R119, R120: `ld` and `st` whose access goes out. A load opens a result for its register or pair; a
store sends the low bytes of X(D), or the pair; .acq and .ar make a load acquire, .rel and .ar a store release, the
other tag falls back to the one that has a meaning. -/
def Obligations.LoadStore : Prop :=
  (∀ (s : State) (h : Hdr) (d a : Opnd) (m : M4) (t : Tr),
    let p := s.past
    let va := s.reg a + m.off.signExtend 64
    let n := 2 ^ m.sz.toNat
    (p.goesOut true false true va n kRead t →
      Completes (.ld h d a m) s (p.sent (if n = 16 then [.reg d, .reg d.succ] else [.reg d]) (.load d n m.x) va t n kRead
        .load (m.ord != 0) (m.ord == 3) m.sco.toNat)) ∧
    (p.goesOut false true true va n kWrite t → p.csrFault t.pa (s.reg d) (Instr.st h d a m).word = none →
      Completes (.st h d a m) s (p.sent [] (.done []) va t n kWrite
        (.store ((toBytes 8 (s.reg d).toNat ++ if n = 16 then toBytes 8 (s.reg d.succ).toNat else []).take n))
        (m.ord == 3) (m.ord != 0) m.sco.toNat))) ∧
  ∀ (s : State) (dsts : List Dst) (fin : Fin) (va : Word) (t : Tr) (n k : Nat) (op : AccOp) (acq rel : Bool) (sco : Nat),
    has s.threads s.cur = true →
    let q := s.sent dsts fin va t n k op acq rel sco
    q.mem = s.mem ∧ q.cores = s.cores ∧ q.ctxs = s.ctxs ∧ (∀ r, q.reg r = s.reg r) ∧ (∀ r, q.pred r = s.pred r) ∧
    (∃ o : Outst, q.th.outst = s.th.outst ++ [o] ∧ o.dsts = dsts ∧ o.fin = fin ∧ o.need = 1 ∧ o.got = [] ∧
      ∃ a : Acc, q.accs = s.accs ++ [a] ∧ a.owner = .thread s.cur ∧ a.out = o.id ∧ a.pa = t.pa ∧ a.size = n ∧ a.op = op ∧
        a.acq = acq ∧ a.rel = rel ∧ a.sco = sco ∧ a.home = s.homeOf t.pa t.attr)

/-- R167, R95, R96: the checks of an access, in order. An address that is not the sign extension of its low 52 bits
raises PROT, one that is not a multiple of the access's size ALIGN, one of the local window whose bank the context does
not own PROT; the window's address in a bank of its own is that core's scratchpad. A failed check of `ld`, `st` or
`atom` is its trap. -/
def Obligations.AccessChecks : Prop :=
  (∀ (s : State) (w : Who) (va : Word) (n k : Nat),
    (va ≠ (va.setWidth 52).signExtend 64 → s.check w va n k = .error (.of .prot va)) ∧
    (va = (va.setWidth 52).signExtend 64 → va.toNat % n ≠ 0 → s.check w va n k = .error (.of .align va)) ∧
    (va.toNat % n = 0 → w.cc = false → va.toNat < 0x200000 → bit (s.ctx w.asid).bankmask (va.toNat / 0x20000) = false →
      s.check w va n k = .error (.of .prot va)) ∧
    (va.toNat % n = 0 → w.cc = false → va.toNat < 0x200000 → bit (s.ctx w.asid).bankmask (va.toNat / 0x20000) = true →
      ∃ t, s.check w va n k = .ok t ∧ t.pa = 0xF00000000000 + w.core * 0x200000 + va.toNat)) ∧
  ∀ (s : State) (h : Hdr) (d a b : Opnd) (m : M4) (m5 : M5) (tr : Trap),
    let p := s.past
    let va := s.reg a + m.off.signExtend 64
    let n := 2 ^ m.sz.toNat
    (p.fenced true false = [] → p.walkAfter va kRead = [] → p.check p.who va n kRead = .error tr →
      s.clear (.ld h d a m) = true →
      exec (.ld h d a m) s = .next (s.trapNow tr)) ∧
    (p.fenced false true = [] → p.walkAfter va kWrite = [] → p.check p.who va n kWrite = .error tr →
      s.clear (.st h d a m) = true →
      exec (.st h d a m) s = .next (s.trapNow tr)) ∧
    (p.fenced true true = [] → p.walkAfter (s.reg a) kWrite = [] → p.check p.who (s.reg a) 8 kWrite = .error tr →
      s.clear (.atom h d a b m5) = true →
      exec (.atom h d a b m5) s = .next (s.trapNow tr))

/-- R170 to R173, R122: `pf` only requests pages and moves no data; `fence` records, for each kind that KINDS names, the
thread's earlier accesses of the kind's first class that are still to be performed, for later ones of its second class;
`ifence` discards the fetch buffer; `icsync` of a thread whose release has nothing to wait for discards the
copies that the control cores it addresses hold for its address space. R217 to R221: the atomics, full/empty operations,
waits and monitors whose access goes out: 8 bytes at X(A). A read-duplicated mapping refuses every one but `fget` and
`waita`, `ldfe` without .c too (R108, R220). `atom` and `mon` first end a reservation that the thread holds; `ldfe`,
`stfe` and `waita` park the thread for their own result (R28); `atom` acquires and releases (R125), `ldfe`, `waita` and
`mon` acquire, `stfe` and `monrel` release. -/
def Obligations.FencesAndAtomics : Prop :=
  (∀ (s : State) (h : Hdr) (a : Opnd) (kinds : BitVec 4) (m : M4),
     let p := s.past
     let va := s.reg a + m.off.signExtend 64
     let kept := s.th.fences.filter fun f => !s.allDone f.needs
     let kind : Nat → Bool → Bool → Bool → Bool → List Fence := fun n l st gl gs =>
       if kinds.getLsbD n ∧ s.earlierIds s.cur l st m.sco.toNat ≠ [] then [⟨s.earlierIds s.cur l st m.sco.toNat, gl, gs⟩] else []
     Completes (.pf h a m) s
       (forEach (fun i q => q.prefetchLine (word (va.toNat / 128 * 128) + word (128 * i))) (List.range (2 ^ m.sz.toNat)) p) ∧
     (∀ (q : State) (x : Word), q.prefetchLine x = q ∨ ∃ f, q.tables q.th.asid x kRead = .error f ∧ f.reason = 0 ∧
       q.prefetchLine x = q.pageRequest f.ctx f.va.toNat 0 q.th.asid q.th.thread) ∧
     Completes (.fence h kinds m) s (p.setTh { p.th with
       fences := kept ++ kind 3 true false true false ++ kind 2 true false false true ++ kind 1 false true true false ++
         kind 0 false true false true }) ∧
     Completes (.ifence h m) s (p.setTh { p.th with buf := [] }) ∧
     (s.releaseIds m.sco.toNat = [] →
       ∃ d : State, Completes (.icsync h m) s d ∧ d.mem = s.mem ∧ (∀ r, d.reg r = s.reg r) ∧ d.th.buf = [] ∧
         (4 ≤ m.sco.toNat → ∀ c ∈ d.icCopies, c.2.1 ≠ s.th.asid) ∧
         (s.th.cc = true → ∀ c ∈ d.icCopies, ¬(c.1 = s.th.core ∧ c.2.1 = s.th.asid)))) ∧
  (∀ (s : State) (h : Hdr) (d a b : Opnd) (m : M5) (t : Tr),
     let p := s.past
     let va := s.reg a
     let r := p.remember p.who va kWrite t
     let far := farKind (p.kindOf t.pa)
     let out := p.kindOf t.pa = some .cxl ∨ p.kindOf t.pa = some .peer
     let ended := r.endResv (.thread s.cur)
     (p.goesOut true true false va 8 kWrite t →
       Completes (.atom h d a b m) s (State.single ended [.reg d] (.word d) va t 8
         (.atom m.op.toNat (s.reg b) (s.reg d)) true true m.sco.toNat)) ∧
     (p.goesOut true true false va 8 (if m.c then kWrite else kRead) t → far = false → (m.c = false → t.dup = false) →
       Completes (.ldfe h d a m) s
         (p.sent [.reg d] (.word d) va t 8 (if m.c then kWrite else kRead) (.ldfe m.c) true false
           m.sco.toNat).parkOwn) ∧
     (p.goesOut true true false va 8 kWrite t → far = false →
       Completes (.stfe h a b m) s (p.sent [] (.done []) va t 8 kWrite (.stfe (s.reg b)) false true m.sco.toNat).parkOwn ∧
       Completes (.fset h d a m) s (p.sent [.reg d] (.word d) va t 8 kWrite (.fset m.c) false false)) ∧
     (p.goesOut true true false va 8 kRead t → far = false →
       Completes (.fget h d a m) s (p.sent [.reg d] (.word d) va t 8 kRead .fget false false) ∧
       Completes (.waita h d a b m) s
         (p.sent [.reg d] (.word d) va t 8 kRead (.waita m.op.toNat (s.reg b)) true false m.sco.toNat).parkOwn) ∧
     (p.goesOut true true false va 8 kWrite t → ¬out →
       Completes (.mon h d a m) s (State.single ended [.reg d] (.word d) va t 8 .mon true false m.sco.toNat) ∧
       Completes (.monrel h a b m) s (p.sent [.pred m.pr] (.held m.pr) va t 8 kWrite (.monrel (s.reg b)) false true
         m.sco.toNat)) ∧
     (p.goesOut true true false va 8 kRead t → t.dup = true → m.c = false → s.clear (.ldfe h d a m) = true →
       exec (.ldfe h d a m) s = .next (s.trapNow (.of .writeDup va))))

/-- R112, R97, R387: a store at a home where nothing waits, nothing is logged and the frame is good. Exactly the stored
bytes change, in order from the address; every other byte, every full/empty bit, thread, context and barrel core stays.
R22, R27, R45, R168: a load's way back. Its access, performed at a memory home, hands the bytes there to the outstanding
result; the result returns them to X(D), sign-extended with .sx, and leaves the thread's list; poisoned bytes poison
X(D) instead. -/
def Obligations.StoresAndLoads : Prop :=
  (∀ (s : State) (h : Home) (src : Word) (pa : Nat) (bs : List Byte), s.quietHome h pa = true →
     let t := s.storeAt h src pa bs
     (∀ x, t.byte x = if pa ≤ x ∧ x < pa + bs.length then bs.getD (x - pa) 0 else s.byte x) ∧
     t.threads = s.threads ∧ t.ctxs = s.ctxs ∧ t.cores = s.cores ∧ t.barriers = s.barriers ∧ t.accs = s.accs ∧
     (∀ x, t.full x = s.full x) ∧ (∀ u, u ∈ t.poisoned → u ∈ s.poisoned)) ∧
  ((∀ (s : State) (a : Acc) (u : Nat) (o : Outst), a.op = .load → a.owner = .thread u → (∀ c, a.home ≠ .csr c) →
     a.out ≠ 0 → s.behind = [] → has s.threads u = true → (s.thread u).outst.find? (fun r => r.id == a.out) = some o →
     let t := s.perform a
     t.mem = s.mem ∧
     (t.thread u).outst.find? (fun r => r.id == a.out) = some (o.add a.off (s.bytes a.pa a.size) (s.isPoisoned a.pa a.size)) ∧
     (∀ r, t.regOf u r = s.regOf u r) ∧ ∀ w, w ≠ u → t.thread w = s.thread w) ∧
   ∀ (s : State) (u : Nat) (o : Outst) (d : Opnd) (n : Nat) (sx : Bool) (bs : List Byte), has s.threads u = true →
     o.fin = .load d n sx → n ≠ 16 → o.dsts = [.reg d] → o.dead = [] → o.got = [(0, bs)] →
     let t := s.returnResult u o
     let v := fromBytes (bs.take (min n 8))
     (o.bad = [] → (d.shared = true ∨ d.n ≠ 0) → s.outranked u (.reg d) = false →
       t.regOf u d = if sx ∧ n < 8 then sext (8 * n) v else BitVec.ofNat 64 v) ∧
     (o.bad ≠ [] → d.shared = false → d.n ≠ 0 → d.n.toNat ∈ (t.thread u).xPoison) ∧
     (∀ r, r ≠ d → t.regOf u r = s.regOf u r) ∧ t.mem = s.mem ∧
     (t.thread u).outst = (s.thread u).outst.filter fun p => p.id != o.id)

/-- R218: an `atom` at its home. The word takes the operation's value, the register receives the old one, and no other
byte changes. The table: add, and, or, xor, signed minimum and maximum, unsigned minimum and maximum, exchange, compare
and swap. R220, R103: full/empty at the home, for a word that no other agent reserves and no other request waits for.
`ldfe` of a full word gives the word, and empties it with .c; of an empty one it waits. `stfe` of an empty word writes
and fills it; of a full one it waits. R219: `monrel` at its home. With the reservation held, the word is written and
true returned, and the reservation ends; without it, nothing is written and false returned. -/
def Obligations.PerformedAtHome : Prop :=
  ((∀ (s : State) (a : Acc) (op : Nat) (b d : Word), s.quietHome a.home a.pa = true →
     let old := s.readWord a.pa
     ∃ q : State, q.mem = (s.storeAt a.home a.src a.pa (toBytes 8 (atomNew op old b d).toNat)).mem ∧
       q.readWord a.pa = atomNew op old b d ∧ (∀ x, x < a.pa ∨ a.pa + 8 ≤ x → q.byte x = s.byte x) ∧
       s.doAtom a op b d = q.deliver a (toBytes 8 old.toNat) (s.isPoisoned a.pa 8)) ∧
   ∀ old b d : Word,
     atomNew 0 old b d = old + b ∧ atomNew 1 old b d = old &&& b ∧ atomNew 2 old b d = old ||| b ∧
     atomNew 3 old b d = old ^^^ b ∧ atomNew 4 old b d = (if old.sle b then old else b) ∧
     atomNew 5 old b d = (if old.sle b then b else old) ∧ atomNew 6 old b d = (if old.ule b then old else b) ∧
     atomNew 7 old b d = (if old.ule b then b else old) ∧ atomNew 8 old b d = b ∧
     atomNew 9 old b d = (if old = d then b else old)) ∧
  (∀ (s : State) (a : Acc) (c : Bool) (v : Word), s.quietHome a.home a.pa = true → s.reserved a.owner a.pa 8 = false →
     (∀ p, a.owner ≠ .image p) →
     (a.op = .ldfe c → s.full a.pa = true →
       (s.enqueueWait a).full a.pa = !c ∧ (s.enqueueWait a).mem = s.mem ∧
       s.enqueueWait a = ((if c then s.setFull a.pa false else s).deliver a (s.bytes a.pa 8) (s.isPoisoned a.pa 8))) ∧
     (a.op = .ldfe c → s.full a.pa = false → (s.enqueueWait a).waiters = [a] ∧ (s.enqueueWait a).mem = s.mem) ∧
     (a.op = .stfe v → s.full a.pa = false →
       (s.enqueueWait a).full a.pa = true ∧ (s.enqueueWait a).readWord a.pa = v ∧
       ∀ x, x < a.pa ∨ a.pa + 8 ≤ x → (s.enqueueWait a).byte x = s.byte x) ∧
     (a.op = .stfe v → s.full a.pa = true → (s.enqueueWait a).waiters = [a] ∧ (s.enqueueWait a).mem = s.mem)) ∧
  (∀ (s : State) (a : Acc) (v : Word) (u : Nat), a.op = .monrel v → a.owner = .thread u → s.behind = [] →
     (s.holds a.owner a.pa = false →
       (s.perform a).mem = s.mem ∧ s.perform a = (s.countAccess a).deliver a [0] false) ∧
     (s.holds a.owner a.pa = true → s.quietHome a.home a.pa = true → s.resq = [] → s.overflow = [] →
       (s.perform a).readWord a.pa = v ∧ (s.perform a).holds a.owner a.pa = false ∧
       ∀ x, x < a.pa ∨ a.pa + 8 ≤ x → (s.perform a).byte x = s.byte x))

/-- R222, R28: `sleep` parks the thread for a result that its target fixes; `yield` holds a barrel-core thread back for
as many cycles as its core has slots, a control-core thread for 4 turns of its core (that N
is 4 there and a cycle is a turn of the core is the model's choice, log 71); `time` is NOW. -/
def Obligations.SleepYieldTime : Prop :=
  ∀ (s : State) (h : Hdr) (d a : Opnd) (m : M5),
    let p := s.past
    Completes (.sleep h d a m) s (p.openOut [.reg d] (.sleep (s.reg a)) 1).parkOwn ∧
    (s.th.cc = false →
      Completes (.yield h m) s (p.setTh { p.th with hold := s.myCore.cycle + slotsOf s.myCore.mode })) ∧
    (s.th.cc = true → Completes (.yield h m) s (p.setTh { p.th with hold := get 0 s.ccCycle s.th.core + 4 })) ∧
    Completes (.time h d m) s (p.setResult d (s.now, 0))

/-! ### Groups 0x6 and 0x7: vectors -/

/-- R178, R180, R181, R92: the vector arithmetic functions. Each active position of VD receives, element by element, the
function of the elements of VA, of VB or of X(S) broadcast with .bs, and of VC; the result returns later with the flags.
R178, R182 to R187: the other vector functions. `vperm` takes lane index mod 64 of row index / 64 mod VROWS of VA;
`vred` combines the elements of each active row as a tree of neighbours, an inactive lane giving the operation's identity, then
the rows in order (R94), into X(S). -/
def Obligations.VectorFunctions : Prop :=
  (∀ (s : State) (h : Hdr) (vd va vb vc : BitVec 4) (x : Opnd) (m : M6),
     let p := s.past
     let w := (Ty.ofEt m.et.toNat).width
     let mode := s.mode m.rnd
     let each : (Nat → Nat → Nat → Flagged Nat) → State := fun f =>
       p.openOut [.vec vd] (.done (lanesOf vd s.th.active fun r l =>
         laneMap w f (s.th.getLane va.toNat r l) (s.laneB m vb x r l) (s.th.getLane vc.toNat r l))) 0
     let one : (Nat → Flagged Nat) → State := fun f =>
       p.openOut [.vec vd] (.done (lanesOf vd s.th.active fun r l =>
         laneMap w (fun a _ _ => f a) (s.th.getLane va.toNat r l) 0 0)) 0
     let num := fun (ff : Val → Val → Val → Flagged Val) (fi : Int → Int → Int → Int) (a b c : Nat) =>
       byType m.et.toNat m.sat mode ff fi a b c
     Completes (.vadd h vd va vb x m) s (each (num (fun a b _ => a.add mode b) (fun a b _ => a + b))) ∧
     Completes (.vsub h vd va vb x m) s (each (num (fun a b _ => a.add mode b.neg) (fun a b _ => a - b))) ∧
     Completes (.vmul h vd va vb x m) s (each (num (fun a b _ => a.mul b) (fun a b _ => a * b))) ∧
     Completes (.vfma h vd va vb vc x m) s (each (num (fun a b c => Val.fma mode a b c) (fun a b c => a * b + c))) ∧
     Completes (.vmin h vd va vb x m) s (each fun a b _ => (minmaxElem m.et.toNat false a b, 0)) ∧
     Completes (.vmax h vd va vb x m) s (each fun a b _ => (minmaxElem m.et.toNat true a b, 0)) ∧
     Completes (.vabs h vd va m) s (one fun a => match Ty.ofEt m.et.toNat with
       | .flt f => (signElem f false a, 0)
       | .int sg w => intElem m.sat sg w (intOf sg w a).natAbs
       | .e8m0 => (a, 0)) ∧
     Completes (.vneg h vd va m) s (one fun a => match Ty.ofEt m.et.toNat with
       | .flt f => (signElem f true a, 0)
       | .int sg w => intElem m.sat sg w (-(intOf sg w a))
       | .e8m0 => (a, 0)) ∧
     Completes (.vexp2 h vd va m) s (one (approxElem m.et.toNat 0x08 Val.exp2)) ∧
     Completes (.vlog2 h vd va m) s (one (approxElem m.et.toNat 0x09 Val.log2)) ∧
     Completes (.vrcp h vd va m) s (one (approxElem m.et.toNat 0x0A Val.rcp)) ∧
     Completes (.vrsq h vd va m) s (one (approxElem m.et.toNat 0x0B Val.rsq))) ∧
  (∀ (s : State) (h : Hdr) (vd va vb vc : BitVec 4) (x : Opnd) (m : M6),
     let p := s.past
     let et := m.et.toNat
     let w := (Ty.ofEt et).width
     let mode := s.mode m.rnd
     let put := fun (f : Nat → Nat → Flagged Lane) => p.openOut [.vec vd] (.done (lanesOf vd s.th.active f)) 0
     let each : (Nat → Nat → Nat → Nat) → State := fun f => put fun r l =>
       laneMap w (fun a b c => (f a b c, 0)) (s.th.getLane va.toNat r l) (s.laneB m vb x r l) (s.th.getLane vc.toNat r l)
     let red := s.reduce va et m.cond.toNat mode
     Completes (.vand h vd va vb x m) s (each fun a b _ => a &&& b) ∧
     Completes (.vor h vd va vb x m) s (each fun a b _ => a ||| b) ∧
     Completes (.vxor h vd va vb x m) s (each fun a b _ => a ^^^ b) ∧
     Completes (.vsh h vd va vb x m) s (each fun a b _ => shiftElem w m.sh.toNat a b) ∧
     Completes (.vcmp h vd va vb x m) s (each fun a b _ => if cmpElem et m.cond.toNat a b then 2 ^ w - 1 else 0) ∧
     Completes (.vsel h vd va vb vc x m) s (each fun a b c => if c ≠ 0 then a else b) ∧
     Completes (.vscale h vd va vb x m) s (put fun r l =>
       laneMap w (fun a b _ => scaleElem et mode (if m.bs then (s.reg x).toInt else intOf true w b) a)
         (s.th.getLane va.toNat r l) (s.laneB m vb x r l) 0) ∧
     Completes (.vmov h vd va m) s (put fun r l => laneMap w (fun a _ _ => (a, 0)) (s.th.getLane va.toNat r l) 0 0) ∧
     Completes (.vbcast h vd x m) s (put fun r l => (s.laneB { m with bs := true } 0 x r l, 0)) ∧
     Completes (.vperm h vd va vb x m) s (put fun r l =>
       let b := if m.bs then (s.reg x).toNat else (s.th.getLane vb.toNat r l).toNat
       (s.th.getLane va.toNat (b / 64 % Config.vrows s.part) (b % 64), 0)) ∧
     Completes (.vred h va x m) s
       (p.openOut [.reg x] (.done [.reg x (redWord et red.1), .flags red.2]) 0) ∧
     ∃ ws : List Write, Completes (.vcvt h vd va x m) s (p.openOut [.vec vd] (.done ws) 0) ∧
       ws.dropLast = s.th.activeRows.flatMap fun r =>
         (s.cvtRow vd va (Ty.ofEt et) (Ty.ofCode m.tgt.toNat) mode m.sat
           ((s.reg x).toNat % (max (32 / (Ty.ofEt et).width) (32 / (Ty.ofCode m.tgt.toNat).width) /
             min (32 / (Ty.ofEt et).width) (32 / (Ty.ofCode m.tgt.toNat).width))) r).1) ∧
  (∀ (s : State) (va : BitVec 4) (et op mode : Nat), et < 7 → op < 3 →
     let w := (Ty.ofEt et).width
     let k := 32 / w
     let step := fun (a b : Nat) =>
       if op = 0 then byType et false mode (fun a b _ => a.add mode b) (fun a b _ => a + b) a b 0
       else (minmaxElem et (op == 2) a b, 0)
     let leaf := fun (r i : Nat) =>
       if i / k < s.th.activeLanes then (elemOf w (i % k) (s.th.getLane va.toNat r (i / k)), (0 : Word))
       else (redIdentity et op, 0)
     let row := fun (r : Nat) => treeNode step (leaf r) (Nat.log2 (64 * k)) 0
     (s.th.activeRows = [] → s.reduce va et op mode = (redIdentity et op, 0)) ∧
     ∀ r rs, s.th.activeRows = r :: rs → s.reduce va et op mode = rs.foldl (fun acc n =>
       ((step acc.1 (row n).1).1, acc.2 ||| (row n).2 ||| (step acc.1 (row n).1).2)) (row r)) ∧
  (∀ et, et < 7 → redIdentity et 0 = 0) ∧
  [0, 1, 2, 3, 4, 5, 6].map (fun et => redIdentity et 1) = [0x7F800000, 0x7F80, 0x7C00, 0x7FFFFFFF, 0x7FFF, 0x7F, 0xFF] ∧
  [0, 1, 2, 3, 4, 5, 6].map (fun et => redIdentity et 2) = [0xFF800000, 0xFF80, 0xFC00, 0x80000000, 0x8000, 0x80, 0]

/-- R176, R178: a vector result writes exactly the active positions of its register. After its writes, an active
position holds the function's lane and every other lane of every register what it held. R174, R175, R51, R52: `setshape`
grants what is asked for up to the unit's rows and lanes, 0 asking for all; it sets W_SHAPE when it grants less, and
activates the whole shape. `vact` activates up to 64 lanes and the rows of a mask, and answers the number of active
positions. -/
def Obligations.VectorLanesAndShape : Prop :=
  (∀ (s : State) (u : Nat) (vd : BitVec 4) (act : List (Nat × Nat)) (f : Nat → Nat → Flagged Lane),
     has s.threads u = true → (∀ q ∈ act, q.1 < 4 ∧ q.2 < 64) →
     let t := s.writeAll u [] (lanesOf vd act f)
     (∀ r l, (r, l) ∈ act → (t.thread u).getLane vd.toNat r l = (f r l).1) ∧
     (∀ (v : BitVec 4) (r l : Nat), r < 4 → l < 64 → (v ≠ vd ∨ (r, l) ∉ act) →
       (t.thread u).getLane v.toNat r l = (s.thread u).getLane v.toNat r l) ∧
     (∀ r, t.regOf u r = s.regOf u r) ∧ t.mem = s.mem ∧
     (t.thread u).flags = (s.thread u).flags ||| act.foldl (fun w q => w ||| (f q.1 q.2).2) 0) ∧
  (∀ (s : State) (h : Hdr) (d a b : Opnd),
     let p := s.past
     let rq := (s.reg a).toNat
     let lq := (s.reg b).toNat
     let rows := if rq = 0 then Config.vrows s.part else min rq (Config.vrows s.part)
     let lanes := if lq = 0 then 64 else min lq 64
     let shape := word (lanes * 256 + rows)
     let q := if Config.vrows s.part < rq ∨ 64 < lq then p.warnBit wSHAPE else p
     let q1 := q.setTh { q.th with vshape := shape, vact := word (lanes * 256 + (2 ^ rows - 1)) }
     let q2 := p.setTh { p.th with vact := word (min rq 64 * 256 + lq % 16) }
     Completes (.setshape h d a b) s (q1.openOut [.reg d] (.done [.reg d shape]) 0) ∧
     Completes (.vact h d a b) s (q2.openOut [.reg d] (.done [.reg d (word q2.th.active.length)]) 0))

/-- R188 to R191: vector loads and stores whose elements all pass their checks, in ascending order. One access goes out
for each active element; a load's result converts what they bring, a store's elements are converted before. -/
def Obligations.VectorMemory : Prop :=
  ∀ (s : State) (h : Hdr) (vd va : BitVec 4) (x : Opnd) (m : M7) (l : List (VElem × Tr)),
    let p := s.past
    let et := m.et.toNat
    let base := s.reg x
    let dense := p.th.denseIdx (perLane et)
    let spread := p.gatherIdx va (perLane et)
    let load := fun (idx : Nat → Nat → Nat → Int) =>
      let f := p.memFmt base m.mf
      let els := p.velems base et (fmtBits f et) idx
      State.sendElems p.next (elemBytes (fmtBits f et)) kRead (fun _ _ => .load) (m.ord != 0) (m.ord == 3) m.sco.toNat 0 l
        (p.openOut [.vec vd] (.lanes vd (els.map fun e => (64 * e.row + e.lane, e.e)) et f) l.length)
    let value := fun (e : VElem) => storeElem et (p.memFmt base m.mf)
      (elemOf (Ty.ofEt et).width e.e (s.th.getLane vd.toNat e.row e.lane))
    let store := fun (idx : Nat → Nat → Nat → Int) =>
      let wb := fmtBits (p.memFmt base m.mf) et
      State.sendElems p.next (elemBytes wb) kWrite
        (fun _ e => if wb = 4 then .storeNib (e.nib == 1) (BitVec.ofNat 4 (value e).1)
          else .store (toBytes (elemBytes wb) (value e).1)) (m.ord == 3) (m.ord != 0) m.sco.toNat 0 l
        (p.openOut [] (.done [.flags ((p.velems base et wb idx).foldl (fun w e => w ||| (value e).2) 0)]) l.length)
    let ready := fun (isLoad : Bool) (k : Nat) (idx : Nat → Nat → Nat → Int) =>
      p.elemsReady isLoad (elemBytes (fmtBits (p.memFmt base m.mf) et)) k
        (p.velems base et (fmtBits (p.memFmt base m.mf) et) idx) l
    let loadOk := ready true kRead
    let storeOk := ready false kWrite
    (loadOk dense → Completes (.vld h vd x m) s (load dense)) ∧
    (storeOk dense → Completes (.vst h vd x m) s (store dense)) ∧
    (loadOk spread → Completes (.vgather h vd va x m) s (load spread)) ∧
    (storeOk spread → Completes (.vscatter h vd va x m) s (store spread))

/-! ### Groups 0x8 and 0x9: the accumulator -/

/-- R196, R197: `oclaim` claims what X(S1) bits 15:0 name, all or nothing, and answers the mask of the named items that
are outside the grant or another thread's; `orel` releases the named items that the thread holds, once the unit has no
work left for a named tile, and answers the mask of the others. After a claim that found nothing busy the thread holds
every named item, one that it held already is as it was, and a new slot is CLAIMED and bound to UNIT, a new tile CLAIMED
as after `mzero`. R198 to R200, R193: `tld` into a slot that the thread holds sends its reads when its ranges pass, and
with .sc takes the lowest free granted register; `tfill` writes 64 copies of X(S1) into the rows of the mask and, in a
CLAIMED slot, zeros into the others. A slot that is not held, another's or outside the grant raises SLOT_STATE with its
reason, no free register reason 5. -/
def Obligations.OperandClaimsAndFill : Prop :=
  (∀ (s : State) (h : Hdr) (s1 s2 : Opnd) (m : M8),
     let p := s.past
     let named := maskBits (s.reg s1)
     let busy := named.filter s.itemBusy
     let mine := named.filter fun n => s.myCore.itemOwner n == some s.cur
     let claimed := p.onMyCore fun k => forEach (Core.claim s.cur) named k
     let freed := p.onMyCore fun k => forEach (Core.release s.cur) mine k
     let slots := mine.filter (· < 8)
     let gone := (slots.map Dst.slot).contains
     let dead := freed.setTh { freed.th with outst := freed.th.outst.map fun o => match o.fin with
       | .done ws => { o with fin := .done (ws.filter fun w => !w.into slots), dsts := o.dsts.filter fun d => !gone d }
       | _ => { o with dead := o.dead ++ (slots.map Dst.slot).filter o.dsts.contains } }
     (busy ≠ [] → Completes (.oclaim h s1 s2 m) s (p.later [.reg s2] [.reg s2 (maskWord busy)])) ∧
     (busy = [] → Completes (.oclaim h s1 s2 m) s (claimed.later [.reg s2] [.reg s2 0])) ∧
     ((∀ n ∈ mine, 8 ≤ n → s.tileBusy s.th.core (n - 8) = false) →
       Completes (.orel h s1 s2 m) s (dead.later [.reg s2] [.reg s2 (maskWord (named.filter fun n => !mine.contains n))])) ∧
     ∀ (k : Core) (u n : Nat), n < 16 →
       (k.itemOwner n = some u → Core.claim u n k = k) ∧
       (k.itemOwner n ≠ some u → ∀ c : Core, c = Core.claim u n k → c.itemOwner n = some u ∧ c.itemState n = 1 ∧
         (n < 8 → (c.slot n).unit = true) ∧
         (8 ≤ n → c.tile (n - 8) = (c.tile (n - 8)).zeroed) ∧
         ∀ j, j < 16 → j ≠ n → c.itemOwner j = k.itemOwner j ∧ c.itemState j = k.itemState j)) ∧
  (∀ (s : State) (h : Hdr) (o : BitVec 3) (s1 s2 : Opnd) (fmt : BitVec 4) (z : BitVec 6) (m : M8) (zr n : Nat),
     let p := s.past
     let a := s.reg s1
     let k := rowLen (slotPlain fmt.toNat)
     let src := p.memFmt a fmt
     let notFree : Nat → Bool := fun st => st ≠ 0
     let dataOk := a = (a.setWidth 52).signExtend 64 ∧ a.toNat % 16 = 0 ∧
       p.rangeReady true a (tldBytes (tldSource fmt.toNat src) k) kRead
     let scaleOk := p.rangeReady true (s.reg s2) (32 * (k / blkSize m.blk)) kRead
     let rows : List Write := (List.range 32).flatMap fun r =>
       if (s.reg s2).getLsbD r then [.row o.toNat r (List.replicate 64 (toBytes 8 a.toNat)).flatten]
       else if (s.myCore.slot o.toNat).state = 1 then [.row o.toNat r (List.replicate 512 0)] else []
     let old := s.myCore.slot o.toNat
     let filled := fun (unit : Bool) (z gen : Nat) => p.onMyCore fun c => Core.freeAuto (c.setSlot o.toNat
       { old with state := 2, fmt := fmt.toNat, unit := unit, z := z, gen := gen, blk := 0 }) s.cur o.toNat old
     (p.slotReason o.toNat notFree = none → dataOk → m.sc = false →
       Completes (.tld h o s1 s2 fmt m) s (p.startTld o.toNat a 0 fmt.toNat src k m none)) ∧
     (p.slotReason o.toNat notFree = none → dataOk → m.sc = true → scaleOk → p.freeScale = some zr →
       Completes (.tld h o s1 s2 fmt m) s (p.startTld o.toNat a (s.reg s2) fmt.toNat src k m (some zr))) ∧
     (p.slotReason o.toNat notFree = none → dataOk → m.sc = true → scaleOk → p.freeScale = none →
       s.clear (.tld h o s1 s2 fmt m) = true →
       exec (.tld h o s1 s2 fmt m) s = .next (s.trapNow (.of .slotState 5))) ∧
     (p.slotReason o.toNat notFree = none → m.sc = false → Completes (.tfill h o s1 s2 z fmt m) s
       ((filled true 0 0).later [.slot o.toNat] (rows ++ [.loaded o.toNat]))) ∧
     (p.slotReason o.toNat notFree = none → m.sc = true → p.scaleHeld z.toNat = none → Completes (.tfill h o s1 s2 z fmt m) s
       ((filled false z.toNat (s.myCore.scale z.toNat).gen).later [.slot o.toNat] (rows ++ [.loaded o.toNat]))) ∧
     (p.slotReason o.toNat notFree = some n →
       (s.clear (.tld h o s1 s2 fmt m) = true →
         exec (.tld h o s1 s2 fmt m) s = .next (s.trapNow (.of .slotState (word n)))) ∧
       (s.clear (.tfill h o s1 s2 z fmt m) = true →
         exec (.tfill h o s1 s2 z fmt m) s = .next (s.trapNow (.of .slotState (word n))))))

/-- R201 to R204, R208, R193: on a tile that the thread holds and that is CLAIMED, `mzero`, `manch` and `mma` queue
their work in the unit, and `mdrain` makes the tile DRAINING with 32 handlers to end. `mma` needs two slots that are
LOADED or FILLING with a permitted pair of formats and current tags. `mstat` reads a held tile in either state. A tile
that is not held, another's, or DRAINING raises SLOT_STATE with its reason. R206, R207: in a row handler, `rowout` with
S1 not zero stores the 32 converted elements at X(S1) onward, and with S1 zero writes them into a slot that the handler
or the issuer of its `mdrain` holds: bytes of the issuer's slot are a write of that `mdrain` while its result is outstanding,
any others one of the `rowout`'s own result (R22, R25); `rowend` of a drained handler ends it. In any other thread both raise
ILLEGAL_OP with the instruction's word. -/
def Obligations.TilesAndRows : Prop :=
  (∀ (s : State) (h : Hdr) (ta oa ob : BitVec 3) (s1 s2 : Opnd) (m : M8) (n : Nat),
     let p := s.past
     let t := ta.toNat
     let claimed : Nat → Bool := fun st => st == 1
     let full : Nat → Bool := fun st => st == 2 || st == 3
     let a := s.myCore.slot oa.toNat
     let b := s.myCore.slot ob.toNat
     let q := p.openOut [] (.done []) 1
     (p.tileReason t claimed = none →
       Completes (.mzero h ta m) s (p.queueJob [] (.zero t)) ∧
       Completes (.manch h ta s1 m) s (p.queueJob [] (.anchor t ((s.reg s1).setWidth 10).toInt)) ∧
       (p.slotReason oa.toNat full = none → p.slotReason ob.toNat full = none → pairOk a.fmt b.fmt = true →
         s.myCore.stale a = false → s.myCore.stale b = false →
         (∀ o ∈ [a, b], o.unit = false → s.outstanding (.scale o.z) = false ∧ s.poisonedDst (.scale o.z) = false) →
         Completes (.mma h ta oa ob m) s (p.queueJob [] (.mma t a.all b.all a.fmt b.fmt a.scaling b.scaling))) ∧
       (p.slotReason oa.toNat full = none → p.slotReason ob.toNat full = none → pairOk a.fmt b.fmt = false →
         s.clear (.mma h ta oa ob m) = true →
         exec (.mma h ta oa ob m) s = .next (s.trapNow (.of .slotState 3))) ∧
       (p.slotReason oa.toNat full = none → p.slotReason ob.toNat full = none → pairOk a.fmt b.fmt = true →
         s.myCore.stale a = true → s.clear (.mma h ta oa ob m) = true →
         exec (.mma h ta oa ob m) s = .next (s.trapNow (.of .scaleStale (word (oa.toNat + a.z * 256))))) ∧
       (p.otherVecSlot = true →
         Completes (.mdrain h ta s1 s2 m) s (q.onMyCore fun c => c.setTile t { c.tile t with
           state := 2, left := 32, read := false, drain := some (s.reg s1, s.reg s2, s.mode m.rnd, s.cur, s.next) })) ∧
       (p.otherVecSlot = false → s.clear (.mdrain h ta s1 s2 m) = true →
         exec (.mdrain h ta s1 s2 m) s = .next (s.trapNow (.of .slotState 6)))) ∧
     (p.tileReason t (fun _ => true) = none →
       Completes (.mstat h ta s1 s2 m) s (p.queueJob [.reg s2] (.stat t ((s.reg s1).getLsbD 0) ((s.myCore.tile t).state == 1) s2))) ∧
     (p.tileReason t claimed = some n →
       (s.clear (.mzero h ta m) = true → exec (.mzero h ta m) s = .next (s.trapNow (.of .slotState (word n)))) ∧
       (s.clear (.mma h ta oa ob m) = true →
         exec (.mma h ta oa ob m) s = .next (s.trapNow (.of .slotState (word n)))))) ∧
  (∀ (s : State) (h : Hdr) (o : BitVec 3) (s1 s2 : Opnd) (fmt : BitVec 4) (m : M8) (l : List (VElem × Tr)),
     let p := s.past
     let els := p.rowElems fmt.toNat
     let bs := rowBytes fmt.toNat (els.map (·.1))
     let flags := els.foldl (fun f e => f ||| e.2) 0
     let u := rowUnit fmt.toNat
     let ves : List VElem := (List.range (bs.length / u)).map fun n => ⟨0, n, 0, s.reg s1 + word (n * u), 0⟩
     let q := s.myCore.slot o.toNat
     let r := (s.reg s2).toNat % 32
     let c := (s.reg s2).toNat / 32 % 64
     let fits := slotFmt fmt = true ∧ 32 * c + 32 ≤ rowLen fmt.toNat
     let packed := packElems fmt.toNat (els.map (·.1))
     let next := fun (base : Slot) =>
       State.putPart (p.onMyCore fun k => k.setSlot o.toNat base) o.toNat (512 * r + c * packed.length) packed flags
     (p.th.isRow = true → s1 ≠ Opnd.zero → p.elemsReady false u kWrite ves l →
       Completes (.rowout h o s1 s2 fmt m) s (State.sendElems p.next u kWrite
         (fun n _ => .store ((bs.drop (n * u)).take u)) false false 0 0 l
         (p.openOut [] (.done [.flags flags]) l.length))) ∧
     (p.th.isRow = true → s1 = Opnd.zero → p.slotGranted o.toNat = true →
       (q.owner = some s.cur ∨ (q.owner.isSome = true ∧ q.owner = p.drainIssuer)) → fits →
       (q.state = 1 → Completes (.rowout h o s1 s2 fmt m) s
         (next { q with state := 3, fmt := fmt.toNat, unit := true, bytes := [] })) ∧
       (q.state = 3 → q.fmt = fmt.toNat → Completes (.rowout h o s1 s2 fmt m) s (next q)) ∧
       (q.state = 3 → q.fmt ≠ fmt.toNat → s.clear (.rowout h o s1 s2 fmt m) = true →
         exec (.rowout h o s1 s2 fmt m) s = .next (s.trapNow (.of .slotState 7)))) ∧
     (∀ (q : State) (n off : Nat) (ws : List Byte) (g : Word),
       ((∀ u out, q.drainOf = some (u, out) → (q.myCore.slot n).owner ≠ some u ∨ ∀ e ∈ (q.thread u).outst, e.id ≠ out) →
         q.putPart n off ws g = q.later [.slot n] [.part n off ws, .flags g]) ∧
       ∀ u out, q.drainOf = some (u, out) → (q.myCore.slot n).owner = some u → (∃ e ∈ (q.thread u).outst, e.id = out) →
         (q.putPart n off ws g).cores = q.cores ∧ q.putPart n off ws g = (q.onThread u fun x => { x with
           outst := modFirst (fun e => e.id == out) (·.addWrite (.slot n) (.part n off ws)) x.outst }).later [] [.flags g]) ∧
     (p.th.isRow = true → p.drained s.cur = true → Completes (.rowend h m) s (p.endThread s.cur false)) ∧
     (p.th.isRow = false →
       (s.clear (.rowout h o s1 s2 fmt m) = true →
         exec (.rowout h o s1 s2 fmt m) s =
           .next (s.trapNow (.of .illegalOp (Instr.rowout h o s1 s2 fmt m).word))) ∧
       (s.clear (.rowend h m) = true →
         exec (.rowend h m) s = .next (s.trapNow (.of .illegalOp (Instr.rowend h m).word)))))

/-- R86 to R89, R201: what the unit does to a tile. `mzero` leaves finite zeros, an unset anchor and clear flags. An
element of class NaN stays NaN; a finite one whose operands are finite becomes its sum, truncated to the window of the
anchor towards minus infinity (ACC_LOW when bits are lost) and held between -2^127 and 2^127 - 1 (ACC_HIGH); infinities
of both signs, that of the element among them, make it NaN with NV, those of one sign make it that infinity. That a NaN operand
makes it NaN without NV, even where another product is infinity times 0, is the model's reading (log 15). The anchor is set by the
first `mma` and then stays. -/
def Obligations.Accumulation : Prop :=
  (∀ (t : Tile) (n : Nat), get Elem.zero t.zeroed.el n = ⟨0, 0⟩ ∧ t.zeroed.set = false ∧ t.zeroed.low = false ∧
    t.zeroed.high = false ∧ t.zeroed.owner = t.owner ∧ t.zeroed.state = t.state) ∧
  (∀ (a v : Int), -512 ≤ a → a ≤ 511 →
    let lsb : Int := ((2 ^ (a - 96 + 700).toNat : Nat) : Int)
    let w := window a v
    w.1 ≤ 2 ^ 127 - 1 ∧ -(2 ^ 127) ≤ w.1 ∧
    (-(2 ^ 127) * lsb ≤ v → v < 2 ^ 127 * lsb → w.1 * lsb ≤ v ∧ v < (w.1 + 1) * lsb ∧ w.2.2 = false) ∧
    (2 ^ 127 * lsb ≤ v → w.1 = 2 ^ 127 - 1 ∧ w.2.2 = true) ∧ (v < -(2 ^ 127) * lsb → w.1 = -(2 ^ 127) ∧ w.2.2 = true) ∧
    (w.2.1 = true ↔ ¬ lsb ∣ v)) ∧
  (∀ (a : Int) (e : Elem) (d : Dot),
    (e.cls = 3 ∨ d.nan = true → accumulate a e d = (⟨3, 0⟩, false, false, false)) ∧
    (e.cls ≠ 3 → d.nan = false → d.bad = true → accumulate a e d = (⟨3, 0⟩, false, false, true)) ∧
    (e.cls ≠ 3 → d.nan = false → d.bad = false → (d.pos = true ∨ e.cls = 1) → (d.neg = true ∨ e.cls = 2) →
      accumulate a e d = (⟨3, 0⟩, false, false, true)) ∧
    (d.nan = false → d.bad = false → ((d.pos = true ∧ e.cls = 0) ∨ e.cls = 1) → d.neg = false →
      accumulate a e d = (⟨1, 0⟩, false, false, false)) ∧
    (d.nan = false → d.bad = false → ((d.neg = true ∧ e.cls = 0) ∨ e.cls = 2) → d.pos = false →
      accumulate a e d = (⟨2, 0⟩, false, false, false)) ∧
    (e.cls = 0 → d.nan = false → d.bad = false → d.pos = false → d.neg = false →
      let v := e.v.toInt * ((2 ^ (a - 96 + 700).toNat : Nat) : Int) + d.sum
      accumulate a e d = (⟨0, BitVec.ofInt 128 (window a v).1⟩, (window a v).2.1, (window a v).2.2, false))) ∧
  ∀ (c : Core) (t : Tile) (a b : List Byte) (fa fb : Nat) (za zb : Option (Nat × Nat)) (n : Nat), n < 1024 →
    let k := rowLen fa
    let anchor := if t.set then t.anchor else firstAnchor c fa fb k za zb
    let q := (c.doMma t a b fa fb za zb).1
    q.anchor = anchor ∧ q.set = true ∧ q.owner = t.owner ∧ (t.low = true → q.low = true) ∧ (t.high = true → q.high = true) ∧
    get Elem.zero q.el n = (accumulate anchor (get Elem.zero t.el n)
      (dotOf c (sparseFrom 0 0 a) (sparseFrom 0 0 b) fa fb k za zb (n / 32) (n % 32))).1

/-- R209 to R212, R55: an instruction that writes a scale register that is the thread's or free makes the thread hold it
and advances its generation. `sld` opens a load of n codes a row, `sst` stores the 1,024 bytes, `sadd`, `smax`, `smin`,
`sset` and `sreblk` rewrite the codes; a register of another thread raises SLOT_STATE 1. R213 to R215: `smov` copies the
codes bound to a slot into a scale register; `sbind` binds a LOADED or FILLING slot to UNIT or to a held register's
present generation, and refuses more than 32 codes a row with SLOT_STATE 4; `squery` reads a slot's record; `sfree`
releases a held register. A stale binding makes `smov` raise SCALE_STALE. -/
def Obligations.ScaleRegisters : Prop :=
  ((∀ (s : State) (h : Hdr) (s1 : Opnd) (z : BitVec 6) (m : M8),
     let p := s.past
     let a := s.reg s1
     let n := 512 / blkSize m.blk
     let len := n * 32 * if m.sc then 4 else 1
     let zn := z.toNat
     let bs := (s.myCore.scale zn).all
     let w := p.onMyCore (·.writeScale s.cur zn)
     let put := fun (l : List Byte) (f : Word) => w.later [.scale zn] [.scale zn l, .flags f]
     (p.scaleReason zn = none →
       (a = (a.setWidth 52).signExtend 64 → (m.sc = true → a.toNat % 4 = 0) → p.rangeReady true a len kRead →
         Completes (.sld h s1 z m) s ((w.openOut [.scale zn] (.scale zn n m.sc) (piecesOf 0 a len).length).sendPieces p.next
           kRead (fun _ _ => .load) (piecesOf 0 a len))) ∧
       (p.rangeReady false a 1024 kWrite →
         Completes (.sst h s1 z m) s ((p.openOut [] (.done []) (piecesOf 0 a 1024).length).sendPieces p.next kWrite
           (fun off n => .store ((bs.drop off).take n)) (piecesOf 0 a 1024))) ∧
       Completes (.sadd h s1 z m) s (put (bs.map fun b => if b = 255 then 255 else BitVec.ofInt 8 (max 0 (min 254 (b.toNat + a.toInt))))
         (if ∃ b ∈ bs, b ≠ 255 ∧ (b.toNat + a.toInt < 0 ∨ 254 < b.toNat + a.toInt) then fSAT else 0)) ∧
       Completes (.smax h s1 z m) s (put (bs.map fun b =>
         if b = 255 ∨ a.setWidth 8 = 255 then 255 else if b < a.setWidth 8 then a.setWidth 8 else b) 0) ∧
       Completes (.smin h s1 z m) s (put (bs.map fun b =>
         if b = 255 ∨ a.setWidth 8 = 255 then 255 else if a.setWidth 8 < b then a.setWidth 8 else b) 0) ∧
       Completes (.sset h s1 z m) s (put (bs.map fun _ => a.setWidth 8) 0) ∧
       Completes (.sreblk h s1 z m) s (put (reblock (s.mode m.rnd) (blkSize (a.setWidth 2)) (blkSize m.blk) bs) 0)) ∧
     (p.scaleReason zn = some 1 → s.clear (.sset h s1 z m) = true →
       exec (.sset h s1 z m) s = .next (s.trapNow (.of .slotState 1)))) ∧
   (∀ (k : Core) (u z : Nat), z < 64 →
     let r := (k.writeScale u z).scale z
     r.owner = some u ∧ r.gen = ((k.scale z).gen + 1) % 1024 ∧ r.bytes = (k.scale z).bytes ∧
     ((k.scale z).owner ≠ some u → r.auto = false) ∧ ((k.scale z).owner = some u → r.auto = (k.scale z).auto)) ∧
   ∀ (mode bs bd : Nat) (old : List Byte) (x : Nat), x < 1024 →
     let lo := x % 32 * bd / bs
     let hi := (x % 32 * bd + bd - 1) / bs
     let l := (List.range (hi - lo + 1)).map fun n => (old.getD (x / 32 * 32 + lo + n) 127).toNat
     (reblock mode bs bd old).getD x 0 =
       if 31 < hi then 127 else if 255 ∈ l then 255 else BitVec.ofNat 8 (combineCodes mode l)) ∧
  (∀ (s : State) (h : Hdr) (o : BitVec 3) (s1 s2 : Opnd) (z : BitVec 6) (m : M8),
     let p := s.past
     let q := s.myCore.slot o.toNat
     let zn := z.toNat
     let full : Nat → Bool := fun st => st == 2 || st == 3
     let notFree : Nat → Bool := fun st => st ≠ 0
     let bound := fun (n : Slot) => State.later (p.onMyCore fun c => Core.freeAuto (c.setSlot o.toNat n) s.cur o.toNat q) [] []
     (p.slotReason o.toNat notFree = none → p.scaleReason zn = none → s.myCore.stale q = false →
       (q.unit = false → s.outstanding (.scale q.z) = false ∧ s.poisonedDst (.scale q.z) = false) →
       Completes (.smov h o z m) s (State.later (p.onMyCore (·.writeScale s.cur zn)) [.scale zn]
         [.scale zn (if q.unit then List.replicate 1024 127 else (s.myCore.scale q.z).all)])) ∧
     (p.slotReason o.toNat notFree = none → p.scaleReason zn = none → s.myCore.stale q = true →
       s.clear (.smov h o z m) = true →
       exec (.smov h o z m) s = .next (s.trapNow (.of .scaleStale (word (o.toNat + q.z * 256))))) ∧
     (p.slotReason o.toNat full = none → (s.reg s1).getLsbD 0 = true →
       Completes (.sbind h o s1 z m) s (bound { q with unit := true, z := 0, gen := 0, blk := 0 })) ∧
     (p.slotReason o.toNat full = none → (s.reg s1).getLsbD 0 = false → p.scaleHeld zn = none →
       (rowLen q.fmt / blkSize m.blk ≤ 32 →
         Completes (.sbind h o s1 z m) s
           (bound { q with unit := false, z := zn, gen := (s.myCore.scale zn).gen, blk := m.blk.toNat })) ∧
       (32 < rowLen q.fmt / blkSize m.blk → s.clear (.sbind h o s1 z m) = true →
         exec (.sbind h o s1 z m) s = .next (s.trapNow (.of .slotState 4)))) ∧
     (p.slotReason o.toNat (fun _ => true) = none → Completes (.squery h o s2 m) s (p.later [.reg s2] [.reg s2
       (word (q.state * 2 ^ 24 + q.fmt * 2 ^ 20 + (if s.myCore.stale q then 2 ^ 19 else 0) + (if q.unit then 2 ^ 18 else 0) +
         q.blk * 2 ^ 16 + q.gen * 2 ^ 6 + q.z))])) ∧
     (p.scaleHeld zn = none → Completes (.sfree h z m) s (State.later (p.onMyCore fun c =>
       c.setScale zn { c.scale zn with owner := none, auto := false }) [] [])))

/-! ### Group 0x3, endings, and group 0xA: tasks, barriers, nomads -/

/-- R163, R164, R411: a gated service call of a drained thread answers its gate's status in X1, or stores the value of all ones
into the reply record's first word and parks until that is performed; it then goes on, sets X1 to 0 and queues the call, once
fewer than 256 of its context are in flight and the release has nothing to wait for. `exit` of a drained thread ends it, for a
task where the join counter can be reached, else it is the trap of that. -/
def Obligations.ServiceAndExit : Prop :=
  ∀ (s : State) (h : Hdr) (kind : BitVec 2) (code : BitVec 16) (t : Tr) (tr : Trap),
    let p := s.past
    let st := p.gateStatus code.toNat (s.xr 1)
    let x1 : Opnd := ⟨false, 1⟩
    let i := Instr.gatedServiceCall h kind code
    let r := p.remember p.who (s.xr 6) kWrite t
    let q := (r.openOut [] .trace 1).access (s.xr 6) t 8 (.store (List.replicate 8 255)) r.next 0 false false
    let c : Call := ⟨p.next, s.th.asid, s.th.thread, code.toNat, (s.xr 1).toNat, [s.xr 2, s.xr 3, s.xr 4, s.xr 5], s.xr 6,
      s.th.core, s.th.cc, false⟩
    (p.drained s.cur = true →
      (st ≠ 0 → Completes i s (p.setReg x1 (word st))) ∧
      (st = 0 → p.gateChecks code.toNat = .ok () → s.myCtx.calls < 256 → p.translate p.who (s.xr 6) kWrite = .ok t →
        Parks i s (q.setTh { q.th with trace := q.th.trace ++ [.open r.next], buf := [] }) (.own r.next)) ∧
      (s.th.trace ≠ [] → s.myCtx.calls < 256 → s.releaseIds 4 = [] →
        Resumes i s (State.setReg (State.onCtx { p with calls := p.calls ++ [c], next := p.next + 1 } p.th.asid
          fun x => { x with calls := x.calls + 1 }) x1 0)) ∧
      (p.joinFault = none → Completes (.exit h kind) s (p.endThread s.cur false))) ∧
    (p.joinFault = none → p.drained s.cur = false → Parks (.exit h kind) s p .drain) ∧
    (p.joinFault = some tr → s.clear (.exit h kind) = true → exec (.exit h kind) s = .next (s.trapNow tr)) ∧
    (s.th.isTask = false → p.joinFault = none)

/-- R35 to R37, R224: `fork` with room in the deque puts the task at its tail and adds 1 to the join counter, as a
release; `tend` ends a drained task thread whose join counter can be stored to, is the trap of a failed check of that (R26),
and is ILLEGAL_OP in any other thread; `joinw` waits at the counter's home until it reads zero. -/
def Obligations.ForkAndJoin : Prop :=
  ∀ (s : State) (h : Hdr) (a b : Opnd) (res : Bool) (t : Tr),
    let p := s.past
    let pc := s.reg a
    let j := s.reg b
    let q := p.remember p.who j kWrite t
    let q' := q.onCore s.th.core fun k => { k with
      deque := k.deque ++ [⟨s.th.asid, pc, [s.xr 1, s.xr 2, s.xr 3, s.xr 4], j, s.th.cls, q.next + 1⟩] }
    (pc.toNat % 8 ≠ 0 → s.clear (.fork h a b res) = true →
      exec (.fork h a b res) s = .next (s.trapNow (.of .align pc))) ∧
    (pc.toNat % 8 = 0 → p.goesOut true true false j 8 kWrite t → (s.core s.th.core).deque.length < 64 →
      Completes (.fork h a b res) s (q'.single [] (.done []) j t 8 (.atom 0 1 0) false true 4)) ∧
    (∀ jc tr, s.th.work = .task jc →
      (p.check p.who jc 8 kWrite = .ok t → p.csrBad t.pa 8 false = false →
        (p.drained s.cur = true → Completes (.tend h res) s (p.endThread s.cur false)) ∧
        (p.drained s.cur = false → Parks (.tend h res) s p .drain)) ∧
      (p.check p.who jc 8 kWrite = .ok t → p.csrBad t.pa 8 false = true → s.clear (.tend h res) = true →
        exec (.tend h res) s = .next (s.trapNow (.of .prot jc))) ∧
      (p.check p.who jc 8 kWrite = .error tr → s.clear (.tend h res) = true → exec (.tend h res) s = .next (s.trapNow tr))) ∧
    (s.th.isTask = false → s.clear (.tend h res) = true →
      exec (.tend h res) s = .next (s.trapNow (.of .illegalOp (Instr.tend h res).word))) ∧
    (p.goesOut true true false pc 8 kRead t → farKind (p.kindOf t.pa) = false →
      Completes (.joinw h a res) s (p.sent [] (.done []) pc t 8 kRead (.waita 0 0) true false 4).parkOwn)

/-- R225, R226, R125: on a barrier number that the context is granted on its cluster and where the thread has no arrival
under way, `barr` of a member that has not arrived sends its arrival, a release at .cl, and answers the phase that it arrives
in; one that has arrived parks until the phase ends; `bwait` of a member that has not arrived goes on, any other thread parks
until the phase ends; `bmiss` answers a chunk of the members still missing; `bcfg` gives the members of its descriptor. A
number that is not granted raises PROT with the number. An arrival that reaches the barrier sets its bit; a slot's hands the
phase before to its thread, an engine's that finds its bit set is held. A phase ends when every member has arrived: it advances
by one, and without held engine arrivals none has arrived in the next. That an arrival is an access of its own, which later
accesses of the thread do not follow, is the model's form of that release (log 80). -/
def Obligations.Barriers : Prop :=
  (∀ (s q : State) (h : Hdr) (d a b : Opnd) (res : Bool) (bs : List Byte),
    let p := s.past
    let n := (s.reg a).toNat % 32
    let key := barrierKey s.th.core n
    let x := s.barrier key
    let me := slotBit s.th.core s.th.slot
    let missing := x.members &&& ~~~x.arrived
    let k := (s.reg b).toNat
    let kept := p.setTh { p.th with kept := [word key] }
    let q' := q.setTh { q.th with trace := [] }
    let m : BitVec 528 := BitVec.ofNat 528 (fromBytes (bs.take 66))
    let y := { q.barrier key with members := m, arrived := (q.barrier key).arrived &&& m }
    (s.barrierGranted s.th.asid s.th.core n = true → p.arriving key = [] →
      (x.members &&& me ≠ 0 → x.arrived &&& me = 0 → Completes (.barr h d a res) s
        (State.sendArrival (p.openOut [.reg d] (.word d) 1) (.thread s.cur) s.th.asid p.next (.slot key me) key 2)) ∧
      (x.members &&& me ≠ 0 → x.arrived &&& me ≠ 0 → Parks (.barr h d a res) s p (.arrive key x.phase)) ∧
      (x.members &&& me = 0 → s.clear (.barr h d a res) = true →
        exec (.barr h d a res) s = .next (s.trapNow (.of .prot (word n)))) ∧
      (x.members &&& me ≠ 0 ∧ x.arrived &&& me = 0 → Completes (.bwait h a res) s p) ∧
      (¬(x.members &&& me ≠ 0 ∧ x.arrived &&& me = 0) →
        Completes (.bwait h a res) s (p.setTh { p.th with park := .barrier key x.phase, parkedAt := s.now })) ∧
      Completes (.bmiss h d a b res) s (p.later [.reg d] [.reg d (if k < 8 then missing.extractLsb' (64 * k) 64
        else if k = 8 then (missing.extractLsb' 512 16).setWidth 64 else 0)]) ∧
      (s.th.kept = [] → kept.descriptorReady (s.reg b) 16 80 bs q → q'.membersOwned (key / 32 * 16) m = true →
        Completes (.bcfg h a b res) s ((q'.setBarrier key (Barrier.complete y.fuel y)).later [] []))) ∧
    (s.barrierGranted s.th.asid s.th.core n = false →
      (s.clear (.barr h d a res) = true → exec (.barr h d a res) s = .next (s.trapNow (.of .prot (word n)))) ∧
      (s.clear (.bwait h a res) = true → exec (.bwait h a res) s = .next (s.trapNow (.of .prot (word n)))) ∧
      (s.clear (.bmiss h d a b res) = true → exec (.bmiss h d a b res) s = .next (s.trapNow (.of .prot (word n)))) ∧
      (s.clear (.bcfg h a b res) = true → exec (.bcfg h a b res) s = .next (s.trapNow (.of .prot (word n)))))) ∧
  (∀ (s : State) (o : Owner) (asid out key sco : Nat) (k : Signal),
    let q := s.sendArrival o asid out k key sco
    q.mem = s.mem ∧ q.threads = s.threads ∧ q.barriers = s.barriers ∧ q.ctxs = s.ctxs ∧ q.cores = s.cores ∧
    ∃ (a : Acc) (l : List Need), q.accs = s.accs ++ [a] ∧ a.op = .signal k l ∧ a.owner = o ∧ a.asid = asid ∧ a.out = out ∧
      a.rel = true ∧ a.sco = sco) ∧
  (∀ (s : State) (a : Acc) (key c : Nat) (pos : BitVec 528),
    let b := s.barrier key
    (s.barrierGranted a.asid (key / 32 * 16) (key % 32) = true →
      s.arriveAt a (.slot key pos) = (s.setBarrier key (b.arrive pos)).deliver a (toBytes 8 b.phase.toNat) false) ∧
    (s.barrierGranted a.asid c (key % 32) = true →
      (b.arrived &&& engineBit c = 0 → s.arriveAt a (.engine key c) = s.setBarrier key (b.arrive (engineBit c))) ∧
      (b.arrived &&& engineBit c ≠ 0 → s.arriveAt a (.engine key c) = s.setBarrier key
        { b with held := put b.held (c % 16) (get 0 b.held (c % 16) + 1) }))) ∧
  ∀ (b : Barrier) (m : BitVec 528),
    ((b.arrived ||| m) &&& b.members ≠ b.members → b.arrive m = { b with arrived := b.arrived ||| m }) ∧
    ((b.arrived ||| m) &&& b.members = b.members → b.held = [] →
      b.arrive m = { b with arrived := 0, phase := b.phase + 1 })

/-- R32 to R34, R227: `migrate` of a drained nomadic thread to a core of its core set leaves its slot and moves, and at
its own core does nothing; a thread that is not nomadic raises SLOT_STATE 2 and a core outside the set PROT. `nomad`
makes the thread nomadic and discards its vector state, after which VSHAPE and VACT read 0x4001 as in a new thread (that value is
the model's reading, log 18), or with .res ends that; `homeq` answers the home of the address's translation. -/
def Obligations.Nomads : Prop :=
  ∀ (s : State) (h : Hdr) (d a : Opnd) (res : Bool) (t : Tr),
    let p := s.past
    let c := (s.reg a).toNat
    let x := p.depart c
    let toCore := s.th.nomad = true ∧ c < Config.cores s.part ∧ s.inSet s.th.asid c = true ∧
      s.th.slot < slotsOf (s.core c).mode ∧ (c ≠ s.th.core → s.th.exl = false)
    let home := p.homeOf t.pa t.attr
    let q := p.remember p.who (s.reg a) kRead t
    (toCore → p.drained s.cur = true → c ≠ s.th.core →
      Completes (.migrate h a res) s (x.setTh { x.th with park := .moving c, parkedAt := x.now })) ∧
    (toCore → p.drained s.cur = true → c = s.th.core → Completes (.migrate h a res) s p) ∧
    (s.th.nomad = false → s.clear (.migrate h a res) = true →
      exec (.migrate h a res) s = .next (s.trapNow (.of .slotState 2))) ∧
    (s.th.nomad = true → Config.cores s.part ≤ c ∨ s.inSet s.th.asid c = false → s.clear (.migrate h a res) = true →
      exec (.migrate h a res) s = .next (s.trapNow (.of .prot (s.reg a)))) ∧
    Completes (.nomad h true) s (p.setTh { p.th with nomad := false }) ∧
    (s.th.nomad = true → Completes (.nomad h false) s p) ∧
    (s.th.nomad = false → s.myCore.holdsUnits s.cur = true → s.clear (.nomad h false) = true →
      exec (.nomad h false) s = .next (s.trapNow (.of .slotState 2))) ∧
    (s.th.nomad = false → s.myCore.holdsUnits s.cur = false → 
      ∃ e : State, Completes (.nomad h false) s e ∧
      e.th.nomad = true ∧ (∀ n, n < 16 → e.th.getX n = s.th.getX n) ∧ e.th.v = [] ∧ e.th.vshape = 0x4001 ∧
      e.th.vact = 0x4001 ∧ e.mem = s.mem ∧ e.cores = s.cores) ∧
    (canonical (s.reg a) = true → p.translate p.who (s.reg a) kRead = .ok t →
      Completes (.homeq h d a res) s (q.later [.reg d] [.reg d (q.homeWord home)])) ∧
    (∀ k n, homeKind home = some (k, n) → (q.homeWord home).toNat % 16 = k ∧ ((q.homeWord home).getLsbD 4 = true ↔
      homeCore home = some s.th.core))

/-! ### Group 0xB: the engine, Geyser posting, launches, messages -/

/-- R228 to R233, R122: a command whose fence lets it go, whose descriptor can be read and whose checks' walks follow nothing
that is under way enters the send queue with its result outstanding, when every check passes; the first failing check is its
trap, and a descriptor that is not a multiple of 16 raises ALIGN. An instruction whose own fields need a unit that the part lacks
raises UNIT_ABSENT (R13), and so does `xfer` that meets a Cinder format on a part without the codec. `publish` names an open
region, else PROT. R228: what entering the send queue does. The command stands at the tail of the commands with the thread's
result; memory, registers and every other command stay. Two clauses are the model's choices: that the command which finds 64
queued is entered as the 65th and its thread then parks (log 29), and the order of `npost`'s checks, in which a descriptor's
capability fields raise PROT at X(A) (log 28). -/
def Obligations.EngineCommands : Prop :=
  (∀ (s : State) (h : Hdr) (d a b : Opnd) (m : MB) (tr : Trap),
     let p := s.past
     let va := s.reg a
     let r := va.toNat % 64
     let l := p.localRead va 64
     let x := p.localRead va 56
     let bs := p.localBytes va 64
     let xb := p.localBytes va 56
     let src := dword xb 0
     let dst := dword xb 1
     let len := (dword xb 2).toNat % 2 ^ 32
     let sf := x.memFmt src m.sf
     let dfs := x.xferDsts dst (s.reg b) m
     let ns := (dfs.map fun y => spanOf (sizeFmt sf y.1) len).foldl max (if dfs = [] then spanOf sf len else 0)
     let nd := (dfs.map fun y => spanOf (sizeFmt y.1 sf) len).foldl max 0
     let cinder := ∃ g ∈ sf :: dfs.map (·.1), g = 8 ∨ g = 9
     let xfer := [x.checkRange x.who src ns kRead,
         if m.mc then x.mcChecks dst (s.reg b) nd else x.checkRange x.who dst nd kWrite true,
         reservedWord va 2 (bits (dword xb 2) 63 32 != 0)] ++ x.barChecks va (dword xb 3) ++
       x.completionChecks va xb 4 (Instr.xfer h a b m).word
     let free := fun (z : State) (ws : List (Word × Nat × Nat)) => ∀ y ∈ ws, z.walksAfter y.1 y.2.1 y.2.2 = []
     let done := fun (y : List Byte) (i : Nat) =>
       [(dword y i, 8, kWrite), (dword y (i + 2) &&& ~~~0xF, 16, kWrite)].filter fun z => z.1 != 0
     let xfree := free x ((src, ns, kRead) :: (if m.mc then [] else [(dst, nd, kWrite)]) ++ done xb 4)
     let bar := if (dword xb 3).getLsbD 7 then some ((dword xb 3).toNat % 32) else none
     let w := dword bs 0
     let op := w.toNat % 256
     let n := (dword bs 2).toNat % 2 ^ 32
     let conn := l.connOf (bits w 31 16)
     let win := l.winOf (dword bs 4).toNat op
     let npost := [reservedWord va 0 (decide (3 < op) || bits w 63 32 != 0), needName va conn,
         l.checkRange l.who (dword bs 1) n (if op = 3 then kWrite else kRead) true,
         reservedWord va 2 (bits (dword bs 2) 63 32 != 0),
         if 2 ≤ op then needName va win else .ok ()] ++ l.completionChecks va bs 5 (Instr.npost h a m).word
     let lfree := fun (k : Nat) => free l ((dword bs 1, n, k) :: done bs 5)
     let pfree := lfree (if op = 3 then kWrite else kRead)
     let any := bits w 31 16 == 0xFFFF
     let nrecv := [reservedWord va 0 (bits w 63 32 != 0 || bits w 15 1 != 0), if any then .ok () else needName va conn,
         l.checkRange l.who (dword bs 1) n kWrite true, reservedWord va 2 (bits (dword bs 2) 63 32 != 0)] ++
       l.completionChecks va bs 5 (Instr.nrecv h a m).word
     p.fenced false true = [] →
       (p.localReady va 56 → xfree → cinder ∧ Config.cinder s.part = false → s.clear (.xfer h a b m) = true →
         exec (.xfer h a b m) s = .next (s.trapNow (.of .unitAbsent (Instr.xfer h a b m).word))) ∧
       (p.localReady va 56 → xfree → ¬(cinder ∧ Config.cinder s.part = false) → firstError xfer = .ok () →
         Completes (.xfer h a b m) s
           (x.post [] (.xfer src dst len sf dfs bar) m.sco (dword xb 4) (dword xb 5) (dword xb 6) len)) ∧
       (p.localReady va 56 → xfree → ¬(cinder ∧ Config.cinder s.part = false) → firstError xfer = .error tr →
         s.clear (.xfer h a b m) = true → exec (.xfer h a b m) s = .next (s.trapNow tr)) ∧
       (va.toNat % 16 ≠ 0 → s.clear (.xfer h a b m) = true →
         exec (.xfer h a b m) s = .next (s.trapNow (.of .align va))) ∧
       (p.localReady va 64 → pfree → firstError npost = .ok () → Completes (.npost h a m) s
         (l.post [] (.npost op (bits w 15 8) (conn.getD 0) (dword bs 1) n (dword bs 3) (win.getD 0)) m.sco (dword bs 5)
           (dword bs 6) (dword bs 7) n)) ∧
       (p.localReady va 64 → pfree → firstError npost = .error tr → s.clear (.npost h a m) = true →
         exec (.npost h a m) s = .next (s.trapNow tr)) ∧
       (p.localReady va 64 → lfree kWrite → firstError nrecv = .ok () →
         l.postedBufs s.th.asid < l.available s.th.asid (·.nrecv) → Completes (.nrecv h a m) s
           (State.post (l.setTh { l.th with kept := [] }) [] (.nrecv (w.getLsbD 0) (if any then none else some (conn.getD 0))
             (dword bs 1) n (dword bs 3) (dword bs 4)) m.sco (dword bs 5) (dword bs 6) (dword bs 7) n)) ∧
       (p.localReady va 64 → lfree kWrite → firstError nrecv = .error tr → s.clear (.nrecv h a m) = true →
         exec (.nrecv h a m) s = .next (s.trapNow tr)) ∧
       (has s.myCtx.regions r = true → Completes (.publish h d a m) s (p.post [.reg d] (.publish r d) m.sco 0 0 0 0)) ∧
       (has s.myCtx.regions r = false → s.clear (.publish h d a m) = true →
         exec (.publish h d a m) s = .next (s.trapNow (.of .prot va)))) ∧
  (∀ (s : State) (dsts : List Dst) (kind : CmdKind) (sco : BitVec 3) (ca cv cr : Word) (len : Nat),
     has s.threads s.cur = true →
     let q := s.post dsts kind sco ca cv cr len
     q.mem = s.mem ∧ q.cores = s.cores ∧ q.ctxs = s.ctxs ∧ (∀ r, q.reg r = s.reg r) ∧
     let core := queueKey s.th.cc s.th.core
     (∃ c : Cmd, q.cmds = s.cmds ++ [c] ∧ c.uid = s.cur ∧ c.kind = kind ∧ c.core = core ∧ c.asid = s.th.asid ∧
       c.accepted = false ∧ ∃ o : Outst, q.th.outst = s.th.outst ++ [o] ∧ o.id = c.out ∧ o.dsts = dsts ∧ o.need = 1) ∧
     (64 ≤ s.queued core → q.th.park = .sendQueue) ∧ (s.queued core < 64 → q.th.park = s.th.park)) ∧
  (∀ (s : State) (h : Hdr) (i : Instr) (w : Word) (o : BitVec 3) (a b : Opnd) (fmt : BitVec 4) (m : MB) (m8 : M8),
     let g := i.info.hdr
     let coded := fun (x : BitVec 4) => x = 8 ∨ x = 9
     (encode i = .native w → has s.threads s.cur = true → s.decodeChecks i.info = none → s.outstanding (.pred g.pg) = false →
       s.poisonedDst (.pred g.pg) = false → s.pred g.pg ≠ g.pn → s.unitMissing i.info = true →
       exec i s = .next (s.trapNow (.of .unitAbsent i.word))) ∧
     (s.unitMissing (Instr.tld h o a b fmt m8).info = true ↔ coded fmt ∧ Config.cinder s.part = false) ∧
     (s.unitMissing (Instr.xfer h a b m).info = true ↔ (coded m.sf ∨ coded m.df) ∧ Config.cinder s.part = false) ∧
     (s.unitMissing (Instr.npost h a m).info = true ↔ Config.geyser s.part = false) ∧
     (s.unitMissing (Instr.nrecv h a m).info = true ↔ Config.geyser s.part = false))

/-- R232: `shadow` of a range in HBM that is a multiple of 64 KiB, passes as a store and overlaps no region opens the
lowest free of the 64 regions and answers its number, or all ones when none is free; with length 0 it closes the region
at the address and answers its number, or all ones. R232 gives ALIGN for the base; that a size which is no multiple of 64 KiB
raises it too, at X(A), is the model's choice (log 28). -/
def Obligations.ShadowRegions : Prop :=
  ∀ (s : State) (h : Hdr) (d a b : Opnd) (m : MB) (fs : List Nat) (i : Nat) (g : Shadow),
    let p := s.past
    let va := s.reg a
    let n := (s.reg b).toNat
    let r := p.rememberAll p.who kWrite (pagesOf va n)
    let fit := va.toNat % 0x10000 = 0 ∧ n ≠ 0 ∧ n % 0x10000 = 0 ∧ p.walksAfter va n kWrite = [] ∧
      p.checkRange p.who va n kWrite = .ok () ∧ r.regionFrames (n / 0x10000) va = .ok fs
    let apart := ∀ r ∈ s.myCtx.regions, ¬(va.toNat < r.2.base.toNat + r.2.pages * 0x10000 ∧ r.2.base.toNat < va.toNat + n)
    let free := (List.range 64).find? fun i => !has s.myCtx.regions i
    (fit → apart → free = some i → Completes (.shadow h d a b m) s (State.later (State.rehomeDeposits (r.onCtx s.th.asid fun c =>
      { c with regions := put c.regions i ⟨va, n / 0x10000, fs, []⟩ })) [.reg d] [.reg d (word i)])) ∧
    (fit → apart → free = none → Completes (.shadow h d a b m) s (r.later [.reg d] [.reg d allOnes])) ∧
    (fit → ¬apart → s.clear (.shadow h d a b m) = true →
      exec (.shadow h d a b m) s = .next (s.trapNow (.of .prot va))) ∧
    (n = 0 → (s.myCtx.regions.find? fun r => r.2.base == va) = some (i, g) →
      Completes (.shadow h d a b m) s ((p.closeRegion s.th.asid i).later [.reg d] [.reg d (word i)])) ∧
    (n = 0 → (s.myCtx.regions.find? fun r => r.2.base == va) = none →
      Completes (.shadow h d a b m) s (p.later [.reg d] [.reg d allOnes])) ∧
    (n ≠ 0 → va.toNat % 0x10000 ≠ 0 ∨ n % 0x10000 ≠ 0 → s.clear (.shadow h d a b m) = true →
      exec (.shadow h d a b m) s = .next (s.trapNow (.of .align va)))

/-- R41, R42, R235, R311: `launch` reads its record and code object once, in its issue turn. A readable record is entered in
the table under a new handle, with what it follows as a release at the scope of level 0 (R125), and answers the handle with
status 0, or 1 when it is deferred for want of a quota unit; a record that cannot be launched answers handle 0 and its status. A
launch that finds its queue or the table full parks with what it has read, and goes on from that. `lwait` of a handle that is not
known answers 3, of a completed launch its status, of another waits, and donates its slot and unit to a deferred one once that
has followed what it must and the thread has drained (R42); `lstat` answers the state, once the thread has room for its result
(R23). -/
def Obligations.Launches : Prop :=
  (∀ (s : State) (h : Hdr) (d a b : Opnd) (m : MB) (r : Record) (e : Entry) (ms : List Nat) (bs : List Byte × List Byte) (n : Nat)
      (l : Launch) (tr : Trap) (pk : Park),
    let p := s.past
    let xa := s.reg a
    let i := Instr.launch h d a b m
    let two := fun (v w : Word) => [Write.reg d v, Write.reg d.succ w]
    let answer := fun (z : State) (v w : Word) => z.later (pairOf d true) (two v w)
    let entered := fun (z : State) (x y : Word) =>
      let g := z.enterLaunch s.th.asid n (x.toNat % 16) r e ms y false none
        (z.releaseIds ((r.levels.map (·.scope)).headD 4))
      answer g.1 g.2.1 (if g.2.2 then 1 else 0)
    let full := fun (x : Word) => p.unitFree s.th.asid = true ∧ 256 ≤ s.myCtx.inQueue (x.toNat % 16)
    let counted := p.countLaunch p.who xa
    let q := counted.setTh { counted.th with kept := [0], trace := [.got bs.1 false, .got bs.2 false] }
    let find := s.myCtx.launch? xa
    (s.th.kept = [] →
      (p.launchWait xa = some pk → Parks i s p pk) ∧
      (p.launchWait xa = none → p.launchBytes p.who xa = .error (.nested tr) → s.clear i = true →
        exec i s = .next (s.trapNow tr)) ∧
      (p.launchWait xa = none → p.launchBytes p.who xa = .error (.status n) →
        Completes i s (answer (counted.setTh { counted.th with kept := [word n], trace := [] }) 0 (word n))) ∧
      (p.launchWait xa = none → p.launchBytes p.who xa = .ok bs → p.launchOf s.th.asid bs = .ok (r, e, ms) →
        (full xa → Parks i s q (.launchQueue (xa.toNat % 16))) ∧
        (¬full xa → s.myCtx.freeEntry = none → Parks i s q .launchTable) ∧
        (¬full xa → s.myCtx.freeEntry = some n → Completes i s (entered q xa (s.reg b))))) ∧
    (s.th.kept = [0] → s.th.trace = [.got bs.1 false, .got bs.2 false] →
      (p.launchOf s.th.asid bs = .ok (r, e, ms) → ¬full (p.arg a) → s.myCtx.freeEntry = some n →
        Resumes i s (entered p (p.arg a) (p.arg b))) ∧
      (p.launchOf s.th.asid bs = .error (.status n) → Resumes i s (answer p 0 (word n)))) ∧
    (s.th.kept = [word n] → s.th.trace = [] → Resumes i s (answer p 0 (word n))) ∧
    (find = none → Completes (.lwait h d a m) s (p.later [.reg d] [.reg d 3])) ∧
    (find = some l → l.state = .completed → Completes (.lwait h d a m) s (p.later [.reg d] [.reg d (word l.status)])) ∧
    (find = some l → l.state = .queued ∨ l.state = .running → Completes (.lwait h d a m) s (p.awaitLaunch xa d)) ∧
    (find = some l → l.state = .deferred → l.quota = true → Completes (.lwait h d a m) s (p.awaitLaunch xa d)) ∧
    (find = some l → l.state = .deferred → l.quota = false → p.allDone l.after = false →
      Parks (.lwait h d a m) s p (.ids l.after)) ∧
    (find = some l → l.state = .deferred → l.quota = false → p.allDone l.after = true → p.drained s.cur = false →
      Parks (.lwait h d a m) s p .drain) ∧
    (find = some l → l.state = .deferred → l.quota = false → p.allDone l.after = true → p.drained s.cur = true →
      Completes (.lwait h d a m) s ((p.awaitLaunch xa d).donate xa (p.ownUnit s.cur))) ∧
    (s.begins (.lstat h d a m) = true → 16 ≤ s.th.outst.length →
      exec (.lstat h d a m) s = .next (s.parkBody s (.lstat h d a m) s.th.pc .room)) ∧
    Completes (.lstat h d a m) s (p.later [.reg d] [.reg d (match find with
      | none => 0x3000003
      | some l => match l.state with
        | .queued => 0
        | .deferred => 1
        | .running => 2
        | .completed => word (l.status * 2 ^ 24 + 3))])) ∧
  ∀ (s : State) (asid n q : Nat) (r : Record) (e : Entry) (ms : List Nat) (arg : Word) (hst : Bool) (f : Option (Word × Bool))
      (after : List Need),
    let x := s.enterLaunch asid n q r e ms arg hst f after
    x.2.1 = word (((s.ctx asid).seq + 1) * 4096 + n) ∧ (x.2.2 = true ↔ s.unitFree asid = false ∧ hst = false) ∧
    (x.1.ctx asid).seq = (s.ctx asid).seq + 1 ∧ x.1.mem = s.mem ∧ x.1.threads = s.threads ∧
    ∃ l : Launch, (x.1.ctx asid).launches = ((s.ctx asid).launches.filter fun y => bits y.handle 11 0 != n) ++ [l] ∧
      l.handle = x.2.1 ∧ l.arg = arg ∧ l.cls = r.cls ∧ l.after = after ∧ (l.state = .deferred ↔ x.2.2 = true) ∧
      (l.state = .queued ↔ x.2.2 = false)

/-- R236, R410, R228: `cmsg` to a thread of the issuer's context, or of one that a gate of it reaches, puts the message with the
sender's context and number into the send queue; without a gate it raises PROT. As the message leaves the queue it is delivered
and the result is 0, or 1 when no such thread lives. Three clauses are the model's choices (log 29): a control core has a send
queue of its own, a sender that finds the target's inbox full parks first, and a thread that no longer lives then is none.
`mrecv` takes the oldest message of the mailbox; with X(A) bit 0 it does not wait for one. R348: `sigpost` posts X(B) as
a SIGNAL event with the issuer's context and thread to the parent's queue or to the mailbox that is the context's, and
answers 0; 1 when the target is full, 2 when there is none. -/
def Obligations.MessagesAndSignals : Prop :=
  ((∀ (s : State) (h : Hdr) (d a b : Opnd) (m : MB) (u : Option Nat) (q : State) (x : Word × Word) (r : List (Word × Word)),
     let p := s.past
     let xa := s.reg a
     let tgt := if xa.toNat / 2 ^ 16 % 4096 = 0 then s.th.asid else xa.toNat / 2 ^ 16 % 4096
     let thread := xa.toNat % 2 ^ 16
     let may := tgt = s.th.asid ∨ s.myCtx.hasGate tgt = true
     let from_ := word (s.th.asid * 2 ^ 16 + s.th.thread)
     let sent := p.post [.reg d] (.message tgt thread (s.reg b) from_ d) 4 0 0 0 0
     (may →
       (p.mailbox tgt thread = none → Completes (.cmsg h d a b m) s sent) ∧
       (p.mailbox tgt thread = some u → p.mailTo tgt thread u (s.reg b) from_ = some q → Completes (.cmsg h d a b m) s sent) ∧
       (p.mailbox tgt thread = some u → p.mailTo tgt thread u (s.reg b) from_ = none →
         Parks (.cmsg h d a b m) s p (.inbox tgt))) ∧
     (¬may → s.clear (.cmsg h d a b m) = true →
       exec (.cmsg h d a b m) s = .next (s.trapNow (.of .prot xa))) ∧
     (s.th.mail = x :: r → Completes (.mrecv h d a m) s
       (State.later (p.setTh { p.th with mail := r }) (pairOf d true) [.reg d x.1, .reg d.succ x.2])) ∧
     (s.th.mail = [] → xa.getLsbD 0 = true → Completes (.mrecv h d a m) s
       (p.later (pairOf d true) [.reg d 0, .reg d.succ allOnes])) ∧
     (s.th.mail = [] → xa.getLsbD 0 = false → Parks (.mrecv h d a m) s p .mail)) ∧
   (∀ (s q : State) (c : Cmd) (tgt thread : Nat) (u : Option Nat) (v w : Word) (d : Opnd),
     let z := { s with cmds := s.cmds.filter fun x => x.id != c.id }
     let told := fun (y : State) (r : Word) => y.onThread c.uid fun t => { t with
       outst := modFirst (fun o => o.id == c.out) (fun o => { o with need := 0, fin := .done [.reg d r] }) t.outst }
     (z.mailbox tgt thread = none → s.acceptMessage c tgt thread v w d = told z 1) ∧
     (z.mailbox tgt thread = some u → z.mailTo tgt thread u v w = some q → s.acceptMessage c tgt thread v w d = told q 0)) ∧
   ∀ (s : State) (asid thread u : Nat) (v w : Word), has s.threads u = true →
     ((s.thread u).inSlot = true → s.runs asid = true → (s.thread u).mail.length < 4 →
       (∀ e ∈ (s.ctx asid).inbox, e.1 ≠ thread) →
       ∃ q, s.mailTo asid thread (some u) v w = some q ∧ (q.thread u).mail = (s.thread u).mail ++ [(v, w)]) ∧
     ((s.ctx asid).inbox.length < 256 → ∃ q, s.mailTo asid thread none v w = some q ∧
       (q.ctx asid).inbox = (s.ctx asid).inbox ++ [(thread, v, w)])) ∧
  ((∀ (s : State) (h : Hdr) (d a b : Opnd) (m : MD) (v : Nat),
     let p := s.past
     let e := p.signal (s.reg b)
     let give := fun (q : State) (r : Nat) => q.later [.reg d] [.reg d (word r)]
     let sel := (s.reg a).toNat % 4
     let up := p.signalQueue s.myCtx.parent e
     s.releaseIds 6 = [] →
       (sel = 0 → s.th.asid = 0 → Completes (.sigpost h d a b m) s (give p 2)) ∧
       (sel = 0 → s.th.asid ≠ 0 → Completes (.sigpost h d a b m) s (give up.1 up.2)) ∧
       (sel = 1 → p.mailboxOf s.th.asid = none → Completes (.sigpost h d a b m) s (give p 2)) ∧
       (sel = 1 → p.mailboxOf s.th.asid = some v → (get Vf.new s.vfs v).room = true →
         Completes (.sigpost h d a b m) s (give (p.postMailbox v e) 0)) ∧
       (sel = 1 → p.mailboxOf s.th.asid = some v → (get Vf.new s.vfs v).room = false →
         Completes (.sigpost h d a b m) s (give p 1)) ∧
       (2 ≤ sel → Completes (.sigpost h d a b m) s (give p 2))) ∧
   ∀ (s : State) (v : Word) (n : Nat) (e : Event),
     (s.signal v).kind = 3 ∧ (s.signal v).addr = v ∧ (s.signal v).asid = s.th.asid ∧ (s.signal v).thread = s.th.thread ∧
     (get Vf.new (s.postMailbox n e).vfs n).tail = (get Vf.new s.vfs n).tail + 1 ∧ (s.postMailbox n e).msix = s.msix ++ [n])

/-! ### Group 0xC: neighbour-paced execution -/

/-- R252, R23: `stepcfg` of an aligned, readable descriptor that passes the checks of R246 makes the core pair and the thread
wait for the result; a thread with 16 results outstanding parks with the descriptor first, and goes on from it. With address 0 a
member core leaves its group and answers 0, any other answers 1. A descriptor that is not 64-aligned raises ALIGN, one that fails
a check STEP_CFG with its reason. When the pairing ends without a failing edge the core begins START: STEP is START, STEPDONE
and every PD and SD the step before. R241, R242, R253, R256, R257: on a member core `stepend` of a thread whose earlier accesses
have been performed arrives and waits for the next step; `stepq` and `stepaddr` read an
edge; `cut` starts a cut that is not pending, or with address 0 releases the pending one.
A thread of a core that is no member raises STEP_CFG 1, an edge that is not listed STEP_CFG 6. -/
def Obligations.NeighbourSteps : Prop :=
  ((∀ (s : State) (h : Hdr) (d a : Opnd) (m : MC) (r : Nat),
     let p := s.past
     let va := s.reg a
     let hd := dword (p.localBytes va 16) 0
     let np := hd.toNat / 2 ^ 32 % 16
     let ns := hd.toNat / 2 ^ 36 % 16
     let len := 16 + 16 * (np + ns)
     let l := p.localRead va 16
     let y := l.localRead va len
     let x := stepDesc (l.localBytes va len)
     let begun := fun (z : State) (x : StepDesc) => ((z.openOut [.reg d] (.done []) 1).parkOwn).onStep s.th.core fun k => { k with
       epoch := z.next, asid := s.th.asid, group := x.group, nt := x.nt, start := x.start, preds := x.preds, succs := x.succs,
       owed := [], pairing := some (s.cur, z.next, d, x.wdog) }
     (va ≠ 0 → va.toNat % 64 = 0 → p.localReady va 16 → np ≤ 8 → ns ≤ 8 → l.localReady va len →
       (y.stepReason s.th.core s.th.asid x = none →
         Completes (.stepcfg h d a m) s (begun y x) ∧
         (s.begins (.stepcfg h d a m) = true → 16 ≤ s.th.outst.length →
           exec (.stepcfg h d a m) s = .next (s.parkBody
             (y.setTh { y.th with trace := [.got (l.localBytes va len) false] }) (.stepcfg h d a m) s.th.pc .room))) ∧
       (y.stepReason s.th.core s.th.asid x = some r → s.clear (.stepcfg h d a m) = true →
         exec (.stepcfg h d a m) s = .next (s.trapNow (.of .stepCfg (word r))))) ∧
     (∀ (bs : List Byte) (bad : Bool), s.th.trace = [.got bs bad] → p.arg a ≠ 0 →
       Resumes (.stepcfg h d a m) s (begun p (stepDesc bs))) ∧
     (va ≠ 0 → va.toNat % 64 ≠ 0 → s.clear (.stepcfg h d a m) = true →
       exec (.stepcfg h d a m) s = .next (s.trapNow (.of .align va))) ∧
     (va = 0 → s.isMember s.th.core s.th.asid = true →
       Completes (.stepcfg h d a m) s ((p.leaveGroup s.th.core).later [.reg d] [.reg d 0])) ∧
     (va = 0 → s.isMember s.th.core s.th.asid = false → Completes (.stepcfg h d a m) s (p.later [.reg d] [.reg d 1]))) ∧
   ∀ (s : State) (c u o w : Nat) (d : Opnd), (s.core c).nb.pairing = some (u, o, d, w) → s.pairResult c = 0 →
     let k := (s.pair c).core c
     k.step = (s.core c).nb.start ∧ k.stepDone = (s.core c).nb.start - 1 ∧ k.nb.active = true ∧
     (∀ e ∈ k.nb.preds, e.pd = (s.core c).nb.start - 1 ∧ e.epoch = (s.core e.core).nb.epoch) ∧
     (∀ e ∈ k.nb.succs, e.sd = (s.core c).nb.start - 1 ∧ e.epoch = (s.core e.core).nb.epoch)) ∧
  (∀ (s : State) (h : Hdr) (d a b : Opnd) (m : MC) (e : Succ) (v : Word) (t : Tr),
     let p := s.past
     let core := s.th.core
     let va := s.reg a
     let nb := s.myCore.nb
     let q := (p.openOut [.reg d] .step 1).parkOwn
     (s.isMember core s.th.asid = true →
       (s.releaseIds 4 = [] → Completes (.stepend h d m) s (q.arriveStep core s.th.slot)) ∧
       (nb.succs[m.edge.toNat]? = some e → Completes (.stepaddr h d b m) s (p.later [.reg d]
         [.reg d (word (e.ring + (((s.myCore.step.toNat : Int) + (s.reg b).toInt) % (e.d : Int)).toNat * e.slotsz))])) ∧
       (nb.succs[m.edge.toNat]? = none → s.clear (.stepaddr h d b m) = true →
         exec (.stepaddr h d b m) s = .next (s.trapNow (.of .stepCfg 6))) ∧
       (s.myCore.edgeWord m.edge.toNat va = some v → Completes (.stepq h d a m) s (p.later [.reg d] [.reg d v])) ∧
       (s.myCore.edgeWord m.edge.toNat va = none → s.clear (.stepq h d a m) = true →
         exec (.stepq h d a m) s = .next (s.trapNow (.of .stepCfg 6))) ∧
       (va = 0 → nb.cutPend = true → Completes (.cut h d a b m) s ((p.releaseCut core).later [.reg d] [.reg d 0])) ∧
       (va = 0 → nb.cutPend = false → Completes (.cut h d a b m) s (p.later [.reg d] [.reg d 1])) ∧
       (va ≠ 0 → p.walksAfter va 8 kWrite = [] → p.check p.who va 8 kWrite = .ok t → p.csrBad t.pa 8 false = false →
         (nb.cutPend = true → Completes (.cut h d a b m) s (p.later [.reg d] [.reg d 1])) ∧
         (nb.cutPend = false → Completes (.cut h d a b m) s (((p.remember p.who va kWrite t).receiveCut core va t.pa
           (p.homeOf t.pa t.attr) (s.reg b)).later [.reg d] [.reg d 0])))) ∧
     (s.isMember core s.th.asid = false →
       (s.clear (.stepend h d m) = true → exec (.stepend h d m) s = .next (s.trapNow (.of .stepCfg 1))) ∧
       (s.clear (.ldstep h d a b m) = true → exec (.ldstep h d a b m) s = .next (s.trapNow (.of .stepCfg 1))) ∧
       (s.clear (.cut h d a b m) = true → exec (.cut h d a b m) s = .next (s.trapNow (.of .stepCfg 1)))))

/-- R254: `ldstep` reads the slot of step STEP - X(B) in the producer's ring when the producer has finished that step,
and on a loose edge whose producer has finished some step the newest one, with W_STALESKEW. Its checks come in the order
of the rule: no such edge STEP_CFG 6, a misaligned offset ALIGN, one beyond the slot PROT, a step that the ring no
longer holds STEP_LOST. A step that is not there yet parks the thread; when it issues again the step and the offset of its first
turn are still the ones that it reads, with no check made again. -/
def Obligations.EdgeLoads : Prop :=
  ∀ (s : State) (h : Hdr) (d a b : Opnd) (m : MC) (e : Pred),
    let p := s.past
    let k := s.myCore
    let o := s.reg a
    let n := 2 ^ m.sz.toNat
    let u := k.step - s.reg b
    let i := Instr.ldstep h d a b m
    let trap := fun (c : Cause) (v : Word) => s.clear i = true → exec i s = .next (s.trapNow (.of c v))
    let ge := fun (x y : Word) => 0 ≤ (x - y).toInt
    let fits := o.toNat % n = 0 ∧ o.toNat + n ≤ e.slotsz
    let load := fun (v o : Word) =>
      let off := e.ring + v.toNat % e.d * e.slotsz + o.toNat
      State.single (p.setTh { p.th with kept := [] }) (if n = 16 then [.reg d, .reg d.succ] else [.reg d]) (.load d n false)
        (word off) ⟨scratch e.core off, scratch e.core off, 0x200000, 0, false, []⟩ n .load true false 4
    let serve := fun (done : State → Prop) (stop : Cause → Word → Prop) (wait : State → Park → Prop) (u o : Word) =>
      (ge e.pd u → done (load u o)) ∧
      (¬ge e.pd u → e.left = true → stop .stepLost u) ∧
      (¬ge e.pd u → e.left = false → e.loose = true → ge e.pd k.nb.start → done ((load e.pd o).warnBit wSTALESKEW)) ∧
      (¬ge e.pd u → e.left = false → (e.loose = true → ¬ge e.pd k.nb.start) →
        wait (p.setTh { p.th with kept := [u, o] }) (.edge m.edge.toNat u))
    s.isMember s.th.core s.th.asid = true → p.fenced true false = [] →
      (k.nb.preds[m.edge.toNat]? = none → trap .stepCfg 6) ∧
      (k.nb.preds[m.edge.toNat]? = some e → ∀ w x : Word, s.th.kept = [w, x] →
        serve (Resumes i s) (fun c v => s.resumes i = true → exec i s = .next (s.trapNow (.of c v)))
          (fun q pk => s.resumes i = true → exec i s = .next (q.parkAt s.th.pc pk)) w x) ∧
      (k.nb.preds[m.edge.toNat]? = some e → s.th.kept = [] →
        (o.toNat % n ≠ 0 → trap .align o) ∧
        (o.toNat % n = 0 → e.slotsz < o.toNat + n → trap .prot o) ∧
        (fits → ge (k.stepDone - word e.h) u → trap .stepLost u) ∧
        (fits → ¬ge (k.stepDone - word e.h) u → serve (Completes i s) trap (Parks i s) u o))

/-! ### Group 0xD: control registers, saving and loading, partition modes, translation caches, cache lines, signals -/

/-- R340, R3, R48, R49, R57 to R64, R240, R326 to R335, R413: `mfcr` reads and `mtcr` exchanges a control register, unless the
register's own rule refuses the access. What every register reads and what writing it does are spelled out: a sticky field stays
set only where 1 is written, a read-only field keeps its value, a reserved one reads zero. What the refreshes add to a counter of
the root that selects code 0x060 is free (R406, log 94). -/
def Obligations.ControlRegisters : Prop :=
  (∀ (s : State) (h : Hdr) (d a : Opnd) (crn : BitVec 12) (m : MR) (t : Trap),
    let p := s.past
    let n := crn.toNat
    let w := (Instr.mtcr h d a crn m).word
    (p.crReadCheck n = none → Completes (.mfcr h d crn m) s (p.setReg d (p.readCr n))) ∧
    (p.crWriteCheck n (s.reg a) w = none →
      Completes (.mtcr h d a crn m) s ((p.writeCr n (s.reg a)).setReg d (p.readCr n))) ∧
    (p.crReadCheck n = some t → s.clear (.mfcr h d crn m) = true →
      exec (.mfcr h d crn m) s = .next (s.trapNow t)) ∧
    (p.crWriteCheck n (s.reg a) w = some t → s.clear (.mtcr h d a crn m) = true →
      exec (.mtcr h d a crn m) s = .next (s.trapNow t))) ∧
  (∀ (s : State) (i : Nat), i < 16 →
    let t := s.th
    let c := s.myCtx
    let k := s.myCore
    let n := k.nb
    let counts := t.asid = 0 ∧ bit (get 0 c.psel i) 63 = true ∧ (get 0 c.psel i).toNat % 4096 = 0x060
    s.readCr 0x001 = s.now ∧ s.readCr 0x010 = k.step ∧ s.readCr 0x011 = k.stepDone ∧
    (n.active = false → s.readCr 0x012 = word (n.wdog * 2 ^ 12)) ∧
    (n.active = true → s.readCr 0x012 = word (n.group * 2 ^ 32 + n.nt % 32 * 2 ^ 24 + (if n.cutHeld then 2 ^ 23 else 0) +
      (if n.cutPend then 2 ^ 22 else 0) + n.wdog * 2 ^ 12 + n.succs.length * 2 ^ 8 + n.preds.length * 2 ^ 4 + 1)) ∧
    (s.vecSlot = true → s.readCr 0x020 = t.vshape ∧ s.readCr 0x021 = t.vact) ∧
    (s.vecSlot = false → s.readCr 0x020 = 0 ∧ s.readCr 0x021 = 0) ∧
    s.readCr 0x030 = t.flags ∧ s.readCr 0x031 = t.warn ∧
    s.readCr 0x040 = c.lsbase ∧ s.readCr 0x041 = c.lslim ∧ s.readCr 0x042 = c.dqbase ∧
    s.readCr (0x050 + i) = (get 0 k.bfmt i).setWidth 64 ∧
    s.readCr 0x060 = word (t.slot * 2 ^ 16 + t.thread) ∧ s.readCr 0x061 = word (c.depth * 2 ^ 12 + t.asid) ∧
    s.readCr 0x062 = word t.core ∧ s.readCr 0x0F0 = Config.feat s.part ∧ s.readCr 0x0F1 = Config.rev s.part ∧
    s.readCr 0x0F8 = c.ghvec ∧ s.readCr 0x0F9 = c.arena ∧ s.readCr 0x100 = c.tvec ∧ s.readCr 0x101 = t.tcause ∧
    s.readCr 0x102 = t.taddr ∧ s.readCr 0x103 = t.tpc ∧ s.readCr 0x104 = t.tstat ∧ s.readCr 0x105 = t.tscr ∧
    s.readCr 0x106 = c.tsarea ∧ s.readCr 0x108 = c.deleg ∧ s.readCr 0x110 = c.slotmask ∧
    s.readCr 0x111 = c.coredesc &&& ~~~0x3F ∧ s.readCr 0x112 = c.bankmask ∧ s.readCr 0x118 = c.ptroot ∧
    s.readCr 0x120 = c.ceqbase ∧ s.readCr 0x121 = c.ceqhead ∧ s.readCr 0x122 = c.ceqtail ∧
    (¬counts → s.readCr (0x130 + i) = get 0 c.pcnt i) ∧ s.readCr (0x140 + i) = get 0 c.psel i ∧
    s.readCr 0x400 = k.salcfg ∧ s.readCr 0x401 = k.salseq ∧ s.readCr 0x410 = s.vfsel ∧
    s.readCr 0x411 = (get Vf.new s.vfs s.vfsel.toNat).ctl ∧ s.readCr 0x412 = s.cxlsel ∧
    s.readCr 0x413 = get 0 s.cxlwin s.cxlsel.toNat ∧ s.readCr 0x420 = s.pwrstat) ∧
  ∀ (s : State) (v : Word) (i : Nat), i < 16 →
    let t := s.th
    let core := fun (f : Core → Core) => s.onMyCore f
    let ctx := fun (f : Ctx → Ctx) => s.onCtx s.th.asid f
    let base := (v.toNat / 2 ^ 30) * 2 ^ 30
    let size := 2 ^ (v.toNat / 2 ^ 25 % 32) * 2 ^ 30
    let win := v.getLsbD 0 = true ∧ base % size = 0 ∧ 0x080000000000 ≤ base ∧ base + size ≤ 0x480000000000
    let vf := v.toNat / 2 ^ 16 % 4096
    let bound := v.getLsbD 0 = true ∧ has s.ctxs vf = true ∧ (s.ctx vf).depth = 1
    s.writeCr 0x010 v = core (fun k => { k with step := v }) ∧ s.writeCr 0x011 v = core (fun k => { k with stepDone := v }) ∧
    s.writeCr 0x012 v = core (fun k => { k with nb := { k.nb with wdog := v.toNat / 2 ^ 12 % 16 } }) ∧
    (s.vecSlot = true → t.nomad = false → s.writeCr 0x021 v =
      s.setTh { t with vact := word (min (v.toNat / 2 ^ 8 % 256) 64 * 2 ^ 8 + v.toNat % 16) }) ∧
    (s.vecSlot = false ∨ t.nomad = true → s.writeCr 0x021 v = s) ∧
    s.writeCr 0x030 v = s.setTh { t with flags := (v &&& 0x300) ||| (t.flags &&& v &&& 0xFF) } ∧
    s.writeCr 0x031 v = s.setTh { t with warn := t.warn &&& v } ∧
    s.writeCr 0x040 v = ctx (fun c => { c with lsbase := v &&& 0xFFFFFFFFFFFF0000 }) ∧
    s.writeCr 0x041 v = ctx (fun c => { c with lslim := v &&& 0x1FFF }) ∧
    s.writeCr 0x042 v = ctx (fun c => { c with dqbase := v &&& 0xFFFFFFFFFFFF0000 }) ∧
    s.writeCr (0x050 + i) v = core (fun k => { k with bfmt := set 0 k.bfmt i (v.setWidth 4) }) ∧
    s.writeCr 0x0F8 v = ctx (fun c => { c with ghvec := v &&& 0xFFFFFFFFFFFFFFF8 }) ∧
    s.writeCr 0x0F9 v = ctx (fun c => { c with arena := v &&& 0xFFFFFFFFFFFFFFC0 }) ∧
    s.writeCr 0x100 v = ctx (fun c => { c with tvec := v &&& 0xFFFFFFFFFFFFFFF8 }) ∧
    s.writeCr 0x101 v = s.setTh { t with tcause := v &&& 0x3FF } ∧ s.writeCr 0x102 v = s.setTh { t with taddr := v } ∧
    s.writeCr 0x103 v = s.setTh { t with tpc := v } ∧
    s.writeCr 0x104 v = s.setTh { t with tstat := (t.tstat &&& 1) ||| (v &&& 0xF0) } ∧
    s.writeCr 0x105 v = s.setTh { t with tscr := v } ∧
    s.writeCr 0x106 v = ctx (fun c => { c with tsarea := v &&& 0xFFFFFFFFFFFFFFC0 }) ∧
    s.writeCr 0x108 v = ctx (fun c => { c with deleg := v &&& c.delegMask &&& 0x3DFFDFF }) ∧
    s.writeCr 0x118 v = ctx (fun c => { c with ptroot := v &&& 0xFFFFFFFFFFFFF001 }) ∧
    s.writeCr 0x120 v = ctx (fun c => { c with ceqbase := v &&& 0xFFFFFFFFFFFFF01F }) ∧
    s.writeCr 0x121 v = ctx (fun c => { c with ceqhead := v }) ∧
    s.writeCr (0x130 + i) v = ctx (fun c => { c with pcnt := set 0 c.pcnt i v }) ∧
    s.writeCr (0x140 + i) v = ctx (fun c => { c with psel := set 0 c.psel i (v &&& 0x8000000000000FFF) }) ∧
    s.writeCr 0x400 v = core (fun k => { k with salcfg := v &&& 0xFFFFFFFFFFFFF01F }) ∧
    s.writeCr 0x401 v = core (fun k => { k with salseq := v, salmark := v }) ∧
    s.writeCr 0x410 v = { s with vfsel := v &&& 0xFF } ∧
    s.writeCr 0x411 v = { s with vfs := put s.vfs s.vfsel.toNat { get Vf.new s.vfs s.vfsel.toNat with
      ctl := word (vf * 2 ^ 16 + if bound then 1 else 0) } } ∧
    s.writeCr 0x412 v = { s with cxlsel := v &&& 0xF } ∧
    s.writeCr 0x413 v = { s with
      cxlwin := put s.cxlwin s.cxlsel.toNat ((v &&& 0xFFFFFFFFFFE00002) ||| if win then 1 else 0) } ∧
    s.writeCr 0x420 v = { s with pwrstat := s.pwrstat &&& (v ||| 0xFFFFFFFFFFFEFFFF) } ∧
    ∀ n ∈ [0x001, 0x020, 0x060, 0x061, 0x062, 0x0F0, 0x0F1, 0x110, 0x111, 0x112, 0x122],
      (s.writeCr n v).th = t ∧ (s.writeCr n v).cores = s.cores ∧ (s.writeCr n v).ctx t.asid = s.ctx t.asid ∧
        (s.writeCr n v).now = s.now ∧ (s.writeCr n v).part = s.part

/-- R142, R143, R326: in user state `mfcr` and `mtcr` of 0x100 and above, every other function of group 0xD and group
0xE raise PRIV with the instruction's word; the registers of 0x400 and above raise it in every context but the root. On
a control core all of these raise ILLEGAL_OP. A number that the state may name and that no register has raises
ILLEGAL_OP. -/
def Obligations.Privilege : Prop :=
  ∀ (s : State) (h : Hdr) (d a b : Opnd) (crn : BitVec 12) (r : MR) (m : MD),
    let regs : List Instr := [.mfcr h d crn r, .mtcr h d a crn r]
    let others : List Instr := [.eret h m, .tsave h d a b m, .tload h d a b m, .tswap h d a b m, .repart h d a m,
      .tlbinv h d a b m, .cacheop h d a b m, .sigpost h d a b m, .ctxnew h d a, .ctxgrant h d a b, .ctxrevoke h d a b,
      .ctxrun h d a, .ctxstop h d a, .ctxevt h d a b, .ctxreset h d a b, .ctxfree h d a, .ctxstat h d a b]
    let raises := fun (c : Cause) (i : Instr) => exec i s = .next (s.trapNow (.of c i.word))
    has s.threads s.cur = true →
      (s.th.cc = false → s.th.sup = false →
        (∀ i ∈ others, raises .priv i) ∧
        (256 ≤ crn.toNat → ∀ i ∈ regs, raises .priv i)) ∧
      (s.th.cc = false → s.th.asid ≠ 0 → 0x400 ≤ crn.toNat → ∀ i ∈ regs, raises .priv i) ∧
      (s.th.cc = true → ∀ i ∈ regs ++ others, raises .illegalOp i) ∧
      (s.th.cc = false → (s.th.sup = true ∨ crn.toNat < 256) → (s.th.asid = 0 ∨ crn.toNat < 0x400) → crKnown crn = false →
        ∀ i ∈ regs, raises .illegalOp i)

/-- R341 to R344: `tsave` of a thread that can be saved stores its image and answers its size, and waits for one that cannot be
saved yet; `tload` of an image that may be loaded restores its thread into the core's run queue and answers 0, `tswap` does both;
nothing to save, a refusal and a failed exchange answer their numbers. Addresses must be multiples of 4096. That an image is read
or written in one instant, once no other agent holds a reservation in it, is the model's choice (log 89). -/
def Obligations.ThreadImages : Prop :=
  ∀ (s : State) (h : Hdr) (d a b : Opnd) (m : MD) (u : Nat) (tr : Trap) (hd : Header) (bs dbs : List Byte) (r o : State),
    let p := s.past
    let give := fun (q : State) (v : Word) => q.later [.reg d] [.reg d v]
    let size := imageSize (p.hasVec (p.thread u)) (p.heldUnits u)
    let q := (p.countBulk p.who (s.reg b) size kWrite).saveTo u (s.reg b)
    let saved := if (p.thread u).inSlot then q.fill (p.thread u).cc (p.thread u).core (p.thread u).slot else q
    let saveOk := p.saveTarget (s.reg a) = .ok (some u) ∧ (s.reg b).toNat % 4096 = 0 ∧ p.walksAfter (s.reg b) size kWrite = [] ∧
      p.checkRange p.who (s.reg b) size kWrite = .ok () ∧ p.ownIds = []
    let core := if s.reg b = allOnes then word hd.core else s.reg b
    let y := p.countImage (s.reg a)
    let x := y.restore hd core.toNat (y.paOf y.who (s.reg a) kRead) bs
    let w := r.setTh { r.th with trace := [] }
    let desc := dbs.take 16
    let wsize := imageSize (w.hasVec (w.thread u)) (w.heldUnits u)
    let z := (w.countBulk w.who (dword desc 0) wsize kWrite).countImage (dword desc 1)
    let swapOk := p.saveTarget (s.reg a) = .ok (some u) ∧ p.ownIds = [] ∧ (dword desc 0).toNat % 4096 = 0 ∧
      w.checkRange w.who (dword desc 0) wsize kWrite = .ok () ∧ (∃ y, w.loadImage (dword desc 1) = .ok y) ∧
      w.savable u = true ∧ w.rangeHeld w.who (dword desc 0) 0x60000 kWrite = none ∧ w.imageHeld (dword desc 1) = none
    (p.saveTarget (s.reg a) = .ok none → Completes (.tsave h d a b m) s (give p 0)) ∧
    (saveOk → p.savable u = true → p.rangeHeld p.who (s.reg b) size kWrite = none →
      Completes (.tsave h d a b m) s (give saved (word size))) ∧
    (saveOk → p.savable u = false → Parks (.tsave h d a b m) s p (.threads [u])) ∧
    (p.saveTarget (s.reg a) = .error tr → s.clear (.tsave h d a b m) = true →
      exec (.tsave h d a b m) s = .next (s.trapNow tr)) ∧
    (p.ownIds = [] → p.imageHeld (s.reg a) = none → p.loadImage (s.reg a) = .ok (some (hd, bs)) →
      (y.loadRefusal hd core = 0 → Completes (.tload h d a b m) s (give (x.1.enqueue x.2 core.toNat) 0)) ∧
      (y.loadRefusal hd core ≠ 0 → Completes (.tload h d a b m) s (give y (word (y.loadRefusal hd core))))) ∧
    (p.ownIds = [] → p.imageHeld (s.reg a) = none → p.loadImage (s.reg a) = .ok none →
      Completes (.tload h d a b m) s (give y 2)) ∧
    ((s.reg a).toNat % 4096 ≠ 0 → s.clear (.tload h d a b m) = true →
      exec (.tload h d a b m) s = .next (s.trapNow (.of .align (s.reg a)))) ∧
    (p.descriptorReady (s.reg b) 16 16 dbs r →
      (p.saveTarget (s.reg a) = .ok none → Completes (.tswap h d a b m) s (give w 1)) ∧
      (swapOk → z.swap u (dword desc 0) (dword desc 1) = .ok none → Completes (.tswap h d a b m) s (give z 2)) ∧
      (swapOk → z.swap u (dword desc 0) (dword desc 1) = .ok (some o) → Completes (.tswap h d a b m) s (give o 0)))

/-- R345: `repart` of a core of the core set sets its mode when the context may and no slot of it holds a thread,
answers 1 when one does, 2 when the context may not; a core outside the set raises PROT. The threads and
leaves that wait for a slot of the core, and those that a mode had left without one, are placed; the rotation begins at
slot 0 (the model's choice, log 3). R346, R347: `tlbinv`, once the issuer's own accesses have been performed, discards
the cached translations that its kind names and completes when the accesses and commands of the context that began before
have been performed; that it waits for the issuer's own and for every one of the context, and not only for those that used what it
discards, is the model's choice (log 39). `cacheop` writes back or drops the lines of a range, after the issuer's earlier
accesses. A context outside the subtree raises PROT. -/
def Obligations.ModesAndCaches : Prop :=
  ((∀ (s : State) (h : Hdr) (d a : Opnd) (m : MD),
     let p := s.past
     let c := (s.reg a).toNat
     let x := p.repartition s.th.asid c m.pm.toNat
     (c < Config.cores s.part → s.inSet s.th.asid c = true →
       Completes (.repart h d a m) s (x.1.later [.reg d] [.reg d (word x.2)])) ∧
     (Config.cores s.part ≤ c ∨ s.inSet s.th.asid c = false → s.clear (.repart h d a m) = true →
       exec (.repart h d a m) s = .next (s.trapNow (.of .prot (s.reg a))))) ∧
   ∀ (s : State) (asid c mode : Nat),
     let busy := ∃ e ∈ s.threads, e.2.cc = false ∧ e.2.place = .slot c
     (s.mayRepart asid c = false → s.repartition asid c mode = (s, 2)) ∧
     (s.mayRepart asid c = true → (s.core c).mode = mode → s.repartition asid c mode = (s, 0)) ∧
     (s.mayRepart asid c = true → (s.core c).mode ≠ mode → busy → s.repartition asid c mode = (s, 1)) ∧
     (s.mayRepart asid c = true → (s.core c).mode ≠ mode → ¬busy → (s.repartition asid c mode).2 = 0 ∧
       (s.repartition asid c mode).1 = ((s.onCore c fun k => { k with mode := mode, q := 0 }).fillCore c).resettle
         (s.ctxs.flatMap fun e => s.stranded e.1))) ∧
  ((∀ (s : State) (h : Hdr) (d a b : Opnd) (m : MD) (c : Nat) (tr : Trap),
     let p := s.past
     let give := fun (q : State) => q.later [.reg d] [.reg d 0]
     let naming := fun (x : Word) => p.nameCtx (if m.ti = 3 then 0 else bits x 11 0) x
     let named := naming (s.reg b)
     let q := (p.discardTlb m.ti.toNat c (s.reg a)).unkept
     let k := if m.co = 0 then kRead else kWrite
     let n := (s.reg b).toNat
     let ps := if local? p.who (s.reg a) then [] else p.hbmPieces p.who k (n / 0x10000 + 2) (s.reg a) n
     (s.th.kept = [] → named = .ok c → p.ownIds = [] → q.openAccs c = [] → q.openCmds c = [] →
       Completes (.tlbinv h d a b m) s (give q)) ∧
     (s.th.kept ≠ [] →
       (naming (p.arg b) = .ok c →
         Resumes (.tlbinv h d a b m) s (give (p.discardTlb m.ti.toNat c (p.arg a)).unkept)) ∧
       (naming (p.arg b) = .error tr → Resumes (.tlbinv h d a b m) s (give p.unkept))) ∧
     (s.th.kept = [] → named = .ok c → p.ownIds = [] → ¬(q.openAccs c = [] ∧ q.openCmds c = []) →
       Parks (.tlbinv h d a b m) s (q.setTh { q.th with kept := [1] }) (.quiet (q.openAccs c) (q.openCmds c))) ∧
     (s.th.kept = [] → named = .ok c → p.ownIds ≠ [] →
       Parks (.tlbinv h d a b m) s p (.ids (p.ownIds.map fun i => (i, 6)))) ∧
     (s.th.kept = [] → named = .error tr → s.clear (.tlbinv h d a b m) = true →
       exec (.tlbinv h d a b m) s = .next (s.trapNow tr)) ∧
     (p.walksAfter (s.reg a) n k = [] → p.checkRange p.who (s.reg a) n k false true = .ok () → p.ownIds = [] →
       Completes (.cacheop h d a b m) s (give (p.cacheLines m.co.toNat ps))) ∧
     (p.walksAfter (s.reg a) n k = [] → p.checkRange p.who (s.reg a) n k false true = .error tr →
       s.clear (.cacheop h d a b m) = true →
       exec (.cacheop h d a b m) s = .next (s.trapNow tr))) ∧
   ∀ (s : State) (ti target : Nat) (va : Word) (e : TlbEntry),
     e ∈ (s.discardTlb ti target va).tlb ↔ e ∈ s.tlb ∧ s.discards ti target va e = false)

/-! ### Group 0xE: contexts -/

/-- R365 to R367: `ctxnew` of a 64-KiB-aligned block in HBM that no live context uses creates a child with the lowest
free ASID and answers its number; it answers all ones at depth 7, one less when the quota is used up and two less when
no ASID is free. A block that is not aligned raises ALIGN. The child starts NEW, with the issuer as parent, one level
deeper. -/
def Obligations.ContextCreation : Prop :=
  (∀ (s : State) (h : Hdr) (d a : Opnd) (fs : List Nat) (n : Nat),
    let p := s.past
    let xa := s.reg a
    let ok := s.releaseIds 4 = [] ∧ xa.toNat % 0x10000 = 0 ∧ p.checkRange p.who xa 0x80000 kWrite = .ok () ∧
      p.blockFrames xa 8 xa = .ok fs
    let r := p.rememberAll p.who kWrite (pagesOf xa 0x80000)
    let q := r.setCtx n (Ctx.new (s.myCtx.depth + 1) s.th.asid fs)
    let give := fun (q : State) (v : Word) => q.later [.reg d] [.reg d v]
    (ok → s.myCtx.depth ≠ 7 → r.ctxsLeft s.th.asid ≠ 0 → r.freeAsid = some n →
      Completes (.ctxnew h d a) s (give q (q.ctxid n))) ∧
    (ok → s.myCtx.depth = 7 → Completes (.ctxnew h d a) s (give r allOnes)) ∧
    (ok → s.myCtx.depth ≠ 7 → r.ctxsLeft s.th.asid = 0 → Completes (.ctxnew h d a) s (give r (allOnes - 1))) ∧
    (ok → s.myCtx.depth ≠ 7 → r.ctxsLeft s.th.asid ≠ 0 → r.freeAsid = none →
      Completes (.ctxnew h d a) s (give r (allOnes - 2))) ∧
    (s.releaseIds 4 = [] → xa.toNat % 0x10000 ≠ 0 → s.clear (.ctxnew h d a) = true →
      exec (.ctxnew h d a) s = .next (s.trapNow (.of .align xa)))) ∧
  (∀ (s : State) (n : Nat), s.freeAsid = some n →
    1 ≤ n ∧ n ≤ 4095 ∧ has s.ctxs n = false ∧ ∀ k, 1 ≤ k → k < n → has s.ctxs k = true) ∧
  ∀ (depth parent : Nat) (fs : List Nat),
    let c := Ctx.new depth parent fs
    c.state = .new ∧ c.depth = depth ∧ c.parent = parent ∧ c.block = fs

/-- R353 to R356, R332, R366, R368: `ctxgrant` and `ctxrevoke` on a child, when no other instruction waits for it and its
descriptor can be read: 2 while it is being reset, 3 for a descriptor that is not well-formed, the result of the grant's
or revocation's checks, and 0 when it is carried out. A grant of cores returns once the CORESET descriptor that it writes has been
performed. A revocation leaves the child and its subtree in one instant, its effects come to the contexts one at a time, deepest
first, and it returns when no access into what is revoked, and no CORESET write, is left. A target that is not a child raises
PROT. -/
def Obligations.GrantAndRevoke : Prop :=
  ∀ (s : State) (h : Hdr) (d a b : Opnd) (c : Nat) (bs : List Byte) (y : State) (i : Item) (tr : Trap) (w : Revoke),
    let p := s.past
    let q := y.setTh { y.th with trace := [] }
    let item := itemOf (bs.take 64)
    let r := q.grantResult s.th.asid c i
    let v := q.revokeResult c i
    let cores := fun (l : List Nat) => match i with
      | .cores _ _ => l
      | _ => []
    let g := q.applyGrant s.th.asid c i
    let k := q.markRevoke c i
    let x := k.cascade s.th.asid i (q.deepest (q.subtree c))
    let z := x.1.cutOff s.th.asid c i
    let others := k.works.filter fun w => w.uid != s.cur
    let left : Revoke := ⟨s.cur, s.th.asid, c, i, x.2.1⟩
    let owed := z.revokedAccs s.th.asid c i ++ z.coresetIds (cores (z.subtree c))
    let ended := State.endRevoke { z with works := others } left
    let gone := fun (o : State) => (o.unkept.leaveLines s.cur).later [.reg d] [.reg d 0]
    (s.th.kept = [] → (∀ w ∈ s.works, w.uid ≠ s.cur) →
      (p.targetCtx (s.reg a) 0 0 = .ok c → p.turnFree c → (p.inTurn c).descriptorReady (s.reg b) 16 64 bs y →
        (q.resetting c = true →
          Completes (.ctxgrant h d a b) s (q.turned s.cur d 2) ∧ Completes (.ctxrevoke h d a b) s (q.turned s.cur d 2)) ∧
        (q.resetting c = false → item = none →
          Completes (.ctxgrant h d a b) s (q.turned s.cur d 3) ∧ Completes (.ctxrevoke h d a b) s (q.turned s.cur d 3)) ∧
        (q.resetting c = false → item = some i →
          (r ≠ 0 → Completes (.ctxgrant h d a b) s (q.turned s.cur d (word r))) ∧
          (r = 0 → g.coresetIds (cores [c]) = [] →
            Completes (.ctxgrant h d a b) s ((g.unkept.leaveLines s.cur).turned s.cur d 0)) ∧
          (r = 0 → g.coresetIds (cores [c]) ≠ [] →
            Parks (.ctxgrant h d a b) s (g.keep 4) (.quiet (g.coresetIds (cores [c])) [])) ∧
          (v ≠ 0 → Completes (.ctxrevoke h d a b) s (q.turned s.cur d (word v))) ∧
          (v = 0 → x.2.1 ≠ [] → Parks (.ctxrevoke h d a b) s
            (State.keep { x.1 with works := others ++ [left] } 1) (.threads x.2.2)) ∧
          (v = 0 → x.2.1 = [] → owed ≠ [] → Parks (.ctxrevoke h d a b) s
            (State.keep { z with works := others ++ [left] } 2) (.quiet owed [])) ∧
          (v = 0 → x.2.1 = [] → owed = [] →
            Completes (.ctxrevoke h d a b) s ((ended.unkept.leaveLines s.cur).turned s.cur d 0)))) ∧
      (p.targetCtx (s.reg a) 0 0 = .error tr →
        (s.clear (.ctxgrant h d a b) = true → exec (.ctxgrant h d a b) s = .next (s.trapNow tr)) ∧
        (s.clear (.ctxrevoke h d a b) = true → exec (.ctxrevoke h d a b) s = .next (s.trapNow tr)))) ∧
    (s.th.kept = [4] → Resumes (.ctxgrant h d a b) s (gone p)) ∧
    (s.th.kept = [2] → (s.works.find? fun w => w.uid == s.cur) = some w → Resumes (.ctxrevoke h d a b) s
      (gone (State.endRevoke { p with works := p.works.filter fun w => w.uid != s.cur } w)))

/-- R351, R369, R371: `ctxrun` makes a descendant RUNNING and serves its queues, answering 0, or 1 when it runs already;
`ctxstop` makes it STOPPED and saves the threads of its subtree, or answers 1; both answer 2 while it is being reset.
`ctxfree` of a child that holds nothing gives its items back and forgets it, answering 0, else 1. R364, R370 to R372:
`ctxevt` answers a reflected trap of a thread that waits for the issuer's context with 0, or 1 when no such thread
waits or its event is not posted yet; `ctxreset` has a first part, once no trap entry of the subtree drains, after which
the subtree is RESETTING and the issuer goes on at the same instruction, and a second part, once nothing of the subtree is
owed, that ends the reset and answers 0; one that finds a reset under way answers 2 after it, were the context freed meanwhile
too; `ctxstat` reads the status of the issuer's own context or of a descendant. A `ctxstop` waits for the threads that cannot be
saved yet. -/
def Obligations.ContextStates : Prop :=
  (∀ (s : State) (h : Hdr) (d a : Opnd) (c : Nat) (tr : Trap),
     let p := s.past
     let q := p.inTurn c
     let m := q.markStopped c
     let us := m.stopThreads s.th.asid c
     let t := p.tidied c
     let vs := t.stopThreads s.th.asid c
     (p.targetCtx (s.reg a) 0 1 = .ok c → p.turnFree c →
       (q.resetting c = true →
         Completes (.ctxrun h d a) s (q.turned s.cur d 2) ∧ Completes (.ctxstop h d a) s (q.turned s.cur d 2)) ∧
       (q.resetting c = false →
         ((q.ctx c).state = .running → Completes (.ctxrun h d a) s (q.turned s.cur d 1)) ∧
         ((q.ctx c).state ≠ .running → Completes (.ctxrun h d a) s ((q.runCtx c).turned s.cur d 0)) ∧
         (s.th.kept = [] → (q.ctx c).state = .stopped → Completes (.ctxstop h d a) s (q.turned s.cur d 1)) ∧
         (s.th.kept = [] → (q.ctx c).state ≠ .stopped → us.all m.savable = true →
           Completes (.ctxstop h d a) s ((m.saveAll us).turned s.cur d 0)) ∧
         (s.th.kept = [] → (q.ctx c).state ≠ .stopped → us.all m.savable = false →
           Parks (.ctxstop h d a) s (m.keep 1) (.threads us)))) ∧
     (s.th.kept = [1] → p.targetCtx (p.arg a) 0 1 = .ok c → p.turnKept c → t.resetting c = false → vs.all t.savable = true →
       Resumes (.ctxstop h d a) s ((t.saveAll vs).turned s.cur d 0)) ∧
     (p.targetCtx (s.reg a) 0 0 = .ok c → p.turnFree c →
       (q.mayFree c = true → Completes (.ctxfree h d a) s (((q.giveBack c s.th.asid).forget c).turned s.cur d 0)) ∧
       (q.mayFree c = false → Completes (.ctxfree h d a) s (q.turned s.cur d 1))) ∧
     (p.targetCtx (s.reg a) 0 1 = .error tr →
       (s.clear (.ctxrun h d a) = true → exec (.ctxrun h d a) s = .next (s.trapNow tr)) ∧
       (s.clear (.ctxstop h d a) = true → exec (.ctxstop h d a) s = .next (s.trapNow tr))) ∧
     (p.targetCtx (s.reg a) 0 0 = .error tr → s.clear (.ctxfree h d a) = true →
       exec (.ctxfree h d a) s = .next (s.trapNow tr))) ∧
  (∀ (s : State) (h : Hdr) (d a b : Opnd) (c u tgt : Nat) (tr : Trap) (prec : Bool),
     let p := s.past
     let q := p.inTurn c
     let xa := s.reg a
     let x := q.answerTrap u tr prec ((s.reg b).toNat % 4)
     let t := p.tidied c
     let i := Instr.ctxreset h d a b
     let thread := xa.toNat % 2 ^ 16
     (p.targetCtx xa 16 2 = .ok c → p.turnFree c →
       (q.named c thread = none → Completes (.ctxevt h d a b) s (q.turned s.cur d 1)) ∧
       (q.named c thread = some u → (q.thread u).park = .reflected tgt tr prec →
         (tgt = s.th.asid → (∀ e ∈ (q.ctx tgt).heldEvents, e.uid ≠ some u) →
           Completes (.ctxevt h d a b) s (x.1.turned s.cur d (word x.2))) ∧
         (tgt ≠ s.th.asid ∨ (∃ e ∈ (q.ctx tgt).heldEvents, e.uid = some u) →
           Completes (.ctxevt h d a b) s (q.turned s.cur d 1)))) ∧
     (s.th.kept = [] → p.targetCtx xa 0 1 = .ok c →
       (p.resetting c = true → Parks i s (p.keep 2) .pass) ∧
       (p.resetting c = false → p.turnFree c →
         (q.trapsDrain c = false → Parks i s ((q.resetBegin c).keep 1) .pass) ∧
         (q.trapsDrain c = true → Parks i s ((q.resetMark c).keep 3) .pass))) ∧
     (p.targetCtx (p.arg a) 0 1 = .ok c → p.turnKept c → s.resumes i = true →
       (s.th.kept = [3] →
         (t.trapsDrain c = false → exec i s = .next (((t.resetBegin c).keep 1).parkAt s.th.pc .pass)) ∧
         (t.trapsDrain c = true → exec i s = .next (((t.resetMark c).keep 3).parkAt s.th.pc .pass))) ∧
       (s.th.kept = [1] → t.resetOwes c = true → exec i s = .next (t.parkAt s.th.pc .pass))) ∧
     (p.targetCtx (p.arg a) 0 1 = .ok c → p.turnKept c → s.th.kept = [1] → t.resetOwes c = false →
       Resumes i s ((t.resetEnd s.th.asid c ((p.arg b).getLsbD 0)).turned s.cur d 0)) ∧
     (s.th.kept = [2] →
       (p.targetCtx (p.arg a) 0 1 = .error tr → Resumes i s (p.unkept.later [.reg d] [.reg d 2])) ∧
       (p.targetCtx (p.arg a) 0 1 = .ok c → p.resetting c = false → Resumes i s (p.unkept.later [.reg d] [.reg d 2])) ∧
       (p.targetCtx (p.arg a) 0 1 = .ok c → p.resetting c = true → s.resumes i = true →
         exec i s = .next (p.parkAt s.th.pc .pass))) ∧
     (p.targetCtx xa 0 3 = .ok c → p.turnFree c →
       Completes (.ctxstat h d a b) s (q.turned s.cur d (q.ctxStat c (s.reg b)))) ∧
     ((q.thread u).tephra = false → has q.threads u = true → ∀ act, act < 2 → ∀ y, y = q.answerTrap u tr prec act →
       y.2 = 0 ∧ (y.1.thread u).park = .run ∧ (y.1.thread u).pc = (q.thread u).pc + word (8 * act)))

/-! ### Tephra bytecode -/

/-- R267, R283, R284, R27, R261 to R264, R278: f(n) is the 8-byte word at X28 + 8n, K(n) the one at FN.CONSTS + 8n. A
bytecode reads them and writes them as plain accesses under R167, here performed at once (how many accesses a turn performs,
and that a store may be performed later, are the model's, log 49); a failed check is the bytecode's trap, a poisoned X28 or
byte POISON; a read changes no byte of memory. A value of no layout raises TYPE; KIND is in a heap
object's header; the touch of a tensor with FAILED enters the guard path with reason 3. Cell n is element n of FN.CELLS, an
array. R282 to R284: the bytecodes that move data, when what they read and write is reachable (`p` is the state after the
bytecode's words, and each hypothesis runs one access). `loadc` writes nil, false or true; a clear bytecode whose access
fails takes the trap and leaves nothing of what it did. -/
def Obligations.FramesAndMoves : Prop :=
  (∀ (s q : State) (n : Nat) (v w : Word) (t : Tr) (tr : Trap),
     let va := s.xr 28 + word (8 * n)
     let hm := s.homeOf t.pa t.attr
     let st : AccOp := .store (toBytes 8 v.toNat)
     let ready := fun (k : Nat) (op : AccOp) => s.th.trace = [] ∧ s.bursts.head? = some 0 ∧
       s.th.xPoison.contains 28 = false ∧ s.beforeReach va k op = []
     let ok := fun (k : Nat) (op : AccOp) => ready k op ∧ s.check s.who va 8 k = .ok t ∧ s.kindOf t.pa ≠ some .csr ∧
       (s.remember s.who va k t).atOnce hm t.pa 8 op = true
     (ok kRead .load → s.behind = [] → s.isPoisoned t.pa 8 = false →
       ∃ q : State, tF n s = .ok (word (fromBytes (s.bytes t.pa 8)), q) ∧ q.mem = s.mem ∧ q.threads = s.threads ∧
         q.cores = s.cores ∧ q.ctxs = s.ctxs) ∧
     (ok kRead .load → s.behind = [] → s.isPoisoned t.pa 8 = true → tF n s = .error (.trap (.of .poison 0))) ∧
     (ok kWrite st → ∃ a : Acc, a.pa = t.pa ∧ a.size = 8 ∧ a.home = hm ∧ a.owner = .thread s.cur ∧ a.op = st ∧
       tSetF n v s = .ok ((), State.perform ((s.remember s.who va kWrite t).bump.rehome hm t.pa 8) a)) ∧
     (ready kRead .load → s.check s.who va 8 kRead = .error tr → tF n s = .error (.trap tr)) ∧
     (ready kWrite st → s.check s.who va 8 kWrite = .error tr → tSetF n v s = .error (.trap tr)) ∧
     (s.th.xPoison.contains 28 = true → tF n s = .error (.trap (.of .poison 0))) ∧
     (s.th.xPoison.contains 29 = false → tFn n s = tRead (s.xr 29 + word n) 8 s) ∧
     (tFn 24 s = .ok (w, q) → tK n s = tRead (w + word (8 * n)) 8 q)) ∧
  (∀ (s q q1 q2 q3 q4 : State) (v h site x len y c : Word) (n : Nat),
     (valueOk v = false → tKind v s = .error (.trap (.of .type v)) ∧ tTouch site v s = .error (.trap (.of .type v))) ∧
     (valueOk v = true → tagOf v ≠ 1 → tKind v s = .ok (none, s) ∧ tTouch site v s = .ok ((), s)) ∧
     (tagOf v = 1 → tRead (v - 1) 8 s = .ok (h, q) → tKind v s = .ok (some (bits h 3 0), q) ∧
       (bits h 3 0 = 1 → h.getLsbD 4 = true → tTouch site v s = .error (.guard 3 v site)) ∧
       (bits h 3 0 ≠ 1 ∨ h.getLsbD 4 = false → tTouch site v s = .ok ((), q))) ∧
     (tFn 56 s = .ok (x, q) → tKind x q = .ok (some 2, q1) → tRead (x + 15) 8 q1 = .ok (len, q2) →
       (n < len.toNat → tRead (x + 31) 8 q2 = .ok (y, q3) → tRead (y + word (8 * n)) 8 q3 = .ok (c, q4) → tagOf c = 1 →
         tCell n s = .ok (c - 1, q4)) ∧
       (len.toNat ≤ n → tCell n s = .error (.trap (.of .type x))))) ∧
  (∀ (s : State) (a b : BitVec 8) (k i : BitVec 16) (v c : Word) (q q1 t : State) (tr : Trap),
     let p := s.advance 4
     let n := a.toNat
     let ends := fun (i : Instr) (t : State) => exec i s = .next (s.bcEnds t)
     s.bcClear = true →
       ends .tNop p ∧
       (tF b.toNat p = .ok (v, q) → tSetF n v q = .ok ((), t) → ends (.tMove a b) t) ∧
       (tF b.toNat p = .error (.trap tr) → exec (.tMove a b) s = .next (s.spent.raise s.cur tr true)) ∧
       (tF b.toNat p = .ok (v, q) → tSetF n v q = .error (.trap tr) →
         exec (.tMove a b) s = .next (s.spent.raise s.cur tr true)) ∧
       (tK k.toNat p = .ok (v, q) → tSetF n v q = .ok ((), t) → ends (.tLoadk a k) t) ∧
       (tSetF n (i.signExtend 64 <<< 3) p = .ok ((), t) → ends (.tLoadi a i) t) ∧
       (b.toNat ≤ 2 → tSetF n (word (8 * b.toNat + 3)) p = .ok ((), t) → ends (.tLoadc a b) t) ∧
       (2 < b.toNat → exec (.tLoadc a b) s = .next (s.spent.raise s.cur (.of .type (word b.toNat)) true)) ∧
       (tSetF n 3 p = .ok ((), t) → ends (.tDel a) t) ∧
       (tCell b.toNat p = .ok (c, q) → tRead (c + 16) 8 q = .ok (v, q1) → tSetF n v q1 = .ok ((), t) →
         ends (.tGetcell a b) t) ∧
       (tCell b.toNat p = .ok (c, q) → tF n q = .ok (v, q1) → tHeapStore (c + 16) c v q1 = .ok ((), t) →
         ends (.tSetcell a b) t))

/-- R285, R269, R270, R280: attributes and items on a hit. A site's four entries stand 64 bytes apart at FN.IC + 256 IC; the
first of the wanted kind whose keys match is the hit; none enters the guard path with reason 1, a megamorphic site with 2, a
site beyond NIC and an entry with a bad ACT or offset raise TYPE. An attribute's slot is the receiver's address plus the
offset of the entry whose SHAPE is the receiver's, an item's the element of an array at a small integer below LENGTH; every
other receiver, container or index enters the guard path with reason 5. A store into a heap slot adds 1 to the reference
count of the new value and swaps the slot with a release and acquire at .mo, in either order, subtracts 1 from the count of the
old value, which it queues when the count falls to 0, and while MARKING is set writes 1 to the object's card as a release; the
first store into a new object releases no old value, and which of count and slot comes first is a free choice of the run
(log 54). Without an arena nothing marks or queues (log 55). `len` gives the length of an array or map, or a tensor's first
dimension (none for a scalar, which takes reason 5), as a small integer, `isinst` whether a value is of a kind. -/
def Obligations.BytecodeItems : Prop :=
  (∀ (s q q1 : State) (ic : BitVec 16) (base w x : Word) (kind n left i : Nat) (hit : List Byte → Bool) (e : List Byte)
     (ws : List (List Byte)) (t : Tr),
     let at_ := base + word (64 * n)
     let h := dword e 0
     let mega := n = 0 ∧ h.getLsbD 2 = true
     let match_ := bits h 1 0 = kind ∧ hit e = true
     let good := bits h 7 6 ≠ 3 ∧ (kind = 1 → 16 ≤ (dword e 1).toNat ∧ (dword e 1).toNat % 8 = 0)
     (tFn 32 s = .ok (w, q) → tSite ic s = .ok (w + word (256 * ic.toNat), q)) ∧
     (tSite ic s = .ok (base, q) → tFn 48 q = .ok (w, q1) →
       (ic.toNat < bits w 31 16 → tLookup ic kind hit s = tSearch base kind hit 4 0 q1) ∧
       (bits w 31 16 ≤ ic.toNat → tLookup ic kind hit s = .error (.trap (.of .type base)))) ∧
     tSearch base kind hit 0 n s = .error (.guard 1 0 base) ∧
     (tEntry at_ s = .ok (e, q) →
       (mega → tSearch base kind hit (left + 1) n s = .error (.guard 2 0 base)) ∧
       (¬mega → ¬match_ → tSearch base kind hit (left + 1) n s = tSearch base kind hit left (n + 1) q) ∧
       (¬mega → match_ → good → tSearch base kind hit (left + 1) n s = .ok ((at_, e), q)) ∧
       (¬mega → match_ → ¬good → tSearch base kind hit (left + 1) n s = .error (.trap (.of .type at_)))) ∧
     (tIcWord x 0 s = .ok (e, q) → e.length = 8 → tAll (fun i => tIcWord x (i + 1)) (List.range 7) q = .ok (ws, q1) →
       tEntry x s = .ok (e ++ ws.flatten, q1)) ∧
     (s.th.trace = [] → s.bursts.head? = some 0 → s.beforeReach (x + word (8 * i)) kRead .load = [] →
       s.check s.who (x + word (8 * i)) 8 kRead = .ok t → s.kindOf t.pa ≠ some .csr → s.icCopy x = none → s.behind = [] →
       s.isPoisoned t.pa 8 = false →
       (s.remember s.who (x + word (8 * i)) kRead t).atOnce (s.homeOf t.pa t.attr) t.pa 8 .load = true →
       ∃ q : State, tIcWord x i s = .ok (s.bytes t.pa 8, q) ∧ q.mem = s.mem ∧ q.threads = s.threads)) ∧
  (∀ (s q q1 q2 q3 q4 q5 : State) (ic : BitVec 16) (store : Bool) (r x h w y site : Word) (k : Option Nat)
     (e : Word × List Byte),
     let guards := fun (z : Word) => tItem store r x s = .error (.guard 5 0 z)
     (valueOk r = true → tSite ic s = .ok (site, q) →
       (tagOf r ≠ 1 → tAttr r ic s = .error (.guard 5 0 site)) ∧
       (tagOf r = 1 → tTouch site r q = .ok ((), q1) → tRead (r - 1) 8 q1 = .ok (h, q2) →
         tLookup ic 1 (fun e => bits (dword e 0) 63 32 == bits h 63 32) q2 = .ok (e, q3) →
         tAttr r ic s = .ok (r - 1 + dword e.2 1, q3))) ∧
     (tKind r s = .ok (k, q) → valueOk x = true → tSettle store r q = .ok ((), q1) → tTouch 0 r q1 = .ok ((), q2) →
       tTouch 0 x q2 = .ok ((), q3) →
       (k = some 2 → tagOf x = 0 → tRead (r + 15) 8 q3 = .ok (w, q4) →
         (0 ≤ smallOf x → smallOf x < w.toNat → tRead (r + 31) 8 q4 = .ok (y, q5) → tItem store r x s = .ok (y + x, q5)) ∧
         (smallOf x < 0 ∨ w.toNat ≤ smallOf x → guards 0)) ∧
       (k ≠ some 2 ∨ tagOf x ≠ 0 → guards 0))) ∧
  (∀ (s q q1 q2 q3 q4 q5 : State) (slot obj v old w ar hb cb size head base n : Word) (t : Tr) (op : Nat) (b d va : Word),
     let arena := s.myCtx.arena &&& ~~~0x3F
     (tSwap slot v s = .ok (old, q1) →
       (tRelease old q1 = .ok ((), q2) → tCard obj q2 = .ok ((), q3) → tHeapStore slot obj v s = .ok ((), q3)) ∧
       (tCard obj q1 = .ok ((), q2) → tFirstStore slot obj v s = .ok ((), q2))) ∧
     (s.th.trace = [] → s.bursts.head? = some 0 → tRetain v s = .ok ((), q) → tAtom slot 8 v 0 .ordered q = .ok (old, q1) →
       tSwap slot v s = .ok (old, q1)) ∧
     (∀ (g : List Byte) (tr : List Seen), s.th.trace = .got g false :: tr →
       let z := s.setTh { s.th with trace := tr }
       ((g.getD 0 0).getLsbD 0 = false → tRetain v z = .ok ((), q) → tAtom slot 8 v 0 .ordered q = .ok (old, q1) →
         tSwap slot v s = .ok (old, q1)) ∧
       ((g.getD 0 0).getLsbD 0 = true → tAtom slot 8 v 0 .ordered z = .ok (old, q) → tRetain v q = .ok ((), q1) →
         tSwap slot v s = .ok (old, q1))) ∧
     (tagOf v ≠ 1 → tRetain v s = .ok ((), s) ∧ tRelease v s = .ok ((), s)) ∧
     (tagOf v = 1 → tAtom (v + 7) 16 0 0 .plain s = .ok (w, q) → tRetain v s = .ok ((), q)) ∧
     (tagOf v = 1 → tAtom (v + 7) 17 0 0 .plain s = .ok (w, q) →
       (bits w 63 16 = 1 → tRelease v s = tZeroCount (v - 1) q) ∧ (bits w 63 16 ≠ 1 → tRelease v s = .ok ((), q))) ∧
     (atomNew 8 w v 0 = v ∧ atomNew 16 w 0 0 = (if bits w 63 16 = 2 ^ 48 - 1 then w else w + 0x10000) ∧
       atomNew 17 w 0 0 = if bits w 63 16 = 2 ^ 48 - 1 ∨ bits w 63 16 = 0 then w else w - 0x10000) ∧
     (∀ m : Manner, s.th.trace = [] → s.bursts.head? = some 0 → s.beforeReach va kWrite (.atom op b d) = [] →
       s.check s.who va 8 kWrite = .ok t → s.kindOf t.pa ≠ some .csr → s.behind = [] → s.isPoisoned t.pa 8 = false →
       (s.remember s.who va kWrite t).atOnce (s.homeOf t.pa t.attr) t.pa 8 (.atom op b d) (m == .ordered) = true →
       ∃ a : Acc, a.pa = t.pa ∧ a.home = s.homeOf t.pa t.attr ∧ a.owner = .thread s.cur ∧ a.op = .atom op b d ∧
         tAtom va op b d m s = .ok (word (fromBytes (s.bytes t.pa 8)), (s.remember s.who va kWrite t).bump.perform a)) ∧
     (s.th.trace = [] → s.bursts.head? = some 0 → tArena s = .ok (arena, s)) ∧
     (tArena s = .ok (0, q) → tMarking s = .ok (false, q) ∧ tZeroCount obj s = .ok ((), q)) ∧
     (tArena s = .ok (ar, q) → ar ≠ 0 → tRead (ar + 32) 8 q = .ok (w, q1) → tMarking s = .ok (w.getLsbD 0, q1)) ∧
     (tArena s = .ok (ar, q) → ar ≠ 0 → tAtom (ar + 64) 0 1 0 .plain q = .ok (n, q1) → tRead (ar + 48) 8 q1 = .ok (size, q2) →
       tRead (ar + 56) 8 q2 = .ok (head, q3) →
       (size.toNat ≤ (n - head).toNat → tZeroCount obj s = .ok ((), q3)) ∧
       ((n - head).toNat < size.toNat → tRead (ar + 40) 8 q3 = .ok (base, q4) →
         tWrite (base + word (8 * (n.toNat % size.toNat))) 8 obj .plain q4 = .ok ((), q5) → tZeroCount obj s = .ok ((), q5))) ∧
     (tMarking s = .ok (false, q) → tCard obj s = .ok ((), q)) ∧
     (tMarking s = .ok (true, q) → tArena q = .ok (ar, q1) → tRead (ar + 16) 8 q1 = .ok (hb, q2) →
       tRead (ar + 24) 8 q2 = .ok (cb, q3) → tWrite (cb + ((obj - hb) >>> 9)) 1 1 .ordered q3 = .ok ((), q4) →
       tCard obj s = .ok ((), q4))) ∧
  ∀ (s : State) (a b c nm : BitVec 8) (ic : BitVec 16) (r x v w : Word) (k : Nat) (m : Int) (q q1 q2 q3 t : State),
    let p := s.advance 8
    let o := s.advance 4
    let ends := fun (i : Instr) (t : State) => exec i s = .next (s.bcEnds t)
    s.bcClear = true →
      (tFn 40 p = .ok (r, q) → tAttr r ic q = .ok (x, q1) →
        (tRead x 8 q1 = .ok (v, q2) → tSetF a.toNat v q2 = .ok ((), t) → ends (.tGetg a b ic nm) t) ∧
        (tF a.toNat q1 = .ok (v, q2) → tHeapStore x (r - 1) v q2 = .ok ((), t) → ends (.tSetg a b ic nm) t)) ∧
      (tF b.toNat p = .ok (r, q) → tAttr r ic q = .ok (x, q1) → tRead x 8 q1 = .ok (v, q2) → tSetF a.toNat v q2 = .ok ((), t) →
        ends (.tGetattr a b c ic nm) t) ∧
      (tF a.toNat p = .ok (r, q) → tAttr r ic q = .ok (x, q1) → tF c.toNat q1 = .ok (v, q2) →
        tHeapStore x (r - 1) v q2 = .ok ((), t) → ends (.tSetattr a b c ic nm) t) ∧
      (∀ site, tF b.toNat p = .ok (r, q) → tAttr r ic q = .error (.guard k v site) →
        exec (.tGetattr a b c ic nm) s = .next (s.spent.guardEnter s.th.pc k v site)) ∧
      (tF b.toNat o = .ok (r, q) → tF c.toNat q = .ok (x, q1) → tItem false r x q1 = .ok (w, q2) → tRead w 8 q2 = .ok (v, q3) →
        tSetF a.toNat v q3 = .ok ((), t) → ends (.tGetitem a b c) t) ∧
      (tF a.toNat o = .ok (r, q) → tF b.toNat q = .ok (x, q1) → tItem true r x q1 = .ok (w, q2) → tF c.toNat q2 = .ok (v, q3) →
        tHeapStore w (r - 1) v q3 = .ok ((), t) → ends (.tSetitem a b c) t) ∧
      (tF b.toNat o = .ok (v, q) → tTouch 0 v q = .ok ((), q1) → tKind v q1 = .ok (some k, q2) → k = 2 ∨ k = 3 →
        tRead (v + 15) 8 q2 = .ok (w, q3) → tSetF a.toNat (w <<< 3) q3 = .ok ((), t) → ends (.tLen a b) t) ∧
      (tF b.toNat o = .ok (v, q) → tTouch 0 v q = .ok ((), q1) → tKind v q1 = .ok (some 1, q2) →
        tRead (v + 15) 8 q2 = .ok (w, q3) →
        (bits w 6 4 = 0 → exec (.tLen a b) s = .next (s.spent.guardEnter s.th.pc 5 0 0)) ∧
        (∀ (x : Word) (q4 t : State), bits w 6 4 ≠ 0 → tRead (v + 23) 8 q3 = .ok (x, q4) →
          tSetF a.toNat (x <<< 3) q4 = .ok ((), t) → ends (.tLen a b) t)) ∧
      (tK c.toNat o = .ok (mkInt m, q) → intFits m = true → tF b.toNat q = .ok (v, q1) → tTouch 0 v q1 = .ok ((), q2) →
        (tKind v q2 = .ok (some k, q3) → tSetF a.toNat (if m = k ∧ k ≤ 15 then 0x13 else 0xB) q3 = .ok ((), t) →
          ends (.tIsinst a b c) t) ∧
        (tKind v q2 = .ok (none, q3) →
          tSetF a.toNat (if (m = 16 ∧ tagOf v = 0) ∨ (m = 17 ∧ tagOf v = 2) ∨ (m = 18 ∧ tagOf v = 3) then 0x13 else 0xB) q3 =
            .ok ((), t) → ends (.tIsinst a b c) t))

/-- R286, R261, R263: operators on two small integers or two short floats that a thread computes itself, `not`, and
identity. A short float's result is that of FP32 with its FLAGS; a division by a float zero goes to the inline cache, as do an
exact result that no small integer holds, a negative shift and every other pair of operands. `not` gives false for a heap
pointer and for every value that is not one of the five false ones. -/
def Obligations.BytecodeOperators : Prop :=
  (∀ (s : State) (a b c op : BitVec 8) (ic : BitVec 16) (l r v f site : Word) (q q1 q2 t : State),
    let p := s.advance 8
    let ends := fun (i : Instr) (t : State) => exec i s = .next (s.bcEnds t)
    let simple := fun (v : Word) => tagOf v ≠ 1 ∧ valueOk v = true
    s.bcClear = true →
      (tF b.toNat p = .ok (l, q) → tF c.toNat q = .ok (r, q1) → simple l → simple r → tSite ic q1 = .ok (site, q2) →
        (inlineBinop op.toNat l r = some (v, f) → tSetF a.toNat v (q2.flag f) = .ok ((), t) →
          ends (.tBinop a b c ic op) t) ∧
        (op.toNat < 6 → inlineCompare op.toNat l r = some (v, f) → tSetF a.toNat v (q2.flag f) = .ok ((), t) →
          ends (.tCompare a b c ic op) t)) ∧
      (tF b.toNat p = .ok (l, q) → simple l → tSite ic q = .ok (site, q1) → inlineUnop op.toNat l = some (v, f) →
        tSetF a.toNat v (q1.flag f) = .ok ((), t) → ends (.tUnop a b ic op) t) ∧
      (tF b.toNat p = .ok (l, q) → tagOf l = 1 → valueOk l = true → tSite ic q = .ok (site, q1) →
        tTouch site l q1 = .ok ((), q2) → tSetF a.toNat 0xB (q2.flag 0) = .ok ((), t) → ends (.tUnop a b ic 1) t) ∧
      (tF b.toNat p = .ok (l, q) → tF c.toNat q = .ok (r, q1) →
        (tSetF a.toNat (if l = r then 0x13 else 0xB) q1 = .ok ((), t) → ends (.tCompare a b c ic 6) t) ∧
        (tSetF a.toNat (if l = r then 0xB else 0x13) q1 = .ok ((), t) → ends (.tCompare a b c ic 7) t))) ∧
  (∀ (x y : Int), intFits x = true → intFits y = true →
    let fit := fun (n : Int) => if -2 ^ 60 ≤ n ∧ n < 2 ^ 60 then some (mkInt n, (0 : Word)) else none
    let truth := fun (b : Prop) [Decidable b] => some ((if b then 0x13 else 0xB : Word), (0 : Word))
    inlineBinop 0 (mkInt x) (mkInt y) = fit (x + y) ∧ inlineBinop 1 (mkInt x) (mkInt y) = fit (x - y) ∧
    inlineBinop 2 (mkInt x) (mkInt y) = fit (x * y) ∧
    (0 ≤ y → y ≤ 63 → inlineBinop 11 (mkInt x) (mkInt y) = fit (x * 2 ^ y.toNat)) ∧
    (y < 0 → inlineBinop 11 (mkInt x) (mkInt y) = none ∧ inlineBinop 12 (mkInt x) (mkInt y) = none) ∧
    inlineUnop 0 (mkInt x) = fit (-x) ∧ inlineUnop 2 (mkInt x) = fit (-x - 1) ∧
    inlineUnop 1 (mkInt x) = truth (x = 0) ∧
    inlineCompare 0 (mkInt x) (mkInt y) = truth (x = y) ∧ inlineCompare 1 (mkInt x) (mkInt y) = truth (x ≠ y) ∧
    inlineCompare 2 (mkInt x) (mkInt y) = truth (x < y) ∧ inlineCompare 3 (mkInt x) (mkInt y) = truth (x ≤ y) ∧
    inlineCompare 4 (mkInt x) (mkInt y) = truth (x > y) ∧ inlineCompare 5 (mkInt x) (mkInt y) = truth (x ≥ y) ∧
    (0 ≤ y → ∃ z : Int, inlineBinop 12 (mkInt x) (mkInt y) = some (mkInt z, 0) ∧ intFits z = true ∧
      z * 2 ^ (min y 64).toNat ≤ x ∧ x < (z + 1) * 2 ^ (min y 64).toNat)) ∧
  (∀ (v : Word), inlineUnop 1 v =
    some (if v = 3 ∨ v = 0xB ∨ v = 0 ∨ v = 2 ∨ v = 0x8000000000000002 then 0x13 else 0xB, 0)) ∧
  (∀ (l r : Word), tagOf l = 2 → tagOf r = 2 →
    let x := Fmt.f32.decode (bits l 63 32)
    let y := Fmt.f32.decode (bits r 63 32)
    let float := fun (z : Flagged Val) => let q := Fmt.f32.result 0 z
      some (word (q.1 * 2 ^ 32 + 2), q.2)
    inlineBinop 0 l r = float (x.add 0 y) ∧ inlineBinop 1 l r = float (x.add 0 y.neg) ∧ inlineBinop 2 l r = float (x.mul y) ∧
    (bits r 62 32 = 0 → inlineBinop 3 l r = none) ∧ (bits r 62 32 ≠ 0 → inlineBinop 3 l r = float (x.div y)) ∧
    inlineUnop 0 l = float (x.neg, 0) ∧ (∀ op, 3 < op → inlineBinop op l r = none) ∧
    ∀ op, op < 6 → inlineCompare op l r =
      some (if Fmt.f32.cond op (bits l 63 32) (bits r 63 32) = true then 0x13 else 0xB, 0)) ∧
  ∀ (l r : Word), tagOf l = 0 → tagOf r = 0 →
    inlineBinop 8 l r = some (l &&& r, 0) ∧ inlineBinop 9 l r = some (l ||| r, 0) ∧ inlineBinop 10 l r = some (l ^^^ r, 0)

/-- R287, R282, R263: jumps count words from the word after the bytecode. `jt` and `jf` jump on the truth of a value,
`forprep` and `forloop` run a loop over small integers, `iter` and `next` over an array, `halt` stores its value and
ends the thread. R47, R267, R288: a call of a function object, whose arguments are none that failed, enters it: the frame at
f(A + 3) must end by X30, else guard reason 6, and the arguments be NPARAM, else 5; the caller's frame and function are saved
as small integers, the rest of the new frame is nil, the address of the next bytecode is pushed with its mode bit, and
execution continues at CODE with X28 and X29 those of the callee. A native call pushes that address too, and leaves for
native code with X1 the address of f(A), the operands in X2 onward and their count in X6; `ret` returns the value to the
caller's frame. `callm`, and a call of a native function object, of up to four arguments enter on a hit the function, or
call the code, that the entry's word 6 says; a hit with ACT 2 launches (R275). R165, R273: `uret` from a guard handler resumes
bytecode at X21, with X23 other than 0 as if a `raise` of it stood there. The model's own: that the site's address stands in
X22 and what `callm` counts as arguments (log 51); that a loop over other than small integers and a malformed field raise
TYPE, and that `next` ends at a negative index (log 52); that `ret` restores the saved words unexamined, and that `uret` in the
supervisor is ILLEGAL_OP (log 53); and the count that `forprep` leaves where the difference is no small integer, which is
free (log 21). -/
def Obligations.BytecodeTransfers : Prop :=
  (∀ (s : State) (a b : BitVec 8) (off : BitVec 16) (w24 : BitVec 24) (v w y z : Word) (i l st : Int) (q q1 q2 q3 q4 q5 t : State),
     let p := s.advance 4
     let n := a.toNat
     let ends := fun (i : Instr) (t : State) => exec i s = .next (s.bcEnds t)
     let go := fun (q : State) => q.jumpTo (q.th.pc + off.signExtend 64 * 4)
     let falsy := v = 3 ∨ v = 0xB ∨ v = 0 ∨ v = 2 ∨ v = 0x8000000000000002
     let fits := intFits i = true ∧ intFits l = true ∧ intFits st = true
     s.bcClear = true →
       ends (.tJmp w24) (p.jumpTo (s.th.pc + 4 + w24.signExtend 64 * 4)) ∧
       (tF n p = .ok (v, q) → valueOk v = true →
         (falsy → ends (.tJf a off) (go q) ∧ ends (.tJt a off) q) ∧
         (¬falsy → ends (.tJt a off) (go q) ∧ ends (.tJf a off) q)) ∧
       (fits → tF n p = .ok (mkInt i, q) → tF (n + 1) q = .ok (mkInt l, q1) → tF (n + 2) q1 = .ok (mkInt st, q2) →
         (st ≠ 0 → intFits (i - st) = true → tSetF n (mkInt (i - st)) q2 = .ok ((), t) → ends (.tForprep a off) (go t)) ∧
         (st ≠ 0 → intFits (i - st) = false → ∃ y : Word, ∀ t, tagOf y = 0 ∧ (tSetF n y q2 = .ok ((), t) →
           ends (.tForprep a off) (go t))) ∧
         (st = 0 → exec (.tForprep a off) s = .next (s.spent.raise s.cur (.of .type 0) true)) ∧
         (intFits (i + st) = false → ends (.tForloop a off) q2) ∧
         (intFits (i + st) = true → tSetF n (mkInt (i + st)) q2 = .ok ((), q3) →
           (¬((0 < st ∧ i + st ≤ l) ∨ (st < 0 ∧ l ≤ i + st)) → ends (.tForloop a off) q3) ∧
           ((0 < st ∧ i + st ≤ l) ∨ (st < 0 ∧ l ≤ i + st) → tSetF (n + 3) (mkInt (i + st)) q3 = .ok ((), t) →
             ends (.tForloop a off) (go t)))) ∧
       (tF b.toNat p = .ok (v, q) → tTouch 0 v q = .ok ((), q1) → tKind v q1 = .ok (some 2, q2) →
         tSetF n v q2 = .ok ((), q3) → tSetF (n + 1) 0 q3 = .ok ((), t) → ends (.tIter a b) t) ∧
       (tF n p = .ok (v, q) → tKind v q = .ok (some 2, q1) → tF (n + 1) q1 = .ok (mkInt i, q2) → intFits i = true →
         tRead (v + 15) 8 q2 = .ok (w, q3) →
         (i < 0 ∨ w.toNat ≤ i → ends (.tNext a off) (go q3)) ∧
         (0 ≤ i → i < w.toNat → tRead (v + 31) 8 q3 = .ok (y, q4) → tRead (y + mkInt i) 8 q4 = .ok (z, q5) →
           ∀ q6, tSetF (n + 2) z q5 = .ok ((), q6) → tSetF (n + 1) (mkInt (i + 1)) q6 = .ok ((), t) → ends (.tNext a off) t)) ∧
       (s.th.xPoison.contains 27 = false → tF n p = .ok (v, q) → tWrite (s.xr 27 + 16) 8 v .ordered q = .ok ((), t) →
         ends (.tHalt a) (t.endThread t.cur false))) ∧
  (∀ (s q q1 q2 q3 q4 q5 : State) (fn target site w code e v : Word) (a : BitVec 8) (b : Nat) (args rest : List Word)
     (r : List Byte) (k : Nat),
     let clean := fun (x : State) (r : Nat) => x.th.xPoison.contains r = false
     let nf := if bits w 15 8 = 0 then 256 else bits w 15 8
     let new := s.xr 28 + word (8 * (a.toNat + 3))
     let beyond := (q.xr 30).toNat < new.toNat + 8 * nf
     let slot := s.spillAt s.th.spilled
     (s.th.link.length < 8 → tPush e s = .ok ((), s.setTh { s.th with link := e :: s.th.link })) ∧
     (8 ≤ s.th.link.length →
       (s.myCtx.spillLimit < 8 * (s.th.spilled + 1) → tPush e s = .error (.trap (.of .linkOvf slot))) ∧
       (8 * (s.th.spilled + 1) ≤ s.myCtx.spillLimit → tWrite slot 8 (s.th.link.getLastD 0) .plain s = .ok ((), q) →
         tPush e s = .ok ((), q.setTh { q.th with link := e :: q.th.link.dropLast, spilled := q.th.spilled + 1 }))) ∧
     (s.th.link = e :: rest → tPop s = .ok (e, s.setTh { s.th with link := rest })) ∧
     (s.th.link = [] → s.th.spilled = 0 → tPop s = .error (.trap (.of .linkUnf 0))) ∧
     (s.th.link = [] → 0 < s.th.spilled → tRead (s.spillAt (s.th.spilled - 1)) 8 s = .ok (e, q) →
       tPop s = .ok (e, q.setTh { q.th with spilled := q.th.spilled - 1 })) ∧
     (clean s 28 → tRead (fn + 48) 8 s = .ok (w, q) → clean q 30 →
       (beyond → tEnter fn a.toNat b site s = .error (.guard 6 0 site)) ∧
       (¬beyond → b ≠ bits w 7 0 → tEnter fn a.toNat b site s = .error (.guard 5 0 site)) ∧
       (¬beyond → b = bits w 7 0 → tRead (fn + 16) 8 q = .ok (code, q1) → clean q1 29 →
         tSetF (a.toNat + 1) (s.xr 28 <<< 3) q1 = .ok ((), q2) → tSetF (a.toNat + 2) (q1.xr 29 <<< 3) q2 = .ok ((), q3) →
         tEach (fun i => tWrite (new + word (8 * (b + i))) 8 3) (List.range (nf - b)) q3 = .ok ((), q4) →
         tPush ((q4.th.pc &&& ~~~3) ||| 1) q4 = .ok ((), q5) →
         tEnter fn a.toNat b site s = .ok ((), State.jumpTo (q5.setTh ((q5.th.setX 28 new).setX 29 fn)) code))) ∧
     (args.length ≤ 4 → tPush ((s.th.pc &&& ~~~3) ||| 1) s = .ok ((), q) → clean q 28 →
       ∃ t : State, tNativeCall a target args s = .ok ((), t) ∧ t.th.tephra = false ∧
         t.th.pc = target ∧ t.th.link = q.th.link ∧ t.mem = q.mem ∧ t.th.getX 1 = q.xr 28 + word (8 * a.toNat) ∧
         t.th.getX 6 = word args.length ∧ ∀ i, i < args.length → t.th.getX (2 + i) = args.getD i 0) ∧
     (bits (dword r 0) 7 6 = 0 → tCallAct a b r args site s = tEnter (dword r 6 - 1) a.toNat b site s) ∧
     (bits (dword r 0) 7 6 = 1 → tCallAct a b r args site s = tNativeCall a (dword r 6) args s) ∧
     (bits (dword r 0) 7 6 = 2 → tCallAct a b r args site s = tFast a (dword r 6) args site s) ∧
     (valueOk v = true → tagOf v ≠ 1 → tClass v s = .ok (if tagOf v = 0 then 0x8000000000000000
       else if tagOf v = 2 then 0x8000000000000001 else 0x8000000000000002, s)) ∧
     (tKind v s = .ok (some k, q) → (k = 1 → tClass v s = tRead (v + 15) 8 q) ∧
       (k ≠ 1 → tRead (v - 1) 8 q = .ok (w, q1) → tClass v s = .ok (0xC000000000000000 + word (bits w 63 32), q1)))) ∧
  (∀ (s : State) (h : Hdr) (kind : BitVec 2) (a b c : BitVec 8) (ic : BitVec 16) (f v fb fn e site x : Word)
     (args cls : List Word) (r : Word × List Byte) (k : Option Nat) (tr : Trap) (q q1 q2 q3 q4 q5 q6 q7 t : State),
     let p := s.advance 8
     let o := s.advance 4
     let ends := fun (i : Instr) (t : State) => exec i s = .next (s.bcEnds t)
     let guards := fun (i : Instr) => exec i s = .next (s.spent.guardEnter s.th.pc 5 0 site)
     let u := s.past
     let z := (u.burst 0).uretMode
     let resumed := u.setTh { u.th with guard := false, tephra := true, pc := s.xr 21, buf := [] }
     let argsOf := fun (n : Nat) => tAll (fun i => tF (a.toNat + 3 + i)) (List.range n)
     let hits := fun (x : Word) (cls : List Word) (e : List Byte) =>
       bits (dword e 0) 15 12 == b.toNat && dword e 1 == x && icKeys e cls
     (s.bcClear = true →
       (tF a.toNat p = .ok (f, q) → tSite ic q = .ok (site, q1) → tKind f q1 = .ok (k, q2) →
         (k = some 4 → argsOf b.toNat q2 = .ok (args, q3) → tEach (tTouch site) args q3 = .ok ((), q4) →
           tEnter (f - 1) a.toNat b.toNat site q4 = .ok ((), t) → ends (.tCall a b ic) t) ∧
         (k = some 9 → b.toNat ≤ 4 → argsOf b.toNat q2 = .ok (args, q3) → tEach (tTouch site) args q3 = .ok ((), q4) →
           tAll tClass args q4 = .ok (cls, q5) → tLookup ic 2 (hits f cls) q5 = .ok (r, q6) →
           tCallAct a b.toNat r.2 args site q6 = .ok ((), t) → ends (.tCall a b ic) t) ∧
         (k ≠ some 4 → ¬(k = some 9 ∧ b.toNat ≤ 4) → guards (.tCall a b ic))) ∧
       (tSite ic p = .ok (site, q) →
         (b.toNat ≤ 4 → tF (a.toNat + 3) q = .ok (f, q1) → argsOf b.toNat q1 = .ok (args, q2) →
           tTouch site f q2 = .ok ((), q3) → tEach (tTouch site) args q3 = .ok ((), q4) → tClass f q4 = .ok (x, q5) →
           tAll tClass args q5 = .ok (cls, q6) → tLookup ic 2 (hits x cls) q6 = .ok (r, q7) →
           tCallAct a b.toNat r.2 args site q7 = .ok ((), t) → ends (.tCallm a b c ic) t) ∧
         (4 < b.toNat → guards (.tCallm a b c ic))) ∧
       (c.toNat ≤ 4 → tK b.toNat o = .ok (f, q) → tagOf f = 0 →
         tAll (fun i => tF (a.toNat + 1 + i)) (List.range c.toNat) q = .ok (args, q1) →
         tNativeCall a (f.sshiftRight 3) args q1 = .ok ((), t) → ends (.tNative a b c) t) ∧
       (4 < c.toNat → exec (.tNative a b c) s = .next (s.spent.raise s.cur (.of .type (c.setWidth 64)) true)) ∧
       (s.th.xPoison.contains 28 = false → tF a.toNat o = .ok (v, q) → tRead (s.xr 28 - 16) 8 q = .ok (fb, q1) →
         tRead (s.xr 28 - 8) 8 q1 = .ok (fn, q2) → tPop q2 = .ok (e, q3) → tWrite (s.xr 28 - 24) 8 v .plain q3 = .ok ((), q4) →
         let y := (q4.setTh (q4.th.setX 28 (fb.sshiftRight 3)))
         let z := y.setTh (y.th.setX 29 (fn.sshiftRight 3))
         (e.getLsbD 0 = true → ends (.tRet a) (z.jumpTo (e &&& ~~~3))) ∧
         (e.getLsbD 0 = false →
           ends (.tRet a) (z.setTh { z.th with tephra := false, pc := e &&& ~~~3, buf := [] })))) ∧
     (s.th.cc = true → s.th.guard = true → s.th.sup = false →
       (s.xr 23 = 0 → Completes (.uret h kind) s resumed) ∧
       (s.xr 23 ≠ 0 → s.drained s.cur = true → tRaise (s.xr 23) z = .ok ((), t) → Completes (.uret h kind) s t.spent) ∧
       (s.xr 23 ≠ 0 → s.drained s.cur = true → s.th.trace = [] → tRaise (s.xr 23) z = .error (.trap tr) →
         Completes (.uret h kind) s (resumed.raise s.cur tr true)) ∧
       (s.xr 23 ≠ 0 → s.drained s.cur = true → s.th.trace = [] → s.xr 31 = 0 → s.th.xPoison.contains 31 = false →
         Completes (.uret h kind) s (resumed.guardEnter (s.xr 21) 8 (s.xr 23) 0))) ∧
     (¬(s.th.cc = true ∧ s.th.guard = true ∧ s.th.sup = false) → s.clear (.uret h kind) = true →
       exec (.uret h kind) s = .next (s.trapNow (.of .illegalOp (Instr.uret h kind).word))))

/-- R279: an allocation takes its bytes, rounded up to 64, from the arena's CUR in one atomic operation; without an arena,
or when they would end beyond LIMIT, it enters the guard path with reason 4 and leaves CUR as it was; a new object's GC bits
are 2 while MARKING is set. R289: `mkarr`, `mkmap` and `mkfunc` allocate an object, write its header and words and put its
value into the frame register; `import` enters the guard path with reason 5. The model's own: AUX of reason 4 is the size
after rounding up (log 51); a new object's words that no rule names hold free values, and the first store into a slot of one
releases no old value (log 54); `mkmap` and `mkfunc` raise TYPE on a malformed field or template (log 52). -/
def Obligations.BytecodeObjects : Prop :=
  (∀ (s q q1 q2 q3 : State) (n : Nat) (site ar lim cur : Word) (m : Bool),
    let len := (n + 63) / 64 * 64
    (tArena s = .ok (0, q) → tAlloc n site s = .error (.guard 4 (word len) site)) ∧
    (tArena s = .ok (ar, q) → ar ≠ 0 → tRead (ar + 8) 8 q = .ok (lim, q1) →
      tAtom ar 18 (word len) lim .ordered q1 = .ok (cur, q2) →
      (lim.toNat < cur.toNat + len → tAlloc n site s = .error (.guard 4 (word len) site)) ∧
      (cur.toNat + len ≤ lim.toNat → tFill cur (len / 8) q2 = .ok ((), q3) → tAlloc n site s = .ok (cur, q3))) ∧
    atomNew 18 cur (word len) lim =
      (if cur.toNat + (word len).toNat ≤ lim.toNat then cur + word len else cur) ∧
    (tMarking s = .ok (m, q) → tGc s = .ok (if m then 2 else 0, q))) ∧
  ∀ (s : State) (a b c : BitVec 8) (f v o gc : Word) (vs ws : List Word) (q q1 q2 q3 q4 q5 q6 q7 q8 t : State),
    let p := s.advance 4
    let ends := fun (i : Instr) (t : State) => exec i s = .next (s.bcEnds t)
    let put := fun (m : Nat) (v : Word) (q t : State) => tWrite (o + word m) 8 v .plain q = .ok ((), t)
    s.bcClear = true →
      (tAll (fun i => tF (b.toNat + i)) (List.range c.toNat) p = .ok (vs, q) →
        tAlloc (48 + 8 * c.toNat) 0 q = .ok (o, q1) → tWrite o 4 2 .plain q1 = .ok ((), q2) → tGc q2 = .ok (gc, q3) →
        put 8 gc q3 q4 → put 16 (c.setWidth 64) q4 q5 → put 24 (c.setWidth 64) q5 q6 → put 32 (o + 48) q6 q7 →
        tEach (fun i => tFirstStore (o + word (48 + 8 * i)) o (vs.getD i 0)) (List.range c.toNat) q7 = .ok ((), q8) →
        tSetF a.toNat (o + 1) q8 = .ok ((), t) → ends (.tMkarr a b c) t) ∧
      (b.toNat ≤ 12 → tAlloc (64 + 16 * 2 ^ b.toNat) 0 p = .ok (o, q1) → tWrite o 4 3 .plain q1 = .ok ((), q2) →
        tGc q2 = .ok (gc, q3) → put 8 gc q3 q4 → put 16 0 q4 q5 → put 24 (word (2 ^ b.toNat)) q5 q6 →
        put 32 (o + 64) q6 q7 →
        tEach (fun i => tFirstStore (o + word (64 + 8 * i)) o 3) (List.range (2 * 2 ^ b.toNat)) q7 = .ok ((), q8) →
        tSetF a.toNat (o + 1) q8 = .ok ((), t) → ends (.tMkmap a b) t) ∧
      (12 < b.toNat → exec (.tMkmap a b) s = .next (s.spent.raise s.cur (.of .type (b.setWidth 64)) true)) ∧
      (tK b.toNat p = .ok (f, q) → tF c.toNat q = .ok (v, q1) → tKind f q1 = .ok (some 4, q2) →
        tAll (fun i => tRead (f - 1 + word (8 * i)) 8) (List.range 7) q2 = .ok (ws, q3) → tAlloc 64 0 q3 = .ok (o, q4) →
        tEach (fun i => tWrite (o + word (8 * i)) 8 (ws.getD i 0)) (List.range 7) q4 = .ok ((), q5) →
        tFirstStore (o + 56) o v q5 = .ok ((), q6) → tSetF a.toNat (o + 1) q6 = .ok ((), t) → ends (.tMkfunc a b c) t) ∧
      exec (.tImport a b) s = .next (s.spent.guardEnter s.th.pc 5 0 0)

/-- R268, R272, R277, R278, R290: `tryb` stores a handler block in five frame registers and makes X31 name it, `tryend`
takes it away, `raise` unwinds to the block that X31 names, with its value at f(0) of the block, the link store as deep as
the block says, and X28, X29 and X31 those of the block, or without one enters the guard path with reason 8; `await` goes
on with a value that is settled, which a tensor is once PENDING is 0, else it parks, and that has not failed. Guard entry
sets X19 to X23, leaves Tephra and continues at GHVEC, or raises GUARD when that is zero. The model's own: `raise` restores
the words of a record unexamined (log 53), and a negative depth in it raises TYPE like one above the present depth (log 91);
what X22 and X23 hold on guard entry (log 51). -/
def Obligations.ExceptionsAndGuard : Prop :=
  (∀ (s q q1 q2 q3 q4 q5 q6 : State) (v h fb fn prev d pend use : Word) (k : Option Nat) (inuse : Bool),
    let r := s.xr 31
    let now := q5.th.link.length + q5.th.spilled
    let deep := (d.sshiftRight 3).toInt
    let drop := now - deep.toNat
    (s.th.xPoison.contains 31 = false → r = 0 → tRaise v s = .error (.guard 8 v 0)) ∧
    (s.th.xPoison.contains 31 = false → r ≠ 0 → tRead r 8 s = .ok (h, q1) → tRead (r + 8) 8 q1 = .ok (fb, q2) →
      tRead (r + 16) 8 q2 = .ok (fn, q3) → tRead (r + 24) 8 q3 = .ok (prev, q4) → tRead (r + 32) 8 q4 = .ok (d, q5) →
      (now < deep ∨ deep < 0 → tRaise v s = .error (.trap (.of .type d))) ∧
      (0 ≤ deep → deep ≤ now → tWrite r 8 v .plain q5 = .ok ((), q6) → ∃ t : State, tRaise v s = .ok ((), t) ∧
        t.th.pc = h.sshiftRight 3 ∧ t.xr 28 = fb.sshiftRight 3 ∧ t.xr 29 = fn.sshiftRight 3 ∧ t.xr 31 = prev.sshiftRight 3 ∧
        t.th.link = q6.th.link.drop drop ∧ t.th.spilled = q6.th.spilled - (drop - q6.th.link.length) ∧ t.mem = q6.mem)) ∧
    (tKind v s = .ok (k, q) → k ≠ some 1 → tSettle inuse v s = .ok ((), q)) ∧
    (tKind v s = .ok (some 1, q) → tRead (v + 111) 8 q = .ok (pend, q1) →
      (pend = 0 → tSettle false v s = .ok ((), q1)) ∧
      (pend ≠ 0 → tSettle false v s = .error (.park (.tensor (v + 111) false))) ∧
      (tRead (v + 119) 8 q1 = .ok (use, q2) →
        (pend = 0 → use = 0 → tSettle true v s = .ok ((), q2)) ∧
        (pend ≠ 0 ∨ use ≠ 0 → tSettle true v s = .error (.park (.tensor (v + 111) true)))))) ∧
  (∀ (s : State) (a : BitVec 8) (off : BitVec 16) (v : Word) (q q1 q2 q3 q4 t : State),
    let p := s.advance 4
    let n := a.toNat
    let ends := fun (i : Instr) (t : State) => exec i s = .next (s.bcEnds t)
    let clean := fun (r : Nat) => s.th.xPoison.contains r = false
    let x31 := fun (q : State) (v : Word) => q.setTh (q.th.setX 31 v)
    s.bcClear = true →
      (clean 28 → clean 29 → clean 31 → tSetF n ((s.th.pc + 4 + off.signExtend 64 * 4) <<< 3) p = .ok ((), q) →
        tSetF (n + 1) (s.xr 28 <<< 3) q = .ok ((), q1) → tSetF (n + 2) (s.xr 29 <<< 3) q1 = .ok ((), q2) →
        tSetF (n + 3) (s.xr 31 <<< 3) q2 = .ok ((), q3) →
        tSetF (n + 4) (mkInt (s.th.link.length + s.th.spilled)) q3 = .ok ((), q4) →
        ends (.tTryb a off) (x31 q4 (s.xr 28 + word (8 * n)))) ∧
      (clean 28 → clean 31 → s.xr 31 = s.xr 28 + word (8 * n) → tF (n + 3) p = .ok (v, q) →
        ends (.tTryend a) (x31 q (v.sshiftRight 3))) ∧
      (clean 28 → clean 31 → s.xr 31 ≠ s.xr 28 + word (8 * n) →
        exec (.tTryend a) s = .next (s.spent.raise s.cur (.of .type (s.xr 31)) true)) ∧
      (tF n p = .ok (v, q) → tRaise v q = .ok ((), t) → ends (.tRaise a) t) ∧
      (clean 31 → s.xr 31 = 0 → tF n p = .ok (v, q) → q.threads = p.threads → q.cur = p.cur →
        exec (.tRaise a) s = .next (s.spent.guardEnter s.th.pc 8 v 0)) ∧
      (tF n p = .ok (v, q) → tSettle false v q = .ok ((), q1) → tTouch 0 v q1 = .ok ((), t) → ends (.tAwait a) t) ∧
      (∀ w, tF n p = .ok (v, q) → tSettle false v q = .error (.park (.tensor w false)) →
        exec (.tAwait a) s = .next (s.spent.parkAt s.th.pc (.tensor w false)))) ∧
  ∀ (s : State) (pc aux site : Word) (reason : Nat), has s.threads s.cur = true →
    let g := s.myCtx.ghvec &&& ~~~7
    let q := s.guardEnter pc reason aux site
    (g = 0 → q = State.raise (s.setTh { s.th with pc := pc }) s.cur (.of .guard pc) true) ∧
    (g ≠ 0 → q.th.pc = g ∧ q.th.tephra = false ∧ q.th.guard = true ∧ q.th.getX 19 = aux ∧ q.th.getX 20 = word reason ∧
      q.th.getX 21 = pc ∧ q.th.getX 22 = site ∧ q.th.getX 23 = 0 ∧ q.mem = s.mem ∧
      ∀ r, r ≠ 0 → r < 19 ∨ 23 < r → q.th.getX r = s.th.getX r)

/-! ### Events -/

/-- R22, R26, R34, R219, R222, R236, R277, R336, R359: what happens to threads by itself, each when it can: a result
that may return returns, a trap whose drain is over is taken, a sleeper whose target has passed receives NOW, a bytecode
that waited for a tensor restarts, a thread lands after its move, a saved thread is placed, a message moves into a
mailbox, a reservation ends. An event that cannot happen changes nothing. -/
def Obligations.ThreadEvents : Prop :=
  ∀ (s : State) (t o c n u : Nat) (r : Outst) (tr : Trap) (prec : Bool) (m : Nat × Word × Word),
    let ends := fun (i : Instr) (q : State) => exec i s = .next q
    let woke := fun (h : Thread) => { h with
      outst := modFirst (Outst.slept s.now) (fun o => { o with need := 0, fin := .done [.reg o.dreg s.now] }) h.outst }
    (s.canReturn t o = true → (s.thread t).outst.find? (fun r => r.id == o) = some r →
      ends (.longResultReturn t o) (s.returnResult t r)) ∧
    (s.canReturn t o = false → ends (.longResultReturn t o) s) ∧
    (has s.threads t = true → s.drained t = true → (s.thread t).park = .trap tr prec →
      ends (.trapEntry t) (s.takeTrap t tr prec (s.thread t).pc)) ∧
    (s.drained t = false → ends (.trapEntry t) s) ∧
    (has s.threads t = true → r ∈ (s.thread t).outst → (∃ v, r.fin = .sleep v ∧ 0 ≤ (s.now - v).toInt) →
      ends (.sleepWake t) (s.onThread t woke)) ∧
    ((∀ r ∈ (s.thread t).outst, ∀ v, r.fin = .sleep v → (s.now - v).toInt < 0) → ends (.sleepWake t) s) ∧
    (s.canTensorWake t = true → ends (.tensorPendingWake t) (s.onThread t fun h => { h with park := .run })) ∧
    (s.canTensorWake t = false → ends (.tensorPendingWake t) s) ∧
    (has s.threads t = true → (s.thread t).place = .moving c → ends (.migrationArrival t) (s.land t)) ∧
    (s.placeFor t = some c → ends (.restoredThreadPlacement t) (s.enqueue t c)) ∧
    (s.placeFor t = none → s.canTakeSlot t = true → ends (.restoredThreadPlacement t)
      (s.take (s.thread t).asid (s.thread t).cc (s.thread t).core (s.thread t).slot (.thread t))) ∧
    (s.inboxTo c n = some (u, m) → ends (.inboxToMailbox c n) ((s.onCtx c fun x =>
      { x with inbox := x.inbox.eraseIdx n }).onThread u fun h => { h with mail := h.mail ++ [m.2] })) ∧
    (s.inboxTo c n = none → ends (.inboxToMailbox c n) s) ∧
    ((∃ x ∈ s.resv, x.owner = .thread t ∧ 4096 ≤ x.age) → ends (.reservationExpiry t) (s.endResv (.thread t))) ∧
    ((∀ x ∈ s.resv, x.owner = .thread t → x.age < 4096) → ends (.reservationExpiry t) s)

/-- R112, R106, R276, R387: accesses at their homes. One that may be performed leaves the accesses under way and acts; a
CXL access completes before its time is over, and gives LONG_LAT at its address afterwards. Uncorrectable data poisons
its 16-byte unit of memory and changes no byte. The completion of a fast-path launch is processed once it has completed.
-/
def Obligations.AccessEvents : Prop :=
  ∀ (s : State) (k pa u : Nat) (a : Acc),
    let ends := fun (i : Instr) (q : State) => exec i s = .next q
    let find := s.accs.find? fun a => a.id == k
    (find = some a → a.isCxl = false → s.mayPerform a = true →
      (∀ c bs leaf bad nib, a.op = .deposit c bs leaf bad nib → s.mayDeposit a c = true) →
      ends (.homeAccessPerformed k) (s.performNow a)) ∧
    (find = some a → (a.isCxl = true ∨ s.mayPerform a = false) → ends (.homeAccessPerformed k) s) ∧
    (find = none → ends (.homeAccessPerformed k) s ∧ ends (.cxlAccessComplete k) s ∧ ends (.longLat k) s) ∧
    (find = some a → a.isCxl = true → s.mayPerform a = true → s.timedOut a = false →
      ends (.cxlAccessComplete k) (s.performNow a)) ∧
    (find = some a → s.timedOut a = true → a.owner = .thread u →
      ends (.longLat k) (State.longLatAt { s with free := s.free + 1 } a u) ∧ ends (.cxlAccessComplete k) s) ∧
    (find = some a → s.timedOut a = false → ends (.longLat k) s) ∧
    (s.canFastComplete k = true → ends (.fastPathCompletion k) (s.fastComplete k)) ∧
    (s.canFastComplete k = false → ends (.fastPathCompletion k) s) ∧
    (s.kindOf pa = some .hbm ∨ s.kindOf pa = some .scratch → ∃ q : State, ends (.uncorrectableMemoryData pa) q ∧
      pa / 16 ∈ q.poisoned ∧ q.mem = s.mem ∧ q.threads = s.threads ∧ ∀ x, x ≠ pa / 16 → (x ∈ q.poisoned ↔ x ∈ s.poisoned))

/-- R88, R204, R241, R242, R247, R249, R252, R362, R397 to R400, R407: the matrix unit, launches, neighbour-paced cores,
event queues and counters, each event when it can happen. A message along an edge acts on that edge alone, and only in the
memberships of both ends in which it was sent; it is dropped otherwise. The launch that the unit takes next is found with one
rotation over all classes (log 47), and a wait's watchdog runs from the time at which its thread parked (log 61): both are the
model's choices. -/
def Obligations.UnitEvents : Prop :=
  ∀ (s : State) (core tile k l c n t : Nat) (j : TileJob) (js : List TileJob) (a : Nat) (hd w v : Word) (q : Option Nat)
    (x : Bool × Nat × Nat) (m : Nat) (b : BeaconMsg) (pa : Nat) (h : Home) (e : Event) (es : List Event) (g : Count)
    (wd : Nat) (out : Option Nat) (adr : Nat),
    let ends := fun (i : Instr) (q : State) => exec i s = .next q
    let z := s.unbeacon k
    let nb := (s.core b.dst).nb
    let named := fun (core epoch : Nat) => core = b.src ∧ epoch = b.srcEpoch
    let listed := nb.active = true ∧ nb.epoch = b.dstEpoch ∧
      (b.edge % 2 = 0 → ∃ e, nb.preds[b.edge / 2]? = some e ∧ named e.core e.epoch) ∧
      (b.edge % 2 = 1 → ∃ e, nb.succs[b.edge / 2]? = some e ∧ named e.core e.epoch)
    let edge := fun (f : Pred → Pred) (g : Succ → Succ) => z.onStep b.dst fun n =>
      if b.edge % 2 = 0 then { n with preds := n.preds.modify (b.edge / 2) f }
      else { n with succs := n.succs.modify (b.edge / 2) g }
    let unpaired := s.onCore (s.thread t).core fun k => match k.nb.pairing with
      | some p => if p.1 = t then { k with nb := { k.nb with pairing := none } } else k
      | none => k
    let counted := { s with counts := s.counts.filter fun x => x.id != k }
    ((s.core core).jobs = j :: js → s.canAccumulate core = true → ends (.mmaAccumulation core)
      (State.runJobs core js.length ((s.onCore core fun c => { c with jobs := js }).doJob core j))) ∧
    (s.canReadout core tile = true → ends (.mdrainReadout core tile) (s.readout core tile)) ∧
    (s.nextLaunch = some (a, hd, q) → launchKey a hd = l → ends (.launchAdmit l) (State.takeRecord
      (State.onCtx { s with rotation := a + 1 } a fun c => { c with
        rotation := match q with
          | some q => (q + 1) % 16
          | none => c.rotation }) a hd none)) ∧
    (s.leafPlace c l n = some x → ends (.leafStart c l n) (s.take c x.1 x.2.1 x.2.2 (.leaf (word l) n))) ∧
    (s.repartMode core l = some m → ends (.launchRepartition core l) (s.repartition (l % 4096) core m).1) ∧
    (s.canAdvance core = true → ends (.stepAdvance core) (s.advanceStep core)) ∧
    (s.canAdvance core = false → ends (.stepAdvance core) s) ∧
    (s.beaconAt k = some b →
      (listed →
        (b.msg = .done v → ends (.beaconArrival k) (edge (fun e => { e with pd := v }) (fun e => { e with sd := v }))) ∧
        (b.msg = .leaving →
          ends (.leavingBeaconArrival k) (edge (fun e => { e with left := true }) (fun e => { e with left := true }))) ∧
        (b.msg = .cut w pa h v → ends (.cutMarkerArrival k) (z.receiveCut b.dst w pa h v)) ∧
        (b.msg = .release pa → ends (.releaseMarkerArrival k)
          (if nb.cutPend = true ∧ nb.cutPa = pa then z.releaseCut b.dst else z))) ∧
      (¬listed →
        (b.msg = .done v → ends (.beaconArrival k) z) ∧ (b.msg = .leaving → ends (.leavingBeaconArrival k) z) ∧
        (b.msg = .cut w pa h v → ends (.cutMarkerArrival k) z) ∧ (b.msg = .release pa → ends (.releaseMarkerArrival k) z))) ∧
    (s.beaconAt k = none → ends (.beaconArrival k) s ∧ ends (.leavingBeaconArrival k) s ∧ ends (.cutMarkerArrival k) s ∧
      ends (.releaseMarkerArrival k) s) ∧
    (s.canHold core = true → (s.core core).nb.cutHome = some h → ends (.cutHold core)
      ((s.onStep core fun n => { n with cutHeld := true }).addCounter core (s.core core).nb.cutPa h 1)) ∧
    (s.mayPair core = true → ends (.stepcfgPairing core) (s.pair core)) ∧
    (has s.threads t = true → s.stallOf t = some (wd, out, adr) → wd ≠ 0 →
      2 ^ (wd + 10) ≤ (s.now - (s.thread t).parkedAt).toNat →
      ends (.stepStall t) ((unpaired.onThread t (·.abandon out)).raise t (.of .stepStall (word adr)) false)) ∧
    (s.canPostHeld c = true → (s.ctx c).heldEvents = e :: es →
      ends (.heldEventPost c) ((s.onCtx c fun x => { x with heldEvents := es }).writeEvent c e)) ∧
    (s.counts.find? (fun x => x.id == k) = some g → has s.ctxs g.asid = true → ends (.counterEventDelivery k)
      (State.onCtx counted g.asid fun x =>
        if x.state = .stopped then { x with pcntSaved := addCounts x.psel x.pcntSaved g.code g.n }
        else { x with pcnt := addCounts x.psel x.pcnt g.code g.n }))

/-- R126, R127, R228, R229, R234, R320 to R322, R412: the engines and the service threads. A command that stands first,
whose thread's earlier accesses have been performed and that finds a place (a work request within NWR, a message at its
target) is accepted; one whose payload has been written completes; a region flips when no earlier command may still write to
it. A packet's payload is read before it is sent; packets are received, acknowledged, repeated and refused; a reply of the
service ends its call. -/
def Obligations.EngineEvents : Prop :=
  ∀ (s : State) (k n psn st : Nat) (c : Cmd) (r : Nat) (d : Opnd) (wr : WorkReq) (p : Pkt) (f : InFlight) (ca : Call)
    (re : Reply),
    let ends := fun (i : Instr) (q : State) => exec i s = .next q
    let z := s.received k
    let z' := State.received { s with free := s.free + 1 } k
    (s.cmd? k = some c →
      (c.accepted = false → s.firstQueued c = true → s.allDone c.earlier = true → s.nwrRoom c = true → s.mailRoom c = true →
        s.walksFree c = true → (s.thread c.uid).overLimit c.out = false → ends (.engineCommandAccept k) (s.accept c)) ∧
      (c.accepted = true → ends (.engineCommandAccept k) s) ∧
      (c.accepted = true → s.cmdDone c = true → s.inOrder c = true →
        ends (.engineOperationComplete k) (s.complete c)) ∧
      (c.accepted = false → ends (.engineOperationComplete k) s) ∧
      (s.canFlip k = true → c.kind = .publish r d → ends (.publishFlip k) (s.flip c r d)) ∧
      (s.canFlip k = false → ends (.publishFlip k) s)) ∧
    (s.sendable[k]? = some (wr, p) →
      let reads := packetReads (s.sourceOf wr).2.1 (s.sourceOf wr).2.2.1 p.index
      (p.reading = true ∨ reads = [] → ends (.geyserPacketSend k) (s.transmit wr p)) ∧
      (p.reading = false → reads ≠ [] → ends (.geyserPacketSend k) (s.readPacket wr p))) ∧
    (s.sendable[k]? = none → ends (.geyserPacketSend k) s) ∧
    (s.inbound k = some f →
      (∀ (mseq index count len op : Nat) (tag : Word) (win : Nat) (last : Bool) (payload : List Byte) (bad : List (Nat × Nat)),
        f.msg = .packet n psn mseq index count len op tag win last payload bad → s.canReceive k = true →
        ends (.geyserPacketArrival k)
          (z'.arrivePacket n psn mseq index count len op tag win last payload bad).settlePlacing) ∧
      (f.msg = .ack n psn → ends (.geyserAckArrival k) (z.acknowledge n psn)) ∧
      (f.msg = .refuse n psn st → ends (.geyserRefusal k) (z.refused n psn st))) ∧
    (s.overdue[k]? = some (n, psn) →
      ends (.geyserRetransmitTimeout k) (s.onPkt n psn fun p => { p with again := true })) ∧
    ((s.conn n).isOpen = true → ends (.geyserConnectionFailure n) (s.closeConn n 6)) ∧
    ((s.conn n).isOpen = false → ends (.geyserConnectionFailure n) s) ∧
    (s.calls.find? (fun c => c.id == k) = some ca → ends (.serviceReply k re) (s.replyTo ca re)) ∧
    (s.calls.find? (fun c => c.id == k) = none → ends (.serviceReply k re) s)

/-- R59, R62, R240, R326, R328, R334, R335, R340, R407, R413: a register write as a step of its own, of a thread that
may make it, writes what `mtcr` writes; one of a register of another privilege takes PRIV, one that no register has
ILLEGAL_OP. R364, R413 to R424: what the host, the links, power, time and the boot do: a boot whose record does not verify
or whose links and memory do not train stops after its key pair, and a cooling failure stops every context, saves the
threads as they drain and then signals the host. The model's own: a register write acts for the thread of `State.cur`, and
the TADDR of the trap that it takes is free (log 64); at 500 MHz a power limit changes nothing, and a cooling failure is
ignored above that clock (log 68); a boot keeps memory, retired frames and links (log 69, PRESUMED). -/
def Obligations.PlatformEvents : Prop :=
  ∀ (s : State) (n : BitVec 12) (b : BitVec 4) (v rec arg : Word) (off vf q a l ns : Nat) (kind : HostRequest)
    (who : Option Nat) (nonce : List Byte) (r : BootRecord),
    let ends := fun (i : Instr) (q : State) => exec i s = .next q
    let may := fun (n : BitVec 12) => crKnown n = true ∧ (1 ≤ crPriv n → s.th.sup = true) ∧ (2 ≤ crPriv n → s.th.asid = 0) ∧
      s.crWriteCheck n.toNat v (word (Config.freeNat s.free)) = none
    let wrote := fun (n : BitVec 12) => s.writeCr n.toNat v
    let lk := get (Link.new l) s.links l
    let z := s.stopAll
    let y := { s.afterReset with
      digest := digestOf r.image, cfgDigest := digestOf r.record, identity := identityKey }
    (has s.threads s.cur = true →
      (may n → ends (.registerWrite n v) (wrote n)) ∧
      ((1 ≤ crPriv n ∧ s.th.sup = false) ∨ (2 ≤ crPriv n ∧ s.th.asid ≠ 0) → ∃ w : Word, ends (.registerWrite n v)
        (State.raise { s with free := s.free + 1 } s.cur (.of .priv w) true)) ∧
      (crKnown n = false → (1 ≤ crPriv n → s.th.sup = true) → (2 ≤ crPriv n → s.th.asid = 0) → ∃ w : Word,
        ends (.registerWrite n v) (State.raise { s with free := s.free + 1 } s.cur (.of .illegalOp w) true)) ∧
      (may (0x050 + b.setWidth 12) → ends (.bfmtWrite b v) (wrote (0x050 + b.setWidth 12))) ∧
      (may 0x010 → ends (.stepCounterWrite 0x010 v) (wrote 0x010)) ∧
      (may 0x011 → ends (.stepCounterWrite 0x011 v) (wrote 0x011)) ∧
      (may 0x012 → ends (.depcfgWrite v) (wrote 0x012)) ∧
      (may 0x108 → ends (.delegWrite v) (wrote 0x108)) ∧
      (may (0x130 + b.setWidth 12) → ends (.pcntWrite b v) (wrote (0x130 + b.setWidth 12))) ∧
      (may 0x400 → ends (.salcfgWrite v) (wrote 0x400)) ∧
      (may 0x411 → ends (.vfctlWrite v) (wrote 0x411)) ∧
      (may 0x413 → ends (.cxlwinWrite v) (wrote 0x413))) ∧
    (off < Config.cores s.part * 0x8000 → off % 8 = 0 → ends (.csrWindowStore off v) (s.setCsr (csrBase + off) v)) ∧
    (s.boundTo vf = some a → s.hostLink = true → q < 16 → ends (.hostQueueWrite vf q rec arg) (s.hostLaunch a q rec arg)) ∧
    (s.boundTo vf = none → ends (.hostQueueWrite vf q rec arg) s ∧ ends (.functionLevelReset vf) s) ∧
    (s.boundTo vf = some a → s.flrWaits a = true → ends (.functionLevelReset vf) s) ∧
    (s.boundTo vf = some a → s.flrWaits a = false →
      let z := if s.resetting a then s else s.resetBegin a
      (z.resetOwes a = true → ends (.functionLevelReset vf) z) ∧
      (z.resetOwes a = false → ends (.functionLevelReset vf) (z.resetEnd 0 a false))) ∧
    (s.identity = [] → ends (.attestationRequest who nonce) s) ∧
    (s.identity ≠ [] → ∃ (t : State) (more : List Byte), ends (.attestationRequest who nonce) t ∧
      t.replies = (s.report (s.asker who) nonce ++ more) :: s.replies ∧ t.mem = s.mem) ∧
    ends (.unsupportedRequest kind) { s with unsupported := s.unsupported ++ [kind] } ∧
    (l < 27 → ends (.linkLaneFailure l) { s with links := put s.links l { lk with width := lk.width - 1 } }) ∧
    (500 < s.mhz → ends .powerLimit { s with pwrstat := word (max 500 (s.mhz - 50)) ||| 0x10000 } ∧ ends .coolingFailure s) ∧
    (s.mhz ≤ 500 → ends .powerLimit s ∧ (z.someResident = true → ends .coolingFailure z) ∧
      (z.someResident = false → (get Vf.new z.vfs hostMailbox).room = true → ∃ e : Event, e.kind = 3 ∧
        ends .coolingFailure (State.postMailbox { z with free := z.free + 1 } hostMailbox e)) ∧
      ∀ x, has s.ctxs x = true → (z.ctx x).state ≠ .running ∧ (z.ctx x).state ≠ .new) ∧
    (1000000 < ns → ends (.nowForwardStep ns) { s with now := s.now + word ns }) ∧
    (ns ≤ 1000000 → ends (.nowForwardStep ns) s) ∧
    ends (.bringUp r) (if Config.imageSigned r.image = false then { s.afterReset with bootFail := true }
      else if Config.recordSigned r.image r.record = true ∧ r.trained = true then y.bootWith r else y) ∧
    (y.bootWith r).hostUp = true ∧ (y.bootWith r).booted = true
end

