-- ==== Sys2Proof/Laws/State.lean ====
section
/-! SUPPORT. What each update of the state leaves of every field, and what the readers of threads, cores and contexts see
after it. -/

namespace Sys2Proof.Machine

/-! ### Maps -/

section Maps
variable {α : Type}

@[simp] theorem get_nil (d : α) (k : Nat) : get d [] k = d := rfl

@[simp] theorem get_put (d : α) (m : Sparse α) (k : Nat) (v : α) : get d (put m k v) k = v := by
  induction m with
  | nil => simp [put, get]
  | cons e r ih =>
    obtain ⟨j, u⟩ := e
    simp only [put]
    split
    · simp [get]
    · split
      · simp [get]
      · have h : j ≠ k := by omega
        simpa [get, h] using ih

theorem get_put_ne (d : α) (m : Sparse α) {k j : Nat} (v : α) (h : j ≠ k) : get d (put m k v) j = get d m j := by
  induction m with
  | nil => simp [put, get, Ne.symm h]
  | cons e r ih =>
    obtain ⟨i, u⟩ := e
    simp only [put]
    split
    · simp [get, Ne.symm h]
    · split
      · subst_vars
        simp [get, Ne.symm h]
      · simp only [get]
        split
        · rfl
        · exact ih

@[simp] theorem has_put (m : Sparse α) (k : Nat) (v : α) : has (put m k v) k = true := by
  induction m with
  | nil => simp [put, has]
  | cons e r ih =>
    obtain ⟨j, u⟩ := e
    simp only [put]
    split
    · simp [has]
    · split
      · simp [has]
      · have h : j ≠ k := by omega
        simpa [has, h] using ih

theorem has_put_ne (m : Sparse α) {k j : Nat} (v : α) (h : j ≠ k) : has (put m k v) j = has m j := by
  induction m with
  | nil => simp [put, has, Ne.symm h]
  | cons e r ih =>
    obtain ⟨i, u⟩ := e
    simp only [put]
    split
    · simp [has, Ne.symm h]
    · split
      · subst_vars
        simp [has, Ne.symm h]
      · simp only [has]
        split
        · rfl
        · exact ih

/-- Removing a key leaves the default at it. -/
@[simp] theorem get_del (d : α) (m : Sparse α) (k : Nat) : get d (del m k) k = d := by
  induction m with
  | nil => rfl
  | cons e r ih =>
    obtain ⟨j, u⟩ := e
    simp only [del]
    split
    · exact ih
    · next h => simpa [get, h] using ih

theorem get_del_ne (d : α) (m : Sparse α) {k j : Nat} (h : j ≠ k) : get d (del m k) j = get d m j := by
  induction m with
  | nil => rfl
  | cons e r ih =>
    obtain ⟨i, u⟩ := e
    simp only [del]
    split
    · subst_vars
      simp only [get, Ne.symm h, if_false]
      exact ih
    · simp only [get]
      split
      · rfl
      · exact ih

variable [DecidableEq α]

/-- A write to a key gives the value written. -/
@[simp] theorem get_set (d : α) (m : Sparse α) (k : Nat) (v : α) : get d (set d m k v) k = v := by
  unfold set
  split
  · next h => rw [get_del, h]
  · exact get_put d m k v

/-- A write leaves every other key alone. -/
theorem get_set_ne (d : α) (m : Sparse α) {k j : Nat} (v : α) (h : j ≠ k) : get d (set d m k v) j = get d m j := by
  unfold set
  split
  · exact get_del_ne d m h
  · exact get_put_ne d m v h

end Maps

/-! ### Fields after an update -/

@[simp] theorem setThread_part (s : State) (u : Nat) (t : Thread) : (s.setThread u t).part = s.part := rfl
@[simp] theorem setThread_mem (s : State) (u : Nat) (t : Thread) : (s.setThread u t).mem = s.mem := rfl
@[simp] theorem setThread_empty (s : State) (u : Nat) (t : Thread) : (s.setThread u t).empty = s.empty := rfl
@[simp] theorem setThread_poisoned (s : State) (u : Nat) (t : Thread) : (s.setThread u t).poisoned = s.poisoned := rfl
@[simp] theorem setThread_behind (s : State) (u : Nat) (t : Thread) : (s.setThread u t).behind = s.behind := rfl
@[simp] theorem setThread_cores (s : State) (u : Nat) (t : Thread) : (s.setThread u t).cores = s.cores := rfl
@[simp] theorem setThread_ctxs (s : State) (u : Nat) (t : Thread) : (s.setThread u t).ctxs = s.ctxs := rfl
@[simp] theorem setThread_barriers (s : State) (u : Nat) (t : Thread) : (s.setThread u t).barriers = s.barriers := rfl
@[simp] theorem setThread_cur (s : State) (u : Nat) (t : Thread) : (s.setThread u t).cur = s.cur := rfl
@[simp] theorem setThread_now (s : State) (u : Nat) (t : Thread) : (s.setThread u t).now = s.now := rfl
@[simp] theorem setThread_accs (s : State) (u : Nat) (t : Thread) : (s.setThread u t).accs = s.accs := rfl
@[simp] theorem setThread_waiters (s : State) (u : Nat) (t : Thread) : (s.setThread u t).waiters = s.waiters := rfl
@[simp] theorem setThread_resq (s : State) (u : Nat) (t : Thread) : (s.setThread u t).resq = s.resq := rfl
@[simp] theorem setThread_resv (s : State) (u : Nat) (t : Thread) : (s.setThread u t).resv = s.resv := rfl
@[simp] theorem setThread_overflow (s : State) (u : Nat) (t : Thread) : (s.setThread u t).overflow = s.overflow := rfl
@[simp] theorem setThread_cmds (s : State) (u : Nat) (t : Thread) : (s.setThread u t).cmds = s.cmds := rfl
@[simp] theorem setThread_calls (s : State) (u : Nat) (t : Thread) : (s.setThread u t).calls = s.calls := rfl
@[simp] theorem setThread_works (s : State) (u : Nat) (t : Thread) : (s.setThread u t).works = s.works := rfl
@[simp] theorem setThread_conns (s : State) (u : Nat) (t : Thread) : (s.setThread u t).conns = s.conns := rfl
@[simp] theorem setThread_reqs (s : State) (u : Nat) (t : Thread) : (s.setThread u t).reqs = s.reqs := rfl
@[simp] theorem setThread_bufs (s : State) (u : Nat) (t : Thread) : (s.setThread u t).bufs = s.bufs := rfl
@[simp] theorem setThread_placing (s : State) (u : Nat) (t : Thread) : (s.setThread u t).placing = s.placing := rfl
@[simp] theorem setThread_net (s : State) (u : Nat) (t : Thread) : (s.setThread u t).net = s.net := rfl
@[simp] theorem setThread_beacons (s : State) (u : Nat) (t : Thread) : (s.setThread u t).beacons = s.beacons := rfl
@[simp] theorem setThread_counts (s : State) (u : Nat) (t : Thread) : (s.setThread u t).counts = s.counts := rfl
@[simp] theorem setThread_tlb (s : State) (u : Nat) (t : Thread) : (s.setThread u t).tlb = s.tlb := rfl
@[simp] theorem setThread_remap (s : State) (u : Nat) (t : Thread) : (s.setThread u t).remap = s.remap := rfl
@[simp] theorem setThread_icCopies (s : State) (u : Nat) (t : Thread) : (s.setThread u t).icCopies = s.icCopies := rfl
@[simp] theorem setThread_badFrames (s : State) (u : Nat) (t : Thread) : (s.setThread u t).badFrames = s.badFrames := rfl
@[simp] theorem setThread_pool (s : State) (u : Nat) (t : Thread) : (s.setThread u t).pool = s.pool := rfl
@[simp] theorem setThread_leaving (s : State) (u : Nat) (t : Thread) : (s.setThread u t).leaving = s.leaving := rfl
@[simp] theorem setThread_retired (s : State) (u : Nat) (t : Thread) : (s.setThread u t).retired = s.retired := rfl
@[simp] theorem setThread_windows (s : State) (u : Nat) (t : Thread) : (s.setThread u t).windows = s.windows := rfl
@[simp] theorem setThread_vfsel (s : State) (u : Nat) (t : Thread) : (s.setThread u t).vfsel = s.vfsel := rfl
@[simp] theorem setThread_vfs (s : State) (u : Nat) (t : Thread) : (s.setThread u t).vfs = s.vfs := rfl
@[simp] theorem setThread_cxlsel (s : State) (u : Nat) (t : Thread) : (s.setThread u t).cxlsel = s.cxlsel := rfl
@[simp] theorem setThread_cxlwin (s : State) (u : Nat) (t : Thread) : (s.setThread u t).cxlwin = s.cxlwin := rfl
@[simp] theorem setThread_pwrstat (s : State) (u : Nat) (t : Thread) : (s.setThread u t).pwrstat = s.pwrstat := rfl
@[simp] theorem setThread_links (s : State) (u : Nat) (t : Thread) : (s.setThread u t).links = s.links := rfl
@[simp] theorem setThread_peer (s : State) (u : Nat) (t : Thread) : (s.setThread u t).peer = s.peer := rfl
@[simp] theorem setThread_domain (s : State) (u : Nat) (t : Thread) : (s.setThread u t).domain = s.domain := rfl
@[simp] theorem setThread_answers (s : State) (u : Nat) (t : Thread) : (s.setThread u t).answers = s.answers := rfl
@[simp] theorem setThread_hostUp (s : State) (u : Nat) (t : Thread) : (s.setThread u t).hostUp = s.hostUp := rfl
@[simp] theorem setThread_booted (s : State) (u : Nat) (t : Thread) : (s.setThread u t).booted = s.booted := rfl
@[simp] theorem setThread_bootFail (s : State) (u : Nat) (t : Thread) : (s.setThread u t).bootFail = s.bootFail := rfl
@[simp] theorem setThread_powerLimit (s : State) (u : Nat) (t : Thread) : (s.setThread u t).powerLimit = s.powerLimit := rfl
@[simp] theorem setThread_aer (s : State) (u : Nat) (t : Thread) : (s.setThread u t).aer = s.aer := rfl
@[simp] theorem setThread_msix (s : State) (u : Nat) (t : Thread) : (s.setThread u t).msix = s.msix := rfl
@[simp] theorem setThread_replies (s : State) (u : Nat) (t : Thread) : (s.setThread u t).replies = s.replies := rfl
@[simp] theorem setThread_unsupported (s : State) (u : Nat) (t : Thread) : (s.setThread u t).unsupported = s.unsupported := rfl
@[simp] theorem setThread_digest (s : State) (u : Nat) (t : Thread) : (s.setThread u t).digest = s.digest := rfl
@[simp] theorem setThread_cfgDigest (s : State) (u : Nat) (t : Thread) : (s.setThread u t).cfgDigest = s.cfgDigest := rfl
@[simp] theorem setThread_identity (s : State) (u : Nat) (t : Thread) : (s.setThread u t).identity = s.identity := rfl
@[simp] theorem setThread_rotation (s : State) (u : Nat) (t : Thread) : (s.setThread u t).rotation = s.rotation := rfl
@[simp] theorem setThread_ccTurn (s : State) (u : Nat) (t : Thread) : (s.setThread u t).ccTurn = s.ccTurn := rfl
@[simp] theorem setThread_ccCycle (s : State) (u : Nat) (t : Thread) : (s.setThread u t).ccCycle = s.ccCycle := rfl
@[simp] theorem setThread_inputs (s : State) (u : Nat) (t : Thread) : (s.setThread u t).inputs = s.inputs := rfl
@[simp] theorem setThread_sched (s : State) (u : Nat) (t : Thread) : (s.setThread u t).sched = s.sched := rfl
@[simp] theorem setThread_ahead (s : State) (u : Nat) (t : Thread) : (s.setThread u t).ahead = s.ahead := rfl
@[simp] theorem setThread_bursts (s : State) (u : Nat) (t : Thread) : (s.setThread u t).bursts = s.bursts := rfl
@[simp] theorem setThread_next (s : State) (u : Nat) (t : Thread) : (s.setThread u t).next = s.next := rfl
@[simp] theorem setThread_free (s : State) (u : Nat) (t : Thread) : (s.setThread u t).free = s.free := rfl
@[simp] theorem setThread_threads (s : State) (u : Nat) (t : Thread) : (s.setThread u t).threads = put s.threads u t := rfl

@[simp] theorem setCore_part (s : State) (c : Nat) (k : Core) : (s.setCore c k).part = s.part := rfl
@[simp] theorem setCore_mem (s : State) (c : Nat) (k : Core) : (s.setCore c k).mem = s.mem := rfl
@[simp] theorem setCore_empty (s : State) (c : Nat) (k : Core) : (s.setCore c k).empty = s.empty := rfl
@[simp] theorem setCore_poisoned (s : State) (c : Nat) (k : Core) : (s.setCore c k).poisoned = s.poisoned := rfl
@[simp] theorem setCore_behind (s : State) (c : Nat) (k : Core) : (s.setCore c k).behind = s.behind := rfl
@[simp] theorem setCore_threads (s : State) (c : Nat) (k : Core) : (s.setCore c k).threads = s.threads := rfl
@[simp] theorem setCore_ctxs (s : State) (c : Nat) (k : Core) : (s.setCore c k).ctxs = s.ctxs := rfl
@[simp] theorem setCore_barriers (s : State) (c : Nat) (k : Core) : (s.setCore c k).barriers = s.barriers := rfl
@[simp] theorem setCore_cur (s : State) (c : Nat) (k : Core) : (s.setCore c k).cur = s.cur := rfl
@[simp] theorem setCore_now (s : State) (c : Nat) (k : Core) : (s.setCore c k).now = s.now := rfl
@[simp] theorem setCore_accs (s : State) (c : Nat) (k : Core) : (s.setCore c k).accs = s.accs := rfl
@[simp] theorem setCore_waiters (s : State) (c : Nat) (k : Core) : (s.setCore c k).waiters = s.waiters := rfl
@[simp] theorem setCore_resq (s : State) (c : Nat) (k : Core) : (s.setCore c k).resq = s.resq := rfl
@[simp] theorem setCore_resv (s : State) (c : Nat) (k : Core) : (s.setCore c k).resv = s.resv := rfl
@[simp] theorem setCore_overflow (s : State) (c : Nat) (k : Core) : (s.setCore c k).overflow = s.overflow := rfl
@[simp] theorem setCore_cmds (s : State) (c : Nat) (k : Core) : (s.setCore c k).cmds = s.cmds := rfl
@[simp] theorem setCore_calls (s : State) (c : Nat) (k : Core) : (s.setCore c k).calls = s.calls := rfl
@[simp] theorem setCore_works (s : State) (c : Nat) (k : Core) : (s.setCore c k).works = s.works := rfl
@[simp] theorem setCore_conns (s : State) (c : Nat) (k : Core) : (s.setCore c k).conns = s.conns := rfl
@[simp] theorem setCore_reqs (s : State) (c : Nat) (k : Core) : (s.setCore c k).reqs = s.reqs := rfl
@[simp] theorem setCore_bufs (s : State) (c : Nat) (k : Core) : (s.setCore c k).bufs = s.bufs := rfl
@[simp] theorem setCore_placing (s : State) (c : Nat) (k : Core) : (s.setCore c k).placing = s.placing := rfl
@[simp] theorem setCore_net (s : State) (c : Nat) (k : Core) : (s.setCore c k).net = s.net := rfl
@[simp] theorem setCore_beacons (s : State) (c : Nat) (k : Core) : (s.setCore c k).beacons = s.beacons := rfl
@[simp] theorem setCore_counts (s : State) (c : Nat) (k : Core) : (s.setCore c k).counts = s.counts := rfl
@[simp] theorem setCore_tlb (s : State) (c : Nat) (k : Core) : (s.setCore c k).tlb = s.tlb := rfl
@[simp] theorem setCore_remap (s : State) (c : Nat) (k : Core) : (s.setCore c k).remap = s.remap := rfl
@[simp] theorem setCore_icCopies (s : State) (c : Nat) (k : Core) : (s.setCore c k).icCopies = s.icCopies := rfl
@[simp] theorem setCore_badFrames (s : State) (c : Nat) (k : Core) : (s.setCore c k).badFrames = s.badFrames := rfl
@[simp] theorem setCore_pool (s : State) (c : Nat) (k : Core) : (s.setCore c k).pool = s.pool := rfl
@[simp] theorem setCore_leaving (s : State) (c : Nat) (k : Core) : (s.setCore c k).leaving = s.leaving := rfl
@[simp] theorem setCore_retired (s : State) (c : Nat) (k : Core) : (s.setCore c k).retired = s.retired := rfl
@[simp] theorem setCore_windows (s : State) (c : Nat) (k : Core) : (s.setCore c k).windows = s.windows := rfl
@[simp] theorem setCore_vfsel (s : State) (c : Nat) (k : Core) : (s.setCore c k).vfsel = s.vfsel := rfl
@[simp] theorem setCore_vfs (s : State) (c : Nat) (k : Core) : (s.setCore c k).vfs = s.vfs := rfl
@[simp] theorem setCore_cxlsel (s : State) (c : Nat) (k : Core) : (s.setCore c k).cxlsel = s.cxlsel := rfl
@[simp] theorem setCore_cxlwin (s : State) (c : Nat) (k : Core) : (s.setCore c k).cxlwin = s.cxlwin := rfl
@[simp] theorem setCore_pwrstat (s : State) (c : Nat) (k : Core) : (s.setCore c k).pwrstat = s.pwrstat := rfl
@[simp] theorem setCore_links (s : State) (c : Nat) (k : Core) : (s.setCore c k).links = s.links := rfl
@[simp] theorem setCore_peer (s : State) (c : Nat) (k : Core) : (s.setCore c k).peer = s.peer := rfl
@[simp] theorem setCore_domain (s : State) (c : Nat) (k : Core) : (s.setCore c k).domain = s.domain := rfl
@[simp] theorem setCore_answers (s : State) (c : Nat) (k : Core) : (s.setCore c k).answers = s.answers := rfl
@[simp] theorem setCore_hostUp (s : State) (c : Nat) (k : Core) : (s.setCore c k).hostUp = s.hostUp := rfl
@[simp] theorem setCore_booted (s : State) (c : Nat) (k : Core) : (s.setCore c k).booted = s.booted := rfl
@[simp] theorem setCore_bootFail (s : State) (c : Nat) (k : Core) : (s.setCore c k).bootFail = s.bootFail := rfl
@[simp] theorem setCore_powerLimit (s : State) (c : Nat) (k : Core) : (s.setCore c k).powerLimit = s.powerLimit := rfl
@[simp] theorem setCore_aer (s : State) (c : Nat) (k : Core) : (s.setCore c k).aer = s.aer := rfl
@[simp] theorem setCore_msix (s : State) (c : Nat) (k : Core) : (s.setCore c k).msix = s.msix := rfl
@[simp] theorem setCore_replies (s : State) (c : Nat) (k : Core) : (s.setCore c k).replies = s.replies := rfl
@[simp] theorem setCore_unsupported (s : State) (c : Nat) (k : Core) : (s.setCore c k).unsupported = s.unsupported := rfl
@[simp] theorem setCore_digest (s : State) (c : Nat) (k : Core) : (s.setCore c k).digest = s.digest := rfl
@[simp] theorem setCore_cfgDigest (s : State) (c : Nat) (k : Core) : (s.setCore c k).cfgDigest = s.cfgDigest := rfl
@[simp] theorem setCore_identity (s : State) (c : Nat) (k : Core) : (s.setCore c k).identity = s.identity := rfl
@[simp] theorem setCore_rotation (s : State) (c : Nat) (k : Core) : (s.setCore c k).rotation = s.rotation := rfl
@[simp] theorem setCore_ccTurn (s : State) (c : Nat) (k : Core) : (s.setCore c k).ccTurn = s.ccTurn := rfl
@[simp] theorem setCore_ccCycle (s : State) (c : Nat) (k : Core) : (s.setCore c k).ccCycle = s.ccCycle := rfl
@[simp] theorem setCore_inputs (s : State) (c : Nat) (k : Core) : (s.setCore c k).inputs = s.inputs := rfl
@[simp] theorem setCore_sched (s : State) (c : Nat) (k : Core) : (s.setCore c k).sched = s.sched := rfl
@[simp] theorem setCore_ahead (s : State) (c : Nat) (k : Core) : (s.setCore c k).ahead = s.ahead := rfl
@[simp] theorem setCore_bursts (s : State) (c : Nat) (k : Core) : (s.setCore c k).bursts = s.bursts := rfl
@[simp] theorem setCore_next (s : State) (c : Nat) (k : Core) : (s.setCore c k).next = s.next := rfl
@[simp] theorem setCore_free (s : State) (c : Nat) (k : Core) : (s.setCore c k).free = s.free := rfl
@[simp] theorem setCore_cores (s : State) (c : Nat) (k : Core) : (s.setCore c k).cores = put s.cores c k := rfl

@[simp] theorem setCtx_part (s : State) (a : Nat) (x : Ctx) : (s.setCtx a x).part = s.part := rfl
@[simp] theorem setCtx_mem (s : State) (a : Nat) (x : Ctx) : (s.setCtx a x).mem = s.mem := rfl
@[simp] theorem setCtx_empty (s : State) (a : Nat) (x : Ctx) : (s.setCtx a x).empty = s.empty := rfl
@[simp] theorem setCtx_poisoned (s : State) (a : Nat) (x : Ctx) : (s.setCtx a x).poisoned = s.poisoned := rfl
@[simp] theorem setCtx_behind (s : State) (a : Nat) (x : Ctx) : (s.setCtx a x).behind = s.behind := rfl
@[simp] theorem setCtx_threads (s : State) (a : Nat) (x : Ctx) : (s.setCtx a x).threads = s.threads := rfl
@[simp] theorem setCtx_cores (s : State) (a : Nat) (x : Ctx) : (s.setCtx a x).cores = s.cores := rfl
@[simp] theorem setCtx_barriers (s : State) (a : Nat) (x : Ctx) : (s.setCtx a x).barriers = s.barriers := rfl
@[simp] theorem setCtx_cur (s : State) (a : Nat) (x : Ctx) : (s.setCtx a x).cur = s.cur := rfl
@[simp] theorem setCtx_now (s : State) (a : Nat) (x : Ctx) : (s.setCtx a x).now = s.now := rfl
@[simp] theorem setCtx_accs (s : State) (a : Nat) (x : Ctx) : (s.setCtx a x).accs = s.accs := rfl
@[simp] theorem setCtx_waiters (s : State) (a : Nat) (x : Ctx) : (s.setCtx a x).waiters = s.waiters := rfl
@[simp] theorem setCtx_resq (s : State) (a : Nat) (x : Ctx) : (s.setCtx a x).resq = s.resq := rfl
@[simp] theorem setCtx_resv (s : State) (a : Nat) (x : Ctx) : (s.setCtx a x).resv = s.resv := rfl
@[simp] theorem setCtx_overflow (s : State) (a : Nat) (x : Ctx) : (s.setCtx a x).overflow = s.overflow := rfl
@[simp] theorem setCtx_cmds (s : State) (a : Nat) (x : Ctx) : (s.setCtx a x).cmds = s.cmds := rfl
@[simp] theorem setCtx_calls (s : State) (a : Nat) (x : Ctx) : (s.setCtx a x).calls = s.calls := rfl
@[simp] theorem setCtx_works (s : State) (a : Nat) (x : Ctx) : (s.setCtx a x).works = s.works := rfl
@[simp] theorem setCtx_conns (s : State) (a : Nat) (x : Ctx) : (s.setCtx a x).conns = s.conns := rfl
@[simp] theorem setCtx_reqs (s : State) (a : Nat) (x : Ctx) : (s.setCtx a x).reqs = s.reqs := rfl
@[simp] theorem setCtx_bufs (s : State) (a : Nat) (x : Ctx) : (s.setCtx a x).bufs = s.bufs := rfl
@[simp] theorem setCtx_placing (s : State) (a : Nat) (x : Ctx) : (s.setCtx a x).placing = s.placing := rfl
@[simp] theorem setCtx_net (s : State) (a : Nat) (x : Ctx) : (s.setCtx a x).net = s.net := rfl
@[simp] theorem setCtx_beacons (s : State) (a : Nat) (x : Ctx) : (s.setCtx a x).beacons = s.beacons := rfl
@[simp] theorem setCtx_counts (s : State) (a : Nat) (x : Ctx) : (s.setCtx a x).counts = s.counts := rfl
@[simp] theorem setCtx_tlb (s : State) (a : Nat) (x : Ctx) : (s.setCtx a x).tlb = s.tlb := rfl
@[simp] theorem setCtx_remap (s : State) (a : Nat) (x : Ctx) : (s.setCtx a x).remap = s.remap := rfl
@[simp] theorem setCtx_icCopies (s : State) (a : Nat) (x : Ctx) : (s.setCtx a x).icCopies = s.icCopies := rfl
@[simp] theorem setCtx_badFrames (s : State) (a : Nat) (x : Ctx) : (s.setCtx a x).badFrames = s.badFrames := rfl
@[simp] theorem setCtx_pool (s : State) (a : Nat) (x : Ctx) : (s.setCtx a x).pool = s.pool := rfl
@[simp] theorem setCtx_leaving (s : State) (a : Nat) (x : Ctx) : (s.setCtx a x).leaving = s.leaving := rfl
@[simp] theorem setCtx_retired (s : State) (a : Nat) (x : Ctx) : (s.setCtx a x).retired = s.retired := rfl
@[simp] theorem setCtx_windows (s : State) (a : Nat) (x : Ctx) : (s.setCtx a x).windows = s.windows := rfl
@[simp] theorem setCtx_vfsel (s : State) (a : Nat) (x : Ctx) : (s.setCtx a x).vfsel = s.vfsel := rfl
@[simp] theorem setCtx_vfs (s : State) (a : Nat) (x : Ctx) : (s.setCtx a x).vfs = s.vfs := rfl
@[simp] theorem setCtx_cxlsel (s : State) (a : Nat) (x : Ctx) : (s.setCtx a x).cxlsel = s.cxlsel := rfl
@[simp] theorem setCtx_cxlwin (s : State) (a : Nat) (x : Ctx) : (s.setCtx a x).cxlwin = s.cxlwin := rfl
@[simp] theorem setCtx_pwrstat (s : State) (a : Nat) (x : Ctx) : (s.setCtx a x).pwrstat = s.pwrstat := rfl
@[simp] theorem setCtx_links (s : State) (a : Nat) (x : Ctx) : (s.setCtx a x).links = s.links := rfl
@[simp] theorem setCtx_peer (s : State) (a : Nat) (x : Ctx) : (s.setCtx a x).peer = s.peer := rfl
@[simp] theorem setCtx_domain (s : State) (a : Nat) (x : Ctx) : (s.setCtx a x).domain = s.domain := rfl
@[simp] theorem setCtx_answers (s : State) (a : Nat) (x : Ctx) : (s.setCtx a x).answers = s.answers := rfl
@[simp] theorem setCtx_hostUp (s : State) (a : Nat) (x : Ctx) : (s.setCtx a x).hostUp = s.hostUp := rfl
@[simp] theorem setCtx_booted (s : State) (a : Nat) (x : Ctx) : (s.setCtx a x).booted = s.booted := rfl
@[simp] theorem setCtx_bootFail (s : State) (a : Nat) (x : Ctx) : (s.setCtx a x).bootFail = s.bootFail := rfl
@[simp] theorem setCtx_powerLimit (s : State) (a : Nat) (x : Ctx) : (s.setCtx a x).powerLimit = s.powerLimit := rfl
@[simp] theorem setCtx_aer (s : State) (a : Nat) (x : Ctx) : (s.setCtx a x).aer = s.aer := rfl
@[simp] theorem setCtx_msix (s : State) (a : Nat) (x : Ctx) : (s.setCtx a x).msix = s.msix := rfl
@[simp] theorem setCtx_replies (s : State) (a : Nat) (x : Ctx) : (s.setCtx a x).replies = s.replies := rfl
@[simp] theorem setCtx_unsupported (s : State) (a : Nat) (x : Ctx) : (s.setCtx a x).unsupported = s.unsupported := rfl
@[simp] theorem setCtx_digest (s : State) (a : Nat) (x : Ctx) : (s.setCtx a x).digest = s.digest := rfl
@[simp] theorem setCtx_cfgDigest (s : State) (a : Nat) (x : Ctx) : (s.setCtx a x).cfgDigest = s.cfgDigest := rfl
@[simp] theorem setCtx_identity (s : State) (a : Nat) (x : Ctx) : (s.setCtx a x).identity = s.identity := rfl
@[simp] theorem setCtx_rotation (s : State) (a : Nat) (x : Ctx) : (s.setCtx a x).rotation = s.rotation := rfl
@[simp] theorem setCtx_ccTurn (s : State) (a : Nat) (x : Ctx) : (s.setCtx a x).ccTurn = s.ccTurn := rfl
@[simp] theorem setCtx_ccCycle (s : State) (a : Nat) (x : Ctx) : (s.setCtx a x).ccCycle = s.ccCycle := rfl
@[simp] theorem setCtx_inputs (s : State) (a : Nat) (x : Ctx) : (s.setCtx a x).inputs = s.inputs := rfl
@[simp] theorem setCtx_sched (s : State) (a : Nat) (x : Ctx) : (s.setCtx a x).sched = s.sched := rfl
@[simp] theorem setCtx_ahead (s : State) (a : Nat) (x : Ctx) : (s.setCtx a x).ahead = s.ahead := rfl
@[simp] theorem setCtx_bursts (s : State) (a : Nat) (x : Ctx) : (s.setCtx a x).bursts = s.bursts := rfl
@[simp] theorem setCtx_next (s : State) (a : Nat) (x : Ctx) : (s.setCtx a x).next = s.next := rfl
@[simp] theorem setCtx_free (s : State) (a : Nat) (x : Ctx) : (s.setCtx a x).free = s.free := rfl
@[simp] theorem setCtx_ctxs (s : State) (a : Nat) (x : Ctx) : (s.setCtx a x).ctxs = put s.ctxs a x := rfl

@[simp] theorem countN_part (s : State) (a c n : Nat) : (s.countN a c n).part = s.part := rfl
@[simp] theorem count_part (s : State) (a c : Nat) : (s.count a c).part = s.part := rfl
@[simp] theorem countN_mem (s : State) (a c n : Nat) : (s.countN a c n).mem = s.mem := rfl
@[simp] theorem count_mem (s : State) (a c : Nat) : (s.count a c).mem = s.mem := rfl
@[simp] theorem countN_empty (s : State) (a c n : Nat) : (s.countN a c n).empty = s.empty := rfl
@[simp] theorem count_empty (s : State) (a c : Nat) : (s.count a c).empty = s.empty := rfl
@[simp] theorem countN_poisoned (s : State) (a c n : Nat) : (s.countN a c n).poisoned = s.poisoned := rfl
@[simp] theorem count_poisoned (s : State) (a c : Nat) : (s.count a c).poisoned = s.poisoned := rfl
@[simp] theorem countN_behind (s : State) (a c n : Nat) : (s.countN a c n).behind = s.behind := rfl
@[simp] theorem count_behind (s : State) (a c : Nat) : (s.count a c).behind = s.behind := rfl
@[simp] theorem countN_threads (s : State) (a c n : Nat) : (s.countN a c n).threads = s.threads := rfl
@[simp] theorem count_threads (s : State) (a c : Nat) : (s.count a c).threads = s.threads := rfl
@[simp] theorem countN_cores (s : State) (a c n : Nat) : (s.countN a c n).cores = s.cores := rfl
@[simp] theorem count_cores (s : State) (a c : Nat) : (s.count a c).cores = s.cores := rfl
@[simp] theorem countN_ctxs (s : State) (a c n : Nat) : (s.countN a c n).ctxs = s.ctxs := rfl
@[simp] theorem count_ctxs (s : State) (a c : Nat) : (s.count a c).ctxs = s.ctxs := rfl
@[simp] theorem countN_barriers (s : State) (a c n : Nat) : (s.countN a c n).barriers = s.barriers := rfl
@[simp] theorem count_barriers (s : State) (a c : Nat) : (s.count a c).barriers = s.barriers := rfl
@[simp] theorem countN_cur (s : State) (a c n : Nat) : (s.countN a c n).cur = s.cur := rfl
@[simp] theorem count_cur (s : State) (a c : Nat) : (s.count a c).cur = s.cur := rfl
@[simp] theorem countN_now (s : State) (a c n : Nat) : (s.countN a c n).now = s.now := rfl
@[simp] theorem count_now (s : State) (a c : Nat) : (s.count a c).now = s.now := rfl
@[simp] theorem countN_accs (s : State) (a c n : Nat) : (s.countN a c n).accs = s.accs := rfl
@[simp] theorem count_accs (s : State) (a c : Nat) : (s.count a c).accs = s.accs := rfl
@[simp] theorem countN_waiters (s : State) (a c n : Nat) : (s.countN a c n).waiters = s.waiters := rfl
@[simp] theorem count_waiters (s : State) (a c : Nat) : (s.count a c).waiters = s.waiters := rfl
@[simp] theorem countN_resq (s : State) (a c n : Nat) : (s.countN a c n).resq = s.resq := rfl
@[simp] theorem count_resq (s : State) (a c : Nat) : (s.count a c).resq = s.resq := rfl
@[simp] theorem countN_resv (s : State) (a c n : Nat) : (s.countN a c n).resv = s.resv := rfl
@[simp] theorem count_resv (s : State) (a c : Nat) : (s.count a c).resv = s.resv := rfl
@[simp] theorem countN_overflow (s : State) (a c n : Nat) : (s.countN a c n).overflow = s.overflow := rfl
@[simp] theorem count_overflow (s : State) (a c : Nat) : (s.count a c).overflow = s.overflow := rfl
@[simp] theorem countN_cmds (s : State) (a c n : Nat) : (s.countN a c n).cmds = s.cmds := rfl
@[simp] theorem count_cmds (s : State) (a c : Nat) : (s.count a c).cmds = s.cmds := rfl
@[simp] theorem countN_calls (s : State) (a c n : Nat) : (s.countN a c n).calls = s.calls := rfl
@[simp] theorem count_calls (s : State) (a c : Nat) : (s.count a c).calls = s.calls := rfl
@[simp] theorem countN_works (s : State) (a c n : Nat) : (s.countN a c n).works = s.works := rfl
@[simp] theorem count_works (s : State) (a c : Nat) : (s.count a c).works = s.works := rfl
@[simp] theorem countN_conns (s : State) (a c n : Nat) : (s.countN a c n).conns = s.conns := rfl
@[simp] theorem count_conns (s : State) (a c : Nat) : (s.count a c).conns = s.conns := rfl
@[simp] theorem countN_reqs (s : State) (a c n : Nat) : (s.countN a c n).reqs = s.reqs := rfl
@[simp] theorem count_reqs (s : State) (a c : Nat) : (s.count a c).reqs = s.reqs := rfl
@[simp] theorem countN_bufs (s : State) (a c n : Nat) : (s.countN a c n).bufs = s.bufs := rfl
@[simp] theorem countN_placing (s : State) (a c n : Nat) : (s.countN a c n).placing = s.placing := rfl
@[simp] theorem count_bufs (s : State) (a c : Nat) : (s.count a c).bufs = s.bufs := rfl
@[simp] theorem count_placing (s : State) (a c : Nat) : (s.count a c).placing = s.placing := rfl
@[simp] theorem countN_net (s : State) (a c n : Nat) : (s.countN a c n).net = s.net := rfl
@[simp] theorem count_net (s : State) (a c : Nat) : (s.count a c).net = s.net := rfl
@[simp] theorem countN_beacons (s : State) (a c n : Nat) : (s.countN a c n).beacons = s.beacons := rfl
@[simp] theorem count_beacons (s : State) (a c : Nat) : (s.count a c).beacons = s.beacons := rfl
@[simp] theorem countN_tlb (s : State) (a c n : Nat) : (s.countN a c n).tlb = s.tlb := rfl
@[simp] theorem count_tlb (s : State) (a c : Nat) : (s.count a c).tlb = s.tlb := rfl
@[simp] theorem countN_remap (s : State) (a c n : Nat) : (s.countN a c n).remap = s.remap := rfl
@[simp] theorem count_remap (s : State) (a c : Nat) : (s.count a c).remap = s.remap := rfl
@[simp] theorem countN_icCopies (s : State) (a c n : Nat) : (s.countN a c n).icCopies = s.icCopies := rfl
@[simp] theorem count_icCopies (s : State) (a c : Nat) : (s.count a c).icCopies = s.icCopies := rfl
@[simp] theorem countN_badFrames (s : State) (a c n : Nat) : (s.countN a c n).badFrames = s.badFrames := rfl
@[simp] theorem count_badFrames (s : State) (a c : Nat) : (s.count a c).badFrames = s.badFrames := rfl
@[simp] theorem countN_pool (s : State) (a c n : Nat) : (s.countN a c n).pool = s.pool := rfl
@[simp] theorem count_pool (s : State) (a c : Nat) : (s.count a c).pool = s.pool := rfl
@[simp] theorem countN_leaving (s : State) (a c n : Nat) : (s.countN a c n).leaving = s.leaving := rfl
@[simp] theorem count_leaving (s : State) (a c : Nat) : (s.count a c).leaving = s.leaving := rfl
@[simp] theorem countN_retired (s : State) (a c n : Nat) : (s.countN a c n).retired = s.retired := rfl
@[simp] theorem count_retired (s : State) (a c : Nat) : (s.count a c).retired = s.retired := rfl
@[simp] theorem countN_windows (s : State) (a c n : Nat) : (s.countN a c n).windows = s.windows := rfl
@[simp] theorem count_windows (s : State) (a c : Nat) : (s.count a c).windows = s.windows := rfl
@[simp] theorem countN_vfsel (s : State) (a c n : Nat) : (s.countN a c n).vfsel = s.vfsel := rfl
@[simp] theorem count_vfsel (s : State) (a c : Nat) : (s.count a c).vfsel = s.vfsel := rfl
@[simp] theorem countN_vfs (s : State) (a c n : Nat) : (s.countN a c n).vfs = s.vfs := rfl
@[simp] theorem count_vfs (s : State) (a c : Nat) : (s.count a c).vfs = s.vfs := rfl
@[simp] theorem countN_cxlsel (s : State) (a c n : Nat) : (s.countN a c n).cxlsel = s.cxlsel := rfl
@[simp] theorem count_cxlsel (s : State) (a c : Nat) : (s.count a c).cxlsel = s.cxlsel := rfl
@[simp] theorem countN_cxlwin (s : State) (a c n : Nat) : (s.countN a c n).cxlwin = s.cxlwin := rfl
@[simp] theorem count_cxlwin (s : State) (a c : Nat) : (s.count a c).cxlwin = s.cxlwin := rfl
@[simp] theorem countN_pwrstat (s : State) (a c n : Nat) : (s.countN a c n).pwrstat = s.pwrstat := rfl
@[simp] theorem count_pwrstat (s : State) (a c : Nat) : (s.count a c).pwrstat = s.pwrstat := rfl
@[simp] theorem countN_links (s : State) (a c n : Nat) : (s.countN a c n).links = s.links := rfl
@[simp] theorem count_links (s : State) (a c : Nat) : (s.count a c).links = s.links := rfl
@[simp] theorem countN_peer (s : State) (a c n : Nat) : (s.countN a c n).peer = s.peer := rfl
@[simp] theorem count_peer (s : State) (a c : Nat) : (s.count a c).peer = s.peer := rfl
@[simp] theorem countN_domain (s : State) (a c n : Nat) : (s.countN a c n).domain = s.domain := rfl
@[simp] theorem count_domain (s : State) (a c : Nat) : (s.count a c).domain = s.domain := rfl
@[simp] theorem countN_answers (s : State) (a c n : Nat) : (s.countN a c n).answers = s.answers := rfl
@[simp] theorem count_answers (s : State) (a c : Nat) : (s.count a c).answers = s.answers := rfl
@[simp] theorem countN_hostUp (s : State) (a c n : Nat) : (s.countN a c n).hostUp = s.hostUp := rfl
@[simp] theorem count_hostUp (s : State) (a c : Nat) : (s.count a c).hostUp = s.hostUp := rfl
@[simp] theorem countN_booted (s : State) (a c n : Nat) : (s.countN a c n).booted = s.booted := rfl
@[simp] theorem count_booted (s : State) (a c : Nat) : (s.count a c).booted = s.booted := rfl
@[simp] theorem countN_bootFail (s : State) (a c n : Nat) : (s.countN a c n).bootFail = s.bootFail := rfl
@[simp] theorem count_bootFail (s : State) (a c : Nat) : (s.count a c).bootFail = s.bootFail := rfl
@[simp] theorem countN_powerLimit (s : State) (a c n : Nat) : (s.countN a c n).powerLimit = s.powerLimit := rfl
@[simp] theorem count_powerLimit (s : State) (a c : Nat) : (s.count a c).powerLimit = s.powerLimit := rfl
@[simp] theorem countN_aer (s : State) (a c n : Nat) : (s.countN a c n).aer = s.aer := rfl
@[simp] theorem count_aer (s : State) (a c : Nat) : (s.count a c).aer = s.aer := rfl
@[simp] theorem countN_msix (s : State) (a c n : Nat) : (s.countN a c n).msix = s.msix := rfl
@[simp] theorem count_msix (s : State) (a c : Nat) : (s.count a c).msix = s.msix := rfl
@[simp] theorem countN_replies (s : State) (a c n : Nat) : (s.countN a c n).replies = s.replies := rfl
@[simp] theorem count_replies (s : State) (a c : Nat) : (s.count a c).replies = s.replies := rfl
@[simp] theorem countN_unsupported (s : State) (a c n : Nat) : (s.countN a c n).unsupported = s.unsupported := rfl
@[simp] theorem count_unsupported (s : State) (a c : Nat) : (s.count a c).unsupported = s.unsupported := rfl
@[simp] theorem countN_digest (s : State) (a c n : Nat) : (s.countN a c n).digest = s.digest := rfl
@[simp] theorem count_digest (s : State) (a c : Nat) : (s.count a c).digest = s.digest := rfl
@[simp] theorem countN_cfgDigest (s : State) (a c n : Nat) : (s.countN a c n).cfgDigest = s.cfgDigest := rfl
@[simp] theorem countN_identity (s : State) (a c n : Nat) : (s.countN a c n).identity = s.identity := rfl
@[simp] theorem count_cfgDigest (s : State) (a c : Nat) : (s.count a c).cfgDigest = s.cfgDigest := rfl
@[simp] theorem count_identity (s : State) (a c : Nat) : (s.count a c).identity = s.identity := rfl
@[simp] theorem countN_rotation (s : State) (a c n : Nat) : (s.countN a c n).rotation = s.rotation := rfl
@[simp] theorem count_rotation (s : State) (a c : Nat) : (s.count a c).rotation = s.rotation := rfl
@[simp] theorem countN_ccTurn (s : State) (a c n : Nat) : (s.countN a c n).ccTurn = s.ccTurn := rfl
@[simp] theorem countN_ccCycle (s : State) (a c n : Nat) : (s.countN a c n).ccCycle = s.ccCycle := rfl
@[simp] theorem count_ccTurn (s : State) (a c : Nat) : (s.count a c).ccTurn = s.ccTurn := rfl
@[simp] theorem count_ccCycle (s : State) (a c : Nat) : (s.count a c).ccCycle = s.ccCycle := rfl
@[simp] theorem countN_inputs (s : State) (a c n : Nat) : (s.countN a c n).inputs = s.inputs := rfl
@[simp] theorem count_inputs (s : State) (a c : Nat) : (s.count a c).inputs = s.inputs := rfl
@[simp] theorem countN_sched (s : State) (a c n : Nat) : (s.countN a c n).sched = s.sched := rfl
@[simp] theorem count_sched (s : State) (a c : Nat) : (s.count a c).sched = s.sched := rfl
@[simp] theorem countN_ahead (s : State) (a c n : Nat) : (s.countN a c n).ahead = s.ahead := rfl
@[simp] theorem countN_bursts (s : State) (a c n : Nat) : (s.countN a c n).bursts = s.bursts := rfl
@[simp] theorem count_ahead (s : State) (a c : Nat) : (s.count a c).ahead = s.ahead := rfl
@[simp] theorem count_bursts (s : State) (a c : Nat) : (s.count a c).bursts = s.bursts := rfl
@[simp] theorem countN_free (s : State) (a c n : Nat) : (s.countN a c n).free = s.free := rfl
@[simp] theorem count_free (s : State) (a c : Nat) : (s.count a c).free = s.free := rfl
@[simp] theorem bump_part (s : State) : s.bump.part = s.part := rfl
@[simp] theorem bump_mem (s : State) : s.bump.mem = s.mem := rfl
@[simp] theorem bump_empty (s : State) : s.bump.empty = s.empty := rfl
@[simp] theorem bump_poisoned (s : State) : s.bump.poisoned = s.poisoned := rfl
@[simp] theorem bump_behind (s : State) : s.bump.behind = s.behind := rfl
@[simp] theorem bump_threads (s : State) : s.bump.threads = s.threads := rfl
@[simp] theorem bump_cores (s : State) : s.bump.cores = s.cores := rfl
@[simp] theorem bump_ctxs (s : State) : s.bump.ctxs = s.ctxs := rfl
@[simp] theorem bump_barriers (s : State) : s.bump.barriers = s.barriers := rfl
@[simp] theorem bump_cur (s : State) : s.bump.cur = s.cur := rfl
@[simp] theorem bump_now (s : State) : s.bump.now = s.now := rfl
@[simp] theorem bump_accs (s : State) : s.bump.accs = s.accs := rfl
@[simp] theorem bump_waiters (s : State) : s.bump.waiters = s.waiters := rfl
@[simp] theorem bump_resq (s : State) : s.bump.resq = s.resq := rfl
@[simp] theorem bump_resv (s : State) : s.bump.resv = s.resv := rfl
@[simp] theorem bump_overflow (s : State) : s.bump.overflow = s.overflow := rfl
@[simp] theorem bump_cmds (s : State) : s.bump.cmds = s.cmds := rfl
@[simp] theorem bump_calls (s : State) : s.bump.calls = s.calls := rfl
@[simp] theorem bump_works (s : State) : s.bump.works = s.works := rfl
@[simp] theorem bump_conns (s : State) : s.bump.conns = s.conns := rfl
@[simp] theorem bump_reqs (s : State) : s.bump.reqs = s.reqs := rfl
@[simp] theorem bump_bufs (s : State) : s.bump.bufs = s.bufs := rfl
@[simp] theorem bump_placing (s : State) : s.bump.placing = s.placing := rfl
@[simp] theorem bump_net (s : State) : s.bump.net = s.net := rfl
@[simp] theorem bump_beacons (s : State) : s.bump.beacons = s.beacons := rfl
@[simp] theorem bump_counts (s : State) : s.bump.counts = s.counts := rfl
@[simp] theorem bump_tlb (s : State) : s.bump.tlb = s.tlb := rfl
@[simp] theorem bump_remap (s : State) : s.bump.remap = s.remap := rfl
@[simp] theorem bump_icCopies (s : State) : s.bump.icCopies = s.icCopies := rfl
@[simp] theorem bump_badFrames (s : State) : s.bump.badFrames = s.badFrames := rfl
@[simp] theorem bump_pool (s : State) : s.bump.pool = s.pool := rfl
@[simp] theorem bump_leaving (s : State) : s.bump.leaving = s.leaving := rfl
@[simp] theorem bump_retired (s : State) : s.bump.retired = s.retired := rfl
@[simp] theorem bump_windows (s : State) : s.bump.windows = s.windows := rfl
@[simp] theorem bump_vfsel (s : State) : s.bump.vfsel = s.vfsel := rfl
@[simp] theorem bump_vfs (s : State) : s.bump.vfs = s.vfs := rfl
@[simp] theorem bump_cxlsel (s : State) : s.bump.cxlsel = s.cxlsel := rfl
@[simp] theorem bump_cxlwin (s : State) : s.bump.cxlwin = s.cxlwin := rfl
@[simp] theorem bump_pwrstat (s : State) : s.bump.pwrstat = s.pwrstat := rfl
@[simp] theorem bump_links (s : State) : s.bump.links = s.links := rfl
@[simp] theorem bump_peer (s : State) : s.bump.peer = s.peer := rfl
@[simp] theorem bump_domain (s : State) : s.bump.domain = s.domain := rfl
@[simp] theorem bump_answers (s : State) : s.bump.answers = s.answers := rfl
@[simp] theorem bump_hostUp (s : State) : s.bump.hostUp = s.hostUp := rfl
@[simp] theorem bump_booted (s : State) : s.bump.booted = s.booted := rfl
@[simp] theorem bump_bootFail (s : State) : s.bump.bootFail = s.bootFail := rfl
@[simp] theorem bump_powerLimit (s : State) : s.bump.powerLimit = s.powerLimit := rfl
@[simp] theorem bump_aer (s : State) : s.bump.aer = s.aer := rfl
@[simp] theorem bump_msix (s : State) : s.bump.msix = s.msix := rfl
@[simp] theorem bump_replies (s : State) : s.bump.replies = s.replies := rfl
@[simp] theorem bump_unsupported (s : State) : s.bump.unsupported = s.unsupported := rfl
@[simp] theorem bump_digest (s : State) : s.bump.digest = s.digest := rfl
@[simp] theorem bump_cfgDigest (s : State) : s.bump.cfgDigest = s.cfgDigest := rfl
@[simp] theorem bump_identity (s : State) : s.bump.identity = s.identity := rfl
@[simp] theorem bump_rotation (s : State) : s.bump.rotation = s.rotation := rfl
@[simp] theorem bump_ccTurn (s : State) : s.bump.ccTurn = s.ccTurn := rfl
@[simp] theorem bump_ccCycle (s : State) : s.bump.ccCycle = s.ccCycle := rfl
@[simp] theorem bump_inputs (s : State) : s.bump.inputs = s.inputs := rfl
@[simp] theorem bump_sched (s : State) : s.bump.sched = s.sched := rfl
@[simp] theorem bump_ahead (s : State) : s.bump.ahead = s.ahead := rfl
@[simp] theorem bump_bursts (s : State) : s.bump.bursts = s.bursts := rfl
@[simp] theorem bump_free (s : State) : s.bump.free = s.free := rfl

/-! ### Reading threads, cores and contexts after an update -/

@[simp] theorem thread_setThread (s : State) (u : Nat) (t : Thread) : (s.setThread u t).thread u = t := get_put _ _ _ _
theorem thread_setThread_ne (s : State) {u w : Nat} (t : Thread) (h : w ≠ u) : (s.setThread u t).thread w = s.thread w :=
  get_put_ne _ _ _ h
@[simp] theorem thread_setCore (s : State) (c : Nat) (k : Core) (u : Nat) : (s.setCore c k).thread u = s.thread u := rfl
@[simp] theorem thread_setCtx (s : State) (a : Nat) (x : Ctx) (u : Nat) : (s.setCtx a x).thread u = s.thread u := rfl
@[simp] theorem core_setThread (s : State) (u : Nat) (t : Thread) (c : Nat) : (s.setThread u t).core c = s.core c := rfl
@[simp] theorem core_setCore (s : State) (c : Nat) (k : Core) : (s.setCore c k).core c = k := get_put _ _ _ _
theorem core_setCore_ne (s : State) {c d : Nat} (k : Core) (h : d ≠ c) : (s.setCore c k).core d = s.core d := get_put_ne _ _ _ h
@[simp] theorem core_setCtx (s : State) (a : Nat) (x : Ctx) (c : Nat) : (s.setCtx a x).core c = s.core c := rfl
@[simp] theorem ctx_setThread (s : State) (u : Nat) (t : Thread) (a : Nat) : (s.setThread u t).ctx a = s.ctx a := rfl
@[simp] theorem ctx_setCore (s : State) (c : Nat) (k : Core) (a : Nat) : (s.setCore c k).ctx a = s.ctx a := rfl
@[simp] theorem ctx_setCtx (s : State) (a : Nat) (x : Ctx) : (s.setCtx a x).ctx a = x := get_put _ _ _ _
theorem ctx_setCtx_ne (s : State) {a b : Nat} (x : Ctx) (h : b ≠ a) : (s.setCtx a x).ctx b = s.ctx b := get_put_ne _ _ _ h
@[simp] theorem th_setTh (s : State) (t : Thread) : (s.setTh t).th = t := get_put _ _ _ _
@[simp] theorem setTh_cur (s : State) (t : Thread) : (s.setTh t).cur = s.cur := rfl
@[simp] theorem setTh_mem (s : State) (t : Thread) : (s.setTh t).mem = s.mem := rfl
@[simp] theorem setTh_cores (s : State) (t : Thread) : (s.setTh t).cores = s.cores := rfl
@[simp] theorem setTh_ctxs (s : State) (t : Thread) : (s.setTh t).ctxs = s.ctxs := rfl
@[simp] theorem setTh_threads (s : State) (t : Thread) : (s.setTh t).threads = put s.threads s.cur t := rfl
@[simp] theorem th_setCore (s : State) (c : Nat) (k : Core) : (s.setCore c k).th = s.th := rfl
@[simp] theorem th_setCtx (s : State) (a : Nat) (x : Ctx) : (s.setCtx a x).th = s.th := rfl

/-- Writing a key twice. -/
theorem put_put {α : Type} (m : Sparse α) (k : Nat) (v w : α) : put (put m k v) k w = put m k w := by
  induction m with
  | nil => simp [put]
  | cons p r ih =>
    obtain ⟨j, u⟩ := p
    by_cases h1 : k < j
    · simp [put, h1]
    · by_cases h2 : k = j
      · simp [put, h2]
      · simp [put, h1, h2, ih]

@[simp] theorem setThread_setThread (s : State) (u : Nat) (t t' : Thread) :
    (s.setThread u t).setThread u t' = s.setThread u t' := by
  simp [State.setThread, put_put]
@[simp] theorem setTh_setTh (s : State) (t t' : Thread) : (s.setTh t).setTh t' = s.setTh t' := by
  simp [State.setTh]
@[simp] theorem has_setTh (s : State) (t : Thread) : has (s.setTh t).threads s.cur = true := has_put _ _ _

/-- A live thread is changed by a function; one that is not live is not. -/
theorem onThread_live (s : State) (u : Nat) (f : Thread → Thread) (h : has s.threads u = true) :
    s.onThread u f = s.setThread u (f (s.thread u)) := by
  simp [State.onThread, h]

theorem onThread_dead (s : State) (u : Nat) (f : Thread → Thread) (h : has s.threads u = false) : s.onThread u f = s := by
  simp [State.onThread, h]

end Sys2Proof.Machine
end

