-- ==== Sys2Proof/Laws/Issue.lean ====
section
/-! SUPPORT. What issuing can do: a clear native instruction runs its body on the state with the pc moved on; a false
guard only moves the pc; a bytecode runs its body. -/

namespace Sys2Proof.Machine

/-! ### The state with the pc moved on -/

@[simp] theorem advance_cur (s : State) (n : Word) : (s.advance n).cur = s.cur := rfl
@[simp] theorem advance_cores (s : State) (n : Word) : (s.advance n).cores = s.cores := rfl
@[simp] theorem advance_ctxs (s : State) (n : Word) : (s.advance n).ctxs = s.ctxs := rfl
@[simp] theorem advance_mem (s : State) (n : Word) : (s.advance n).mem = s.mem := rfl
@[simp] theorem advance_now (s : State) (n : Word) : (s.advance n).now = s.now := rfl
@[simp] theorem advance_next (s : State) (n : Word) : (s.advance n).next = s.next := rfl
@[simp] theorem advance_part (s : State) (n : Word) : (s.advance n).part = s.part := rfl
@[simp] theorem advance_free (s : State) (n : Word) : (s.advance n).free = s.free := rfl
@[simp] theorem advance_barriers (s : State) (n : Word) : (s.advance n).barriers = s.barriers := rfl
@[simp] theorem advance_accs (s : State) (n : Word) : (s.advance n).accs = s.accs := rfl
@[simp] theorem advance_core (s : State) (n : Word) (c : Nat) : (s.advance n).core c = s.core c := rfl
@[simp] theorem advance_ctx (s : State) (n : Word) (a : Nat) : (s.advance n).ctx a = s.ctx a := rfl
theorem advance_th (s : State) (n : Word) : (s.advance n).th = { s.th with pc := s.th.pc + n } := th_setTh _ _
@[simp] theorem advance_th_pc (s : State) (n : Word) : (s.advance n).th.pc = s.th.pc + n := by rw [advance_th]
@[simp] theorem advance_th_asid (s : State) (n : Word) : (s.advance n).th.asid = s.th.asid := by rw [advance_th]
@[simp] theorem advance_th_thread (s : State) (n : Word) : (s.advance n).th.thread = s.th.thread := by rw [advance_th]
@[simp] theorem advance_th_slot (s : State) (n : Word) : (s.advance n).th.slot = s.th.slot := by rw [advance_th]
@[simp] theorem advance_th_cc (s : State) (n : Word) : (s.advance n).th.cc = s.th.cc := by rw [advance_th]
@[simp] theorem advance_th_place (s : State) (n : Word) : (s.advance n).th.place = s.th.place := by rw [advance_th]
@[simp] theorem advance_th_work (s : State) (n : Word) : (s.advance n).th.work = s.th.work := by rw [advance_th]
@[simp] theorem advance_th_x (s : State) (n : Word) : (s.advance n).th.x = s.th.x := by rw [advance_th]
@[simp] theorem advance_th_preds (s : State) (n : Word) : (s.advance n).th.preds = s.th.preds := by rw [advance_th]
@[simp] theorem advance_th_v (s : State) (n : Word) : (s.advance n).th.v = s.th.v := by rw [advance_th]
@[simp] theorem advance_th_xPoison (s : State) (n : Word) : (s.advance n).th.xPoison = s.th.xPoison := by rw [advance_th]
@[simp] theorem advance_th_pPoison (s : State) (n : Word) : (s.advance n).th.pPoison = s.th.pPoison := by rw [advance_th]
@[simp] theorem advance_th_vPoison (s : State) (n : Word) : (s.advance n).th.vPoison = s.th.vPoison := by rw [advance_th]
@[simp] theorem advance_th_link (s : State) (n : Word) : (s.advance n).th.link = s.th.link := by rw [advance_th]
@[simp] theorem advance_th_spilled (s : State) (n : Word) : (s.advance n).th.spilled = s.th.spilled := by rw [advance_th]
@[simp] theorem advance_th_vshape (s : State) (n : Word) : (s.advance n).th.vshape = s.th.vshape := by rw [advance_th]
@[simp] theorem advance_th_vact (s : State) (n : Word) : (s.advance n).th.vact = s.th.vact := by rw [advance_th]
@[simp] theorem advance_th_flags (s : State) (n : Word) : (s.advance n).th.flags = s.th.flags := by rw [advance_th]
@[simp] theorem advance_th_warn (s : State) (n : Word) : (s.advance n).th.warn = s.th.warn := by rw [advance_th]
@[simp] theorem advance_th_tcause (s : State) (n : Word) : (s.advance n).th.tcause = s.th.tcause := by rw [advance_th]
@[simp] theorem advance_th_taddr (s : State) (n : Word) : (s.advance n).th.taddr = s.th.taddr := by rw [advance_th]
@[simp] theorem advance_th_tpc (s : State) (n : Word) : (s.advance n).th.tpc = s.th.tpc := by rw [advance_th]
@[simp] theorem advance_th_tstat (s : State) (n : Word) : (s.advance n).th.tstat = s.th.tstat := by rw [advance_th]
@[simp] theorem advance_th_tscr (s : State) (n : Word) : (s.advance n).th.tscr = s.th.tscr := by rw [advance_th]
@[simp] theorem advance_th_nomad (s : State) (n : Word) : (s.advance n).th.nomad = s.th.nomad := by rw [advance_th]
@[simp] theorem advance_th_tephra (s : State) (n : Word) : (s.advance n).th.tephra = s.th.tephra := by rw [advance_th]
@[simp] theorem advance_th_guard (s : State) (n : Word) : (s.advance n).th.guard = s.th.guard := by rw [advance_th]
@[simp] theorem advance_th_buf (s : State) (n : Word) : (s.advance n).th.buf = s.th.buf := by rw [advance_th]
@[simp] theorem advance_th_outst (s : State) (n : Word) : (s.advance n).th.outst = s.th.outst := by rw [advance_th]
@[simp] theorem advance_th_park (s : State) (n : Word) : (s.advance n).th.park = s.th.park := by rw [advance_th]
@[simp] theorem advance_th_parkedAt (s : State) (n : Word) : (s.advance n).th.parkedAt = s.th.parkedAt := by rw [advance_th]
@[simp] theorem advance_th_kept (s : State) (n : Word) : (s.advance n).th.kept = s.th.kept := by rw [advance_th]
@[simp] theorem advance_th_mail (s : State) (n : Word) : (s.advance n).th.mail = s.th.mail := by rw [advance_th]
@[simp] theorem advance_th_last (s : State) (n : Word) : (s.advance n).th.last = s.th.last := by rw [advance_th]
@[simp] theorem advance_th_hold (s : State) (n : Word) : (s.advance n).th.hold = s.th.hold := by rw [advance_th]
@[simp] theorem advance_th_cls (s : State) (n : Word) : (s.advance n).th.cls = s.th.cls := by rw [advance_th]
@[simp] theorem advance_th_fences (s : State) (n : Word) : (s.advance n).th.fences = s.th.fences := by rw [advance_th]
@[simp] theorem advance_th_units (s : State) (n : Word) : (s.advance n).th.units = s.th.units := by rw [advance_th]
@[simp] theorem advance_th_held (s : State) (n : Word) : (s.advance n).th.held = s.th.held := by rw [advance_th]
@[simp] theorem advance_th_trace (s : State) (n : Word) : (s.advance n).th.trace = s.th.trace := by rw [advance_th]
@[simp] theorem advance_th_startFault (s : State) (n : Word) : (s.advance n).th.startFault = s.th.startFault := by rw [advance_th]
@[simp] theorem advance_th_core (s : State) (n : Word) : (s.advance n).th.core = s.th.core := by rw [advance_th]; rfl
@[simp] theorem advance_th_exl (s : State) (n : Word) : (s.advance n).th.exl = s.th.exl := by rw [advance_th]; rfl
@[simp] theorem advance_th_isTask (s : State) (n : Word) : (s.advance n).th.isTask = s.th.isTask := by rw [advance_th]; rfl
@[simp] theorem advance_th_isRow (s : State) (n : Word) : (s.advance n).th.isRow = s.th.isRow := by rw [advance_th]; rfl
@[simp] theorem advance_th_inSlot (s : State) (n : Word) : (s.advance n).th.inSlot = s.th.inSlot := by rw [advance_th]; rfl
@[simp] theorem advance_myCore (s : State) (n : Word) : (s.advance n).myCore = s.myCore := by
  unfold State.myCore
  rw [advance_th_core, advance_core]
@[simp] theorem advance_myCtx (s : State) (n : Word) : (s.advance n).myCtx = s.myCtx := by
  unfold State.myCtx
  rw [advance_th_asid, advance_ctx]
@[simp] theorem advance_identity (s : State) (n : Word) : (s.advance n).identity = s.identity := rfl
@[simp] theorem advance_bursts (s : State) (n : Word) : (s.advance n).bursts = s.bursts := rfl
@[simp] theorem advance_releaseIds (s : State) (n : Word) (sc : Nat) : (s.advance n).releaseIds sc = s.releaseIds sc := by
  have h : (s.advance n).coreOf (.thread s.cur) = s.coreOf (.thread s.cur) := by
    have e : (s.advance n).thread s.cur = (s.advance n).th := rfl
    unfold State.coreOf
    simp only [e, advance_th_cc, advance_th_core]
    rfl
  unfold State.releaseIds State.gathered State.newAcc Acc.ahead
  simp only [advance_cur, h]
  rfl
@[simp] theorem advance_inSet (s : State) (n : Word) (a c : Nat) : (s.advance n).inSet a c = s.inSet a c := rfl
@[simp] theorem advance_barrier (s : State) (n : Word) (k : Nat) : (s.advance n).barrier k = s.barrier k := rfl
@[simp] theorem advance_barrierGranted (s : State) (n : Word) (a c k : Nat) :
    (s.advance n).barrierGranted a c k = s.barrierGranted a c k := rfl
@[simp] theorem advance_isMember (s : State) (n : Word) (c a : Nat) : (s.advance n).isMember c a = s.isMember c a := rfl
@[simp] theorem past_eq (s : State) : s.past = s.advance 8 := rfl

@[simp] theorem advance_reg (s : State) (n : Word) (r : Opnd) : (s.advance n).reg r = s.reg r := by
  have h : (s.advance n).thread s.cur = { s.th with pc := s.th.pc + n } := advance_th s n
  unfold State.reg State.regOf
  rw [advance_cur, h]
  rfl

/-- An instruction that does not go on from a park reads its operands where they stand. -/
theorem advance_arg {s : State} (h : s.th.held = none) (n : Word) (r : Opnd) : (s.advance n).arg r = s.reg r := by
  simp [State.arg, h]

@[simp] theorem advance_pred (s : State) (n : Word) (p : BitVec 3) : (s.advance n).pred p = s.pred p := by
  unfold State.pred
  rw [advance_th]
  rfl

@[simp] theorem advance_xr (s : State) (n : Word) (r : Nat) : (s.advance n).xr r = s.xr r := by
  unfold State.xr
  rw [advance_th]
  rfl

@[simp] theorem advance_mode (s : State) (n : Word) (r : BitVec 3) : (s.advance n).mode r = s.mode r := by
  unfold State.mode
  rw [advance_th]

@[simp] theorem advance_here (s : State) : (s.advance 8).here = s.th.pc := by
  unfold State.here
  rw [advance_th]
  show s.th.pc + 8 - 8 = s.th.pc
  exact BitVec.add_sub_cancel _ _

/-! ### Early reads and writes change nothing where nothing is outstanding (R25) -/

theorem readEarly_same (s : State) (l : List Dst) (h : ∀ d ∈ l, s.outstanding d = false) : s.readEarly l = s := by
  induction l with
  | nil => rfl
  | cons d r ih =>
    have hd : s.readOne d = s := by simp [State.readOne, h d (by simp)]
    show State.readEarly (s.readOne d) r = s
    rw [hd]
    exact ih fun e he => h e (by simp [he])

theorem writeEarly_same (s : State) (l : List Dst) (h : ∀ d ∈ l, s.outstanding d = false) : s.writeEarly l = s := by
  induction l with
  | nil => rfl
  | cons d r ih =>
    have hd : s.writeOne d = s := by simp [State.writeOne, h d (by simp)]
    show State.writeEarly (s.writeOne d) r = s
    rw [hd]
    exact ih fun e he => h e (by simp [he])

/-! ### What being clear says -/

/-- Everything that a clear instruction's checks found. -/
theorem clear_cases {s : State} {i : Instr} (h : s.clear i = true) :
    has s.threads s.cur = true ∧ s.decodeChecks i.info = none ∧ s.unitMissing i.info = false ∧
      s.pred i.info.hdr.pg ≠ i.info.hdr.pn ∧ s.holdBack i.info = none ∧
      (∀ d ∈ i.info.sources ++ i.info.writes, s.outstanding d = false) ∧
      (∀ d ∈ i.info.sources, s.poisonedDst d = false) ∧ s.th.held = none ∧ s.th.trace = [] ∧
      (i.info.acts && decide (16 ≤ s.th.outst.length)) = false := by
  simp only [State.clear, State.begins, Bool.and_eq_true, Option.isNone_iff_eq_none, Bool.not_eq_true', bne_iff_ne,
    List.all_eq_true, List.isEmpty_iff] at h
  obtain ⟨⟨⟨⟨⟨⟨⟨⟨⟨h1, h2⟩, h3⟩, h4⟩, h5⟩, h6⟩, h7⟩, h8⟩, h9⟩, h10⟩ := h
  exact ⟨h1, h2, h3, h4, h5, h6, h7, h8, h9, h10⟩

/-- What a body's answer comes to. -/
def Res.outcome (r : Res) (s : State) (i : Instr) : State :=
  match r with
  | .done d => s.ends i d
  | .trap t => s.trapNow t
  | .park q p => s.parkBody q i s.th.pc p

/-- A clear native instruction runs its body once, on the state with the pc moved on. -/
theorem native_clear {s : State} {i : Instr} (body : State → Res) (h : s.clear i = true) :
    native i body s = .next ((body s.past).outcome s i) := by
  obtain ⟨h1, h2, h3, h4, hb, h5, h6, h7, -, h8⟩ := clear_cases h
  have hgo : s.goesOn i = false := by simp [State.goesOn, h7]
  have hg : s.readEarly [.pred i.info.hdr.pg] = s := readEarly_same _ _ fun d hd => h5 d (by
    simp only [List.mem_singleton] at hd
    simp [Info.sources, hd])
  have hr : s.readEarly i.info.reads = s := readEarly_same _ _ fun d hd => h5 d (by simp [Info.sources, hd])
  have hw : s.writeEarly i.info.writes = s := writeEarly_same _ _ fun d hd => h5 d (by simp [hd])
  have hp : s.poisonRead (.pred i.info.hdr.pg) = false := by
    simp [State.poisonRead, h6 (.pred i.info.hdr.pg) (by simp [Info.sources])]
  have hs : i.info.reads.any s.poisonRead = false := by
    rw [List.any_eq_false]
    intro d hd
    simp [State.poisonRead, h6 d (by simp [Info.sources, hd])]
  have hn : (s.pred i.info.hdr.pg = i.info.hdr.pn) = False := eq_false h4
  have ho : (i.info.reads ++ i.info.writes).any s.outstanding = false := by
    rw [List.any_eq_false]
    intro d hd
    have := h5 d (by
      rcases List.mem_append.mp hd with h | h
      · simp [Info.sources, h]
      · simp [h])
    simp [this]
  have hq : s.parksFirst i.info body = none := by simp [State.parksFirst, ho]
  simp only [native, h1, State.issue, h2, hgo, hg, hp, h3, hb, hq, hr, hs, hw, h8, if_true, if_false, Bool.false_eq_true, hn]
  unfold Res.outcome State.past
  cases body (s.advance 8) <;> rfl

/-- The three answers of a body, one lemma each. -/
theorem native_done {s d : State} {i : Instr} {body : State → Res} (h : s.clear i = true) (hb : body s.past = .done d) :
    native i body s = .next (s.ends i d) := by
  rw [native_clear body h, hb]
  rfl

theorem native_trap {s : State} {t : Trap} {i : Instr} {body : State → Res} (h : s.clear i = true)
    (hb : body s.past = .trap t) : native i body s = .next (s.trapNow t) := by
  rw [native_clear body h, hb]
  rfl

theorem native_park {s q : State} {p : Park} {i : Instr} {body : State → Res} (h : s.clear i = true)
    (hb : body s.past = .park q p) : native i body s = .next (s.parkBody q i s.th.pc p) := by
  rw [native_clear body h, hb]
  rfl

/-- An instruction whose guard is false only moves the pc and is counted (R131, R408). -/
theorem native_guard {s : State} {i : Instr} (body : State → Res) (h1 : has s.threads s.cur = true)
    (h2 : s.decodeChecks i.info = none) (h3 : s.outstanding (.pred i.info.hdr.pg) = false)
    (h4 : s.poisonedDst (.pred i.info.hdr.pg) = false) (h5 : s.pred i.info.hdr.pg = i.info.hdr.pn)
    (h6 : s.goesOn i = false) :
    native i body s = .next ((s.past.counted s.th.cc s.th.asid).finish s.th.pc i.info.hdr.sw false) := by
  have hg : s.readEarly [.pred i.info.hdr.pg] = s := readEarly_same _ _ fun d hd => by
    rw [List.mem_singleton.mp hd]
    exact h3
  simp only [native, h1, State.issue, h2, h6, hg, State.poisonRead, h4, h5, if_true, Bool.false_and, if_false,
    Bool.false_eq_true]
  rfl

/-- A native instruction always answers a next state when a thread issues it. -/
theorem native_next {s : State} (i : Instr) (body : State → Res) (h : has s.threads s.cur = true) :
    ∃ t, native i body s = .next t := ⟨_, by rw [native, if_pos h]⟩

/-! ### Bytecodes -/

/-- The head of `bursts` stands while a body runs. -/
theorem burst_spent {s : State} {n : Nat} (h : s.bursts.head? = some n) : s.spent.burst n = s := by
  obtain ⟨r, hr⟩ : ∃ r, s.bursts = n :: r := by
    cases hb : s.bursts with
    | nil => simp [hb] at h
    | cons a r => exact ⟨r, by simp_all⟩
  cases s
  simp_all [State.spent, State.burst]

/-- What being clear says of a bytecode. -/
theorem bcClear_cases {s : State} (h : s.bcClear = true) :
    has s.threads s.cur = true ∧ s.drained s.cur = true ∧ s.th.trace = [] ∧ s.bursts.head? = some 0 := by
  simp only [State.bcClear, Bool.and_eq_true, List.isEmpty_iff, beq_iff_eq] at h
  exact ⟨h.1.1.1, h.1.1.2, h.1.2, h.2⟩

/-- The results of a thread that has drained have returned. -/
theorem outst_empty {s : State} (h : s.drained s.cur = true) : s.th.outst.isEmpty = true := by
  simp only [State.drained, Bool.and_eq_true] at h
  exact h.1

/-- A clear bytecode whose body succeeds. -/
theorem bytecode_ok {s d : State} {i : Instr} {body : TM Unit} (h : s.bcClear = true)
    (hb : body (s.advance (codeBytes i)) = .ok ((), d)) : bytecode i body s = .next (s.bcEnds d) := by
  obtain ⟨h1, h2, -, h4⟩ := bcClear_cases h
  have ho := outst_empty h2
  have hn : s.nextBurst = 0 := by
    unfold State.nextBurst
    cases hb : s.bursts with
    | nil => simp [hb] at h4
    | cons a r => simpa [hb] using h4
  simp only [bytecode, h1, ho, Bool.not_true, Bool.false_eq_true, if_false, hn, tRun, burst_spent h4]
  rw [hb]
  rfl

/-- The stop is no pause at an access that is still to be made or performed. -/
def Stop.final : Stop → Bool
  | .wait => false
  | .next _ _ => false
  | _ => true

/-- A clear bytecode whose body stops: it traps, parks or enters the guard path at its own pc. -/
theorem bytecode_stop {s : State} {i : Instr} {body : TM Unit} {n : Word} {e : Stop} (h : s.bcClear = true)
    (hi : codeBytes i = n) (hb : body (s.advance n) = .error e) (he : e.final = true) :
    bytecode i body s = .next (e.outcome s.spent) := by
  obtain ⟨h1, h2, -, h4⟩ := bcClear_cases h
  have ho := outst_empty h2
  have hn : s.nextBurst = 0 := by
    unfold State.nextBurst
    cases hb : s.bursts with
    | nil => simp [hb] at h4
    | cons a r => simpa [hb] using h4
  simp only [bytecode, h1, ho, Bool.not_true, Bool.false_eq_true, if_false, hn, tRun, burst_spent h4, hi]
  rw [hb]
  cases e <;> first | rfl | cases he

/-- A bytecode waits for the results of its thread (R283). -/
theorem bytecode_waits {s : State} (i : Instr) (body : TM Unit) (h1 : has s.threads s.cur = true)
    (h2 : s.th.outst.isEmpty = false) : bytecode i body s = .next (s.parkAt s.th.pc .drain) := by
  simp [bytecode, h1, h2]

end Sys2Proof.Machine
end

