-- ==== Sys2Proof/Laws/Memory.lean ====
section
/-! SUPPORT. Memory: every operation that writes it keeps the canonical form, a read after a write of the same bytes gives
what was written, and every other byte stays. -/

namespace Sys2Proof.Machine

variable {α : Type} [DecidableEq α]

/-! ### The canonical form of sorted lists -/

theorem wfFrom_mono {d : α} {m : Sparse α} {lo hi : Nat} (h : wfFrom d hi m = true) (hl : lo ≤ hi) :
    wfFrom d lo m = true := by
  cases m with
  | nil => rfl
  | cons c r =>
    obtain ⟨k, v⟩ := c
    simp only [wfFrom, Bool.and_eq_true, decide_eq_true_eq] at h ⊢
    exact ⟨⟨by omega, h.1.2⟩, h.2⟩

theorem wfFrom_put {d : α} {m : Sparse α} {lo k : Nat} {v : α} (h : wfFrom d lo m = true) (hk : lo ≤ k) (hv : v ≠ d) :
    wfFrom d lo (put m k v) = true := by
  induction m generalizing lo with
  | nil => simp [put, wfFrom, hk, hv]
  | cons c r ih =>
    obtain ⟨j, u⟩ := c
    simp only [wfFrom, Bool.and_eq_true, decide_eq_true_eq] at h
    simp only [put]
    split
    · next hlt =>
      simp only [wfFrom, Bool.and_eq_true, decide_eq_true_eq, bne_iff_ne]
      exact ⟨⟨hk, hv⟩, ⟨by omega, by simpa using h.1.2⟩, h.2⟩
    · split
      · next heq =>
        subst heq
        simp only [wfFrom, Bool.and_eq_true, decide_eq_true_eq, bne_iff_ne]
        exact ⟨⟨hk, hv⟩, h.2⟩
      · simp only [wfFrom, Bool.and_eq_true, decide_eq_true_eq]
        exact ⟨⟨h.1.1, h.1.2⟩, ih h.2 (by omega)⟩

theorem wfFrom_del {d : α} {m : Sparse α} {lo : Nat} (k : Nat) (h : wfFrom d lo m = true) :
    wfFrom d lo (del m k) = true := by
  induction m generalizing lo with
  | nil => rfl
  | cons c r ih =>
    obtain ⟨j, u⟩ := c
    simp only [wfFrom, Bool.and_eq_true, decide_eq_true_eq] at h
    simp only [del]
    split
    · exact wfFrom_mono (ih h.2) (by omega)
    · simp only [wfFrom, Bool.and_eq_true, decide_eq_true_eq]
      exact ⟨h.1, ih h.2⟩

theorem wfFrom_set {d : α} {m : Sparse α} {k : Nat} (v : α) (h : wfFrom d 0 m = true) : wfFrom d 0 (set d m k v) = true := by
  unfold set
  split
  · exact wfFrom_del k h
  · exact wfFrom_put h (Nat.zero_le _) (by assumption)

theorem wfFrom_filter {d : α} {m : Sparse α} {lo : Nat} (p : Nat × α → Bool) (h : wfFrom d lo m = true) :
    wfFrom d lo (m.filter p) = true := by
  induction m generalizing lo with
  | nil => rfl
  | cons c r ih =>
    obtain ⟨j, u⟩ := c
    simp only [wfFrom, Bool.and_eq_true, decide_eq_true_eq] at h
    rw [List.filter_cons]
    split
    · simp only [wfFrom, Bool.and_eq_true, decide_eq_true_eq]
      exact ⟨h.1, ih h.2⟩
    · exact wfFrom_mono (ih h.2) (by omega)

/-! ### Memory -/

theorem setBytes_wf {m : List Host.Cell} (pa : Nat) (bs : List Byte) (h : Memory.wf m = true) :
    Memory.wf (setBytes m pa bs) = true := by
  induction bs generalizing m pa with
  | nil => exact h
  | cons b r ih => exact ih (pa + 1) (wfFrom_set b h)

theorem get_setBytes_out {m : List Host.Cell} {pa a : Nat} (bs : List Byte) (h : a < pa ∨ pa + bs.length ≤ a) :
    get Memory.unlisted (setBytes m pa bs) a = get Memory.unlisted m a := by
  induction bs generalizing m pa with
  | nil => rfl
  | cons b r ih =>
    simp only [List.length_cons] at h
    rw [setBytes, ih (by omega), get_set_ne _ _ _ (by omega)]

theorem get_setBytes_in {m : List Host.Cell} {pa i : Nat} (bs : List Byte) (h : i < bs.length) :
    get Memory.unlisted (setBytes m pa bs) (pa + i) = bs[i] := by
  induction bs generalizing m pa i with
  | nil => simp at h
  | cons b r ih =>
    cases i with
    | zero => rw [setBytes, get_setBytes_out _ (by omega)]; simp
    | succ i =>
      simp only [List.length_cons] at h
      have := ih (m := set Memory.unlisted m pa b) (pa := pa + 1) (i := i) (by omega)
      rw [setBytes, show pa + (i + 1) = pa + 1 + i by omega, this]
      rfl

/-- Memory lists nothing at reset, which is canonical. -/
theorem reset_wf : State.reset.wf = true := rfl

theorem setByte_wf {s : State} (pa : Nat) (b : Byte) (h : s.wf = true) : (s.setByte pa b).wf = true := wfFrom_set b h

theorem storeBytes_wf {s : State} (pa : Nat) (bs : List Byte) (h : s.wf = true) : (s.storeBytes pa bs).wf = true :=
  setBytes_wf pa bs h

theorem scrub_wf {s : State} (pa n : Nat) (h : s.wf = true) : (s.scrub pa n).wf = true := wfFrom_filter _ h

theorem placeBytes_wf {s : State} (pa : Nat) (bs : List Byte) (h : s.wf = true) : (s.placeBytes pa bs).wf = true :=
  setBytes_wf pa bs h

@[simp] theorem dirty_mem (s : State) (pa n : Nat) : (s.dirty pa n).mem = s.mem := by unfold State.dirty; split <;> rfl

@[simp] theorem setFull_mem (s : State) (pa : Nat) (f : Bool) : (s.setFull pa f).mem = s.mem := dirty_mem s pa 8

theorem setFull_wf {s : State} (pa : Nat) (f : Bool) (h : s.wf = true) : (s.setFull pa f).wf = true := by
  unfold State.wf at h ⊢; rwa [setFull_mem]

theorem dropLine_wf {s : State} (l : Nat) (old : Held) (h : s.wf = true) : (s.dropLine l old).wf = true := by
  unfold State.dropLine
  dsimp only
  split
  · exact h
  · exact setBytes_wf _ _ h

theorem afterReset_wf {s : State} (h : s.wf = true) : s.afterReset.wf = true := h

/-! ### Reading after writing -/

theorem storeBytes_byte_in {s : State} {pa i : Nat} (bs : List Byte) (h : i < bs.length) :
    (s.storeBytes pa bs).byte (pa + i) = bs[i] := get_setBytes_in bs h

theorem storeBytes_byte_out {s : State} {pa a : Nat} (bs : List Byte) (h : a < pa ∨ pa + bs.length ≤ a) :
    (s.storeBytes pa bs).byte a = s.byte a := by
  change get Memory.unlisted (setBytes s.mem pa bs) a = _
  exact get_setBytes_out bs h

theorem bytes_length (s : State) (pa n : Nat) : (s.bytes pa n).length = n := by
  induction n generalizing pa with
  | zero => rfl
  | succ n ih => simp [State.bytes, ih]

theorem bytes_getElem (s : State) (pa n i : Nat) (h : i < (s.bytes pa n).length) : (s.bytes pa n)[i] = s.byte (pa + i) := by
  induction n generalizing pa i with
  | zero => simp [State.bytes] at h
  | succ n ih =>
    cases i with
    | zero => rfl
    | succ i =>
      simp only [State.bytes, List.getElem_cons_succ]
      rw [ih, show pa + 1 + i = pa + (i + 1) by omega]

/-- A read of what was just stored gives the stored bytes. -/
theorem storeBytes_bytes (s : State) (pa : Nat) (bs : List Byte) : (s.storeBytes pa bs).bytes pa bs.length = bs := by
  apply List.ext_getElem (bytes_length _ _ _)
  intro i h1 h2
  rw [bytes_getElem, storeBytes_byte_in bs h2]

theorem storeBytes_threads (s : State) (pa : Nat) (bs : List Byte) : (s.storeBytes pa bs).threads = s.threads := by
  simp only [State.storeBytes, State.dirty]; split <;> rfl

theorem bytes_congr {s t : State} (pa n : Nat) (h : ∀ a, pa ≤ a → a < pa + n → t.byte a = s.byte a) :
    t.bytes pa n = s.bytes pa n := by
  induction n generalizing pa with
  | zero => rfl
  | succ n ih =>
    simp only [State.bytes]
    rw [h pa (by omega) (by omega), ih (pa + 1) (fun a h1 h2 => h a (by omega) (by omega))]

end Sys2Proof.Machine
end

