-- ==== Sys2Proof/Laws/Access.lean ====
section
/-! SUPPORT. What the shared operations do: loops over changes, changes of one thread, remembering a translation, an access
that goes out, a wait for a context, and a trap that arises. -/

namespace Sys2Proof.Machine

/-! ### Loops and changes of one part -/

/-- What every application keeps, the whole loop keeps. -/
theorem forEach_keeps {α β : Type} {f : α → β → β} {P : β → Prop} (hf : ∀ a b, P b → P (f a b)) (l : List α) {b : β} (hb : P b) :
    P (forEach f l b) := by
  induction l generalizing b with
  | nil => exact hb
  | cons a r ih => exact ih (hf a b hb)

/-- A reader that every application leaves alone, the whole loop leaves alone. -/
theorem forEach_reads {α β γ : Type} {f : α → β → β} (g : β → γ) (hf : ∀ a b, g (f a b) = g b) (l : List α) (b : β) :
    g (forEach f l b) = g b :=
  forEach_keeps (P := fun x => g x = g b) (fun a x h => (hf a x).trans h) l rfl

/-- A change of one thread is a change of the threads alone. -/
theorem onThread_cases (s : State) (u : Nat) (f : Thread → Thread) : ∃ l, s.onThread u f = { s with threads := l } := by
  unfold State.onThread
  split
  · exact ⟨_, rfl⟩
  · exact ⟨s.threads, rfl⟩

/-! ### Translations that are remembered -/

theorem walked_cases (s : State) (l : List (Nat × Word)) : ∃ c n, s.walked l = { s with counts := c, next := n } := by
  refine forEach_keeps (P := fun q => ∃ c n, q = { s with counts := c, next := n }) ?_ l ⟨s.counts, s.next, rfl⟩
  rintro a _ ⟨c, n, rfl⟩
  exact ⟨_, _, rfl⟩

/-- Remembering a translation counts the nodes that it read and caches it: nothing else changes (R377, R406). -/
theorem remember_cases (s : State) (w : Who) (va : Word) (k : Nat) (t : Tr) :
    ∃ c n b, s.remember w va k t = { s with counts := c, next := n, tlb := b } := by
  unfold State.remember
  split
  · exact ⟨s.counts, s.next, s.tlb, rfl⟩
  · obtain ⟨c, n, h⟩ := walked_cases s t.via
    rw [h]
    unfold State.cacheTr
    split
    · exact ⟨c, n, s.tlb, rfl⟩
    · exact ⟨c, n, _, rfl⟩

@[simp] theorem remember_threads (s : State) (w : Who) (va : Word) (k : Nat) (t : Tr) :
    (s.remember w va k t).threads = s.threads := by obtain ⟨c, n, b, h⟩ := remember_cases s w va k t; rw [h]
@[simp] theorem remember_cur (s : State) (w : Who) (va : Word) (k : Nat) (t : Tr) :
    (s.remember w va k t).cur = s.cur := by obtain ⟨c, n, b, h⟩ := remember_cases s w va k t; rw [h]
@[simp] theorem remember_bursts (s : State) (w : Who) (va : Word) (k : Nat) (t : Tr) :
    (s.remember w va k t).bursts = s.bursts := by obtain ⟨c, n, b, h⟩ := remember_cases s w va k t; rw [h]
@[simp] theorem remember_mem (s : State) (w : Who) (va : Word) (k : Nat) (t : Tr) :
    (s.remember w va k t).mem = s.mem := by obtain ⟨c, n, b, h⟩ := remember_cases s w va k t; rw [h]
@[simp] theorem remember_accs (s : State) (w : Who) (va : Word) (k : Nat) (t : Tr) :
    (s.remember w va k t).accs = s.accs := by obtain ⟨c, n, b, h⟩ := remember_cases s w va k t; rw [h]
@[simp] theorem remember_cores (s : State) (w : Who) (va : Word) (k : Nat) (t : Tr) :
    (s.remember w va k t).cores = s.cores := by obtain ⟨c, n, b, h⟩ := remember_cases s w va k t; rw [h]
@[simp] theorem remember_ctxs (s : State) (w : Who) (va : Word) (k : Nat) (t : Tr) :
    (s.remember w va k t).ctxs = s.ctxs := by obtain ⟨c, n, b, h⟩ := remember_cases s w va k t; rw [h]
@[simp] theorem remember_th (s : State) (w : Who) (va : Word) (k : Nat) (t : Tr) :
    (s.remember w va k t).th = s.th := by obtain ⟨c, n, b, h⟩ := remember_cases s w va k t; rw [h]; rfl
@[simp] theorem remember_reg (s : State) (w : Who) (va : Word) (k : Nat) (t : Tr) (r : Opnd) :
    (s.remember w va k t).reg r = s.reg r := by obtain ⟨c, n, b, h⟩ := remember_cases s w va k t; rw [h]; rfl
@[simp] theorem remember_pred (s : State) (w : Who) (va : Word) (k : Nat) (t : Tr) (p : BitVec 3) :
    (s.remember w va k t).pred p = s.pred p := by obtain ⟨c, n, b, h⟩ := remember_cases s w va k t; rw [h]; rfl
@[simp] theorem remember_kindOf (s : State) (w : Who) (va : Word) (k : Nat) (t : Tr) (a : Nat) :
    (s.remember w va k t).kindOf a = s.kindOf a := by obtain ⟨c, n, b, h⟩ := remember_cases s w va k t; rw [h]; rfl
@[simp] theorem remember_homeOf (s : State) (w : Who) (va : Word) (k : Nat) (t : Tr) (a : Nat) (x : Word) :
    (s.remember w va k t).homeOf a x = s.homeOf a x := by obtain ⟨c, n, b, h⟩ := remember_cases s w va k t; rw [h]; rfl

/-! ### Accesses -/

/-- An access that goes out continues with its translation. -/
theorem memory_goes {p : State} {l st pl : Bool} {va : Word} {n k : Nat} {t : Tr} (h : p.goesOut l st pl va n k t)
    (go : State → Tr → Res) : p.memory l st pl va n k go = go (p.remember p.who va k t) t := by
  obtain ⟨h1, hw, h2, h3, h4⟩ := h
  have hm : p.moves (p.homeOf t.pa t.attr) = none := by simp only [State.moves, h4]
  simp [State.memory, h1, hw, h2, h3, hm]

/-- An access whose check fails is its trap. -/
theorem memory_traps {p : State} {l st pl : Bool} {va : Word} {n k : Nat} {tr : Trap} (h : p.fenced l st = [])
    (hw : p.walkAfter va k = []) (hc : p.check p.who va n k = .error tr) (go : State → Tr → Res) :
    p.memory l st pl va n k go = .trap tr := by
  simp [State.memory, h, hw, hc]

/-- A synchronisation access that goes out and whose address may be synchronised on continues with its translation. -/
theorem word8_goes {p : State} {fe mon : Bool} {va : Word} {k : Nat} {t : Tr} (h : p.goesOut true true false va 8 k t)
    (hf : fe = true → farKind (p.kindOf t.pa) = false)
    (hm : mon = true → ¬(p.kindOf t.pa = some .cxl ∨ p.kindOf t.pa = some .peer)) (go : State → Tr → Res) :
    p.word8 fe mon va k go = go (p.remember p.who va k t) t := by
  unfold State.word8
  rw [memory_goes h]
  have e1 : (fe && farKind (p.kindOf t.pa)) = false := by cases fe <;> simp_all
  have e2 : (mon && (p.kindOf t.pa == some .cxl || p.kindOf t.pa == some .peer)) = false := by cases mon <;> simp_all
  simp only [remember_kindOf, e1, e2, Bool.false_eq_true, if_false]

/-- A new result changes the issuing thread alone, and takes a name. -/
theorem openOut_cases (s : State) (dsts : List Dst) (fin : Fin) (need : Nat) :
    ∃ l, s.openOut dsts fin need = { s with threads := l, next := s.next + 1 } := by
  exact ⟨_, rfl⟩

/-! ### Contexts -/

/-- A context instruction whose turn it is acts at once and leaves the line. -/
theorem turn_goes {s q : State} {a : Nat} {go : State → Res} (h : s.turnFree a) (hg : go (s.inTurn a) = .done q) :
    s.turn a go = .done (q.unkept.leaveLines s.cur) := by
  obtain ⟨h1, h2⟩ := h
  unfold State.turn State.released
  simp only [h1, h2]
  simp
  have e : (s.onCtx a fun c => { c with line := [s.cur] }) = s.inTurn a := rfl
  rw [e, hg]
  have c : (s.inTurn a).cur = s.cur := rfl
  simp [c]

/-! ### Ends of an instruction -/

/-- A native instruction completes with what its body leaves, when it goes on from no park. -/
theorem completes_of_done {i : Instr} {body : State → Res} {s d : State} (he : exec i s = native i body s)
    (hf : s.th.held = none → body s.past = .done d) : Completes i s d := fun h => by
  rw [he, native_done h (hf (clear_cases h).2.2.2.2.2.2.2.1)]

/-- A native instruction whose body traps takes the trap. -/
theorem traps_of_trap {i : Instr} {body : State → Res} {s : State} {t : Trap} (he : exec i s = native i body s)
    (hf : s.th.held = none → body s.past = .trap t) (h : s.clear i = true) : exec i s = .next (s.trapNow t) := by
  rw [he, native_trap h (hf (clear_cases h).2.2.2.2.2.2.2.1)]

/-- A trap of a drained thread is taken, in one of three ways (R336, R337, R360); any other waits for the drain (R26). -/
theorem raise_cases (s : State) (u : Nat) (tr : Trap) (precise : Bool) :
    let pc := (s.thread u).pc
    (s.drained u = true ∧ s.takesLocally u tr = true ∧ (s.thread u).cc = true ∧
        s.raise u tr precise = s.enterControl u tr precise pc) ∨
      (s.drained u = true ∧ s.takesLocally u tr = true ∧ (s.thread u).cc = false ∧
        s.raise u tr precise = s.enterLocal u tr precise pc) ∨
      (s.drained u = true ∧ s.takesLocally u tr = false ∧ s.raise u tr precise = s.reflect u tr precise pc) ∨
      (s.drained u = false ∧
        s.raise u tr precise = s.onThread u fun t => { t with park := .trap tr precise, parkedAt := s.now }) := by
  simp only [State.raise, State.takeTrap]
  cases s.drained u <;> cases s.takesLocally u tr <;> cases (s.thread u).cc <;> simp

end Sys2Proof.Machine
end

