-- ==== Sys2Proof/Laws/Bytecode.lean ====
section
/-! SUPPORT. Running a bytecode's body one action after the other, and what a bytecode answers for each way its body can
end. -/

namespace Sys2Proof.Machine

/-! ### Sequences of actions -/

theorem bind_ok {α β : Type} {m : TM α} {s q : State} {v : α} (h : m s = .ok (v, q)) (f : α → TM β) :
    (m >>= f) s = f v q := by
  show (StateT.bind m f) s = _
  unfold StateT.bind
  rw [h]
  rfl

theorem bind_error {α β : Type} {m : TM α} {s : State} {e : Stop} (h : m s = .error e) (f : α → TM β) :
    (m >>= f) s = .error e := by
  show (StateT.bind m f) s = _
  unfold StateT.bind
  rw [h]
  rfl

theorem tPc_bind {β : Type} (f : Word → TM β) (s : State) : (tPc >>= f) s = f s.th.pc s := rfl
theorem tGet_bind {β : Type} (f : State → TM β) (s : State) : (tGet >>= f) s = f s s := rfl

/-- A private register that is not poisoned. -/
theorem tX_bind {β : Type} {s : State} {n : Nat} (h : s.th.xPoison.contains n = false) (f : Word → TM β) :
    (tX n >>= f) s = f (s.xr n) s := bind_ok (by simp only [tX, h]; rfl) f

/-- The address of a frame register. -/
theorem tFrameAt_bind {β : Type} {s : State} (h : s.th.xPoison.contains 28 = false) (n : Nat) (f : Word → TM β) :
    (tFrameAt n >>= f) s = f (s.xr 28 + word (8 * n)) s := bind_ok (by
  unfold tFrameAt
  rw [tX_bind h]
  rfl) f

/-- A value with one of the layouts of R261 is examined without effect. -/
theorem tExamine_bind {β : Type} {v : Word} (h : valueOk v = true) (f : Unit → TM β) (s : State) :
    (tExamine v >>= f) s = f () s := by
  unfold tExamine
  rw [if_pos h]
  rfl

theorem mkInt_toNat_mod (n : Int) : (mkInt n).toNat % 8 = 0 := by
  unfold mkInt
  rw [BitVec.toNat_ofInt]
  omega

theorem tagOf_mkInt (n : Int) : tagOf (mkInt n) = 0 := by
  have h := mkInt_toNat_mod n
  simpa [tagOf, bits, Nat.shiftRight_eq_div_pow] using h

/-- A small integer holds the number that it was made from. -/
theorem smallOf_mkInt {n : Int} (h : intFits n = true) : smallOf (mkInt n) = n := by
  simp only [intFits, Bool.and_eq_true, decide_eq_true_eq] at h
  have e : (BitVec.ofInt 64 (n * 8)).toInt = n * 8 := by
    rw [BitVec.toInt_ofInt, Int.bmod_eq_of_le (by omega) (by omega)]
  unfold smallOf mkInt
  rw [BitVec.toInt_sshiftRight, e, Int.shiftRight_eq_div_pow]
  omega

theorem tInt_bind {β : Type} {n : Int} (h : intFits n = true) (f : Int → TM β) (s : State) :
    (tInt (mkInt n) >>= f) s = f n s := by
  unfold tInt
  rw [if_pos (tagOf_mkInt n), smallOf_mkInt h]
  rfl

/-! ### Accesses that are made at once -/

/-- An access that can be performed in this instant is, while a bytecode makes all of its accesses in one. -/
theorem make_once {s : State} {va : Word} {t : Tr} {n k : Nat} {op : AccOp} {m : Manner} (hb : s.bursts.head? = some 0) :
    let hm := s.homeOf t.pa t.attr
    let r := s.remember s.who va k t
    let q := r.bump.rehome hm t.pa n
    let a := r.newAcc (.thread s.cur) s.th.asid 0 0 hm va t.pa n op
    r.atOnce hm t.pa n op (m == .ordered) = true → s.make va t n k op m = (q.perform a, some (match op with
      | .store _ => ([], false)
      | _ => (q.loadBytes a, q.isPoisoned t.pa n))) := by
  intro hm r q a h
  change (s.remember s.who va k t).atOnce (s.homeOf t.pa t.attr) t.pa n op (m == .ordered) = true at h
  unfold State.make
  simp only [h, remember_bursts, hb, remember_cur, remember_th, Option.some.injEq, OfNat.zero_ne_ofNat, false_and, if_false,
    or_true, if_true]
  cases op <;> rfl

/-- An access that is made at once answers its bytes. -/
theorem tAccess_made {s q : State} {va : Word} {t : Tr} {n k : Nat} {op : AccOp} {m : Manner} {bs : List Byte}
    (ht : s.th.trace = []) (hb : s.bursts.head? = some 0) (hw : s.beforeReach va k op = []) (hr : s.reach va n k op = .ok t)
    (hm : s.make va t n k op m = (q, some (bs, false))) : tAccess va n k op m s = .ok (bs, q) := by
  have h : s.makes = true := by simp [State.makes, hb]
  unfold tAccess tLive
  simp only [ht, hw, hr, h, if_true, hm]
  rfl

/-- Nothing holds an access back where its thread has no fence and no pending access and no reservation is held (R171, R377). -/
theorem beforeReach_nil {s : State} (va : Word) (k : Nat) (op : AccOp) (hf : s.th.fences = [])
    (hp : s.pending (.thread s.cur) = []) (hv : s.resv = []) : s.beforeReach va k op = [] := by
  simp [State.beforeReach, State.fenced, State.walkAfter, State.nodesHeld, hf, hp, hv]

theorem toBytes_length (n v : Nat) : (toBytes n v).length = n := by
  induction n generalizing v with
  | zero => rfl
  | succ n ih => simp [toBytes, ih]

/-- Bytes and numbers, least significant byte first (R2). -/
theorem fromBytes_toBytes (n v : Nat) : fromBytes (toBytes n v) = v % 256 ^ n := by
  induction n generalizing v with
  | zero => simp [toBytes, fromBytes, Nat.mod_one]
  | succ n ih =>
    show (BitVec.ofNat 8 v).toNat + 256 * fromBytes (toBytes n (v / 256)) = _
    rw [ih, BitVec.toNat_ofNat, show (2 : Nat) ^ 8 = 256 from rfl, Nat.pow_succ', Nat.mod_mul]

/-- A heap slot is written after RC of its new value rises, where all accesses are made at once. -/
theorem tSlotFirst_once {s : State} (ht : s.th.trace = []) (hb : s.bursts.head? = some 0) : tSlotFirst s = .ok (false, s) := by
  unfold tSlotFirst tLive
  refine (bind_ok (v := [0]) (q := s) ?_ _).trans rfl
  have h : s.makes = true := by simp [State.makes, hb]
  simp only [ht, h, if_true, hb]
  rfl

/-- The arena's address is found without effect. -/
theorem tArena_once {s : State} (ht : s.th.trace = []) (hb : s.bursts.head? = some 0) :
    tArena s = .ok (s.myCtx.arena &&& ~~~0x3F, s) := by
  unfold tArena tLive
  refine (bind_ok (v := toBytes 8 (s.myCtx.arena &&& ~~~0x3F).toNat) (q := s) ?_ _).trans ?_
  · have h : s.makes = true := by simp [State.makes, hb]
    simp only [ht, h, if_true]; rfl
  · show Except.ok (_, s) = _
    rw [fromBytes_toBytes, Nat.mod_eq_of_lt (Nat.lt_of_lt_of_eq (BitVec.isLt _) (by decide)), BitVec.ofNat_toNat, BitVec.setWidth_eq]

/-! ### What a clear bytecode answers -/

/-- A bytecode of one word whose body succeeds, and one of two words. -/
theorem bytecode_ok4 {s d : State} {i : Instr} {body : TM Unit} (h : s.bcClear = true) (hi : codeBytes i = 4)
    (hb : body (s.advance 4) = .ok ((), d)) : bytecode i body s = .next (s.bcEnds d) := bytecode_ok h (by rw [hi, hb])
theorem bytecode_ok8 {s d : State} {i : Instr} {body : TM Unit} (h : s.bcClear = true) (hi : codeBytes i = 8)
    (hb : body (s.advance 8) = .ok ((), d)) : bytecode i body s = .next (s.bcEnds d) := bytecode_ok h (by rw [hi, hb])

end Sys2Proof.Machine
end

