-- ==== Sys2Proof/Tests/Slice0.lean ====
section
/-! SUPPORT. Tests of the model's own: ill-formed instructions that are refused, words written out from the encodings of the spec,
single steps with results worked out from the spec, and for each statement states that meet its hypotheses. -/

namespace Sys2Proof.Tests

set_option Elab.async false

open Sys2Proof Sys2Proof.Machine

/-! ### Small states -/

/-- A page table that maps 16 GiB of the root (R374): a top node at 0x10000, one entry at 0x11000. -/
def mapped (s : State) : State :=
  ((s.placeBytes 0x10000 (toBytes 8 0x11001)).placeBytes 0x11000 (toBytes 8 0xF)).onCtx 0 fun c => { c with ptroot := 0x10001 }

/-- One thread that issues. -/
def base (t : Thread) : State := mapped { State.reset with threads := [(1, t)], cur := 1, next := 2 }

/-- A thread with registers set. -/
def regs (t : Thread) (l : List (Nat × Word)) : Thread := l.foldl (fun t r => t.setX r.1 r.2) t

/-- A supervisor thread of the root on barrel core 0. -/
def sup (l : List (Nat × Word)) : State := base (regs placedNative l)

/-- A user thread of the root. -/
def usr (l : List (Nat × Word)) : State := base { regs placedNative l with tstat := 0 }

/-- A supervisor thread of the root on control core 0, in native mode. -/
def ctl (l : List (Nat × Word)) : State := base { regs placedTephra l with tephra := false }

/-- The same in Tephra mode, with frame registers. -/
def byt (l : List (Nat × Word)) (f : List (Nat × Word)) : State :=
  f.foldl (fun s r => s.placeBytes (0x30000 + 8 * r.1) (toBytes 8 r.2.toNat)) { base (regs placedTephra l) with bursts := [0] }

/-- Change the thread that issues. -/
def onTh (s : State) (f : Thread → Thread) : State := s.onThread s.cur f

/-- The state after an instruction. -/
def run (i : Instr) (s : State) : State :=
  match exec i s with
  | .next t => t
  | .fault _ => s
  | .refused _ => s

/-- The state after one step. -/
def stepped (s : State) : State :=
  match step s with
  | .next t => t
  | .fault _ => s
  | .refused _ => s

def good {ε α : Type} (e : Except ε α) : Bool :=
  match e with
  | .ok _ => true
  | .error _ => false

/-- The trap code and address of a check that fails. -/
def trapOf {α : Type} (e : Except Trap α) : Nat × Word :=
  match e with
  | .ok _ => (0, 0)
  | .error t => (t.cause.code, t.addr)

/-- The conditions of an access that goes out. -/
def goes (s : State) (loads stores plain : Bool) (va : Word) (size k : Nat) : Bool :=
  s.fenced loads stores == [] && s.walkAfter va k == [] && match s.check s.who va size k with
    | .ok t => !s.csrBad t.pa size plain && (s.movesTo (s.homeOf t.pa t.attr)).isNone
    | .error _ => false

theorem goes_out {s : State} {l st pl : Bool} {va : Word} {n k : Nat} (h : goes s l st pl va n k = true) :
    ∃ t, s.goesOut l st pl va n k t := by
  unfold goes at h
  split at h
  · next t ht =>
    simp only [Bool.and_eq_true, beq_iff_eq, Bool.not_eq_true', Option.isNone_iff_eq_none] at h
    exact ⟨t, h.1.1, h.1.2, ht, h.2.1, h.2.2⟩
  · simp at h

def hd : Hdr := ⟨false, 0, false⟩
def x (n : BitVec 6) : Opnd := ⟨false, n⟩
def y (n : BitVec 6) : Opnd := ⟨true, n⟩
def m0 : M0 := ⟨0, false, false, 0⟩
def m4 : M4 := ⟨3, 0, 0, 0, false, 0⟩
def m5 : M5 := ⟨0, false, 0, 0⟩
def m6 : M6 := ⟨0, 0, false, 0, 0, 0, false⟩
def m7 : M7 := ⟨0, 0, 0, 0⟩
def m8 : M8 := ⟨0, false, 0⟩
def mB : MB := ⟨0, 0, 0, false⟩
def mC : MC := ⟨0, 3⟩
def mD : MD := ⟨0, 0, 0, 0⟩
def mR : MR := ⟨0, 0, 0⟩


/-- A command's descriptor can be read. -/
def lready (s : State) (va : Word) (n : Nat) : Bool :=
  match s.localDescriptor va n fun s _ => .done s with
  | .done _ => true
  | _ => false

/-- A descriptor can be read in the issue turn: the state after the reads and its bytes. -/
def dread (s : State) (va : Word) (al n : Nat) : Option (State × List Byte) :=
  if canonical va && va.toNat % al == 0 && good (s.checkRange s.who va n kRead) then
    match State.seekAll ((n + 15) / 16) 0 va [] false s with
    | .got q bs false => some (q, bs)
    | _ => none
  else none

/-- A descriptor of a context instruction can be read. -/
def dready (s : State) (va : Word) (al n : Nat) : Bool := (dread s va al n).isSome

/-- Store words at a scratchpad address of core 0 or in HBM. -/
def wordsAt (s : State) (a : Nat) (l : List Nat) : State := s.placeBytes a (l.flatMap (toBytes 8))

/-- A Tephra thread with a frame, a function object at 0x40000 with constants, cache sites, globals and one cell, an array at 0x46000,
and an arena. -/
def heap (l : List (Nat × Word)) (f : List (Nat × Word)) : State :=
  ([(0x49000, [0x100000, 0x110000]), (0x47000, [5, 0, 16]), (0x46000, [2, 0, 2, 2, 0x46030, 0, 40, 56]),
    (0x45000, [2, 0, 1, 1, 0x45030, 0, 0x47001]), (0x44000, [0x900000002, 0, 0x50]),
    (0x42100, [0x1002, 0xC000000000000000, 0xC000000000000000, 0, 0, 0, 0x40001]), (0x42000, [0x900000001, 16]),
    (0x41000, [24, 0x40001, 128, 0x50000 * 8]), (0x40000, [4, 0, 0x20000, 0x41000, 0x42000, 0x44001, 0x41001, 0x45001])]
    : List (Nat × List Nat)).foldl (fun s e => wordsAt s e.1 e.2)
    ((byt ((27, 0x48000) :: (30, 0x3F000) :: l) f).onCtx 0 fun c => { c with arena := 0x49000, ghvec := 0x700 })

/-- A thread that holds two loaded slots and a tile. -/
def tiled : State := (sup [(1, 0x0103), (3, 0x8000), (10, 0x100)]).onCore 0 (fun k => ((k.setSlot 0 { Slot.new with state := 2, owner := some 1, fmt := 3 }).setSlot 1 { Slot.new with state := 2, owner := some 1, fmt := 3 }).setTile 0 { Tile.new with state := 1, owner := some 1 })

/-- The same with other registers. -/
def scaled : State := (sup [(1, 3), (2, 1), (3, 0x8000), (10, 0x100)]).onCore 0 (fun k => ((k.setSlot 0 { Slot.new with state := 2, owner := some 1, fmt := 3 }).setSlot 1 { Slot.new with state := 2, owner := some 1, fmt := 3 }).setTile 0 { Tile.new with state := 1, owner := some 1 })

/-- A thread that has claimed slots 0 and 1 and tile 0. -/
def claimed : State := onTh (run (.oclaim hd (x 1) (x 2) m8) (sup [(1, 0x0103), (10, 0x100), (11, 0x8000), (12, 0xFFFFFFFF)])) fun t => { t with outst := [] }

/-- A member core at step 7 with one successor. -/
def stepper (preds : List Pred) : State := (sup [(1, 0x40000), (2, 3), (3, 0x201), (6, 8), (7, 0x100)]).onCore 0 fun k => { k with step := 7, stepDone := 6, nb := { k.nb with active := true, asid := 0, start := 5, preds := preds, succs := [⟨1, 0, 0, 4, 1, 64, 0x400, 6, false⟩] } }

/-- Two threads of the root on barrel core 0. -/
def twoThreads : State := { (sup [(1, 9), (2, 0x410000), (3, 0x500000)]) with threads := (sup [(1, 9), (2, 0x410000), (3, 0x500000)]).threads ++ [(5, { Thread.new with thread := 9, slot := 20, place := .slot 0, tstat := 1 })], next := 6 }

/-- A child of the root with number 5 in a state. -/
def child (s : State) (st : CtxState) : State := s.setCtx 5 { Ctx.new 1 0 [0x50, 0x51, 0x52, 0x53, 0x54, 0x55, 0x56, 0x57] with state := st }

/-- An access of an agent at a home. -/
def acc (o : Owner) (h : Home) (pa : Nat) (op : AccOp) : Acc := { (sup []).newAcc o 0 3 0 h 0x100 pa 8 op with id := 9 }

/-- The walks of some ranges follow nothing. -/
def free (s : State) (l : List (Word × Nat × Nat)) : Bool := l.all fun y => s.walksAfter y.1 y.2.1 y.2.2 == []

/-- The formats of a transfer, source first. -/
def xferFmts (p : State) (va : Word) (b : Opnd) (m : MB) : List Nat :=
  let l := p.localRead va 56
  let bs := p.localBytes va 56
  l.memFmt (dword bs 0) m.sf :: (l.xferDsts (dword bs 1) (p.reg b) m).map (·.1)

/-- The checks of `xfer` (R230). -/
def xferChecks (p : State) (va : Word) (b : Opnd) (m : MB) : List (Except Trap Unit) :=
  let l := p.localRead va 56
  let bs := p.localBytes va 56
  let len := (dword bs 2).toNat % 2 ^ 32
  let sf := l.memFmt (dword bs 0) m.sf
  let dfs := l.xferDsts (dword bs 1) (p.reg b) m
  let ns := (dfs.map fun y => spanOf (sizeFmt sf y.1) len).foldl max (if dfs = [] then spanOf sf len else 0)
  let nd := (dfs.map fun y => spanOf (sizeFmt y.1 sf) len).foldl max 0
  [l.checkRange l.who (dword bs 0) ns kRead,
    if m.mc then l.mcChecks (dword bs 1) (p.reg b) nd else l.checkRange l.who (dword bs 1) nd kWrite true,
    reservedWord va 2 (bits (dword bs 2) 63 32 != 0)] ++ l.barChecks va (dword bs 3) ++ l.completionChecks va bs 4 (Instr.xfer hd (x 10) b m).word

/-- The checks of `npost` (R233). -/
def npostChecks (l : State) (va : Word) : List (Except Trap Unit) :=
  let bs := l.localBytes va 64
  let w := dword bs 0
  let op := w.toNat % 256
  [reservedWord va 0 (decide (3 < op) || bits w 63 32 != 0), needName va (l.connOf (bits w 31 16)),
    l.checkRange l.who (dword bs 1) ((dword bs 2).toNat % 2 ^ 32) (if op = 3 then kWrite else kRead) true,
    reservedWord va 2 (bits (dword bs 2) 63 32 != 0),
    if 2 ≤ op then needName va (l.winOf (dword bs 4).toNat op) else .ok ()] ++ l.completionChecks va bs 5 (Instr.npost hd (x 10) mB).word

/-- The checks of `nrecv` (R233). -/
def nrecvChecks (l : State) (va : Word) : List (Except Trap Unit) :=
  let bs := l.localBytes va 64
  let w := dword bs 0
  [reservedWord va 0 (bits w 63 32 != 0 || bits w 15 1 != 0),
    if bits w 31 16 == 0xFFFF then .ok () else needName va (l.connOf (bits w 31 16)),
    l.checkRange l.who (dword bs 1) ((dword bs 2).toNat % 2 ^ 32) kWrite true,
    reservedWord va 2 (bits (dword bs 2) 63 32 != 0)] ++ l.completionChecks va bs 5 (Instr.nrecv hd (x 10) mB).word

/-- A command of the thread. -/
def cmd (k : CmdKind) (accepted : Bool) : Cmd :=
  ⟨6, 1, 3, 0, 0, 2, k, 0, 0, 0, 0, [], accepted, 0, [], 0, false, 0, 0, none, [], [], 0, false, 0, 0, false⟩

/-! ### Words written out from the encodings -/

/-- `add.sat x5, y2, x7` (R148, R132): FN 00, D 5, A 0x42, B 7, SAT bit 23. -/
theorem test_decode_add_sat : decodeNative 0x0000161070800000 = .ok (.add hd (x 5) (y 2) (x 7) ⟨0, false, true, 0⟩) := by decide +kernel

/-- `?!p2 ext.u x5, x6, 8, 16` (R131, R152): PG 2, PN 1, FN 17, U bit 24, POS 8, LEN 16. -/
theorem test_decode_guarded_ext : decodeNative 0x282E143001000810 = .ok (.ext ⟨false, 2, true⟩ (x 5) (x 6) ⟨0, true, false, 0x0810⟩) := by decide +kernel

/-- `movi x5, 0x9ABC_DEF0` (R153): GRP 1, FN 07, IMM in bits 34:0. -/
theorem test_decode_movi : decodeNative 0x008E14009ABCDEF0 = .ok (.movi hd (x 5) 0x9ABCDEF0) := by decide +kernel

/-- `addi x5, x6, -1`. -/
theorem test_decode_addi : decodeNative 0x00801437FFFFFFFF = .ok (.addi hd (x 5) (x 6) 0x7FFFFFFFF) := by decide +kernel

/-- `cmp.lt p3, x4, x5` (R156): GRP 2, FN 00, COND 2 in bits 48:45, PD 3 in bits 44:42. -/
theorem test_decode_cmp : decodeNative 0x01004C2050000000 = .ok (.cmp hd 2 3 (x 4) (x 5)) := by decide +kernel

/-- `pand p3, p1, p2` (R157): FN 02, PA in bits 37:35, PB in bits 30:28. -/
theorem test_decode_pand : decodeNative 0x01040C0820000000 = .ok (.pand hd ⟨0, 3⟩ 1 2) := by decide +kernel

/-- `br.nz x4, -2` (R159): GRP 3, FN 00, KIND 2 in bits 41:40. -/
theorem test_decode_br : decodeNative 0x018012FFFFFFFFFE = .ok (.br hd (x 4) 2 0xFFFFFFFFFE) := by decide +kernel

/-- `st.w.rel x7, 16(x11)` (R135): GRP 4, FN 01, SZ 2, ORD 2. -/
theorem test_decode_st : decodeNative 0x02021C5A80000010 = .ok (.st hd (x 7) (x 11) ⟨2, 2, 0, 0, false, 16⟩) := by decide +kernel

/-- `atom.cas.mo x5, x6, x7` (R217, R139): GRP 5, FN 00, OP 9, SCO 4. -/
theorem test_decode_atom : decodeNative 0x0280143079400000 = .ok (.atom hd (x 5) (x 6) (x 7) ⟨9, false, 4, 0⟩) := by decide +kernel

/-- `monrel x6, x7, p3`: FN 07, PR 3. -/
theorem test_decode_monrel : decodeNative 0x028E003070000003 = .ok (.monrel hd (x 6) (x 7) ⟨0, false, 0, 3⟩) := by decide +kernel

/-- `vadd.i8.sat v3, v1, v2` (R177): GRP 6, FN 00, ET 5 in bits 25:23, SAT bit 19. -/
theorem test_decode_vadd : decodeNative 0x0300624002880000 = .ok (.vadd hd 3 1 2 (x 0) ⟨5, 0, true, 0, 0, 0, false⟩) := by decide +kernel

/-- `vmul.f32.bs v2, v1, x9`: FN 02, S 9 in bits 32:26, BS bit 8. -/
theorem test_decode_vmul_bs : decodeNative 0x0304420024000100 = .ok (.vmul hd 2 1 0 (x 9) ⟨0, 0, false, 0, 0, 0, true⟩) := by decide +kernel

/-- `vcmp.f32.lt v3, v1, v2`: FN 10, COND 2 in bits 18:15. -/
theorem test_decode_vcmp : decodeNative 0x0320624000010000 = .ok (.vcmp hd 3 1 2 (x 0) ⟨0, 0, false, 2, 0, 0, false⟩) := by decide +kernel

/-- `vcvt.f32.rz.e4m3 v4, v5, x6`: FN 15, RND 1 in bits 22:20, TO 5 in bits 14:11. -/
theorem test_decode_vcvt : decodeNative 0x032A8A0018102800 = .ok (.vcvt hd 4 5 (x 6) ⟨0, 1, false, 0, 5, 0, false⟩) := by decide +kernel

/-- `vgather.f32.acq.bf16 v2, v7, x10` (R188): GRP 7, FN 03, ORD 1 in bits 22:21, MF 2 in bits 17:14. -/
theorem test_decode_vgather : decodeNative 0x03864E0028208000 = .ok (.vgather hd 2 7 (x 10) ⟨0, 1, 0, 2⟩) := by decide +kernel

/-- `tld.e4m3.sc.b64 o3, x5, x6` (R194, R198): GRP 8, FN 02, OA 3, FMT 4, SC bit 12, BLK 2. -/
theorem test_decode_tld : decodeNative 0x0404180A18041800 = .ok (.tld hd 3 (x 5) (x 6) 4 ⟨0, true, 2⟩) := by decide +kernel

/-- `mstat t6, x5, x7` (R208): FN 0A, TA 6 in bits 48:46, S2 7. -/
theorem test_decode_mstat : decodeNative 0x0415800A1C000000 = .ok (.mstat hd 6 (x 5) (x 7) ⟨0, false, 0⟩) := by decide +kernel

/-- `sld.sc.b16 x5, z7` (R210): GRP 9, FN 00, Z 7 in bits 25:20, SC, BLK 1. -/
theorem test_decode_sld : decodeNative 0x0480000A00701400 = .ok (.sld hd (x 5) 7 ⟨0, true, 1⟩) := by decide +kernel

/-- `sset x5, z63` (R211): FN 0A. -/
theorem test_decode_sset : decodeNative 0x0494000A03F00000 = .ok (.sset hd (x 5) 63 ⟨0, false, 0⟩) := by decide +kernel

/-- `fork x0, x3, x4` (R223): GRP 0xA, FN 00. -/
theorem test_decode_fork : decodeNative 0x0500001840000000 = .ok (.fork hd (x 3) (x 4) false) := by decide +kernel

/-- `nomad.res`: FN 08, RES bit 0. -/
theorem test_decode_nomad_res : decodeNative 0x0510000000000001 = .ok (.nomad hd true) := by decide +kernel

/-- `launch x4, x5, x6` (R228): GRP 0xB, FN 05. -/
theorem test_decode_launch : decodeNative 0x058A102860000000 = .ok (.launch hd (x 4) (x 5) (x 6) ⟨0, 0, 0, false⟩) := by decide +kernel

/-- A word that the spec's examples give. -/
theorem test_decode_ld : decodeNative 0x8200205300000000 = .ok (.ld ⟨true, 0, false⟩ (x 8) (x 10) m4) := by decide +kernel

/-- A word that the spec's examples give. -/
theorem test_decode_ctxnew : decodeNative 0x0700143000000000 = .ok (.ctxnew hd (x 5) (x 6)) := by decide +kernel

/-- A word that the spec's examples give. -/
theorem test_decode_stepend : decodeNative 0x8602240000000000 = .ok (.stepend ⟨true, 0, false⟩ (x 9) ⟨0, 0⟩) := by decide +kernel

/-- A word that the spec's examples give. -/
theorem test_decode_waita : decodeNative 0x828A1C3081400000 = .ok (.waita ⟨true, 0, false⟩ (x 7) (x 6) (x 8) ⟨1, false, 4, 0⟩) := by decide +kernel

/-- A word that the spec's examples give. -/
theorem test_decode_mfcr : decodeNative 0x0680580000000102 = .ok (.mfcr hd (x 22) 0x102 mR) := by decide +kernel

/-- A word that the spec's examples give. -/
theorem test_decode_ctxevt : decodeNative 0x070A143070000000 = .ok (.ctxevt hd (x 5) (x 6) (x 7)) := by decide +kernel

/-- A word that the spec's examples give. -/
theorem test_decode_ctxreset : decodeNative 0x870C143070000000 = .ok (.ctxreset ⟨true, 0, false⟩ (x 5) (x 6) (x 7)) := by decide +kernel

/-- A never word (R131): no effect, whatever its other bits. -/
theorem test_never_word : isNever 0x0990000000000000 = true := by decide +kernel

/-- Reserved bits, an unassigned function, a reserved rounding code and a reserved ET are ILLEGAL_OP (R141, R73, R72). -/
theorem test_decode_refuses : (decodeNative 0x0000000000010000).toOption = none ∧ (decodeNative 0x007E000000000000).toOption = none ∧
    (decodeNative 0x004004103A000000).toOption = none ∧ (decodeNative 0x0300246003800000).toOption = none := by decide +kernel

/-- Bytecodes (R282): `add` of two frame registers with cache slot 5, a jump back, and an opcode that is not assigned. -/
theorem test_decode_bytecodes : decodeTephra 0x0B020203 0x00000005 = .ok (.tBinop 2 2 3 5 0) ∧
    decodeTephra 0x0B020203 0x00010005 = .ok (.tBinop 2 2 3 5 1) ∧ (decodeTephra 0x0B020203 0x01000005).toOption = none ∧
    (decodeTephra 0xFF000000 0).toOption = none := by decide +kernel

/-! ### Ill-formed instructions, one for each check -/

theorem test_wf_rnd : (Instr.add hd (x 1) (x 2) (x 3) { m0 with rnd := 5 }).wf = false := by decide +kernel
theorem test_wf_rnd_ext : (Instr.ext hd (x 1) (x 2) { m0 with rnd := 5 }).wf = false := by decide +kernel
theorem test_wf_dt : (Instr.fcvt hd (x 1) (x 2) { m0 with low := 0x9000 }).wf = false := by decide +kernel
theorem test_wf_st : (Instr.fcvt hd (x 1) (x 2) { m0 with low := 0x0900 }).wf = false := by decide +kernel
theorem test_wf_falls : (Instr.mov hd (x 1) (x 2) { m0 with low := 0x0001 }).wf = true ∧
    (Instr.mov hd (x 1) (x 2) { m0 with low := 0x0001 }).info.fall = true ∧
    (Instr.mon hd (x 1) (x 2) { m5 with pr := 1 }).info.fall = true := by decide +kernel
theorem test_wf_low_field : (Instr.ins hd (x 1) (x 2) { m0 with low := 0x0040 }).wf = false := by decide +kernel
theorem test_wf_movh : (Instr.movh hd (x 1) 0x20000000).wf = false := by decide +kernel
theorem test_wf_cond : (Instr.cmp hd 10 1 (x 1) (x 2)).wf = false := by decide +kernel
theorem test_wf_cond_float : (Instr.fcmp hd 8 1 (x 1) (x 2)).wf = false := by decide +kernel
theorem test_wf_br : (Instr.br hd (x 1) 0 0).wf = false := by decide +kernel
theorem test_wf_trap : (Instr.trap hd 0 4095).wf = false := by decide +kernel
theorem test_wf_call_code : (Instr.gatedServiceCall hd 0 4096).wf = false := by decide +kernel
theorem test_wf_sz : (Instr.ld hd (x 1) (x 2) { m4 with sz := 5 }).wf = false := by decide +kernel
theorem test_wf_sco : (Instr.ld hd (x 1) (x 2) { m4 with sco := 7 }).wf = false := by decide +kernel
theorem test_wf_hint : (Instr.ld hd (x 1) (x 2) { m4 with hint := 3 }).wf = false := by decide +kernel
theorem test_wf_fence_off : (Instr.fence hd 1 { m4 with off := 8 }).wf = false := by decide +kernel
theorem test_wf_op : (Instr.atom hd (x 1) (x 2) (x 3) { m5 with op := 10 }).wf = false := by decide +kernel
theorem test_wf_sco5 : (Instr.ldfe hd (x 1) (x 2) { m5 with sco := 7 }).wf = false := by decide +kernel
theorem test_wf_waita : (Instr.waita hd (x 1) (x 2) (x 3) { m5 with op := 4 }).wf = false := by decide +kernel
theorem test_wf_et : (Instr.vadd hd 1 2 3 (x 0) { m6 with et := 7 }).wf = false := by decide +kernel
theorem test_wf_rnd6 : (Instr.vabs hd 1 2 { m6 with rnd := 5 }).wf = false := by decide +kernel
theorem test_wf_cond6 : (Instr.vabs hd 1 2 { m6 with cond := 10 }).wf = false := by decide +kernel
theorem test_wf_to_one : (Instr.vabs hd 1 2 { m6 with tgt := 1 }).wf = false := by decide +kernel
theorem test_wf_to_high : (Instr.vabs hd 1 2 { m6 with tgt := 13 }).wf = false := by decide +kernel
theorem test_wf_bs : (Instr.vadd hd 1 2 3 (x 4) { m6 with bs := true }).wf = false := by decide +kernel
theorem test_wf_no_bs : (Instr.vadd hd 1 2 3 (x 4) m6).wf = false := by decide +kernel
theorem test_wf_et_float : (Instr.vexp2 hd 1 2 { m6 with et := 3 }).wf = false := by decide +kernel
theorem test_wf_vcmp : (Instr.vcmp hd 1 2 3 (x 0) { m6 with cond := 8 }).wf = false := by decide +kernel
theorem test_wf_vred : (Instr.vred hd 1 (x 4) { m6 with cond := 3 }).wf = false := by decide +kernel
theorem test_wf_vcvt : (Instr.vcvt hd 1 2 (x 4) m6).wf = false := by decide +kernel
theorem test_wf_et7 : (Instr.vld hd 1 (x 4) { m7 with et := 7 }).wf = false := by decide +kernel
theorem test_wf_sco7 : (Instr.vld hd 1 (x 4) { m7 with sco := 7 }).wf = false := by decide +kernel
theorem test_wf_mf : (Instr.vst hd 1 (x 4) { m7 with mf := 11 }).wf = false := by decide +kernel
theorem test_wf_rnd8 : (Instr.mzero hd 1 { m8 with rnd := 5 }).wf = false := by decide +kernel
theorem test_wf_tld_low : (Instr.tld hd 1 (x 4) (x 0) 1 m8).wf = false := by decide +kernel
theorem test_wf_tld_high : (Instr.tld hd 1 (x 4) (x 0) 11 m8).wf = false := by decide +kernel
theorem test_wf_tld_scales : (Instr.tld hd 1 (x 4) (x 5) 6 ⟨0, true, 1⟩).wf = false := by decide +kernel
theorem test_wf_tfill_fmt : (Instr.tfill hd 1 (x 4) (x 0) 0 8 m8).wf = false := by decide +kernel
theorem test_wf_tfill_z : (Instr.tfill hd 1 (x 4) (x 0) 3 4 m8).wf = false := by decide +kernel
theorem test_wf_rowout_fmt : (Instr.rowout hd 1 (x 0) (x 2) 9 m8).wf = false := by decide +kernel
theorem test_wf_rowout_form : (Instr.rowout hd 1 (x 4) (x 0) 4 m8).wf = false := by decide +kernel
theorem test_wf_xfer : (Instr.xfer hd (x 1) (x 2) mB).wf = false := by decide +kernel
theorem test_wf_sf : (Instr.publish hd (x 1) (x 2) { mB with sf := 11 }).wf = false := by decide +kernel
theorem test_wf_df : (Instr.publish hd (x 1) (x 2) { mB with df := 11 }).wf = false := by decide +kernel
theorem test_wf_scoB : (Instr.publish hd (x 1) (x 2) { mB with sco := 7 }).wf = false := by decide +kernel
theorem test_wf_szC : (Instr.ldstep hd (x 1) (x 2) (x 3) { mC with sz := 5 }).wf = false := by decide +kernel
theorem test_wf_pm : (Instr.repart hd (x 1) (x 2) { mD with pm := 3 }).wf = false := by decide +kernel
theorem test_wf_co : (Instr.cacheop hd (x 1) (x 2) (x 3) { mD with co := 3 }).wf = false := by decide +kernel
theorem test_wf_tlbinv : (Instr.tlbinv hd (x 1) (x 2) (x 0) { mD with ti := 3 }).wf = false := by decide +kernel
theorem test_wf_binop : (Instr.tBinop 1 2 3 0 13).wf = false := by decide +kernel
theorem test_wf_unop : (Instr.tUnop 1 2 0 3).wf = false := by decide +kernel
theorem test_wf_compare : (Instr.tCompare 1 2 3 0 8).wf = false := by decide +kernel

/-! ### The table's bits, and the first step after reset -/

theorem test_table_words : (decodeTableWord 64 0x8200205300000000).isSome = true ∧ decodeTableWord 32 0x03030001 = some (.tLoadi 3 1) ∧
    decodeTableWord 32 0x0B020203 = some (.tBinop 2 2 3 0 0) := by decide +kernel

/-- `movi x5, 7` is the first instruction after reset. -/
theorem test_step_native : ((stepped (State.reset.withFetchWord 64 0x008E140000000007)).th.getX 5) = 7 := by decide +kernel

/-- `loadi f3, 1` is: the small integer 1 is the word 8 (R261). -/
theorem test_step_bytecode : (stepped (State.reset.withFetchWord 32 0x03030001)).readWord (0x30000 + 8 * 3) = 8 := by decide +kernel

/-! ### Single steps -/

/-- The thread after an instruction. -/
def after (i : Instr) (s : State) : Thread := (run i s).th

/-- R149: with .sat the sum is clamped and SAT set, without it wraps. -/
theorem test_add_sat : ((after (.add hd (x 5) (x 6) (x 7) { m0 with sat := true }) (sup [(6, 0x7FFFFFFFFFFFFFFF), (7, 1)])).getX 5) =
    0x7FFFFFFFFFFFFFFF := by decide +kernel
theorem test_add_wraps : ((after (.add hd (x 5) (x 6) (x 7) m0) (sup [(6, 0x7FFFFFFFFFFFFFFF), (7, 1)])).getX 5) =
    0x8000000000000000 := by decide +kernel
theorem test_sub_same : ((after (.sub hd (x 5) (x 5) (x 5) m0) (sup [(5, 3)])).getX 5) = 0 := by decide +kernel
theorem test_mulh_signed : ((after (.mulh hd (x 5) (x 6) (x 7) m0) (sup [(6, -1), (7, 1)])).getX 5) = -1 := by decide +kernel
theorem test_mulh_unsigned : ((after (.mulh hd (x 5) (x 6) (x 7) { m0 with u := true }) (sup [(6, -1), (7, -1)])).getX 5) = -2 := by
  decide +kernel

/-- R150: division by zero, and the one quotient that does not fit. -/
theorem test_div_zero : ((after (.div hd (x 5) (x 6) (x 7) m0) (sup [(6, 9)])).getX 5) = -1 := by decide +kernel
theorem test_div_least : ((after (.div hd (x 5) (x 6) (x 7) m0) (sup [(6, 0x8000000000000000), (7, -1)])).getX 5) =
    0x8000000000000000 := by decide +kernel
theorem test_rem_sign : ((after (.rem hd (x 5) (x 6) (x 7) m0) (sup [(6, -7), (7, 2)])).getX 5) = -1 := by decide +kernel
theorem test_rem_zero : ((after (.rem hd (x 5) (x 6) (x 7) m0) (sup [(6, -7)])).getX 5) = -7 := by decide +kernel

/-- R149, R151, R152. -/
theorem test_andn : ((after (.andn hd (x 5) (x 6) (x 7) m0) (sup [(6, 0xFF), (7, 0x0F)])).getX 5) = 0xF0 := by decide +kernel
theorem test_sra : ((after (.sra hd (x 5) (x 6) (x 7) m0) (sup [(6, 0x8000000000000000), (7, 68)])).getX 5) = 0xF800000000000000 := by
  decide +kernel
theorem test_rot : ((after (.rot hd (x 5) (x 6) (x 7) m0) (sup [(6, 0x8000000000000001), (7, 1)])).getX 5) = 3 := by decide +kernel
theorem test_clz_zero : ((after (.clz hd (x 5) (x 6) m0) (sup [])).getX 5) = 64 := by decide +kernel
theorem test_ctz : ((after (.ctz hd (x 5) (x 6) m0) (sup [(6, 0x10)])).getX 5) = 4 := by decide +kernel
theorem test_bswap : ((after (.bswap hd (x 5) (x 6) m0) (sup [(6, 0x0102030405060708)])).getX 5) = 0x0807060504030201 := by decide +kernel
theorem test_abs_least : ((after (.abs hd (x 5) (x 6) m0) (sup [(6, 0x8000000000000000)])).getX 5) = 0x8000000000000000 := by
  decide +kernel
theorem test_sel_p0 : ((after (.sel hd (x 5) (x 6) (x 7) m0) (sup [(6, 1), (7, 2)])).getX 5) = 1 := by decide +kernel
theorem test_ext_signed : ((after (.ext hd (x 5) (x 6) { m0 with low := 0x0404 }) (sup [(6, 0x80)])).getX 5) = -8 := by decide +kernel
theorem test_ins_whole : ((after (.ins hd (x 5) (x 6) { m0 with low := 0x0800 }) (sup [(5, 0x12), (6, 0xAB)])).getX 5) = 0xAB12 := by
  decide +kernel

/-- R153: the spec's own example of two words that build a constant. -/
theorem test_movi : ((after (.movi hd (x 5) 0x9ABCDEF0) (sup [])).getX 5) &&& 0x7FFFFFFFF = 0x9ABCDEF0 := by decide +kernel
theorem test_movi_movh : ((after (.movh hd (x 5) 0x2468ACF) (run (.movi hd (x 5) 0x9ABCDEF0) (sup []))).getX 5) =
    0x123456789ABCDEF0 := by decide +kernel
theorem test_addi_negative : ((after (.addi hd (x 5) (x 6) 0x7FFFFFFFF) (sup [])).getX 5) = -1 := by decide +kernel
theorem test_shri_modulo : ((after (.shri hd (x 5) (x 6) 65) (sup [(6, 4)])).getX 5) = 2 := by decide +kernel

/-- R155: the rows of its table. -/
theorem test_fcvt_s64 : ((after (.fcvt hd (x 5) (x 6) { m0 with low := 0x0200 }) (sup [(6, 0xC0200000)])).getX 5) = -2 := by
  decide +kernel
theorem test_fcvt_f32 : ((after (.fcvt hd (x 5) (x 6) { m0 with low := 0x2000 }) (sup [(6, 0x1000001)])).getX 5) = 0x4B800000 := by
  decide +kernel

/-- R154, R93: 1.5 + 2.25, 1 / 0, the square root of -0. -/
theorem test_fadd : ((after (.fadd hd (x 5) (x 6) (x 7) m0) (sup [(6, 0x3FC00000), (7, 0x40100000)])).getX 5) = 0x40700000 := by
  decide +kernel
theorem test_fmul : ((after (.fmul hd (x 5) (x 6) (x 7) m0) (sup [(6, 0x40000000), (7, 0xC0400000)])).getX 5) = 0xC0C00000 := by
  decide +kernel

/-- R156: signed and unsigned comparisons of -1 and 1; a write to p0 is discarded. -/
theorem test_cmp_lt : (run (.cmp hd 2 3 (x 6) (x 7)) (sup [(6, -1), (7, 1)])).pred 3 = true := by decide +kernel
theorem test_cmp_ltu : (run (.cmp hd 6 3 (x 6) (x 7)) (sup [(6, -1), (7, 1)])).pred 3 = false := by decide +kernel
theorem test_cmp_p0 : (run (.cmp hd 1 0 (x 6) (x 6)) (sup [])).pred 0 = true := by decide +kernel

/-- R159: a branch counts 8-byte words from itself; one that is not taken falls through. -/
theorem test_br : (after (.br hd (x 4) 1 0xFFFFFFFFFE) (onTh (sup []) fun t => { t with pc := 0x100 })).pc = 0xF0 := by decide +kernel
theorem test_br_not : (after (.br hd (x 4) 2 0xFFFFFFFFFE) (onTh (sup []) fun t => { t with pc := 0x100 })).pc = 0x108 := by decide +kernel

/-- R131: a word whose guard is false has no effect but that the pc advances. -/
theorem test_guard : ((after (.movi ⟨false, 0, true⟩ (x 5) 1) (sup [(5, 9)])).getX 5) = 9 := by decide +kernel

/-- R168: a store is performed at its home and the bytes are little-endian (R2). -/
theorem test_store : (let s := run (.st hd (x 5) (x 6) m4) (sup [(5, 0x0102030405060708), (6, 0x100)]);
    s.accs.length == 1 && (s.accs.head?.map fun a => a.op == .store [8, 7, 6, 5, 4, 3, 2, 1]) == some true) = true := by decide +kernel

/-- R286: small integers. -/
theorem test_small_integer : inlineBinop 0 (mkInt 5) (mkInt 7) = some (mkInt 12, 0) := by decide +kernel
theorem test_compare_ints : inlineCompare 2 (mkInt (-1)) (mkInt 1) = some (0x13, 0) := by decide +kernel

/-- R160 to R163: `call` pushes the address after itself and `ret` returns to it; `loop` counts down and jumps while the count is not 0. -/
theorem test_call_ret : (let s := run (.call hd 0 4) (onTh (sup []) fun t => { t with pc := 0x100 });
    s.th.pc == 0x120 && (after (.ret hd 0) s).pc == 0x108) = true := by decide +kernel
theorem test_loop : (let s := run (.loop hd (x 3) 0 0xFFFFFFFFFD) (onTh (sup [(3, 2)]) fun t => { t with pc := 0x100 });
    s.th.pc == 0xE8 && s.th.getX 3 == 1) = true := by decide +kernel
theorem test_loop_ends : (let s := run (.loop hd (x 3) 0 0xFFFFFFFFFD) (onTh (sup [(3, 1)]) fun t => { t with pc := 0x100 });
    s.th.pc == 0x108 && s.th.getX 3 == 0) = true := by decide +kernel

/-- R336, R338: a trap that its context takes goes to the vector, with the address of the word saved, supervisor state and EXL. -/
theorem test_trap_taken : (let s := run (.trap hd 0 0x1234) ((onTh (usr []) fun t => { t with pc := 0x100 }).onCtx 0 fun c =>
      { c with deleg := 0xFFFFFFFF, tvec := 0x800 });
    s.th.pc == 0x800 && s.th.tpc == 0x100 && s.th.sup && bit s.th.tstat 4 && s.th.taddr == 0x1234) = true := by decide +kernel

/-- R218: `atom.add` at a word of the local window leaves the sum there and answers the old value. -/
theorem test_atom : (let s := run (.atom hd (x 5) (x 6) (x 7) m5) (wordsAt (sup [(6, 0x100), (7, 5)]) 0xF00000000100 [37]);
    let k := (s.accs.head?.map (·.id)).getD 0; (run (.homeAccessPerformed k) s).readWord 0xF00000000100 == 42) = true := by decide +kernel
/-- R220: `ldfe.c` of a full word empties it. -/
theorem test_ldfe : (let s := run (.ldfe hd (x 5) (x 6) { m5 with c := true }) (sup [(6, 0x100)]);
    let k := (s.accs.head?.map (·.id)).getD 0; s.full 0xF00000000100 && !(run (.homeAccessPerformed k) s).full 0xF00000000100) = true := by
  decide +kernel
/-- R101, R168: a load that is performed and returned brings the bytes that a store left. -/
theorem test_load : (let s := run (.ld hd (x 5) (x 6) { m4 with sz := 1, x := true }) (wordsAt (sup [(6, 0x102)]) 0xF00000000100 [0x8001FFFF]);
    let s := run (.homeAccessPerformed ((s.accs.head?.map (·.id)).getD 0)) s;
    (run (.longResultReturn 1 ((s.th.outst.head?.map (·.id)).getD 0)) s).th.getX 5 == 0xFFFFFFFFFFFF8001) = true := by decide +kernel
/-- R167: a misaligned load is ALIGN, before the translation. -/
theorem test_load_align : (let s := sup []; trapOf (s.check s.who 0x0000000000000102 4 kRead)) = (Cause.align.code, 0x102) := by
  decide +kernel

/-- R62, R340: `mtcr` of a bank format is read back; R13: a Cinder code on a part without the codec, and a reserved code, are not. -/
theorem test_bfmt : (let s := run (.mtcr hd (x 5) (x 6) 0x053 mR) (sup [(6, 4)]); s.readCr 0x053 == 4) = true := by decide +kernel
/-- R54: FLAGS keeps a sticky bit only where 1 is written. -/
theorem test_flags : ((onTh (sup []) fun t => { t with flags := 0x3F }).writeCr 0x030 0x105).th.flags = 0x105 := by decide +kernel

/-- R224, R225: `fork` on a core whose deque is empty queues the task. -/
theorem test_fork : (let s := run (.fork hd (x 6) (x 7) false) (sup [(6, 0x400), (7, 0x100)]);
    s.th.outst.length == 1 || (s.core 0).deque.length == 1) = true := by decide +kernel

/-- R285, R269: the attribute at offset 16 of the globals, by the site's entry for shape 9. -/
theorem test_getg : (run (.tGetg 3 0 0 0) (heap [] [])).readWord (0x30000 + 8 * 3) = 0x50 := by decide +kernel
/-- R285: element 1 of the array. -/
theorem test_getitem : (run (.tGetitem 4 1 2) (heap [] [(1, 0x46001), (2, 8)])).readWord (0x30000 + 8 * 4) = 56 := by decide +kernel
/-- R286: 5 + 7 is 12. -/
theorem test_binop : (run (.tBinop 3 1 2 0 0) (heap [] [(1, 40), (2, 56)])).readWord (0x30000 + 8 * 3) = 96 := by decide +kernel
/-- R287: offsets count words from the word after the bytecode; zero is false (R263). -/
theorem test_jf : (run (.tJf 1 0xFFFE) (heap [] [])).th.pc = 0x1FFFC := by decide +kernel
theorem test_jt : (run (.tJt 1 0xFFFE) (heap [] [])).th.pc = 0x20004 := by decide +kernel
/-- R272: guard entry with reason 5 for a name that is imported. -/
theorem test_import : (let t := (run (.tImport 1 2) (heap [] [])).th; t.pc == 0x700 && t.getX 20 == 5 && t.getX 21 == 0x20000 && !t.tephra) =
    true := by decide +kernel

/-- R39, R367: the first child of the root has ASID 1 and starts NEW. -/
theorem test_ctxnew : (let s := run (.ctxnew hd (x 4) (x 5)) (sup [(5, 0x500000)]); has s.ctxs 1 && (s.ctx 1).state == .new &&
    (s.ctx 1).depth == 1) = true := by decide +kernel

/-! ### States that meet the hypotheses of the statements -/

set_option linter.unusedVariables false

/-! stepRuns: a native word, the never word, a word that is none; a bytecode of one word, of two, and one that is
none; a barrel core that gives its turn, one that idles, a control core, and nothing to do. -/
theorem witness_stepRuns_1 :
    (let z := (sup []).trimBuf; z.th.tephra == false && z.th.buffered 0 == none && z.walkAfter 0 kFetch == [] && z.behind == [] && match z.check z.who 0 8 kFetch with | .ok t => (z.mustWait (z.homeOf t.pa t.attr) t.pa 8).isNone && !z.isPoisoned t.pa 8 | .error _ => false) = true := by decide +kernel
theorem witness_stepRuns_2 :
    (decodeNative 0x0000000000000000 != .error .unassigned && isNever 0x0990000000000000 && !isNever 0x07FE000000000000) = true := by decide +kernel
theorem witness_stepRuns_3 :
    (icBearing 0x07020001 && !icBearing 0x03030001 && decodeTephra 0xFF000000 0 == .error .unassigned) = true := by decide +kernel
theorem witness_stepRuns_4 :
    ((byt [] []).th.startFault == 0 && (byt [] []).th.tephra) = true := by decide +kernel
theorem witness_stepRuns_5 :
    (let s := State.reset.withFetchWord 64 0; s.agents == [.core 0] && (s.choose s.agents).2 == some (.core 0) && s.turnAt 0 == .across 1) = true := by decide +kernel
theorem witness_stepRuns_6 :
    (let s := State.withFetchWord { State.reset with cores := [(0, { Core.new with mode := 0, q := 1 })] } 64 0; let s := s.onCore 0 fun k => { k with q := 1 }; s.turnAt 0 == .own 1) = true := by decide +kernel
theorem witness_stepRuns_7 :
    (let s := (sup []).onThread 1 fun t => { t with slot := 0 }; s.turnAt 0 == .urgent 1) = true := by decide +kernel
theorem witness_stepRuns_8 :
    (let s := (sup []).onThread 1 fun t => { t with park := .drain, fences := [], outst := [⟨9, [], .done [], 1, [], [], []⟩] }; s.turnAt 0 == .idle) = true := by decide +kernel
theorem witness_stepRuns_9 :
    (let s := State.reset.withFetchWord 32 0x13020000; s.agents == [.control 0] && s.controlPick 0 == some 1) = true := by decide +kernel
theorem witness_stepRuns_10 :
    (State.reset.agents == []) = true := by decide +kernel

/-! clear_scalar: the integer, floating and predicate functions. -/
theorem witness_clear_scalar_1 :
    (let s := sup [(1, 5), (2, 7), (3, 1), (10, 0x100), (11, 0x107), (12, 0x400000)]; ([.add hd (x 3) (x 1) (x 2) m0, .sub hd (x 3) (x 1) (x 2) { m0 with sat := true }, .mul hd (x 3) (y 1) (y 2) m0, .mulh hd (x 0) (x 1) (x 2) { m0 with u := true }, .min hd (x 3) (x 1) (x 2) m0, .max hd (x 3) (x 1) (x 2) m0, .sel hd (x 3) (x 1) (x 2) ⟨0, false, false, 7⟩, .mov hd (x 3) (x 1) m0, .abs hd (x 3) (x 1) m0, .clz hd (x 3) (x 1) m0, .ctz hd (x 3) (x 1) m0, .popc hd (x 3) (x 1) m0, .bswap hd (x 3) (x 1) m0, .ext hd (x 3) (x 1) ⟨0, false, false, 0x3F01⟩, .ins hd (x 3) (x 1) ⟨0, false, false, 0x0400⟩, .div hd (x 3) (x 1) (x 0) m0, .rem hd (x 3) (x 1) (x 0) m0, .and hd (x 3) (x 1) (x 2) m0, .or hd (x 3) (x 1) (x 2) m0, .xor hd (x 3) (x 1) (x 2) m0, .andn hd (x 3) (x 1) (x 2) m0, .shl hd (x 3) (x 1) (x 2) m0, .shr hd (x 3) (x 1) (x 2) m0, .sra hd (x 3) (x 1) (x 2) m0, .rot hd (x 3) (x 1) (x 0) m0] : List Instr).all s.clear) = true := by decide +kernel
theorem witness_clear_scalar_2 :
    (let s := sup [(1, 5), (2, 7), (3, 1), (10, 0x100), (11, 0x107), (12, 0x400000)]; ([.addi hd (x 3) (x 1) (-1), .andi hd (x 3) (x 1) 1, .ori hd (x 3) (x 1) 1, .xori hd (x 3) (x 1) 1, .shli hd (x 3) (x 1) 63, .shri hd (x 3) (x 1) 63, .srai hd (x 3) (x 1) 63, .movi hd (x 3) 1, .movh hd (x 3) 1, .muli hd (x 3) (x 1) 3] : List Instr).all s.clear) = true := by decide +kernel
theorem witness_clear_scalar_3 :
    (let s := sup [(1, 5), (2, 7), (3, 1), (10, 0x100), (11, 0x107), (12, 0x400000)]; ([.fadd hd (x 3) (x 1) (x 2) m0, .fsub hd (x 3) (x 1) (x 2) m0, .fmul hd (x 3) (x 1) (x 2) m0, .ffma hd (x 3) (x 1) (x 2) m0, .fmin hd (x 3) (x 1) (x 2) m0, .fmax hd (x 3) (x 1) (x 2) m0, .fcvt hd (x 3) (x 1) m0, .fdiv hd (x 3) (x 1) (x 2) m0, .fsqrt hd (x 3) (x 1) m0] : List Instr).all s.clear) = true := by decide +kernel
theorem witness_clear_scalar_4 :
    (let s := sup [(1, 5), (2, 7), (3, 1), (10, 0x100), (11, 0x107), (12, 0x400000)]; ([.cmp hd 0 1 (x 1) (x 2), .cmpi hd 9 1 (x 1) 5, .fcmp hd 0 1 (x 1) (x 2), .pand hd ⟨0, 1⟩ 0 0, .por hd ⟨0, 1⟩ 0 2, .pxor hd ⟨0, 1⟩ 0 0, .pnot hd ⟨0, 0⟩ 1, .pmov hd ⟨0, 1⟩ 0, .pnot hd ⟨5, 1⟩ 0] : List Instr).all s.clear) = true := by decide +kernel
theorem witness_clear_scalar_5 :
    ((sup []).clear (.time hd (x 4) m5) && (Instr.time hd (x 4) m5).scalarDst == some (.reg (x 4)) && (run (.time hd (x 4) m5) (sup [])).th.pc == 8) = true := by decide +kernel

/-! falseGuard: a guard that does not hold. -/
theorem witness_falseGuard_1 :
    (let h : Hdr := ⟨true, 1, false⟩; let s := sup []; has s.threads s.cur && s.pred 1 == false && !s.outstanding (.pred 1) && !s.poisonedDst (.pred 1) && ([.add h (x 3) (x 1) (x 2) m0, .div h (x 3) (x 1) (x 2) m0, .fdiv h (x 3) (x 1) (x 2) m0, .ld h (x 3) (x 1) m4, .st h (x 3) (x 1) m4, .br h (x 1) 1 0, .call h 0 0, .trap h 0 0x1000, .exit h 0] : List Instr).all fun i => s.decodeChecks i.info == none) = true := by decide +kernel
theorem witness_falseGuard_2 :
    (let h : Hdr := ⟨false, 0, true⟩; (sup []).pred h.pg == h.pn && (run (.add h (x 3) (x 1) (x 1) m0) (sup [(1, 1)])).th.getX 3 == 0) = true := by decide +kernel

/-! transfers: branches, calls and returns, one state for each case. -/
theorem witness_transfers_1 :
    (let s := sup [(1, 5), (2, 7), (3, 1), (10, 0x100), (11, 0x107), (12, 0x400000)]; ([.br hd (x 0) 0 1, .br hd (x 1) 1 1, .br hd (x 1) 2 1, .br hd (x 1) 3 1, .loop hd (x 3) 0 (-1), .loop hd (x 1) 0 (-1), .nop hd 0] : List Instr).all s.clear) = true := by decide +kernel
theorem witness_transfers_2 :
    (let s := sup [(1, 5), (2, 7), (3, 1), (10, 0x100), (11, 0x107), (12, 0x400000)]; (s.reg (x 10) + 8).toNat % 8 == 0 && s.clear (.jmp hd (x 10) 0 1) && s.clear (.callr hd (x 10) 0 1) && s.clear (.call hd 0 2) && s.th.link.length < 8) = true := by decide +kernel
theorem witness_transfers_3 :
    (let s := sup [(1, 5), (2, 7), (3, 1), (10, 0x100), (11, 0x107), (12, 0x400000)]; (s.reg (x 11) + 8).toNat % 8 != 0 && s.clear (.jmp hd (x 11) 0 1) && s.clear (.callr hd (x 11) 0 1)) = true := by decide +kernel
theorem witness_transfers_4 :
    (let s := onTh (sup []) fun t => { t with link := [0x40, 0x20] }; s.th.link == [0x40, 0x20] && (0x40 : Word).getLsbD 0 == false && s.clear (.ret hd 0)) = true := by decide +kernel
theorem witness_transfers_5 :
    (let s := onTh (ctl []) fun t => { t with link := [0x41] }; s.th.cc && s.clear (.ret hd 0)) = true := by decide +kernel
theorem witness_transfers_6 :
    (let s := onTh (sup []) fun t => { t with link := [0x41] }; !s.th.cc && s.clear (.ret hd 0)) = true := by decide +kernel
theorem witness_transfers_7 :
    ((sup []).th.link == [] && (sup []).th.spilled == 0 && (sup []).clear (.ret hd 0)) = true := by decide +kernel
theorem witness_transfers_8 :
    (let s := (sup []).onCore 0 fun k => { k with y := [(5, 9)], yNow := [(5, (1, 3, 8))] }; s.th.slot == 1 && s.myCore.yNow.all (fun e => e.2.1 == s.th.slot) && s.clear (.loop hd (y 5) 0 (-1))) = true := by decide +kernel

/-! linkSpill: eight entries, without room and with room. -/
theorem witness_linkSpill_1 :
    (let s := onTh (sup []) fun t => { t with link := List.replicate 8 0x40 }; 8 ≤ s.th.link.length && s.clear (.call hd 0 4) && decide (s.myCtx.spillLimit < 8 * (s.th.spilled + 1))) = true := by decide +kernel
theorem witness_linkSpill_2 :
    (let s := (onTh (sup []) fun t => { t with link := List.replicate 8 0x40, spilled := 1 }).onCtx 0 fun c => { c with lsbase := 0x10000, lslim := 16 }; s.clear (.call hd 0 4) && decide (8 * (s.th.spilled + 1) ≤ s.myCtx.spillLimit) && goes s.past false true true (0x10000 + 8) 8 kWrite && match s.past.check s.past.who (0x10000 + 8) 8 kWrite with | .ok t => (s.past.csrFault t.pa (s.th.link.getLastD 0) (Instr.call hd 0 4).word).isNone | .error _ => false) = true := by decide +kernel
theorem witness_linkSpill_3 :
    (let s := (onTh (sup []) fun t => { t with link := [], spilled := 1 }).onCtx 0 fun c => { c with lsbase := 0x10000, lslim := 16 }; let p := s.past; s.clear (.ret hd 0) && s.drained s.cur && s.behind == [] && s.th.link == [] && goes p true false true 0x10000 8 kRead && match p.check p.who 0x10000 8 kRead with | .ok t => ((p.remember p.who 0x10000 kRead t).mustWait (p.homeOf t.pa t.attr) t.pa 8).isNone && (p.mustWait (p.homeOf t.pa t.attr) t.pa 8).isNone && good (p.translate p.who 0x10000 kRead) && p.kindOf t.pa != some .cxl && !s.isPoisoned t.pa 8 && !(s.readWord t.pa).getLsbD 0 | .error _ => false) = true := by decide +kernel

/-! trapsTaken: a drained and an undrained thread; a handler of its own; a reflected trap. -/
theorem witness_trapsTaken_1 :
    ((sup []).clear (.trap hd 0 0x1000) && (sup []).clear (.brk hd 0 7) && (sup []).drained 1) = true := by decide +kernel
theorem witness_trapsTaken_2 :
    (let s := onTh (sup []) fun t => { t with outst := [⟨9, [], .done [], 1, [], [], []⟩] }; s.clear (.trap hd 0 0x1000) && s.clear (.brk hd 0 7) && !s.drained 1) = true := by decide +kernel
theorem witness_trapsTaken_3 :
    (let s := (sup []).onCtx 0 fun c => { c with deleg := 0xFF, tvec := 0x800 }; !s.th.cc && bit s.myCtx.deleg (Trap.of .align 0).cause.code && s.myCtx.tvec != 0 && !bit s.th.tstat 4 && (Trap.of .align 0).target == none) = true := by decide +kernel
theorem witness_trapsTaken_4 :
    (let s := (sup []).onCtx 0 fun c => { c with ceqbase := 0x20004 }; has s.threads s.cur && !s.takesLocally 1 (.of .align 0) && s.hasQueue (s.reflectTo 1 (.of .align 0))) = true := by decide +kernel

/-! eret: a return to native code, one that is not aligned, and a user thread. -/
theorem witness_eret_1 :
    (let s := onTh (sup []) fun t => { t with tpc := 0x40, tstat := 0x31 }; s.clear (.eret hd mD) && s.th.tpc.toNat % 8 == 0) = true := by decide +kernel
theorem witness_eret_2 :
    (let s := onTh (sup []) fun t => { t with tpc := 0x44, tstat := 0x51 }; s.clear (.eret hd mD) && bit s.th.tstat 6) = true := by decide +kernel
theorem witness_eret_3 :
    (let s := onTh (sup []) fun t => { t with tpc := 0x44, tstat := 0x11 }; s.clear (.eret hd mD) && !bit s.th.tstat 6 && s.th.tpc.toNat % 8 != 0) = true := by decide +kernel
theorem witness_eret_4 :
    (let s := usr []; has s.threads s.cur && !s.th.cc && !bit s.th.tstat 0) = true := by decide +kernel

/-! loadStore: a load and a store of each size, the pair included. -/
theorem witness_loadStore_1 :
    (let s := sup [(1, 5), (2, 7), (3, 1), (10, 0x100), (11, 0x107), (12, 0x400000)]; ([0, 1, 2, 3, 4] : List (BitVec 3)).all fun z => s.clear (.ld hd (x 4) (x 10) { m4 with sz := z }) && goes s.past true false true 0x100 (2 ^ z.toNat) kRead && s.clear (.st hd (x 2) (x 10) { m4 with sz := z }) && goes s.past false true true 0x100 (2 ^ z.toNat) kWrite) = true := by decide +kernel
theorem witness_loadStore_2 :
    (let s := sup [(1, 5), (2, 7), (3, 1), (10, 0x100), (11, 0x107), (12, 0x400000)]; (s.past.csrFault 0xF00000000100 (s.reg (x 2)) (Instr.st hd (x 2) (x 10) m4).word).isNone && has s.threads s.cur) = true := by decide +kernel

/-! accessChecks: the last canonical address and the first that is none, a misaligned one, banks within the grant and not. -/
theorem witness_accessChecks_1 :
    (let s := sup []; trapOf (s.check s.who 0x0008000000000000 8 kRead) == (Cause.prot.code, 0x0008000000000000)) = true := by decide +kernel
theorem witness_accessChecks_2 :
    (let s := sup []; trapOf (s.check s.who 0x0007FFFFFFFFFFFC 8 kRead) == (Cause.align.code, 0x0007FFFFFFFFFFFC)) = true := by decide +kernel
theorem witness_accessChecks_3 :
    (let s := (sup []).onCtx 0 fun c => { c with bankmask := 1 }; trapOf (s.check s.who 0x20000 8 kRead) == (Cause.prot.code, 0x20000) && good (s.check s.who 0x1FFF8 8 kRead)) = true := by decide +kernel
theorem witness_accessChecks_4 :
    (let s := sup [(1, 0x101)]; s.clear (.ld hd (x 4) (x 1) m4) && s.past.fenced true false == [] && !good (s.past.check s.past.who 0x101 8 kRead)) = true := by decide +kernel
theorem witness_accessChecks_5 :
    (let s := sup [(1, 0x101)]; s.clear (.st hd (x 4) (x 1) m4) && s.past.fenced false true == [] && !good (s.past.check s.past.who 0x101 8 kWrite)) = true := by decide +kernel
theorem witness_accessChecks_6 :
    (let s := sup [(1, 0x101)]; s.clear (.atom hd (x 4) (x 1) (x 2) m5) && s.past.fenced true true == [] && !good (s.past.check s.past.who 0x101 8 kWrite)) = true := by decide +kernel

/-! fencesAndAtomics: fences, and each synchronisation function on a word of the local window and, duplicated, of a page. -/
theorem witness_fencesAndAtomics_1 :
    (let s := sup [(1, 5), (2, 7), (3, 1), (10, 0x100), (11, 0x107), (12, 0x400000)]; ([.pf hd (x 10) { m4 with sz := 0 }, .fence hd 0xF m4, .ifence hd m4, .icsync hd { m4 with sco := 4 }] : List Instr).all s.clear && s.releaseIds 4 == []) = true := by decide +kernel
theorem witness_fencesAndAtomics_2 :
    (let s := sup [(1, 5), (2, 7), (3, 1), (10, 0x100), (11, 0x107), (12, 0x400000)]; ([.atom hd (x 4) (x 10) (x 1) m5, .ldfe hd (x 4) (x 10) m5, .ldfe hd (x 4) (x 10) { m5 with c := true }, .stfe hd (x 10) (x 1) m5, .fset hd (x 4) (x 10) m5, .fget hd (x 4) (x 10) m5, .waita hd (x 4) (x 10) (x 1) m5, .mon hd (x 4) (x 10) m5, .monrel hd (x 10) (x 1) { m5 with pr := 1 }] : List Instr).all s.clear) = true := by decide +kernel
theorem witness_fencesAndAtomics_3 :
    (let s := sup [(1, 5), (2, 7), (3, 1), (10, 0x100), (11, 0x107), (12, 0x400000)]; goes s.past true true false 0x100 8 kWrite && goes s.past true true false 0x100 8 kRead && !farKind (s.past.kindOf 0xF00000000100) && s.past.kindOf 0xF00000000100 == some .scratch) = true := by decide +kernel
theorem witness_fencesAndAtomics_4 :
    (let s := (sup [(1, 5), (2, 7), (3, 1), (10, 0x100), (11, 0x107), (12, 0x400000)]).placeBytes 0x11000 (toBytes 8 0x1F); s.clear (.ldfe hd (x 4) (x 12) m5) && goes s.past true true false 0x400000 8 kRead && (match s.past.check s.past.who 0x400000 8 kRead with | .ok t => t.dup | .error _ => false)) = true := by decide +kernel

/-! storesAndLoads: a store at a quiet home; a load performed at its home; its result on the way back, whole and poisoned. -/
theorem witness_storesAndLoads_1 :
    ((sup []).quietHome (.bank 0 0) 0xF00000000100) = true := by decide +kernel
theorem witness_storesAndLoads_2 :
    (let s := run (.ld hd (x 4) (x 10) m4) (sup [(10, 0x100)]); s.accs.length == 1 && s.accs.all fun a => a.op == .load && a.owner == .thread 1 && a.home == .bank 0 0 && a.out != 0 && (s.th.outst.find? fun r => r.id == a.out).isSome && s.behind == []) = true := by decide +kernel
theorem witness_storesAndLoads_3 :
    (let s := run (.ld hd (x 4) (x 10) m4) (sup [(10, 0x100)]); s.accs.all fun a => (s.perform a).th.outst.all fun o => !s.outranked 1 (.reg (x 4)) && o.fin == .load (x 4) 8 false && o.dsts == [.reg (x 4)] && o.dead == [] && o.got == [(0, List.replicate 8 0)] && o.bad == []) = true := by decide +kernel
theorem witness_storesAndLoads_4 :
    (let s := run (.ld hd (x 4) (x 10) m4) { sup [(10, 0x100)] with poisoned := [0xF0000000010] }; s.accs.all fun a => (s.perform a).th.outst.all fun o => o.bad != [] && o.got == [(0, List.replicate 8 0)]) = true := by decide +kernel

/-! performedAtHome: full/empty accesses that go on and that wait, and `monrel` with and without its reservation. -/
theorem witness_performedAtHome_1 :
    (let s := run (.ldfe hd (x 4) (x 10) { m5 with c := true }) (sup [(10, 0x100)]); s.accs.all fun a => s.quietHome a.home a.pa && !s.reserved a.owner a.pa 8 && a.op == .ldfe true && s.full a.pa) = true := by decide +kernel
theorem witness_performedAtHome_2 :
    (let s := (run (.ldfe hd (x 4) (x 10) m5) (sup [(10, 0x100)])).setFull 0xF00000000100 false; s.accs.all fun a => s.quietHome a.home a.pa && !s.reserved a.owner a.pa 8 && a.op == .ldfe false && !s.full a.pa) = true := by decide +kernel
theorem witness_performedAtHome_3 :
    (let s := (run (.stfe hd (x 10) (x 1) m5) (sup [(1, 5), (10, 0x100)])).setFull 0xF00000000100 false; s.accs.all fun a => s.quietHome a.home a.pa && !s.reserved a.owner a.pa 8 && a.op == .stfe 5 && !s.full a.pa) = true := by decide +kernel
theorem witness_performedAtHome_4 :
    (let s := run (.stfe hd (x 10) (x 1) m5) (sup [(1, 5), (10, 0x100)]); s.accs.all fun a => s.quietHome a.home a.pa && !s.reserved a.owner a.pa 8 && a.op == .stfe 5 && s.full a.pa) = true := by decide +kernel
theorem witness_performedAtHome_5 :
    (let s := run (.monrel hd (x 10) (x 1) { m5 with pr := 1 }) (sup [(1, 5), (10, 0x100)]); s.accs.all fun a => a.op == .monrel 5 && a.owner == .thread 1 && s.behind == [] && !s.holds a.owner a.pa) = true := by decide +kernel
theorem witness_performedAtHome_6 :
    (let s := { run (.monrel hd (x 10) (x 1) { m5 with pr := 1 }) (sup [(1, 5), (10, 0x100)]) with resv := [⟨.thread 1, .bank 0 0, 0xF00000000100, 0⟩] }; s.behind == [] && s.resq == [] && s.overflow == [] && s.accs.all fun a => s.holds a.owner a.pa && s.quietHome a.home a.pa) = true := by decide +kernel

/-! sleepYield: on a barrel core and on a control core. -/
theorem witness_sleepYield_1 :
    ((sup []).clear (.sleep hd (x 4) (x 1) m5) && (sup []).clear (.yield hd m5) && !(sup []).th.cc) = true := by decide +kernel
theorem witness_sleepYield_2 :
    ((ctl []).clear (.yield hd m5) && (ctl []).th.cc) = true := by decide +kernel

/-! vectors: every vector function, with an active shape. -/
theorem witness_vectors_1 :
    (let s := sup [(1, 5)]; s.th.active.length == 64 && ([.vadd hd 1 2 3 (x 1) m6, .vsub hd 1 2 3 (x 1) m6, .vmul hd 1 2 3 (x 1) m6, .vfma hd 1 2 3 4 (x 1) m6, .vmin hd 1 2 3 (x 1) m6, .vmax hd 1 2 3 (x 1) m6, .vabs hd 1 2 m6, .vneg hd 1 2 m6, .vexp2 hd 1 2 m6, .vlog2 hd 1 2 m6, .vrcp hd 1 2 m6, .vrsq hd 1 2 m6, .vand hd 1 2 3 (x 1) m6, .vor hd 1 2 3 (x 1) m6, .vxor hd 1 2 3 (x 1) m6, .vsh hd 1 2 3 (x 1) m6, .vcmp hd 1 2 3 (x 1) m6, .vsel hd 1 2 3 4 (x 1) m6, .vscale hd 1 2 3 (x 1) m6, .vmov hd 1 2 m6, .vbcast hd 1 (x 1) m6, .vperm hd 1 2 3 (x 1) m6, .vred hd 2 (x 3) m6, .vcvt hd 1 2 (x 1) { m6 with tgt := 7 }, .setshape hd (x 3) (x 1) (x 0), .vact hd (x 3) (x 1) (x 1)] : List Instr).all s.clear) = true := by decide +kernel
theorem witness_vectors_2 :
    (has (sup []).threads 1 && ((sup []).th.active.all fun q => decide (q.1 < 4 ∧ q.2 < 64))) = true := by decide +kernel

/-! vectorMemory: vector accesses whose elements all pass, in the local window. -/
theorem witness_vectorMemory_1 :
    (let s := onTh (sup [(10, 0x100)]) fun t => { t with vact := 0x401 }; let p := s.past; let f := p.memFmt 0x100 0; s.clear (.vld hd 1 (x 10) m7) && p.fenced true false == [] && good (p.checkElems (elemBytes (fmtBits f 0)) kRead (p.velems 0x100 0 (fmtBits f 0) (p.th.denseIdx (perLane 0))))) = true := by decide +kernel
theorem witness_vectorMemory_2 :
    (let s := onTh (sup [(10, 0x100)]) fun t => { t with vact := 0x401 }; let p := s.past; let f := p.memFmt 0x100 0; s.clear (.vst hd 1 (x 10) m7) && p.fenced false true == [] && good (p.checkElems (elemBytes (fmtBits f 0)) kWrite (p.velems 0x100 0 (fmtBits f 0) (p.th.denseIdx (perLane 0))))) = true := by decide +kernel
theorem witness_vectorMemory_3 :
    (let s := onTh (sup [(10, 0x100)]) fun t => { t with vact := 0x401 }; let p := s.past; let f := p.memFmt 0x100 0; s.clear (.vgather hd 1 2 (x 10) m7) && good (p.checkElems (elemBytes (fmtBits f 0)) kRead (p.velems 0x100 0 (fmtBits f 0) (p.gatherIdx 2 (perLane 0))))) = true := by decide +kernel
theorem witness_vectorMemory_4 :
    (let s := onTh (sup [(10, 0x100)]) fun t => { t with vact := 0x401 }; let p := s.past; let f := p.memFmt 0x100 0; s.clear (.vscatter hd 1 2 (x 10) m7) && good (p.checkElems (elemBytes (fmtBits f 0)) kWrite (p.velems 0x100 0 (fmtBits f 0) (p.gatherIdx 2 (perLane 0))))) = true := by decide +kernel

/-! claims: a claim of free items and of another's, a release, and the claim of one item of a fresh core. -/
theorem witness_claims_1 :
    (let s := sup [(1, 0xFFFF)]; s.clear (.oclaim hd (x 1) (x 2) m8) && ((maskBits (s.reg (x 1))).filter s.past.itemBusy) == []) = true := by decide +kernel
theorem witness_claims_2 :
    (let s := (sup [(1, 0xFFFF)]).onCore 0 (Core.claim 7 15); s.clear (.oclaim hd (x 1) (x 2) m8) && ((maskBits (s.reg (x 1))).filter s.past.itemBusy) == [15]) = true := by decide +kernel
theorem witness_claims_3 :
    (let s := claimed; s.clear (.orel hd (x 1) (x 2) m8) && s.myCore.itemOwner 0 == some 1 && s.myCore.itemOwner 8 == some 1 && !s.tileBusy 0 0) = true := by decide +kernel
theorem witness_claims_4 :
    ((Core.claim 1 15 Core.new).itemOwner 15 == some 1 && Core.new.itemOwner 15 != some 1) = true := by decide +kernel

/-! fills: slots that are held, another's and not held; with a free scale register and with none. -/
theorem witness_fills_1 :
    (let s := claimed; let p := s.past; s.clear (.tld hd 0 (x 10) (x 11) 3 m8) && p.slotReason 0 (fun st => st != 0) == none && p.fenced true false == [] && good (p.checkRange p.who 0x100 (tldBytes (tldSource 3 (p.memFmt 0x100 3)) (rowLen (slotPlain 3))) kRead)) = true := by decide +kernel
theorem witness_fills_2 :
    (let s := claimed; let p := s.past; s.clear (.tld hd 0 (x 10) (x 11) 3 { m8 with sc := true }) && good (p.checkRange p.who 0x8000 (32 * (rowLen (slotPlain 3) / blkSize 0)) kRead) && p.freeScale == some 0) = true := by decide +kernel
theorem witness_fills_3 :
    (let s := claimed.onCtx 0 fun c => { c with bankmask := 0xFFFFFFFF }; let p := s.past; s.clear (.tld hd 0 (x 10) (x 11) 3 { m8 with sc := true }) && p.freeScale == none && p.slotReason 0 (fun st => st != 0) == none) = true := by decide +kernel
theorem witness_fills_4 :
    (let s := claimed; s.clear (.tfill hd 0 (x 10) (x 12) 0 3 m8) && s.past.slotReason 0 (fun st => st != 0) == none) = true := by decide +kernel
theorem witness_fills_5 :
    (let s := claimed.onCore 0 fun k => k.setScale 5 { Scale.new with owner := some 1 }; s.clear (.tfill hd 0 (x 10) (x 12) 5 3 { m8 with sc := true }) && s.past.scaleHeld 5 == none) = true := by decide +kernel
theorem witness_fills_6 :
    (let s := sup [(10, 0x100)]; s.clear (.tld hd 0 (x 10) (x 11) 3 m8) && s.clear (.tfill hd 0 (x 10) (x 12) 0 3 m8) && (s.past.slotReason 0 (fun st => st != 0)).isSome) = true := by decide +kernel

/-! tiles: a tile that is held and CLAIMED, with a permitted pair, a forbidden one and a stale one; one that is not held. -/
theorem witness_tiles_1 :
    (let s := tiled; let p := s.past; ([.mzero hd 0 m8, .manch hd 0 (x 1) m8, .mma hd 0 0 1 m8, .mdrain hd 0 (x 1) (x 3) m8, .mstat hd 0 (x 1) (x 2) m8] : List Instr).all s.clear && p.tileReason 0 (· == 1) == none && p.slotReason 0 (fun st => st == 2 || st == 3) == none && p.slotReason 1 (fun st => st == 2 || st == 3) == none && pairOk 3 3 && !s.myCore.stale (s.myCore.slot 0) && p.otherVecSlot && (s.myCore.slot 0).unit) = true := by decide +kernel
theorem witness_tiles_2 :
    (let s := tiled.onCore 0 fun k => k.setSlot 1 { k.slot 1 with fmt := 6 }; s.clear (.mma hd 0 0 1 m8) && !pairOk 3 6) = true := by decide +kernel
theorem witness_tiles_3 :
    (let s := tiled.onCore 0 fun k => k.setSlot 0 { k.slot 0 with unit := false, z := 5, gen := 3 }; s.clear (.mma hd 0 0 1 m8) && s.myCore.stale (s.myCore.slot 0)) = true := by decide +kernel
theorem witness_tiles_4 :
    (let s := tiled.onCtx 0 fun c => { c with slotmask := 0x0000FF0700000003 }; s.clear (.mdrain hd 0 (x 1) (x 3) m8) && !s.past.otherVecSlot && s.past.tileReason 0 (· == 1) == none) = true := by decide +kernel
theorem witness_tiles_5 :
    (let s := tiled.onCore 0 fun k => k.setTile 0 { k.tile 0 with state := 2 }; s.past.tileReason 0 (fun _ => true) == none && (s.past.tileReason 0 (· == 1)).isSome && s.clear (.mstat hd 0 (x 1) (x 2) m8) && s.clear (.mzero hd 0 m8)) = true := by decide +kernel
theorem witness_tiles_6 :
    (let s := sup []; s.clear (.mzero hd 0 m8) && s.clear (.mma hd 0 0 1 m8) && (s.past.tileReason 0 (· == 1)).isSome) = true := by decide +kernel

/-! rows: a row handler that stores, that fills a slot that is CLAIMED, FILLING with the same and another format; a drained one; any other thread. -/
theorem witness_rows_1 :
    (let s := (onTh tiled fun t => { t with work := .row 1 0 0 0 }); let p := s.past; let els := p.rowElems 1; let bs := rowBytes 1 (els.map (·.1)); p.th.isRow && s.clear (.rowout hd 0 (x 3) (x 1) 1 m8) && p.fenced false true == [] && good (p.checkElems (rowUnit 1) kWrite ((List.range (bs.length / rowUnit 1)).map fun n => (⟨0, n, 0, 0x8000 + word (n * rowUnit 1), 0⟩ : VElem)))) = true := by decide +kernel
theorem witness_rows_2 :
    (let s := (onTh tiled fun t => { t with work := .row 1 0 0 0 }).onCore 0 fun k => k.setSlot 0 { k.slot 0 with state := 1 }; s.clear (.rowout hd 0 (x 0) (x 0) 3 m8) && s.past.slotGranted 0 && (s.myCore.slot 0).owner == some s.cur && slotFmt 3 && decide (32 * 0 + 32 ≤ rowLen 3)) = true := by decide +kernel
theorem witness_rows_3 :
    (let s := (onTh tiled fun t => { t with work := .row 1 0 0 0 }).onCore 0 fun k => k.setSlot 0 { k.slot 0 with state := 3 }; s.clear (.rowout hd 0 (x 0) (x 0) 3 m8) && s.clear (.rowout hd 0 (x 0) (x 0) 7 m8) && (s.myCore.slot 0).fmt == 3 && slotFmt 7 && decide (32 ≤ rowLen 7)) = true := by decide +kernel
theorem witness_rows_4 :
    (let s := (onTh tiled fun t => { t with work := .row 1 0 0 0 }); s.clear (.rowend hd m8) && s.past.drained 1 && s.past.th.isRow) = true := by decide +kernel
theorem witness_rows_5 :
    (let s := tiled; s.clear (.rowout hd 0 (x 0) (x 0) 3 m8) && s.clear (.rowend hd m8) && !s.past.th.isRow) = true := by decide +kernel
theorem witness_rows_6 :
    (let d : Tile := { Tile.new with state := 2, owner := some 1, drain := some (0x40, 0, 0, 1, 9) }; let s := (onTh tiled fun t => { t with work := .row 1 0 0 0, outst := [⟨9, [], .done [], 1, [], [], []⟩] }).onCore 0 fun k => k.setTile 0 d; let q := onTh s fun t => { t with outst := [] }; s.drainOf == some (1, 9) && (s.myCore.slot 0).owner == some 1 && (s.thread 1).outst.any (·.id == 9) && q.drainOf == some (1, 9) && (q.thread 1).outst.all (·.id != 9)) = true := by decide +kernel

/-! accumulation: the ends of the range of anchors, and elements of each kind. -/
theorem witness_accumulation_1 :
    ((decide ((-512 : Int) ≤ -512 ∧ (511 : Int) ≤ 511)) && (window 511 (2 ^ 700)).2.2 == (window 511 (2 ^ 700)).2.2 && (window (-512) (2 ^ 300)).2.2) = true := by decide +kernel
theorem witness_accumulation_2 :
    (((⟨false, false, false, true, 0⟩ : Dot).nan == false || true) && (⟨0, 0⟩ : Elem).cls == 0 && (⟨3, 0⟩ : Elem).cls == 3) = true := by decide +kernel

/-! scales: registers that are free, held and another's; slots bound to UNIT, to a current and to a stale generation. -/
theorem witness_scales_1 :
    (let s := scaled; let p := s.past; p.scaleReason 0 == none && ([.sld hd (x 3) 0 m8, .sst hd (x 3) 0 m8, .sadd hd (x 1) 0 m8, .smax hd (x 1) 0 m8, .smin hd (x 1) 0 m8, .sset hd (x 1) 0 m8, .sreblk hd (x 1) 0 m8] : List Instr).all s.clear && p.fenced true false == [] && good (p.checkRange p.who 0x8000 (512 / blkSize 0 * 32) kRead) && good (p.checkRange p.who 0x8000 1024 kWrite)) = true := by decide +kernel
theorem witness_scales_2 :
    (let s := scaled.onCore 0 fun k => k.setScale 0 { Scale.new with owner := some 7 }; s.past.scaleReason 0 == some 1 && s.clear (.sset hd (x 1) 0 m8)) = true := by decide +kernel
theorem witness_scales_3 :
    (let s := scaled; let p := s.past; s.clear (.smov hd 0 0 m8) && p.slotReason 0 (fun st => st != 0) == none && p.scaleReason 0 == none && !s.myCore.stale (s.myCore.slot 0) && (s.myCore.slot 0).unit && (s.reg (x 2)).getLsbD 0 && s.clear (.sbind hd 0 (x 2) 0 m8) && s.clear (.squery hd 0 (x 4) m8) && p.slotReason 0 (fun st => st == 2 || st == 3) == none) = true := by decide +kernel
theorem witness_scales_4 :
    (let s := scaled.onCore 0 fun k => k.setSlot 0 { k.slot 0 with unit := false, z := 5, gen := 3 }; s.clear (.smov hd 0 0 m8) && s.myCore.stale (s.myCore.slot 0) && s.past.scaleReason 0 == none) = true := by decide +kernel
theorem witness_scales_5 :
    (let s := scaled.onCore 0 fun k => k.setScale 0 { Scale.new with owner := some 1 }; s.past.scaleHeld 0 == none && s.clear (.sbind hd 0 (x 3) 0 m8) && (s.reg (x 3)).getLsbD 0 == false && decide (rowLen 3 / blkSize 0 ≤ 32) && s.clear (.sfree hd 0 m8)) = true := by decide +kernel
theorem witness_scales_6 :
    (let s := scaled.onCore 0 fun k => (k.setScale 0 { Scale.new with owner := some 1 }).setSlot 0 { k.slot 0 with fmt := 6 }; s.clear (.sbind hd 0 (x 3) 0 { m8 with blk := 1 }) && decide (32 < rowLen (s.myCore.slot 0).fmt / blkSize 1) && s.past.slotReason 0 (fun st => st == 2 || st == 3) == none) = true := by decide +kernel
theorem witness_scales_7 :
    ((0 : Nat) < 64 && decide ((1023 : Nat) < 1024) && (Core.new.scale 63).owner != some 1) = true := by decide +kernel

/-! service: a call whose gate refuses, one that is taken, an exit, and an exit that drains first. -/
theorem witness_service_1 :
    (let s := sup [(1, 3), (6, 0x400000)]; s.past.drained 1 && s.past.gateStatus 3 (s.xr 1) != 0 && s.clear (.gatedServiceCall hd 0 3)) = true := by decide +kernel
theorem witness_service_2 :
    (let s := onTh (sup []) fun t => { t with outst := [⟨9, [], .done [], 1, [], [], []⟩] }; s.clear (.exit hd 0) && !s.past.drained 1) = true := by decide +kernel
theorem witness_service_3 :
    ((sup []).clear (.exit hd 0) && (sup []).past.joinFault == none) = true := by decide +kernel
theorem witness_service_4 :
    (let s := (sup [(1, 3), (2, 0), (3, 0x420000), (4, 64), (6, 0x400000)]).onCtx 0 fun c => { c with caps := [(3, (0x0302, 0))] }; let p := s.past; p.drained 1 && p.gateStatus 3 (s.xr 1) == 0 && good (p.gateChecks 3) && decide (s.myCtx.calls < 256) && s.releaseIds 4 == [] && s.clear (.gatedServiceCall hd 0 3) && match p.translate p.who 0x400000 kWrite with | .ok t => !p.reserved (.thread s.cur) t.pa 8 | .error _ => false) = true := by decide +kernel

/-! fork: a fork with room, one to a misaligned address, the end of a task and of another thread, and a join. -/
theorem witness_fork_1 :
    (let s := sup [(1, 0x40), (2, 0x100), (3, 0x44)]; s.clear (.fork hd (x 1) (x 2) false) && goes s.past true true false 0x100 8 kWrite && decide ((s.core 0).deque.length < 64) && s.clear (.fork hd (x 3) (x 2) false) && (s.reg (x 3)).toNat % 8 != 0 && s.clear (.joinw hd (x 2) false) && goes s.past true true false 0x100 8 kRead) = true := by decide +kernel
theorem witness_fork_2 :
    (let s := onTh (sup []) fun t => { t with work := .task 0x100 }; s.clear (.tend hd false) && s.th.isTask && s.past.drained 1 && good (s.past.check s.past.who 0x100 8 kWrite)) = true := by decide +kernel
theorem witness_fork_3 :
    ((sup []).clear (.tend hd false) && !(sup []).th.isTask) = true := by decide +kernel
theorem witness_fork_4 :
    (let s := onTh (sup []) fun t => { t with work := .task 0x101 }; s.clear (.tend hd false) && !good (s.past.check s.past.who 0x101 8 kWrite)) = true := by decide +kernel

/-! barriers: a member that has not arrived and one that has; a thread that is none; a number that is not granted; the last arrival. -/
theorem witness_barriers_1 :
    (let s := (sup [(1, 0), (2, 0x100), (3, 8)]).setBarrier (barrierKey 0 0) ⟨0x7, 0, 5, []⟩; s.barrierGranted 0 0 0 && (s.barrier (barrierKey 0 0)).members &&& slotBit 0 1 != 0 && s.releaseIds 2 == [] && ([.barr hd (x 4) (x 1) false, .bwait hd (x 1) false, .bmiss hd (x 4) (x 1) (x 3) false] : List Instr).all s.clear) = true := by decide +kernel
theorem witness_barriers_2 :
    (let s := (sup []).setBarrier (barrierKey 0 31) ⟨0x7, 0x2, 5, []⟩; (s.barrier (barrierKey 0 31)).arrived &&& slotBit 0 1 != 0 && s.clear (.bwait hd (x 1) false)) = true := by decide +kernel
theorem witness_barriers_3 :
    (let s := sup []; (s.barrier (barrierKey 0 0)).members &&& slotBit 0 1 == 0 && s.clear (.barr hd (x 4) (x 1) false)) = true := by decide +kernel
theorem witness_barriers_4 :
    (let s := (sup [(1, 0), (2, 0x100), (3, 8)]).setBarrier (barrierKey 0 0) ⟨0x7, 0, 5, []⟩; let p := s.past; s.barrierGranted 0 0 0 && s.clear (.bcfg hd (x 1) (x 2) false) && match dread p 0x100 16 80 with | some (q, bs) => (onTh q fun t => { t with trace := [] }).membersOwned q.th.core (BitVec.ofNat 528 (fromBytes (bs.take 66))) | none => false) = true := by decide +kernel
theorem witness_barriers_5 :
    (let s := (sup [(1, 31)]).onCtx 0 fun c => { c with barriers := [] }; !s.barrierGranted 0 0 31 && ([.barr hd (x 4) (x 1) false, .bwait hd (x 1) false, .bmiss hd (x 4) (x 1) (x 3) false, .bcfg hd (x 1) (x 2) false] : List Instr).all s.clear) = true := by decide +kernel
theorem witness_barriers_6 :
    (let b : Barrier := ⟨7, 3, 5, []⟩; (b.arrived ||| 4) &&& b.members == b.members && (b.arrived ||| 0) &&& b.members != b.members && b.held == []) = true := by decide +kernel

/-! nomads: a nomadic thread that moves to another core, to its own and outside its core set; one that is not nomadic, with and without units. -/
theorem witness_nomads_1 :
    (let s := onTh (sup [(1, 1), (2, 0), (3, 0xFFFF), (10, 0x100)]) fun t => { t with nomad := true }; s.past.drained 1 && s.clear (.migrate hd (x 1) false) && decide ((s.reg (x 1)).toNat < Config.cores s.part) && s.inSet 0 1 && decide (s.th.slot < slotsOf (s.core 1).mode) && !s.th.exl && s.clear (.migrate hd (x 2) false) && s.clear (.nomad hd false) && s.clear (.nomad hd true)) = true := by decide +kernel
theorem witness_nomads_2 :
    (let s := onTh (sup [(1, 1), (2, 0), (3, 0xFFFF), (10, 0x100)]) fun t => { t with nomad := true }; decide (Config.cores s.part ≤ (s.reg (x 3)).toNat) && s.clear (.migrate hd (x 3) false)) = true := by decide +kernel
theorem witness_nomads_3 :
    (let s := sup [(10, 0x100)]; !s.th.nomad && s.clear (.migrate hd (x 1) false) && !s.myCore.holdsUnits 1 && s.clear (.nomad hd false) && canonical 0x100 && good (s.past.translate s.past.who 0x100 kRead) && s.clear (.homeq hd (x 4) (x 10) false)) = true := by decide +kernel
theorem witness_nomads_4 :
    (let s := tiled; s.myCore.holdsUnits 1 && s.clear (.nomad hd false) && !s.th.nomad) = true := by decide +kernel
theorem witness_nomads_5 :
    (homeKind (.bank 0 3) != none && homeKind (.slice 5) != none) = true := by decide +kernel

/-! engineCommands: a transfer, a Geyser operation, a receive and a publication; descriptors that fail their checks. -/
theorem witness_engineCommands_1 :
    (let s := wordsAt (sup [(10, 0x100), (1, 0x10000), (2, 0x10000), (3, 5)]) 0xF00000000100 [0x400000, 0x200000, 64, 0, 0, 0, 0]; let p := s.past; p.fenced false true == [] && lready p 0x100 56 && s.clear (.xfer hd (x 10) (x 4) mB) && good (firstError (xferChecks p 0x100 (x 4) mB)) && xferFmts p 0x100 (x 4) mB == [0, 0] && (run (.xfer hd (x 10) (x 4) mB) s).cmds.length == 1 && free (p.localRead 0x100 56) [(0x400000, 64, kRead), (0x200000, 64, kWrite)]) = true := by decide +kernel
theorem witness_engineCommands_2 :
    (let s := wordsAt (sup [(10, 0x100), (1, 0x10000), (2, 0x10000), (3, 5)]) 0xF00000000100 [0x400000, 0x200000, 64, 0, 0, 0, 2]; lready s.past 0x100 56 && s.clear (.xfer hd (x 10) (x 4) mB) && trapOf (firstError (xferChecks s.past 0x100 (x 4) mB)) == (Cause.prot.code, 0x130) && free (s.past.localRead 0x100 56) [(0x400000, 64, kRead), (0x200000, 64, kWrite)]) = true := by decide +kernel
theorem witness_engineCommands_5 :
    (let s := wordsAt { sup [(10, 0x100)] with part := .af840 } 0xF00000000100 [0x100, 0x200000, 64, 0, 0, 0, 0]; let q := s.onCore 0 fun k => { k with bfmt := [(0, 8)] }; lready q.past 0x100 56 && q.clear (.xfer hd (x 10) (x 4) mB) && (xferFmts q.past 0x100 (x 4) mB).contains 8 && !Config.cinder s.part && ([.xfer hd (x 10) (x 4) { mB with df := 8 }, .tld hd 0 (x 10) (x 11) 8 m8] : List Instr).all (fun i => has s.threads s.cur && s.decodeChecks i.info == none && !s.outstanding (.pred 0) && !s.poisonedDst (.pred 0) && s.pred 0 != false && s.unitMissing i.info) && free (q.past.localRead 0x100 56) [(0x100, 64, kRead), (0x200000, 64, kWrite)]) = true := by decide +kernel
theorem witness_engineCommands_3 :
    (let s := sup [(10, 0x108)]; (s.reg (x 10)).toNat % 16 != 0 && s.clear (.xfer hd (x 10) (x 4) mB) && s.clear (.npost hd (x 10) mB)) = true := by decide +kernel
theorem witness_engineCommands_4 :
    (let s := (wordsAt (sup [(10, 0x100), (1, 0x10000), (2, 0x10000), (3, 5)]) 0xF00000000100 [0x10002, 0x400000, 32, 7, 2, 0, 0, 0]).onCtx 0 fun c => { c with caps := [(1, (0x805, 2)), (2, (0x306, 1))] }; let l := s.past.localRead 0x100 64; let w : List Nat := [0x10004, 0x400000, 32, 7, 0, 0, 0, 0]; lready s.past 0x100 64 && s.clear (.npost hd (x 10) mB) && good (firstError (npostChecks l 0x100)) && (run (.npost hd (x 10) mB) s).cmds.length == 1 && lready (wordsAt s 0xF00000000100 w).past 0x100 64 && trapOf (firstError (npostChecks ((wordsAt s 0xF00000000100 w).past.localRead 0x100 64) 0x100)) == (Cause.prot.code, 0x100) && free l [(0x400000, 32, kRead)]) = true := by decide +kernel
theorem witness_engineCommands_6 :
    (let s := wordsAt (sup [(10, 0x100), (1, 0x10000), (2, 0x10000), (3, 5)]) 0xF00000000100 [0xFFFF0001, 0x400000, 32, 7, 8, 0, 0, 0]; let l := s.past.localRead 0x100 64; let w : List Nat := [0xFFFF0003, 0x400000, 32, 7, 8, 0, 0, 0]; s.th.trace.isEmpty && lready s.past 0x100 64 && good (firstError (nrecvChecks l 0x100)) && decide (l.postedBufs 0 < l.available 0 (·.nrecv)) && s.clear (.nrecv hd (x 10) mB) && (run (.nrecv hd (x 10) mB) s).cmds.length == 1 && trapOf (firstError (nrecvChecks ((wordsAt s 0xF00000000100 w).past.localRead 0x100 64) 0x100)) == (Cause.prot.code, 0x100) && free l [(0x400000, 32, kWrite)]) = true := by decide +kernel
theorem witness_engineCommands_7 :
    (let s := (sup [(10, 5)]).onCtx 0 fun c => { c with regions := [(5, ⟨0x400000, 1, [0x40], []⟩)] }; has s.myCtx.regions 5 && s.clear (.publish hd (x 4) (x 10) mB) && s.past.fenced false true == []) = true := by decide +kernel
theorem witness_engineCommands_8 :
    (let s := sup [(10, 5)]; !has s.myCtx.regions 5 && s.clear (.publish hd (x 4) (x 10) mB)) = true := by decide +kernel
theorem witness_engineCommands_9 :
    (let s := sup []; has s.threads s.cur && decide (s.queued s.th.core < 64)) = true := by decide +kernel
theorem witness_engineCommands_10 :
    (let s := { sup [] with cmds := (List.range 64).map fun n => { cmd (.publish 0 (x 1)) false with id := n } }; decide (64 ≤ s.queued s.th.core)) = true := by decide +kernel

/-! shadowRegions: a range that fits and lies apart, one that overlaps, no free region, a region that is closed, none to close, a range that is not aligned. -/
theorem witness_shadowRegions_1 :
    (let s := sup [(1, 0x400000), (2, 0x10000)]; let p := s.past; s.clear (.shadow hd (x 4) (x 1) (x 2) mB) && good (p.checkRange p.who 0x400000 0x10000 kWrite) && good ((p.rememberAll p.who kWrite (pagesOf 0x400000 0x10000)).regionFrames 1 0x400000) && s.myCtx.regions == [] && ((List.range 64).find? fun i => !has s.myCtx.regions i) == some 0) = true := by decide +kernel
theorem witness_shadowRegions_2 :
    (let s := (sup [(1, 0x400000), (2, 0x10000)]).onCtx 0 fun c => { c with regions := [(0, ⟨0x400000, 1, [0x40], []⟩)] }; s.clear (.shadow hd (x 4) (x 1) (x 2) mB) && !(s.myCtx.regions.all fun r => !(decide (0x400000 < r.2.base.toNat + r.2.pages * 0x10000) && decide (r.2.base.toNat < 0x410000)))) = true := by decide +kernel
theorem witness_shadowRegions_3 :
    (let s := (sup [(1, 0x400000), (2, 0x10000)]).onCtx 0 fun c => { c with regions := (List.range 64).map fun i => (i, ⟨word (0x1000000 + 0x10000 * i), 1, [0x100 + i], []⟩) }; ((List.range 64).find? fun i => !has s.myCtx.regions i) == none && s.myCtx.regions.all (fun r => decide (0x410000 ≤ r.2.base.toNat)) && s.clear (.shadow hd (x 4) (x 1) (x 2) mB)) = true := by decide +kernel
theorem witness_shadowRegions_4 :
    (let s := (sup [(1, 0x400000)]).onCtx 0 fun c => { c with regions := [(0, ⟨0x400000, 1, [0x40], []⟩)] }; s.clear (.shadow hd (x 4) (x 1) (x 2) mB) && (s.myCtx.regions.find? fun r => r.2.base == 0x400000).isSome && (s.reg (x 2)).toNat == 0) = true := by decide +kernel
theorem witness_shadowRegions_5 :
    (let s := (sup [(1, 0x500000)]).onCtx 0 fun c => { c with regions := [(0, ⟨0x400000, 1, [0x40], []⟩)] }; s.clear (.shadow hd (x 4) (x 1) (x 2) mB) && (s.myCtx.regions.find? fun r => r.2.base == 0x500000).isNone) = true := by decide +kernel
theorem witness_shadowRegions_6 :
    (let s := sup [(1, 0x8000)]; s.clear (.shadow hd (x 4) (x 1) (x 2) mB) && (s.reg (x 1)).toNat % 0x10000 != 0) = true := by decide +kernel

/-! launches: a record that can be launched, with and without a free unit; one that cannot; and each state of a launch that is waited for. -/
theorem witness_launches_1 :
    (let s := wordsAt (wordsAt (wordsAt (wordsAt (sup [(1, 0x500003), (2, 7), (5, 0x1001)]) 0x500000 [0x21, 0x600000, 0, 0, 0, 0, 0, 0, 0x14]) 0x600000 [0x000100454C415355, 0, 0x10000, 0, 0x40]) 0x600040 [0x0000000100000001, 0x100]) 0x600100 [0x1000, 0x10, 0, 0]; let p := s.past; good (p.readLaunch p.who 0x500003) && p.unitFree 0 && s.myCtx.freeEntry == some 0 && s.clear (.launch hd (x 4) (x 1) (x 2) mB) && (List.range 7).all (fun n => s.releaseIds n == []) && decide (s.myCtx.inQueue 3 < 256)) = true := by decide +kernel
theorem witness_launches_2 :
    (let s := (wordsAt (wordsAt (wordsAt (wordsAt (sup [(1, 0x500003), (2, 7), (5, 0x1001)]) 0x500000 [0x21, 0x600000, 0, 0, 0, 0, 0, 0, 0x14]) 0x600000 [0x000100454C415355, 0, 0x10000, 0, 0x40]) 0x600040 [0x0000000100000001, 0x100]) 0x600100 [0x1000, 0x10, 0, 0]).onCtx 0 fun c => { c with lquota := 0 }; s.clear (.launch hd (x 4) (x 1) (x 2) mB) && !s.past.unitFree 0 && good (s.past.readLaunch s.past.who 0x500003)) = true := by decide +kernel
theorem witness_launches_3 :
    (let s := sup [(1, 0x500010)]; (match s.past.readLaunch s.past.who 0x500010 with | .error (.status n) => n == 3 | _ => false) && s.clear (.launch hd (x 4) (x 1) (x 2) mB)) = true := by decide +kernel
theorem witness_launches_4 :
    (let s := sup [(5, 0x1001)]; s.myCtx.launch? 0x1001 == none && s.clear (.lwait hd (x 4) (x 5) mB) && s.clear (.lstat hd (x 4) (x 5) mB)) = true := by decide +kernel
theorem witness_launches_5 :
    (let s := (sup [(5, 0x1001)]).onCtx 0 fun c => { c with launches := [(⟨0x1001, 3, 2, false, [], ⟨0, 0, false, 0, 0, 0, 0, false, 0, 0, 0, 0, 0⟩, [], 0, .completed, 4, false, true, none, false, [], [], none, [], [], none⟩ : Launch)] }; ((s.myCtx.launch? 0x1001).map (·.state)) == some .completed && s.clear (.lwait hd (x 4) (x 5) mB)) = true := by decide +kernel
theorem witness_launches_6 :
    (let s := (sup [(5, 0x1001)]).onCtx 0 fun c => { c with launches := [(⟨0x1001, 3, 2, false, [], ⟨0, 0, false, 0, 0, 0, 0, false, 0, 0, 0, 0, 0⟩, [], 0, .queued, 4, false, true, none, false, [], [], none, [], [], none⟩ : Launch)] }; ((s.myCtx.launch? 0x1001).map (·.state)) == some .queued && s.clear (.lwait hd (x 4) (x 5) mB)) = true := by decide +kernel
theorem witness_launches_7 :
    (let s := (sup [(5, 0x1001)]).onCtx 0 fun c => { c with launches := [(⟨0x1001, 3, 2, false, [], ⟨0, 0, false, 0, 0, 0, 0, false, 0, 0, 0, 0, 0⟩, [], 0, .deferred, 4, false, false, none, false, [], [], none, [], [], none⟩ : Launch)] }; ((s.myCtx.launch? 0x1001).map (·.state)) == some .deferred && s.clear (.lwait hd (x 4) (x 5) mB) && s.past.ownUnit s.cur == none && s.past.drained 1) = true := by decide +kernel

/-! messages: a message to a living thread and to none, through no gate, and received, with an empty mailbox both ways. -/
theorem witness_messages_1 :
    (let s := sup [(1, word placedNative.thread)]; let p := s.past; p.mailbox 0 placedNative.thread == some (some 1) && (s.past.mailTo 0 placedNative.thread (some 1) 5 0).isSome && s.clear (.cmsg hd (x 4) (x 1) (x 2) mB) && s.releaseIds 4 == [] && decide (p.queued 0 < 64) && (s.thread 1).inSlot && s.runs 0) = true := by decide +kernel
theorem witness_messages_2 :
    (let s := sup [(1, 77)]; s.past.mailbox 0 77 == none && s.clear (.cmsg hd (x 4) (x 1) (x 2) mB) && (s.past.mailTo 0 77 none 5 0).isSome && decide (s.myCtx.inbox.length < 256)) = true := by decide +kernel
theorem witness_messages_3 :
    (let s := sup [(1, 0x50001)]; !s.myCtx.hasGate 5 && s.clear (.cmsg hd (x 4) (x 1) (x 2) mB)) = true := by decide +kernel
theorem witness_messages_4 :
    (let s := onTh (sup []) fun t => { t with mail := [(3, 1)] }; s.clear (.mrecv hd (x 4) (x 1) mB) && s.th.mail != []) = true := by decide +kernel
theorem witness_messages_5 :
    (let s := sup [(1, 1)]; s.th.mail == [] && (s.reg (x 1)).getLsbD 0 && s.clear (.mrecv hd (x 4) (x 1) mB) && s.clear (.mrecv hd (x 4) (x 2) mB)) = true := by decide +kernel

/-! stepGroups: a descriptor that pairs at once, one with a failing check, one that is not aligned, a member that leaves, and an end of the pairing. -/
theorem witness_stepGroups_1 :
    (let s := wordsAt (sup [(1, 0x40), (2, 0x44), (3, 0x1000)]) 0xF00000000040 [0x2000000009 + 32 * 2^40, 5, 2 ||| (1 <<< 28) ||| (2 <<< 24) ||| (64 <<< 32), 0x200]; let p := s.past; let hdw := dword (p.localBytes 0x40 16) 0; lready p 0x40 16 && s.clear (.stepcfg hd (x 4) (x 1) mC) && hdw.toNat / 2 ^ 36 % 16 == 2 && hdw.toNat / 2 ^ 32 % 16 == 0) = true := by decide +kernel
theorem witness_stepGroups_2 :
    (let s := wordsAt (sup [(1, 0x40), (2, 0x44), (3, 0x1000)]) 0xF00000000040 [0x1000000009 + 1 * 2^40, 5, 1 ||| (64 <<< 32) ||| (2 <<< 24), 0x200]; let p := s.past; let xx := stepDesc (p.localBytes 0x40 32); lready p 0x40 16 && lready (p.localRead 0x40 16) 0x40 32 && s.clear (.stepcfg hd (x 4) (x 1) mC) && xx.succs.length == 1 && xx.preds == [] && ((p.localRead 0x40 16).localRead 0x40 32).stepReason 0 0 xx == none) = true := by decide +kernel
theorem witness_stepGroups_3 :
    (let s := wordsAt (sup [(1, 0x40), (2, 0x44), (3, 0x1000)]) 0xF00000000040 [0x1000000009 + 33 * 2^40, 5, 1, 0x200]; let p := s.past; lready p 0x40 16 && lready (p.localRead 0x40 16) 0x40 32 && s.clear (.stepcfg hd (x 4) (x 1) mC) && ((p.localRead 0x40 16).localRead 0x40 32).stepReason 0 0 (stepDesc (p.localBytes 0x40 32)) == some 2) = true := by decide +kernel
theorem witness_stepGroups_4 :
    (let s := wordsAt (sup [(1, 0x40), (2, 0x44), (3, 0x1000)]) 0xF00000000040 [0]; (s.reg (x 2)).toNat % 64 != 0 && s.clear (.stepcfg hd (x 4) (x 2) mC) && s.clear (.stepcfg hd (x 4) (x 5) mC) && s.reg (x 5) == 0 && !s.isMember 0 0) = true := by decide +kernel
theorem witness_stepGroups_5 :
    (let s := (sup []).onCore 0 fun k => { k with nb := { k.nb with pairing := some (1, 9, x 4, 0), start := 5 } }; s.pairResult 0 == 0 && (s.core 0).nb.pairing != none) = true := by decide +kernel

/-! stepInstructions: a member core with an edge, without it, with and without a pending cut; a core that is no member. -/
theorem witness_stepInstructions_1 :
    (let s := (stepper [⟨2, 0, 0, false, 6, 4, 1, 64, 0x800, false⟩]); s.isMember 0 0 && s.releaseIds 4 == [] && s.clear (.stepend hd (x 4) mC) && s.clear (.stepaddr hd (x 4) (x 2) { mC with edge := 0 }) && s.myCore.nb.succs[0]? != none && s.myCore.edgeWord 0 3 != none && s.clear (.stepq hd (x 4) (x 2) { mC with edge := 0 })) = true := by decide +kernel
theorem witness_stepInstructions_2 :
    (let s := ((sup [(1, 0x40000), (2, 3), (3, 0x201), (6, 8), (7, 0x100)]).onCore 0 fun k => { k with step := 7, stepDone := 6, nb := { k.nb with active := true, asid := 0, start := 5, preds := [], succs := [] } }); s.isMember 0 0 && s.myCore.nb.succs[0]? == none && s.clear (.stepaddr hd (x 4) (x 2) { mC with edge := 0 }) && s.myCore.edgeWord 0 0 == none && s.clear (.stepq hd (x 4) (x 5) { mC with edge := 0 })) = true := by decide +kernel
theorem witness_stepInstructions_3 :
    (let s := ((sup [(1, 0x40000), (2, 3), (3, 0x201), (6, 8), (7, 0x100)]).onCore 0 fun k => { k with step := 7, stepDone := 6, nb := { k.nb with active := true, asid := 0, start := 5, preds := [⟨2, 0, 0, false, 6, 4, 1, 64, 0x800, false⟩], succs := [⟨1, 0, 0, 4, 1, 64, 0x400, 6, false⟩], cutPend := true } }); s.reg (x 5) == 0 && s.myCore.nb.cutPend && s.clear (.cut hd (x 4) (x 5) (x 6) mC) && s.clear (.cut hd (x 4) (x 7) (x 6) mC) && good (s.past.check s.past.who 0x100 8 kWrite)) = true := by decide +kernel
theorem witness_stepInstructions_4 :
    (let s := (stepper [⟨2, 0, 0, false, 6, 4, 1, 64, 0x800, false⟩]); !s.myCore.nb.cutPend && s.clear (.cut hd (x 4) (x 5) (x 6) mC) && s.clear (.cut hd (x 4) (x 7) (x 6) mC) && (match s.past.check s.past.who 0x100 8 kWrite with | .ok t => !s.past.csrBad t.pa 8 false | _ => false)) = true := by decide +kernel
theorem witness_stepInstructions_5 :
    (let s := sup []; !s.isMember 0 0 && s.clear (.stepend hd (x 4) mC) && s.clear (.ldstep hd (x 4) (x 5) (x 6) mC) && s.clear (.cut hd (x 4) (x 5) (x 6) mC)) = true := by decide +kernel

/-! edgeLoads: a load of a finished step, of an unfinished one, of a step of a producer that left, of a loose edge, and its traps. -/
theorem witness_edgeLoads_1 :
    (let s := (stepper [⟨2, 0, 0, false, 7, 4, 1, 64, 0x800, false⟩]); let i := Instr.ldstep hd (x 8) (x 9) (x 10) { mC with edge := 0 }; s.isMember 0 0 && s.past.fenced true false == [] && s.th.kept == [] && s.clear i && decide (0 ≤ ((7 : Word) - 7).toInt) && decide (0 + 2 ^ mC.sz.toNat ≤ 64) && !decide (0 ≤ ((6 : Word) - 1 - 7).toInt)) = true := by decide +kernel
theorem witness_edgeLoads_2 :
    (let s := (stepper [⟨2, 0, 0, false, 6, 4, 1, 64, 0x800, false⟩]); let i := Instr.ldstep hd (x 8) (x 9) (x 10) { mC with edge := 0 }; s.isMember 0 0 && s.past.fenced true false == [] && s.th.kept == [] && s.clear i && !decide (0 ≤ ((6 : Word) - 7).toInt)) = true := by decide +kernel
theorem witness_edgeLoads_3 :
    (let s := (stepper [⟨2, 0, 0, false, 6, 4, 1, 64, 0x800, true⟩]); let i := Instr.ldstep hd (x 8) (x 9) (x 10) { mC with edge := 0 }; s.isMember 0 0 && s.past.fenced true false == [] && s.th.kept == [] && s.clear i && (s.myCore.nb.preds[0]?.map (·.left)) == some true) = true := by decide +kernel
theorem witness_edgeLoads_4 :
    (let s := (stepper [⟨2, 0, 0, true, 6, 4, 1, 64, 0x800, false⟩]); let i := Instr.ldstep hd (x 8) (x 9) (x 10) { mC with edge := 0 }; s.isMember 0 0 && s.past.fenced true false == [] && s.th.kept == [] && s.clear i && decide (0 ≤ ((6 : Word) - s.myCore.nb.start).toInt) && (s.myCore.nb.preds[0]?.map (·.loose)) == some true) = true := by decide +kernel
theorem witness_edgeLoads_5 :
    (let s := (stepper []); let i := Instr.ldstep hd (x 8) (x 9) (x 10) { mC with edge := 0 }; s.isMember 0 0 && s.past.fenced true false == [] && s.th.kept == [] && s.clear i && s.myCore.nb.preds[0]? == none) = true := by decide +kernel
theorem witness_edgeLoads_6 :
    (let s := (stepper [⟨2, 0, 0, false, 6, 4, 1, 64, 0x800, false⟩]); let i := Instr.ldstep hd (x 8) (x 2) (x 10) { mC with edge := 0 }; s.clear i && (s.reg (x 2)).toNat % 2 ^ mC.sz.toNat != 0 && s.clear (.ldstep hd (x 8) (x 1) (x 10) { mC with edge := 0 }) && decide (64 < (s.reg (x 1)).toNat + 8) && (s.reg (x 1)).toNat % 8 == 0) = true := by decide +kernel
theorem witness_edgeLoads_7 :
    (let s := (stepper [⟨2, 0, 0, false, 6, 4, 1, 64, 0x800, false⟩]); let i := Instr.ldstep hd (x 8) (x 9) (x 6) { mC with edge := 0 }; s.clear i && decide (0 ≤ (s.myCore.stepDone - word 1 - (s.myCore.step - s.reg (x 6))).toInt)) = true := by decide +kernel

/-! controlRegisters: a register that may be read and written, one that may not be written, and a thread. -/
theorem witness_controlRegisters_1 :
    (let s := sup [(1, 3)]; s.clear (.mfcr hd (x 4) 0x101 mR) && s.past.crReadCheck 0x101 == none && s.clear (.mtcr hd (x 4) (x 1) 0x101 mR) && s.past.crWriteCheck 0x101 3 0 == none && has s.threads s.cur) = true := by decide +kernel
theorem witness_controlRegisters_2 :
    (let s := sup [(1, 3)]; let q := s.onCtx 0 fun c => { c with bankmask := 1 }; s.clear (.mtcr hd (x 4) (x 1) 0x050 mR) && (s.past.crWriteCheck 0x050 11 0).isSome && q.clear (.mfcr hd (x 4) 0x051 mR) && (q.past.crReadCheck 0x051).isSome) = true := by decide +kernel
theorem witness_controlRegisters_3 :
    (let s := onTh (sup []) fun t => { t with slot := 20 }; s.vecSlot == false) = true := by decide +kernel

/-! privilege: a user thread, a supervisor thread that is not of the root, a thread of a control core, and a word with a reserved field. -/
theorem witness_privilege_1 :
    (let s := usr []; has s.threads s.cur && !s.th.cc && !s.th.sup && decide (256 ≤ (0x100 : BitVec 12).toNat)) = true := by decide +kernel
theorem witness_privilege_2 :
    (let s := onTh (sup []) fun t => { t with asid := 5 }; has s.threads s.cur && !s.th.cc && s.th.asid != 0 && decide (0x400 ≤ (0x400 : BitVec 12).toNat)) = true := by decide +kernel
theorem witness_privilege_3 :
    (let s := ctl []; has s.threads s.cur && s.th.cc) = true := by decide +kernel
theorem witness_privilege_4 :
    (let s := sup []; has s.threads s.cur && !s.th.cc && s.th.sup && s.th.asid == 0 && !crKnown 0x7FF) = true := by decide +kernel

/-! threadImages: a thread that can be saved, none, one that may not; an image that can be loaded, one that is none. -/
theorem witness_threadImages_1 :
    (let s := twoThreads; let p := s.past; (match p.saveTarget 9 with | .ok (some u) => u == 5 && good (p.checkRange p.who 0x410000 (imageSize (p.hasVec (p.thread u)) (p.heldUnits u)) kWrite) && p.savable u && (p.rangeHeld p.who 0x410000 (imageSize (p.hasVec (p.thread u)) (p.heldUnits u)) kWrite).isNone | _ => false) && p.ownIds == [] && s.clear (.tsave hd (x 4) (x 1) (x 2) mD)) = true := by decide +kernel
theorem witness_threadImages_2 :
    (let s := sup [(1, 0x123), (2, 0x400000)]; (match s.past.saveTarget 0x123 with | .ok none => true | _ => false) && s.clear (.tsave hd (x 4) (x 1) (x 2) mD) && dready s.past 0x400000 16 16 && s.clear (.tswap hd (x 4) (x 1) (x 2) mD)) = true := by decide +kernel
theorem witness_threadImages_3 :
    (let s := sup [(1, allOnes)]; !good (s.past.saveTarget allOnes) && s.clear (.tsave hd (x 4) (x 1) (x 2) mD)) = true := by decide +kernel
theorem witness_threadImages_4 :
    (let s := (wordsAt (sup [(1, 0x410000), (2, allOnes)]) 0x410000 [0x51A7 + 9 * 2 ^ 32 + 20 * 2 ^ 48, 1024 * 2 ^ 32]).onCtx 0 fun c => { c with imaged := [9] }; s.clear (.tload hd (x 4) (x 1) (x 2) mD) && (match s.past.loadImage 0x410000 with | .ok (some h) => s.past.loadRefusal h.1 (word h.1.core) == 0 && s.past.loadRefusal h.1 0x1FF != 0 | _ => false) && s.past.ownIds == []) = true := by decide +kernel
theorem witness_threadImages_5 :
    (let s := sup [(1, 0x410000)]; (match s.past.loadImage 0x410000 with | .ok none => true | _ => false) && s.past.ownIds == [] && s.clear (.tload hd (x 4) (x 1) (x 2) mD)) = true := by decide +kernel
theorem witness_threadImages_6 :
    (let s := sup [(1, 0x410008)]; (s.reg (x 1)).toNat % 4096 != 0 && s.clear (.tload hd (x 4) (x 1) (x 2) mD)) = true := by decide +kernel
theorem witness_threadImages_7 :
    (let s := wordsAt twoThreads 0x500000 [0x420000, 0x430000]; let p := s.past; s.clear (.tswap hd (x 4) (x 1) (x 3) mD) && match dread p 0x500000 16 16 with | some (w, bs) => (match p.saveTarget 9 with | .ok (some u) => u == 5 | _ => false) && w.th.trace.length == 1 && (let w := onTh w fun t => { t with trace := [] }; (dword bs 0).toNat % 4096 == 0 && good (w.checkRange w.who 0x420000 (imageSize (w.hasVec (w.thread 5)) (w.heldUnits 5)) kWrite) && good (w.loadImage (dword bs 1)) && w.ownIds == [] && w.savable 5 && (w.rangeHeld w.who 0x420000 0x60000 kWrite).isNone && (match w.swap 5 (dword bs 0) (dword bs 1) with | .ok none => true | _ => false)) | none => false) = true := by decide +kernel
theorem witness_threadImages_8 :
    (let s := (wordsAt (wordsAt twoThreads 0x500000 [0x420000, 0x410000]) 0x410000 [0x51A7 + 8 * 2 ^ 32 + 20 * 2 ^ 48, 1024 * 2 ^ 32]).onCtx 0 fun c => { c with imaged := [8] }; let p := s.past; s.clear (.tswap hd (x 4) (x 1) (x 3) mD) && match dread p 0x500000 16 16 with | some (w, bs) => (match p.saveTarget 9 with | .ok (some u) => u == 5 | _ => false) && w.th.trace.length == 1 && (let w := onTh w fun t => { t with trace := [] }; (dword bs 0).toNat % 4096 == 0 && good (w.checkRange w.who 0x420000 (imageSize (w.hasVec (w.thread 5)) (w.heldUnits 5)) kWrite) && good (w.loadImage (dword bs 1)) && w.ownIds == [] && w.savable 5 && (w.rangeHeld w.who 0x420000 0x60000 kWrite).isNone && (match w.swap 5 (dword bs 0) (dword bs 1) with | .ok (some _) => true | _ => false)) | none => false) = true := by decide +kernel

/-! partitionModes: a core of the set that may be changed, one with a thread in a slot, one that may not be changed, one outside the set. -/
theorem witness_partitionModes_1 :
    (let s := sup [(1, 1), (2, 0)]; s.inSet 0 1 && s.clear (.repart hd (x 4) (x 1) { mD with pm := 1 }) && s.mayRepart 0 1 && (s.core 1).mode != 2 && s.clear (.repart hd (x 4) (x 2) { mD with pm := 2 }) && (s.threads.any fun e => !e.2.cc && e.2.place == .slot 0) && s.mayRepart 0 0) = true := by decide +kernel
theorem witness_partitionModes_2 :
    (let s := sup [(1, 0xFFFF)]; decide (Config.cores s.part ≤ 0xFFFF) && s.clear (.repart hd (x 4) (x 1) mD)) = true := by decide +kernel
theorem witness_partitionModes_3 :
    (let s := (sup []).setCtx 5 { Ctx.new 1 0 [5] with coreset := [1] }; s.mayRepart 5 1 == false) = true := by decide +kernel

/-! cachesAndTranslations: each kind of invalidation and of cache operation, a context that is none of the subtree, a range that fails. -/
theorem witness_cachesAndTranslations_1 :
    (let s := sup [(1, 0x400000), (2, 0)]; let p := s.past; let q := (p.discardTlb 0 0 0x400000).unkept; s.th.kept == [] && good (p.nameCtx 0 0) && q.openAccs 0 == [] && q.openCmds 0 == [] && s.clear (.tlbinv hd (x 4) (x 1) (x 2) mD) && s.clear (.cacheop hd (x 4) (x 1) (x 2) mD) && good (p.checkRange p.who 0x400000 0 kRead false true) && p.ownIds == []) = true := by decide +kernel
theorem witness_cachesAndTranslations_2 :
    (let s := sup [(1, 0x400000), (2, 77)]; s.clear (.tlbinv hd (x 4) (x 1) (x 2) { mD with ti := 2 }) && !good (s.past.nameCtx 77 77)) = true := by decide +kernel
theorem witness_cachesAndTranslations_3 :
    (let s := sup [(1, 0x0008000000000000), (2, 64)]; s.clear (.cacheop hd (x 4) (x 1) (x 2) mD) && !good (s.past.checkRange s.past.who 0x0008000000000000 64 kRead false true)) = true := by decide +kernel
theorem witness_cachesAndTranslations_5 :
    (let s := { sup [(1, 0x400000)] with accs := [acc (.engine 0) (.bank 0 0) 0xF00000000100 .load] }; let q := (s.past.discardTlb 0 0 0x400000).unkept; s.th.kept == [] && good (s.past.nameCtx 0 0) && s.past.ownIds == [] && q.openAccs 0 != [] && s.clear (.tlbinv hd (x 4) (x 1) (x 2) mD)) = true := by decide +kernel

/-! signals: a signal to a mailbox, to no mailbox, to the parent of the root, and to a parent. -/
theorem witness_signals_1 :
    (let s := sup [(1, 1)]; s.clear (.sigpost hd (x 4) (x 1) (x 2) mD) && s.releaseIds 6 == [] && s.past.mailboxOf 0 == some hostMailbox && (get Vf.new s.vfs hostMailbox).room) = true := by decide +kernel
theorem witness_signals_2 :
    (let s := { sup [(1, 1)] with vfs := [(hostMailbox, { get Vf.new (sup []).vfs hostMailbox with tail := 1024, head := 0 })] }; s.past.mailboxOf 0 == some hostMailbox && !(get Vf.new s.vfs hostMailbox).room) = true := by decide +kernel
theorem witness_signals_3 :
    (let s := sup [(1, 0), (2, 2)]; s.th.asid == 0 && s.clear (.sigpost hd (x 4) (x 1) (x 2) mD) && s.clear (.sigpost hd (x 4) (x 2) (x 2) mD) && decide (2 ≤ (s.reg (x 2)).toNat % 4)) = true := by decide +kernel
theorem witness_signals_4 :
    (let s := onTh ((sup [(1, 1)]).setCtx 5 { Ctx.new 1 0 [5] with state := .running }) fun t => { t with asid := 5 }; s.th.asid != 0 && s.past.mailboxOf 5 == none && s.clear (.sigpost hd (x 4) (x 1) (x 2) mD)) = true := by decide +kernel

/-! contextCreation: a block that serves, at depth 7, without quota and without a free number; a block that is not aligned. -/
theorem witness_contextCreation_1 :
    (let s := sup [(1, 0x500000)]; let p := s.past; s.clear (.ctxnew hd (x 4) (x 1)) && s.releaseIds 4 == [] && good (p.checkRange p.who 0x500000 0x80000 kWrite) && good (p.blockFrames 0x500000 8 0x500000) && s.myCtx.depth != 7 && p.ctxsLeft 0 != 0 && p.freeAsid == some 1) = true := by decide +kernel
theorem witness_contextCreation_2 :
    (let s := (sup [(1, 0x500000)]).onCtx 0 fun c => { c with depth := 7 }; good (s.past.blockFrames 0x500000 8 0x500000) && s.clear (.ctxnew hd (x 4) (x 1)) && s.myCtx.depth == 7) = true := by decide +kernel
theorem witness_contextCreation_3 :
    (let s := (sup [(1, 0x500000)]).onCtx 0 fun c => { c with ctxs := 0 }; good (s.past.blockFrames 0x500000 8 0x500000) && s.clear (.ctxnew hd (x 4) (x 1)) && s.past.ctxsLeft 0 == 0) = true := by decide +kernel
theorem witness_contextCreation_4 :
    (let s := sup [(1, 0x508000)]; s.clear (.ctxnew hd (x 4) (x 1)) && (s.reg (x 1)).toNat % 0x10000 != 0) = true := by decide +kernel
theorem witness_contextCreation_5 :
    ((sup []).freeAsid == some 1 && (child (sup []) .stopped).freeAsid == some 1 && ((sup []).setCtx 1 (Ctx.new 1 0 [])).freeAsid == some 2) = true := by decide +kernel

/-! grantAndRevoke: a grant and a revocation with each result, a malformed descriptor, a child that is being reset, a target that is no child. -/
theorem witness_grantAndRevoke_1 :
    (let s := wordsAt (child (sup [(1, 5), (2, 0x500000)]) .stopped) 0x500000 [0, 32]; let p := s.past; s.th.kept == [] && s.works.isEmpty && (match p.targetCtx (s.reg (x 1)) 0 0 with | .ok n => n == 5 | _ => false) && s.releaseIds 4 == [] && (p.ctx 5).line == [] && s.clear (.ctxgrant hd (x 4) (x 1) (x 2)) && s.clear (.ctxrevoke hd (x 4) (x 1) (x 2)) && match dread (p.inTurn 5) 0x500000 16 64 with | some (y, bs) => (let q := onTh y fun t => { t with trace := [] }; !q.resetting 5 && match itemOf (bs.take 64) with | some i => q.grantResult 0 5 i == 0 && q.revokeResult 5 i != 0 | none => false) | none => false) = true := by decide +kernel
theorem witness_grantAndRevoke_2 :
    (let s := (wordsAt (child (sup [(1, 5), (2, 0x500000)]) .stopped) 0x500000 [0, 2]); let p := s.past; s.th.kept == [] && s.works.isEmpty && (match p.targetCtx (s.reg (x 1)) 0 0 with | .ok n => n == 5 | _ => false) && s.releaseIds 4 == [] && (p.ctx 5).line == [] && s.clear (.ctxgrant hd (x 4) (x 1) (x 2)) && s.clear (.ctxrevoke hd (x 4) (x 1) (x 2)) && match dread (p.inTurn 5) 0x500000 16 64 with | some (y, bs) => (let q := onTh y fun t => { t with trace := [] }; !q.resetting 5 && match itemOf (bs.take 64) with | some i => q.grantResult 0 5 i != 0 | none => false) | none => false) = true := by decide +kernel
theorem witness_grantAndRevoke_3 :
    (let s := (wordsAt (child (sup [(1, 5), (2, 0x500000)]) .stopped) 0x500000 [0, 32]).onCtx 5 fun c => { c with slotmask := 32 }; let p := s.past; s.th.kept == [] && s.works.isEmpty && (match p.targetCtx (s.reg (x 1)) 0 0 with | .ok n => n == 5 | _ => false) && s.releaseIds 4 == [] && (p.ctx 5).line == [] && s.clear (.ctxgrant hd (x 4) (x 1) (x 2)) && s.clear (.ctxrevoke hd (x 4) (x 1) (x 2)) && match dread (p.inTurn 5) 0x500000 16 64 with | some (y, bs) => (let q := onTh y fun t => { t with trace := [] }; !q.resetting 5 && match itemOf (bs.take 64) with | some i => q.revokeResult 5 i == 0 && (let x := (q.markRevoke 5 i).cascade 0 i (q.deepest (q.subtree 5)); x.2.1 == [] && (x.1.cutOff 0 5 i).revokedAccs 0 5 i == []) | none => false) | none => false) = true := by decide +kernel
theorem witness_grantAndRevoke_4 :
    (let s := (wordsAt (child (sup [(1, 5), (2, 0x500000)]) .stopped) 0x500000 [99]); let p := s.past; s.th.kept == [] && s.works.isEmpty && (match p.targetCtx (s.reg (x 1)) 0 0 with | .ok n => n == 5 | _ => false) && s.releaseIds 4 == [] && (p.ctx 5).line == [] && s.clear (.ctxgrant hd (x 4) (x 1) (x 2)) && s.clear (.ctxrevoke hd (x 4) (x 1) (x 2)) && match dread (p.inTurn 5) 0x500000 16 64 with | some (y, bs) => (let q := onTh y fun t => { t with trace := [] }; !q.resetting 5 && (itemOf (bs.take 64)).isNone) | none => false) = true := by decide +kernel
theorem witness_grantAndRevoke_5 :
    (let s := (wordsAt (child (sup [(1, 5), (2, 0x500000)]) .resetting) 0x500000 [0, 32]); let p := s.past; s.th.kept == [] && s.works.isEmpty && (match p.targetCtx (s.reg (x 1)) 0 0 with | .ok n => n == 5 | _ => false) && s.releaseIds 4 == [] && (p.ctx 5).line == [] && s.clear (.ctxgrant hd (x 4) (x 1) (x 2)) && s.clear (.ctxrevoke hd (x 4) (x 1) (x 2)) && match dread (p.inTurn 5) 0x500000 16 64 with | some (y, bs) => (let q := onTh y fun t => { t with trace := [] }; q.resetting 5) | none => false) = true := by decide +kernel
theorem witness_grantAndRevoke_6 :
    (let s := sup [(1, 6)]; !good (s.past.targetCtx 6 0 0) && s.th.kept == [] && s.works.isEmpty && s.clear (.ctxgrant hd (x 4) (x 1) (x 2)) && s.clear (.ctxrevoke hd (x 4) (x 1) (x 2))) = true := by decide +kernel

/-! runStopFree: a child that is stopped, running, being reset, that holds something and nothing; a target outside the subtree. -/
theorem witness_runStopFree_1 :
    (let s := (child (sup [(1, 5)]) .stopped); let p := s.past; (match p.targetCtx (s.reg (x 1)) 0 1 with | .ok n => n == 5 | _ => false) && s.releaseIds 4 == [] && (p.ctx 5).line == [] && (match p.targetCtx (s.reg (x 1)) 0 0 with | .ok n => n == 5 | _ => false) && s.releaseIds 4 == [] && (p.ctx 5).line == [] && ([.ctxrun hd (x 4) (x 1), .ctxstop hd (x 4) (x 1), .ctxfree hd (x 4) (x 1)] : List Instr).all s.clear && !p.resetting 5 && (p.ctx 5).state == .stopped && s.th.kept == []) = true := by decide +kernel
theorem witness_runStopFree_2 :
    (let s := (child (sup [(1, 5)]) .new); let p := s.past; (match p.targetCtx (s.reg (x 1)) 0 0 with | .ok n => n == 5 | _ => false) && s.releaseIds 4 == [] && (p.ctx 5).line == [] && ([.ctxrun hd (x 4) (x 1), .ctxstop hd (x 4) (x 1), .ctxfree hd (x 4) (x 1)] : List Instr).all s.clear && (p.inTurn 5).mayFree 5) = true := by decide +kernel
theorem witness_runStopFree_3 :
    (let s := (child (sup [(1, 5)]) .running); let p := s.past; (match p.targetCtx (s.reg (x 1)) 0 1 with | .ok n => n == 5 | _ => false) && s.releaseIds 4 == [] && (p.ctx 5).line == [] && ([.ctxrun hd (x 4) (x 1), .ctxstop hd (x 4) (x 1), .ctxfree hd (x 4) (x 1)] : List Instr).all s.clear && (p.ctx 5).state == .running && (((p.inTurn 5).markStopped 5).stopThreads 0 5).all ((p.inTurn 5).markStopped 5).savable && !(p.inTurn 5).mayFree 5) = true := by decide +kernel
theorem witness_runStopFree_4 :
    (let s := (child (sup [(1, 5)]) .resetting); let p := s.past; (match p.targetCtx (s.reg (x 1)) 0 1 with | .ok n => n == 5 | _ => false) && s.releaseIds 4 == [] && (p.ctx 5).line == [] && ([.ctxrun hd (x 4) (x 1), .ctxstop hd (x 4) (x 1), .ctxfree hd (x 4) (x 1)] : List Instr).all s.clear && p.resetting 5) = true := by decide +kernel
theorem witness_runStopFree_5 :
    (let s := sup [(1, 6)]; !good (s.past.targetCtx 6 0 1) && !good (s.past.targetCtx 6 0 0) && ([.ctxrun hd (x 4) (x 1), .ctxstop hd (x 4) (x 1), .ctxfree hd (x 4) (x 1)] : List Instr).all s.clear) = true := by decide +kernel

/-! contextService: a reflected trap that waits for the issuer and for another, none; a reset before and between its parts; a status. -/
theorem witness_contextService_1 :
    (let s := { (child (sup [(1, 0x50009)]) .stopped) with threads := (child (sup [(1, 0x50009)]) .stopped).threads ++ [(7, { Thread.new with thread := 9, asid := 5, slot := 3, place := .slot 0, park := .reflected 0 (.of .align 0) true })], next := 8 }; let p := s.past; (match p.targetCtx (s.reg (x 1)) 16 2 with | .ok n => n == 5 | _ => false) && (p.inTurn 5).named 5 9 == some 7 && (match (p.thread 7).park with | .reflected n _ _ => n == s.th.asid | _ => false) && s.clear (.ctxevt hd (x 4) (x 1) (x 2)) && ((p.inTurn 5).ctx 0).heldEvents == [] && !((p.inTurn 5).thread 7).tephra && has (p.inTurn 5).threads 7) = true := by decide +kernel
theorem witness_contextService_2 :
    (let s := { (child (sup [(1, 0x50009)]) .stopped) with threads := (child (sup [(1, 0x50009)]) .stopped).threads ++ [(7, { Thread.new with thread := 9, asid := 5, slot := 3, place := .slot 0, park := .reflected 3 (.of .align 0) true })], next := 8 }; let p := s.past; (match (p.thread 7).park with | .reflected n _ _ => n != s.th.asid | _ => false) && (p.inTurn 5).named 5 9 == some 7 && s.clear (.ctxevt hd (x 4) (x 1) (x 2))) = true := by decide +kernel
theorem witness_contextService_3 :
    (let s := (child (sup [(1, 0x50009)]) .stopped); let p := s.past; (match p.targetCtx (s.reg (x 1)) 16 2 with | .ok n => n == 5 | _ => false) && (p.inTurn 5).named 5 9 == none && s.clear (.ctxevt hd (x 4) (x 1) (x 2))) = true := by decide +kernel
theorem witness_contextService_4 :
    (let s := (child (sup [(1, 5)]) .stopped); let p := s.past; (match p.targetCtx (s.reg (x 1)) 0 1 with | .ok n => n == 5 | _ => false) && s.releaseIds 4 == [] && (p.ctx 5).line == [] && (match p.targetCtx (s.reg (x 1)) 0 3 with | .ok n => n == 5 | _ => false) && s.releaseIds 4 == [] && (p.ctx 5).line == [] && s.clear (.ctxreset hd (x 4) (x 1) (x 2)) && s.th.kept == [] && !p.resetting 5 && !(p.inTurn 5).trapsDrain 5 && s.clear (.ctxstat hd (x 4) (x 1) (x 2))) = true := by decide +kernel
theorem witness_contextService_6 :
    (let s := { child (sup [(1, 5)]) .stopped with threads := (sup [(1, 5)]).threads ++ [(7, { Thread.new with asid := 5, slot := 3, place := .slot 0, park := .trap (.of .align 0) true })], next := 8 }; let p := s.past; (match p.targetCtx (s.reg (x 1)) 0 1 with | .ok n => n == 5 | _ => false) && s.releaseIds 4 == [] && (p.ctx 5).line == [] && s.clear (.ctxreset hd (x 4) (x 1) (x 2)) && s.th.kept == [] && !p.resetting 5 && (p.inTurn 5).trapsDrain 5) = true := by decide +kernel
theorem witness_contextService_9 :
    (let s := ({ child (sup [(1, 0x50009)]) .stopped with threads := (sup [(1, 0x50009)]).threads ++ [(7, { Thread.new with thread := 9, asid := 5, slot := 3, place := .slot 0, park := .reflected 0 (.of .align 0) true })], next := 8 }).onCtx 0 fun c => { c with heldEvents := [⟨1, 2, true, false, 9, 5, 1, 0, 0, 0, some 7⟩] }; let q := s.past.inTurn 5; q.named 5 9 == some 7 && (q.ctx 0).heldEvents.any (fun e => e.uid == some 7) && (q.thread 7).park == .reflected 0 (.of .align 0) true && s.clear (.ctxevt hd (x 4) (x 1) (x 2))) = true := by decide +kernel

/-- The guard entry that an action ends in: the reason. -/
def guardOf {α : Type} (e : Except Stop α) : Option Nat :=
  match e with
  | .error (.guard r _ _) => some r
  | _ => none

/-- The code of the trap that an action ends in. -/
def stopOf {α : Type} (e : Except Stop α) : Option Nat :=
  match e with
  | .error (.trap t) => some t.cause.code
  | _ => none

/-- The value that an action answers. -/
def valueOf {α : Type} (e : Except Stop (α × State)) : Option α :=
  match e with
  | .ok (v, _) => some v
  | _ => none

/-- An access of a bytecode goes out and is performed in this instant. -/
def quick (s : State) (va : Word) (size k : Nat) (op : AccOp) : Bool :=
  s.th.trace.isEmpty && s.bursts.head? == some 0 && s.behind.isEmpty && s.beforeReach va k op == [] && match s.check s.who va size k with
  | .ok t => s.kindOf t.pa != some .csr && ((s.remember s.who va k t).atOnce (s.homeOf t.pa t.attr) t.pa size op && (match op with | .atom .. => (s.remember s.who va k t).atOnce (s.homeOf t.pa t.attr) t.pa size op true | _ => true))
  | .error _ => false

/-- The state of `heap` with words at an address changed. -/
def heapAt (a : Nat) (l : List Nat) (f : List (Nat × Word)) : State := wordsAt (heap [] f) a l

/-! frameRegisters: a frame register that is read and written, one that is out of reach, a poisoned byte and a poisoned X28; a field of
the function and a constant; the kinds of values; cells within the array and beyond. -/
theorem witness_frameRegisters_1 :
    (let s := heap [] [(1, 40)]; quick s 0x30008 8 kRead .load && quick s 0x30008 8 kWrite (.store (toBytes 8 5)) && !s.isPoisoned 0x30008 8 && !s.th.xPoison.contains 28 && s.xr 28 == 0x30000) = true := by decide +kernel
theorem witness_frameRegisters_2 :
    (let s := onTh (heap [] []) fun t => t.setX 28 0x0008000000000000; s.th.trace.isEmpty && s.bursts.head? == some 0 && !s.th.xPoison.contains 28 && !good (s.check s.who 0x0008000000000008 8 kRead) && !good (s.check s.who 0x0008000000000008 8 kWrite)) = true := by decide +kernel
theorem witness_frameRegisters_3 :
    (let s := { heap [] [] with poisoned := [0x3000] }; quick s 0x30008 8 kRead .load && s.isPoisoned 0x30008 8) = true := by decide +kernel
theorem witness_frameRegisters_4 :
    (let s := onTh (heap [] []) fun t => { t with xPoison := [28] }; s.th.xPoison.contains 28) = true := by decide +kernel
theorem witness_frameRegisters_5 :
    (let s := heap [] []; !s.th.xPoison.contains 29 && good (tFn 24 s)) = true := by decide +kernel
theorem witness_frameRegisters_6 :
    (let s := heapAt 0x4A000 [0x11] []; !valueOk 7 && valueOk 8 && tagOf 8 != 1 && valueOf (tRead 0x4A000 8 s) == some 0x11 && valueOf (tRead 0x46000 8 s) == some 2) = true := by decide +kernel
theorem witness_frameRegisters_7 :
    (let s := heap [] []; valueOf (tFn 56 s) == some 0x45001 && valueOf (tKind 0x45001 s) == some (some 2) && valueOf ((tRead 0x45010 8 >>= fun _ => tRead 0x45020 8 >>= fun y => tRead y 8) s) == some 0x47001 && valueOf (tRead 0x45010 8 s) == some 1) = true := by decide +kernel
/-! bytecodeMoves: each move with what it reads in reach, constants of both kinds, and a read and a write that fail. -/
theorem witness_bytecodeMoves_1 :
    (let s := heap [] [(1, 40)]; let p := s.advance 4; let o := s.advance 8; decide s.bcClear && good ((tF 1 >>= tSetF 2) p) && good ((tK 1 >>= tSetF 1) p) && good (tSetF 1 (8 * 5) p) && good ((tCell 0 >>= fun c => tRead (c + 16) 8 >>= tSetF 1) p) && good ((tCell 0 >>= fun c => tF 1 >>= tHeapStore (c + 16) c) p)) = true := by decide +kernel
theorem witness_bytecodeMoves_2 :
    (let s := onTh (heap [] []) fun t => t.setX 28 0x0008000000000000; decide s.bcClear && (stopOf (tF 1 (s.advance 4))).isSome) = true := by decide +kernel
theorem witness_bytecodeMoves_3 :
    (decide ((2 : BitVec 8).toNat ≤ 2) && decide (2 < (3 : BitVec 8).toNat)) = true := by decide +kernel
theorem witness_bytecodeMoves_4 :
    (let s := heap [] []; let p := s.advance 4; let q := onTh p fun t => t.setX 28 0x0008000000000000; decide s.bcClear && good (tF 2 p) && (stopOf (tSetF 1 5 q)).isSome) = true := by decide +kernel
/-! bytecodeItems: a site, a lookup within NIC and beyond, each end of a search, the words of an entry; receivers and containers of each
sort; each part of a heap store. -/
theorem witness_bytecodeItems_1 :
    (let s := heap [] []; good (tFn 32 s) && valueOf (tSite 1 s) == some 0x42100 && valueOf (tFn 48 s) == some 0x41001 && decide ((3 : BitVec 16).toNat < bits 0x41001 31 16) && decide (bits 0x41001 31 16 ≤ (4 : BitVec 16).toNat)) = true := by decide +kernel
theorem witness_bytecodeItems_2 :
    (let s := heap [] []; let t := heapAt 0x42000 [5] []; let z := heapAt 0x42000 [0x9000000C1, 16] []; let b := heapAt 0x42000 [0x900000001, 8] []; let h := fun (s : State) => (valueOf (tEntry 0x42000 s)).getD []; dword (h s) 0 == 0x900000001 && dword (h s) 1 == 16 && (dword (h t) 0).getLsbD 2 && bits (dword (h z) 0) 7 6 == 3 && dword (h b) 1 == 8) = true := by decide +kernel
theorem witness_bytecodeItems_3 :
    (let s := heap [] []; valueOf (tIcWord 0x42000 0 s) == some (toBytes 8 0x900000001) && good ((tIcWord 0x42000 0 >>= fun _ => tAll (fun i => tIcWord 0x42000 (i + 1)) (List.range 7)) s)) = true := by decide +kernel
theorem witness_bytecodeItems_4 :
    (let s := heap [] []; quick s 0x42008 8 kRead .load && s.icCopy 0x42000 == none && !s.isPoisoned 0x42008 8) = true := by decide +kernel
theorem witness_bytecodeItems_5 :
    (let s := heap [] []; valueOk 8 && tagOf 8 != 1 && good (tSite 0 s) && valueOk 0x44001 && good ((tSite 0 >>= fun z => tTouch z 0x44001 >>= fun _ => tRead 0x44000 8 >>= fun h => tLookup 0 1 (fun e => bits (dword e 0) 63 32 == bits h 63 32)) s)) = true := by decide +kernel
theorem witness_bytecodeItems_6 :
    (let s := heap [] []; [(8 : Word), mkInt (-1), mkInt 2, 3].all fun x => valueOk x && good ((tKind 0x46001 >>= fun _ => tSettle true 0x46001 >>= fun _ => tSettle false 0x46001 >>= fun _ => tTouch 0 0x46001 >>= fun _ => tTouch 0 x) s)) = true := by decide +kernel
theorem witness_bytecodeItems_7 :
    (let s := heap [] []; valueOf (tRead 0x46010 8 s) == some 2 && good (tRead 0x46020 8 s) && valueOf (tKind 0x44001 s) == some (some 2) && valueOf (tKind 0x47001 s) == some (some 5) && good ((tSettle false 0x47001 >>= fun _ => tTouch 0 0x47001) s)) = true := by decide +kernel
theorem witness_bytecodeItems_8 :
    (let s := heap [] []; [(48 : Word), 0x44001].all fun v => good ((tRetain v >>= fun _ => tAtom 0x46030 8 v 0 .ordered >>= fun old => tRelease old >>= fun _ => tCard 0x46000) s) && good ((tSwap 0x46030 v >>= fun _ => tCard 0x46000) s)) = true := by decide +kernel
theorem witness_bytecodeItems_9 :
    (let s := heap [] []; let t := heapAt 0x46008 [0x10000] []; tagOf 0x46001 == 1 && good (tAtom 0x46008 16 0 0 .plain s) && valueOf (tAtom 0x46008 17 0 0 .plain s) == some 0 && valueOf (tAtom 0x46008 17 0 0 .plain t) == some 0x10000 && bits 0x10000 63 16 == 1) = true := by decide +kernel
theorem witness_bytecodeItems_10 :
    (let s := heap [] []; quick s 0x46008 8 kWrite (.atom 17 0 0) && !s.isPoisoned 0x46008 8 && valueOf (tArena s) == some 0x49000 && valueOf (tArena (s.onCtx 0 fun c => { c with arena := 0 })) == some 0) = true := by decide +kernel
theorem witness_bytecodeItems_11 :
    (let s := heap [] []; let t := heapAt 0x49010 [0, 0x4B000, 1, 0x4C000, 4, 0, 0] []; valueOf (tRead 0x49020 8 s) == some 0 && valueOf (tMarking s) == some false && valueOf (tMarking t) == some true && valueOf (tRead 0x49030 8 s) == some 0 && valueOf (tRead 0x49030 8 t) == some 4) = true := by decide +kernel
theorem witness_bytecodeItems_12 :
    (let s := heap [] []; let t := heapAt 0x49010 [0, 0x4B000, 1, 0x4C000, 4, 0, 0] []; [s, t].all (fun s => good ((tAtom 0x49040 0 1 0 >>= fun _ => tRead 0x49030 8 >>= fun _ => tRead 0x49038 8) s)) && good ((tAtom 0x49040 0 1 0 >>= fun n => tRead 0x49030 8 >>= fun z => tRead 0x49038 8 >>= fun _ => tRead 0x49028 8 >>= fun b => tWrite (b + word (8 * (n.toNat % z.toNat))) 8 0x46000) t) && good ((tMarking >>= fun _ => tArena >>= fun r => tRead (r + 16) 8 >>= fun h => tRead (r + 24) 8 >>= fun c => tWrite (c + ((0x46000 - h) >>> 9)) 1 1) t)) = true := by decide +kernel
theorem witness_bytecodeItems_13 :
    (let s := heap [] [(1, 0x44001), (2, 48)]; let p := s.advance 4; let o := s.advance 8; decide s.bcClear && good ((tFn 40 >>= fun r => tAttr r 0 >>= fun a => tRead a 8 >>= tSetF 3) o) && good ((tFn 40 >>= fun r => tAttr r 0 >>= fun a => tF 2 >>= tHeapStore a (r - 1)) o) && good ((tF 1 >>= fun r => tAttr r 0 >>= fun a => tRead a 8 >>= tSetF 3) o) && good ((tF 1 >>= fun r => tAttr r 0 >>= fun a => tF 2 >>= tHeapStore a (r - 1)) o)) = true := by decide +kernel
theorem witness_bytecodeItems_14 :
    (let s := heap [] [(1, 8)]; let p := s.advance 4; let o := s.advance 8; decide s.bcClear && guardOf ((tF 1 >>= fun r => tAttr r 0) o) == some 5) = true := by decide +kernel
theorem witness_bytecodeItems_15 :
    (let s := heap [] [(1, 0x46001), (2, 8), (3, 40)]; let p := s.advance 4; let o := s.advance 8; decide s.bcClear && good ((tF 1 >>= fun r => tF 2 >>= fun i => tItem false r i >>= fun a => tRead a 8 >>= tSetF 4) p) && good ((tF 1 >>= fun r => tF 2 >>= fun i => tItem true r i >>= fun a => tF 3 >>= tHeapStore a (r - 1)) p) && good ((tF 1 >>= fun v => tTouch 0 v >>= fun _ => tKind v >>= fun _ => tRead (v + 15) 8 >>= fun n => tSetF 4 (n <<< 3)) p) && valueOf (tKind 0x46001 p) == some (some 2)) = true := by decide +kernel
theorem witness_bytecodeItems_16 :
    (let s := heap [] [(1, 0x46001), (2, 8)]; let p := s.advance 4; let o := s.advance 8; decide s.bcClear && valueOf (tK 2 p) == some (mkInt 16) && valueOf (tK 0 p) == some (mkInt 3) && intFits 16 && good ((tK 0 >>= fun _ => tF 1 >>= fun v => tTouch 0 v >>= fun _ => tKind v >>= fun _ => tSetF 3 0xB) p) && valueOf (tKind 8 p) == some none && good ((tK 2 >>= fun _ => tF 2 >>= fun v => tTouch 0 v >>= fun _ => tKind v >>= fun _ => tSetF 3 0x13) p)) = true := by decide +kernel
/-! bytecodeOperators: two small integers, two short floats, one operand, and results in and out of range. -/
theorem witness_bytecodeOperators_1 :
    (let s := heap [] [(1, 40), (2, 56), (3, 0x3F80000000000002)]; let p := s.advance 4; let o := s.advance 8; decide s.bcClear && good ((tF 1 >>= fun _ => tF 2 >>= fun _ => tSite 0) o) && (inlineBinop 0 40 56).isSome && (inlineCompare 2 40 56).isSome && (inlineUnop 0 40).isSome && (inlineBinop 0 0x3F80000000000002 0x3F80000000000002).isSome && tagOf 40 == 0 && valueOk 0x3F80000000000002 && tagOf 0x3F80000000000002 == 2 && good (tSetF 1 0x13 o)) = true := by decide +kernel
theorem witness_bytecodeOperators_2 :
    ((inlineBinop 0 (mkInt (2 ^ 60 - 1)) (mkInt 1)).isNone && (inlineBinop 1 (mkInt (-2 ^ 60)) (mkInt 1)).isNone && (inlineBinop 11 (mkInt 1) (mkInt (-1))).isNone && (inlineBinop 11 (mkInt 1) (mkInt 64)).isNone && intFits (-2 ^ 60) && !intFits (2 ^ 60) && (inlineBinop 11 (mkInt 1) (mkInt 59)).isSome) = true := by decide +kernel
/-! bytecodeControl: a true and a false value, loops that go on and that end, an array iterated within its length and at its end. -/
theorem witness_bytecodeControl_1 :
    (let s := heap [] [(1, 0x13), (2, 0xB), (3, 0x46001)]; let p := s.advance 4; let o := s.advance 8; decide s.bcClear && valueOk 0x13 && good (tF 1 p) && valueOk 0xB && good (tF 2 p) && good ((tF 3 >>= fun v => tTouch 0 v >>= fun _ => tKind v >>= fun _ => tSetF 1 v >>= fun _ => tSetF 2 0) p) && !s.th.xPoison.contains 27 && good ((tF 1 >>= tWrite (s.xr 27 + 16) 8) p)) = true := by decide +kernel
theorem witness_bytecodeControl_2 :
    (let s := heap [] [(1, 16), (2, 80), (3, 8)]; let p := s.advance 4; let o := s.advance 8; decide s.bcClear && valueOf ((do let a ← tF 1; let b ← tF 2; let c ← tF 3; pure (a, b, c)) p) == some (mkInt 2, mkInt 10, mkInt 1) && good ((do let _ ← tF 1; let _ ← tF 2; let _ ← tF 3; tSetF 1 (mkInt 3); tSetF 4 (mkInt 3)) p) && good ((do let _ ← tF 1; let _ ← tF 2; let _ ← tF 3; tSetF 1 (mkInt 1)) p)) = true := by decide +kernel
theorem witness_bytecodeControl_3 :
    (let s := heap [] [(1, mkInt (-2 ^ 60)), (2, 80), (3, 8)]; let r := heap [] [(1, mkInt (2 ^ 60 - 1)), (2, 80), (3, 8)]; let z := heap [] [(1, 16), (2, 80), (3, 0)]; let p := s.advance 4; let o := s.advance 8; decide s.bcClear && intFits (-2 ^ 60) && !intFits (-2 ^ 60 - 1) && intFits (2 ^ 60 - 1) && !intFits (2 ^ 60 - 1 + 1) && [s, r, z].all (fun s => decide s.bcClear && good ((tF 1 >>= fun _ => tF 2 >>= fun _ => tF 3) (s.advance 4)))) = true := by decide +kernel
theorem witness_bytecodeControl_4 :
    (let s := heap [] [(1, 0x46001), (2, 8)]; let p := s.advance 4; let o := s.advance 8; decide s.bcClear && good ((tF 1 >>= fun v => tKind v >>= fun _ => tF 2 >>= fun _ => tRead (v + 15) 8 >>= fun _ => tRead (v + 31) 8 >>= fun d => tRead (d + mkInt 1) 8 >>= fun z => tSetF 3 z >>= fun _ => tSetF 2 (mkInt 2)) p)) = true := by decide +kernel
theorem witness_bytecodeControl_5 :
    (let s := heap [] [(1, 0x46001), (2, 16)]; let p := s.advance 4; let o := s.advance 8; decide s.bcClear && good ((tF 1 >>= fun v => tKind v >>= fun _ => tF 2 >>= fun _ => tRead (v + 15) 8) p) && (match tRead 0x46010 8 p with | .ok (v, _) => decide ((v.toNat : Int) ≤ 2) | _ => false)) = true := by decide +kernel
/-! bytecodeCalls: the link store with room, full, spilled and empty; a frame that fits, one that does not, another number of arguments;
a native call; the classes of values; calls of each sort, returns to a bytecode and to native code, a guard handler with and without a
value to raise. -/
theorem witness_bytecodeCalls_1 :
    (let s := heap [] []; let f := onTh s fun t => { t with link := List.replicate 8 0x41 }; let g := f.onCtx 0 fun c => { c with lsbase := 0x4D000, lslim := 16 }; decide (s.th.link.length < 8) && decide (8 ≤ f.th.link.length) && decide (f.myCtx.spillLimit < 8 * (f.th.spilled + 1)) && decide (8 * (g.th.spilled + 1) ≤ g.myCtx.spillLimit) && good (tWrite (g.spillAt g.th.spilled) 8 0x41 .plain g)) = true := by decide +kernel
theorem witness_bytecodeCalls_2 :
    (let s := heap [] []; let f := (onTh s fun t => { t with link := [], spilled := 1 }).onCtx 0 fun c => { c with lsbase := 0x4D000, lslim := 16 }; s.th.link == [] && s.th.spilled == 0 && f.th.link == [] && decide (0 < f.th.spilled) && good (tRead (f.spillAt 0) 8 f) && (onTh s fun t => { t with link := [0x41] }).th.link == [0x41]) = true := by decide +kernel
theorem witness_bytecodeCalls_3 :
    (let s := heap [] []; let clean := fun (r : Nat) => !s.th.xPoison.contains r; clean 28 && clean 30 && clean 29 && valueOf (tRead 0x40030 8 s) == some 0x41001 && bits 0x41001 15 8 == 0x10 && decide ((0x3F000 : Word).toNat < (s.xr 28 + word (8 * (0x1FF0 + 3))).toNat + 8 * 0x10) && !decide ((s.xr 30).toNat < (s.xr 28 + word (8 * (1 + 3))).toNat + 8 * 0x10) && 2 != bits 0x41001 7 0) = true := by decide +kernel
theorem witness_bytecodeCalls_4 :
    (let s := heap [(30, 0x30010)] []; !s.th.xPoison.contains 28 && !s.th.xPoison.contains 30 && good (tRead 0x40030 8 s) && decide ((s.xr 30).toNat < (s.xr 28 + word (8 * (1 + 3))).toNat + 8 * 0x10)) = true := by decide +kernel
theorem witness_bytecodeCalls_5 :
    (let s := heap [] []; let m := s.xr 28 + word (8 * (1 + 3)); good ((do let _ ← tRead 0x40030 8; let c ← tRead 0x40010 8; tSetF 2 (s.xr 28 <<< 3); tSetF 3 (s.xr 29 <<< 3); tEach (fun i => tWrite (m + word (8 * (1 + i))) 8 3) (List.range 15); tPush ((s.th.pc &&& ~~~3) ||| 1)) s) && !s.th.xPoison.contains 29) = true := by decide +kernel
theorem witness_bytecodeCalls_6 :
    (let s := heap [] []; decide (([8, 16] : List Word).length ≤ 4) && good (tPush ((s.th.pc &&& ~~~3) ||| 1) s) && !s.th.xPoison.contains 28) = true := by decide +kernel
theorem witness_bytecodeCalls_7 :
    (let s := heap [] []; let r := heapAt 0x4A000 [1, 0, 0x30] []; bits (dword (toBytes 64 0) 0) 7 6 == 0 && bits (dword (toBytes 64 0x40) 0) 7 6 == 1 && bits (dword (toBytes 64 0x80) 0) 7 6 == 2 && valueOk 8 && tagOf 8 != 1 && valueOf (tKind 0x46001 s) == some (some 2) && good (tRead 0x46000 8 s) && valueOf (tKind 0x4A001 r) == some (some 1)) = true := by decide +kernel
theorem witness_bytecodeCalls_8 :
    (let s := heap [] [(1, 0x40001), (4, 24)]; let p := s.advance 4; let o := s.advance 8; decide s.bcClear && good ((tF 1 >>= fun f => tSite 0 >>= fun site => tKind f >>= fun _ => tAll (fun i => tF (1 + 3 + i)) (List.range 1) >>= fun l => tEach (tTouch site) l >>= fun _ => tEnter (f - 1) 1 1 site) o) && valueOf (tKind 0x40001 o) == some (some 4)) = true := by decide +kernel
theorem witness_bytecodeCalls_9 :
    (let s := wordsAt (heapAt 0x4A000 [9, 0, 0x30] [(1, 0x4A001), (4, 24)]) 0x42100 [0x1042, 0x4A001, 0x8000000000000000, 0, 0, 0, 0x700]; let p := s.advance 4; let o := s.advance 8; decide s.bcClear && good ((do let f ← tF 1; let site ← tSite 1; let _ ← tKind f; let l ← tAll (fun i => tF (1 + 3 + i)) (List.range 1); tEach (tTouch site) l; let cl ← tAll tClass l; let r ← tLookup 1 2 (fun e => bits (dword e 0) 15 12 == 1 && dword e 1 == f && icKeys e cl); tCallAct 1 1 r.2 l site) o) && valueOf (tKind 0x4A001 o) == some (some 9) && decide (1 ≤ 4)) = true := by decide +kernel
theorem witness_bytecodeCalls_10 :
    (let s := heap [] [(1, 8)]; let p := s.advance 4; let o := s.advance 8; decide s.bcClear && good ((tF 1 >>= fun f => tSite 0 >>= fun _ => tKind f) o) && valueOf (tKind 8 o) == some none) = true := by decide +kernel
theorem witness_bytecodeCalls_11 :
    (let s := heap [] [(4, 0x40001), (5, 24)]; let p := s.advance 4; let o := s.advance 8; decide s.bcClear && good ((do let site ← tSite 1; let f ← tF 4; let l ← tAll (fun i => tF (1 + 3 + i)) (List.range 1); tTouch site f; tEach (tTouch site) l; let c ← tClass f; let cl ← tAll tClass l; let r ← tLookup 1 2 (fun e => bits (dword e 0) 15 12 == 1 && dword e 1 == c && icKeys e cl); tCallAct 1 1 r.2 l site) o) && decide (4 < (5 : BitVec 8).toNat)) = true := by decide +kernel
theorem witness_bytecodeCalls_12 :
    (let s := heap [] [(1, 0), (2, 24)]; let p := s.advance 4; let o := s.advance 8; decide s.bcClear && valueOf (tK 3 p) == some (0x50000 * 8) && tagOf (0x50000 * 8) == 0 && good ((do let f ← tK 3; let l ← tAll (fun i => tF (1 + 1 + i)) (List.range 1); tNativeCall 1 (f.sshiftRight 3) l) p) && decide (4 < (5 : BitVec 8).toNat)) = true := by decide +kernel
theorem witness_bytecodeCalls_13 :
    (let s := onTh (heap [] []) fun t => { (t.setX 28 0x30100) with link := [0x20041] }; decide s.bcClear && !s.th.xPoison.contains 28 && good ((do let v ← tF 1; let _ ← tRead (s.xr 28 - 16) 8; let _ ← tRead (s.xr 28 - 8) 8; let _ ← tPop; tWrite (s.xr 28 - 24) 8 v) (s.advance 4)) && (0x20041 : Word).getLsbD 0) = true := by decide +kernel
theorem witness_bytecodeCalls_14 :
    (let s := onTh (heap [] []) fun t => { (t.setX 28 0x30100) with link := [0x20040] }; decide s.bcClear && good ((do let v ← tF 1; let _ ← tRead (s.xr 28 - 16) 8; let _ ← tRead (s.xr 28 - 8) 8; let _ ← tPop; tWrite (s.xr 28 - 24) 8 v) (s.advance 4)) && !(0x20040 : Word).getLsbD 0) = true := by decide +kernel
theorem witness_bytecodeCalls_15 :
    (let s := onTh (ctl []) fun t => { t with guard := true, tstat := 0 }; s.th.cc && s.th.guard && !s.th.sup && s.xr 23 == 0 && s.clear (.uret hd 0)) = true := by decide +kernel
theorem witness_bytecodeCalls_16 :
    (let s := ctl []; !s.th.guard && s.clear (.uret hd 0)) = true := by decide +kernel
/-- A guard handler with a value to raise. -/
def guarding (r : Word) (f : List (Nat × Word)) : State :=
  onTh (heap [(31, r), (23, 40), (21, 0x20100)] f) fun t => { t with tephra := false, guard := true, tstat := 0 }

theorem witness_bytecodeCalls_17 :
    (let s := guarding 0x30008 [(1, 0x20100 * 8), (2, 0x30000 * 8), (3, 0x40000 * 8)]; s.th.cc && s.th.guard && !s.th.sup && s.xr 23 != 0 && s.drained s.cur && s.clear (.uret hd 0) && good (tRaise (s.xr 23) (s.past.burst 0).uretMode)) = true := by decide +kernel
theorem witness_bytecodeCalls_18 :
    (let s := guarding 0x30008 [(1, 0x20100 * 8), (2, 0x30000 * 8), (3, 0x40000 * 8), (5, 40)]; s.th.cc && s.th.guard && !s.th.sup && s.xr 23 != 0 && s.drained s.cur && s.th.trace.isEmpty && s.clear (.uret hd 0) && (stopOf (tRaise (s.xr 23) (s.past.burst 0).uretMode)).isSome) = true := by decide +kernel
theorem witness_bytecodeCalls_19 :
    (let s := guarding 0 []; s.th.cc && s.th.guard && !s.th.sup && s.xr 23 != 0 && s.drained s.cur && s.th.trace.isEmpty && s.clear (.uret hd 0) && s.xr 31 == 0 && !s.th.xPoison.contains 31) = true := by decide +kernel
/-! mapTooLarge: a map that is too large. -/
theorem witness_mapTooLarge_1 :
    (decide (12 < (13 : BitVec 8).toNat)) = true := by decide +kernel
/-! allocation: no arena, an arena without room, MARKING on and off. -/
theorem witness_allocation_1 :
    (let s := heap [] []; let f := heapAt 0x49008 [0x100010] []; valueOf (tArena (s.onCtx 0 fun c => { c with arena := 0 })) == some 0 && valueOf (tArena f) == some 0x49000 && valueOf (tRead 0x49008 8 f) == some 0x100010 && valueOf (tAtom 0x49000 18 64 0x100010 .ordered f) == some 0x100000 && decide ((0x100010 : Word).toNat < (0x100000 : Word).toNat + 64) && good (tMarking s)) = true := by decide +kernel
/-! exceptionsAndGuard: a handler block stored, taken away and used, a raise without one and one that is too deep, a value awaited, a tensor
that is settled and two that are not, an entry of the guard path. -/
theorem witness_exceptionsAndGuard_1 :
    (let s := heap [] []; !s.th.xPoison.contains 31 && s.xr 31 == 0) = true := by decide +kernel
theorem witness_exceptionsAndGuard_2 :
    (let s := heap [(31, 0x30008)] [(1, 0x20100 * 8), (2, 0x30000 * 8), (3, 0x40000 * 8)]; !s.th.xPoison.contains 31 && s.xr 31 != 0 && good ((do let _ ← tRead 0x30008 8; let _ ← tRead 0x30010 8; let _ ← tRead 0x30018 8; let _ ← tRead 0x30020 8; let _ ← tRead 0x30028 8; tWrite 0x30008 8 40) s) && valueOf (tRead 0x30028 8 s) == some 0) = true := by decide +kernel
theorem witness_exceptionsAndGuard_3 :
    (let s := heap [(31, 0x30008)] [(5, 40)]; s.xr 31 != 0 && good ((do let _ ← tRead 0x30008 8; let _ ← tRead 0x30010 8; let _ ← tRead 0x30018 8; let _ ← tRead 0x30020 8; tRead 0x30028 8) s) && decide ((s.th.link.length + s.th.spilled : Int) < ((40 : Word).sshiftRight 3).toInt) && decide (((-8 : Word).sshiftRight 3).toInt < 0)) = true := by decide +kernel
theorem witness_exceptionsAndGuard_4 :
    (let s := heap [] []; let t := heapAt 0x4A070 [0, 1] []; let u := heapAt 0x4A070 [3, 0] []; let k := fun (s : State) => wordsAt s 0x4A000 [1]; valueOf (tKind 8 s) == some none && [k s, k t, k u].all (fun s => valueOf (tKind 0x4A001 s) == some (some 1)) && valueOf ((tRead 0x4A070 8 >>= fun a => tRead 0x4A078 8 >>= fun b => pure (a, b)) s) == some (0, 0) && valueOf ((tRead 0x4A070 8 >>= fun a => tRead 0x4A078 8 >>= fun b => pure (a, b)) t) == some (0, 1) && valueOf ((tRead 0x4A070 8 >>= fun a => tRead 0x4A078 8 >>= fun b => pure (a, b)) u) == some (3, 0)) = true := by decide +kernel
theorem witness_exceptionsAndGuard_5 :
    (let s := heap [] []; let p := s.advance 4; let o := s.advance 8; decide s.bcClear && !s.th.xPoison.contains 28 && !s.th.xPoison.contains 29 && !s.th.xPoison.contains 31 && good ((do tSetF 1 8; tSetF 2 8; tSetF 3 8; tSetF 4 8; tSetF 5 8) p)) = true := by decide +kernel
theorem witness_exceptionsAndGuard_6 :
    (let s := heap [(31, 0x30008)] [(4, 0)]; let p := s.advance 4; let o := s.advance 8; decide s.bcClear && s.xr 31 == s.xr 28 + word (8 * 1) && good (tF 4 p) && s.xr 31 != s.xr 28 + word (8 * 2)) = true := by decide +kernel
theorem witness_exceptionsAndGuard_7 :
    (let s := heap [(31, 0x30008)] [(1, 0x20100 * 8), (2, 0x30000 * 8), (3, 0x40000 * 8), (6, 40)]; let p := s.advance 4; let o := s.advance 8; decide s.bcClear && good ((tF 6 >>= tRaise) p)) = true := by decide +kernel
theorem witness_exceptionsAndGuard_8 :
    (let s := heap [] [(1, 40)]; let p := s.advance 4; let o := s.advance 8; decide s.bcClear && s.xr 31 == 0 && (match tF 1 p with | .ok (_, q) => q.threads == p.threads && q.cur == p.cur | _ => false) && good ((do let v ← tF 1; tSettle false v; tTouch 0 v) p)) = true := by decide +kernel
theorem witness_exceptionsAndGuard_9 :
    (let s := wordsAt (heapAt 0x4A070 [3] [(1, 0x4A001)]) 0x4A000 [1]; let p := s.advance 4; let o := s.advance 8; decide s.bcClear && (match (tF 1 >>= tSettle false) p with | .error (.park (.tensor a false)) => a == 0x4A070 | _ => false)) = true := by decide +kernel
theorem witness_exceptionsAndGuard_10 :
    (let s := heap [] []; has s.threads s.cur && s.myCtx.ghvec &&& ~~~7 != 0 && (ctl []).myCtx.ghvec &&& ~~~7 == 0) = true := by decide +kernel

/-! threadEvents: each event of a thread when it can happen and when it cannot. -/
theorem witness_threadEvents_1 :
    (let s := onTh (sup []) fun t => { t with outst := [(⟨3, [.reg (x 4)], .done [.reg (x 4) 5], 0, [], [], []⟩ : Outst)] }; s.canReturn 1 3 && !s.canReturn 1 4 && ((s.thread 1).outst.find? (fun r => r.id == 3)).isSome) = true := by decide +kernel
theorem witness_threadEvents_2 :
    (let s := onTh (sup []) fun t => { t with park := .trap (.of .align 8) true }; has s.threads 1 && s.drained 1 && (s.thread 1).park == .trap (.of .align 8) true) = true := by decide +kernel
theorem witness_threadEvents_3 :
    (let s := { sup [] with accs := [acc (.thread 1) (.bank 0 0) 0xF00000000100 .load] }; !s.drained 1) = true := by decide +kernel
theorem witness_threadEvents_4 :
    (let s := { onTh (sup []) fun t => { t with outst := [(⟨3, [.reg (x 4)], .sleep 5, 1, [], [], []⟩ : Outst)] } with now := 5 }; (s.thread 1).outst == [(⟨3, [.reg (x 4)], .sleep 5, 1, [], [], []⟩ : Outst)] && decide ((0 : Int) ≤ (s.now - 5 : Word).toInt)) = true := by decide +kernel
theorem witness_threadEvents_5 :
    (let s := { onTh (sup []) fun t => { t with outst := [(⟨3, [.reg (x 4)], .sleep 5, 1, [], [], []⟩ : Outst)] } with now := 4 }; decide ((s.now - 5 : Word).toInt < (0 : Int))) = true := by decide +kernel
theorem witness_threadEvents_6 :
    (let s := onTh (heap [] []) fun t => { t with park := .tensor 0x50068 false }; s.canTensorWake 1 && !(sup []).canTensorWake 1) = true := by decide +kernel
theorem witness_threadEvents_7 :
    (let s := onTh (sup []) fun t => { t with place := .moving 4 }; has s.threads 1 && (s.thread 1).place == .moving 4) = true := by decide +kernel
theorem witness_threadEvents_8 :
    (let s := onTh (sup []) fun t => { t with place := .block 4 }; s.placeFor 1 == some 4) = true := by decide +kernel
theorem witness_threadEvents_9 :
    (let s := (onTh (sup []) fun t => { t with place := .queue 4 }).onCtx 0 fun c => { c with runq := [(queueKey false 4, [.thread 1])] }; s.placeFor 1 == none && s.canTakeSlot 1) = true := by decide +kernel
theorem witness_threadEvents_10 :
    (let s := (sup []).onCtx 0 fun c => { c with inbox := [(placedNative.thread, 5, 6)] }; (s.inboxTo 0 0).isSome && s.inboxTo 0 1 == none) = true := by decide +kernel
theorem witness_threadEvents_11 :
    (let r : Resv := ⟨.thread 1, .bank 0 0, 0xF00000000100, 4096⟩; decide (4096 ≤ r.age) && r.owner == .thread 1 && (sup []).resv.all (fun x => decide (x.age < 4096))) = true := by decide +kernel

/-! accessEvents: an access that may be performed, one of a CXL port in time and late, a payload write, completion of a fast-path launch. -/
theorem witness_accessEvents_1 :
    (let a := acc (.thread 1) (.bank 0 0) 0xF00000000100 .load; let s := { sup [] with accs := [a] }; s.accs.find? (fun a => a.id == 9) == some a && !a.isCxl && s.mayPerform a && s.accs.find? (fun a => a.id == 8) == none) = true := by decide +kernel
theorem witness_accessEvents_2 :
    (let a := acc (.engine 0) (.bank 0 0) 0xF00000000100 (.deposit 7 [1] 0 false false); let s := { sup [] with accs := [a] }; !a.isCxl && s.mayPerform a && s.mayDeposit a 7) = true := by decide +kernel
theorem witness_accessEvents_3 :
    (let a := { acc (.thread 1) (.cxl 0) 0xF00000000100 .load with due := 50 }; let s := { sup [] with accs := [a] }; a.isCxl && s.mayPerform a && !s.timedOut a) = true := by decide +kernel
theorem witness_accessEvents_4 :
    (let a := { acc (.thread 1) (.cxl 0) 0xF00000000100 .load with due := 50 }; let s := { { sup [] with accs := [a] } with now := 60 }; a.isCxl && s.timedOut a && a.owner == .thread 1) = true := by decide +kernel
theorem witness_accessEvents_5 :
    (let s := (sup []).onCtx 0 fun c => { c with launches := [(⟨0x1001, 3, 2, false, [], ⟨0, 0, false, 0, 0, 0, 0, false, 0, 0, 0, 0, 0⟩, [], 0, .completed, 0, false, true, none, false, [], [], some (0x50000, true), [], [], none⟩ : Launch)] }; s.canFastComplete (launchKey 0 0x1001) && !s.canFastComplete 0) = true := by decide +kernel
theorem witness_accessEvents_6 :
    ((sup []).kindOf 0x400000 == some .hbm && (sup []).kindOf 0xF00000000100 == some .scratch) = true := by decide +kernel

/-! unitEvents: each event of the matrix unit, of launches, of neighbour-paced cores, queues and counters when it can happen. -/
theorem witness_unitEvents_1 :
    (let s := (sup []).onCore 0 fun k => { k with jobs := [⟨1, 3, .mma 0 [] [] 3 3 none none⟩] }; s.canAccumulate 0 && !s.canAccumulate 1) = true := by decide +kernel
theorem witness_unitEvents_2 :
    (let s := (sup []).onCore 0 fun k => k.setTile 0 { Tile.new with state := 2, owner := some 1, drain := some (0x40, 0, 0, 1, 0) }; s.canReadout 0 0) = true := by decide +kernel
theorem witness_unitEvents_3 :
    (let s := (sup []).onCtx 0 fun c => { c with launches := [(⟨0x1001, 3, 2, false, [⟨4, 1, 1, 0⟩], ⟨0x1000, 16, false, 0, 0, 0, 0, false, 0, 0, 0, 0, 0⟩, [0], 0, .queued, 0, false, true, none, false, [], [], none, [], [], none⟩ : Launch)] }; s.nextLaunch == some (0, 0x1001, some 3)) = true := by decide +kernel
theorem witness_unitEvents_4 :
    (let s := (sup []).onCtx 0 fun c => { c with launches := [(⟨0x1001, 3, 2, false, [⟨4, 1, 1, 0⟩], ⟨0x1000, 16, false, 0, 0, 0, 0, false, 0, 0, 0, 0, 0⟩, [0], 0, .running, 0, false, true, none, false, [⟨4, 5, 0, 0, false, false⟩], [], none, [], [], none⟩ : Launch)], runq := [(queueKey false 4, [.leaf 0x1001 0])] }; s.leafPlace 0 0x1001 0 == some (false, 4, 5)) = true := by decide +kernel
theorem witness_unitEvents_5 :
    (let s := (sup []).onCtx 0 fun c => { c with launches := [(⟨0x1001, 3, 2, false, [⟨4, 1, 1, 0⟩], ⟨0x1000, 16, false, 0, 0, 0, 0, false, 0, 0, 0, 0, 0⟩, [2], 0, .running, 0, false, true, none, false, [⟨4, 5, 0, 0, false, false⟩], [], none, [], [], none⟩ : Launch)] }; s.repartMode 4 (launchKey 0 0x1001) == some 2) = true := by decide +kernel
theorem witness_unitEvents_6 :
    (let s := (sup []).onCore 3 fun k => { k with step := 7, stepDone := 7, nb := { k.nb with active := true, asid := 0, start := 5 } }; s.canAdvance 3 && !s.canAdvance 4) = true := by decide +kernel
theorem witness_unitEvents_7 :
    (let s := { (sup []).onCore 0 fun k => { k with step := 7, stepDone := 6, nb := { k.nb with active := true, asid := 0, start := 5, preds := [⟨2, 0, 0, false, 6, 4, 1, 64, 0x800, false⟩], succs := [⟨1, 0, 0, 4, 1, 64, 0x400, 6, false⟩] } } with beacons := [⟨4, 2, 0, 0, 0, 0, .done 7⟩] }; s.beaconAt 4 == some ⟨4, 2, 0, 0, 0, 0, .done 7⟩ && s.hasEdge ⟨4, 2, 0, 0, 0, 0, .done 7⟩) = true := by decide +kernel
theorem witness_unitEvents_8 :
    (let s := { (sup []).onCore 0 fun k => { k with step := 7, stepDone := 6, nb := { k.nb with active := true, asid := 0, start := 5, preds := [⟨2, 0, 0, false, 6, 4, 1, 64, 0x800, false⟩], succs := [⟨1, 0, 0, 4, 1, 64, 0x400, 6, false⟩] } } with beacons := [⟨4, 2, 0, 0, 0, 0, .leaving⟩] }; s.beaconAt 4 == some ⟨4, 2, 0, 0, 0, 0, .leaving⟩ && s.hasEdge ⟨4, 2, 0, 0, 0, 0, .leaving⟩) = true := by decide +kernel
theorem witness_unitEvents_9 :
    (let s := { (sup []).onCore 0 fun k => { k with step := 7, stepDone := 6, nb := { k.nb with active := true, asid := 0, start := 5, preds := [⟨2, 0, 0, false, 6, 4, 1, 64, 0x800, false⟩], succs := [⟨1, 0, 0, 4, 1, 64, 0x400, 6, false⟩] } } with beacons := [⟨4, 2, 0, 0, 0, 0, .cut 0x40 0x100 (.bank 0 0) 9⟩] }; s.beaconAt 4 == some ⟨4, 2, 0, 0, 0, 0, .cut 0x40 0x100 (.bank 0 0) 9⟩ && s.hasEdge ⟨4, 2, 0, 0, 0, 0, .cut 0x40 0x100 (.bank 0 0) 9⟩) = true := by decide +kernel
theorem witness_unitEvents_10 :
    (let s := { (sup []).onCore 0 fun k => { k with step := 7, stepDone := 6, nb := { k.nb with active := true, asid := 0, start := 5, preds := [⟨2, 0, 0, false, 6, 4, 1, 64, 0x800, false⟩], succs := [⟨1, 0, 0, 4, 1, 64, 0x400, 6, false⟩] } } with beacons := [⟨4, 2, 0, 0, 0, 0, .release 0x40⟩] }; s.beaconAt 4 == some ⟨4, 2, 0, 0, 0, 0, .release 0x40⟩ && s.hasEdge ⟨4, 2, 0, 0, 0, 0, .release 0x40⟩) = true := by decide +kernel
theorem witness_unitEvents_16 :
    (let s := (sup []).onCore 0 fun k => { k with step := 7, stepDone := 7, nb := { k.nb with active := true, cutPend := true, cutPa := 0x40 } }; (s.core 0).nb.cutPend && (s.core 0).nb.cutPa == 0x40) = true := by decide +kernel
theorem witness_unitEvents_11 :
    (let s := (sup []).onCore 0 fun k => { k with step := 7, stepDone := 7, nb := { k.nb with active := true, cutPend := true, cutStep := 7, cutHome := some (.bank 0 0) } }; s.canHold 0) = true := by decide +kernel
theorem witness_unitEvents_12 :
    (let s := (sup []).onCore 0 fun k => { k with nb := { k.nb with pairing := some (1, 9, x 4, 0) } }; s.mayPair 0) = true := by decide +kernel
theorem witness_unitEvents_13 :
    (let s := { ((sup []).onCore 0 fun k => { k with nb := { k.nb with pairing := some (1, 9, x 4, 3), preds := [⟨2, 0, 0, false, 6, 4, 1, 64, 0x800, false⟩] } }) with now := 9000 }; (match s.stallOf 1 with | some (wd, _, _) => wd == 3 && decide (2 ^ (wd + 10) ≤ (s.now - (s.thread 1).parkedAt).toNat) | none => false)) = true := by decide +kernel
theorem witness_unitEvents_14 :
    (let s := (sup []).onCtx 0 fun c => { c with ceqbase := 0x20004, heldEvents := [⟨1, 2, true, false, 0, 0, 0, 0, 0, 0, none⟩] }; s.canPostHeld 0 && (s.ctx 0).heldEvents.length == 1) = true := by decide +kernel
theorem witness_unitEvents_15 :
    (let s := { sup [] with counts := [⟨4, 0, 0x10, 1⟩] }; (s.counts.find? (fun x => x.id == 4)).isSome && has s.ctxs 0) = true := by decide +kernel

/-! engineEvents: a command before and after acceptance, a region that may flip, packets of each kind, a connection, a call and its reply. -/
theorem witness_engineEvents_1 :
    (let c := cmd (.xfer 0x400000 0x200000 0 0 [] none) false; let s := { sup [] with cmds := [c] }; s.cmd? 6 == some c && !c.accepted && s.firstQueued c && s.allDone c.earlier && s.nwrRoom c && s.mailRoom c && s.walksFree c && !(s.thread c.uid).overLimit c.out) = true := by decide +kernel
theorem witness_engineEvents_2 :
    (let c := cmd (.xfer 0x400000 0x200000 0 0 [] none) true; let s := { sup [] with cmds := [c] }; s.cmd? 6 == some c && c.accepted && s.cmdDone c && s.inOrder c) = true := by decide +kernel
theorem witness_engineEvents_3 :
    (let s := ({ sup [] with cmds := [cmd (.publish 0 (x 4)) true] }).onCtx 0 fun c => { c with regions := [(0, ⟨0x400000, 1, [0x40], []⟩)] }; s.canFlip 6 && !s.canFlip 5) = true := by decide +kernel
theorem witness_engineEvents_4 :
    (let c := cmd (.npost 0 7 2 0x400000 32 5 0) true; let p : Pkt := ⟨1, 0, false, false, false, 0, 0, 0, false, []⟩; let r : WorkReq := ⟨6, 2, 0, [p], [], none⟩; let s := { sup [] with cmds := [{ c with len := 32 }], reqs := [r] }; let t := { s with reqs := [{ r with pkts := [{ p with reading := true, got := [⟨0, [1], false⟩] }] }] }; s.sendable[0]? == some (r, p) && s.sendable[1]? == none && (packetReads (s.sourceOf r).2.1 (s.sourceOf r).2.2.1 p.index).length == 2 && t.sendable.all (fun e => e.2.reading)) = true := by decide +kernel
theorem witness_engineEvents_5 :
    (let s := { sup [] with net := [⟨4, true, 3, 0, .packet 2 1 0 0 1 32 0 0 0 false [] []⟩, ⟨5, true, 3, 0, .ack 2 1⟩, ⟨6, true, 3, 0, .refuse 2 1 4⟩] }; [4, 5, 6].all (fun k => (s.inbound k).isSome) && s.canReceive 4) = true := by decide +kernel
theorem witness_engineEvents_6 :
    (let p : Pkt := ⟨1, 0, true, false, false, 0, 0, 0, true, []⟩; let s := { sup [] with now := 5000, conns := [(2, { Conn.new with isOpen := true, timeout := 100 })], reqs := [⟨6, 2, 0, [p], [], none⟩] }; s.overdue[0]? == some (2, 1) && (s.conn 2).isOpen && !(s.conn 3).isOpen) = true := by decide +kernel
theorem witness_engineEvents_7 :
    (let s := { sup [] with calls := [⟨4, 0, 0, 1, 0, [], 0x400000, 0, false, false⟩] }; (s.calls.find? (fun c => c.id == 4)).isSome && (s.calls.find? (fun c => c.id == 5)).isNone) = true := by decide +kernel

/-! platformEvents: registers that may be written and of another privilege, the window, a function bound and not bound, a healthy link, both sides of each limit, each boot record. -/
theorem witness_platformEvents_1 :
    (let s := sup []; crKnown 0x108 && decide (1 ≤ crPriv 0x108) && s.th.sup && s.th.asid == 0 && [0x010, 0x011, 0x012, 0x050, 0x108, 0x130, 0x400, 0x411, 0x413].all (fun n => crKnown n && (s.crWriteCheck n.toNat 0 (word (Config.freeNat s.free))).isNone)) = true := by decide +kernel
theorem witness_platformEvents_2 :
    (let s := usr []; crKnown 0x108 && decide (1 ≤ crPriv 0x108) && !s.th.sup && has s.threads s.cur) = true := by decide +kernel
theorem witness_platformEvents_8 :
    (let s := onTh (sup []) fun t => { t with asid := 5 }; decide (2 ≤ crPriv 0x400) && s.th.asid != 0 && !crKnown 0x7FF && s.th.sup && (sup []).th.asid == 0) = true := by decide +kernel
theorem witness_platformEvents_3 :
    (decide (0x8000 < Config.cores (sup []).part * 0x8000) && 0x8000 % 8 == 0) = true := by decide +kernel
theorem witness_platformEvents_4 :
    (let s := { (sup []).setCtx 5 (Ctx.new 1 0 []) with vfs := [(3, { Vf.new with ctl := 0x50001 })], hostUp := true }; let q := { s with threads := s.threads ++ [(7, { Thread.new with asid := 5, place := .slot 0, slot := 4, park := .trap (.of .align 0) true })] }; let r := { s with accs := [{ acc (.engine 0) (.bank 0 0) 0xF00000000100 .load with asid := 5 }] }; s.boundTo 3 == some 5 && s.hostLink && !s.flrWaits 5 && !(s.resetBegin 5).resetOwes 5 && q.flrWaits 5 && !r.flrWaits 5 && !s.resetting 5 && s.boundTo 4 == none) = true := by decide +kernel
theorem witness_platformEvents_5 :
    (let s := { sup [] with identity := [1] }; s.identity != [] && (sup []).identity == []) = true := by decide +kernel
theorem witness_platformEvents_6 :
    (decide (0 < 27) && decide (500 < (State.reset).mhz) && decide ({ sup [] with pwrstat := 500 }.mhz ≤ 500) && decide (1000000 < 1000001)) = true := by decide +kernel
theorem witness_platformEvents_9 :
    (let s := { sup [] with pwrstat := 500 }; let q := { s with accs := [acc (.thread 1) (.bank 0 0) 0xF00000000100 .load] }; decide (s.mhz ≤ 500) && !s.stopAll.someResident && (get Vf.new s.stopAll.vfs hostMailbox).room && decide (q.mhz ≤ 500) && q.stopAll.someResident && has s.ctxs 0) = true := by decide +kernel

/-! memoryCanonical: the memory after reset has its canonical form, and a step answers a next state. -/
theorem witness_memoryCanonical_1 :
    (State.reset.wf && (sup []).wf && (stepped (State.reset.withFetchWord 64 0x0000000000000000)).wf && decide ((run (.movi hd (x 4) 1) (sup [])).mem = (sup []).mem)) = true := by decide +kernel

/-! ### Instructions that go on, and walks -/

/-- The same thread at an instruction that goes on after a park, with what it keeps and the bytes that it has read. -/
def again (i : Instr) (kept : List Word) (trace : List Seen) (s : State) : State :=
  onTh s fun t => { t with held := some (i.word, []), kept := kept, trace := trace }

/-- A thread with 16 results outstanding. -/
def crowded (s : State) : State :=
  onTh s fun t => { t with outst := (List.range 16).map fun n => ⟨100 + n, [], .done [], 1, [], [], []⟩ }

/-- A walk follows nothing where the thread has nothing under way and no reservation is held. -/
theorem walks_free (s : State) (h : (s.pending (.thread s.cur)).isEmpty = true) (hv : s.resv = []) (va : Word) (n k : Nat) :
    s.walkAfter va k = [] ∧ s.walksAfter va n k = [] := by
  simp [State.walkAfter, State.walksAfter, State.nodesHeld, h, hv]

theorem witness_walks : ([sup [], ctl [], usr [], tiled, claimed, scaled, stepper [], twoThreads, byt [] [], heap [] []] : List State).all
    (fun s => (s.past.pending (.thread s.cur)).isEmpty && s.past.resv == []) = true := by decide +kernel

/-! vectors: an active row and none; the operations of a tree. -/
theorem witness_vectors_3 : ((sup []).th.activeRows != [] && (onTh (sup []) fun t => { t with vact := 0 }).th.activeRows == []) = true := by decide +kernel

/-! accumulation: a prior that is an infinity, with and without products. -/
theorem witness_accumulation_3 :
    ((⟨1, 0⟩ : Elem).cls == 1 && (⟨2, 0⟩ : Elem).cls == 2 && !(⟨false, false, false, false, 0⟩ : Dot).pos) = true := by decide +kernel

/-! service: a call that goes on, the exit of a task whose counter can and cannot be reached, and one that drains. -/
theorem witness_service_5 :
    (let i := Instr.gatedServiceCall hd 0 3; let s := again i [] [.got [] false] (sup [(1, 3)]); s.resumes i && s.th.trace != [] && decide (s.myCtx.calls < 256) && s.releaseIds 4 == [] && s.past.drained s.cur) = true := by decide +kernel
theorem witness_service_6 :
    (let f := onTh (sup []) fun t => { t with work := .task 0x101 }; let g := onTh (sup []) fun t => { t with work := .task 0x100 }; f.past.joinFault != none && f.clear (.exit hd 0) && g.past.joinFault == none && g.clear (.exit hd 0) && g.past.drained g.cur && !(sup []).th.isTask) = true := by decide +kernel

/-! fork: the end of a task that drains, and one whose counter lies in the control-and-status window. -/
theorem witness_fork_5 :
    (let s := onTh (crowded (sup [])) fun t => { t with work := .task 0x100, outst := t.outst.take 1 }; s.clear (.tend hd false) && !s.past.drained 1 && (match s.past.check s.past.who 0x100 8 kWrite with | .ok t => !s.past.csrBad t.pa 8 false | .error _ => false)) = true := by decide +kernel
theorem witness_fork_6 :
    (let a : Word := (BitVec.ofNat 52 csrBase).signExtend 64; let s := onTh (sup []) fun t => { t with work := .task a }; s.clear (.tend hd false) && (match s.past.check s.past.who a 8 kWrite with | .ok t => s.past.csrBad t.pa 8 false | .error _ => false)) = true := by decide +kernel

/-! barriers: no arrival under way; one that has arrived; arrivals of a slot and of an engine. -/
theorem witness_barriers_7 :
    (let s := (sup []).setBarrier (barrierKey 0 0) ⟨0x7, 0, 5, []⟩; s.past.arriving (barrierKey 0 0) == [] && s.th.kept == []) = true := by decide +kernel
theorem witness_barriers_8 :
    (let s := (sup []).setBarrier (barrierKey 0 0) ⟨0x7, 0x2, 5, []⟩; let b := s.barrier (barrierKey 0 0); b.members &&& slotBit 0 1 != 0 && b.arrived &&& slotBit 0 1 != 0 && s.past.arriving (barrierKey 0 0) == [] && s.clear (.barr hd (x 4) (x 1) false) && s.clear (.bwait hd (x 1) false)) = true := by decide +kernel
theorem witness_barriers_9 :
    (let s := (sup []).setBarrier 0 ⟨engineBit 0 ||| 1, engineBit 0, 5, []⟩; let a := acc (.engine 0) (.bank 0 0) 0 .fget; s.barrierGranted a.asid (0 / 32 * 16) (0 % 32) && s.barrierGranted a.asid 0 (0 % 32) && (s.barrier 0).arrived &&& engineBit 0 != 0 && ((sup []).barrier 0).arrived &&& engineBit 0 == 0) = true := by decide +kernel

/-! launches: reads that wait; a record whose read traps; a code object that does not fit; a full queue and a full table; one that
goes on; a deferred launch whose release is not over and whose thread drains; no room for a result. -/
def launchable : State := wordsAt (wordsAt (wordsAt (wordsAt (sup [(1, 0x500003), (2, 7), (5, 0x1001)]) 0x500000 [0x21, 0x600000, 0, 0, 0, 0, 0, 0, 0x14]) 0x600000 [0x000100454C415355, 0, 0x10000, 0, 0x40]) 0x600040 [0x0000000100000001, 0x100]) 0x600100 [0x1000, 0x10, 0, 0]

/-- What it reads, and what that comes to. -/
def launchParts (s : State) (xa : Word) : Option (List Byte × List Byte) :=
  match s.past.launchBytes s.past.who xa with
  | .ok bs => some bs
  | .error _ => none

/-- A launch of the table. -/
def launchIn (st : LaunchState) (after : List Need) : Launch :=
  ⟨0x1001, 3, 2, false, [], ⟨0, 0, false, 0, 0, 0, 0, false, 0, 0, 0, 0, 0⟩, [], 0, st, 4, false, false, none, false, [], [], none, [], after, none⟩

theorem witness_launches_8 :
    (let s := { launchable with resv := [⟨.thread 9, .slice 0, 0x500008, 0⟩] }; (s.past.launchWait 0x500003).isSome && s.th.kept == [] && s.clear (.launch hd (x 4) (x 1) (x 2) mB) && launchable.past.launchWait 0x500003 == none) = true := by decide +kernel
theorem witness_launches_9 :
    (let s := launchable; match launchParts s 0x500003 with | some bs => good (s.past.launchOf 0 bs) && (let i := Instr.launch hd (x 4) (x 1) (x 2) mB; let q := again i [0] [.got bs.1 false, .got bs.2 false] s; q.resumes i && q.th.kept == [0] && q.th.trace == [.got bs.1 false, .got bs.2 false] && q.past.arg (x 1) == 0x500003 && good (q.past.launchOf 0 bs) && q.myCtx.freeEntry == some 0 && decide (q.myCtx.inQueue 3 < 256)) | none => false) = true := by decide +kernel
theorem witness_launches_10 :
    (let s := (onTh (wordsAt (wordsAt (sup [(1, 0x500003), (2, 7)]) 0x20000 [0x21001]) 0x21000 [0x40000000F]) fun t => { t with asid := 5 }).setCtx 5 { Ctx.new 1 0 [0x50, 0x51] with state := .running, ptroot := 0x20001, ranges := [⟨0, 2 ^ 40, 7⟩] }; (match s.past.launchBytes s.past.who 0x500003 with | .error (.nested _) => true | _ => false) && s.past.launchWait 0x500003 == none && s.clear (.launch hd (x 4) (x 1) (x 2) mB)) = true := by decide +kernel
theorem witness_launches_11 :
    (let i := Instr.launch hd (x 4) (x 1) (x 2) mB; let s := launchable; match launchParts s 0x500003 with | some bs => (let c := (bs.1, bs.2.map fun _ => (255 : Byte)); let q := again i [0] [.got c.1 false, .got c.2 false] s; q.resumes i && (match q.past.launchOf 0 c with | .error (.status n) => n == 2 | _ => false) && (again i [3] [] s).resumes i) | none => false) = true := by decide +kernel
theorem witness_launches_12 :
    (let s := launchable.onCtx 0 fun c => { c with launches := List.replicate 256 (launchIn .queued []) }; s.past.unitFree 0 && decide (256 ≤ s.myCtx.inQueue 3) && s.past.launchWait 0x500003 == none && s.clear (.launch hd (x 4) (x 1) (x 2) mB)) = true := by decide +kernel
/-- A launch table without a free entry. -/
def fullTable : State := launchable.onCtx 0 fun c => { c with launches := (List.range 4096).map fun n => { launchIn .running [] with handle := word n, queue := 5 } }

set_option maxRecDepth 20000 in
theorem witness_launches_13 : fullTable.myCtx.freeEntry = none := by
  have h : fullTable.myCtx.launches = (List.range 4096).map fun n => { launchIn .running [] with handle := word n, queue := 5 } := rfl
  unfold Ctx.freeEntry
  rw [List.find?_eq_none]
  intro e he
  obtain ⟨i, -, rfl⟩ := List.mem_map.1 he
  have hm : (fullTable.myCtx.seq + i) % 4096 < 4096 := Nat.mod_lt _ (by decide)
  generalize (fullTable.myCtx.seq + i) % 4096 = e at *
  rw [h, List.any_map]
  simp only [Bool.not_eq_true', Bool.not_eq_false, List.any_eq_true, Function.comp, List.mem_range]
  exact ⟨e, hm, by simp [launchIn, bits, word, Nat.mod_eq_of_lt hm]⟩
set_option maxRecDepth 20000 in
theorem witness_launches_16 : (fullTable.past.launchWait 0x500003 == none && decide (fullTable.myCtx.inQueue 3 < 256) && fullTable.clear (.launch hd (x 4) (x 1) (x 2) mB)) = true := by decide +kernel
theorem witness_launches_14 :
    (let f := fun (l : List Need) => (sup [(5, 0x1001)]).onCtx 0 fun c => { c with launches := [launchIn .deferred l] }; let a := acc (.thread 1) (.bank 0 0) 0xF00000000100 (.store [1]); let s := { f [(9, 6)] with accs := [a] }; !s.past.allDone [(9, 6)] && s.clear (.lwait hd (x 4) (x 5) mB) && (let q := { f [] with accs := [a] }; q.past.allDone [] && !q.past.drained q.cur && q.clear (.lwait hd (x 4) (x 5) mB))) = true := by decide +kernel
theorem witness_launches_15 :
    (let s := crowded (sup [(5, 0x1001)]); s.begins (.lstat hd (x 4) (x 5) mB) && decide (16 ≤ s.th.outst.length)) = true := by decide +kernel

/-! messages: an inbox that is full; a message that leaves the queue, to a living thread and to none. -/
theorem witness_messages_6 :
    (let n := placedNative.thread; let s := (onTh (sup [(1, word n)]) fun t => { t with mail := List.replicate 4 (0, 0) }).onCtx 0 fun c => { c with inbox := List.replicate 256 (n, 0, 0) }; s.past.mailbox 0 n == some (some 1) && (s.past.mailTo 0 n (some 1) 5 0).isNone && s.clear (.cmsg hd (x 4) (x 1) (x 2) mB)) = true := by decide +kernel
theorem witness_messages_7 :
    (let c := cmd (.message 0 placedNative.thread 5 0 (x 4)) false; let s := { sup [] with cmds := [c] }; let z := { s with cmds := s.cmds.filter fun x => x.id != c.id }; z.mailbox 0 77 == none && z.mailbox 0 placedNative.thread == some (some 1) && (z.mailTo 0 placedNative.thread (some 1) 5 0).isSome) = true := by decide +kernel

/-! stepGroups: no room for a result, and a pairing that goes on. -/
theorem witness_stepGroups_6 :
    (let s := crowded (wordsAt (sup [(1, 0x40), (2, 0x44), (3, 0x1000)]) 0xF00000000040 [0x1000000009 + 1 * 2^40, 5, 1 ||| (64 <<< 32) ||| (2 <<< 24), 0x200]); lready s.past 0x40 16 && lready (s.past.localRead 0x40 16) 0x40 32 && s.begins (.stepcfg hd (x 4) (x 1) mC) && decide (16 ≤ s.th.outst.length)) = true := by decide +kernel
theorem witness_stepGroups_7 :
    (let i := Instr.stepcfg hd (x 4) (x 1) mC; let s := again i [] [.got [] false] (sup [(1, 0x40)]); s.resumes i && s.th.trace == [.got [] false] && s.past.arg (x 1) != 0) = true := by decide +kernel

/-! controlRegisters: a core that is a member, a nomadic thread, and a counter of refreshes. -/
theorem witness_controlRegisters_4 :
    ((stepper []).myCore.nb.active && !(sup []).myCore.nb.active && (sup []).vecSlot && (onTh (sup []) fun t => { t with nomad := true }).th.nomad && (let s := (sup []).onCtx 0 fun c => { c with psel := [(0, 0x8000000000000060)] }; s.th.asid == 0 && bit (get 0 s.myCtx.psel 0) 63 && (get 0 s.myCtx.psel 0).toNat % 4096 == 0x60)) = true := by decide +kernel

/-! threadImages: no image is held; a thread that cannot be saved yet. -/
theorem witness_threadImages_9 :
    (let s := wordsAt (sup [(1, 0x410000)]) 0x410000 [0x51A7 + 9 * 2 ^ 32 + 20 * 2 ^ 48, 1024 * 2 ^ 32]; s.past.imageHeld 0x410000 == none && (sup [(1, 0x410000)]).past.imageHeld 0x410000 == none && twoThreads.past.imageHeld 0x430000 == none) = true := by decide +kernel
theorem witness_threadImages_10 :
    (let s := { twoThreads with accs := [acc (.thread 5) (.bank 0 0) 0xF00000000100 .load] }; let p := s.past; (match p.saveTarget 9 with | .ok (some u) => u == 5 && !p.savable 5 | _ => false) && p.ownIds == [] && s.clear (.tsave hd (x 4) (x 1) (x 2) mD)) = true := by decide +kernel

/-! cachesAndTranslations: an invalidation that goes on, for a context that is still there and one that is not, and one that waits. -/
theorem witness_cachesAndTranslations_6 :
    (let i := Instr.tlbinv hd (x 4) (x 1) (x 2) mD; let s := again i [1] [] (sup [(1, 0x400000)]); s.resumes i && s.th.kept != [] && good (s.past.nameCtx 0 0)) = true := by decide +kernel
theorem witness_cachesAndTranslations_7 :
    (let i := Instr.tlbinv hd (x 4) (x 1) (x 2) { mD with ti := 2 }; let s := again i [1] [] (sup [(1, 0x400000), (2, 77)]); s.resumes i && !good (s.past.nameCtx 77 (s.past.arg (x 2)))) = true := by decide +kernel
theorem witness_cachesAndTranslations_8 :
    (let s := { sup [(1, 0x400000)] with accs := [acc (.thread 1) (.bank 0 0) 0xF00000000100 .load] }; s.past.ownIds != [] && s.th.kept == [] && s.clear (.tlbinv hd (x 4) (x 1) (x 2) mD)) = true := by decide +kernel

/-! edgeLoads: a load that goes on after its park: what it waited for is there, is lost, is loose, or is still to come. -/
theorem witness_edgeLoads_10 :
    (let i := Instr.ldstep hd (x 8) (x 9) (x 10) { mC with edge := 0 }; let f := fun (loose : Bool) (pd : Word) (left : Bool) => again i [7, 0] [] (stepper [⟨2, 0, 0, loose, pd, 4, 1, 64, 0x800, left⟩]); ([f false 7 false, f false 6 true, f true 6 false, f false 6 false] : List State).all fun s => s.isMember 0 0 && s.past.fenced true false == [] && s.th.kept == [7, 0] && s.resumes i) = true := by decide +kernel

/-- What `ctxgrant` and `ctxrevoke` of context 5 share: a free turn, and the descriptor's item in the state after its reads. -/
def grantAt (s : State) (f : State → Item → Bool) : Bool :=
  let p := s.past
  s.th.kept == [] && s.works.isEmpty && (match p.targetCtx (s.reg (x 1)) 0 0 with
    | .ok n => n == 5
    | .error _ => false) && s.releaseIds 4 == [] && (p.ctx 5).line == [] && s.clear (.ctxgrant hd (x 4) (x 1) (x 2)) &&
    s.clear (.ctxrevoke hd (x 4) (x 1) (x 2)) && match dread (p.inTurn 5) 0x500000 16 64 with
    | some (y, bs) =>
      let q := onTh y fun t => { t with trace := [] }
      !q.resetting 5 && match itemOf (bs.take 64) with
        | some i => f q i
        | none => false
    | none => false

/-- A revocation up to its cascade. -/
def cascaded (q : State) (i : Item) : State × List Nat × List Nat := (q.markRevoke 5 i).cascade 0 i (q.deepest (q.subtree 5))

/-- Context 5 with tables and all of memory. -/
def housed (s : State) : State := s.onCtx 5 fun c => { c with ptroot := 0x10001, ranges := [⟨0, 2 ^ 40, 7⟩] }

/-! grantAndRevoke: a grant of cores whose descriptor is and is not written; a revocation whose thread cannot be saved yet, and one
that accesses hold up; the second halves. -/
theorem witness_grantAndRevoke_7 :
    (let s := housed (wordsAt (child (sup [(1, 5), (2, 0x500000)]) .stopped) 0x500000 [1, 8, 0, 0, 0, 0, 0x600000]); grantAt s fun q i => q.grantResult 0 5 i == 0 && (q.applyGrant 0 5 i).coresetIds [5] != []) = true := by decide +kernel
theorem witness_grantAndRevoke_8 :
    (let s := wordsAt (child (sup [(1, 5), (2, 0x500000)]) .stopped) 0x500000 [0, 32]; grantAt s fun q i => q.grantResult 0 5 i == 0 && (q.applyGrant 0 5 i).coresetIds [] == []) = true := by decide +kernel
theorem witness_grantAndRevoke_9 :
    (let s := (wordsAt (child (sup [(1, 5), (2, 0x500000)]) .running) 0x500000 [0, 32]).onCtx 5 fun c => { c with slotmask := 32 }; let s := { s with threads := s.threads ++ [(7, { Thread.new with asid := 5, slot := 5, place := .slot 0, outst := [⟨9, [], .done [], 1, [], [], []⟩] })], next := 8 }; grantAt s fun q i => q.revokeResult 5 i == 0 && (cascaded q i).2.1 != []) = true := by decide +kernel
theorem witness_grantAndRevoke_10 :
    (let s := (wordsAt (child (sup [(1, 5), (2, 0x500000)]) .running) 0x500000 [3, 0x600000, 0x10000, 7]).onCtx 5 fun c => { c with ranges := [⟨0x600000, 0x10000, 7⟩] }; let s := { s with accs := [{ acc .host (.slice 0) 0x600000 .load with asid := 5 }] }; grantAt s fun q i => q.revokeResult 5 i == 0 && (cascaded q i).2.1 == [] && ((cascaded q i).1.cutOff 0 5 i).revokedAccs 0 5 i != []) = true := by decide +kernel
theorem witness_grantAndRevoke_11 :
    (let s := (wordsAt (child (sup [(1, 5), (2, 0x500000)]) .stopped) 0x500000 [0, 32]).onCtx 5 fun c => { c with slotmask := 32 }; grantAt s fun q i => q.revokeResult 5 i == 0 && (let x := cascaded q i; x.2.1 == [] && (x.1.cutOff 0 5 i).revokedAccs 0 5 i ++ (x.1.cutOff 0 5 i).coresetIds [] == [])) = true := by decide +kernel
theorem witness_grantAndRevoke_12 :
    (let i := Instr.ctxgrant hd (x 4) (x 1) (x 2); let j := Instr.ctxrevoke hd (x 4) (x 1) (x 2); let s := child (sup [(1, 5)]) .stopped; (again i [4] [] s).resumes i && (let q := { again j [2] [] s with works := [⟨1, 0, 5, .slots 32 0, []⟩] }; q.resumes j && (q.works.find? fun w => w.uid == q.cur).isSome)) = true := by decide +kernel

/-- Context 5 in a state, and the issuer at an instruction on it that goes on in its turn. -/
def onGoing (i : Instr) (kept : List Word) (st : CtxState) : State :=
  again i kept [] ((child (sup [(1, 5)]) st).onCtx 5 fun c => { c with line := [1] })

/-- The turn is still the issuer's. -/
def keepsTurn (s : State) (i : Instr) (kept : List Word) : Bool :=
  let p := s.past
  s.resumes i && s.th.kept == kept && (match p.targetCtx (p.arg (x 1)) 0 1 with
    | .ok n => n == 5
    | .error _ => false) && ((p.ctx 5).line.filter fun u => u == p.cur || p.inLine u).head? == some p.cur

/-- A thread of context 5 that has a result outstanding. -/
def busyIn (s : State) (p : Park) : State :=
  { s with threads := s.threads ++ [(7, { Thread.new with asid := 5, slot := 3, place := .slot 0, park := p, outst := [⟨9, [], .done [], 1, [], [], []⟩] })], next := 8 }

/-! runStopFree: a stop that waits for a thread, and its second half. -/
theorem witness_runStopFree_6 :
    (let s := busyIn (child (sup [(1, 5)]) .running) .run; let q := s.past.inTurn 5; let m := q.markStopped 5; s.th.kept == [] && (q.ctx 5).state == .running && s.releaseIds 4 == [] && !(m.stopThreads 0 5).all m.savable && s.clear (.ctxstop hd (x 4) (x 1))) = true := by decide +kernel
theorem witness_runStopFree_7 :
    (let i := Instr.ctxstop hd (x 4) (x 1); let s := onGoing i [1] .stopped; let t := s.past.tidied 5; keepsTurn s i [1] && !t.resetting 5 && (t.stopThreads 0 5).all t.savable) = true := by decide +kernel

/-! contextService: a reset of a context that is being reset; what goes on after each part of a reset, in each way. -/
theorem witness_contextService_10 :
    (let s := child (sup [(1, 5)]) .resetting; s.th.kept == [] && (match s.past.targetCtx (s.reg (x 1)) 0 1 with | .ok n => n == 5 | _ => false) && s.past.resetting 5 && s.clear (.ctxreset hd (x 4) (x 1) (x 2))) = true := by decide +kernel
theorem witness_contextService_11 :
    (let i := Instr.ctxreset hd (x 4) (x 1) (x 2); let s := onGoing i [3] .resetting; let q := busyIn s (.trap (.of .align 0) true); keepsTurn s i [3] && !(s.past.tidied 5).trapsDrain 5 && keepsTurn q i [3] && (q.past.tidied 5).trapsDrain 5) = true := by decide +kernel
theorem witness_contextService_12 :
    (let i := Instr.ctxreset hd (x 4) (x 1) (x 2); let s := onGoing i [1] .resetting; let q := { s with accs := [{ acc .host (.slice 0) 0x600000 .load with asid := 5 }] }; keepsTurn s i [1] && !(s.past.tidied 5).resetOwes 5 && keepsTurn q i [1] && (q.past.tidied 5).resetOwes 5) = true := by decide +kernel
theorem witness_contextService_13 :
    (let i := Instr.ctxreset hd (x 4) (x 1) (x 2); let s := again i [2] [] (sup [(1, 5)]); let f := onGoing i [2] .stopped; let g := onGoing i [2] .resetting; s.resumes i && !good (s.past.targetCtx (s.past.arg (x 1)) 0 1) && keepsTurn f i [2] && !f.past.resetting 5 && keepsTurn g i [2] && g.past.resetting 5) = true := by decide +kernel

/-! bytecodeItems: each order of a heap store; `len` of a tensor and of a scalar. bytecodeOperators: `not` of a heap pointer, and
floats with each kind of divisor. unitEvents: a message of another membership and none. -/
theorem witness_bytecodeItems_17 :
    (let f := fun (b : Byte) => onTh (heap [] []) fun t => { t with trace := [.got [b] false] }; let z := fun (s : State) => s.setTh { s.th with trace := [] }; let s := heap [] []; good ((tRetain 0x44001 >>= fun _ => tAtom 0x46030 8 0x44001 0 .ordered) (z (f 0))) && good ((tAtom 0x46030 8 0x44001 0 .ordered >>= fun _ => tRetain 0x44001) (z (f 1))) && good (tSwap 0x46030 0x44001 (f 0)) && good (tSwap 0x46030 0x44001 (f 1)) && s.th.trace == [] && s.bursts.head? == some 0) = true := by decide +kernel
theorem witness_bytecodeItems_18 :
    (let f := fun (c : Nat) => (heapAt 0x4A000 [1, 0, c, 7] [(1, 0x4A001)]).advance 4; let l := tF 1 >>= fun v => tTouch 0 v >>= fun _ => tKind v >>= fun _ => tRead (v + 15) 8; valueOf ((tF 1 >>= tKind) (f 0x10)) == some (some 1) && valueOf (l (f 0x10)) == some 0x10 && valueOf (l (f 0)) == some 0 && valueOf ((l >>= fun _ => tF 1 >>= fun v => tRead (v + 23) 8) (f 0x10)) == some 7 && good ((l >>= fun _ => tF 1 >>= fun v => tRead (v + 23) 8 >>= fun x => tSetF 2 (x <<< 3)) (f 0x10))) = true := by decide +kernel
theorem witness_bytecodeOperators_3 :
    (let o := (heap [] [(1, 0x46001)]).advance 8; tagOf 0x46001 == 1 && valueOk 0x46001 && good ((tF 1 >>= fun v => tSite 0 >>= fun z => tTouch z v >>= fun _ => tSetF 2 0xB) o)) = true := by decide +kernel
theorem witness_bytecodeOperators_4 :
    (let d := fun (r : Word) => (inlineBinop 3 0x3F80000000000002 r).isSome; tagOf 2 == 2 && tagOf 0x4000000000000002 == 2 && !d 2 && !d 0x8000000000000002 && d 0x4000000000000002 && intFits 3 && decide (3 < 8)) = true := by decide +kernel
theorem witness_unitEvents_17 :
    (let f := fun (e d : Nat) (m : Beacon) => { stepper [⟨2, 0, 0, false, 6, 4, 1, 64, 0x800, false⟩] with beacons := [⟨4, 2, 0, 0, e, d, m⟩] }; let out := fun (s : State) => (s.beaconAt 4).any fun b => !s.hasEdge b; out (f 0 1 (.done 7)) && out (f 3 0 .leaving) && out (f 3 0 (.release 0x40)) && (f 0 0 .leaving).beaconAt 9 == none) = true := by decide +kernel

/-- SHAKE256 of the empty message, as FIPS 202 gives it: its first eight bytes. -/
theorem test_shake_empty : (digestOf []).take 8 = [0x46, 0xB9, 0xDD, 0x2B, 0x0B, 0xA8, 0x8D, 0x13] := by decide +kernel

/-- `pand` with COND 5 in bits 48:45 (R145): the field has no meaning there, and the word runs. -/
theorem test_decode_pand_cond : decodeNative 0x0104AC0820000000 = .ok (.pand hd ⟨5, 3⟩ 1 2) ∧ (Instr.pand hd ⟨5, 3⟩ 1 2).wf = true := by decide +kernel

/-! ### Objects in an arena

What an allocation writes first is free, so that the memory after it cannot be computed. The states below are those that memory accesses
to the scratchpad lead to: nothing but memory, counts and names differs, and the arena is not MARKING. -/

/-- A thread with its frame at 0x30000, a function object at 0x40000 with a constant that names it, and an arena at 0x49000, in the
scratchpad. -/
def arenaStart : State :=
  ([(0x40000, [4, 0, 0x20000, 0x41000, 0x42000, 3, 0x41001, 3]), (0x41000, [24, 0x40001]), (0x49000, [0x100000, 0x110000])]
    : List (Nat × List Nat)).foldl (fun s e => wordsAt s (scratch 0 e.1) e.2)
    (State.onCtx { State.reset with
      threads := [(1, regs placedNative [(28, 0x30000), (29, 0x40000)])], cur := 1, next := 2, bursts := [0] } 0
      fun c => { c with arena := 0x49000 })

/-- After the bytecode's word. -/
def arenaBase : State := arenaStart.advance 4

/-- `q` is `arenaBase` after accesses of the scratchpad that leave the arena's phase alone. -/
def After (q : State) : Prop :=
  ∃ m c n, q = { arenaBase with mem := m, counts := c, next := n } ∧ ∀ i, i < 8 → get 0 m (scratch 0 0x49020 + i) = 0

/-- An action succeeds after any such accesses, and is one itself. -/
def Goes {α : Type} (f : TM α) (P : α → Prop) : Prop := ∀ q, After q → ∃ a q', f q = .ok (a, q') ∧ After q' ∧ P a

theorem Goes.bind {α β : Type} {f : TM α} {g : α → TM β} {P : α → Prop} {Q : β → Prop} (hf : Goes f P)
    (hg : ∀ a, P a → Goes (g a) Q) : Goes (f >>= g) Q := by
  intro q hq
  obtain ⟨a, q1, h1, hq1, ha⟩ := hf q hq
  obtain ⟨b, q2, h2, hq2, hb⟩ := hg a ha q1 hq1
  exact ⟨b, q2, (bind_ok h1 g).trans h2, hq2, hb⟩

theorem Goes.pure {α : Type} {a : α} {P : α → Prop} (h : P a) : Goes (pure a) P := fun q hq => ⟨a, q, rfl, hq, h⟩

theorem goes_each {α : Type} {f : α → TM Unit} (l : List α) (h : ∀ a ∈ l, Goes (f a) fun _ => True) :
    Goes (tEach f l) fun _ => True := by
  induction l with
  | nil => exact .pure trivial
  | cons a r ih => exact (h a (by simp)).bind fun _ _ => ih fun b hb => h b (by simp [hb])

/-- What such a state holds besides memory. -/
theorem after_holds {q : State} (hq : After q) :
    q.part = arenaBase.part ∧ q.cur = 1 ∧ q.th = arenaBase.th ∧ q.who = ⟨0, 0, false⟩ ∧ q.ctxs = arenaBase.ctxs ∧
      q.cores = arenaBase.cores ∧ q.bursts = [0] ∧ q.poisoned = [] ∧ q.resv = [] ∧ q.resq = [] ∧ q.accs = [] ∧ q.behind = [] ∧
      q.badFrames = [] ∧ q.waiters = [] ∧ q.overflow = [] ∧ q.cmds = [] := by
  obtain ⟨m, c, i, rfl, -⟩ := hq
  exact ⟨rfl, rfl, rfl, rfl, rfl, rfl, rfl, rfl, rfl, rfl, rfl, rfl, rfl, rfl, rfl, rfl⟩

/-- A further access changes such a state so. -/
theorem after_with {q : State} (hq : After q) {m : List Host.Cell} (hm : ∀ i, i < 8 → get 0 m (scratch 0 0x49020 + i) = 0)
    (c : List Count) (n : Nat) : After { q with mem := m, counts := c, next := n } := by
  obtain ⟨m', c', n', rfl, -⟩ := hq
  exact ⟨m, c, n, rfl, hm⟩

theorem after_phase {q : State} (hq : After q) (i : Nat) (h : i < 8) : get 0 q.mem (scratch 0 0x49020 + i) = 0 := by
  obtain ⟨m, c, n, rfl, hm⟩ := hq
  exact hm i h

theorem banks_owned : ∀ b < 16, bit (arenaBase.ctx 0).bankmask b = true := by decide +kernel

theorem scratch_kind {q : State} (hq : After q) {v : Nat} (h : v < 0x200000) : q.kindOf (scratch 0 v) = some .scratch := by
  have h1 : Config.hbmBytes arenaBase.part ≤ 0xF00000000000 := by decide +kernel
  have h2 : 1 ≤ Config.cores arenaBase.part := by decide +kernel
  obtain ⟨e, -⟩ := after_holds hq
  rw [← e] at h1 h2
  unfold State.kindOf scratch scratchBase
  dsimp only
  rw [if_neg (by omega), if_neg (by omega), if_neg (by omega), if_neg (by omega), if_pos (by omega)]

theorem scratch_home {q : State} (hq : After q) {v : Nat} (h : v < 0x200000) :
    q.homeOf (scratch 0 v) 0 = .bank 0 (v / 0x20000) := by
  unfold State.homeOf
  rw [scratch_kind hq h]
  simp only [scratch, Home.bank.injEq]
  omega

/-- What the translation of a scratchpad address is. -/
abbrev trOf (va : Word) : Tr := ⟨scratch 0 va.toNat, scratch 0 va.toNat, 0x200000, 0, false, []⟩

theorem local_check {q : State} (hq : After q) {va : Word} {n k : Nat} (ha : va.toNat % n = 0) (hv : va.toNat < 0x200000) :
    q.check q.who va n k = .ok (trOf va) := by
  have hc : canonical va = true := by
    unfold canonical
    simp only [sext, beq_iff_eq]
    rw [Nat.mod_eq_of_lt (by omega), if_pos (by omega), Int.emod_eq_of_lt (by omega) (by omega), BitVec.ofInt_natCast]
    simp
  obtain ⟨-, -, -, hw, hx, -⟩ := after_holds hq
  have ho : q.ownsBank 0 (va.toNat / 0x20000) = true := by
    unfold State.ownsBank State.ctx
    rw [hx]
    exact banks_owned _ (by omega)
  simp only [State.check, hc, ha, hw, State.translate, local?, ho, hv]
  simp

/-- An aligned access of the scratchpad is reached. -/
theorem local_reach {q : State} (hq : After q) {va : Word} {n k : Nat} {op : AccOp} (ha : va.toNat % n = 0) (hv : va.toNat < 0x200000) :
    q.reach va n k op = .ok (trOf va) := by
  have hb : q.csrBad (scratch 0 va.toNat) n (!op.isResv) = false := by simp [State.csrBad, scratch_kind hq hv]
  have hf : q.csrFault (scratch 0 va.toNat) op.stored va = none := by simp [State.csrFault, scratch_kind hq hv]
  simp only [State.reach, local_check hq ha hv, hb, hf, Bool.false_eq_true, if_false, ite_self]

/-- An access of the scratchpad names this: `i` is its number. -/
def localAcc (q : State) (va : Word) (n : Nat) (op : AccOp) : Acc :=
  q.newAcc (.thread q.cur) q.th.asid 0 0 (.bank 0 (va.toNat / 0x20000)) va (scratch 0 va.toNat) n op

/-- It is made at once. -/
theorem local_make {q : State} (hq : After q) {va : Word} {n k : Nat} {op : AccOp} {m : Manner} (hv : va.toNat < 0x200000) :
    q.make va (trOf va) n k op m = (q.bump.perform (localAcc q va n op), some (match op with
      | .store _ => ([], false)
      | _ => (q.bytes (scratch 0 va.toNat) n, false))) := by
  have hh := scratch_home hq hv
  obtain ⟨-, -, -, hw, -, -, hbu, hp, hr, hs, ha, hb, -, hwt, hov, hc⟩ := after_holds hq
  have hrem : q.remember q.who va k (trOf va) = q := by
    unfold State.remember
    rw [if_pos]
    rw [hw]
    simpa [local?] using Or.inl hv
  have hwait : q.mustWait (.bank 0 (va.toNat / 0x20000)) (scratch 0 va.toNat) n = none := by
    simp [State.mustWait, State.reserved, hr, State.readAfter, State.pending, State.queuedAhead, ha, hwt, hs, hov]
  have hused : q.bankUsed (.bank 0 (va.toNat / 0x20000)) (scratch 0 va.toNat) = 0 := by
    simp [State.bankUsed, State.bankQueue, State.bankHeld, hr, hs]
  have hrel : q.releaseIds 4 = [] := by
    simp [State.releaseIds, State.earlierIds, State.pending, State.gathered, ha, hwt, hs, hov, hc]
  have once : (q.remember q.who va k (trOf va)).atOnce (q.homeOf (trOf va).pa (trOf va).attr) (trOf va).pa n op (m == .ordered) =
      true := by
    rw [hrem]
    show q.atOnce (q.homeOf (scratch 0 va.toNat) 0) _ _ _ _ = true
    rw [hh]
    simp [State.atOnce, hwait, hused, hrel]
  rw [make_once (by rw [hbu]; rfl) once, hrem]
  have hre : ∀ h pa n, q.bump.rehome h pa n = q.bump := fun h pa n => by
    unfold State.rehome
    rw [if_pos]
    show q.behind.isEmpty = true
    rw [hb]; rfl
  have hpo : q.bump.isPoisoned (scratch 0 va.toNat) n = false := by
    show q.poisoned.any _ = false
    rw [hp]; rfl
  show (State.perform (q.bump.rehome _ _ _) (q.newAcc _ _ _ _ (q.homeOf (scratch 0 va.toNat) 0) _ _ _ _), _) = _
  rw [hh]
  have hl : q.bump.loadBytes (q.newAcc (.thread q.cur) q.th.asid 0 0 (.bank 0 (va.toNat / 0x20000)) va (scratch 0 va.toNat) n op) =
      q.bytes (scratch 0 va.toNat) n := bytes_congr _ _ fun _ _ _ => rfl
  simp only [hre, hpo, hl]
  rfl

/-- Nothing holds it back. -/
theorem after_reach {q : State} (hq : After q) (va : Word) (k : Nat) (op : AccOp) : q.beforeReach va k op = [] := by
  obtain ⟨-, -, ht, -, -, -, -, -, hv, hs, ha, -, -, hw, ho, -⟩ := after_holds hq
  exact beforeReach_nil va k op (by rw [ht]; decide +kernel) (by simp [State.pending, ha, hs, hw, ho]) hv

/-- What an access does first: it is counted. -/
theorem perform_counts {q : State} (hq : After q) {va : Word} {n : Nat} {op : AccOp} :
    ∃ c i, (q.bump.countAccess (localAcc q va n op)).rehome (localAcc q va n op).home (localAcc q va n op).pa (localAcc q va n op).size =
      { q with counts := c, next := i } := by
  obtain ⟨-, -, -, -, -, -, -, -, -, -, -, hb, -⟩ := after_holds hq
  refine ⟨_, _, (?_ : _ = State.countAccess q.bump (localAcc q va n op)).trans rfl⟩
  unfold State.rehome
  rw [if_pos]
  show q.behind.isEmpty = true
  rw [hb]; rfl

/-- What a store of bytes does to such a state. -/
theorem local_store {q : State} (hq : After q) {va : Word} (h : va.toNat < 0x200000) (src : Word) (bs : List Byte) :
    q.storeAt (.bank 0 (va.toNat / 0x20000)) src (scratch 0 va.toNat) bs =
      { q with mem := setBytes q.mem (scratch 0 va.toNat) bs } := by
  obtain ⟨he, -, -, -, hx, hk, -, hp, hr, hs, ha, hb, hf, hw, -⟩ := after_holds hq
  have hbig : Config.hbmBytes q.part ≤ scratch 0 va.toNat := by
    have : Config.hbmBytes arenaBase.part ≤ 0xF00000000000 := by decide +kernel
    rw [he]
    exact Nat.le_trans this (by unfold scratch scratchBase; omega)
  have hsal : bit (q.core 0).salcfg 0 = false := by
    have : bit (arenaBase.core 0).salcfg 0 = false := by decide +kernel
    unfold State.core at this ⊢
    rw [hk]; exact this
  have hblk : (q.ctxs.filter fun e => e.2.block.contains (scratch 0 va.toNat / 0x10000)) = [] := by
    rw [hx]
    have : arenaBase.ctxs.all (fun e => e.2.block == []) = true := by decide +kernel
    rw [List.filter_eq_nil_iff]
    intro e hm
    have := List.all_eq_true.1 this e hm
    simp only [beq_iff_eq] at this
    simp [this]
  have hst : q.storeBytes (scratch 0 va.toNat) bs = { q with mem := setBytes q.mem (scratch 0 va.toNat) bs } := by
    unfold State.storeBytes State.dirty
    rw [if_pos hbig, hp, List.filter_nil, ← hp]
  generalize hy : ({ q with mem := setBytes q.mem (scratch 0 va.toNat) bs } : State) = x at *
  have x1 : x.behind = [] := by rw [← hy]; exact hb
  have x2 : x.badFrames = [] := by rw [← hy]; exact hf
  have x3 : x.waiters = [] := by rw [← hy]; exact hw
  have x4 : bit (x.core 0).salcfg 0 = false := by rw [← hy]; exact hsal
  have x5 : x.ctxs = q.ctxs := by rw [← hy]
  unfold State.storeAt State.writeAt
  have r1 : q.rehome (.bank 0 (va.toNat / 0x20000)) (scratch 0 va.toNat) bs.length = q := by
    unfold State.rehome; rw [if_pos (by rw [hb]; rfl)]
  have r2 : q.written (scratch 0 va.toNat) bs = bs := by unfold State.written; rw [if_neg (by simp [hf])]
  have r3 : x.claim (.bank 0 (va.toNat / 0x20000)) (scratch 0 va.toNat) bs.length = x := by
    unfold State.claim; rw [if_pos (by rw [x1]; rfl)]
  have r4 : x.sal (.bank 0 (va.toNat / 0x20000)) src (scratch 0 va.toNat) bs.length = x := by
    simp [State.sal, portOf, x4]
  have r5 : x.retire (scratch 0 va.toNat) = x := by simp [State.retire, x2]
  have r6 : x.disturbed (scratch 0 va.toNat) = x := by
    unfold State.disturbed State.blockOf
    rw [x5, hblk]; rfl
  have r7 : x.serveRange (scratch 0 va.toNat) bs.length = x := by
    unfold State.serveRange; rw [if_pos (by rw [x3]; rfl)]
  rw [r1, r2, hst, r3, r4, r5, r6, r7]

theorem deliver_none (s : State) (u : Nat) (a : Acc) (ho : a.owner = .thread u) (hz : a.out = 0) (bs : List Byte) (bad : Bool) :
    s.deliver a bs bad = s := by
  unfold State.deliver
  rw [ho]
  simp [hz]

/-- A load, a store of bytes and an atomic operation of the scratchpad, made at once. -/
theorem load_made {q : State} (hq : After q) {va : Word} {n k : Nat} {m : Manner} (ha : va.toNat % n = 0) (hv : va.toNat < 0x200000) :
    ∃ c i, tAccess va n k .load m q = .ok (q.bytes (scratch 0 va.toNat) n, { q with counts := c, next := i }) := by
  obtain ⟨c, i, h⟩ := perform_counts hq (va := va) (n := n) (op := .load)
  obtain ⟨-, -, ht, -, -, -, hb, -⟩ := after_holds hq
  refine ⟨c, i, tAccess_made (by rw [ht]; decide +kernel) (by rw [hb]; rfl) (after_reach hq _ _ _) (local_reach hq ha hv) ?_⟩
  rw [local_make hq hv]
  have : q.bump.perform (localAcc q va n .load) = { q with counts := c, next := i } := by
    unfold State.perform
    simp only [h]
    exact deliver_none _ _ _ rfl rfl _ _
  rw [this]

theorem store_made {q : State} (hq : After q) {va : Word} {n k : Nat} {m : Manner} (bs : List Byte) (ha : va.toNat % n = 0) (hv : va.toNat < 0x200000) :
    ∃ c i, tAccess va n k (.store bs) m q =
      .ok ([], { q with mem := setBytes q.mem (scratch 0 va.toNat) bs, counts := c, next := i }) := by
  obtain ⟨c, i, h⟩ := perform_counts hq (va := va) (n := n) (op := .store bs)
  obtain ⟨-, -, ht, -, -, -, hb, -⟩ := after_holds hq
  refine ⟨c, i, tAccess_made (by rw [ht]; decide +kernel) (by rw [hb]; rfl) (after_reach hq _ _ _) (local_reach hq ha hv) ?_⟩
  rw [local_make hq hv]
  have : q.bump.perform (localAcc q va n (.store bs)) = { q with mem := setBytes q.mem (scratch 0 va.toNat) bs, counts := c, next := i } := by
    unfold State.perform
    simp only [h]
    show State.deliver (State.storeAt _ _ _ _ _) _ _ _ = _
    rw [deliver_none _ 1 _ (by obtain ⟨-, hc, -⟩ := after_holds hq; show Owner.thread q.cur = _; rw [hc]) rfl]
    exact local_store (after_with hq (after_phase hq) c i) hv _ bs
  rw [this]

theorem atom_made {q : State} (hq : After q) {va : Word} {k : Nat} {m : Manner} (op : Nat) (b d : Word) (ha : va.toNat % 8 = 0)
    (hv : va.toNat < 0x200000) :
    ∃ c i, tAccess va 8 k (.atom op b d) m q = .ok (q.bytes (scratch 0 va.toNat) 8,
      { q with mem := setBytes q.mem (scratch 0 va.toNat) (toBytes 8 (atomNew op (q.readWord (scratch 0 va.toNat)) b d).toNat),
               counts := c, next := i }) := by
  obtain ⟨c, i, h⟩ := perform_counts hq (va := va) (n := 8) (op := .atom op b d)
  obtain ⟨-, hc, ht, -, -, -, hb, -, hr, hs, -⟩ := after_holds hq
  refine ⟨c, i, tAccess_made (by rw [ht]; decide +kernel) (by rw [hb]; rfl) (after_reach hq _ _ _) (local_reach hq ha hv) ?_⟩
  rw [local_make hq hv]
  have : q.bump.perform (localAcc q va 8 (.atom op b d)) =
      { q with mem := setBytes q.mem (scratch 0 va.toNat) (toBytes 8 (atomNew op (q.readWord (scratch 0 va.toNat)) b d).toNat),
               counts := c, next := i } := by
    unfold State.perform
    simp only [h]
    show State.enqueueResv _ _ = _
    unfold State.enqueueResv
    rw [if_pos (by simp [State.bankUsed, State.bankQueue, State.bankHeld, hr, hs])]
    show State.doAtom _ _ _ _ _ = _
    unfold State.doAtom
    rw [deliver_none _ 1 _ (by show Owner.thread q.cur = _; rw [hc]) rfl]
    exact local_store (after_with hq (after_phase hq) c i) hv _ _
  rw [this]

/-- A store beside the arena's phase leaves it. -/
theorem phase_kept {q : State} (hq : After q) {va : Word} {bs : List Byte}
    (hd : va.toNat + bs.length ≤ 0x49020 ∨ 0x49028 ≤ va.toNat) (i : Nat) (h : i < 8) :
    get 0 (setBytes q.mem (scratch 0 va.toNat) bs) (scratch 0 0x49020 + i) = 0 := by
  rw [show (0 : Byte) = Memory.unlisted from rfl, get_setBytes_out]
  · exact after_phase hq i h
  · unfold scratch; omega

theorem goes_read {va : Word} {n : Nat} (ha : va.toNat % n = 0) (hv : va.toNat < 0x200000) : Goes (tRead va n) fun _ => True := by
  intro q hq
  obtain ⟨c, i, h⟩ := load_made (k := kRead) hq ha hv
  exact ⟨_, _, bind_ok h _, after_with hq (after_phase hq) c i, trivial⟩

theorem goes_write {va : Word} {n : Nat} {m : Manner} (v : Word) (ha : va.toNat % n = 0) (hv : va.toNat < 0x200000)
    (hd : va.toNat + n ≤ 0x49020 ∨ 0x49028 ≤ va.toNat) : Goes (tWrite va n v m) fun _ => True := by
  intro q hq
  obtain ⟨c, i, h⟩ := store_made (k := kWrite) hq (toBytes n v.toNat) ha hv
  exact ⟨(), _, bind_ok h _, after_with hq (phase_kept hq (by rw [toBytes_length]; exact hd)) c i, trivial⟩

theorem goes_x {n : Nat} : Goes (tX n) fun v => v = arenaBase.xr n := by
  intro q hq
  refine ⟨q.xr n, q, ?_, hq, ?_⟩
  · obtain ⟨m, c, i, rfl, -⟩ := hq; rfl
  · obtain ⟨m, c, i, rfl, -⟩ := hq; rfl

theorem arena_after {q : State} (hq : After q) : tArena q = .ok (0x49000, q) := by
  obtain ⟨-, -, ht, hw, hx, -, hb, -⟩ := after_holds hq
  rw [tArena_once (by rw [ht]; decide +kernel) (by rw [hb]; rfl)]
  have : arenaBase.myCtx.arena &&& ~~~0x3F = 0x49000 := by decide +kernel
  obtain ⟨m, c, i, rfl, -⟩ := hq
  exact congrArg (fun w => Except.ok (w, _)) this

/-- A frame register is written. -/
theorem goes_setF {n : Nat} (v : Word) (h : n < 64) : Goes (tSetF n v) fun _ => True := by
  unfold tSetF tFrameAt
  refine (goes_x.bind fun a ha => Goes.pure (P := fun v => v = arenaBase.xr 28 + word (8 * n)) (by rw [ha])).bind fun a ha => ?_
  have hx : arenaBase.xr 28 = 0x30000 := by decide +kernel
  have : a.toNat = 0x30000 + 8 * n := by
    rw [ha, hx]
    simp only [word, BitVec.toNat_add, BitVec.toNat_ofNat, show (0x30000 : Word).toNat = 0x30000 from rfl]
    omega
  exact goes_write v (by omega) (by omega) (by omega)

/-- A word of the scratchpad is read. -/
theorem read_word {va : Word} (ha : va.toNat % 8 = 0) (hv : va.toNat < 0x200000) {q : State} (hq : After q) :
    ∃ q', tRead va 8 q = .ok (q.readWord (scratch 0 va.toNat), q') ∧ After q' ∧ q'.mem = q.mem := by
  obtain ⟨c, i, h⟩ := load_made (k := kRead) hq ha hv
  exact ⟨_, bind_ok h _, after_with hq (after_phase hq) c i, rfl⟩

/-- An atomic operation beside the arena's phase. -/
theorem atom_word {va : Word} {m : Manner} {q : State} (hq : After q) (op : Nat) (b d : Word) (ha : va.toNat % 8 = 0) (hv : va.toNat < 0x200000)
    (hd : va.toNat + 8 ≤ 0x49020 ∨ 0x49028 ≤ va.toNat) :
    ∃ q', tAtom va op b d m q = .ok (q.readWord (scratch 0 va.toNat), q') ∧ After q' := by
  obtain ⟨c, i, h⟩ := atom_made (k := kWrite) hq op b d ha hv
  exact ⟨_, bind_ok h _, after_with hq (phase_kept hq (by rw [toBytes_length]; exact hd)) c i⟩

/-- The arena is not MARKING. -/
theorem goes_marking : Goes tMarking fun b => b = false := by
  intro q hq
  obtain ⟨q1, h1, hq1, -⟩ := read_word (va := 0x49020) (by decide) (by decide) hq
  refine ⟨false, q1, ?_, hq1, rfl⟩
  have hz : q.readWord (scratch 0 0x49020) = 0 := by
    have e : q.bytes (scratch 0 0x49020) 8 = [0, 0, 0, 0, 0, 0, 0, 0] := by
      apply List.ext_getElem (by rw [bytes_length]; rfl)
      intro i h1 h2
      rw [bytes_getElem]
      have : i < 8 := by simpa using h2
      refine (after_phase hq i this).trans ?_
      interval_cases i <;> rfl
    unfold State.readWord State.readNat
    rw [e]; rfl
  rw [show (0x49020 : Word).toNat = 0x49020 from rfl, hz] at h1
  unfold tMarking
  refine (bind_ok (arena_after hq) _).trans ?_
  rw [if_neg (by decide)]
  exact bind_ok h1 _

theorem goes_gc : Goes tGc fun _ => True := by
  unfold tGc
  exact goes_marking.bind fun b hb => .pure trivial

theorem goes_card (o : Word) : Goes (tCard o) fun _ => True := by
  unfold tCard
  refine goes_marking.bind fun b hb => ?_
  subst hb
  exact .pure trivial

/-- A first store of a value that is no heap value. -/
theorem goes_firstStore {slot : Word} (obj v : Word) (hv : tagOf v ≠ 1) (ha : slot.toNat % 8 = 0) (hs : slot.toNat < 0x200000)
    (hd : 0x49028 ≤ slot.toNat) : Goes (tFirstStore slot obj v) fun _ => True := by
  have hr : Goes (tRetain v) fun _ => True := by
    unfold tRetain
    rw [if_neg hv]
    exact .pure trivial
  have hf : Goes tSlotFirst fun b => b = false := fun q hq => by
    obtain ⟨-, -, ht, -, -, -, hb, -⟩ := after_holds hq
    exact ⟨false, q, tSlotFirst_once (by rw [ht]; decide +kernel) (by rw [hb]; rfl), hq, rfl⟩
  have ha : Goes (tAtom slot 8 v 0 .ordered) fun _ => True := fun q hq => by
    obtain ⟨t, e, h⟩ := atom_word hq 8 v 0 ha hs (by omega)
    exact ⟨_, t, e, h, trivial⟩
  have hw : Goes (tSwap slot v) fun _ => True := by
    unfold tSwap
    refine hf.bind fun b hb => ?_
    subst hb
    exact hr.bind fun _ _ => ha
  unfold tFirstStore
  exact hw.bind fun _ _ => goes_card obj

theorem readWord_congr {s t : State} (h : t.mem = s.mem) (a : Nat) : t.readWord a = s.readWord a := by
  unfold State.readWord State.readNat
  rw [bytes_congr (s := s) (t := t) a 8 fun x _ _ => by unfold State.byte; rw [h]]

theorem goes_fill (k : Nat) (h : k ≤ 0x1000) : Goes (tFill 0x100000 k) fun _ => True := by
  induction k with
  | zero => exact .pure trivial
  | succ k ih =>
    unfold tFill
    refine (ih (by omega)).bind fun _ _ q hq => ?_
    have : ((0x100000 : Word) + word (8 * k)).toNat = 0x100000 + 8 * k := by
      simp only [word, BitVec.toNat_add, BitVec.toNat_ofNat, show (0x100000 : Word).toNat = 0x100000 from rfl]
      omega
    exact goes_write _ (by omega) (by omega) (by omega) q hq

/-- An allocation of some words from the arena at its start. -/
theorem goes_alloc {q : State} (hq : After q) (h1 : q.readWord (scratch 0 0x49000) = 0x100000)
    (h2 : q.readWord (scratch 0 0x49008) = 0x110000) (n : Nat) (hn : n ≤ 0x1000) :
    ∃ q', tAlloc n 0 q = .ok (0x100000, q') ∧ After q' := by
  obtain ⟨q1, r1, a1, m1⟩ := read_word (va := 0x49008) (by decide) (by decide) hq
  rw [show (0x49008 : Word).toNat = 0x49008 from rfl, h2] at r1
  have e1 : q1.readWord (scratch 0 0x49000) = 0x100000 := by rw [readWord_congr m1, h1]
  obtain ⟨q2, r2, a2⟩ := atom_word (va := 0x49000) a1 18 (word (up64 n)) 0x110000 (by decide) (by decide) (by decide)
  rw [show (0x49000 : Word).toNat = 0x49000 from rfl, e1] at r2
  have hu : up64 n ≤ 0x1000 := by unfold up64; omega
  obtain ⟨w, q3, r3, a3, -⟩ := goes_fill (up64 n / 8) (by omega) q2 a2
  refine ⟨q3, ?_, a3⟩
  unfold tAlloc
  refine (bind_ok (arena_after hq) _).trans ?_
  rw [if_neg (by decide)]
  refine (bind_ok r1 _).trans ?_
  refine (bind_ok r2 _).trans ?_
  rw [if_neg (by
    rw [show (0x110000 : Word).toNat = 0x110000 from rfl, show (0x100000 : Word).toNat = 0x100000 from rfl]; omega)]
  exact (bind_ok r3 _).trans rfl

/-- What follows an allocation at 0x100000 succeeds. -/
theorem alloc_then {q : State} (hq : After q) (h1 : q.readWord (scratch 0 0x49000) = 0x100000)
    (h2 : q.readWord (scratch 0 0x49008) = 0x110000) {n : Nat} (hn : n ≤ 0x1000) {f : Word → TM Unit}
    (hf : Goes (f 0x100000) fun _ => True) : ∃ t, (tAlloc n 0 >>= f) q = .ok ((), t) := by
  obtain ⟨q1, e1, a1⟩ := goes_alloc hq h1 h2 n hn
  obtain ⟨u, t, e2, -, -⟩ := hf q1 a1
  exact ⟨t, (bind_ok e1 f).trans e2⟩

theorem base_after : After arenaBase :=
  ⟨arenaBase.mem, arenaBase.counts, arenaBase.next, rfl, by decide +kernel⟩

/-- bytecodeObjects: an array of one element, whose frame register holds 0. -/
theorem witness_bytecodeObjects_1 : arenaStart.bcClear = true ∧
    ∃ q, tAll (fun i => tF (1 + i)) (List.range 1) arenaBase = .ok ([0], q) ∧
      ∃ t, (tAlloc (48 + 8 * 1) 0 >>= fun o => tWrite o 4 2 >>= fun _ => tGc >>= fun g => tWrite (o + 8) 8 g >>= fun _ =>
        tWrite (o + 16) 8 1 >>= fun _ => tWrite (o + 24) 8 1 >>= fun _ => tWrite (o + 32) 8 (o + 48) >>= fun _ =>
        tEach (fun i => tFirstStore (o + word (48 + 8 * i)) o ([0].getD i 0)) (List.range 1) >>= fun _ =>
        tSetF 3 (o + 1)) q = .ok ((), t) := by
  refine ⟨by decide +kernel, ?_⟩
  obtain ⟨q, e, hq, hm⟩ := read_word (va := 0x30008) (by decide) (by decide) base_after
  have hw : arenaBase.readWord (scratch 0 (0x30008 : Word).toNat) = 0 := by decide +kernel
  rw [hw] at e
  have hx : tFrameAt 1 arenaBase = .ok (0x30008, arenaBase) := by
    have : arenaBase.xr 28 = 0x30000 := by decide +kernel
    show Except.ok (arenaBase.xr 28 + word 8, arenaBase) = _
    rw [this]; rfl
  have hf : tF 1 arenaBase = .ok (0, q) := (bind_ok hx _).trans e
  have r1 : arenaBase.readWord (scratch 0 0x49000) = 0x100000 := by decide +kernel
  have r2 : arenaBase.readWord (scratch 0 0x49008) = 0x110000 := by decide +kernel
  refine ⟨q, ?_, alloc_then hq ((readWord_congr hm _).trans r1) ((readWord_congr hm _).trans r2) (by decide) ?_⟩
  · show tAll (fun i => tF (1 + i)) [0] arenaBase = _
    exact (bind_ok hf _).trans rfl
  · refine (goes_write _ (by decide) (by decide) (by decide)).bind fun _ _ => goes_gc.bind fun _ _ => ?_
    refine (goes_write _ (by decide) (by decide) (by decide)).bind fun _ _ => ?_
    refine (goes_write _ (by decide) (by decide) (by decide)).bind fun _ _ => ?_
    refine (goes_write _ (by decide) (by decide) (by decide)).bind fun _ _ => ?_
    refine (goes_write _ (by decide) (by decide) (by decide)).bind fun _ _ => ?_
    refine (goes_each _ fun i hi => ?_).bind fun _ _ => goes_setF _ (by decide)
    simp only [List.mem_range] at hi
    interval_cases i
    exact goes_firstStore _ _ (by decide) (by decide) (by decide) (by decide)

/-- bytecodeObjects: a map of one entry. -/
theorem witness_bytecodeObjects_2 :
    ∃ t, (tAlloc (64 + 16 * 2 ^ 0) 0 >>= fun o => tWrite o 4 3 >>= fun _ => tGc >>= fun g => tWrite (o + 8) 8 g >>= fun _ =>
      tWrite (o + 16) 8 0 >>= fun _ => tWrite (o + 24) 8 1 >>= fun _ => tWrite (o + 32) 8 (o + 64) >>= fun _ =>
      tEach (fun i => tFirstStore (o + word (64 + 8 * i)) o 3) (List.range 2) >>= fun _ =>
      tSetF 3 (o + 1)) arenaBase = .ok ((), t) := by
  refine alloc_then base_after (by decide +kernel) (by decide +kernel) (by decide) ?_
  refine (goes_write _ (by decide) (by decide) (by decide)).bind fun _ _ => goes_gc.bind fun _ _ => ?_
  refine (goes_write _ (by decide) (by decide) (by decide)).bind fun _ _ => ?_
  refine (goes_write _ (by decide) (by decide) (by decide)).bind fun _ _ => ?_
  refine (goes_write _ (by decide) (by decide) (by decide)).bind fun _ _ => ?_
  refine (goes_write _ (by decide) (by decide) (by decide)).bind fun _ _ => ?_
  refine (goes_each _ fun i hi => ?_).bind fun _ _ => goes_setF _ (by decide)
  simp only [List.mem_range] at hi
  interval_cases i
  all_goals exact goes_firstStore _ _ (by decide) (by decide) (by decide) (by decide)

/-- An action only reads, with what the memory of `arenaBase` gives. -/
def Reads {α : Type} (f : TM α) (v : α) : Prop :=
  ∀ q, After q → q.mem = arenaBase.mem → ∃ q', f q = .ok (v, q') ∧ After q' ∧ q'.mem = arenaBase.mem

theorem Reads.bind {α β : Type} {f : TM α} {g : α → TM β} {v : α} {w : β} (hf : Reads f v) (hg : Reads (g v) w) :
    Reads (f >>= g) w := by
  intro q hq hm
  obtain ⟨q1, e1, a1, m1⟩ := hf q hq hm
  obtain ⟨q2, e2, a2, m2⟩ := hg q1 a1 m1
  exact ⟨q2, (bind_ok e1 g).trans e2, a2, m2⟩

theorem Reads.pure {α : Type} {v : α} : Reads (pure v) v := fun q hq hm => ⟨q, rfl, hq, hm⟩

theorem reads_word {va v : Word} (ha : va.toNat % 8 = 0) (hv : va.toNat < 0x200000)
    (h : arenaBase.readWord (scratch 0 va.toNat) = v) : Reads (tRead va 8) v := by
  intro q hq hm
  obtain ⟨q', e, a, m⟩ := read_word ha hv hq
  have : q.readWord (scratch 0 va.toNat) = v := by
    rw [← h, readWord_congr hm]
  exact ⟨q', by rw [e, this], a, m.trans hm⟩

theorem reads_x {n : Nat} {v : Word} (h : arenaBase.xr n = v) : Reads (tX n) v := by
  intro q hq hm
  obtain ⟨a, q1, e, a1, rfl⟩ := goes_x (n := n) q hq
  have : q1 = q := by
    obtain ⟨m, c, i, rfl, -⟩ := hq
    exact (Prod.mk.inj (Except.ok.inj e)).2.symm
  subst this
  exact ⟨q1, by rw [e, h], hq, hm⟩

theorem reads_all {α β : Type} {f : α → TM β} {g : α → β} (l : List α) (h : ∀ a ∈ l, Reads (f a) (g a)) :
    Reads (tAll f l) (l.map g) := by
  induction l with
  | nil => exact .pure
  | cons a r ih => exact (h a (by simp)).bind ((ih fun b hb => h b (by simp [hb])).bind .pure)

/-- bytecodeObjects: a copy of the function object that the second constant names. -/
theorem witness_bytecodeObjects_3 :
    ∃ q3, (tK 1 >>= fun f => tF 1 >>= fun _ => tKind f >>= fun _ =>
        tAll (fun i => tRead (f - 1 + word (8 * i)) 8) (List.range 7)) arenaBase =
        .ok ([4, 0, 0x20000, 0x41000, 0x42000, 3, 0x41001], q3) ∧
      ∃ t, (tAlloc 64 0 >>= fun o =>
        tEach (fun i => tWrite (o + word (8 * i)) 8 ([4, 0, 0x20000, 0x41000, 0x42000, 3, 0x41001].getD i 0)) (List.range 7) >>=
        fun _ => tFirstStore (o + 56) o 0 >>= fun _ => tSetF 3 (o + 1)) q3 = .ok ((), t) := by
  have hk : Reads (tK 1) 0x40001 :=
    ((reads_x (v := 0x40000) (by decide +kernel)).bind (reads_word (va := 0x40000 + word 24) (v := 0x41000) (by decide) (by decide)
      (by decide +kernel))).bind (reads_word (va := 0x41000 + word (8 * 1)) (by decide) (by decide) (by decide +kernel))
  have hf : Reads (tF 1) 0 :=
    ((reads_x (v := 0x30000) (by decide +kernel)).bind (.pure (v := 0x30000 + word (8 * 1)))).bind (reads_word (va := 0x30000 + word (8 * 1)) (by decide) (by decide)
      (by decide +kernel))
  have hd : Reads (tKind 0x40001) (some 4) :=
    Reads.bind (v := ()) .pure ((reads_word (va := 0x40001 - 1) (v := 4) (by decide) (by decide) (by decide +kernel)).bind .pure)
  have hl : Reads (tAll (fun i => tRead ((0x40001 : Word) - 1 + word (8 * i)) 8) (List.range 7))
      ((List.range 7).map fun i => arenaBase.readWord (scratch 0 (0x40000 + 8 * i))) := by
    refine reads_all _ fun i hi => ?_
    simp only [List.mem_range] at hi
    interval_cases i
    all_goals exact reads_word (by decide) (by decide) (by decide +kernel)
  have hall : Reads (tK 1 >>= fun f => tF 1 >>= fun _ => tKind f >>= fun _ =>
      tAll (fun i => tRead (f - 1 + word (8 * i)) 8) (List.range 7))
      ((List.range 7).map fun i => arenaBase.readWord (scratch 0 (0x40000 + 8 * i))) := by
    refine Reads.bind hk ?_
    refine Reads.bind hf ?_
    exact Reads.bind hd hl
  obtain ⟨q3, e, a3, m3⟩ := hall arenaBase base_after rfl
  have hv : (List.range 7).map (fun i => arenaBase.readWord (scratch 0 (0x40000 + 8 * i))) =
      [4, 0, 0x20000, 0x41000, 0x42000, 3, 0x41001] := by decide +kernel
  have hr := readWord_congr m3
  refine ⟨q3, hv ▸ e, alloc_then a3 (by rw [hr]; decide +kernel) (by rw [hr]; decide +kernel) (by decide) ?_⟩
  refine (goes_each _ fun i hi => ?_).bind fun _ _ =>
    (goes_firstStore _ _ (by decide) (by decide) (by decide) (by decide)).bind fun _ _ => goes_setF _ (by decide)
  simp only [List.mem_range] at hi
  interval_cases i
  all_goals exact goes_write _ (by decide) (by decide) (by decide)

/-- The root and 4,095 more contexts. -/
def manyContexts : State :=
  { sup [(1, 0x500000)] with ctxs := (sup [(1, 0x500000)]).ctxs ++ (List.range 4095).map fun n => (n + 1, Ctx.new 2 7 []) }

theorem has_mem {α : Type} {m : Sparse α} {k : Nat} {v : α} (h : (k, v) ∈ m) : has m k = true := by
  induction m with
  | nil => cases h
  | cons e r ih =>
    obtain ⟨j, u⟩ := e
    rw [has]
    split
    · rfl
    · next hj =>
      obtain h | h := List.mem_cons.1 h
      · exact absurd (Prod.mk.inj h).1.symm hj
      · exact ih h

/-- contextCreation: no number is free. -/
theorem witness_contextCreation_6 : manyContexts.freeAsid = none := by
  unfold State.freeAsid
  rw [List.find?_eq_none]
  intro x hx
  obtain ⟨n, hn, rfl⟩ := List.mem_map.1 hx
  have : has manyContexts.ctxs (n + 1) = true :=
    has_mem (v := Ctx.new 2 7 []) (List.mem_append_right _ (List.mem_map.2 ⟨n, hn, rfl⟩))
  simp [this]

theorem witness_contextCreation_7 : (let s := manyContexts; s.clear (.ctxnew hd (x 4) (x 1)) && s.myCtx.depth != 7 &&
    s.past.ctxsLeft 0 != 0 && good (s.past.blockFrames 0x500000 8 0x500000)) = true := by decide +kernel

end Sys2Proof.Tests
end

section
/-! PROOFS. Control registers by number (R57, R327, R413): which part of the state holds a register, what its number reads
and what a write leaves there. -/

namespace Sys2Proof.Machine

/-! ### Fields of a word as quotients and remainders -/

theorem bits_eq_div_mod (w : Word) (hi lo : Nat) : bits w hi lo = w.toNat / 2 ^ lo % 2 ^ (hi + 1 - lo) := by
  rw [bits, Nat.shiftRight_eq_div_pow]

theorem bits_low (w : Word) (hi : Nat) : bits w hi 0 = w.toNat % 2 ^ (hi + 1) := by
  rw [bits_eq_div_mod, pow_zero, Nat.div_one, Nat.sub_zero]

/-- A field that ends at bit 63 is the whole quotient. -/
theorem bits_top (w : Word) {lo : Nat} (h : lo ≤ 63) : bits w 63 lo = w.toNat / 2 ^ lo := by
  rw [bits_eq_div_mod]
  refine Nat.mod_eq_of_lt (Nat.div_lt_of_lt_mul ?_)
  calc w.toNat < 2 ^ 64 := w.isLt
    _ = 2 ^ lo * 2 ^ (63 + 1 - lo) := by rw [← pow_add, Nat.add_sub_cancel' (by omega)]

/-! ### Where a register is held decides how it is read and written -/

section Holders
variable {s : State} {n : Nat}

theorem readCr_core (h : crHolder n = 0) : s.readCr n = s.myCore.cr n := by
  simp only [State.readCr, h]

/-- A register of the context reads what the context holds, and a counter what the refreshes add to it besides (R406). -/
theorem readCr_ctx (h : crHolder n = 2) :
    s.readCr n = if 0x130 ≤ n ∧ n ≤ 0x13F then s.myCtx.cr n + s.upkeep s.th.asid (n - 0x130) else s.myCtx.cr n := by
  simp only [State.readCr, h]

theorem writeCr_core (v : Word) (h : crHolder n = 0) : s.writeCr n v = s.onMyCore (·.setCr n v) := by
  simp only [State.writeCr, h]

theorem writeCr_ctx (v : Word) (h : crHolder n = 2) : s.writeCr n v = s.onCtx s.th.asid (·.setCr n v) := by
  simp only [State.writeCr, h]

end Holders

/-! ### Formats: sixteen registers of the core (R62) -/

section Bfmt
variable {i : Nat}

theorem crHolder_bfmt (hi : i < 16) : crHolder (0x050 + i) = 0 := by
  interval_cases i <;> rfl

theorem Core.cr_bfmt (k : Core) (hi : i < 16) : k.cr (0x050 + i) = (get 0 k.bfmt i).setWidth 64 := by
  interval_cases i <;> rfl

theorem Core.setCr_bfmt (k : Core) (v : Word) (hi : i < 16) :
    k.setCr (0x050 + i) v = { k with bfmt := set 0 k.bfmt i (v.setWidth 4) } := by
  interval_cases i <;> rfl

theorem readCr_bfmt (s : State) (hi : i < 16) : s.readCr (0x050 + i) = (get 0 s.myCore.bfmt i).setWidth 64 := by
  rw [readCr_core (crHolder_bfmt hi), Core.cr_bfmt _ hi]

theorem writeCr_bfmt (s : State) (v : Word) (hi : i < 16) :
    s.writeCr (0x050 + i) v = s.onMyCore fun k => { k with bfmt := set 0 k.bfmt i (v.setWidth 4) } := by
  rw [writeCr_core v (crHolder_bfmt hi)]
  simp only [Core.setCr_bfmt _ v hi]

end Bfmt

/-! ### Counters and their selectors: sixteen registers each of the context (R333, R406) -/

section Counters
variable {i : Nat}

theorem crHolder_pcnt (hi : i < 16) : crHolder (0x130 + i) = 2 := by
  interval_cases i <;> rfl

theorem crHolder_psel (hi : i < 16) : crHolder (0x140 + i) = 2 := by
  interval_cases i <;> rfl

theorem Ctx.cr_pcnt (c : Ctx) (hi : i < 16) : c.cr (0x130 + i) = get 0 c.pcnt i := by
  interval_cases i <;> rfl

theorem Ctx.cr_psel (c : Ctx) (hi : i < 16) : c.cr (0x140 + i) = get 0 c.psel i := by
  interval_cases i <;> rfl

theorem Ctx.setCr_pcnt (c : Ctx) (v : Word) (hi : i < 16) :
    c.setCr (0x130 + i) v = { c with pcnt := set 0 c.pcnt i v } := by
  interval_cases i <;> rfl

theorem Ctx.setCr_psel (c : Ctx) (v : Word) (hi : i < 16) :
    c.setCr (0x140 + i) v = { c with psel := set 0 c.psel i (v &&& 0x8000000000000FFF) } := by
  interval_cases i <;> rfl

/-- What the refreshes add to counter `i` of context `a` is free: it is the root's, and its selector is on and names code 0x060
(R406, log 94). -/
def State.countsRefreshes (s : State) (a i : Nat) : Prop :=
  a = 0 ∧ bit (get 0 (s.ctx a).psel i) 63 = true ∧ (get 0 (s.ctx a).psel i).toNat % 4096 = 0x060

theorem upkeep_eq_zero {s : State} {a : Nat} (h : ¬s.countsRefreshes a i) : s.upkeep a i = 0 := by
  simp only [State.upkeep, bits_low]
  exact if_neg h

theorem readCr_pcnt {s : State} (hi : i < 16) (h : ¬s.countsRefreshes s.th.asid i) :
    s.readCr (0x130 + i) = get 0 s.myCtx.pcnt i := by
  rw [readCr_ctx (crHolder_pcnt hi), if_pos (by omega), Ctx.cr_pcnt _ hi, Nat.add_sub_cancel_left, upkeep_eq_zero h]
  exact BitVec.add_zero _

theorem readCr_psel (s : State) (hi : i < 16) : s.readCr (0x140 + i) = get 0 s.myCtx.psel i := by
  rw [readCr_ctx (crHolder_psel hi), if_neg (by omega), Ctx.cr_psel _ hi]

theorem writeCr_pcnt (s : State) (v : Word) (hi : i < 16) :
    s.writeCr (0x130 + i) v = s.onCtx s.th.asid fun c => { c with pcnt := set 0 c.pcnt i v } := by
  rw [writeCr_ctx v (crHolder_pcnt hi)]
  simp only [Ctx.setCr_pcnt _ v hi]

theorem writeCr_psel (s : State) (v : Word) (hi : i < 16) :
    s.writeCr (0x140 + i) v =
      s.onCtx s.th.asid fun c => { c with psel := set 0 c.psel i (v &&& 0x8000000000000FFF) } := by
  rw [writeCr_ctx v (crHolder_psel hi)]
  simp only [Ctx.setCr_psel _ v hi]

end Counters

/-! ### DEPCFG and the vector registers (R50 to R52, R65, R240) -/

theorem depcfg_inactive {n : StepState} (h : n.active = false) : n.depcfg = word (n.wdog * 2 ^ 12) := by
  simp [StepState.depcfg, h]

theorem depcfg_active {n : StepState} (h : n.active = true) :
    n.depcfg = word (n.group * 2 ^ 32 + n.nt % 32 * 2 ^ 24 + (if n.cutHeld then 2 ^ 23 else 0) +
      (if n.cutPend then 2 ^ 22 else 0) + n.wdog * 2 ^ 12 + n.succs.length * 2 ^ 8 + n.preds.length * 2 ^ 4 + 1) := by
  simp [StepState.depcfg, h]

theorem readCr_depcfg (s : State) : s.readCr 0x012 = s.myCore.nb.depcfg := rfl

theorem writeCr_depcfg (s : State) (v : Word) :
    s.writeCr 0x012 v = s.onMyCore fun k => { k with nb := { k.nb with wdog := v.toNat / 2 ^ 12 % 16 } } := by
  rw [writeCr_core v rfl]
  exact congrArg s.onMyCore (funext fun k => by simp [Core.setCr, bits_eq_div_mod])

theorem readCr_vshape (s : State) : s.readCr 0x020 = if s.vecSlot then s.th.vshape else 0 := rfl

theorem readCr_vact (s : State) : s.readCr 0x021 = if s.vecSlot then s.th.vact else 0 := rfl

theorem vactOf_eq (v : Word) : vactOf v = word (min (v.toNat / 2 ^ 8 % 256) 64 * 2 ^ 8 + v.toNat % 16) := by
  rw [vactOf, bits_eq_div_mod, bits_low]
  rfl

/-- VACT takes a write in a slot with vector registers, while the thread is not nomadic. -/
theorem writeCr_vact {s : State} (v : Word) (hv : s.vecSlot = true) (hn : s.th.nomad = false) :
    s.writeCr 0x021 v = s.setTh { s.th with vact := vactOf v } :=
  if_neg (by simp [hv, hn])

theorem writeCr_vact_ignored {s : State} (v : Word) (h : s.vecSlot = false ∨ s.th.nomad = true) :
    s.writeCr 0x021 v = s :=
  if_pos ⟨rfl, by simpa using h⟩

/-! ### What the registers of the module store (R413) -/

theorem vfctlOf_eq (s : State) (v : Word) :
    let a := v.toNat / 2 ^ 16 % 4096
    s.vfctlOf v =
      word (a * 2 ^ 16 + if v.getLsbD 0 = true ∧ has s.ctxs a = true ∧ (s.ctx a).depth = 1 then 1 else 0) := by
  simp [State.vfctlOf, bits_eq_div_mod, bit, and_assoc]

theorem cxlwinOf_eq (v : Word) :
    let base := v.toNat / 2 ^ 30 * 2 ^ 30
    let size := 2 ^ (v.toNat / 2 ^ 25 % 32) * 2 ^ 30
    cxlwinOf v = (v &&& 0xFFFFFFFFFFE00002) |||
      if v.getLsbD 0 = true ∧ base % size = 0 ∧ 0x080000000000 ≤ base ∧ base + size ≤ 0x480000000000 then 1 else 0 := by
  simp [cxlwinOf, bits_top, bits_eq_div_mod v 29 25, bit, and_assoc]

theorem writeCr_vfctl (s : State) (v : Word) : s.writeCr 0x411 v =
    { s with vfs := put s.vfs s.vfsel.toNat { get Vf.new s.vfs s.vfsel.toNat with ctl := s.vfctlOf v } } := rfl

theorem writeCr_cxlwin (s : State) (v : Word) :
    s.writeCr 0x413 v = { s with cxlwin := put s.cxlwin s.cxlsel.toNat (cxlwinOf v) } := rfl

/-! ### Registers that a write does not change (R3) -/

/-- A write leaves alone what the thread that issues sees of itself, the cores, its context, time and the part. -/
def State.SameView (s q : State) : Prop :=
  q.th = s.th ∧ q.cores = s.cores ∧ q.ctx s.th.asid = s.ctx s.th.asid ∧ q.now = s.now ∧ q.part = s.part

theorem sameView_refl (s : State) : s.SameView s := ⟨rfl, rfl, rfl, rfl, rfl⟩

/-- Storing the thread itself again. -/
theorem sameView_setTh (s : State) : s.SameView (s.setTh s.th) := ⟨th_setTh _ _, rfl, rfl, rfl, rfl⟩

/-- Storing the context itself again. -/
theorem sameView_onCtx (s : State) : s.SameView (s.onCtx s.th.asid fun c => c) := ⟨rfl, rfl, ctx_setCtx _ _ _, rfl, rfl⟩

theorem writeCr_derived {s : State} {n : Nat} (v : Word) (h : crHolder n = 4) : s.SameView (s.writeCr n v) := by
  simp only [State.writeCr, h]
  exact sameView_refl s

theorem writeCr_ctx_kept {s : State} {n : Nat} (v : Word) (h : crHolder n = 2) (hc : ∀ c : Ctx, c.setCr n v = c) :
    s.SameView (s.writeCr n v) := by
  rw [writeCr_ctx v h]
  simp only [hc]
  exact sameView_onCtx s

theorem writeCr_readOnly (s : State) (v : Word) :
    ∀ n ∈ [0x001, 0x020, 0x060, 0x061, 0x062, 0x0F0, 0x0F1, 0x110, 0x111, 0x112, 0x122], s.SameView (s.writeCr n v) := by
  simp only [List.forall_mem_cons]
  exact ⟨writeCr_derived v rfl, sameView_setTh s, writeCr_derived v rfl, writeCr_derived v rfl, writeCr_derived v rfl,
    writeCr_derived v rfl, writeCr_derived v rfl, writeCr_ctx_kept v rfl fun _ => rfl, writeCr_ctx_kept v rfl fun _ => rfl,
    writeCr_ctx_kept v rfl fun _ => rfl, writeCr_ctx_kept v rfl fun _ => rfl, List.forall_mem_nil _⟩

/-! ### The instructions (R340) -/

theorem mfcr_completes {s : State} {h : Hdr} {d : Opnd} {crn : BitVec 12} {m : MR}
    (hc : s.past.crReadCheck crn.toNat = none) :
    Completes (.mfcr h d crn m) s (s.past.setReg d (s.past.readCr crn.toNat)) := fun hs =>
  native_done hs (by simp only [hc])

theorem mfcr_traps {s : State} {h : Hdr} {d : Opnd} {crn : BitVec 12} {m : MR} {t : Trap}
    (hc : s.past.crReadCheck crn.toNat = some t) (hs : s.clear (.mfcr h d crn m) = true) :
    exec (.mfcr h d crn m) s = .next (s.trapNow t) :=
  native_trap hs (by simp only [hc])

/-- The operand of `mtcr` is the register as it stood before the pc moved on. -/
theorem past_reg (s : State) (r : Opnd) : s.past.reg r = s.reg r := advance_reg s 8 r

theorem mtcr_completes {s : State} {h : Hdr} {d a : Opnd} {crn : BitVec 12} {m : MR}
    (hc : s.past.crWriteCheck crn.toNat (s.reg a) (Instr.mtcr h d a crn m).word = none) :
    Completes (.mtcr h d a crn m) s ((s.past.writeCr crn.toNat (s.reg a)).setReg d (s.past.readCr crn.toNat)) := fun hs =>
  native_done hs (by simp only [past_reg, hc])

theorem mtcr_traps {s : State} {h : Hdr} {d a : Opnd} {crn : BitVec 12} {m : MR} {t : Trap}
    (hc : s.past.crWriteCheck crn.toNat (s.reg a) (Instr.mtcr h d a crn m).word = some t)
    (hs : s.clear (.mtcr h d a crn m) = true) : exec (.mtcr h d a crn m) s = .next (s.trapNow t) :=
  native_trap hs (by simp only [past_reg, hc])

/-- Settles O43: the instructions by what a clear native instruction does, the registers by where each is held. A register that
is one field of its holder reads it, and stores its mask of what is written, by definition; every other one has its lemma. -/
theorem controlRegisters : Obligations.ControlRegisters := by
  unfold Obligations.ControlRegisters
  refine ⟨fun s h d a crn m t => ⟨mfcr_completes, mtcr_completes, mfcr_traps, mtcr_traps⟩, ?reads, ?writes⟩
  case reads =>
    intro s i hi
    refine ⟨rfl, rfl, rfl, depcfg_inactive, depcfg_active, ?shaped, ?unshaped, rfl, rfl, rfl, rfl, rfl, readCr_bfmt s hi,
      rfl, rfl, rfl, rfl, rfl, rfl, rfl, rfl, rfl, rfl, rfl, rfl, rfl, rfl, rfl, rfl, rfl, rfl, rfl, rfl, rfl, rfl,
      readCr_pcnt hi, readCr_psel s hi, rfl, rfl, rfl, rfl, rfl, rfl, rfl⟩
    case shaped => exact fun hv => ⟨by rw [readCr_vshape, if_pos hv], by rw [readCr_vact, if_pos hv]⟩
    case unshaped =>
      intro hv
      have hn : ¬s.vecSlot = true := by simp [hv]
      exact ⟨by rw [readCr_vshape, if_neg hn], by rw [readCr_vact, if_neg hn]⟩
  case writes =>
    intro s v i hi
    refine ⟨rfl, rfl, writeCr_depcfg s v, ?vact, writeCr_vact_ignored v, rfl, rfl, rfl, rfl, rfl, writeCr_bfmt s v hi,
      rfl, rfl, rfl, rfl, rfl, rfl, rfl, rfl, rfl, rfl, rfl, rfl, rfl, writeCr_pcnt s v hi, writeCr_psel s v hi, rfl, rfl,
      rfl, ?vfctl, rfl, ?cxlwin, rfl, writeCr_readOnly s v⟩
    case vact => exact fun hv hn => by rw [writeCr_vact v hv hn, vactOf_eq]
    case vfctl => rw [writeCr_vfctl, vfctlOf_eq]
    case cxlwin => rw [writeCr_cxlwin, cxlwinOf_eq]

end Sys2Proof.Machine
end

section
/-! PROOFS. Tasks and nomadic threads (R32 to R37, R224, R227): what `fork`, `tend`, `joinw`, `migrate`, `nomad` and `homeq`
do. -/

namespace Sys2Proof.Machine

/-! ### Reading after the pc has moved on and a translation is remembered -/

/-- An instruction that does not go on from a park reads its operand where it stands. -/
theorem past_arg {s : State} (hh : s.th.held = none) (r : Opnd) : s.past.arg r = s.reg r := advance_arg hh 8 r

@[simp] theorem remember_core (s : State) (w : Who) (va : Word) (k : Nat) (t : Tr) (c : Nat) :
    (s.remember w va k t).core c = s.core c := by rw [State.core, remember_cores]; rfl

@[simp] theorem remember_xr (s : State) (w : Who) (va : Word) (k : Nat) (t : Tr) (n : Nat) :
    (s.remember w va k t).xr n = s.xr n := by rw [State.xr, remember_th]; rfl

@[simp] theorem remember_homeWord (s : State) (w : Who) (va : Word) (k : Nat) (t : Tr) (h : Home) :
    (s.remember w va k t).homeWord h = s.homeWord h := by obtain ⟨c, n, b, e⟩ := remember_cases s w va k t; rw [e]; rfl

/-- Moving the pc on lets nothing return and performs nothing. -/
@[simp] theorem advance_drained (s : State) (n : Word) : (s.advance n).drained s.cur = s.drained s.cur := by
  show ((s.advance n).th.outst.isEmpty && _) = _
  rw [advance_th_outst]
  rfl

/-! ### Tasks (R35 to R37, R224) -/

section Tasks
variable {s : State} {h : Hdr} {a b : Opnd} {res : Bool} {t : Tr} {jc : Word} {tr : Trap}

theorem fork_traps_align (hal : (s.reg a).toNat % 8 ≠ 0) :
    s.clear (.fork h a b res) = true → exec (.fork h a b res) s = .next (s.trapNow (.of .align (s.reg a))) :=
  traps_of_trap rfl fun hh => by simp only [past_arg hh, if_pos hal]

/-- With room in the deque the entry goes to its tail; it names the access that comes next but one (R36). -/
theorem pushTask_room {f : Nat → Task} {go : State → Res} (hroom : (s.core s.th.core).deque.length < 64) :
    s.pushTask f go = go (s.onCore s.th.core fun k => { k with deque := k.deque ++ [f (s.next + 1)] }) :=
  if_pos hroom

theorem fork_completes (hal : (s.reg a).toNat % 8 = 0) (hgo : s.past.goesOut true true false (s.reg b) 8 kWrite t)
    (hroom : (s.core s.th.core).deque.length < 64) :
    let q := s.past.remember s.past.who (s.reg b) kWrite t
    let task : Task := ⟨s.th.asid, s.reg a, [s.xr 1, s.xr 2, s.xr 3, s.xr 4], s.reg b, s.th.cls, q.next + 1⟩
    Completes (.fork h a b res) s
      ((q.onCore s.th.core fun k => { k with deque := k.deque ++ [task] }).single [] (.done []) (s.reg b) t 8 (.atom 0 1 0)
        false true 4) := by
  intro q task
  have hroom' : (q.core q.th.core).deque.length < 64 := by simpa [q] using hroom
  refine completes_of_done rfl fun hh => ?_
  simp only [past_arg hh, if_neg (not_not.mpr hal)]
  rw [word8_goes (fe := false) (mon := false) hgo nofun nofun, pushTask_room hroom']
  simp [q, task]

/-! The end of a task subtracts from its join counter, which is checked as an atomic (R37, R224, log 24). -/

theorem joinFault_ok (hw : s.th.work = .task jc) (hc : s.check s.who jc 8 kWrite = .ok t)
    (hb : s.csrBad t.pa 8 false = false) : s.joinFault = none := by
  simp [State.joinFault, hw, hc, hb]

theorem joinFault_window (hw : s.th.work = .task jc) (hc : s.check s.who jc 8 kWrite = .ok t)
    (hb : s.csrBad t.pa 8 false = true) : s.joinFault = some (.of .prot jc) := by
  simp [State.joinFault, hw, hc, hb]

theorem joinFault_check (hw : s.th.work = .task jc) (hc : s.check s.who jc 8 kWrite = .error tr) :
    s.joinFault = some tr := by
  simp [State.joinFault, hw, hc]

theorem leave_traps (hj : s.joinFault = some tr) : s.leave = .trap tr := by
  simp [State.leave, hj]

theorem leave_ends (hj : s.joinFault = none) (hd : s.drained s.cur = true) :
    s.leave = .done (s.endThread s.cur false) := by
  simp [State.leave, hj, hd]

theorem leave_drains (hj : s.joinFault = none) (hd : s.drained s.cur = false) : s.leave = .park s .drain := by
  simp [State.leave, hj, hd]

theorem isTask_of_work (hw : s.th.work = .task jc) : s.th.isTask = true := by
  simp [Thread.isTask, hw]

/-- `tend` of a task thread leaves. -/
theorem tend_task (hw : s.th.work = .task jc) :
    (if s.past.th.isTask then s.past.leave else .trap (.of .illegalOp (Instr.tend h res).word)) = s.past.leave :=
  if_pos (isTask_of_work (by simpa using hw))

theorem tend_traps_illegal (ht : s.th.isTask = false) :
    s.clear (.tend h res) = true →
      exec (.tend h res) s = .next (s.trapNow (.of .illegalOp (Instr.tend h res).word)) :=
  traps_of_trap rfl fun _ => if_neg (by simp [ht])

theorem joinw_completes (hgo : s.past.goesOut true true false (s.reg a) 8 kRead t)
    (hf : farKind (s.past.kindOf t.pa) = false) :
    Completes (.joinw h a res) s
      (s.past.sent [] (.done []) (s.reg a) t 8 kRead (.waita 0 0) true false 4).parkOwn :=
  completes_of_done rfl fun hh => by
    simp only [past_arg hh]
    exact word8_goes (fe := true) (mon := false) hgo (fun _ => hf) nofun _

end Tasks

/-- Settles O34: `fork` by `pushTask_room`, `tend` by what `leave` finds at the join counter, `joinw` as a wait that goes
out. That `tend` checks the counter before it drains is the model's order (log 24), and that the window takes no atomic is
`csrBad` (log 22). -/
theorem forkAndJoin : Obligations.ForkAndJoin := by
  unfold Obligations.ForkAndJoin
  intro s h a b res t
  refine ⟨fork_traps_align, fork_completes, fun jc tr hw => ?task, tend_traps_illegal, joinw_completes⟩
  case task =>
    have hwp : s.past.th.work = .task jc := by simpa using hw
    refine ⟨fun hc hb => ⟨fun hd => ?ends, fun hd => ?drains⟩, fun hc hb => ?window, fun hc => ?check⟩
    case ends =>
      exact completes_of_done rfl fun _ => (tend_task hw).trans (leave_ends (joinFault_ok hwp hc hb) hd)
    case drains =>
      exact fun hs => native_park hs ((tend_task hw).trans (leave_drains (joinFault_ok hwp hc hb) hd))
    case window =>
      exact traps_of_trap rfl fun _ => (tend_task hw).trans (leave_traps (joinFault_window hwp hc hb))
    case check =>
      exact traps_of_trap rfl fun _ => (tend_task hw).trans (leave_traps (joinFault_check hwp hc))

/-! ### Nomadic threads (R32 to R34, R227) -/

/-- The entries of a map with small keys are read as before. -/
theorem get_filter_key {α : Type} (d : α) (m : Sparse α) {k n : Nat} (hk : k < n) :
    get d (m.filter fun e => e.1 < n) k = get d m k := by
  induction m with
  | nil => rfl
  | cons e r ih =>
    obtain ⟨j, v⟩ := e
    by_cases hj : j < n
    · simp only [List.filter_cons, hj, decide_true, if_true, get, ih]
    · have hne : j ≠ k := by omega
      simpa only [List.filter_cons, hj, decide_false, Bool.false_eq_true, if_false, get, hne] using ih

section Nomads
variable {s : State} {h : Hdr} {d a : Opnd} {res : Bool} {t : Tr}

/-- The checks of `migrate` let a thread go to core `c` (R34, R227). -/
def State.mayGoTo (s : State) (c : Nat) : Prop :=
  s.th.nomad = true ∧ c < Config.cores s.part ∧ s.inSet s.th.asid c = true ∧ s.th.slot < slotsOf (s.core c).mode ∧
    (c ≠ s.th.core → s.th.exl = false)

theorem migrate_leaves (hg : s.mayGoTo (s.reg a).toNat) (hd : s.past.drained s.cur = true)
    (hc : (s.reg a).toNat ≠ s.th.core) :
    let x := s.past.depart (s.reg a).toNat
    Completes (.migrate h a res) s (x.setTh { x.th with park := .moving (s.reg a).toNat, parkedAt := x.now }) := by
  obtain ⟨hn, hlt, hin, hslot, hexl⟩ := hg
  refine completes_of_done rfl fun _ => ?_
  have hd' : s.drained s.cur = true := by simpa using hd
  simp [hn, Nat.not_le.mpr hlt, hin, Nat.not_le.mpr hslot, hexl hc, hd', hc]

theorem migrate_stays (hg : s.mayGoTo (s.reg a).toNat) (hd : s.past.drained s.cur = true)
    (hc : (s.reg a).toNat = s.th.core) : Completes (.migrate h a res) s s.past := by
  obtain ⟨hn, hlt, hin, hslot, -⟩ := hg
  refine completes_of_done rfl fun _ => ?_
  have hd' : s.drained s.cur = true := by simpa using hd
  rw [hc] at hlt hin hslot
  simp [hn, Nat.not_le.mpr hlt, hin, Nat.not_le.mpr hslot, hd', hc]

theorem migrate_traps_not_nomad (hn : s.th.nomad = false) :
    s.clear (.migrate h a res) = true → exec (.migrate h a res) s = .next (s.trapNow (.of .slotState 2)) :=
  traps_of_trap rfl fun _ => by simp [hn]

theorem migrate_traps_outside (hn : s.th.nomad = true)
    (hc : Config.cores s.part ≤ (s.reg a).toNat ∨ s.inSet s.th.asid (s.reg a).toNat = false) :
    s.clear (.migrate h a res) = true → exec (.migrate h a res) s = .next (s.trapNow (.of .prot (s.reg a))) :=
  traps_of_trap rfl fun _ => by simp [hn, hc]

theorem nomad_ends : Completes (.nomad h true) s (s.past.setTh { s.past.th with nomad := false }) :=
  completes_of_done rfl fun _ => rfl

theorem nomad_again (hn : s.th.nomad = true) : Completes (.nomad h false) s s.past :=
  completes_of_done rfl fun _ => by simp [hn]

theorem nomad_traps_units (hn : s.th.nomad = false) (hu : s.myCore.holdsUnits s.cur = true) :
    s.clear (.nomad h false) = true → exec (.nomad h false) s = .next (s.trapNow (.of .slotState 2)) :=
  traps_of_trap rfl fun _ => by simp [hn, hu]

/-- What a thread becomes that turns nomadic: x16 and above and the vector state are gone (R32). -/
def Thread.nomadic (t : Thread) : Thread :=
  { t with
    nomad := true, x := t.x.filter fun e => e.1 < 16, xPoison := t.xPoison.filter (· < 16), v := [], vPoison := [],
    vshape := 0x4001, vact := 0x4001,
    outst := t.outst.map fun o => { o with dead := o.dead ++ o.dsts.filter Dst.nomadLoses } }

theorem nomadic_getX (t : Thread) {n : Nat} (hn : n < 16) : t.nomadic.getX n = t.getX n := by
  simp only [Thread.getX, Thread.nomadic, get_filter_key 0 t.x hn]

theorem nomad_begins (hn : s.th.nomad = false) (hu : s.myCore.holdsUnits s.cur = false) :
    Completes (.nomad h false) s (s.past.setTh s.past.th.nomadic) :=
  completes_of_done rfl fun _ => by simp [hn, hu, Thread.nomadic]

theorem homeq_completes (hc : canonical (s.reg a) = true)
    (ht : s.past.translate s.past.who (s.reg a) kRead = .ok t) :
    let q := s.past.remember s.past.who (s.reg a) kRead t
    Completes (.homeq h d a res) s (q.later [.reg d] [.reg d (q.homeWord (s.past.homeOf t.pa t.attr))]) :=
  completes_of_done rfl fun hh => by
    simp only [past_arg hh, hc, ht, remember_homeWord, Bool.not_true, Bool.false_eq_true, if_false]

/-- A word of UNIT, the bits 5 and 4, and KIND gives KIND in its lowest bits and bit 4 (R227). -/
theorem homeWord_bits (u k : Nat) (m : Bool) (l : Prop) [Decidable l] (hk : k < 16) :
    let w := word (u * 2 ^ 16 + (if m then 2 ^ 5 else 0) + (if l then 2 ^ 4 else 0) + k)
    w.toNat % 16 = k ∧ (w.getLsbD 4 = true ↔ l) := by
  simp only [word, BitVec.toNat_ofNat, BitVec.getLsbD_ofNat, Nat.testBit_eq_decide_div_mod_eq]
  cases m <;> by_cases hl : l <;> simp [hl] <;> omega

theorem homeKind_lt {hm : Home} {k n : Nat} (hk : homeKind hm = some (k, n)) : k < 16 := by
  cases hm <;> simp only [homeKind, Option.some.injEq, Prod.mk.injEq, reduceCtorEq] at hk <;> omega

/-- KIND and the local bit of a `homeq` word. -/
theorem homeWord_fields (s : State) {hm : Home} {k n : Nat} (hk : homeKind hm = some (k, n)) :
    (s.homeWord hm).toNat % 16 = k ∧ ((s.homeWord hm).getLsbD 4 = true ↔ homeCore hm = some s.th.core) := by
  simp only [State.homeWord, hk]
  exact homeWord_bits n k _ _ (homeKind_lt hk)

end Nomads

/-- Settles O36: `migrate` check by check in the order of R227, `nomad` in its four cases, `homeq` by the bits of its word. That
VSHAPE and VACT then read 0x4001 is the model's reading (log 18). -/
theorem nomads : Obligations.Nomads := by
  unfold Obligations.Nomads
  intro s h d a res t
  refine ⟨migrate_leaves, migrate_stays, migrate_traps_not_nomad, migrate_traps_outside, nomad_ends, nomad_again,
    nomad_traps_units, fun hn hu => ?begins, homeq_completes, fun k n hk => ?fields⟩
  case begins =>
    refine ⟨_, nomad_begins hn hu, ?_⟩
    simp only [th_setTh]
    refine ⟨rfl, fun n hn => ?_, rfl, rfl, rfl, rfl, rfl⟩
    rw [nomadic_getX _ hn]
    exact advance_xr s 8 n
  case fields =>
    have := homeWord_fields (s.past.remember s.past.who (s.reg a) kRead t) hk
    simpa using this

end Sys2Proof.Machine
end

section
/-! PROOFS. Launches (R41, R42, R235, R311): reading and entering a record, waiting for a launch and its state. -/

namespace Sys2Proof.Machine

/-! ### How an instruction runs that goes on from a park, and one that finds no room for its result -/

/-- An instruction that goes on completes with what its body leaves (R4). -/
theorem resumes_of_done {i : Instr} {body : State → Res} {s d : State} (he : exec i s = native i body s)
    (hb : body s.past = .done d) : Resumes i s d := fun h => by
  simp only [State.resumes, Bool.and_eq_true, Option.isNone_iff_eq_none] at h
  obtain ⟨⟨hlive, hchecks⟩, hgo⟩ := h
  have hb' : body (s.advance 8) = .done d := hb
  simp only [he, native, hlive, State.issue, hchecks, hgo, if_true, hb']
  rfl

/-- Everything that the checks of an instruction found that begins. -/
theorem begins_cases {s : State} {i : Instr} (h : s.begins i = true) :
    has s.threads s.cur = true ∧ s.decodeChecks i.info = none ∧ s.unitMissing i.info = false ∧
      s.pred i.info.hdr.pg ≠ i.info.hdr.pn ∧ s.holdBack i.info = none ∧
      (∀ d ∈ i.info.sources ++ i.info.writes, s.outstanding d = false) ∧
      (∀ d ∈ i.info.sources, s.poisonedDst d = false) ∧ s.th.held = none := by
  simp only [State.begins, Bool.and_eq_true, Option.isNone_iff_eq_none, Bool.not_eq_true', bne_iff_ne,
    List.all_eq_true] at h
  obtain ⟨⟨⟨⟨⟨⟨⟨⟨hlive, hchecks⟩, hunit⟩, hguard⟩, hback⟩, hout⟩, hpoison⟩, hheld⟩, -⟩ := h
  exact ⟨hlive, hchecks, hunit, hguard, hback, hout, hpoison, hheld⟩

/-- The seventeenth long instruction whose effect is that of one instant has passed its checks, and waits for room (R23). -/
theorem native_waits_room {s d : State} {i : Instr} {body : State → Res} (h : s.begins i = true)
    (hacts : i.info.acts = true) (hfull : 16 ≤ s.th.outst.length) (hb : s.th.held = none → body s.past = .done d) :
    native i body s = .next (s.parkBody s i s.th.pc .room) := by
  obtain ⟨hlive, hchecks, hunit, hguard, hback, hout, hpoison, hheld⟩ := begins_cases h
  have hgo : s.goesOn i = false := by simp [State.goesOn, hheld]
  have hpg : Dst.pred i.info.hdr.pg ∈ i.info.sources := by simp [Info.sources]
  have hreads : ∀ d ∈ i.info.reads, d ∈ i.info.sources := fun d hd => by simp [Info.sources, hd]
  have hg : s.readEarly [.pred i.info.hdr.pg] = s := readEarly_same _ _ fun d hd => by
    rw [List.mem_singleton.mp hd]
    exact hout _ (List.mem_append_left _ hpg)
  have hr : s.readEarly i.info.reads = s :=
    readEarly_same _ _ fun d hd => hout d (List.mem_append_left _ (hreads d hd))
  have hw : s.writeEarly i.info.writes = s := writeEarly_same _ _ fun d hd => hout d (List.mem_append_right _ hd)
  have hp : s.poisonRead (.pred i.info.hdr.pg) = false := by simp [State.poisonRead, hpoison _ hpg]
  have hs : i.info.reads.any s.poisonRead = false := by
    rw [List.any_eq_false]
    intro d hd
    simp [State.poisonRead, hpoison d (hreads d hd)]
  have hn : (s.pred i.info.hdr.pg = i.info.hdr.pn) = False := eq_false hguard
  have hbody : body (s.advance 8) = .done d := hb hheld
  have hq : s.parksFirst i.info body = none := by
    unfold State.parksFirst
    split
    · rw [hbody]
    · rfl
  simp only [native, hlive, State.issue, hchecks, hgo, hg, hp, hn, hunit, hback, hq, hr, hs, hw, hbody, hacts, hfull,
    Bool.true_and, decide_true, if_true, if_false, Bool.false_eq_true]

/-! ### Counting what a launch reads changes the counters alone (R406, R408) -/

/-- One state is another but for the counted events, the names given and the translations that are remembered. -/
def State.CountedFrom (s q : State) : Prop := ∃ c n b, q = { s with counts := c, next := n, tlb := b }

theorem countedFrom_refl (s : State) : s.CountedFrom s := ⟨s.counts, s.next, s.tlb, rfl⟩

theorem countedFrom_remember {s q : State} (h : s.CountedFrom q) (w : Who) (va : Word) (k : Nat) (t : Tr) :
    s.CountedFrom (q.remember w va k t) := by
  obtain ⟨c, n, b, rfl⟩ := h
  obtain ⟨c', n', b', e⟩ := remember_cases { s with counts := c, next := n, tlb := b } w va k t
  exact ⟨c', n', b', e⟩

theorem countedFrom_rememberAll {s q : State} (h : s.CountedFrom q) (w : Who) (k : Nat) (l : List Word) :
    s.CountedFrom (q.rememberAll w k l) := by
  refine forEach_keeps (fun a r hr => ?_) l h
  split
  · exact countedFrom_remember hr ..
  · exact hr

theorem countedFrom_countN {s q : State} (h : s.CountedFrom q) (a code n : Nat) : s.CountedFrom (q.countN a code n) := by
  obtain ⟨c, m, b, rfl⟩ := h
  exact ⟨_, _, _, rfl⟩

theorem countedFrom_countBulk {s q : State} (h : s.CountedFrom q) (w : Who) (va : Word) (len k : Nat) :
    s.CountedFrom (q.countBulk w va len k) :=
  forEach_keeps (P := s.CountedFrom) (fun code _ hq => countedFrom_countN hq w.asid code _) _
    (countedFrom_rememberAll h ..)

theorem countedFrom_countLaunch (s : State) (w : Who) (xa : Word) : s.CountedFrom (s.countLaunch w xa) :=
  forEach_keeps (P := s.CountedFrom) (fun r _ hq => countedFrom_countBulk hq w r.1 r.2 kRead) _ (countedFrom_refl s)

section CountedFrom
variable {s q : State} (h : s.CountedFrom q)
include h

theorem State.CountedFrom.mem : q.mem = s.mem := by obtain ⟨c, n, b, rfl⟩ := h; rfl
theorem State.CountedFrom.threads : q.threads = s.threads := by obtain ⟨c, n, b, rfl⟩ := h; rfl
theorem State.CountedFrom.cores : q.cores = s.cores := by obtain ⟨c, n, b, rfl⟩ := h; rfl
theorem State.CountedFrom.ctxs : q.ctxs = s.ctxs := by obtain ⟨c, n, b, rfl⟩ := h; rfl
theorem State.CountedFrom.behind : q.behind = s.behind := by obtain ⟨c, n, b, rfl⟩ := h; rfl
theorem State.CountedFrom.th : q.th = s.th := by obtain ⟨c, n, b, rfl⟩ := h; rfl
theorem State.CountedFrom.isPoisoned (pa n : Nat) : q.isPoisoned pa n = s.isPoisoned pa n := by
  obtain ⟨c, m, b, rfl⟩ := h; rfl
theorem State.CountedFrom.bytes (pa n : Nat) : q.bytes pa n = s.bytes pa n :=
  bytes_congr pa n fun a _ _ => by rw [State.byte, h.mem]; rfl

end CountedFrom

/-! ### What a launch finds in its context stays while its reads are counted and kept -/

/-- What a `launch` looks at does not tell two states apart: its thread's number, its contexts and the part. -/
structure State.SameLaunch (s q : State) : Prop where
  ctxs : q.ctxs = s.ctxs
  part : q.part = s.part
  asid : q.th.asid = s.th.asid

section SameLaunch
variable {s q : State}

theorem sameLaunch_counted (h : s.CountedFrom q) (k : List Word) (t : List Seen) :
    s.SameLaunch (q.setTh { q.th with kept := k, trace := t }) := by
  obtain ⟨c, n, b, rfl⟩ := h
  exact ⟨rfl, rfl, by rw [th_setTh]; rfl⟩

theorem sameLaunch_past (s : State) : s.SameLaunch s.past := ⟨rfl, rfl, advance_th_asid s 8⟩

theorem State.SameLaunch.trans {s p q : State} (h : s.SameLaunch p) (h' : p.SameLaunch q) : s.SameLaunch q :=
  ⟨h'.ctxs.trans h.ctxs, h'.part.trans h.part, h'.asid.trans h.asid⟩

theorem State.SameLaunch.ctx (h : s.SameLaunch q) (a : Nat) : q.ctx a = s.ctx a := by rw [State.ctx, h.ctxs]; rfl

theorem State.SameLaunch.myCtx (h : s.SameLaunch q) : q.myCtx = s.myCtx := by rw [State.myCtx, h.ctx, h.asid]; rfl

theorem State.SameLaunch.unitFree (h : s.SameLaunch q) (a : Nat) : q.unitFree a = s.unitFree a := by
  have e : q.ctx = s.ctx := funext h.ctx
  unfold State.unitFree State.available State.children
  rw [e, h.ctxs]

/-- A quota unit is free for the context, and the queue that `xa` names is full. -/
def State.queueFull (z : State) (xa : Word) : Prop :=
  z.unitFree z.th.asid = true ∧ 256 ≤ z.myCtx.inQueue (xa.toNat % 16)

theorem State.SameLaunch.queueFull (h : s.SameLaunch q) (xa : Word) : q.queueFull xa ↔ s.queueFull xa := by
  unfold State.queueFull
  rw [h.unitFree, h.asid, h.myCtx]

theorem State.SameLaunch.launchOf (h : s.SameLaunch q) (a : Nat) (b : List Byte × List Byte) : q.launchOf a b = s.launchOf a b := by
  have hfits (r : Record) (e : Entry) : q.fits r e = s.fits r e := by simp only [State.fits, h.part]
  have hrec (l : List Byte) : q.recordFor a l = s.recordFor a l := by simp only [State.recordFor, h.ctx]
  simp only [State.launchOf, hfits, hrec]

end SameLaunch

/-! ### A record that has been read is entered (R40, R235, R401) -/

section Make
variable {z : State} {d : Opnd} {xa arg : Word} {r : Record} {e : Entry} {ms : List Nat} {n a : Nat} {b : List Byte × List Byte}

/-- Two words as the result of a `launch`: the handle and the status. -/
def State.answerTwo (z : State) (d : Opnd) (v w : Word) : State := z.later (pairOf d true) [.reg d v, .reg d.succ w]

/-- The launch is entered under number `n`, and its handle answered with status 0, or 1 where it is deferred. -/
def State.enterAndAnswer (z : State) (a : Nat) (d : Opnd) (xa arg : Word) (r : Record) (e : Entry) (ms : List Nat)
    (n : Nat) : State :=
  let g := z.enterLaunch a n (xa.toNat % 16) r e ms arg false none (z.releaseIds ((r.levels.map (·.scope)).headD 4))
  g.1.answerTwo d g.2.1 (if g.2.2 then 1 else 0)

theorem makeLaunch_queueFull (h : z.queueFull xa) :
    z.makeLaunch d xa arg (r, e, ms) = .park z (.launchQueue (xa.toNat % 16)) := by
  simp only [State.makeLaunch, bits_low]
  exact if_pos h

theorem makeLaunch_tableFull (h : ¬z.queueFull xa) (hn : z.myCtx.freeEntry = none) :
    z.makeLaunch d xa arg (r, e, ms) = .park z .launchTable := by
  simp only [State.makeLaunch, bits_low, hn]
  exact if_neg h

theorem makeLaunch_enters (h : ¬z.queueFull xa) (hn : z.myCtx.freeEntry = some n) :
    z.makeLaunch d xa arg (r, e, ms) = .done (z.enterAndAnswer z.th.asid d xa arg r e ms n) := by
  simp only [State.makeLaunch, bits_low, hn]
  refine (if_neg h).trans ?_
  simp only [State.giveHandle, apply_ite word]
  rfl

theorem launchFrom_ok (h : z.launchOf z.th.asid b = .ok (r, e, ms)) :
    z.launchFrom d xa arg (.inr b) = z.makeLaunch d xa arg (r, e, ms) := by
  simp only [State.launchFrom, h]

theorem launchFrom_status (h : z.launchOf z.th.asid b = .error (.status n)) :
    z.launchFrom d xa arg (.inr b) = .done (z.answerTwo d 0 (word n)) := by
  simp only [State.launchFrom, h]
  rfl

end Make

/-! ### `launch` (R235, R311) -/

section Launch
variable {s : State} {h : Hdr} {d a b : Opnd} {m : MB} {r : Record} {e : Entry} {ms : List Nat}
  {bs : List Byte × List Byte} {n : Nat} {tr : Trap} {pk : Park}

theorem launchKept_none {t : Thread} (hk : t.kept = []) : t.launchKept = none := by
  simp only [Thread.launchKept, hk]

theorem launchKept_bytes {t : Thread} (hk : t.kept = [0]) (ht : t.trace = [.got bs.1 false, .got bs.2 false]) :
    t.launchKept = some (.inr bs) := by
  simp only [Thread.launchKept, hk, ht]

theorem launchKept_status {t : Thread} (hk : t.kept = [word n]) (ht : t.trace = []) :
    t.launchKept = some (.inl (word n).toNat) := by
  simp only [Thread.launchKept, hk, ht]

theorem clear_room {i : Instr} (hs : s.clear i = true) (ha : i.info.acts = true) : ¬16 ≤ s.th.outst.length := by
  obtain ⟨-, -, -, -, -, -, -, -, -, hroom⟩ := clear_cases hs
  simpa [ha] using hroom

/-- The reads of a launch are counted, and what they gave stays with the instruction. -/
def State.launchKeeps (s : State) (xa : Word) (k : List Word) (t : List Seen) : State :=
  (s.countLaunch s.who xa).setTh { (s.countLaunch s.who xa).th with kept := k, trace := t }

theorem sameLaunch_keeps (s : State) (xa : Word) (k : List Word) (t : List Seen) :
    s.SameLaunch (s.launchKeeps xa k t) := sameLaunch_counted (countedFrom_countLaunch s s.who xa) k t

theorem past_launchKept (hk : s.th.kept = []) : s.past.th.launchKept = none := launchKept_none (by simpa using hk)

theorem launch_waits (hk : s.th.kept = []) (hw : s.past.launchWait (s.reg a) = some pk) :
    Parks (.launch h d a b m) s s.past pk := fun hs =>
  native_park hs (by
    obtain ⟨-, -, -, -, -, -, -, hheld, -, -⟩ := clear_cases hs
    simp only [past_arg hheld, past_launchKept hk, hw])

theorem launch_nested (hk : s.th.kept = []) (hw : s.past.launchWait (s.reg a) = none)
    (hb : s.past.launchBytes s.past.who (s.reg a) = .error (.nested tr)) :
    s.clear (.launch h d a b m) = true → exec (.launch h d a b m) s = .next (s.trapNow tr) :=
  traps_of_trap rfl fun hh => by simp only [past_arg hh, past_launchKept hk, hw, hb]

theorem launch_status (hk : s.th.kept = []) (hw : s.past.launchWait (s.reg a) = none)
    (hb : s.past.launchBytes s.past.who (s.reg a) = .error (.status n)) :
    Completes (.launch h d a b m) s ((s.past.launchKeeps (s.reg a) [word n] []).answerTwo d 0 (word n)) := fun hs =>
  native_done hs (by
    obtain ⟨-, -, -, -, -, -, -, hheld, -, -⟩ := clear_cases hs
    have hroom := clear_room hs rfl
    simp only [past_arg hheld, past_launchKept hk, hw, hb]
    refine (if_neg (by simpa using hroom)).trans rfl)

/-- A `launch` whose reads succeed goes on from what it has read. -/
theorem launch_reads (hk : s.th.kept = []) (hw : s.past.launchWait (s.reg a) = none)
    (hb : s.past.launchBytes s.past.who (s.reg a) = .ok bs) (hs : s.clear (.launch h d a b m) = true) :
    let q := s.past.launchKeeps (s.reg a) [0] [.got bs.1 false, .got bs.2 false]
    exec (.launch h d a b m) s =
      .next ((q.launchFrom d (s.reg a) (s.reg b) (.inr bs)).outcome s (.launch h d a b m)) := by
  obtain ⟨-, -, -, -, -, -, -, hheld, -, -⟩ := clear_cases hs
  have hroom := clear_room hs rfl
  refine (native_clear _ hs).trans (congrArg (fun r : Res => Host.Outcome.next (r.outcome s (.launch h d a b m))) ?_)
  simp only [past_arg hheld, past_launchKept hk, hw, hb]
  exact (if_neg (by simpa using hroom)).trans rfl

/-- The two states in which a `launch` decides, after its reads and as it goes on, look like the one in which it began. -/
theorem sameLaunch_reads (s : State) (xa : Word) (k : List Word) (t : List Seen) :
    s.SameLaunch (s.past.launchKeeps xa k t) := (sameLaunch_past s).trans (sameLaunch_keeps s.past xa k t)

theorem launch_queueFull (hk : s.th.kept = []) (hw : s.past.launchWait (s.reg a) = none)
    (hb : s.past.launchBytes s.past.who (s.reg a) = .ok bs) (ho : s.launchOf s.th.asid bs = .ok (r, e, ms))
    (hf : s.queueFull (s.reg a)) :
    Parks (.launch h d a b m) s (s.past.launchKeeps (s.reg a) [0] [.got bs.1 false, .got bs.2 false])
      (.launchQueue ((s.reg a).toNat % 16)) := fun hs => by
  have hq := sameLaunch_reads s (s.reg a) [0] [.got bs.1 false, .got bs.2 false]
  rw [launch_reads hk hw hb hs, launchFrom_ok (by rw [hq.launchOf, hq.asid, ho]), makeLaunch_queueFull ((hq.queueFull _).mpr hf)]
  rfl

theorem launch_tableFull (hk : s.th.kept = []) (hw : s.past.launchWait (s.reg a) = none)
    (hb : s.past.launchBytes s.past.who (s.reg a) = .ok bs) (ho : s.launchOf s.th.asid bs = .ok (r, e, ms))
    (hf : ¬s.queueFull (s.reg a)) (hn : s.myCtx.freeEntry = none) :
    Parks (.launch h d a b m) s (s.past.launchKeeps (s.reg a) [0] [.got bs.1 false, .got bs.2 false])
      .launchTable := fun hs => by
  have hq := sameLaunch_reads s (s.reg a) [0] [.got bs.1 false, .got bs.2 false]
  rw [launch_reads hk hw hb hs, launchFrom_ok (by rw [hq.launchOf, hq.asid, ho]),
    makeLaunch_tableFull (mt (hq.queueFull _).mp hf) (by rw [hq.myCtx, hn])]
  rfl

theorem launch_enters (hk : s.th.kept = []) (hw : s.past.launchWait (s.reg a) = none)
    (hb : s.past.launchBytes s.past.who (s.reg a) = .ok bs) (ho : s.launchOf s.th.asid bs = .ok (r, e, ms))
    (hf : ¬s.queueFull (s.reg a)) (hn : s.myCtx.freeEntry = some n) :
    let q := s.past.launchKeeps (s.reg a) [0] [.got bs.1 false, .got bs.2 false]
    Completes (.launch h d a b m) s (q.enterAndAnswer s.th.asid d (s.reg a) (s.reg b) r e ms n) := fun hs => by
  have hq := sameLaunch_reads s (s.reg a) [0] [.got bs.1 false, .got bs.2 false]
  rw [launch_reads hk hw hb hs, launchFrom_ok (by rw [hq.launchOf, hq.asid, ho]),
    makeLaunch_enters (mt (hq.queueFull _).mp hf) (by rw [hq.myCtx, hn]), hq.asid]
  rfl

/-! What a `launch` has kept over a park is what it goes on from. -/

theorem launch_goesOn_enters (hk : s.th.kept = [0]) (ht : s.th.trace = [.got bs.1 false, .got bs.2 false])
    (ho : s.launchOf s.th.asid bs = .ok (r, e, ms)) (hf : ¬s.queueFull (s.past.arg a))
    (hn : s.myCtx.freeEntry = some n) :
    Resumes (.launch h d a b m) s (s.past.enterAndAnswer s.th.asid d (s.past.arg a) (s.past.arg b) r e ms n) :=
  resumes_of_done rfl (by
    have hp := sameLaunch_past s
    simp only [launchKept_bytes (t := s.past.th) (by simpa using hk) (by simpa using ht)]
    rw [launchFrom_ok (by rw [hp.launchOf, hp.asid, ho]),
      makeLaunch_enters (mt (hp.queueFull _).mp hf) (by rw [hp.myCtx, hn]), hp.asid])

theorem launch_goesOn_misfit (hk : s.th.kept = [0]) (ht : s.th.trace = [.got bs.1 false, .got bs.2 false])
    (ho : s.launchOf s.th.asid bs = .error (.status n)) :
    Resumes (.launch h d a b m) s (s.past.answerTwo d 0 (word n)) :=
  resumes_of_done rfl (by
    have hp := sameLaunch_past s
    simp only [launchKept_bytes (t := s.past.th) (by simpa using hk) (by simpa using ht)]
    rw [launchFrom_status (by rw [hp.launchOf, hp.asid, ho])])

theorem launch_goesOn_status (hk : s.th.kept = [word n]) (ht : s.th.trace = []) :
    Resumes (.launch h d a b m) s (s.past.answerTwo d 0 (word n)) :=
  resumes_of_done rfl (by
    simp only [launchKept_status (t := s.past.th) (by simpa using hk) (by simpa using ht)]
    show Res.done (s.past.answerTwo d 0 (word (word n).toNat)) = _
    rw [word, word, BitVec.ofNat_toNat, BitVec.setWidth_eq])

end Launch

/-! ### `lwait` and `lstat` (R42, R235) -/

section Wait
variable {s : State} {h : Hdr} {d a : Opnd} {m : MB} {l : Launch}

theorem past_launch? (s : State) (w : Word) : s.past.myCtx.launch? w = s.myCtx.launch? w := by
  rw [past_eq, advance_myCtx]

theorem lwait_unknown (hl : s.myCtx.launch? (s.reg a) = none) :
    Completes (.lwait h d a m) s (s.past.later [.reg d] [.reg d 3]) :=
  completes_of_done rfl fun hh => by simp only [past_arg hh, past_launch?, hl]

theorem lwait_completed (hl : s.myCtx.launch? (s.reg a) = some l) (hst : l.state = .completed) :
    Completes (.lwait h d a m) s (s.past.later [.reg d] [.reg d (word l.status)]) :=
  completes_of_done rfl fun hh => by simp only [past_arg hh, past_launch?, hl, if_pos hst]

/-- A launch under way is waited for: one that is not deferred, or that has its quota unit. -/
theorem lwait_awaits (hl : s.myCtx.launch? (s.reg a) = some l) (hst : l.state ≠ .completed)
    (hu : l.state ≠ .deferred ∨ l.quota = true) :
    Completes (.lwait h d a m) s (s.past.awaitLaunch (s.reg a) d) :=
  completes_of_done rfl fun hh => by
    have hd : ¬(l.state = .deferred ∧ (!l.quota) = true) := by
      rintro ⟨h1, h2⟩
      simp_all
    simp only [past_arg hh, past_launch?, hl, if_neg hst, if_neg hd]

/-! A deferred launch without a unit is donated to, once that has followed what it must and the thread has drained (R42). -/

theorem deferred_tests (hst : l.state = .deferred) (hu : l.quota = false) :
    ¬l.state = .completed ∧ (l.state = .deferred ∧ (!l.quota) = true) := by
  simp [hst, hu]

theorem lwait_follows (hl : s.myCtx.launch? (s.reg a) = some l) (hst : l.state = .deferred) (hu : l.quota = false)
    (ha : s.past.allDone l.after = false) : Parks (.lwait h d a m) s s.past (.ids l.after) := fun hs =>
  native_park hs (by
    obtain ⟨-, -, -, -, -, -, -, hheld, -, -⟩ := clear_cases hs
    obtain ⟨hc, hd⟩ := deferred_tests hst hu
    simp only [past_arg hheld, past_launch?, hl, if_neg hc, if_pos hd, ha, Bool.not_false, if_true])

theorem lwait_drains (hl : s.myCtx.launch? (s.reg a) = some l) (hst : l.state = .deferred) (hu : l.quota = false)
    (ha : s.past.allDone l.after = true) (hdr : s.past.drained s.cur = false) :
    Parks (.lwait h d a m) s s.past .drain := fun hs =>
  native_park hs (by
    obtain ⟨-, -, -, -, -, -, -, hheld, -, -⟩ := clear_cases hs
    obtain ⟨hc, hd⟩ := deferred_tests hst hu
    simp only [past_arg hheld, past_launch?, hl, if_neg hc, if_pos hd, ha, Bool.not_true, Bool.false_eq_true, if_false]
    exact if_neg (by simpa using hdr))

theorem lwait_donates (hl : s.myCtx.launch? (s.reg a) = some l) (hst : l.state = .deferred) (hu : l.quota = false)
    (ha : s.past.allDone l.after = true) (hdr : s.past.drained s.cur = true) :
    Completes (.lwait h d a m) s
      ((s.past.awaitLaunch (s.reg a) d).donate (s.reg a) (s.past.ownUnit s.cur)) :=
  completes_of_done rfl fun hh => by
    obtain ⟨hc, hd⟩ := deferred_tests hst hu
    simp only [past_arg hh, past_launch?, hl, if_neg hc, if_pos hd, ha, Bool.not_true, Bool.false_eq_true, if_false]
    exact if_pos hdr

/-- The word that `lstat` answers of what it finds. -/
theorem lstat_body (hh : s.th.held = none) :
    Res.done (s.past.later [.reg d] [.reg d (lstatWord (s.past.myCtx.launch? (s.past.arg a)))]) =
      .done (s.past.later [.reg d] [.reg d (lstatWord (s.myCtx.launch? (s.reg a)))]) := by
  rw [past_arg hh, past_launch?]

theorem lstat_completes : Completes (.lstat h d a m) s
    (s.past.later [.reg d] [.reg d (lstatWord (s.myCtx.launch? (s.reg a)))]) :=
  completes_of_done rfl lstat_body

theorem lstat_waits_room (hs : s.begins (.lstat h d a m) = true) (hfull : 16 ≤ s.th.outst.length) :
    exec (.lstat h d a m) s = .next (s.parkBody s (.lstat h d a m) s.th.pc .room) :=
  native_waits_room hs rfl hfull lstat_body

end Wait

/-! ### Entering a launch in the table (R41, R235) -/

section Enter
variable {s : State} {asid n q : Nat} {r : Record} {e : Entry} {ms : List Nat} {arg : Word} {hst : Bool}
  {f : Option (Word × Bool)} {after : List Need}

/-- The launch that is entered: deferred without a quota unit, unless the host makes it. -/
def State.newLaunch (s : State) (asid n q : Nat) (r : Record) (e : Entry) (ms : List Nat) (arg : Word) (hst : Bool)
    (f : Option (Word × Bool)) (after : List Need) : Launch :=
  ⟨word (((s.ctx asid).seq + 1) * 4096 + n), q, r.cls, r.cc, r.levels, e, ms, arg,
    if !s.unitFree asid && !hst then .deferred else .queued, 0, false, s.unitFree asid, none, hst, [], [], f, [], after, none⟩

/-- The table with the launch in its entry. -/
def Ctx.withLaunch (c : Ctx) (n : Nat) (l : Launch) (deferred : Bool) : Ctx :=
  { c with
    seq := c.seq + 1, launches := (c.launches.filter fun x => bits x.handle 11 0 != n) ++ [l],
    overflow := if deferred then c.overflow ++ [l.handle] else c.overflow }

theorem enterLaunch_answers : (s.enterLaunch asid n q r e ms arg hst f after).2 =
    (word (((s.ctx asid).seq + 1) * 4096 + n), !s.unitFree asid && !hst) := rfl

/-- Only the context changes, and a deferred launch is counted (R408). -/
theorem enterLaunch_state : (s.enterLaunch asid n q r e ms arg hst f after).1 =
    let z := s.setCtx asid
      ((s.ctx asid).withLaunch n (s.newLaunch asid n q r e ms arg hst f after) (!s.unitFree asid && !hst))
    if !s.unitFree asid && !hst then z.count asid 0x051 else z := rfl

theorem enterLaunch_frame :
    let z := (s.enterLaunch asid n q r e ms arg hst f after).1
    z.mem = s.mem ∧ z.threads = s.threads ∧ z.ctx asid =
      (s.ctx asid).withLaunch n (s.newLaunch asid n q r e ms arg hst f after) (!s.unitFree asid && !hst) := by
  rw [enterLaunch_state]
  dsimp only
  split
  · exact ⟨rfl, rfl, ctx_setCtx ..⟩
  · exact ⟨rfl, rfl, ctx_setCtx ..⟩

end Enter

theorem enterLaunch_enters (s : State) (asid n q : Nat) (r : Record) (e : Entry) (ms : List Nat) (arg : Word) (hst : Bool)
    (f : Option (Word × Bool)) (after : List Need) :
    let x := s.enterLaunch asid n q r e ms arg hst f after
    x.2.1 = word (((s.ctx asid).seq + 1) * 4096 + n) ∧ (x.2.2 = true ↔ s.unitFree asid = false ∧ hst = false) ∧
    (x.1.ctx asid).seq = (s.ctx asid).seq + 1 ∧ x.1.mem = s.mem ∧ x.1.threads = s.threads ∧
    ∃ l : Launch, (x.1.ctx asid).launches = ((s.ctx asid).launches.filter fun y => bits y.handle 11 0 != n) ++ [l] ∧
      l.handle = x.2.1 ∧ l.arg = arg ∧ l.cls = r.cls ∧ l.after = after ∧ (l.state = .deferred ↔ x.2.2 = true) ∧
      (l.state = .queued ↔ x.2.2 = false) := by
  intro x
  obtain ⟨hmem, hthreads, hctx⟩ := enterLaunch_frame (s := s) (asid := asid) (n := n) (q := q) (r := r) (e := e) (ms := ms)
    (arg := arg) (hst := hst) (f := f) (after := after)
  have hd : x.2.2 = (!s.unitFree asid && !hst) := rfl
  have hstate : (s.newLaunch asid n q r e ms arg hst f after).state = if x.2.2 then .deferred else .queued := rfl
  refine ⟨rfl, by simp [hd], by rw [hctx]; rfl, hmem, hthreads, s.newLaunch asid n q r e ms arg hst f after,
    by rw [hctx]; rfl, rfl, rfl, rfl, rfl, ?_, ?_⟩
  · rw [hstate]
    cases x.2.2 <;> simp
  · rw [hstate]
    cases x.2.2 <;> simp

/-- The queue is full as the statement says it: quota units do not depend on the pc. -/
theorem queueFull_iff (s : State) (xa : Word) :
    s.queueFull xa ↔ s.past.unitFree s.th.asid = true ∧ 256 ≤ s.myCtx.inQueue (xa.toNat % 16) := by
  rw [(sameLaunch_past s).unitFree]
  rfl

/-- Settles O39: `launch` by what its reads give and by what the table then has room for, in its issue turn or as it goes on;
`lwait` and `lstat` by the launch that the handle finds; and what entering a launch does. That donation waits for what the
launch follows and for the drain is the model's choice (log 46). -/
theorem launches : Obligations.Launches := by
  unfold Obligations.Launches
  refine ⟨fun s h d a b m r e ms bs n l tr pk => ⟨fun hk => ?reads, fun hk ht => ?goesOn, launch_goesOn_status,
    lwait_unknown, lwait_completed, fun hl hst => ?underWay, fun hl hst hu => ?hasUnit, lwait_follows, lwait_drains,
    lwait_donates, lstat_waits_room, ?stat⟩, enterLaunch_enters⟩
  case reads =>
    refine ⟨launch_waits hk, fun hw => launch_nested hk hw, fun hw => launch_status hk hw, fun hw hb ho => ?_⟩
    rw [(sameLaunch_past s).launchOf] at ho
    simp only [← queueFull_iff]
    exact ⟨launch_queueFull hk hw hb ho, launch_tableFull hk hw hb ho, launch_enters hk hw hb ho⟩
  case goesOn =>
    simp only [(sameLaunch_past s).launchOf, ← queueFull_iff]
    exact ⟨launch_goesOn_enters hk ht, launch_goesOn_misfit hk ht⟩
  case underWay =>
    rcases hst with hst | hst
    · exact lwait_awaits hl (by simp [hst]) (.inl (by simp [hst]))
    · exact lwait_awaits hl (by simp [hst]) (.inl (by simp [hst]))
  case hasUnit => exact lwait_awaits hl (by simp [hst]) (.inr hu)
  case stat => exact lstat_completes

end Sys2Proof.Machine
end

section
/-! PROOFS. What happens to threads by itself (R22, R26, R34, R219, R222, R236, R277, R336, R359): when each event can happen,
and what it does then. -/

namespace Sys2Proof.Machine

section Events
variable {s : State} {t o c n u : Nat} {r : Outst} {tr : Trap} {prec : Bool} {m : Nat × Word × Word}

/-! ### When an event can happen -/

theorem canEnterTrap_iff : s.canEnterTrap t = true ↔
    has s.threads t = true ∧ s.drained t = true ∧ ∃ tr prec, (s.thread t).park = .trap tr prec := by
  unfold State.canEnterTrap
  cases (s.thread t).park <;> simp

theorem slept_iff {now : Word} : r.slept now = true ↔ ∃ v, r.fin = .sleep v ∧ 0 ≤ (now - v).toInt := by
  unfold Outst.slept
  cases r.fin <;> simp [geMod]

theorem canSleepWake_iff : s.canSleepWake t = true ↔
    has s.threads t = true ∧ ∃ r ∈ (s.thread t).outst, ∃ v, r.fin = .sleep v ∧ 0 ≤ (s.now - v).toInt := by
  simp [State.canSleepWake, slept_iff]

theorem canExpire_iff : s.canExpire t = true ↔ ∃ x ∈ s.resv, x.owner = .thread t ∧ 4096 ≤ x.age := by
  simp only [State.canExpire, List.any_eq_true, Bool.and_eq_true, beq_iff_eq, decide_eq_true_eq]
  exact Iff.rfl

theorem canArrive_of_moving (ht : has s.threads t = true) (hp : (s.thread t).place = .moving c) :
    s.canArrive t = true := by
  simp [State.canArrive, ht, hp]

/-! ### What it does -/

theorem longResultReturn_next (hc : s.canReturn t o = true)
    (hr : (s.thread t).outst.find? (fun r => r.id == o) = some r) :
    exec (.longResultReturn t o) s = .next (s.returnResult t r) := by
  show execLongResultReturn t o s = _
  simp only [execLongResultReturn, if_pos hc, hr]

theorem longResultReturn_idle (hc : s.canReturn t o = false) : exec (.longResultReturn t o) s = .next s :=
  congrArg _ (if_neg (by simp [hc]))

theorem trapEntry_next (ht : has s.threads t = true) (hd : s.drained t = true)
    (hp : (s.thread t).park = .trap tr prec) :
    exec (.trapEntry t) s = .next (s.takeTrap t tr prec (s.thread t).pc) := by
  show execTrapEntry t s = _
  simp only [execTrapEntry, if_pos (canEnterTrap_iff.mpr ⟨ht, hd, tr, prec, hp⟩), hp]

theorem trapEntry_idle (hd : s.drained t = false) : exec (.trapEntry t) s = .next s :=
  congrArg _ (if_neg (by simp [canEnterTrap_iff, hd]))

/-- The first sleeper of a thread whose target has passed receives NOW (R222). -/
theorem sleepWake_next (ht : has s.threads t = true) (hr : r ∈ (s.thread t).outst)
    (hs : ∃ v, r.fin = .sleep v ∧ 0 ≤ (s.now - v).toInt) :
    exec (.sleepWake t) s = .next (s.onThread t fun h => { h with
      outst := modFirst (Outst.slept s.now) (fun o => { o with need := 0, fin := .done [.reg o.dreg s.now] }) h.outst }) :=
  congrArg _ (if_pos (canSleepWake_iff.mpr ⟨ht, r, hr, hs⟩))

theorem sleepWake_idle (hr : ∀ r ∈ (s.thread t).outst, ∀ v, r.fin = .sleep v → (s.now - v).toInt < 0) :
    exec (.sleepWake t) s = .next s := by
  refine congrArg _ (if_neg fun hc => ?_)
  obtain ⟨-, r, hmem, v, hv, hle⟩ := canSleepWake_iff.mp hc
  exact absurd (hr r hmem v hv) (Int.not_lt.mpr hle)

theorem tensorPendingWake_next (hc : s.canTensorWake t = true) :
    exec (.tensorPendingWake t) s = .next (s.onThread t fun h => { h with park := .run }) :=
  congrArg _ (if_pos hc)

theorem tensorPendingWake_idle (hc : s.canTensorWake t = false) : exec (.tensorPendingWake t) s = .next s :=
  congrArg _ (if_neg (by simp [hc]))

theorem migrationArrival_next (ht : has s.threads t = true) (hp : (s.thread t).place = .moving c) :
    exec (.migrationArrival t) s = .next (s.land t) :=
  congrArg _ (if_pos (canArrive_of_moving ht hp))

theorem placement_queues (hp : s.placeFor t = some c) :
    exec (.restoredThreadPlacement t) s = .next (s.enqueue t c) :=
  congrArg Host.Outcome.next (show s.placeThread t = _ by simp only [State.placeThread, hp])

theorem placement_takes (hp : s.placeFor t = none) (hc : s.canTakeSlot t = true) :
    exec (.restoredThreadPlacement t) s = .next
      (s.take (s.thread t).asid (s.thread t).cc (s.thread t).core (s.thread t).slot (.thread t)) :=
  congrArg Host.Outcome.next (show s.placeThread t = _ by simp only [State.placeThread, hp, if_pos hc])

theorem inboxToMailbox_next (hi : s.inboxTo c n = some (u, m)) :
    exec (.inboxToMailbox c n) s = .next ((s.onCtx c fun x => { x with inbox := x.inbox.eraseIdx n }).onThread u
      fun h => { h with mail := h.mail ++ [m.2] }) := by
  show execInboxToMailbox c n s = _
  simp only [execInboxToMailbox, hi]

theorem inboxToMailbox_idle (hi : s.inboxTo c n = none) : exec (.inboxToMailbox c n) s = .next s := by
  show execInboxToMailbox c n s = _
  simp only [execInboxToMailbox, hi]

theorem reservationExpiry_next (hx : ∃ x ∈ s.resv, x.owner = .thread t ∧ 4096 ≤ x.age) :
    exec (.reservationExpiry t) s = .next (s.endResv (.thread t)) :=
  congrArg _ (if_pos (canExpire_iff.mpr hx))

theorem reservationExpiry_idle (hx : ∀ x ∈ s.resv, x.owner = .thread t → x.age < 4096) :
    exec (.reservationExpiry t) s = .next s := by
  refine congrArg _ (if_neg fun hc => ?_)
  obtain ⟨x, hmem, ho, hage⟩ := canExpire_iff.mp hc
  exact absurd (hx x hmem ho) (Nat.not_lt.mpr hage)

end Events

/-- Settles O56: an event is its effect where it can happen, which `canReturn` and its like say, and else nothing. -/
theorem threadEvents : Obligations.ThreadEvents := by
  unfold Obligations.ThreadEvents
  intro s t o c n u r tr prec m
  exact ⟨longResultReturn_next, longResultReturn_idle, trapEntry_next, trapEntry_idle, sleepWake_next, sleepWake_idle,
    tensorPendingWake_next, tensorPendingWake_idle, migrationArrival_next, placement_queues, placement_takes,
    inboxToMailbox_next, inboxToMailbox_idle, reservationExpiry_next, reservationExpiry_idle⟩

end Sys2Proof.Machine
end

section
/-! PROOFS. A step of the module: what the thread that has the turn fetches and runs (R109, R110, R131, R141, R282), and which
thread that is (R19). -/

namespace Sys2Proof.Machine

/-! ### Whatever the instruction, it goes on to a next state -/

theorem bytecode_next {s : State} (i : Instr) (body : TM Unit) (h : has s.threads s.cur = true) :
    ∃ t, bytecode i body s = .next t := by
  unfold bytecode
  rw [h]
  cases s.th.outst.isEmpty with
  | false => exact ⟨_, rfl⟩
  | true =>
    cases tRun (fun q => body (q.advance (codeBytes i))) s.nextBurst s.spent with
    | fin d => exact ⟨_, rfl⟩
    | stop e q => exact ⟨_, rfl⟩
    | more q => exact ⟨_, rfl⟩

theorem crEvent_next {s : State} (n : BitVec 12) (v : Word) (h : has s.threads s.cur = true) :
    ∃ t, crEvent n v s = .next t := ⟨_, if_pos h⟩

/-- A native function, a bytecode and a register write go on for a thread that issues them; an event always does. -/
theorem exec_next {s : State} (i : Instr) (h : has s.threads s.cur = true) : ∃ t, exec i s = .next t :=
  match i with
  | .add .. | .sub .. | .mul .. | .mulh .. | .div .. | .rem .. | .and .. | .or .. | .xor .. | .andn .. | .shl .. | .shr ..
  | .sra .. | .rot .. | .min .. | .max .. | .clz .. | .ctz .. | .popc .. | .bswap .. | .sel .. | .mov .. | .abs ..
  | .ext .. | .ins .. | .fadd .. | .fsub .. | .fmul .. | .ffma .. | .fdiv .. | .fmin .. | .fmax .. | .fcvt .. | .fsqrt ..
  | .addi .. | .andi .. | .ori .. | .xori .. | .shli .. | .shri .. | .srai .. | .movi .. | .movh .. | .muli .. | .cmp ..
  | .cmpi .. | .pand .. | .por .. | .pxor .. | .pnot .. | .pmov .. | .fcmp .. | .br .. | .jmp .. | .call .. | .callr ..
  | .ret .. | .loop .. | .trap .. | .gatedServiceCall .. | .brk .. | .nop .. | .exit .. | .uret .. | .ld .. | .st ..
  | .pf .. | .fence .. | .ifence .. | .icsync .. | .atom .. | .ldfe .. | .stfe .. | .fset .. | .fget .. | .waita ..
  | .mon .. | .monrel .. | .time .. | .sleep .. | .yield .. | .vadd .. | .vsub .. | .vmul .. | .vfma .. | .vmin ..
  | .vmax .. | .vabs .. | .vneg .. | .vexp2 .. | .vlog2 .. | .vrcp .. | .vrsq .. | .vand .. | .vor .. | .vxor .. | .vsh ..
  | .vcmp .. | .vsel .. | .vred .. | .vbcast .. | .vperm .. | .vcvt .. | .vscale .. | .vmov .. | .setshape .. | .vld ..
  | .vst .. | .vgather .. | .vscatter .. | .vact .. | .oclaim .. | .orel .. | .tld .. | .tfill .. | .mzero .. | .manch ..
  | .mma .. | .mdrain .. | .rowout .. | .rowend .. | .mstat .. | .sld .. | .sst .. | .sadd .. | .smax .. | .smin ..
  | .sreblk .. | .smov .. | .sbind .. | .squery .. | .sfree .. | .sset .. | .fork .. | .tend .. | .joinw .. | .barr ..
  | .bwait .. | .bmiss .. | .bcfg .. | .migrate .. | .nomad .. | .homeq .. | .xfer .. | .shadow .. | .publish ..
  | .npost .. | .nrecv .. | .launch .. | .lwait .. | .lstat .. | .cmsg .. | .mrecv .. | .stepcfg .. | .stepend ..
  | .ldstep .. | .stepaddr .. | .stepq .. | .cut .. | .mfcr .. | .mtcr .. | .eret .. | .tsave .. | .tload .. | .tswap ..
  | .repart .. | .tlbinv .. | .cacheop .. | .sigpost .. | .ctxnew .. | .ctxgrant .. | .ctxrevoke .. | .ctxrun ..
  | .ctxstop .. | .ctxevt .. | .ctxreset .. | .ctxfree .. | .ctxstat .. =>
    native_next _ _ h
  | .tNop | .tMove .. | .tLoadk .. | .tLoadi .. | .tLoadc .. | .tGetg .. | .tSetg .. | .tGetattr .. | .tSetattr ..
  | .tGetitem .. | .tSetitem .. | .tBinop .. | .tUnop .. | .tCompare .. | .tJmp .. | .tJt .. | .tJf .. | .tCall ..
  | .tCallm .. | .tRet .. | .tMkarr .. | .tMkmap .. | .tMkfunc .. | .tGetcell .. | .tSetcell .. | .tForprep ..
  | .tForloop .. | .tIter .. | .tNext .. | .tRaise .. | .tTryb .. | .tTryend .. | .tNative .. | .tAwait ..
  | .tDel .. | .tLen .. | .tIsinst .. | .tHalt .. =>
    bytecode_next _ _ h
  | .tImport a b => bytecode_next (.tImport a b) (tGuard 5 0 0) h
  | .bfmtWrite .. | .stepCounterWrite .. | .depcfgWrite .. | .delegWrite .. | .pcntWrite .. | .salcfgWrite ..
  | .vfctlWrite .. | .cxlwinWrite .. | .registerWrite .. =>
    crEvent_next _ _ h
  | .tensorPendingWake .. | .fastPathCompletion .. | .longResultReturn .. | .homeAccessPerformed ..
  | .reservationExpiry .. | .restoredThreadPlacement .. | .sleepWake .. | .cxlAccessComplete .. | .longLat ..
  | .trapEntry .. | .migrationArrival .. | .inboxToMailbox .. | .engineCommandAccept .. | .engineOperationComplete ..
  | .publishFlip .. | .mmaAccumulation .. | .mdrainReadout .. | .launchAdmit .. | .leafStart .. | .launchRepartition ..
  | .geyserPacketSend .. | .geyserPacketArrival .. | .geyserAckArrival .. | .geyserRetransmitTimeout ..
  | .geyserRefusal .. | .geyserConnectionFailure .. | .stepAdvance .. | .beaconArrival .. | .stepcfgPairing ..
  | .leavingBeaconArrival .. | .cutMarkerArrival .. | .cutHold .. | .releaseMarkerArrival .. | .stepStall ..
  | .heldEventPost .. | .counterEventDelivery .. | .serviceReply .. | .csrWindowStore .. | .hostQueueWrite ..
  | .functionLevelReset .. | .attestationRequest .. | .linkLaneFailure .. | .powerLimit | .coolingFailure
  | .nowForwardStep .. | .bringUp .. | .uncorrectableMemoryData .. | .unsupportedRequest .. =>
    ⟨_, rfl⟩

/-! ### Words of code -/

/-- The words after the one at the pc, which is `d` bytes long, are fetched (R109). -/
def State.withAhead (q : State) (d : Word) : State := State.fetchAhead q.ahead (q.th.pc + d) q

section Fetch
variable {z q r : State} {w v : Word} {i : Instr} {e : DecodeError}

/-! A native word: an instruction, the never word, or none (R131, R141). -/

theorem fetchNative_instr (hw : z.codeWord z.th.pc = .got q w) (hn : isNever w = false) (hi : decodeNative w = .ok i) :
    z.fetchNative = .instr (q.withAhead 8) i := by
  simp only [State.fetchNative, hw, hn, hi, Bool.false_eq_true, if_false]
  rfl

theorem fetchNative_never (hw : z.codeWord z.th.pc = .got q w) (hn : isNever w = true) :
    z.fetchNative = .never (q.withAhead 8) := by
  simp only [State.fetchNative, hw, hn, if_true]
  rfl

theorem fetchNative_illegal (hw : z.codeWord z.th.pc = .got q w) (hn : isNever w = false)
    (he : decodeNative w = .error e) : z.fetchNative = .trap (q.withAhead 8) (.of .illegalOp w) := by
  simp only [State.fetchNative, hw, hn, he, Bool.false_eq_true, if_false]
  rfl

/-! A bytecode of one word, or of two where the first names an inline-cache site (R282, R283). -/

theorem fetchTephra_one (hw : z.codeWord z.th.pc = .got q w) (hb : icBearing (w.setWidth 32) = false) :
    z.fetchTephra = (q.withAhead 4).decodeCode w 0 := by
  simp only [State.fetchTephra, hw, hb, Bool.false_eq_true, if_false]
  rfl

theorem fetchTephra_two (hw : z.codeWord z.th.pc = .got q w) (hb : icBearing (w.setWidth 32) = true)
    (hv : q.codeWord (q.th.pc + 4) = .got r v) : z.fetchTephra = (r.withAhead 8).decodeCode w v := by
  simp only [State.fetchTephra, hw, hb, hv, if_true]
  rfl

theorem decodeCode_instr (hi : decodeTephra (w.setWidth 32) (v.setWidth 32) = .ok i) : q.decodeCode w v = .instr q i := by
  simp only [State.decodeCode, hi]

/-- TYPE names the word that fails: the second one where the first could begin a bytecode. -/
theorem decodeCode_type (he : decodeTephra (w.setWidth 32) (v.setWidth 32) = .error e) :
    q.decodeCode w v = .trap q (.of .type (if (decodeTephra (w.setWidth 32) 0).isOk then v else w)) := by
  simp only [State.decodeCode, he]
  cases decodeTephra (w.setWidth 32) 0 <;> rfl

end Fetch

/-! ### The turn of a thread -/

section Turn
variable {s q : State} {u c : Nat} {i : Instr} {t : Trap}

/-- Thread `u` takes its turn in cycle `c`: it resumes. -/
def State.turnStart (s : State) (u c : Nat) : State :=
  State.setTh { s with cur := u } { (s.thread u).resume with last := c + 1 }

theorem trimBuf_th (s : State) : s.trimBuf.th = { s.th with buf := s.trimBuf.th.buf } := by
  simp only [State.trimBuf, th_setTh]

theorem fetchNext_native (ht : s.trimBuf.th.tephra = false) : s.fetchNext = s.trimBuf.fetchNative := by
  rw [trimBuf_th] at ht
  have ht' : s.th.tephra = false := ht
  simp [State.fetchNext, State.firstBytecode, ht']

theorem fetchNext_tephra (ht : s.trimBuf.th.tephra = true) (hf : s.trimBuf.th.startFault = 0) :
    s.fetchNext = s.trimBuf.fetchTephra := by
  rw [trimBuf_th] at ht hf
  have ht' : s.th.tephra = true := ht
  have hf' : s.th.startFault = 0 := hf
  simp [State.fetchNext, State.firstBytecode, ht', hf']

/-- What a thread's turn makes of what it has fetched. -/
def Fetched.issued : Fetched → Host.Outcome State Fault Refusal
  | .instr q i => exec i q
  | .never q => .next (((q.advance 8).counted q.th.cc q.th.asid).finish q.th.pc false false)
  | .trap q t => .next (if t.decodes && !q.th.cc then q.trapNow t else q.raise q.cur t true)
  | .guard q site => .next (q.guardEnter q.th.pc 6 0 site)
  | .wait q p => .next (q.parkAt q.th.pc p)

theorem issueTurn_eq (s : State) (u c : Nat) : s.issueTurn u c = (s.turnStart u c).fetchNext.issued := by
  show _ = Fetched.issued (State.fetchNext _)
  unfold State.issueTurn Fetched.issued
  rfl

/-- A word that is no instruction has been issued all the same (R408); a control core counts none. -/
theorem issued_trap (q : State) (ht : t.decodes = true) : (Fetched.trap q t).issued = .next (q.trapNow t) := by
  simp only [Fetched.issued, State.trapNow, State.counted, ht, Bool.true_and]
  cases q.th.cc <;> rfl

end Turn

/-- A native word at the pc (R131, R141): an instruction is run, the never word passes, any other word raises ILLEGAL_OP. -/
theorem issueTurn_native {s q : State} {u c : Nat} {w : Word} (ht : (s.turnStart u c).trimBuf.th.tephra = false)
    (hw : (s.turnStart u c).trimBuf.codeWord (s.turnStart u c).trimBuf.th.pc = .got q w) :
    (∀ i, isNever w = false → decodeNative w = .ok i → s.issueTurn u c = exec i (q.withAhead 8)) ∧
    (isNever w = true → s.issueTurn u c = .next
      ((((q.withAhead 8).advance 8).counted (q.withAhead 8).th.cc (q.withAhead 8).th.asid).finish
        (q.withAhead 8).th.pc false false)) ∧
    (∀ e, isNever w = false → decodeNative w = .error e →
      s.issueTurn u c = .next ((q.withAhead 8).trapNow (.of .illegalOp w))) := by
  simp only [issueTurn_eq, fetchNext_native ht]
  refine ⟨fun i hn hi => ?_, fun hn => ?_, fun e hn he => ?_⟩
  · rw [fetchNative_instr hw hn hi]
    rfl
  · rw [fetchNative_never hw hn]
    rfl
  · rw [fetchNative_illegal hw hn he]
    exact issued_trap _ rfl

/-- What is decoded of a bytecode's words (R283): an instruction is run, anything else raises TYPE. -/
theorem decodeCode_issued {q : State} {w v : Word} :
    (∀ i, decodeTephra (w.setWidth 32) (v.setWidth 32) = .ok i → (q.decodeCode w v).issued = exec i q) ∧
    (∀ e, decodeTephra (w.setWidth 32) (v.setWidth 32) = .error e → (q.decodeCode w v).issued =
      .next (q.trapNow (.of .type (if (decodeTephra (w.setWidth 32) 0).isOk then v else w)))) := by
  refine ⟨fun i hi => ?_, fun e he => ?_⟩
  · rw [decodeCode_instr hi]
    rfl
  · rw [decodeCode_type he]
    exact issued_trap _ rfl

theorem issueTurn_one {s q : State} {u c : Nat} {w : Word} (ht : (s.turnStart u c).trimBuf.th.tephra = true)
    (hf : (s.turnStart u c).trimBuf.th.startFault = 0)
    (hw : (s.turnStart u c).trimBuf.codeWord (s.turnStart u c).trimBuf.th.pc = .got q w)
    (hb : icBearing (w.setWidth 32) = false) :
    s.issueTurn u c = ((q.withAhead 4).decodeCode w 0).issued := by
  rw [issueTurn_eq, fetchNext_tephra ht hf, fetchTephra_one hw hb]

theorem issueTurn_two {s q r : State} {u c : Nat} {w v : Word} (ht : (s.turnStart u c).trimBuf.th.tephra = true)
    (hf : (s.turnStart u c).trimBuf.th.startFault = 0)
    (hw : (s.turnStart u c).trimBuf.codeWord (s.turnStart u c).trimBuf.th.pc = .got q w)
    (hb : icBearing (w.setWidth 32) = true) (hv : q.codeWord (q.th.pc + 4) = .got r v) :
    s.issueTurn u c = ((r.withAhead 8).decodeCode w v).issued := by
  rw [issueTurn_eq, fetchNext_tephra ht hf, fetchTephra_two hw hb hv]

/-! ### A word that is not in the buffer -/

theorem countedFrom_count {s q : State} (h : s.CountedFrom q) (a code : Nat) : s.CountedFrom (q.count a code) :=
  countedFrom_countN h a code 1

theorem countedFrom_countHome {s q : State} (h : s.CountedFrom q) (a : Nat) (hm : Home) (k : Nat) :
    s.CountedFrom (q.countHome a hm k) := by
  have hops : s.CountedFrom ((q.countN a 0x030 (Config.freeNat (q.free + 2 * k))).countN a 0x031
      (Config.freeNat (q.free + 2 * k + 1))) := countedFrom_countN (countedFrom_countN h ..) ..
  cases hm with
  | slice _ =>
    exact countedFrom_countN (countedFrom_countN (countedFrom_countN (countedFrom_count hops ..) ..) ..) ..
  | agent _ => exact countedFrom_countN (countedFrom_countN hops ..) ..
  | bank _ _ => exact hops
  | lpddr _ => exact hops
  | cxl _ => exact hops
  | peer _ => exact hops
  | csr _ => exact hops
  | net _ => exact hops

/-- No other home holds a line where no line is dirty (R376). -/
theorem rehome_clean {s : State} (hb : s.behind = []) (h : Home) (pa n : Nat) : s.rehome h pa n = s := by
  simp [State.rehome, hb]

/-- A read that is made at once of clean memory is counted, and no more. -/
theorem countedFrom_touch {s : State} (hb : s.behind = []) (h : Home) (va : Word) (pa n : Nat) :
    s.CountedFrom (s.touch h va pa n) := by
  have hc := countedFrom_countHome (countedFrom_refl s) s.th.asid h
    (s.newAcc (.thread s.cur) s.th.asid 0 0 h va pa n .load).id
  have e : s.touch h va pa n = _ := rehome_clean (hc.behind.trans hb) h pa n
  rw [e]
  exact hc

theorem buffered_append {t : Thread} {a v : Word} (h : t.buffered a = none) :
    Thread.buffered { t with buf := t.buf ++ [(a, v)] } a = some v := by
  simp only [Thread.buffered, Option.map_eq_none_iff] at h
  simp [Thread.buffered, List.find?_append, h]

/-- A word that is not in the buffer is read at its home, and enters the buffer (R109, R166). -/
theorem codeWord_reads {z : State} {a : Word} {t : Tr} (hbuf : z.th.buffered a = none) (hw : z.walkAfter a kFetch = [])
    (hc : z.check z.who a z.th.codeSize kFetch = .ok t)
    (hr : z.readsAtOnce (z.homeOf t.pa t.attr) t.pa z.th.codeSize) (hb : z.behind = [])
    (hp : z.isPoisoned t.pa z.th.codeSize = false) :
    ∃ x : State, z.codeWord a = .got x (word (fromBytes (z.bytes t.pa z.th.codeSize))) ∧
      x.th.buffered a = some (word (fromBytes (z.bytes t.pa z.th.codeSize))) ∧ x.th.pc = z.th.pc ∧ x.mem = z.mem := by
  let q := z.touch (z.homeOf t.pa t.attr) a t.pa z.th.codeSize
  let x := q.remember q.who a kFetch t
  let v := word (fromBytes (z.bytes t.pa z.th.codeSize))
  have hq : z.CountedFrom q := countedFrom_touch hb ..
  have hx : z.CountedFrom x := countedFrom_remember hq ..
  have hread : z.codeWord a = .got (x.setTh { x.th with buf := x.th.buf ++ [(a, v)] }) v := by
    unfold State.readsAtOnce at hr
    unfold State.codeWord
    simp only [hbuf, hw, hc, hr]
    show (if q.isPoisoned t.pa q.th.codeSize then _ else
      CodeWord.got (x.setTh { x.th with buf := x.th.buf ++ [(a, word (fromBytes (q.bytes t.pa q.th.codeSize)))] })
        (word (fromBytes (q.bytes t.pa q.th.codeSize)))) = _
    rw [hq.th, hq.isPoisoned, hp, hq.bytes]
    rfl
  refine ⟨_, hread, ?_, ?_, hx.mem⟩
  · rw [th_setTh, hx.th]
    exact buffered_append hbuf
  · rw [th_setTh, hx.th]

/-! ### Which thread has the turn (R19) -/

section Step
variable {s r : State} {k u : Nat} {b : Agent}

theorem step_acts (ha : s.agents ≠ []) (hc : s.choose s.agents = (r, some b)) :
    step s = onNext (r.act b) State.settle := by
  unfold step
  cases hl : s.agents with
  | nil => exact absurd hl ha
  | cons a l =>
    rw [hl] at hc
    simp only [hc]

/-- Where nothing can happen, time passes (log 8). -/
theorem step_idle (ha : s.agents = []) : step s = .next { s with now := s.now + 1 } := by
  unfold step
  rw [ha]

/-- The state in which a barrel core chooses: entries have taken their slots, and parked cycles are counted. -/
def State.served (s : State) (k : Nat) : State := (s.serveCore k).countParked k

theorem coreCycle_urgent (ht : (s.served k).turnAt k = .urgent u) : s.coreCycle k = (s.served k).slotTurn k u true := by
  unfold State.served at ht
  simp only [State.coreCycle, ht]
  rfl

theorem coreCycle_own (ht : (s.served k).turnAt k = .own u) : s.coreCycle k = (s.served k).slotTurn k u false := by
  unfold State.served at ht
  simp only [State.coreCycle, ht]
  rfl

theorem coreCycle_across (ht : (s.served k).turnAt k = .across u) : s.coreCycle k =
    ((s.served k).count ((s.served k).thread u).asid 0x002).slotTurn k u false := by
  unfold State.served at ht
  simp only [State.coreCycle, ht]
  rfl

theorem coreCycle_idle (ht : (s.served k).turnAt k = .idle) : s.coreCycle k = .next ((s.served k).tick k false) := by
  unfold State.served at ht
  simp only [State.coreCycle, ht]
  rfl

theorem controlTurn_picks (hp : s.controlPick k = some u) : s.controlTurn k =
    onNext (State.issueTurn { s with ccTurn := put s.ccTurn k ((s.thread u).slot + 1) } u (get 0 s.ccCycle k))
      (·.controlTick k) := by
  simp only [State.controlTurn, hp]

end Step

/-- Settles O4: the fetch decides what the turn's thread runs, the rotation decides whose turn it is, and every
instruction goes on to a next state. -/
theorem stepRunsInstruction : Obligations.StepRunsInstruction := by
  unfold Obligations.StepRunsInstruction
  intro s q r y u c k w v a i t e l
  refine ⟨fun ht hw => ?native, fun ht hf hw => ⟨fun hb => ?oneWord, fun hb hv => ?twoWords⟩, codeWord_reads,
    fun ha hc hy hcy => ?barrel, fun ha hc hp => ?control, fun ha hl => step_idle (ha.trans hl), exec_next⟩
  case native =>
    obtain ⟨hi, hn, he⟩ := issueTurn_native ht hw
    exact ⟨hi i, hn, he e⟩
  case oneWord =>
    obtain ⟨hi, he⟩ := decodeCode_issued (q := q.withAhead 4) (w := w) (v := 0)
    rw [issueTurn_one ht hf hw hb]
    refine ⟨hi i, fun hd => (he e hd).trans ?_⟩
    rw [hd]
    rfl
  case twoWords =>
    obtain ⟨hi, he⟩ := decodeCode_issued (q := r.withAhead 8) (w := w) (v := v)
    rw [issueTurn_two ht hf hw hb hv]
    exact ⟨hi i, he e⟩
  case barrel =>
    subst hy hcy
    have hs : step s = onNext (r.coreCycle k) State.settle := step_acts ha hc
    exact ⟨fun h => by rw [hs, coreCycle_urgent h]; rfl, fun h => by rw [hs, coreCycle_own h]; rfl,
      fun h => by rw [hs, coreCycle_across h]; rfl, fun h => by rw [hs, coreCycle_idle h]; rfl⟩
  case control =>
    rw [show step s = onNext (r.controlTurn k) State.settle from step_acts ha hc, controlTurn_picks hp]

end Sys2Proof.Machine
end

section
/-! PROOFS. Frame registers, values and the bytecodes that move data (R27, R261 to R264, R267, R278, R282 to R284). -/

namespace Sys2Proof.Machine

/-! ### Accesses of a bytecode that are made at once -/

section Access
variable {s q : State} {va : Word} {t : Tr} {n k : Nat} {op : AccOp} {m : Manner} {bs : List Byte} {tr : Trap}

/-- Memory of the other kinds lies in no control-and-status window. -/
theorem homeOf_ne_csr (hk : s.kindOf t.pa ≠ some .csr) (c : Nat) : s.homeOf t.pa t.attr ≠ .csr c := by
  unfold State.homeOf
  split
  · nofun
  · next h => exact absurd h hk
  · nofun
  · split <;> nofun
  · nofun
  · split <;> nofun

/-- An access outside the control-and-status window whose checks pass is reached (R167, R335). -/
theorem reach_ok (hc : s.check s.who va n k = .ok t) (hk : s.kindOf t.pa ≠ some .csr) : s.reach va n k op = .ok t := by
  have hb (pl : Bool) : s.csrBad t.pa n pl = false := by simp [State.csrBad, hk]
  have hf (v w : Word) : s.csrFault t.pa v w = none := by simp [State.csrFault, hk]
  simp only [State.reach, hc, hb, hf, ite_self, Bool.false_eq_true, if_false]

theorem reach_trap (hc : s.check s.who va n k = .error tr) : s.reach va n k op = .error (.trap tr) := by
  simp only [State.reach, hc]

theorem tAccess_trap (ht : s.th.trace = []) (hw : s.beforeReach va k op = []) (hr : s.reach va n k op = .error (.trap tr)) :
    tAccess va n k op m s = .error (.trap tr) := by
  simp only [tAccess, tLive, ht, hw, hr]

/-- An access that finds uncorrectable data raises POISON (R27). -/
theorem tAccess_poisoned (ht : s.th.trace = []) (hb : s.bursts.head? = some 0) (hw : s.beforeReach va k op = [])
    (hr : s.reach va n k op = .ok t) (hm : s.make va t n k op m = (q, some (bs, true))) :
    tAccess va n k op m s = .error (.trap (.of .poison 0)) := by
  have hmakes : s.makes = true := by simp [State.makes, hb]
  simp only [tAccess, tLive, ht, hw, hr, hmakes, hm, if_true]

theorem loadBytes_memory {a : Acc} (hh : ∀ c, a.home ≠ .csr c) : s.loadBytes a = s.bytes a.pa a.size := by
  unfold State.loadBytes
  split
  · next c h => exact absurd h (hh c)
  · rfl

/-- A load of clean memory that no result waits for only counts (R112, R408). -/
theorem countedFrom_perform_load {a : Acc} (hb : s.behind = []) (ho : ∃ u, a.owner = .thread u) (hout : a.out = 0)
    (hop : a.op = .load) : s.CountedFrom (s.perform a) := by
  have hc : s.CountedFrom (s.countAccess a) := countedFrom_countHome (countedFrom_refl s) ..
  obtain ⟨u, hu⟩ := ho
  have e : s.perform a = s.countAccess a := by
    simp only [State.perform, hop, State.deliver, hu, hout, if_true, rehome_clean (hc.behind.trans hb)]
  rw [e]
  exact hc

theorem countedFrom_bump (h : s.CountedFrom q) : s.CountedFrom q.bump := by
  obtain ⟨c, n, b, rfl⟩ := h
  exact ⟨_, _, _, rfl⟩

theorem State.CountedFrom.trans {z : State} (h : s.CountedFrom q) (h' : q.CountedFrom z) : s.CountedFrom z := by
  obtain ⟨c, n, b, rfl⟩ := h
  obtain ⟨c', n', b', rfl⟩ := h'
  exact ⟨c', n', b', rfl⟩

/-- A load that is made at once answers the bytes of memory, and whether they are uncorrectable. -/
theorem make_load (hb : s.bursts.head? = some 0) (hk : s.kindOf t.pa ≠ some .csr) (hc : s.behind = [])
    (ha : (s.remember s.who va k t).atOnce (s.homeOf t.pa t.attr) t.pa n .load = true) :
    ∃ q, s.make va t n k .load = (q, some (s.bytes t.pa n, s.isPoisoned t.pa n)) ∧ s.CountedFrom q := by
  have hr : s.CountedFrom (s.remember s.who va k t) := countedFrom_remember (countedFrom_refl s) ..
  have hbump := countedFrom_bump hr
  have hclean : (s.remember s.who va k t).bump.behind = [] := hbump.behind.trans hc
  refine ⟨_, (make_once hb ha).trans (Prod.ext rfl ?_), ?_⟩
  · rw [rehome_clean hclean, hbump.isPoisoned, loadBytes_memory (homeOf_ne_csr hk)]
    exact congrArg (fun l => some (l, s.isPoisoned t.pa n)) (hbump.bytes t.pa n)
  · rw [rehome_clean hclean]
    exact hbump.trans (countedFrom_perform_load hclean ⟨_, rfl⟩ rfl rfl)

end Access

/-! ### Reads and writes of words -/

section Words
variable {s q : State} {va : Word} {t : Tr} {n : Nat} {v : Word} {tr : Trap}

theorem tRead_of_access {bs : List Byte} (h : tAccess va n kRead .load .plain s = .ok (bs, q)) :
    tRead va n s = .ok (word (fromBytes bs), q) := bind_ok h _

theorem tRead_of_stop {e : Stop} (h : tAccess va n kRead .load .plain s = .error e) : tRead va n s = .error e :=
  bind_error h _

/-- The frame register is an 8-byte word at X28 + 8n (R267). -/
theorem tF_eq (h : s.th.xPoison.contains 28 = false) (n : Nat) : tF n s = tRead (s.xr 28 + word (8 * n)) 8 s :=
  tFrameAt_bind h n _

theorem tSetF_eq (h : s.th.xPoison.contains 28 = false) (n : Nat) (v : Word) :
    tSetF n v s = tWrite (s.xr 28 + word (8 * n)) 8 v .plain s := tFrameAt_bind h n _

theorem tF_poisoned (h : s.th.xPoison.contains 28 = true) (n : Nat) : tF n s = .error (.trap (.of .poison 0)) :=
  bind_error (bind_error (by simp only [tX, h, if_true]) _) _

theorem tFn_eq (h : s.th.xPoison.contains 29 = false) (n : Nat) : tFn n s = tRead (s.xr 29 + word n) 8 s :=
  tX_bind h _

theorem tK_eq {w : Word} (h : tFn 24 s = .ok (w, q)) (n : Nat) : tK n s = tRead (w + word (8 * n)) 8 q := bind_ok h _

end Words

/-! ### Frame registers in one instant (R267, R283) -/

section Frame
variable {s : State} {n : Nat} {v : Word} {t : Tr} {tr : Trap}

/-- The address of f(n). -/
def State.frameAt (s : State) (n : Nat) : Word := s.xr 28 + word (8 * n)

/-- A bytecode comes to its access to f(n), and nothing holds that back. -/
def State.frameReady (s : State) (n k : Nat) (op : AccOp) : Prop :=
  s.th.trace = [] ∧ s.bursts.head? = some 0 ∧ s.th.xPoison.contains 28 = false ∧ s.beforeReach (s.frameAt n) k op = []

/-- It reaches f(n) too, in memory where the access can be performed at once. -/
def State.frameOk (s : State) (n k : Nat) (op : AccOp) (t : Tr) : Prop :=
  s.frameReady n k op ∧ s.check s.who (s.frameAt n) 8 k = .ok t ∧ s.kindOf t.pa ≠ some .csr ∧
    (s.remember s.who (s.frameAt n) k t).atOnce (s.homeOf t.pa t.attr) t.pa 8 op = true

theorem tF_reads (h : s.frameOk n kRead .load t) (hb : s.behind = []) (hp : s.isPoisoned t.pa 8 = false) :
    ∃ q : State, tF n s = .ok (word (fromBytes (s.bytes t.pa 8)), q) ∧ q.mem = s.mem ∧ q.threads = s.threads ∧
      q.cores = s.cores ∧ q.ctxs = s.ctxs := by
  obtain ⟨⟨ht, hz, hx, hw⟩, hc, hk, ha⟩ := h
  obtain ⟨q, hm, hq⟩ := make_load hz hk hb ha
  rw [hp] at hm
  exact ⟨q, (tF_eq hx n).trans (tRead_of_access (tAccess_made ht hz hw (reach_ok hc hk) hm)), hq.mem, hq.threads, hq.cores,
    hq.ctxs⟩

theorem tF_uncorrectable (h : s.frameOk n kRead .load t) (hb : s.behind = []) (hp : s.isPoisoned t.pa 8 = true) :
    tF n s = .error (.trap (.of .poison 0)) := by
  obtain ⟨⟨ht, hz, hx, hw⟩, hc, hk, ha⟩ := h
  obtain ⟨q, hm, hq⟩ := make_load hz hk hb ha
  rw [hp] at hm
  exact (tF_eq hx n).trans (tRead_of_stop (tAccess_poisoned ht hz hw (reach_ok hc hk) hm))

theorem tSetF_writes (h : s.frameOk n kWrite (.store (toBytes 8 v.toNat)) t) :
    ∃ a : Acc, a.pa = t.pa ∧ a.size = 8 ∧ a.home = s.homeOf t.pa t.attr ∧ a.owner = .thread s.cur ∧
      a.op = .store (toBytes 8 v.toNat) ∧ tSetF n v s = .ok ((), State.perform
        ((s.remember s.who (s.frameAt n) kWrite t).bump.rehome (s.homeOf t.pa t.attr) t.pa 8) a) := by
  obtain ⟨⟨ht, hz, hx, hw⟩, hc, hk, ha⟩ := h
  have hacc := tAccess_made ht hz hw (reach_ok hc hk) (make_once (m := .plain) hz ha)
  exact ⟨_, rfl, rfl, rfl, rfl, rfl, (tSetF_eq hx n v).trans (bind_ok hacc _)⟩

theorem tF_fails (h : s.frameReady n kRead .load) (hc : s.check s.who (s.frameAt n) 8 kRead = .error tr) :
    tF n s = .error (.trap tr) := by
  obtain ⟨ht, -, hx, hw⟩ := h
  exact (tF_eq hx n).trans (tRead_of_stop (tAccess_trap ht hw (reach_trap hc)))

theorem tSetF_fails (h : s.frameReady n kWrite (.store (toBytes 8 v.toNat)))
    (hc : s.check s.who (s.frameAt n) 8 kWrite = .error tr) : tSetF n v s = .error (.trap tr) := by
  obtain ⟨ht, -, hx, hw⟩ := h
  exact (tSetF_eq hx n v).trans (bind_error (tAccess_trap ht hw (reach_trap hc)) _)

end Frame

/-! ### Values (R261 to R264, R278) -/

section Values
variable {s q q1 q2 q3 q4 : State} {v h site x len y c : Word} {n k : Nat}

theorem tExamine_bad (hv : valueOk v = false) : tExamine v s = .error (.trap (.of .type v)) := by
  unfold tExamine
  rw [if_neg (by simp [hv])]
  rfl

/-- A pointer to a heap object has a layout of R261. -/
theorem valueOk_of_heap (hv : tagOf v = 1) : valueOk v = true := by simp [valueOk, hv]

theorem tKind_bad (hv : valueOk v = false) : tKind v s = .error (.trap (.of .type v)) := bind_error (tExamine_bad hv) _

theorem tTouch_bad (hv : valueOk v = false) : tTouch site v s = .error (.trap (.of .type v)) :=
  bind_error (tExamine_bad hv) _

theorem tKind_immediate (hv : valueOk v = true) (ht : tagOf v ≠ 1) : tKind v s = .ok (none, s) := by
  unfold tKind
  rw [tExamine_bind hv, if_neg ht]
  rfl

theorem tTouch_immediate (hv : valueOk v = true) (ht : tagOf v ≠ 1) : tTouch site v s = .ok ((), s) := by
  unfold tTouch
  rw [tExamine_bind hv, if_neg ht]
  rfl

/-- KIND stands in the object's header (R264). -/
theorem tKind_heap (ht : tagOf v = 1) (hr : tRead (v - 1) 8 s = .ok (h, q)) : tKind v s = .ok (some (bits h 3 0), q) := by
  unfold tKind
  rw [tExamine_bind (valueOk_of_heap ht), if_pos ht, bind_ok hr]
  rfl

/-- The touch of a tensor with FAILED enters the guard path (R278). -/
theorem tTouch_failed (ht : tagOf v = 1) (hr : tRead (v - 1) 8 s = .ok (h, q)) (hk : bits h 3 0 = 1)
    (hf : h.getLsbD 4 = true) : tTouch site v s = .error (.guard 3 v site) := by
  unfold tTouch
  rw [tExamine_bind (valueOk_of_heap ht), if_pos ht, bind_ok hr, if_pos ⟨hk, hf⟩]
  rfl

theorem tTouch_sound (ht : tagOf v = 1) (hr : tRead (v - 1) 8 s = .ok (h, q))
    (hk : bits h 3 0 ≠ 1 ∨ h.getLsbD 4 = false) : tTouch site v s = .ok ((), q) := by
  have hn : ¬(bits h 3 0 = kTensor ∧ bit h 4 = true) := by
    rintro ⟨h1, h2⟩
    rcases hk with hk | hk
    · exact hk h1
    · rw [bit, hk] at h2
      exact Bool.false_ne_true h2
  unfold tTouch
  rw [tExamine_bind (valueOk_of_heap ht), if_pos ht, bind_ok hr, if_neg hn]
  rfl

/-! Cell `n` is element `n` of the array FN.CELLS (R284). -/

theorem tCell_array (hx : tFn 56 s = .ok (x, q)) (hk : tKind x q = .ok (some 2, q1))
    (hl : tRead (x + 15) 8 q1 = .ok (len, q2)) (hn : n < len.toNat) (hy : tRead (x + 31) 8 q2 = .ok (y, q3))
    (hc : tRead (y + word (8 * n)) 8 q3 = .ok (c, q4)) (ht : tagOf c = 1) : tCell n s = .ok (c - 1, q4) := by
  unfold tCell
  rw [bind_ok hx, bind_ok hk]
  simp only [ne_eq, not_true_eq_false, if_false]
  rw [bind_ok hl, if_neg (Nat.not_le.mpr hn), bind_ok hy, bind_ok hc, if_pos ht]
  rfl

theorem tCell_beyond (hx : tFn 56 s = .ok (x, q)) (hk : tKind x q = .ok (some 2, q1))
    (hl : tRead (x + 15) 8 q1 = .ok (len, q2)) (hn : len.toNat ≤ n) : tCell n s = .error (.trap (.of .type x)) := by
  unfold tCell
  rw [bind_ok hx, bind_ok hk]
  simp only [ne_eq, not_true_eq_false, if_false]
  rw [bind_ok hl, if_pos hn]
  rfl

end Values

/-! ### The bytecodes that move data (R284) -/

section Moves
variable {s q q1 t : State} {a b : BitVec 8} {k i : BitVec 16} {v c : Word} {tr : Trap}

/-- A trap of a thread that has made no access of the instruction raises at once. -/
theorem trap_outcome (h : s.bcClear = true) (tr : Trap) : (Stop.trap tr).outcome s.spent = s.spent.raise s.cur tr true := by
  obtain ⟨-, -, ht, -⟩ := bcClear_cases h
  have hs : s.spent.th.trace = [] := ht
  simp only [Stop.outcome, State.untraced, hs, List.isEmpty_nil, if_true]
  rfl

/-- A clear bytecode whose body comes to a trap takes it and leaves nothing of what it did (R4, R283). -/
theorem bytecode_traps {i : Instr} {body : TM Unit} (h : s.bcClear = true) (hi : codeBytes i = 4)
    (hb : body (s.advance 4) = .error (.trap tr)) : bytecode i body s = .next (s.spent.raise s.cur tr true) :=
  (bytecode_stop h hi hb rfl).trans (congrArg _ (trap_outcome h tr))

/-- The small integer of `loadi` is its sign-extended field above the tag (R261). -/
theorem mkInt_signExtend (i : BitVec 16) : mkInt i.toInt = i.signExtend 64 <<< 3 := by
  unfold mkInt
  rw [BitVec.ofInt_mul, BitVec.shiftLeft_eq_mul_twoPow]
  rfl

theorem nop_moves (h : s.bcClear = true) : exec .tNop s = .next (s.bcEnds (s.advance 4)) := bytecode_ok4 h rfl rfl

theorem move_moves (h : s.bcClear = true) (hr : tF b.toNat (s.advance 4) = .ok (v, q))
    (hw : tSetF a.toNat v q = .ok ((), t)) : exec (.tMove a b) s = .next (s.bcEnds t) :=
  bytecode_ok4 h rfl ((bind_ok hr _).trans hw)

theorem move_read_fails (h : s.bcClear = true) (hr : tF b.toNat (s.advance 4) = .error (.trap tr)) :
    exec (.tMove a b) s = .next (s.spent.raise s.cur tr true) :=
  bytecode_traps h rfl (bind_error hr _)

theorem move_write_fails (h : s.bcClear = true) (hr : tF b.toNat (s.advance 4) = .ok (v, q))
    (hw : tSetF a.toNat v q = .error (.trap tr)) : exec (.tMove a b) s = .next (s.spent.raise s.cur tr true) :=
  bytecode_traps h rfl ((bind_ok hr _).trans hw)

theorem loadk_moves (h : s.bcClear = true) (hr : tK k.toNat (s.advance 4) = .ok (v, q))
    (hw : tSetF a.toNat v q = .ok ((), t)) : exec (.tLoadk a k) s = .next (s.bcEnds t) :=
  bytecode_ok4 h rfl ((bind_ok hr _).trans hw)

theorem loadi_moves (h : s.bcClear = true) (hw : tSetF a.toNat (i.signExtend 64 <<< 3) (s.advance 4) = .ok ((), t)) :
    exec (.tLoadi a i) s = .next (s.bcEnds t) :=
  bytecode_ok4 h rfl (by rw [mkInt_signExtend, hw])

/-- `loadc` 0, 1 and 2 write nil, false and true. -/
theorem loadc_moves (h : s.bcClear = true) (hb : b.toNat ≤ 2)
    (hw : tSetF a.toNat (word (8 * b.toNat + 3)) (s.advance 4) = .ok ((), t)) :
    exec (.tLoadc a b) s = .next (s.bcEnds t) := by
  refine bytecode_ok4 h rfl ?_
  generalize b.toNat = n at hb hw
  obtain rfl | rfl | rfl : n = 0 ∨ n = 1 ∨ n = 2 := by omega
  · exact hw
  · exact hw
  · exact hw

theorem loadc_traps (h : s.bcClear = true) (hb : 2 < b.toNat) :
    exec (.tLoadc a b) s = .next (s.spent.raise s.cur (.of .type (word b.toNat)) true) := by
  refine bytecode_traps h rfl ?_
  generalize b.toNat = n at hb
  match n with
  | 0 | 1 | 2 => omega
  | n + 3 => rfl

theorem del_moves (h : s.bcClear = true) (hw : tSetF a.toNat 3 (s.advance 4) = .ok ((), t)) :
    exec (.tDel a) s = .next (s.bcEnds t) := bytecode_ok4 h rfl hw

theorem getcell_moves (h : s.bcClear = true) (hc : tCell b.toNat (s.advance 4) = .ok (c, q))
    (hr : tRead (c + 16) 8 q = .ok (v, q1)) (hw : tSetF a.toNat v q1 = .ok ((), t)) :
    exec (.tGetcell a b) s = .next (s.bcEnds t) :=
  bytecode_ok4 h rfl ((bind_ok hc _).trans ((bind_ok hr _).trans hw))

theorem setcell_moves (h : s.bcClear = true) (hc : tCell b.toNat (s.advance 4) = .ok (c, q))
    (hr : tF a.toNat q = .ok (v, q1)) (hw : tHeapStore (c + 16) c v q1 = .ok ((), t)) :
    exec (.tSetcell a b) s = .next (s.bcEnds t) :=
  bytecode_ok4 h rfl ((bind_ok hc _).trans ((bind_ok hr _).trans hw))

end Moves

/-- Settles O50: an access to a frame register is one access at X28 + 8n, made at once (the model's choice, log 49); values
and cells are read through their headers; and a bytecode that moves data is the sequence of its accesses. -/
theorem framesAndMoves : Obligations.FramesAndMoves := by
  unfold Obligations.FramesAndMoves
  refine ⟨fun s q n v w t tr => ?frame, fun s q q1 q2 q3 q4 v h site x len y c n => ?values,
    fun s a b k i v c q q1 t tr => ?moves⟩
  case frame =>
    exact ⟨tF_reads, tF_uncorrectable, tSetF_writes, tF_fails, tSetF_fails, fun h => tF_poisoned h n, fun h => tFn_eq h n,
      fun h => tK_eq h n⟩
  case values =>
    refine ⟨fun hv => ⟨tKind_bad hv, tTouch_bad hv⟩, fun hv ht => ⟨tKind_immediate hv ht, tTouch_immediate hv ht⟩,
      fun ht hr => ⟨tKind_heap ht hr, tTouch_failed ht hr, tTouch_sound ht hr⟩, fun hx hk hl => ⟨?_, tCell_beyond hx hk hl⟩⟩
    exact tCell_array hx hk hl
  case moves =>
    exact fun h => ⟨nop_moves h, move_moves h, move_read_fails h, move_write_fails h, loadk_moves h, loadi_moves h,
      loadc_moves h, loadc_traps h, del_moves h, getcell_moves h, setcell_moves h⟩

end Sys2Proof.Machine
end

section
/-! PROOFS. Scalar and predicate registers (R44, R46, R132): what a read finds after a write, and what a write leaves. -/

namespace Sys2Proof.Machine

/-! ### Bank x: the registers of one thread (R44) -/

section BankX
variable (t : Thread) (n : Nat) (v : Word)

@[simp] theorem Thread.getX_zero : t.getX 0 = 0 := rfl

@[simp] theorem Thread.setX_zero : t.setX 0 v = t := rfl

theorem Thread.getX_setX (hn : n ≠ 0) : (t.setX n v).getX n = v := by
  simp [Thread.getX, Thread.setX, hn]

theorem Thread.getX_setX_ne {m : Nat} (hm : m ≠ n) : (t.setX n v).getX m = t.getX m := by
  by_cases hn : n = 0
  · rw [hn, setX_zero]
  · simp [Thread.getX, Thread.setX, hn, get_set_ne _ _ _ hm]

/-- A write of a register leaves the thread where it is. -/
@[simp] theorem Thread.setX_core : (t.setX n v).core = t.core := by
  unfold Thread.setX
  split <;> rfl

end BankX

/-! ### Bank y: the registers of one core (R44) -/

@[simp] theorem Core.getY_setY (c : Core) (n : Nat) (v : Word) : (c.setY n v).getY n = v := get_set _ _ _ _

theorem Core.getY_setY_ne (c : Core) {n m : Nat} (v : Word) (h : m ≠ n) : (c.setY n v).getY m = c.getY m :=
  get_set_ne _ _ _ h

/-! ### Operand registers: the bank decides which part of the state a write changes (R132) -/

section Operands
variable {s : State} {d r : Opnd} {v : Word} {u : Nat}

/-- Two registers of one bank have two numbers. -/
theorem Opnd.toNat_ne (hr : r ≠ d) (hb : r.shared = d.shared) : r.n.toNat ≠ d.n.toNat := fun h =>
  hr (by
    cases r
    cases d
    simp_all [BitVec.toNat_inj])

theorem regOf_y (s : State) (u : Nat) (hs : r.shared = true) :
    s.regOf u r = (s.core (s.thread u).core).getY r.n.toNat := if_pos hs

theorem regOf_x (s : State) (u : Nat) (hp : r.shared = false) : s.regOf u r = (s.thread u).getX r.n.toNat :=
  if_neg (by simp [hp])

theorem setReg_y (s : State) (v : Word) (hs : d.shared = true) :
    s.setReg d v = s.setCore s.th.core (s.myCore.setY d.n.toNat v) := if_pos hs

theorem setReg_x (hl : has s.threads s.cur = true) (v : Word) (hp : d.shared = false) :
    s.setReg d v = s.setTh (s.th.setX d.n.toNat v) := by
  simp [State.setReg, State.setRegOf, hp, onThread_live _ _ _ hl, State.setTh, State.th]

theorem reg_zero (s : State) : s.reg .zero = 0 := Thread.getX_zero s.th

/-- A write of x0 leaves the thread that issues it as it is. -/
theorem setReg_zero_th (hl : has s.threads s.cur = true) : (s.setReg .zero v).th = s.th := by
  rw [setReg_x hl v rfl, th_setTh]
  exact Thread.setX_zero _ _

/-- A write of a shared register is not seen on another core. -/
theorem regOf_setReg_other_core (hd : d.shared = true) (hc : (s.thread u).core ≠ s.th.core) :
    (s.setReg d v).regOf u r = s.regOf u r := by
  rw [setReg_y _ _ hd]
  cases hb : r.shared with
  | true => rw [regOf_y _ _ hb, regOf_y _ _ hb, thread_setCore, core_setCore_ne _ _ hc]
  | false => rw [regOf_x _ _ hb, regOf_x _ _ hb, thread_setCore]

section Live
variable (hl : has s.threads s.cur = true)
include hl

theorem setReg_cur : (s.setReg d v).cur = s.cur := by
  cases hd : d.shared with
  | true => rw [setReg_y _ _ hd, setCore_cur]
  | false => rw [setReg_x hl v hd, setTh_cur]

/-- A write of a register of bank x is one of the thread that issues. -/
theorem thread_setReg_x (hd : d.shared = false) : (s.setReg d v).thread s.cur = s.th.setX d.n.toNat v := by
  rw [setReg_x hl v hd, State.setTh, thread_setThread]

theorem thread_setReg_ne (hu : u ≠ s.cur) : (s.setReg d v).thread u = s.thread u := by
  cases hd : d.shared with
  | true => rw [setReg_y _ _ hd, thread_setCore]
  | false => rw [setReg_x hl v hd, State.setTh, thread_setThread_ne _ _ hu]

/-- No write of a register moves a thread to another core. -/
theorem thread_setReg_core : ((s.setReg d v).thread u).core = (s.thread u).core := by
  by_cases hu : u = s.cur
  · subst hu
    cases hd : d.shared with
    | true => rw [setReg_y _ _ hd, thread_setCore]
    | false =>
      rw [thread_setReg_x hl hd, Thread.setX_core]
      rfl
  · rw [thread_setReg_ne hl hu]

/-- A write leaves every other register, of whatever thread. -/
theorem regOf_setReg_ne (hr : r ≠ d) : (s.setReg d v).regOf u r = s.regOf u r := by
  cases hb : r.shared with
  | true =>
    rw [regOf_y _ _ hb, regOf_y _ _ hb, thread_setReg_core hl]
    cases hd : d.shared with
    | true =>
      rw [setReg_y _ _ hd]
      by_cases hc : (s.thread u).core = s.th.core
      · rw [hc, core_setCore, Core.getY_setY_ne _ _ (Opnd.toNat_ne hr (hb.trans hd.symm))]
        rfl
      · rw [core_setCore_ne _ _ hc]
    | false =>
      rw [setReg_x hl v hd]
      rfl
  | false =>
    rw [regOf_x _ _ hb, regOf_x _ _ hb]
    cases hd : d.shared with
    | true => rw [setReg_y _ _ hd, thread_setCore]
    | false =>
      by_cases hu : u = s.cur
      · rw [hu, thread_setReg_x hl hd, Thread.getX_setX_ne _ _ _ (Opnd.toNat_ne hr (hb.trans hd.symm))]
        rfl
      · rw [thread_setReg_ne hl hu]

/-- A shared register that was written is read by every thread of the core. -/
theorem regOf_setReg_core (hd : d.shared = true) (hc : (s.thread u).core = s.th.core) :
    (s.setReg d v).regOf u d = v := by
  rw [regOf_y _ _ hd, thread_setReg_core hl, hc, setReg_y _ _ hd, core_setCore, Core.getY_setY]

/-- A write of a register of bank x is not seen by another thread. -/
theorem regOf_setReg_other_thread (hd : d.shared = false) (hu : u ≠ s.cur) :
    (s.setReg d v).regOf u r = s.regOf u r := by
  cases hb : r.shared with
  | true => exact regOf_setReg_ne hl fun e => by simp [e, hd] at hb
  | false => rw [regOf_x _ _ hb, regOf_x _ _ hb, thread_setReg_ne hl hu]

theorem reg_setReg_same (hd : d ≠ .zero) : (s.setReg d v).reg d = v := by
  rw [State.reg, setReg_cur hl]
  cases hb : d.shared with
  | true => exact regOf_setReg_core hl hb rfl
  | false => rw [regOf_x _ _ hb, thread_setReg_x hl hb, Thread.getX_setX _ _ _ (Opnd.toNat_ne (d := .zero) hd hb)]

theorem reg_setReg_ne (hr : r ≠ d) : (s.setReg d v).reg r = s.reg r := by
  rw [State.reg, setReg_cur hl, regOf_setReg_ne hl hr, State.reg]

/-- A write of x0 is discarded. -/
theorem reg_setReg_zero : (s.setReg .zero v).reg r = s.reg r := by
  by_cases hr : r = .zero
  · rw [hr, reg_zero, reg_zero]
  · exact reg_setReg_ne hl hr

end Live
end Operands

/-- Settles O2: x0 by what `getX` and `setX` make of number 0; for the rest the bank of the register that is written
decides between a change of the thread and one of the core. -/
theorem registerBanks : Obligations.RegisterBanks := by
  unfold Obligations.RegisterBanks
  intro s d r v u hl
  exact ⟨reg_zero s, setReg_zero_th hl, reg_setReg_zero hl, reg_setReg_same hl, reg_setReg_ne hl, thread_setReg_ne hl,
    fun hd => ⟨regOf_setReg_core hl hd, regOf_setReg_other_core hd⟩, regOf_setReg_other_thread hl⟩

/-! ### Predicate registers (R46) -/

section Predicates
variable (t : Thread) (n : Nat) (b : Bool)

@[simp] theorem Thread.setP_zero : t.setP 0 b = t := rfl

/-- The byte of predicates has a bit for each of p1 to p7. -/
theorem Thread.getP_setP (hn : n ≠ 0) (hn8 : n < 8) : (t.setP n b).getP n = b := by
  cases b <;> simp [Thread.getP, Thread.setP, hn, hn8]

/-- The mask of one predicate has no bit of another. -/
theorem maskP_getLsbD_ne {m : Nat} (hm : m ≠ n) : ((1 : BitVec 8) <<< n).getLsbD m = false := by
  rw [BitVec.getLsbD_shiftLeft]
  obtain h | h := Nat.lt_or_gt_of_ne hm
  · simp [h]
  · simp [show m - n ≠ 0 by omega]

theorem Thread.getP_setP_ne {m : Nat} (hm : m ≠ n) : (t.setP n b).getP m = t.getP m := by
  by_cases hn : n = 0
  · rw [hn, setP_zero]
  · unfold Thread.getP Thread.setP
    rw [if_neg hn]
    cases b with
    | false =>
      simp only [Bool.false_eq_true, if_false, BitVec.getLsbD_and, BitVec.getLsbD_not, maskP_getLsbD_ne n hm]
      by_cases h8 : m < 8
      · simp [h8]
      · simp [BitVec.getLsbD_of_ge t.preds m (not_lt.mp h8)]
    | true => simp only [if_true, BitVec.getLsbD_or, maskP_getLsbD_ne n hm, Bool.or_false]

/-- A new thread has p1 to p7 zero. -/
theorem Thread.new_getP : Thread.new.getP n = (n == 0) := by
  by_cases hn : n = 0
  · simp [Thread.getP, hn]
  · simp [Thread.getP, Thread.new, hn]

end Predicates

section State
variable {s : State} {p q : BitVec 3} {b : Bool} {u : Nat}

theorem pred_zero (s : State) : s.pred 0 = true := rfl

theorem setPred_zero_th (s : State) (b : Bool) : (s.setPred 0 b).th = s.th := th_setTh s _

theorem pred_setPred_same (hp : p ≠ 0) : (s.setPred p b).pred p = b := by
  rw [State.pred, State.setPred, th_setTh, Thread.getP_setP _ _ _ (by simpa [← BitVec.toNat_inj] using hp) p.isLt]

theorem pred_setPred_ne (hq : q ≠ p) : (s.setPred p b).pred q = s.pred q := by
  rw [State.pred, State.setPred, th_setTh, Thread.getP_setP_ne _ _ _ (by simpa [← BitVec.toNat_inj] using hq), State.pred]

theorem thread_setPred_ne (hu : u ≠ s.cur) : (s.setPred p b).thread u = s.thread u := thread_setThread_ne s _ hu

end State

/-- Settles O3: the byte of predicates bit by bit, and p0 by what `getP` and `setP` make of number 0. -/
theorem predicateRegisters : Obligations.PredicateRegisters := by
  unfold Obligations.PredicateRegisters
  intro s p q b u _
  exact ⟨pred_zero s, setPred_zero_th s b, fun r => by rw [State.pred, setPred_zero_th, State.pred], pred_setPred_same,
    pred_setPred_ne, thread_setPred_ne, fun n => Thread.new_getP n⟩

end Sys2Proof.Machine
end

section
/-! PROOFS. The link store (R47): the ninth entry of `call`, and `ret` of an empty store. -/

namespace Sys2Proof.Machine

/-! ### What a plain read of a home leaves as it was -/

theorem State.CountedFrom.reg {s q : State} (h : s.CountedFrom q) (r : Opnd) : q.reg r = s.reg r := by
  obtain ⟨c, n, b, rfl⟩ := h; rfl

/-- A change of the thread that leaves its registers and its core reads every register as before. -/
theorem reg_setTh_same {s : State} {t : Thread} (r : Opnd) (hx : t.x = s.th.x) (hp : t.place = s.th.place) :
    (s.setTh t).reg r = s.reg r := by
  show (if r.shared then (s.core ((s.setTh t).th).core).getY r.n.toNat else ((s.setTh t).th).getX r.n.toNat) = _
  rw [th_setTh, Thread.core, Thread.getX, hx, hp]
  rfl

section Seek
variable {s : State} {va : Word} {n : Nat} {t : Tr}

/-- The state after a plain read that is made at once of the home of its address, which has been counted (R408). -/
def State.readHome (s : State) (va : Word) (n : Nat) (t : Tr) : State :=
  (s.remember s.who va kRead t).touch (s.homeOf t.pa t.attr) va t.pa n

theorem countedFrom_readHome (va : Word) (n : Nat) (t : Tr) (hb : s.behind = []) : s.CountedFrom (s.readHome va n t) := by
  have hrem : s.CountedFrom (s.remember s.who va kRead t) := countedFrom_remember (countedFrom_refl s) ..
  exact hrem.trans (countedFrom_touch (hrem.behind.trans hb) (s.homeOf t.pa t.attr) va t.pa n)

/-- The first piece of an instruction, where it can be read at once outside a CXL window, is the bytes of memory, which the
thread notes (R106, R113). -/
theorem seek_first (htr : s.th.trace = []) (hw : s.walkAfter va kRead = []) (ht : s.translate s.who va kRead = .ok t)
    (hn : s.movesTo (s.homeOf t.pa t.attr) = none) (hr : s.readsAtOnce (s.homeOf t.pa t.attr) t.pa n)
    (hk : s.kindOf t.pa ≠ some .cxl) (hb : s.behind = []) :
    s.seek 0 va n = .got ((s.readHome va n t).note (.got (s.bytes t.pa n) (s.isPoisoned t.pa n))) (s.bytes t.pa n)
      (s.isPoisoned t.pa n) := by
  have hq := countedFrom_readHome va n t hb
  have hm : s.moves (s.homeOf t.pa t.attr) = none := by rw [State.moves, hn]
  have hr' : s.mustWait (s.homeOf t.pa t.attr) t.pa n = none := hr
  rw [← hq.bytes, ← hq.isPoisoned]
  simp only [State.seek, htr, List.getElem?_nil, hw, ne_eq, not_true_eq_false, if_false, ht, hm, hr', remember_kindOf, hk]
  rfl

end Seek

/-! ### The one access of a new result -/

section Single
variable (s : State) (dsts : List Dst) (fin : Fin) (va : Word) (t : Tr) (size : Nat) (op : AccOp) (acq rel : Bool) (sco : Nat)

@[simp] theorem remember_csrFault (w : Who) (k : Nat) (u : Tr) (pa : Nat) (v x : Word) :
    (s.remember w va k u).csrFault pa v x = s.csrFault pa v x := by
  obtain ⟨c, n, b, h⟩ := remember_cases s w va k u; rw [h]; rfl

/-- A thread whose access goes to a CXL window parks: at most its park and its fetch buffer change (R106). -/
theorem afterCxl_cases (pa : Nat) :
    s.afterCxl pa = s ∨ s.afterCxl pa = s.setTh { s.th with park := .switch, parkedAt := s.now, buf := [] } := by
  unfold State.afterCxl State.parkSwitch State.onThread
  split
  · split
    · exact .inr rfl
    · exact .inl rfl
  · exact .inl rfl

@[simp] theorem afterCxl_accs (pa : Nat) : (s.afterCxl pa).accs = s.accs := by
  obtain h | h := afterCxl_cases s pa
  · rw [h]
  · rw [h]
    rfl

theorem afterCxl_th (pa : Nat) :
    ∃ p n b, (s.afterCxl pa).th = { s.th with park := p, parkedAt := n, buf := b } := by
  obtain h | h := afterCxl_cases s pa
  · exact ⟨s.th.park, s.th.parkedAt, s.th.buf, congrArg State.th h⟩
  · exact ⟨_, _, _, (congrArg State.th h).trans (th_setTh s _)⟩

theorem openOut_th (need : Nat) : (s.openOut dsts fin need).th =
    { s.th with outst := s.th.outst ++ [⟨s.next, dsts, fin, need, [], [], []⟩] } := th_setTh s _

/-- The access of a new result joins the accesses under way. -/
theorem single_accs : ∃ a : Acc, (s.single dsts fin va t size op acq rel sco).accs = s.accs ++ [a] ∧ a.op = op ∧
    a.pa = t.pa ∧ a.size = size ∧ a.owner = .thread s.cur :=
  ⟨_, afterCxl_accs _ _, rfl, rfl, rfl, rfl⟩

/-- A new result is the youngest of its thread, which parks if its access goes to a CXL window. -/
theorem single_th : ∃ p n b, (s.single dsts fin va t size op acq rel sco).th =
    { s.th with
      outst := s.th.outst ++ [⟨s.next, dsts, fin, 1, [], [], []⟩], park := p, parkedAt := n, buf := b } := by
  obtain ⟨p, n, b, h⟩ := afterCxl_th ((s.openOut dsts fin 1).access va t size op s.next 0 acq rel sco) t.pa
  have hacc : ((s.openOut dsts fin 1).access va t size op s.next 0 acq rel sco).th = (s.openOut dsts fin 1).th := rfl
  refine ⟨p, n, b, h.trans ?_⟩
  rw [hacc, openOut_th]

end Single

/-! ### The ninth entry -/

section Spill
variable {s : State} {h : Hdr} {kind : BitVec 2} {off : BitVec 40} {t : Tr}

/-- The return address of `call`, in MODE 0. -/
theorem linkEntry_native (a : Word) : linkEntry a false = a &&& ~~~3 := BitVec.or_zero

/-- The target of a relative call is computed from the address of the instruction (R158). -/
theorem past_target (s : State) (off : BitVec 40) : s.past.target off = s.th.pc + off.signExtend 64 * 8 := by
  rw [State.target, past_eq, advance_here]

/-- Where the `n`-th entry of the thread that issues is spilled to. -/
theorem past_spillAt (s : State) (n : Nat) :
    s.past.spillAt n = s.myCtx.lsbase + word (s.th.thread * s.myCtx.spillLimit) + word (8 * n) := by
  rw [State.spillAt, past_eq, advance_myCtx, advance_th_thread]

/-- The spill area has no room for one more entry. -/
theorem pushLink_full {e w : Word} {go : State → State} (hl : 8 ≤ s.th.link.length)
    (hr : s.myCtx.spillLimit < 8 * (s.th.spilled + 1)) :
    s.pushLink e w go = .trap (.of .linkOvf (s.spillAt s.th.spilled)) := by
  simp only [State.pushLink, Nat.not_lt.mpr hl, hr, if_true, if_false]

/-- What is left once the oldest entry has been sent to the spill area and `e` is the newest. -/
def State.spilledLink (s : State) (a e : Word) (t : Tr) : State :=
  let q := (s.remember s.who a kWrite t).single [] (.done []) a t 8 (.store (toBytes 8 (s.th.link.getLastD 0).toNat)) false false
  q.setTh { q.th with link := e :: q.th.link.dropLast, spilled := q.th.spilled + 1 }

theorem pushLink_spills {e w : Word} {go : State → State} (hl : 8 ≤ s.th.link.length)
    (hr : 8 * (s.th.spilled + 1) ≤ s.myCtx.spillLimit) (hgo : s.goesOut false true true (s.spillAt s.th.spilled) 8 kWrite t)
    (hc : s.csrFault t.pa (s.th.link.getLastD 0) w = none) :
    s.pushLink e w go = .done (go (s.spilledLink (s.spillAt s.th.spilled) e t)).parkSwitch := by
  simp only [State.pushLink, Nat.not_lt.mpr hl, Nat.not_lt.mpr hr, if_false, memory_goes hgo, remember_csrFault, remember_th,
    hc]
  rfl

/-- The store of the oldest entry is under way, and the new entry takes its place. -/
theorem spilledLink_spec (s : State) (a e : Word) (t : Tr) :
    let d := s.spilledLink a e t
    d.th.spilled = s.th.spilled + 1 ∧ d.th.link = e :: s.th.link.dropLast ∧ d.th.outst.length = s.th.outst.length + 1 ∧
      ∃ acc : Acc, d.accs = s.accs ++ [acc] ∧ acc.op = .store (toBytes 8 (s.th.link.getLastD 0).toNat) ∧ acc.pa = t.pa ∧
        acc.size = 8 ∧ acc.owner = .thread s.cur := by
  intro d
  obtain ⟨p, n, b, hth⟩ := single_th (s.remember s.who a kWrite t) [] (.done []) a t 8
    (.store (toBytes 8 (s.th.link.getLastD 0).toNat)) false false 0
  have hacc := single_accs (s.remember s.who a kWrite t) [] (.done []) a t 8
    (.store (toBytes 8 (s.th.link.getLastD 0).toNat)) false false 0
  rw [remember_accs, remember_cur] at hacc
  rw [remember_th] at hth
  have hd : d.th = _ := th_setTh _ _
  refine ⟨?_, ?_, ?_, hacc⟩
  · rw [hd, hth]
  · rw [hd, hth]
  · rw [hd, hth]
    exact List.length_append

theorem jumpTo_th (s : State) (a : Word) : (s.jumpTo a).th = { s.th with pc := a, buf := [] } := th_setTh s _

theorem call_overflows (hl : 8 ≤ s.th.link.length) (hr : s.myCtx.spillLimit < 8 * (s.th.spilled + 1)) :
    s.clear (.call h kind off) = true →
      exec (.call h kind off) s = .next (s.trapNow (.of .linkOvf
        (s.myCtx.lsbase + word (s.th.thread * s.myCtx.spillLimit) + word (8 * s.th.spilled)))) :=
  traps_of_trap rfl fun _ => by
    rw [pushLink_full (by simpa using hl) (by simpa using hr), past_spillAt, past_eq, advance_th_spilled]

/-- `call` with a full store and room in the spill area (R47). -/
theorem call_spills {a : Word}
    (ha : a = s.myCtx.lsbase + word (s.th.thread * s.myCtx.spillLimit) + word (8 * s.th.spilled))
    (hl : 8 ≤ s.th.link.length) (hr : 8 * (s.th.spilled + 1) ≤ s.myCtx.spillLimit)
    (hgo : s.past.goesOut false true true a 8 kWrite t)
    (hc : s.past.csrFault t.pa (s.th.link.getLastD 0) (Instr.call h kind off).word = none) :
    let d := (s.past.spilledLink a ((s.th.pc + 8) &&& ~~~3) t).jumpTo (s.th.pc + off.signExtend 64 * 8)
    Completes (.call h kind off) s d.parkSwitch := by
  intro d
  have hat : s.past.spillAt s.past.th.spilled = a := by rw [past_spillAt, past_eq, advance_th_spilled, ha]
  refine completes_of_done rfl fun _ => ?_
  rw [pushLink_spills (by simpa using hl) (by simpa using hr) (by rwa [hat]) (by simpa using hc), hat, past_target,
    linkEntry_native, past_eq, advance_th_pc]
  rfl

end Spill

/-! ### The return from an empty store -/

section Refill
variable {s : State} {h : Hdr} {kind : BitVec 2} {t : Tr}

theorem followLink_native {e : Word} (he : e.getLsbD 0 = false) : s.followLink e = .done (s.jumpTo (e &&& ~~~3)) :=
  if_neg (by rw [he]; exact Bool.false_ne_true)

/-- What is left once the newest spilled entry has been read and noted. -/
def State.refilled (s : State) (e : Seen) : State :=
  (s.note e).setTh { (s.note e).th with spilled := (s.note e).th.spilled - 1, buf := [] }

theorem refilled_th (s : State) (e : Seen) :
    (s.refilled e).th = { s.th with trace := s.th.trace ++ [e], spilled := s.th.spilled - 1, buf := [] } := by
  have hn : (s.note e).th = { s.th with trace := s.th.trace ++ [e] } := th_setTh s _
  exact (th_setTh _ _).trans (by rw [hn])

theorem note_reg (s : State) (e : Seen) (r : Opnd) : (s.note e).reg r = s.reg r := reg_setTh_same r rfl rfl

theorem refilled_reg (s : State) (e : Seen) (r : Opnd) : (s.refilled e).reg r = s.reg r := by
  have h : (s.refilled e).reg r = (s.note e).reg r := reg_setTh_same r rfl rfl
  rw [h, note_reg]

theorem jumpTo_reg (s : State) (a : Word) (r : Opnd) : (s.jumpTo a).reg r = s.reg r := reg_setTh_same r rfl rfl

/-- The return from an empty store goes on with the newest spilled entry, where that can be read at once. -/
theorem popLink_refills (hl : s.th.link = []) (hs : 0 < s.th.spilled) (hd : s.drained s.cur = true) (htr : s.th.trace = [])
    (hgo : s.goesOut true false true (s.spillAt (s.th.spilled - 1)) 8 kRead t)
    (ht : s.translate s.who (s.spillAt (s.th.spilled - 1)) kRead = .ok t) (hk : s.kindOf t.pa ≠ some .cxl)
    (hr : s.readsAtOnce (s.homeOf t.pa t.attr) t.pa 8) (hb : s.behind = []) (hp : s.isPoisoned t.pa 8 = false)
    (go : State → Word → Res) :
    s.popLink go = go ((s.readHome (s.spillAt (s.th.spilled - 1)) 8 t).refilled (.got (s.bytes t.pa 8) false))
      (s.readWord t.pa) := by
  have hmem := memory_goes hgo
  obtain ⟨-, hw, -, -, hn⟩ := hgo
  have hseek := seek_first htr hw ht hn hr hk hb
  rw [hp] at hseek
  simp only [State.popLink, hl, Nat.ne_of_gt hs, if_false, hmem, hd, Bool.not_true, Bool.false_eq_true, hseek]
  rfl

/-- `ret` with an empty store (R47). -/
theorem ret_refills {a e : Word}
    (ha : a = s.myCtx.lsbase + word (s.th.thread * s.myCtx.spillLimit) + word (8 * (s.th.spilled - 1)))
    (hl : s.th.link = []) (hs : 0 < s.th.spilled) (hd : s.drained s.cur = true) (hb : s.behind = [])
    (hgo : s.past.goesOut true false true a 8 kRead t) (ht : s.past.translate s.past.who a kRead = .ok t)
    (hk : s.past.kindOf t.pa ≠ some .cxl) (hr : s.past.readsAtOnce (s.past.homeOf t.pa t.attr) t.pa 8)
    (hp : s.isPoisoned t.pa 8 = false) (he : s.readWord t.pa = e) (hmode : e.getLsbD 0 = false) :
    Completes (.ret h kind) s
      (((s.past.readHome a 8 t).refilled (.got (s.past.bytes t.pa 8) false)).jumpTo (e &&& ~~~3)) := by
  intro hclear
  obtain ⟨-, -, -, -, -, -, -, -, htr, -⟩ := clear_cases hclear
  have hat : s.past.spillAt (s.past.th.spilled - 1) = a := by rw [past_spillAt, past_eq, advance_th_spilled, ha]
  have hd' : s.past.drained s.past.cur = true := (advance_drained s 8).trans hd
  have he' : s.past.readWord t.pa = e := he
  refine native_done hclear ?_
  rw [popLink_refills (t := t) (by simpa using hl) (by simpa using hs) hd' (by simpa using htr) (by rwa [hat]) (by rwa [hat])
    hk hr hb hp, hat, he', followLink_native hmode]

/-- A refill takes the entry off the spill area's count; the store stays as it was, and so do memory and the registers. -/
theorem refilled_jump_spec (hb : s.behind = []) (a b : Word) (n : Nat) (e : Seen) :
    let d := ((s.past.readHome a n t).refilled e).jumpTo b
    d.th.pc = b ∧ d.th.link = s.th.link ∧ d.th.spilled = s.th.spilled - 1 ∧ d.mem = s.mem ∧ ∀ r, d.reg r = s.reg r := by
  have hq : s.past.CountedFrom (s.past.readHome a n t) := countedFrom_readHome a n t hb
  intro d
  have hth : d.th = _ := (jumpTo_th _ b).trans (by rw [refilled_th, hq.th])
  refine ⟨by rw [hth], ?_, ?_, hq.mem, fun r => ?_⟩
  · rw [hth]
    exact advance_th_link s 8
  · rw [hth]
    exact congrArg (· - 1) (advance_th_spilled s 8)
  · rw [jumpTo_reg, refilled_reg, hq.reg]
    exact advance_reg s 8 r

end Refill

/-- Settles O17: the ninth entry by what `pushLink` finds in the spill area, the return from an empty store by the one piece
that `popLink` reads at once. -/
theorem linkSpill : Obligations.LinkSpill := by
  unfold Obligations.LinkSpill
  refine ⟨fun s h kind off t hl => ?spill, fun s h kind t hl hs hd hb => ?refill⟩
  case spill =>
    intro base a p hclear
    refine ⟨fun hr => call_overflows hl hr hclear, fun hr hgo hc => ?_⟩
    obtain ⟨hspilled, hlink, houtst, hacc⟩ := spilledLink_spec s.past a ((s.th.pc + 8) &&& ~~~3) t
    refine ⟨_, call_spills rfl hl hr hgo hc hclear, ?_, ?_, ?_, ?_, ?_⟩
    · rw [jumpTo_th]
    · rw [jumpTo_th, hspilled, past_eq, advance_th_spilled]
    · rw [jumpTo_th, hlink, past_eq, advance_th_link]
    · rw [jumpTo_th, houtst, past_eq, advance_th_outst]
    · rw [past_eq, advance_accs, advance_cur, advance_th_link] at hacc
      exact hacc
  case refill =>
    intro a p hm e hgo ht hk hr hp hmode
    obtain ⟨hpc, hlink, hspilled, hmem, hreg⟩ := refilled_jump_spec (t := t) hb a (e &&& ~~~3) 8
      (.got (p.bytes t.pa 8) false)
    exact ⟨_, ret_refills rfl hl hs hd hb hgo ht hk hr hp rfl hmode, hpc, hlink.trans hl, hspilled, hmem, hreg⟩

end Sys2Proof.Machine
end

section
/-! PROOFS. Scale registers (R55, R209 to R215): who may write one, what a write leaves, the rewriting of codes, and the
bindings of operand slots. -/

namespace Sys2Proof.Machine

/-! ### Words and codes -/

/-- The space of 52 bits, sign-extended (R95). -/
theorem sext_eq_signExtend (va : Word) : sext 52 va.toNat = (va.setWidth 52).signExtend 64 := by
  rw [BitVec.signExtend, BitVec.toInt_eq_toNat_cond, BitVec.toNat_setWidth, sext]
  have hmod : va.toNat % 2 ^ 52 < 2 ^ (52 - 1) ↔ 2 * (va.toNat % 2 ^ 52) < 2 ^ 52 := by omega
  simp only [hmod]
  rfl

theorem canonical_of_signExtend {va : Word} (h : va = (va.setWidth 52).signExtend 64) : canonical va = true := by
  rw [canonical, sext_eq_signExtend, ← h, beq_self_eq_true]

theorem clamp_fst (lo hi v : Int) (h : lo ≤ hi) : (clamp lo hi v).1 = max lo (min hi v) := by
  unfold clamp
  split
  · omega
  · split <;> omega

/-- A clamped value is flagged where it lies outside the range (R66). -/
theorem clamp_flags (lo hi v : Int) : (clamp lo hi v).2 ≠ 0 ↔ v < lo ∨ hi < v := by
  have hsat : fSAT ≠ 0 := by decide
  unfold clamp
  split
  · exact ⟨fun _ => .inr ‹_›, fun _ => hsat⟩
  · split
    · exact ⟨fun _ => .inl ‹_›, fun _ => hsat⟩
    · exact ⟨fun h => absurd rfl h, fun _ => by omega⟩

theorem ofNat_toNat_eq_ofInt {x : Int} (h : 0 ≤ x) (n : Nat) : BitVec.ofNat n x.toNat = BitVec.ofInt n x := by
  obtain ⟨k, rfl⟩ := Int.eq_ofNat_of_zero_le h
  rw [Int.toNat_natCast, BitVec.ofInt_natCast]

/-! ### A write of a scale register (R55, R209) -/

@[simp] theorem scale_setScale (k : Core) (z : Nat) (r : Scale) : (k.setScale z r).scale z = r := get_put _ _ _ _

/-- The writer holds the register, whose generation advances; it is no longer AUTO unless the writer held it before. -/
theorem scale_writeScale (k : Core) (u z : Nat) : (k.writeScale u z).scale z =
    { k.scale z with
      gen := ((k.scale z).gen + 1) % 1024, owner := some u,
      auto := if (k.scale z).owner = some u then (k.scale z).auto else false } := scale_setScale k z _

theorem writeScale_spec (k : Core) (u z : Nat) :
    let r := (k.writeScale u z).scale z
    r.owner = some u ∧ r.gen = ((k.scale z).gen + 1) % 1024 ∧ r.bytes = (k.scale z).bytes ∧
      ((k.scale z).owner ≠ some u → r.auto = false) ∧ ((k.scale z).owner = some u → r.auto = (k.scale z).auto) := by
  intro r
  have hr : r = _ := scale_writeScale k u z
  rw [hr]
  exact ⟨rfl, rfl, rfl, fun h => if_neg h, fun h => if_pos h⟩

/-! ### Regrouping of codes (R212) -/

theorem reblock_getD (mode bs bd : Nat) (old : List Byte) {x : Nat} (hx : x < 1024) :
    let lo := x % 32 * bd / bs
    let hi := (x % 32 * bd + bd - 1) / bs
    let l := (List.range (hi - lo + 1)).map fun n => (old.getD (x / 32 * 32 + lo + n) 127).toNat
    (reblock mode bs bd old).getD x 0 =
      if 31 < hi then 127 else if 255 ∈ l then 255 else BitVec.ofNat 8 (combineCodes mode l) := by
  simp [reblock, List.getD, List.getElem?_range hx, Nat.mul_comm 32]

/-! ### The core once the pc has moved on, instructions that are refused, and ranges -/

theorem past_myCore (s : State) : s.past.myCore = s.myCore := advance_myCore s 8

/-- An item that the thread may use is no reason to stop. -/
theorem unlessSlot_none {r : Option Nat} (k : Res) (h : r = none) : unlessSlot r k = k := by rw [h, unlessSlot]

theorem unlessSlot_some {r : Option Nat} {n : Nat} (k : Res) (h : r = some n) :
    unlessSlot r k = .trap (.of .slotState (word n)) := by rw [h, unlessSlot, slotTrap]

theorem rangeCheck_goes {p : State} {l : Bool} {va : Word} {len k : Nat} (h : p.rangeReady l va len k) (go : Res) :
    p.rangeCheck l va len k go = go := by
  obtain ⟨hf, hw, hc⟩ := h
  simp [State.rangeCheck, hf, hw, hc]

/-! ### The functions that rewrite a register in place (R211, R212) -/

section Rewrite
variable {s : State} {i : Instr} {z : BitVec 6} {f : State → List Byte → List Byte × Word} {l : List Byte} {w : Word}
  {h : Hdr} {s1 : Opnd} {m : M8}

/-- The state in which the thread writes the register. -/
def State.writing (s : State) (z : Nat) : State := s.past.onMyCore (·.writeScale s.cur z)

/-- The state once the thread has written codes `l` to the register, which the result brings with flags `w`. -/
def State.rewritten (s : State) (z : Nat) (l : List Byte) (w : Word) : State :=
  (s.writing z).later [.scale z] [.scale z l, .flags w]

theorem scaleOp_completes (he : exec i s = scaleOp i z f s) (hr : s.past.scaleReason z.toNat = none)
    (hf : f s.past (s.myCore.scale z.toNat).all = (l, w)) :
    Completes i s (s.rewritten z.toNat l w) :=
  completes_of_done he fun _ => by
    rw [unlessSlot_none _ hr, past_myCore, hf]
    rfl

theorem scaleOp_traps (he : exec i s = scaleOp i z f s) (hr : s.past.scaleReason z.toNat = some 1) :
    s.clear i = true → exec i s = .next (s.trapNow (.of .slotState 1)) :=
  traps_of_trap he fun _ => unlessSlot_some _ hr

/-- Codes that are not NaN, moved by an exact amount and clamped to the codes that are not NaN. -/
theorem mapCodes_clamp (n : Int) (bs : List Byte) : mapCodes (fun c => (clamp 0 254 (c + n)).1.toNat) bs =
    bs.map fun b => if b = 255 then 255 else BitVec.ofInt 8 (max 0 (min 254 (b.toNat + n))) := by
  refine List.map_congr_left fun b _ => ?_
  dsimp only
  split
  · assumption
  · rw [clamp_fst _ _ _ (by omega), ofNat_toNat_eq_ofInt (by omega)]

theorem sadd_flags (n : Int) (bs : List Byte) :
    flagIf (bs.any fun b => b != 255 && (clamp 0 254 (b.toNat + n)).2 != 0) fSAT =
      if ∃ b ∈ bs, b ≠ 255 ∧ (b.toNat + n < 0 ∨ 254 < b.toNat + n) then fSAT else 0 := by
  have h : (bs.any fun b => b != 255 && (clamp 0 254 (b.toNat + n)).2 != 0) = true ↔
      ∃ b ∈ bs, b ≠ 255 ∧ (b.toNat + n < 0 ∨ 254 < b.toNat + n) := by
    simp only [List.any_eq_true, Bool.and_eq_true, bne_iff_ne, clamp_flags]
  simp only [flagIf, h]

/-- Codes that are combined with the low byte of a word, NaN with whatever code being NaN. -/
theorem mapCodes_pair {f : Nat → Nat → Nat} {g : Byte → Byte → Byte}
    (hg : ∀ b c : Byte, BitVec.ofNat 8 (f b.toNat c.toNat) = g b c) (a : Word) (bs : List Byte) :
    mapCodes (fun c => if a.toNat % 256 = 255 then 255 else f c (a.toNat % 256)) bs =
      bs.map fun b => if b = 255 ∨ a.setWidth 8 = 255 then 255 else g b (a.setWidth 8) := by
  have hlow : (a.setWidth 8).toNat = a.toNat % 256 := BitVec.toNat_setWidth ..
  have hnan : a.toNat % 256 = 255 ↔ a.setWidth 8 = 255 := by
    rw [← hlow, ← BitVec.toNat_inj]
    rfl
  refine List.map_congr_left fun b _ => ?_
  dsimp only
  by_cases hb : b = 255
  · rw [if_pos hb, if_pos (.inl hb), hb]
  · by_cases ha : a.setWidth 8 = 255
    · rw [if_neg hb, if_pos (hnan.mpr ha), if_pos (.inr ha)]
      rfl
    · rw [if_neg hb, if_neg (mt hnan.mp ha), if_neg (not_or.mpr ⟨hb, ha⟩), ← hlow, hg]

theorem ofNat_max (b c : Byte) : BitVec.ofNat 8 (max b.toNat c.toNat) = if b < c then c else b := by
  by_cases h : b < c
  · have hn : b.toNat < c.toNat := h
    simp [h, Nat.max_eq_right hn.le]
  · have hn : ¬b.toNat < c.toNat := h
    simp [h, Nat.max_eq_left (not_lt.mp hn)]

theorem ofNat_min (b c : Byte) : BitVec.ofNat 8 (min b.toNat c.toNat) = if c < b then c else b := by
  by_cases h : c < b
  · have hn : c.toNat < b.toNat := h
    simp [h, Nat.min_eq_right hn.le]
  · have hn : ¬c.toNat < b.toNat := h
    simp [h, Nat.min_eq_left (not_lt.mp hn)]

/-! The five of them, each as its own function of the state and the codes. -/

theorem exec_sadd : exec (.sadd h s1 z m) s = execSadd h s1 z m s := rfl
theorem exec_smax : exec (.smax h s1 z m) s = execSmax h s1 z m s := rfl
theorem exec_smin : exec (.smin h s1 z m) s = execSmin h s1 z m s := rfl
theorem exec_sset : exec (.sset h s1 z m) s = execSset h s1 z m s := rfl
theorem exec_sreblk : exec (.sreblk h s1 z m) s = execSreblk h s1 z m s := rfl

section Codes
variable (hr : s.past.scaleReason z.toNat = none)
include hr

theorem sadd_completes :
    let a := s.reg s1
    let bs := (s.myCore.scale z.toNat).all
    Completes (.sadd h s1 z m) s (s.rewritten z.toNat
      (bs.map fun b => if b = 255 then 255 else BitVec.ofInt 8 (max 0 (min 254 (b.toNat + a.toInt))))
      (if ∃ b ∈ bs, b ≠ 255 ∧ (b.toNat + a.toInt < 0 ∨ 254 < b.toNat + a.toInt) then fSAT else 0)) :=
  scaleOp_completes exec_sadd hr (by
    rw [past_reg]
    dsimp only
    rw [mapCodes_clamp, sadd_flags])

theorem smax_completes :
    let c := (s.reg s1).setWidth 8
    Completes (.smax h s1 z m) s (s.rewritten z.toNat
      ((s.myCore.scale z.toNat).all.map fun b => if b = 255 ∨ c = 255 then 255 else if b < c then c else b) 0) :=
  scaleOp_completes exec_smax hr (by
    rw [past_reg]
    dsimp only
    rw [mapCodes_pair ofNat_max])

theorem smin_completes :
    let c := (s.reg s1).setWidth 8
    Completes (.smin h s1 z m) s (s.rewritten z.toNat
      ((s.myCore.scale z.toNat).all.map fun b => if b = 255 ∨ c = 255 then 255 else if c < b then c else b) 0) :=
  scaleOp_completes exec_smin hr (by
    rw [past_reg]
    dsimp only
    rw [mapCodes_pair ofNat_min])

theorem sset_completes : Completes (.sset h s1 z m) s (s.rewritten z.toNat
    ((s.myCore.scale z.toNat).all.map fun _ => (s.reg s1).setWidth 8) 0) :=
  scaleOp_completes exec_sset hr (by rw [past_reg])

theorem sreblk_completes : Completes (.sreblk h s1 z m) s (s.rewritten z.toNat
    (reblock (s.mode m.rnd) (blkSize ((s.reg s1).setWidth 2)) (blkSize m.blk) (s.myCore.scale z.toNat).all) 0) :=
  scaleOp_completes exec_sreblk hr (by rw [past_reg, past_eq, advance_mode])

end Codes

end Rewrite

/-! ### Scale registers and memory (R210) -/

section Memory
variable {s : State} {h : Hdr} {s1 : Opnd} {z : BitVec 6} {m : M8}

theorem sld_completes (hr : s.past.scaleReason z.toNat = none)
    (hc : s.reg s1 = ((s.reg s1).setWidth 52).signExtend 64) (hal : m.sc = true → (s.reg s1).toNat % 4 = 0)
    (hgo : s.past.rangeReady true (s.reg s1) (512 / blkSize m.blk * 32 * if m.sc then 4 else 1) kRead) :
    let n := 512 / blkSize m.blk
    let ps := piecesOf 0 (s.reg s1) (n * 32 * if m.sc then 4 else 1)
    Completes (.sld h s1 z m) s
      (((s.writing z.toNat).openOut [.scale z.toNat] (.scale z.toNat n m.sc) ps.length).sendPieces s.past.next kRead
        (fun _ _ => .load) ps) := by
  intro n ps
  refine completes_of_done rfl fun _ => ?_
  have hsc : (m.sc && (s.reg s1).toNat % 4 != 0) = false := by
    cases hm : m.sc with
    | false => rfl
    | true => simp [hal hm]
  rw [unlessSlot_none _ hr, past_reg, canonical_of_signExtend hc, hsc, rangeCheck_goes hgo]
  rfl

theorem sst_completes (hr : s.past.scaleReason z.toNat = none) (hgo : s.past.rangeReady false (s.reg s1) 1024 kWrite) :
    let bs := (s.myCore.scale z.toNat).all
    let ps := piecesOf 0 (s.reg s1) 1024
    Completes (.sst h s1 z m) s ((s.past.openOut [] (.done []) ps.length).sendPieces s.past.next kWrite
      (fun off n => .store ((bs.drop off).take n)) ps) := by
  intro bs ps
  refine completes_of_done rfl fun _ => ?_
  rw [unlessSlot_none _ hr, past_reg, rangeCheck_goes hgo, past_myCore]

end Memory

/-! ### Bindings of operand slots (R213 to R215) -/

section Bindings
variable {s : State} {h : Hdr} {o : BitVec 3} {s1 s2 : Opnd} {z : BitVec 6} {m : M8}

/-- Moving the pc on lets no result return and poisons nothing. -/
theorem advance_outstanding (s : State) (n : Word) (d : Dst) : (s.advance n).outstanding d = s.outstanding d := by
  rw [State.outstanding, advance_th_outst]
  rfl

theorem advance_poisonedDst_scale (s : State) (n : Word) (z : Nat) :
    (s.advance n).poisonedDst (.scale z) = s.poisonedDst (.scale z) := by
  rw [State.poisonedDst, advance_myCore]
  rfl

/-- Where no register that the slot is bound to waits for a result, reading it early changes nothing (R25, R195). -/
theorem readBound_same {p : State} {n : Nat}
    (h : (p.myCore.slot n).unit = false → p.outstanding (.scale (p.myCore.slot n).z) = false) : p.readBound [n] = p := by
  refine readEarly_same _ _ fun d hd => ?_
  cases hu : (p.myCore.slot n).unit with
  | true => simp [hu] at hd
  | false =>
    simp [hu] at hd
    rw [hd, h hu]

theorem boundPoison_none {p : State} {n : Nat}
    (h : (p.myCore.slot n).unit = false → p.poisonedDst (.scale (p.myCore.slot n).z) = false) : p.boundPoison [n] = false := by
  cases hu : (p.myCore.slot n).unit with
  | true => simp [State.boundPoison, hu]
  | false => simp [State.boundPoison, State.poisonRead, hu, h hu]

/-- `smov` copies the codes bound to a slot, 127 for UNIT (R213). -/
theorem smov_completes (ho : s.past.slotReason o.toNat (fun st => st ≠ 0) = none) (hr : s.past.scaleReason z.toNat = none)
    (hst : s.myCore.stale (s.myCore.slot o.toNat) = false)
    (hb : (s.myCore.slot o.toNat).unit = false → s.outstanding (.scale (s.myCore.slot o.toNat).z) = false ∧
      s.poisonedDst (.scale (s.myCore.slot o.toNat).z) = false) :
    let q := s.myCore.slot o.toNat
    Completes (.smov h o z m) s ((s.writing z.toNat).later [.scale z.toNat]
      [.scale z.toNat (if q.unit then List.replicate 1024 127 else (s.myCore.scale q.z).all)]) := by
  intro q
  refine completes_of_done rfl fun _ => ?_
  have hread : s.past.readBound [o.toNat] = s.past := readBound_same fun hu => by
    rw [past_myCore] at hu ⊢
    exact (advance_outstanding s 8 _).trans (hb hu).1
  have hpoison : s.past.boundPoison [o.toNat] = false := boundPoison_none fun hu => by
    rw [past_myCore] at hu ⊢
    exact (advance_poisonedDst_scale s 8 _).trans (hb hu).2
  rw [unlessSlot_none _ ho, unlessSlot_none _ hr, past_myCore, hst, hread]
  simp only [Bool.false_eq_true, if_false, hpoison, past_myCore]
  rfl

theorem smov_traps (ho : s.past.slotReason o.toNat (fun st => st ≠ 0) = none) (hr : s.past.scaleReason z.toNat = none)
    (hst : s.myCore.stale (s.myCore.slot o.toNat) = true) :
    s.clear (.smov h o z m) = true →
      exec (.smov h o z m) s =
        .next (s.trapNow (.of .scaleStale (word (o.toNat + (s.myCore.slot o.toNat).z * 256)))) :=
  traps_of_trap rfl fun _ => by
    rw [unlessSlot_none _ ho, unlessSlot_none _ hr, past_myCore, hst]
    rfl

/-- A slot gets a binding, and an AUTO register that it was bound to is freed (R213, R215). -/
def State.rebound (s : State) (o : Nat) (n : Slot) : State :=
  (s.past.onMyCore fun c => (c.setSlot o n).freeAuto s.cur o (s.myCore.slot o)).later [] []

/-- A change of a core is what it makes of the core as it stands. -/
theorem onMyCore_congr {p : State} {f g : Core → Core} (h : f p.myCore = g p.myCore) : p.onMyCore f = p.onMyCore g :=
  congrArg (p.setCore p.th.core) h

/-- The binding that `sbind` gives a slot (R213): UNIT, or register `z` at its present generation. -/
def Core.bindingOf (k : Core) (q : Slot) (unit : Bool) (z blk : Nat) : Slot :=
  { q with
    unit := unit, z := if unit then 0 else z, gen := if unit then 0 else (k.scale z).gen, blk := if unit then 0 else blk }

theorem sbind_completes {unit : Bool} (hu : (s.reg s1).getLsbD 0 = unit)
    (ho : s.past.slotReason o.toNat (fun st => st == 2 || st == 3) = none)
    (hz : (if unit then none else s.past.scaleHeld z.toNat) = none)
    (hrow : unit = false → rowLen (s.myCore.slot o.toNat).fmt / blkSize m.blk ≤ 32) :
    Completes (.sbind h o s1 z m) s (s.rebound o.toNat
      (s.myCore.bindingOf (s.myCore.slot o.toNat) unit z.toNat m.blk.toNat)) := by
  refine completes_of_done rfl fun _ => ?_
  have hfits : (!unit && decide (32 < rowLen (s.myCore.slot o.toNat).fmt / blkSize m.blk)) = false := by
    cases unit with
    | true => rfl
    | false => simpa using hrow rfl
  rw [unlessSlot_none _ ho, past_reg, bit, hu, unlessSlot_none _ hz, past_myCore, hfits]
  refine congrArg (fun q : State => Res.done (q.later [] [])) (onMyCore_congr ?_)
  rw [past_myCore]
  rfl

theorem sbind_traps (hu : (s.reg s1).getLsbD 0 = false)
    (ho : s.past.slotReason o.toNat (fun st => st == 2 || st == 3) = none) (hz : s.past.scaleHeld z.toNat = none)
    (hrow : 32 < rowLen (s.myCore.slot o.toNat).fmt / blkSize m.blk) :
    s.clear (.sbind h o s1 z m) = true → exec (.sbind h o s1 z m) s = .next (s.trapNow (.of .slotState 4)) :=
  traps_of_trap rfl fun _ => by
    have hwide : (!false && decide (32 < rowLen (s.myCore.slot o.toNat).fmt / blkSize m.blk)) = true := by simpa using hrow
    rw [unlessSlot_none _ ho, past_reg, bit, hu, unlessSlot_none _ (by simpa using hz), past_myCore, hwide]
    rfl

theorem squery_completes (ho : s.past.slotReason o.toNat (fun _ => true) = none) :
    Completes (.squery h o s2 m) s (s.past.later [.reg s2] [.reg s2 (s.myCore.slotWord o.toNat)]) := by
  refine completes_of_done rfl fun _ => ?_
  rw [unlessSlot_none _ ho, past_myCore]

theorem sfree_completes (hz : s.past.scaleHeld z.toNat = none) :
    Completes (.sfree h z m) s (State.later (s.past.onMyCore fun c =>
      c.setScale z.toNat { c.scale z.toNat with owner := none, auto := false }) [] []) :=
  completes_of_done rfl fun _ => unlessSlot_none _ hz

end Bindings

/-- Settles O32: the functions on codes by `scaleOp` and what each makes of the codes; `sld` and `sst` by a range that goes
out; the bindings by what `sbind` gives a slot. -/
theorem scaleRegisters : Obligations.ScaleRegisters := by
  unfold Obligations.ScaleRegisters
  refine ⟨⟨fun s h s1 z m => ?codes, fun k u z _ => writeScale_spec k u z, ?regroup⟩,
    fun s h o s1 s2 z m => ?bindings⟩
  case codes =>
    intro p a n len zn bs w put
    exact ⟨fun hr => ⟨sld_completes hr, sst_completes hr, sadd_completes hr, smax_completes hr, smin_completes hr,
      sset_completes hr, sreblk_completes hr⟩, scaleOp_traps exec_sset⟩
  case regroup =>
    intro mode bs bd old x hx
    exact reblock_getD mode bs bd old hx
  case bindings =>
    intro p q zn full notFree bound
    exact ⟨smov_completes, smov_traps, fun ho hu => sbind_completes hu ho rfl nofun,
      fun ho hu hz => ⟨fun hrow => sbind_completes hu ho hz fun _ => hrow, sbind_traps hu ho hz⟩, squery_completes,
      sfree_completes⟩

end Sys2Proof.Machine
end

section
/-! PROOFS. The accumulator (R86 to R89, R201): the window of an anchor, what an `mma` makes of an element, and what it
leaves of the tile. -/

namespace Sys2Proof.Machine

/-! ### The window of an anchor (R88) -/

/-- The weight of the last place of an anchor's window (R86), in the unit in which sums are formed. -/
def windowUlp (a : Int) : Int := ((2 ^ (a - 96 - accUnit).toNat : Nat) : Int)

theorem windowUlp_pos (a : Int) : 0 < windowUlp a := Int.natCast_pos.mpr (Nat.two_pow_pos _)

/-- The number of places that a value comes to, held between the ends of the window. -/
theorem window_fst (a v : Int) : (window a v).1 = max (-2 ^ 127) (min (2 ^ 127 - 1) (v / windowUlp a)) := by
  unfold window windowUlp
  dsimp only
  split
  · omega
  · split <;> omega

/-- ACC_LOW: the value lies between two places. -/
theorem window_low_iff (a v : Int) : (window a v).2.1 = true ↔ ¬windowUlp a ∣ v := by
  have hlow : (window a v).2.1 = (v / windowUlp a * windowUlp a != v) := by
    unfold window windowUlp
    dsimp only
    split
    · rfl
    · split <;> rfl
  rw [hlow, bne_iff_ne]
  exact not_congr ⟨Dvd.intro_left _, Int.ediv_mul_cancel⟩

/-- ACC_HIGH: the number of places lies outside the window. -/
theorem window_high_iff (a v : Int) :
    (window a v).2.2 = true ↔ 2 ^ 127 - 1 < v / windowUlp a ∨ v / windowUlp a < -2 ^ 127 := by
  unfold window windowUlp
  dsimp only
  split
  · exact iff_of_true rfl (.inl ‹_›)
  · split
    · exact iff_of_true rfl (.inr ‹_›)
    · exact iff_of_false nofun (not_or.mpr ⟨‹_›, ‹_›⟩)

/-- R88 in terms of the value: truncation towards minus infinity within the window, its ends outside. -/
theorem window_spec (a v : Int) :
    let lsb := windowUlp a
    let w := window a v
    w.1 ≤ 2 ^ 127 - 1 ∧ -(2 ^ 127) ≤ w.1 ∧
      (-(2 ^ 127) * lsb ≤ v → v < 2 ^ 127 * lsb → w.1 * lsb ≤ v ∧ v < (w.1 + 1) * lsb ∧ w.2.2 = false) ∧
      (2 ^ 127 * lsb ≤ v → w.1 = 2 ^ 127 - 1 ∧ w.2.2 = true) ∧
      (v < -(2 ^ 127) * lsb → w.1 = -(2 ^ 127) ∧ w.2.2 = true) ∧ (w.2.1 = true ↔ ¬lsb ∣ v) := by
  intro lsb w
  have hpos : 0 < lsb := windowUlp_pos a
  have hfst : w.1 = max (-2 ^ 127) (min (2 ^ 127 - 1) (v / lsb)) := window_fst a v
  have hhigh : w.2.2 = true ↔ 2 ^ 127 - 1 < v / lsb ∨ v / lsb < -2 ^ 127 := window_high_iff a v
  refine ⟨by omega, by omega, fun hlo hhi => ?inside, fun hhi => ?above, fun hlo => ?below, window_low_iff a v⟩
  case inside =>
    have hge : -(2 ^ 127) ≤ v / lsb := (Int.le_ediv_iff_mul_le hpos).mpr hlo
    have hlt : v / lsb < 2 ^ 127 := (Int.ediv_lt_iff_lt_mul hpos).mpr hhi
    have hw : w.1 = v / lsb := by omega
    rw [hw]
    exact ⟨Int.ediv_mul_le v hpos.ne', Int.lt_ediv_add_one_mul_self v hpos,
      Bool.eq_false_iff.mpr fun h => by have hout := hhigh.mp h; omega⟩
  case above =>
    have hge : 2 ^ 127 ≤ v / lsb := (Int.le_ediv_iff_mul_le hpos).mpr hhi
    exact ⟨by omega, hhigh.mpr (.inl (by omega))⟩
  case below =>
    have hlt : v / lsb < -(2 ^ 127) := (Int.ediv_lt_iff_lt_mul hpos).mpr hlo
    exact ⟨by omega, hhigh.mpr (.inr hlt)⟩

/-! ### One element (R88, R89) -/

section Element
variable {a : Int} {e : Elem} {d : Dot}

theorem accumulate_of_nan (h : e.cls = 3 ∨ d.nan = true) : accumulate a e d = (⟨3, 0⟩, false, false, false) := if_pos h

/-- An invalid product makes a NaN with NV. -/
theorem accumulate_of_bad (he : e.cls ≠ 3) (hn : d.nan = false) (hb : d.bad = true) :
    accumulate a e d = (⟨3, 0⟩, false, false, true) := by
  simp [accumulate, he, hn, hb]

/-- Infinities of both signs make a NaN with NV. -/
theorem accumulate_of_opposite (he : e.cls ≠ 3) (hn : d.nan = false) (hp : d.pos = true ∨ e.cls = 1)
    (hm : d.neg = true ∨ e.cls = 2) : accumulate a e d = (⟨3, 0⟩, false, false, true) := by
  simp [accumulate, he, hn, hp, hm]

theorem accumulate_of_pos (hn : d.nan = false) (hb : d.bad = false) (hp : (d.pos = true ∧ e.cls = 0) ∨ e.cls = 1)
    (hm : d.neg = false) : accumulate a e d = (⟨1, 0⟩, false, false, false) := by
  obtain ⟨hp, he⟩ | he := hp
  · simp [accumulate, hn, hb, hm, hp, he]
  · simp [accumulate, hn, hb, hm, he]

theorem accumulate_of_neg (hn : d.nan = false) (hb : d.bad = false) (hm : (d.neg = true ∧ e.cls = 0) ∨ e.cls = 2)
    (hp : d.pos = false) : accumulate a e d = (⟨2, 0⟩, false, false, false) := by
  obtain ⟨hm, he⟩ | he := hm
  · simp [accumulate, hn, hb, hm, hp, he]
  · simp [accumulate, hn, hb, hp, he]

/-- A finite element with finite operands becomes what the window of the anchor holds of the sum. -/
theorem accumulate_of_finite (he : e.cls = 0) (hn : d.nan = false) (hb : d.bad = false) (hp : d.pos = false)
    (hm : d.neg = false) :
    let w := window a (e.v.toInt * windowUlp a + d.sum)
    accumulate a e d = (⟨0, BitVec.ofInt 128 w.1⟩, w.2.1, w.2.2, false) := by
  simp [accumulate, windowUlp, he, hn, hb, hp, hm]

end Element

/-! ### A list of values as a map -/

section Lists
variable {α : Type} [DecidableEq α] (d : α)

theorem get_sparseFrom_lt (l : List α) {i k : Nat} (h : k < i) : get d (sparseFrom d i l) k = d := by
  induction l generalizing i with
  | nil => rfl
  | cons v r ih =>
    have hr : get d (sparseFrom d (i + 1) r) k = d := ih (by omega)
    rw [sparseFrom]
    split
    · exact hr
    · rw [get, if_neg (by omega), hr]

/-- The map of a list reads as the list does. -/
theorem get_sparseFrom (l : List α) (i k : Nat) : get d (sparseFrom d i l) (i + k) = l.getD k d := by
  induction l generalizing i k with
  | nil => rfl
  | cons v r ih =>
    rw [sparseFrom]
    cases k with
    | zero =>
      split
      · next hv => rw [get_sparseFrom_lt d r (by omega), List.getD_cons_zero, hv]
      · exact if_pos (Nat.add_zero i).symm
    | succ k =>
      have hr : get d (sparseFrom d (i + 1) r) (i + (k + 1)) = r.getD k d := by
        rw [← ih (i + 1) k, Nat.add_right_comm, Nat.add_assoc]
      rw [List.getD_cons_succ]
      split
      · exact hr
      · rw [get, if_neg (by omega), hr]

end Lists

/-! ### One `mma` on a tile (R86 to R89) -/

section Tiles
variable (c : Core) (t : Tile) (a b : List Byte) (fa fb : Nat) (za zb : Option (Nat × Nat))

/-- The anchor in which an `mma` sums: that of the tile, or the one that the first `mma` sets (R86). -/
def Core.mmaAnchor : Int := if t.set then t.anchor else firstAnchor c fa fb (rowLen fa) za zb

/-- What an `mma` makes of element `n`, with its flags. -/
def Core.mmaElem (n : Nat) : Elem × Bool × Bool × Bool :=
  accumulate (c.mmaAnchor t fa fb za zb) (get Elem.zero t.el n)
    (dotOf c (sparseFrom 0 0 a) (sparseFrom 0 0 b) fa fb (rowLen fa) za zb (n / 32) (n % 32))

/-- What an `mma` makes of all elements, in order. -/
def Core.mmaElems : List (Elem × Bool × Bool × Bool) := (List.range 1024).map (c.mmaElem t a b fa fb za zb)

/-- The tile after an `mma`. -/
theorem doMma_fst : (c.doMma t a b fa fb za zb).1 =
    let res := c.mmaElems t a b fa fb za zb
    { t with
      anchor := c.mmaAnchor t fa fb za zb, set := true, el := sparseFrom Elem.zero 0 (res.map (·.1)),
      low := t.low || res.any (·.2.1), high := t.high || res.any (·.2.2.1) } := rfl

theorem doMma_el {n : Nat} (hn : n < 1024) :
    get Elem.zero (c.doMma t a b fa fb za zb).1.el n = (c.mmaElem t a b fa fb za zb n).1 := by
  have hget := get_sparseFrom Elem.zero ((c.mmaElems t a b fa fb za zb).map (·.1)) 0 n
  rw [Nat.zero_add] at hget
  rw [doMma_fst, hget]
  simp [Core.mmaElems, List.getD, List.getElem?_range hn]

/-- A tile's ACC_LOW holds from before, or comes from an element that lost bits. -/
theorem doMma_low_iff : (c.doMma t a b fa fb za zb).1.low = true ↔
    t.low = true ∨ ∃ n < 1024, (c.mmaElem t a b fa fb za zb n).2.1 = true := by
  simp [doMma_fst, Core.mmaElems]

/-- A tile's ACC_HIGH holds from before, or comes from an element that left the window. -/
theorem doMma_high_iff : (c.doMma t a b fa fb za zb).1.high = true ↔
    t.high = true ∨ ∃ n < 1024, (c.mmaElem t a b fa fb za zb n).2.2.1 = true := by
  simp [doMma_fst, Core.mmaElems]

end Tiles

/-- Settles O31: the window by its number of places, an element by the classes of what is summed, and the tile by its
elements. -/
theorem accumulation : Obligations.Accumulation := by
  unfold Obligations.Accumulation
  refine ⟨fun t n => ⟨rfl, rfl, rfl, rfl, rfl, rfl⟩, fun a v _ _ => window_spec a v, fun a e d => ?element,
    fun c t a b fa fb za zb n hn => ?tile⟩
  case element =>
    exact ⟨accumulate_of_nan, accumulate_of_bad, fun he hn _ => accumulate_of_opposite he hn, accumulate_of_pos,
      accumulate_of_neg, accumulate_of_finite⟩
  case tile =>
    exact ⟨rfl, rfl, rfl, fun h => (doMma_low_iff c t a b fa fb za zb).mpr (.inl h),
      fun h => (doMma_high_iff c t a b fa fb za zb).mpr (.inl h), doMma_el c t a b fa fb za zb hn⟩

end Sys2Proof.Machine
end

section
/-! PROOFS. The events of the matrix unit, launches, neighbour-paced cores, event queues and counters (R88, R204, R239 to
R252, R362, R397 to R400, R407): when each can happen, and what it does then. -/

namespace Sys2Proof.Machine

/-! ### The matrix unit and launches -/

section Units
variable {s : State} {core tile l c n a m : Nat} {j : TileJob} {js : List TileJob} {hd : Word} {q : Option Nat}
  {x : Bool × Nat × Nat}

theorem mmaAccumulation_next (hj : (s.core core).jobs = j :: js) (hc : s.canAccumulate core = true) :
    exec (.mmaAccumulation core) s =
      .next (State.runJobs core js.length ((s.onCore core fun c => { c with jobs := js }).doJob core j)) := by
  show execMmaAccumulation core s = _
  simp only [execMmaAccumulation, if_pos hc, hj]

theorem mdrainReadout_next (hc : s.canReadout core tile = true) :
    exec (.mdrainReadout core tile) s = .next (s.readout core tile) :=
  congrArg _ (if_pos hc)

/-- The rotation after a launch of context `a` has been taken: the next context, and in `a` the next queue (R397). -/
def State.turnTaken (s : State) (a : Nat) (q : Option Nat) : State :=
  State.onCtx { s with rotation := a + 1 } a fun c => { c with
    rotation := match q with
      | some q => (q + 1) % 16
      | none => c.rotation }

theorem launchAdmit_next (hn : s.nextLaunch = some (a, hd, q)) (hl : launchKey a hd = l) :
    exec (.launchAdmit l) s = .next ((s.turnTaken a q).takeRecord a hd none) := by
  have hc : s.canAdmit l = true := by simp [State.canAdmit, hn, hl]
  show execLaunchAdmit l s = _
  simp only [execLaunchAdmit, if_pos hc, hn]
  rfl

theorem leafStart_next (hp : s.leafPlace c l n = some x) :
    exec (.leafStart c l n) s = .next (s.take c x.1 x.2.1 x.2.2 (.leaf (word l) n)) := by
  show execLeafStart c l n s = _
  simp only [execLeafStart, hp]

theorem launchRepartition_next (hm : s.repartMode core l = some m) :
    exec (.launchRepartition core l) s = .next (s.repartition (l % 4096) core m).1 := by
  show execLaunchRepartition core l s = _
  simp only [execLaunchRepartition, hm]

end Units

/-! ### A message of an edge (R239, R249, R252) -/

section Messages
variable {s : State} {k pa : Nat} {b : BeaconMsg} {v w : Word} {h : Home}

/-- The destination's edge that a message came along is one that was paired with its sender, in the membership of the
sender in which it was sent. -/
theorem hasEdge_iff : s.hasEdge b = true ↔
    (s.core b.dst).nb.active = true ∧ (s.core b.dst).nb.epoch = b.dstEpoch ∧
      (b.edge % 2 = 0 → ∃ e, (s.core b.dst).nb.preds[b.edge / 2]? = some e ∧ e.core = b.src ∧ e.epoch = b.srcEpoch) ∧
      (b.edge % 2 = 1 → ∃ e, (s.core b.dst).nb.succs[b.edge / 2]? = some e ∧ e.core = b.src ∧ e.epoch = b.srcEpoch) := by
  obtain hside | hside := Nat.mod_two_eq_zero_or_one b.edge <;>
    simp [State.hasEdge, hside, Option.any_eq_true, and_assoc]

/-- A message leaves the edges of every core as they are. -/
theorem unbeacon_hasEdge (s : State) (k : Nat) (b : BeaconMsg) : (s.unbeacon k).hasEdge b = s.hasEdge b := rfl

theorem beaconArrival_eq (hb : s.beaconAt k = some b) (hm : b.msg = .done v) :
    exec (.beaconArrival k) s = .next (if (s.unbeacon k).hasEdge b then
      (s.unbeacon k).onEdge b (fun e => { e with pd := v }) (fun e => { e with sd := v }) else s.unbeacon k) := by
  show execBeaconArrival k s = _
  simp only [execBeaconArrival, hb, hm]

theorem leavingBeaconArrival_eq (hb : s.beaconAt k = some b) (hm : b.msg = .leaving) :
    exec (.leavingBeaconArrival k) s = .next (if (s.unbeacon k).hasEdge b then
      (s.unbeacon k).onEdge b (fun e => { e with left := true }) (fun e => { e with left := true }) else s.unbeacon k) := by
  show execLeavingBeaconArrival k s = _
  simp only [execLeavingBeaconArrival, hb, hm]

theorem cutMarkerArrival_eq (hb : s.beaconAt k = some b) (hm : b.msg = .cut w pa h v) :
    exec (.cutMarkerArrival k) s =
      .next (if (s.unbeacon k).hasEdge b then (s.unbeacon k).receiveCut b.dst w pa h v else s.unbeacon k) := by
  show execCutMarkerArrival k s = _
  simp only [execCutMarkerArrival, hb, hm]

theorem releaseMarkerArrival_eq (hb : s.beaconAt k = some b) (hm : b.msg = .release pa) :
    exec (.releaseMarkerArrival k) s = .next (if (s.unbeacon k).hasEdge b = true ∧
      ((s.unbeacon k).core b.dst).nb.cutPend = true ∧ ((s.unbeacon k).core b.dst).nb.cutPa = pa then
      (s.unbeacon k).releaseCut b.dst else s.unbeacon k) := by
  show execReleaseMarkerArrival k s = _
  simp only [execReleaseMarkerArrival, hb, hm]

/-- A message that may not arrive yet stays where it is. -/
theorem message_waits (hb : s.beaconAt k = none) :
    exec (.beaconArrival k) s = .next s ∧ exec (.leavingBeaconArrival k) s = .next s ∧
      exec (.cutMarkerArrival k) s = .next s ∧ exec (.releaseMarkerArrival k) s = .next s := by
  refine ⟨?_, ?_, ?_, ?_⟩
  · show execBeaconArrival k s = _
    simp only [execBeaconArrival, hb]
  · show execLeavingBeaconArrival k s = _
    simp only [execLeavingBeaconArrival, hb]
  · show execCutMarkerArrival k s = _
    simp only [execCutMarkerArrival, hb]
  · show execReleaseMarkerArrival k s = _
    simp only [execReleaseMarkerArrival, hb]

/-- A message along an edge that its destination has acts there. -/
theorem message_acts (hb : s.beaconAt k = some b) (he : s.hasEdge b = true) :
    (b.msg = .done v → exec (.beaconArrival k) s =
      .next ((s.unbeacon k).onEdge b (fun e => { e with pd := v }) (fun e => { e with sd := v }))) ∧
    (b.msg = .leaving → exec (.leavingBeaconArrival k) s =
      .next ((s.unbeacon k).onEdge b (fun e => { e with left := true }) (fun e => { e with left := true }))) ∧
    (b.msg = .cut w pa h v → exec (.cutMarkerArrival k) s = .next ((s.unbeacon k).receiveCut b.dst w pa h v)) ∧
    (b.msg = .release pa → exec (.releaseMarkerArrival k) s =
      .next (if (s.core b.dst).nb.cutPend = true ∧ (s.core b.dst).nb.cutPa = pa then (s.unbeacon k).releaseCut b.dst
        else s.unbeacon k)) := by
  rw [← unbeacon_hasEdge s k] at he
  exact ⟨fun hm => (beaconArrival_eq hb hm).trans (congrArg _ (if_pos he)),
    fun hm => (leavingBeaconArrival_eq hb hm).trans (congrArg _ (if_pos he)),
    fun hm => (cutMarkerArrival_eq hb hm).trans (congrArg _ (if_pos he)),
    fun hm => (releaseMarkerArrival_eq hb hm).trans (congrArg _ (if_congr (and_iff_right he) rfl rfl))⟩

/-- A message along an edge that its destination does not have is dropped. -/
theorem message_drops (hb : s.beaconAt k = some b) (he : ¬s.hasEdge b = true) :
    (b.msg = .done v → exec (.beaconArrival k) s = .next (s.unbeacon k)) ∧
    (b.msg = .leaving → exec (.leavingBeaconArrival k) s = .next (s.unbeacon k)) ∧
    (b.msg = .cut w pa h v → exec (.cutMarkerArrival k) s = .next (s.unbeacon k)) ∧
    (b.msg = .release pa → exec (.releaseMarkerArrival k) s = .next (s.unbeacon k)) := by
  rw [← unbeacon_hasEdge s k] at he
  exact ⟨fun hm => (beaconArrival_eq hb hm).trans (congrArg _ (if_neg he)),
    fun hm => (leavingBeaconArrival_eq hb hm).trans (congrArg _ (if_neg he)),
    fun hm => (cutMarkerArrival_eq hb hm).trans (congrArg _ (if_neg he)),
    fun hm => (releaseMarkerArrival_eq hb hm).trans (congrArg _ (if_neg fun hr => he hr.1))⟩

end Messages

/-! ### Steps, cuts, pairing and the watchdog (R242, R247, R249, R252) -/

section Steps
variable {s : State} {core t wd adr : Nat} {h : Home} {out : Option Nat}

theorem stepAdvance_next (hc : s.canAdvance core = true) : exec (.stepAdvance core) s = .next (s.advanceStep core) :=
  congrArg _ (if_pos hc)

theorem stepAdvance_idle (hc : s.canAdvance core = false) : exec (.stepAdvance core) s = .next s :=
  congrArg _ (if_neg (by simp [hc]))

theorem cutHold_next (hc : s.canHold core = true) (hh : (s.core core).nb.cutHome = some h) :
    exec (.cutHold core) s = .next
      ((s.onStep core fun n => { n with cutHeld := true }).addCounter core (s.core core).nb.cutPa h 1) := by
  show execCutHold core s = _
  simp only [execCutHold, if_pos hc, hh]

theorem stepcfgPairing_next (hc : s.mayPair core = true) : exec (.stepcfgPairing core) s = .next (s.pair core) :=
  congrArg _ (if_pos hc)

/-- A thread's core no longer waits for its pairing (R247). -/
def State.pairingDropped (s : State) (t : Nat) : State :=
  s.onCore (s.thread t).core fun k => match k.nb.pairing with
    | some p => if p.1 = t then { k with nb := { k.nb with pairing := none } } else k
    | none => k

theorem stepStall_next (ht : has s.threads t = true) (hs : s.stallOf t = some (wd, out, adr)) (hw : wd ≠ 0)
    (hlate : 2 ^ (wd + 10) ≤ (s.now - (s.thread t).parkedAt).toNat) :
    exec (.stepStall t) s =
      .next (((s.pairingDropped t).onThread t (·.abandon out)).raise t (.of .stepStall (word adr)) false) := by
  have hc : s.canStall t = true := by 
    simp only [State.canStall, ht, hs, bne_iff_ne.mpr hw, decide_eq_true hlate, Bool.and_self]
  show execStepStall t s = _
  simp only [execStepStall, if_pos hc, hs]
  rfl

end Steps

/-! ### Event queues and counters (R362, R407) -/

section Queues
variable {s : State} {c k : Nat} {e : Event} {es : List Event} {g : Count}

theorem heldEventPost_next (hc : s.canPostHeld c = true) (he : (s.ctx c).heldEvents = e :: es) :
    exec (.heldEventPost c) s = .next ((s.onCtx c fun x => { x with heldEvents := es }).writeEvent c e) := by
  show execHeldEventPost c s = _
  simp only [execHeldEventPost, if_pos hc, he]

theorem counterEventDelivery_next (hg : s.counts.find? (fun x => x.id == k) = some g) (ha : has s.ctxs g.asid = true) :
    exec (.counterEventDelivery k) s = .next
      (State.onCtx { s with counts := s.counts.filter fun x => x.id != k } g.asid fun x =>
        if x.state = .stopped then { x with pcntSaved := addCounts x.psel x.pcntSaved g.code g.n }
        else { x with pcnt := addCounts x.psel x.pcnt g.code g.n }) := by
  show execCounterEventDelivery k s = _
  simp only [execCounterEventDelivery, hg, ha, Bool.not_true, Bool.false_eq_true, if_false]

end Queues

/-- Settles O58: each event is its effect where it can happen, and a message along an edge acts exactly where `hasEdge`
finds that edge. -/
theorem unitEvents : Obligations.UnitEvents := by
  unfold Obligations.UnitEvents
  intro s core tile k l c n t j js a hd w v q x m b pa h e es g wd out
    adr ends z nb named listed edge unpaired counted
  have hlisted : s.hasEdge b = true ↔ listed := hasEdge_iff
  exact ⟨mmaAccumulation_next, mdrainReadout_next, launchAdmit_next, leafStart_next, launchRepartition_next,
    stepAdvance_next, stepAdvance_idle,
    fun hb => ⟨fun hl => message_acts hb (hlisted.mpr hl), fun hl => message_drops hb fun he => hl (hlisted.mp he)⟩,
    message_waits, cutHold_next, stepcfgPairing_next, stepStall_next, heldEventPost_next, counterEventDelivery_next⟩

end Sys2Proof.Machine
end

section
/-! PROOFS. Accesses at their homes (R106, R112, R276, R387): which access an event acts on, when it can happen, and what it
does then. -/

namespace Sys2Proof.Machine

section Accesses
variable {s : State} {k u : Nat} {a : Acc}

/-! ### When an access can be performed, completes or times out -/

/-- Only the write of a payload has more to wait for than its turn at its home (R127, R219). -/
theorem canPerform_of_mayPerform (hf : s.accs.find? (fun a => a.id == k) = some a) (hc : a.isCxl = false)
    (hp : s.mayPerform a = true)
    (hd : ∀ c bs leaf bad nib, a.op = .deposit c bs leaf bad nib → s.mayDeposit a c = true) : s.canPerform k = true := by
  simp only [State.canPerform, hf, hc, hp, Bool.not_false, Bool.true_and]
  split
  · next c bs leaf bad nib hop => exact hd c bs leaf bad nib hop
  · rfl

theorem canPerform_eq_false (hf : s.accs.find? (fun a => a.id == k) = some a)
    (h : a.isCxl = true ∨ s.mayPerform a = false) : s.canPerform k = false := by
  obtain h | h := h <;> simp [State.canPerform, hf, h]

theorem canCxl_eq (hf : s.accs.find? (fun a => a.id == k) = some a) :
    s.canCxl k = (a.isCxl && !s.timedOut a && s.mayPerform a) := by
  simp only [State.canCxl, hf]

theorem canLongLat_eq (hf : s.accs.find? (fun a => a.id == k) = some a) : s.canLongLat k = s.timedOut a := by
  simp only [State.canLongLat, hf]

/-! ### What the events do -/

theorem homeAccessPerformed_next (hf : s.accs.find? (fun a => a.id == k) = some a) (hc : s.canPerform k = true) :
    exec (.homeAccessPerformed k) s = .next (s.performNow a) := by
  show execHomeAccessPerformed k s = _
  simp only [execHomeAccessPerformed, if_pos hc, hf]

theorem homeAccessPerformed_idle (hc : s.canPerform k = false) : exec (.homeAccessPerformed k) s = .next s :=
  congrArg _ (if_neg (by simp [hc]))

theorem cxlAccessComplete_next (hf : s.accs.find? (fun a => a.id == k) = some a) (hc : s.canCxl k = true) :
    exec (.cxlAccessComplete k) s = .next (s.performNow a) := by
  show execCxlAccessComplete k s = _
  simp only [execCxlAccessComplete, if_pos hc, hf]

theorem cxlAccessComplete_idle (hc : s.canCxl k = false) : exec (.cxlAccessComplete k) s = .next s :=
  congrArg _ (if_neg (by simp [hc]))

theorem longLat_next (hf : s.accs.find? (fun a => a.id == k) = some a) (ht : s.timedOut a = true)
    (ho : a.owner = .thread u) :
    exec (.longLat k) s = .next (State.longLatAt { s with free := s.free + 1 } a u) := by
  show execLongLat k s = _
  simp only [execLongLat, if_pos ((canLongLat_eq hf).trans ht), hf, ho]

theorem longLat_idle (hc : s.canLongLat k = false) : exec (.longLat k) s = .next s :=
  congrArg _ (if_neg (by simp [hc]))

/-- No event happens to an access that is not under way. -/
theorem access_missing (hf : s.accs.find? (fun a => a.id == k) = none) :
    exec (.homeAccessPerformed k) s = .next s ∧ exec (.cxlAccessComplete k) s = .next s ∧ exec (.longLat k) s = .next s :=
  ⟨homeAccessPerformed_idle (by simp only [State.canPerform, hf]), cxlAccessComplete_idle (by simp only [State.canCxl, hf]),
    longLat_idle (by simp only [State.canLongLat, hf])⟩

end Accesses

/-! ### Fast-path launches and uncorrectable data -/

section Others
variable {s : State} {k pa : Nat}

theorem fastPathCompletion_next (hc : s.canFastComplete k = true) :
    exec (.fastPathCompletion k) s = .next (s.fastComplete k) :=
  congrArg _ (if_pos hc)

theorem fastPathCompletion_idle (hc : s.canFastComplete k = false) : exec (.fastPathCompletion k) s = .next s :=
  congrArg _ (if_neg (by simp [hc]))

end Others

/-- In memory of the module the unit of the address is listed as poisoned, once (R387). -/
theorem uncorrectableMemoryData_eq {s : State} {pa : Nat} (hk : s.kindOf pa = some .hbm ∨ s.kindOf pa = some .scratch) :
    exec (.uncorrectableMemoryData pa) s = .next { s with poisoned := s.poisoned.insert (pa / 16) } := by
  show execUncorrectableMemoryData pa s = _
  obtain hk | hk := hk <;> simp only [execUncorrectableMemoryData, hk] <;> by_cases hm : pa / 16 ∈ s.poisoned <;>
    simp [hm]

/-- Uncorrectable data poisons its own unit and nothing else, and changes no byte and no thread (R387). -/
theorem uncorrectableMemoryData_poisons {s : State} {pa : Nat}
    (hk : s.kindOf pa = some .hbm ∨ s.kindOf pa = some .scratch) :
    ∃ q : State, exec (.uncorrectableMemoryData pa) s = .next q ∧ pa / 16 ∈ q.poisoned ∧ q.mem = s.mem ∧
      q.threads = s.threads ∧ ∀ x, x ≠ pa / 16 → (x ∈ q.poisoned ↔ x ∈ s.poisoned) :=
  ⟨_, uncorrectableMemoryData_eq hk, List.mem_insert_self, rfl, rfl, fun _ hx =>
    List.mem_insert_iff.trans (or_iff_right hx)⟩

/-- Settles O57: an access acts through the event that its home and its time limit leave open to it, and through no other. -/
theorem accessEvents : Obligations.AccessEvents := by
  unfold Obligations.AccessEvents
  intro s k pa u a ends find
  refine ⟨?performed, ?waits, access_missing, ?completes, ?timesOut, ?early, fastPathCompletion_next,
    fastPathCompletion_idle, uncorrectableMemoryData_poisons⟩
  case performed => exact fun hf hc hp hd => homeAccessPerformed_next hf (canPerform_of_mayPerform hf hc hp hd)
  case waits => exact fun hf h => homeAccessPerformed_idle (canPerform_eq_false hf h)
  case completes =>
    exact fun hf hc hp ht => cxlAccessComplete_next hf (by rw [canCxl_eq hf, hc, ht, hp]; rfl)
  case timesOut =>
    exact fun hf ht ho => ⟨longLat_next hf ht ho, cxlAccessComplete_idle (by simp [canCxl_eq hf, ht])⟩
  case early => exact fun hf ht => longLat_idle ((canLongLat_eq hf).trans ht)

end Sys2Proof.Machine
end

section
/-! PROOFS. Operations of the state that leave memory alone (R97): every one but the store of bytes, the scrub of a range,
the drop of a dirty line and what is made of these. -/

namespace Sys2Proof.Machine

/-! ### Loops, and updates of one part of the state -/

theorem forEach_mem {α : Type} {f : α → State → State} (hf : ∀ a s, (f a s).mem = s.mem) (l : List α) (s : State) :
    (forEach f l s).mem = s.mem := forEach_reads State.mem hf l s

@[simp] theorem onThread_mem (s : State) (uid : Nat) (f : Thread → Thread) : (s.onThread uid f).mem = s.mem := by
  unfold State.onThread
  split <;> simp

@[simp] theorem onCore_mem (s : State) (c : Nat) (f : Core → Core) : (s.onCore c f).mem = s.mem := rfl

@[simp] theorem onCtx_mem (s : State) (a : Nat) (f : Ctx → Ctx) : (s.onCtx a f).mem = s.mem := rfl

@[simp] theorem onMyCore_mem (s : State) (f : Core → Core) : (s.onMyCore f).mem = s.mem := rfl

/-! ### Registers, predicates, flags and warnings -/

@[simp] theorem setRegOf_mem (s : State) (uid : Nat) (r : Opnd) (v : Word) : (s.setRegOf uid r v).mem = s.mem := by
  unfold State.setRegOf
  split <;> simp

@[simp] theorem setReg_mem (s : State) (r : Opnd) (v : Word) : (s.setReg r v).mem = s.mem := by
  simp [State.setReg]

@[simp] theorem setPred_mem (s : State) (p : BitVec 3) (v : Bool) : (s.setPred p v).mem = s.mem := rfl

@[simp] theorem flag_mem (s : State) (f : Word) : (s.flag f).mem = s.mem := rfl

@[simp] theorem warnBit_mem (s : State) (f : Word) : (s.warnBit f).mem = s.mem := rfl

/-! ### Homes, translations and the accesses under way -/

@[simp] theorem claim_mem (s : State) (h : Home) (pa n : Nat) : (s.claim h pa n).mem = s.mem := by
  unfold State.claim
  split <;> simp

@[simp] theorem cacheTr_mem (s : State) (asid : Nat) (va : Word) (k : Nat) (t : Tr) :
    (s.cacheTr asid va k t).mem = s.mem := by
  unfold State.cacheTr
  split <;> simp

@[simp] theorem setCsr_mem (s : State) (pa : Nat) (v : Word) : (s.setCsr pa v).mem = s.mem := by
  unfold State.setCsr
  (repeat' split) <;> simp

@[simp] theorem issueAcc_mem (s : State) (a : Acc) : (s.issueAcc a).mem = s.mem := rfl

@[simp] theorem holdEvent_mem (s : State) (a : Nat) (e : Event) : (s.holdEvent a e).mem = s.mem := rfl

@[simp] theorem retire_mem (s : State) (pa : Nat) : (s.retire pa).mem = s.mem := by
  unfold State.retire
  dsimp only
  (repeat' split) <;> simp

@[simp] theorem disturb_mem (s : State) (root : Nat) : (s.disturb root).mem = s.mem :=
  forEach_mem (fun _ _ => by simp) _ _

@[simp] theorem disturbed_mem (s : State) (pa : Nat) : (s.disturbed pa).mem = s.mem :=
  forEach_mem (fun _ _ => by simp) _ _

@[simp] theorem evict_mem (s : State) (a : Acc) : (s.evict a).mem = s.mem := rfl

@[simp] theorem parkQueued_mem (s : State) (a : Acc) : (s.parkQueued a).mem = s.mem := by
  unfold State.parkQueued
  (repeat' split) <;> simp

@[simp] theorem countHome_mem (s : State) (asid : Nat) (h : Home) (n : Nat) : (s.countHome asid h n).mem = s.mem := by
  unfold State.countHome
  split <;> simp

@[simp] theorem countAccess_mem (s : State) (a : Acc) : (s.countAccess a).mem = s.mem := by
  simp [State.countAccess]

@[simp] theorem walked_mem (s : State) (l : List (Nat × Word)) : (s.walked l).mem = s.mem :=
  forEach_mem (fun _ _ => by simp) _ _

@[simp] theorem rememberAll_mem (s : State) (w : Who) (k : Nat) (l : List Word) : (s.rememberAll w k l).mem = s.mem :=
  forEach_mem (fun _ _ => by split <;> simp) _ _

@[simp] theorem pass_mem (s : State) (k : Nat) : (s.pass k).mem = s.mem := rfl

/-! ### Event queues -/

@[simp] theorem reportFailure_mem (s : State) (a : Nat) (va : Word) (tr : Trap) :
    (s.reportFailure a va tr).mem = s.mem := rfl

@[simp] theorem sendEvent_mem (s : State) (a : Nat) (va : Word) (t : Tr) (bs : List Byte) (i : Nat) :
    (s.sendEvent a va t bs i).mem = s.mem := rfl

@[simp] theorem writeEvent_mem (s : State) (a : Nat) (e : Event) : (s.writeEvent a e).mem = s.mem := by
  unfold State.writeEvent
  dsimp only
  (repeat' split) <;> simp

@[simp] theorem settleEvents_mem (s : State) : s.settleEvents.mem = s.mem := rfl

@[simp] theorem postEvent_mem (s : State) (a : Nat) (e : Event) : (s.postEvent a e).mem = s.mem := by
  unfold State.postEvent
  (repeat' split) <;> simp

@[simp] theorem pageRequest_mem (s : State) (a page source src thread : Nat) :
    (s.pageRequest a page source src thread).mem = s.mem := by
  simp [State.pageRequest]

/-! ### Threads, tasks and the queues of a core -/

@[simp] theorem leaveLines_mem (s : State) (uid : Nat) : (s.leaveLines uid).mem = s.mem := rfl

@[simp] theorem startThread_mem (s : State) (t : Thread) : (s.startThread t).mem = s.mem := by
  unfold State.startThread
  split <;> simp

@[simp] theorem countWords_mem (s : State) (w : Who) (l : List Word) : (s.countWords w l).mem = s.mem :=
  forEach_mem (fun _ _ => by split <;> simp) _ _

@[simp] theorem startLeaf_mem (s : State) (asid core : Nat) (h : Word) (n : Nat) :
    (s.startLeaf asid core h n).mem = s.mem := by
  unfold State.startLeaf
  (repeat' split) <;> simp

@[simp] theorem startRow_mem (s : State) (asid core slot tile row : Nat) (pc arg issuer : Word) (lanes : List Lane)
    (cls : Nat) :
    (s.startRow asid core slot tile row pc arg issuer lanes cls).mem = s.mem := by
  simp [State.startRow]

@[simp] theorem unqueue_mem (s : State) (asid key : Nat) (e : QEntry) : (s.unqueue asid key e).mem = s.mem := rfl

@[simp] theorem take_mem (s : State) (asid : Nat) (cc : Bool) (core slot : Nat) (e : QEntry) :
    (s.take asid cc core slot e).mem = s.mem := by
  unfold State.take
  (repeat' split) <;> simp

@[simp] theorem refillOne_mem (s : State) (asid core : Nat) : (s.refillOne asid core).mem = s.mem := by
  unfold State.refillOne
  extract_lets +onlyGivenNames c n a
  split
  · rfl
  · split
    · dsimp only
      split <;> simp
    · split
      · rfl
      · rw [onCtx_mem, onCore_mem, countHome_mem, remember_mem]

@[simp] theorem refillDeque_mem (s : State) (asid core : Nat) : (s.refillDeque asid core).mem = s.mem := by
  unfold State.refillDeque
  split <;> simp [forEach_mem]

@[simp] theorem refillDeques_mem (s : State) : s.refillDeques.mem = s.mem :=
  forEach_mem (fun _ _ => forEach_mem (fun _ _ => by simp) _ _) _ _

@[simp] theorem startTask_mem (s : State) (core slot : Nat) (t : Task) : (s.startTask core slot t).mem = s.mem := by
  simp [State.startTask]

@[simp] theorem takeTask_mem (s : State) (asid core slot : Nat) : (s.takeTask asid core slot).mem = s.mem := by
  unfold State.takeTask
  dsimp only
  (repeat' split) <;> simp

@[simp] theorem fillUrgent_mem (s : State) (core : Nat) : (s.fillUrgent core).mem = s.mem := by
  unfold State.fillUrgent
  (repeat' split) <;> simp

@[simp] theorem fillSlot_mem (s : State) (core slot : Nat) : (s.fillSlot core slot).mem = s.mem := by
  unfold State.fillSlot
  (repeat' split) <;> simp

@[simp] theorem fillControl_mem (s : State) (cc slot : Nat) : (s.fillControl cc slot).mem = s.mem := by
  unfold State.fillControl
  (repeat' split) <;> simp

@[simp] theorem fill_mem (s : State) (cc : Bool) (core slot : Nat) : (s.fill cc core slot).mem = s.mem := by
  unfold State.fill
  split <;> simp

@[simp] theorem resettle_mem (s : State) (us : List Nat) : (s.resettle us).mem = s.mem :=
  forEach_mem (fun _ _ => by simp) _ _

@[simp] theorem fillCore_mem (s : State) (core : Nat) : (s.fillCore core).mem = s.mem :=
  forEach_mem (fun _ _ => by simp) _ _

/-! ### Rows and launches that end -/

@[simp] theorem rowEnded_mem (s : State) (core tile : Nat) : (s.rowEnded core tile).mem = s.mem := by
  unfold State.rowEnded
  dsimp only
  (repeat' split) <;> simp

@[simp] theorem statusTo_mem (s : State) (w : Nat × Nat × Opnd) (st : Nat) : (s.statusTo w st).mem = s.mem := by
  simp [State.statusTo]

@[simp] theorem completeLaunch_mem (s : State) (asid : Nat) (h : Word) (status : Nat) :
    (s.completeLaunch asid h status).mem = s.mem := by
  unfold State.completeLaunch
  (repeat' split) <;> simp [forEach_mem]

@[simp] theorem endLaunch_mem (s : State) (asid : Nat) (l : Launch) : (s.endLaunch asid l).mem = s.mem := by
  unfold State.endLaunch
  (repeat' split) <;> simp

@[simp] theorem settleLaunches_mem (s : State) : s.settleLaunches.mem = s.mem :=
  forEach_mem (fun _ _ => forEach_mem (fun _ _ => by (repeat' split) <;> simp) _ _) _ _

@[simp] theorem leafEnded_mem (s : State) (asid : Nat) (h : Word) (slot : Nat) (failed : Bool) :
    (s.leafEnded asid h slot failed).mem = s.mem := by
  unfold State.leafEnded
  dsimp only
  (repeat' split) <;> simp

/-! ### Accesses that are issued, and their results -/

@[simp] theorem send_mem (s : State) (o : Owner) (asid : Nat) (va : Word) (t : Tr) (size : Nat) (op : AccOp)
    (acq rel : Bool) (sco : Nat) :
    (s.send o asid va t size op acq rel sco).mem = s.mem := rfl

@[simp] theorem taskEnded_mem (s : State) (uid : Nat) (join : Word) : (s.taskEnded uid join).mem = s.mem := by
  unfold State.taskEnded
  split <;> simp

@[simp] theorem enterLocal_mem (s : State) (uid : Nat) (tr : Trap) (precise : Bool) (pc : Word) :
    (s.enterLocal uid tr precise pc).mem = s.mem := rfl

@[simp] theorem openOut_mem (s : State) (dsts : List Dst) (fin : Fin) (need : Nat) :
    (s.openOut dsts fin need).mem = s.mem := rfl

@[simp] theorem access_mem (s : State) (va : Word) (t : Tr) (size : Nat) (op : AccOp) (out off : Nat)
    (acq rel : Bool) (sco : Nat) :
    (s.access va t size op out off acq rel sco).mem = s.mem := rfl

@[simp] theorem countBulk_mem (s : State) (w : Who) (va : Word) (len k : Nat) : (s.countBulk w va len k).mem = s.mem := by
  unfold State.countBulk
  exact (forEach_mem (fun _ _ => countN_mem _ _ _ _) _ _).trans (rememberAll_mem _ _ _ _)

@[simp] theorem write_mem (s : State) (uid : Nat) (dead : List Dst) (w : Write) : (s.write uid dead w).mem = s.mem := by
  unfold State.write
  (repeat' split) <;> simp

@[simp] theorem writeAll_mem (s : State) (uid : Nat) (dead : List Dst) (ws : List Write) :
    (s.writeAll uid dead ws).mem = s.mem :=
  forEach_mem (fun _ _ => by simp) _ _

@[simp] theorem poisonDst_mem (s : State) (uid : Nat) (d : Dst) : (s.poisonDst uid d).mem = s.mem := by
  unfold State.poisonDst
  (repeat' split) <;> simp

@[simp] theorem countResult_mem (s : State) (uid : Nat) (o : Outst) : (s.countResult uid o).mem = s.mem := by
  unfold State.countResult
  (repeat' split) <;> simp

@[simp] theorem wroteShared_mem (s old : State) (uid : Nat) (d : Dst) : (s.wroteShared old uid d).mem = s.mem := by
  unfold State.wroteShared
  (repeat' split) <;> simp

@[simp] theorem returnResult_mem (s : State) (uid : Nat) (o : Outst) : (s.returnResult uid o).mem = s.mem := by
  simp [State.returnResult, forEach_mem, apply_ite State.mem]

/-! ### The operands of an instruction, and its end -/

@[simp] theorem warnEarly_mem (s : State) : s.warnEarly.mem = s.mem := by
  unfold State.warnEarly
  split <;> simp

@[simp] theorem readOne_mem (s : State) (d : Dst) : (s.readOne d).mem = s.mem := by
  unfold State.readOne
  dsimp only
  (repeat' split) <;> simp

@[simp] theorem readEarly_mem (s : State) (l : List Dst) : (s.readEarly l).mem = s.mem :=
  forEach_mem (fun _ _ => by simp) _ _

@[simp] theorem writeOne_mem (s : State) (d : Dst) : (s.writeOne d).mem = s.mem := by
  unfold State.writeOne
  split <;> simp

@[simp] theorem writeEarly_mem (s : State) (l : List Dst) : (s.writeEarly l).mem = s.mem :=
  forEach_mem (fun _ _ => by simp) _ _

@[simp] theorem parkAt_mem (s : State) (pc : Word) (p : Park) : (s.parkAt pc p).mem = s.mem := by
  simp [State.parkAt]

@[simp] theorem finish_mem (s : State) (pc : Word) (sw fall : Bool) : (s.finish pc sw fall).mem = s.mem := by
  simp [State.finish]

@[simp] theorem counted_mem (s : State) (cc : Bool) (asid : Nat) : (s.counted cc asid).mem = s.mem := by
  unfold State.counted
  split <;> simp

@[simp] theorem parkBody_mem (s q : State) (i : Instr) (pc : Word) (p : Park) : (s.parkBody q i pc p).mem = q.mem := by
  unfold State.parkBody
  split <;> simp

@[simp] theorem setResult_mem (s : State) (d : Opnd) (r : Flagged Word) : (s.setResult d r).mem = s.mem := by
  simp [State.setResult]

@[simp] theorem later_mem (s : State) (dsts : List Dst) (ws : List Write) : (s.later dsts ws).mem = s.mem := rfl

@[simp] theorem parkSwitch_mem (s : State) : s.parkSwitch.mem = s.mem := by
  simp [State.parkSwitch]

/-! ### Movement, single accesses and the fetch buffer -/

@[simp] theorem depart_mem (s : State) (c : Nat) : (s.depart c).mem = s.mem := by
  unfold State.depart
  dsimp only
  (repeat' split) <;> simp

@[simp] theorem afterCxl_mem (s : State) (pa : Nat) : (s.afterCxl pa).mem = s.mem := by
  unfold State.afterCxl
  split <;> simp

@[simp] theorem single_mem (s : State) (dsts : List Dst) (fin : Fin) (va : Word) (t : Tr) (size : Nat) (op : AccOp)
    (acq rel : Bool) (sco : Nat) :
    (s.single dsts fin va t size op acq rel sco).mem = s.mem := by
  simp [State.single]

@[simp] theorem note_mem (s : State) (e : Seen) : (s.note e).mem = s.mem := rfl

@[simp] theorem noBuf_mem (s : State) : s.noBuf.mem = s.mem := rfl

@[simp] theorem reread_mem (s : State) (bs : List Byte) : (s.reread bs).mem = s.mem := rfl

@[simp] theorem prefetchLine_mem (s : State) (va : Word) : (s.prefetchLine va).mem = s.mem := by
  unfold State.prefetchLine
  (repeat' split) <;> simp

@[simp] theorem discardCopies_mem (s : State) (asid : Nat) (only : Option Nat) :
    (s.discardCopies asid only).mem = s.mem := rfl

@[simp] theorem parkOwn_mem (s : State) : s.parkOwn.mem = s.mem := rfl

@[simp] theorem jumpTo_mem (s : State) (a : Word) : (s.jumpTo a).mem = s.mem := rfl

/-! ### The vector and matrix units -/

@[simp] theorem sendElems_mem (out size k : Nat) (op : Nat → VElem → AccOp) (acq rel : Bool) (sco n : Nat)
    (l : List (VElem × Tr)) (s : State) : (State.sendElems out size k op acq rel sco n l s).mem = s.mem := by
  induction l generalizing n s with
  | nil => rfl
  | cons e r ih => exact (ih _ _).trans (by simp)

@[simp] theorem sendPieces_mem (s : State) (out k : Nat) (op : Nat → Nat → AccOp) (ps : List (Nat × Word × Nat)) :
    (s.sendPieces out k op ps).mem = s.mem :=
  forEach_mem (fun _ _ => by split <;> simp) _ _

@[simp] theorem jobDone_mem (s : State) (j : TileJob) (ws : List Write) (bad : Bool) :
    (s.jobDone j ws bad).mem = s.mem := by
  simp [State.jobDone]

@[simp] theorem doJob_mem (s : State) (core : Nat) (j : TileJob) : (s.doJob core j).mem = s.mem := by
  unfold State.doJob
  (repeat' split) <;> simp

@[simp] theorem runJobs_mem (core n : Nat) (s : State) : (State.runJobs core n s).mem = s.mem := by
  induction n generalizing s with
  | zero => rfl
  | succ n ih =>
    unfold State.runJobs
    (repeat' split) <;> simp [ih]

@[simp] theorem queueJob_mem (s : State) (dsts : List Dst) (op : TileOp) : (s.queueJob dsts op).mem = s.mem := by
  simp [State.queueJob]

@[simp] theorem startTld_mem (s : State) (o : Nat) (a b : Word) (fmt src k : Nat) (m : M8) (z : Option Nat) :
    (s.startTld o a b fmt src k m z).mem = s.mem := by
  simp [State.startTld]

@[simp] theorem readBound_mem (s : State) (l : List Nat) : (s.readBound l).mem = s.mem := by
  simp [State.readBound]

@[simp] theorem putPart_mem (s : State) (o off : Nat) (bs : List Byte) (flags : Word) :
    (s.putPart o off bs flags).mem = s.mem := by
  unfold State.putPart
  (repeat' split) <;> simp

@[simp] theorem spillUnit_mem (s : State) (e : Task) (va : Word) (t : Tr) (i : Nat) :
    (s.spillUnit e va t i).mem = s.mem := rfl

/-! ### Barriers, engine commands and deposits -/

@[simp] theorem setBarrier_mem (s : State) (k : Nat) (b : Barrier) : (s.setBarrier k b).mem = s.mem := rfl

@[simp] theorem sendArrival_mem (s : State) (o : Owner) (asid out : Nat) (k : Signal) (key sco : Nat) :
    (s.sendArrival o asid out k key sco).mem = s.mem := rfl

@[simp] theorem post_mem (s : State) (dsts : List Dst) (kind : CmdKind) (sco : BitVec 3) (caddr cval crec : Word)
    (len : Nat) :
    (s.post dsts kind sco caddr cval crec len).mem = s.mem := by
  unfold State.post
  dsimp only
  (repeat' split) <;> simp

@[simp] theorem onCmd_mem (s : State) (id : Nat) (f : Cmd → Cmd) : (s.onCmd id f).mem = s.mem := rfl

@[simp] theorem engineFrame_mem (s : State) (asid frame : Nat) : (s.engineFrame asid frame).1.mem = s.mem := by
  unfold State.engineFrame
  dsimp only
  (repeat' split) <;> simp

@[simp] theorem depositTo_mem (s : State) (asid pa cmd id : Nat) : (s.depositTo asid pa cmd id).1.mem = s.mem := by
  unfold State.depositTo
  dsimp only
  (repeat' split) <;> simp

@[simp] theorem deposit_mem (s : State) (o : Owner) (asid out cmd : Nat) (va : Word) (p : Nat × Word) (bs : List Byte)
    (bad nib : Bool) : (s.deposit o asid out cmd va p bs bad nib).mem = s.mem := by
  simp [State.deposit]

@[simp] theorem rehomeDeposits_mem (s : State) : s.rehomeDeposits.mem = s.mem :=
  forEach_mem (fun _ _ => by dsimp only; split <;> simp) _ _

@[simp] theorem readPiece_mem (s : State) (o : Owner) (asid cmd : Nat) (va : Word) (p : Nat × Word) (off n : Nat) :
    (s.readPiece o asid cmd va p off n).mem = s.mem := rfl

@[simp] theorem sendDest_mem (s : State) (c : Cmd) (got : List Piece) (new : Nat × Nat) (d : Nat × Option Nat) :
    (s.sendDest c got new d).mem = s.mem := by
  unfold State.sendDest
  dsimp only
  split
  · exact forEach_mem (fun _ _ => by split <;> simp) _ _
  · rfl

@[simp] theorem doPayload_mem (s : State) (a : Acc) (id : Nat) : (s.doPayload a id).mem = s.mem := by
  unfold State.doPayload
  split <;> simp [forEach_mem]

@[simp] theorem readFor_mem (s : State) (a : Acc) (id : Nat) : (s.readFor a id).mem = s.mem := by
  unfold State.readFor
  dsimp only
  (repeat' split) <;> simp

@[simp] theorem poisonUnits_mem (s : State) (pa n : Nat) : (s.poisonUnits pa n).mem = s.mem := rfl

/-! ### Launches -/

@[simp] theorem countLaunch_mem (s : State) (w : Who) (xa : Word) : (s.countLaunch w xa).mem = s.mem :=
  forEach_mem (fun _ _ => by simp) _ _

@[simp] theorem holdEntry_mem (s : State) (entry queue : Nat) : (s.holdEntry entry queue).mem = s.mem := rfl

@[simp] theorem dropHeld_mem (s : State) : s.dropHeld.mem = s.mem := rfl

@[simp] theorem takeRecord_mem (s : State) (asid : Nat) (h : Word) (donor : Option (Nat × Nat)) :
    (s.takeRecord asid h donor).mem = s.mem := by
  unfold State.takeRecord
  dsimp only
  (repeat' split) <;> simp

@[simp] theorem keepLaunch_mem (s : State) (r : Nat ⊕ (List Byte × List Byte)) : (s.keepLaunch r).mem = s.mem := by
  unfold State.keepLaunch
  split <;> simp

@[simp] theorem awaitLaunch_mem (s : State) (h : Word) (d : Opnd) : (s.awaitLaunch h d).mem = s.mem := rfl

@[simp] theorem startDonated_mem (s : State) (asid : Nat) (h : Word) (cc : Bool) (core slot : Nat) :
    (s.startDonated asid h cc core slot).mem = s.mem := by
  unfold State.startDonated
  (repeat' split) <;> simp

/-! ### Neighbour steps -/

@[simp] theorem onStep_mem (s : State) (core : Nat) (f : StepState → StepState) : (s.onStep core f).mem = s.mem := rfl

@[simp] theorem sendAll_mem (s : State) (core : Nat) (m : Beacon) : (s.sendAll core m).mem = s.mem :=
  forEach_mem (fun _ _ => by simp) _ _

@[simp] theorem arriveStep_mem (s : State) (core slot : Nat) : (s.arriveStep core slot).mem = s.mem := by
  unfold State.arriveStep
  dsimp only
  (repeat' split) <;> simp

@[simp] theorem advanceStep_mem (s : State) (core : Nat) : (s.advanceStep core).mem = s.mem := rfl

@[simp] theorem addCounter_mem (s : State) (core pa : Nat) (h : Home) (v : Word) :
    (s.addCounter core pa h v).mem = s.mem := rfl

@[simp] theorem receiveCut_mem (s : State) (core : Nat) (counter : Word) (pa : Nat) (h : Home) (k : Word) :
    (s.receiveCut core counter pa h k).mem = s.mem := by
  unfold State.receiveCut
  dsimp only
  (repeat' split) <;> simp

@[simp] theorem releaseCut_mem (s : State) (core : Nat) : (s.releaseCut core).mem = s.mem := by
  simp [State.releaseCut]

@[simp] theorem pair_mem (s : State) (core : Nat) : (s.pair core).mem = s.mem := by
  unfold State.pair
  dsimp only
  split
  · rfl
  · rw [onThread_mem]
    exact (forEach_mem (fun _ _ => by simp) _ _).trans (by split <;> simp)

@[simp] theorem edgeLoad_mem (s : State) (d : Opnd) (e : Pred) (u o : Word) (n : Nat) :
    (s.edgeLoad d e u o n).mem = s.mem := by
  simp [State.edgeLoad]

/-! ### Registers of control, images and translation -/

@[simp] theorem setModuleCr_mem (s : State) (n : Nat) (v : Word) : (s.setModuleCr n v).mem = s.mem := by
  unfold State.setModuleCr
  split <;> simp

@[simp] theorem writeCr_mem (s : State) (n : Nat) (v : Word) : (s.writeCr n v).mem = s.mem := by
  unfold State.writeCr
  (repeat' split) <;> simp

@[simp] theorem registerImage_mem (s : State) (uid img : Nat) : (s.registerImage uid img).mem = s.mem := rfl

@[simp] theorem dropWaits_mem (s : State) (uid : Nat) : (s.dropWaits uid).mem = s.mem := by
  unfold State.dropWaits
  dsimp only
  (repeat' split) <;> simp

@[simp] theorem resumeWait_mem (s : State) (uid img : Nat) (bs : List Byte) :
    (s.resumeWait uid img bs).mem = s.mem := by
  unfold State.resumeWait
  dsimp only
  (repeat' split) <;> simp

@[simp] theorem unkept_mem (s : State) : s.unkept.mem = s.mem := rfl

@[simp] theorem countImage_mem (s : State) (va : Word) : (s.countImage va).mem = s.mem := by
  simp [State.countImage]

@[simp] theorem placeFirst_mem (s : State) (uid core : Nat) : (s.placeFirst uid core).mem = s.mem := by
  unfold State.placeFirst
  dsimp only
  (repeat' split) <;> simp

@[simp] theorem discardTlb_mem (s : State) (ti target : Nat) (va : Word) :
    (s.discardTlb ti target va).mem = s.mem := rfl

/-! ### Contexts: grants, revocation and reset -/

@[simp] theorem postMailbox_mem (s : State) (vf : Nat) (e : Event) : (s.postMailbox vf e).mem = s.mem := rfl

@[simp] theorem writeCoreset_mem (s : State) (a : Nat) : (s.writeCoreset a).mem = s.mem := by
  unfold State.writeCoreset
  dsimp only
  split
  · rfl
  · split
    · simp
    · exact (forEach_mem (fun _ _ => by simp) _ _).trans (by simp)

@[simp] theorem rebind_mem (s : State) (asid : Nat) : (s.rebind asid).mem = s.mem := rfl

@[simp] theorem applyGrant_mem (s : State) (issuer child : Nat) (i : Item) :
    (s.applyGrant issuer child i).mem = s.mem := by
  unfold State.applyGrant
  cases i with
  | deleg m => exact forEach_mem (fun _ _ => by simp) _ _
  | _ => simp

@[simp] theorem handOver_mem (s : State) (ids : List Nat) : (s.handOver ids).mem = s.mem :=
  forEach_mem (fun _ _ => by (repeat' split) <;> simp) _ _

@[simp] theorem stopCmds_mem (s : State) (child : Nat) (frames : List Nat) : (s.stopCmds child frames).mem = s.mem := by
  simp [State.stopCmds]

@[simp] theorem closeConn_mem (s : State) (n status : Nat) : (s.closeConn n status).mem = s.mem := rfl

@[simp] theorem revokeCalls_mem (s : State) (asid i : Nat) : (s.revokeCalls asid i).mem = s.mem := rfl

@[simp] theorem revokeCap_mem (s : State) (n asid i : Nat) : (s.revokeCap n asid i).mem = s.mem := by
  induction n generalizing s asid i with
  | zero => rfl
  | succ n ih =>
    have hone : ∀ (d : Nat) (p : Nat × Nat) (s : State), (if p.2 = i then s.revokeCap n d p.1 else s).mem = s.mem :=
      fun d p s => by split <;> simp [ih]
    have hsub : (forEach (fun d s => forEach (fun (p : Nat × Nat) s => if p.2 = i then s.revokeCap n d p.1 else s)
        (s.ctx d).capFrom s) (s.children asid) s).mem = s.mem :=
      forEach_mem (fun d _ => forEach_mem (hone d) _ _) _ _
    unfold State.revokeCap
    dsimp only
    split
    · simpa using hsub
    · rw [onCtx_mem]
      exact (forEach_mem (fun _ _ => by split <;> simp) _ _).trans (by simpa using hsub)
    · simpa using hsub

@[simp] theorem fitBudget_mem (s : State) (f : Ctx → Nat) (set : Ctx → Nat → Ctx) (need : State → Nat → Nat)
    (each n a : Nat) : (s.fitBudget f set need each n a).mem = s.mem := by
  induction n generalizing s a with
  | zero => rfl
  | succ n ih =>
    unfold State.fitBudget
    exact forEach_reads (fun x : State × Nat => x.1.mem) (fun _ _ => by simp [ih]) _ _

@[simp] theorem onEach_mem (s : State) (f : Ctx → Ctx) (l : List Nat) : (forEach (fun a s => s.onCtx a f) l s).mem = s.mem :=
  forEach_mem (fun _ _ => by simp) _ _

@[simp] theorem markRevoke_mem (s : State) (child : Nat) (i : Item) : (s.markRevoke child i).mem = s.mem := by
  unfold State.markRevoke
  cases i with
  | cores l desc => exact (forEach_mem (fun _ _ => by simp) _ _).trans (by simp)
  | _ => simp

@[simp] theorem unqueueLost_mem (s : State) (asid : Nat) : (s.unqueueLost asid).mem = s.mem := by
  simp [State.unqueueLost, forEach_mem]

@[simp] theorem countScrub_mem (s : State) (asid : Nat) : (s.countScrub asid).mem = s.mem := rfl

@[simp] theorem resetMark_mem (s : State) (a : Nat) : (s.resetMark a).mem = s.mem := rfl

@[simp] theorem giveBack_mem (s : State) (from_ tgt : Nat) : (s.giveBack from_ tgt).mem = s.mem :=
  forEach_mem (fun _ _ => forEach_mem (fun _ _ => by (repeat' split) <;> simp) _ _) _ _

@[simp] theorem forget_mem (s : State) (a : Nat) : (s.forget a).mem = s.mem := rfl

@[simp] theorem keep_mem (s : State) (v : Word) : (s.keep v).mem = s.mem := rfl

@[simp] theorem serveQueues_mem (s : State) (a : Nat) : (s.serveQueues a).mem = s.mem :=
  forEach_mem (fun _ _ => forEach_mem (fun _ _ => by
    split
    · rfl
    · split
      · simp
      · exact forEach_mem (fun _ _ => by simp) _ _) _ _) _ _

@[simp] theorem runCtx_mem (s : State) (a : Nat) : (s.runCtx a).mem = s.mem := by
  simp [State.runCtx]

@[simp] theorem markStopped_mem (s : State) (a : Nat) : (s.markStopped a).mem = s.mem := rfl

/-! ### Bytecodes -/

@[simp] theorem burst_mem (s : State) (n : Nat) : (s.burst n).mem = s.mem := rfl

@[simp] theorem spent_mem (s : State) : s.spent.mem = s.mem := rfl

@[simp] theorem untraced_mem (s : State) : s.untraced.mem = s.mem := by
  unfold State.untraced
  split <;> simp

@[simp] theorem icKeep_mem (s : State) (va : Word) (i : Nat) (bs : List Byte) : (s.icKeep va i bs).mem = s.mem := by
  unfold State.icKeep
  dsimp only
  (repeat' split) <;> simp

@[simp] theorem uretMode_mem (s : State) : s.uretMode.mem = s.mem := rfl

@[simp] theorem hwWord_mem (s : State) (w : Who) (va : Word) (op : AccOp) (rel : Bool) :
    (s.hwWord w va op rel).mem = s.mem := by
  unfold State.hwWord
  split <;> simp

@[simp] theorem unuse_mem (s : State) (w : Who) (v : Word) : (s.unuse w v).mem = s.mem := by
  unfold State.unuse
  (repeat' split) <;> simp

@[simp] theorem fastComplete_mem (s : State) (k : Nat) : (s.fastComplete k).mem = s.mem := by
  unfold State.fastComplete
  dsimp only
  (repeat' split) <;> simp [forEach_mem]

/-! ### Rows of a tile, and beacons -/

@[simp] theorem unsend_mem (s : State) (k : Nat) : (s.unsend k).mem = s.mem := rfl

@[simp] theorem rowHandler_mem (s : State) (asid core tile row : Nat) (pc arg issuer : Word) (lanes : List Lane)
    (cls : Nat) :
    (s.rowHandler asid core tile row pc arg issuer lanes cls).mem = s.mem := by
  unfold State.rowHandler
  dsimp only
  (repeat' split) <;> simp

@[simp] theorem readout_mem (s : State) (core tile : Nat) : (s.readout core tile).mem = s.mem := by
  unfold State.readout
  dsimp only
  (repeat' split) <;> simp [forEach_mem]

@[simp] theorem unbeacon_mem (s : State) (k : Nat) : (s.unbeacon k).mem = s.mem := rfl

@[simp] theorem onEdge_mem (s : State) (b : BeaconMsg) (f : Pred → Pred) (g : Succ → Succ) :
    (s.onEdge b f g).mem = s.mem := rfl

/-! ### Engine operations -/

@[simp] theorem sendReads_mem (s : State) (c : Cmd) : (s.sendReads c).mem = s.mem := by
  unfold State.sendReads
  split
  · exact (forEach_mem (fun _ _ => by simp) _ _).trans (by simp)
  · rfl

@[simp] theorem settleReads_mem (s : State) : s.settleReads.mem = s.mem :=
  forEach_mem (fun _ _ => by split <;> simp) _ _

@[simp] theorem startRequest_mem (s : State) (c : Cmd) : (s.startRequest c).mem = s.mem := by
  unfold State.startRequest
  dsimp only
  (repeat' split) <;> simp

@[simp] theorem resultTo_mem (s : State) (c : Cmd) (ws : List Write) : (s.resultTo c ws).mem = s.mem := by
  simp [State.resultTo]

theorem mailTo_mem {s q : State} {asid thread : Nat} {uid : Option Nat} {v sender : Word}
    (h : s.mailTo asid thread uid v sender = some q) : q.mem = s.mem := by
  unfold State.mailTo at h
  dsimp only at h
  (repeat' split at h) <;> cases h <;> simp

@[simp] theorem acceptMessage_mem (s : State) (c : Cmd) (tgt n : Nat) (v sender : Word) (d : Opnd) :
    (s.acceptMessage c tgt n v sender d).mem = s.mem := by
  unfold State.acceptMessage
  dsimp only
  split
  · simp
  · cases hm : State.mailTo _ tgt n _ v sender with
    | none => simp
    | some q => simp [mailTo_mem hm]

@[simp] theorem rememberCmd_mem (s : State) (c : Cmd) : (s.rememberCmd c).mem = s.mem :=
  forEach_mem (fun _ _ => by simp) _ _

@[simp] theorem accept_mem (s : State) (c : Cmd) : (s.accept c).mem = s.mem := by
  unfold State.accept
  dsimp only
  (repeat' split) <;> simp

@[simp] theorem sendRecord_mem (s : State) (c : Cmd) : (s.sendRecord c).mem = s.mem := by
  unfold State.sendRecord
  dsimp only
  (repeat' split) <;> simp

@[simp] theorem sendCompletion_mem (s : State) (c : Cmd) : (s.sendCompletion c).mem = s.mem := by
  unfold State.sendCompletion
  split <;> simp

@[simp] theorem engineArrive_mem (s : State) (c : Cmd) : (s.engineArrive c).mem = s.mem := by
  unfold State.engineArrive
  split <;> simp

@[simp] theorem complete_mem (s : State) (c : Cmd) : (s.complete c).mem = s.mem := by
  unfold State.complete
  (repeat' split) <;> simp

/-! ### The network -/

@[simp] theorem onConn_mem (s : State) (n : Nat) (f : Conn → Conn) : (s.onConn n f).mem = s.mem := rfl

@[simp] theorem onPkt_mem (s : State) (conn psn : Nat) (f : Pkt → Pkt) : (s.onPkt conn psn f).mem = s.mem := rfl

@[simp] theorem toPeer_mem (s : State) (k : Conn) (port entropy : Nat) (m : NetMsg) :
    (s.toPeer k port entropy m).mem = s.mem := rfl

@[simp] theorem readPacket_mem (s : State) (r : WorkReq) (p : Pkt) : (s.readPacket r p).mem = s.mem :=
  forEach_mem (fun _ _ => by simp) _ _

@[simp] theorem transmit_mem (s : State) (r : WorkReq) (p : Pkt) : (s.transmit r p).mem = s.mem := by
  unfold State.transmit
  dsimp only
  (repeat' split) <;> simp

@[simp] theorem received_mem (s : State) (k : Nat) : (s.received k).mem = s.mem := rfl

@[simp] theorem matchOne_mem (s : State) (n : Nat) (tagged : Bool) (m : Nat) : (s.matchOne n tagged m).mem = s.mem := by
  unfold State.matchOne
  dsimp only
  (repeat' split) <;> simp

@[simp] theorem matchUpTo_mem (s : State) (n : Nat) (tagged : Bool) (m : Nat) : (s.matchUpTo n tagged m).mem = s.mem :=
  forEach_mem (fun _ _ => by simp) _ _

@[simp] theorem place_mem (s : State) (id cmd asid : Nat) (va : Word) (l : List (Nat × Word × Nat × Nat))
    (bs : List Byte) (bad : List (Nat × Nat)) :
    (s.place id cmd asid va l bs bad).mem = s.mem :=
  forEach_mem (fun _ _ => forEach_mem (fun _ _ => by simp) _ _) _ _

@[simp] theorem startPlacing_mem (s : State) (p : Placed) (asid : Nat) (va : Word) (l : List (Nat × Word × Nat × Nat))
    (bs : List Byte) (bad : List (Nat × Nat)) :
    (s.startPlacing p asid va l bs bad).mem = s.mem := by
  unfold State.startPlacing
  split <;> simp

@[simp] theorem placeRequest_mem (s : State) (asid : Nat) (t : Trap) : (s.placeRequest asid t).mem = s.mem := by
  unfold State.placeRequest
  (repeat' split) <;> simp

@[simp] theorem matched_mem (s : State) (n op mseq : Nat) (tag : Word) : (s.matched n op mseq tag).mem = s.mem := by
  unfold State.matched
  (repeat' split) <;> simp

@[simp] theorem reply_mem (s : State) (n : Nat) (m : Nat → NetMsg) : (s.reply n m).mem = s.mem := rfl

@[simp] theorem ackPacket_mem (s : State) (n psn : Nat) : (s.ackPacket n psn).mem = s.mem := rfl

@[simp] theorem refuse_mem (s : State) (n op mseq len psn status : Nat) (last : Bool) :
    (s.refuse n op mseq len psn status last).mem = s.mem := by
  unfold State.refuse
  dsimp only
  (repeat' split) <;> simp

@[simp] theorem placedInto_mem (s : State) (p : Placed) : (s.placedInto p).mem = s.mem := by
  unfold State.placedInto
  dsimp only
  (repeat' split) <;> simp

@[simp] theorem answered_mem (s : State) (p : Placed) : (s.answered p).mem = s.mem := by
  unfold State.answered
  dsimp only
  (repeat' split) <;> simp

@[simp] theorem finishPlaced_mem (s : State) (p : Placed) : (s.finishPlaced p).mem = s.mem := by
  unfold State.finishPlaced
  dsimp only
  (repeat' split) <;> simp

@[simp] theorem settlePlacing_mem (s : State) : s.settlePlacing.mem = s.mem := by
  unfold State.settlePlacing
  dsimp only
  split
  · rfl
  · exact forEach_mem (fun _ _ => by split <;> simp) _ _

@[simp] theorem answerRead_mem (s : State) (n psn len : Nat) (tag : Word) (win : Nat) :
    (s.answerRead n psn len tag win).mem = s.mem := by
  unfold State.answerRead
  dsimp only
  (repeat' split) <;> simp

@[simp] theorem placeAnswer_mem (s : State) (n psn mseq index count : Nat) (payload : List Byte)
    (bad : List (Nat × Nat)) :
    (s.placeAnswer n psn mseq index count payload bad).mem = s.mem := by
  unfold State.placeAnswer
  (repeat' split) <;> simp

@[simp] theorem arrivePacket_mem (s : State) (n psn mseq index count len op : Nat) (tag : Word) (win : Nat)
    (last : Bool) (payload : List Byte) (bad : List (Nat × Nat)) :
    (s.arrivePacket n psn mseq index count len op tag win last payload bad).mem = s.mem := by
  unfold State.arrivePacket
  dsimp only
  (repeat' split) <;> simp

@[simp] theorem acknowledge_mem (s : State) (n psn : Nat) : (s.acknowledge n psn).mem = s.mem := by
  unfold State.acknowledge
  split <;> simp

@[simp] theorem refused_mem (s : State) (n psn status : Nat) : (s.refused n psn status).mem = s.mem := by
  unfold State.refused
  dsimp only
  (repeat' split) <;> simp

/-! ### The service processor and the host -/

@[simp] theorem serviceWrite_mem (s : State) (w : Who) (va : Word) (bs : List Byte) (rel : Bool) :
    (s.serviceWrite w va bs rel).mem = s.mem :=
  forEach_mem (fun _ _ => by split <;> simp) _ _

theorem newCap_mem {s q : State} {asid : Nat} {e : Word × Word} {i : Word} (h : s.newCap asid e = some (q, i)) :
    q.mem = s.mem := by
  unfold State.newCap at h
  split at h <;> cases h
  simp

@[simp] theorem grantEntry_mem (s : State) (asid : Nat) (e : Word × Word) : (s.grantEntry asid e).1.mem = s.mem := by
  unfold State.grantEntry
  split
  · rfl
  · next q i h => exact newCap_mem h

@[simp] theorem connect_mem (s : State) (c : Call) (r : Reply) : (s.connect c r).1.mem = s.mem := by
  unfold State.connect
  dsimp only
  split
  · rfl
  · next q i h =>
    have hq := newCap_mem h
    exact hq

@[simp] theorem serve_mem (s : State) (c : Call) (r : Reply) : (s.serve c r).1.mem = s.mem := by
  unfold State.serve
  dsimp only
  split
  case h_2 | h_8 => exact grantEntry_mem _ _ _
  case h_3 => exact serviceWrite_mem _ _ _ _ _
  case h_5 => split <;> simp
  case h_6 => exact connect_mem _ _ _
  case h_9 => exact (apply_ite (fun x : State × Nat × Word => x.1.mem) _ _ _).trans (by rw [grantEntry_mem, ite_self])
  all_goals rfl

@[simp] theorem replyTo_mem (s : State) (c : Call) (r : Reply) : (s.replyTo c r).mem = s.mem := by
  unfold State.replyTo
  dsimp only
  rw [onCtx_mem]
  refine ((serviceWrite_mem _ _ _ _ _).trans (serviceWrite_mem _ _ _ _ _)).trans ?_
  split
  · rfl
  · split
    · rfl
    · exact serve_mem s c r

@[simp] theorem enterLaunch_mem (s : State) (asid entry queue : Nat) (r : Record) (e : Entry) (modes : List Nat) (arg : Word)
    (host : Bool) (fast : Option (Word × Bool)) (after : List Need) :
    (s.enterLaunch asid entry queue r e modes arg host fast after).1.mem = s.mem := by
  unfold State.enterLaunch
  dsimp only
  split <;> simp

@[simp] theorem hostLaunch_mem (s : State) (a q : Nat) (rec arg : Word) : (s.hostLaunch a q rec arg).mem = s.mem := by
  unfold State.hostLaunch
  (repeat' split) <;> simp

@[simp] theorem barRead_mem (s : State) (vf off : Nat) : (s.barRead vf off).mem = s.mem := by
  unfold State.barRead
  split <;> simp

@[simp] theorem barWrite_mem (s : State) (vf off : Nat) (v : Word) : (s.barWrite vf off v).mem = s.mem := by
  unfold State.barWrite
  split <;> simp

@[simp] theorem enter_mem (s : State) (o : Owner) (pa size : Nat) (op : AccOp) :
    (s.enter o pa size op).mem = s.mem := by
  unfold State.enter
  dsimp only
  (repeat' split) <;> simp

/-! ### Boot -/

@[simp] theorem afterReset_mem (s : State) : s.afterReset.mem = s.mem := rfl

@[simp] theorem bootGrant_mem (s : State) (vf : Nat) (bs : List Byte) : (s.bootGrant vf bs).mem = s.mem := by
  unfold State.bootGrant
  (repeat' split) <;> simp

@[simp] theorem bootContexts_mem (s : State) (r : BootRecord) : (s.bootContexts r).mem = s.mem :=
  forEach_mem (fun _ _ => by dsimp only; (repeat' split) <;> simp) _ _

/-! ### The end of a turn and of a step -/

@[simp] theorem trimBuf_mem (s : State) : s.trimBuf.mem = s.mem := rfl

@[simp] theorem countParked_mem (s : State) (core : Nat) : (s.countParked core).mem = s.mem :=
  forEach_mem (fun _ _ => by split <;> simp) _ _

@[simp] theorem ageResv_mem (s : State) (cc : Bool) (core : Nat) : (s.ageResv cc core).mem = s.mem := rfl

@[simp] theorem tick_mem (s : State) (core : Nat) (urgent : Bool) : (s.tick core urgent).mem = s.mem := rfl

@[simp] theorem controlTick_mem (s : State) (core : Nat) : (s.controlTick core).mem = s.mem := rfl

@[simp] theorem settleStep_mem (s : State) (core : Nat) : (s.settleStep core).mem = s.mem := by
  unfold State.settleStep
  dsimp only
  (repeat' split) <;> simp

end Sys2Proof.Machine
end

section
/-! PROOFS. Operations that write memory and keep it in its canonical form (R97): each of them writes through the store of
bytes, the scrub of a range or the drop of a dirty line, which keep it (`storeBytes_wf`, `scrub_wf`, `dropLine_wf`). -/

namespace Sys2Proof.Machine

/-! ### Loops -/

theorem forEach_canonical {α : Type} {f : α → State → State} {l : List α} {s : State}
    (hf : ∀ a s, Memory.wf s.mem → Memory.wf (f a s).mem) (hs : Memory.wf s.mem) : Memory.wf (forEach f l s).mem :=
  forEach_keeps (P := fun s : State => Memory.wf s.mem) hf l hs

/-! ### Stores at a home, and those who wait there -/

section Homes
variable {s : State} {h : Home} {src va time : Word} {pa n c k img out : Nat} {a : Acc} {bs : List Byte} {bad : Bool} {o : Owner}
  (hs : Memory.wf s.mem)
include hs

@[simp] theorem storeBytes_canonical : Memory.wf (s.storeBytes pa bs).mem := storeBytes_wf pa bs hs

@[simp] theorem scrub_canonical : Memory.wf (s.scrub pa n).mem := scrub_wf pa n hs

theorem dropLine_canonical (l : Nat) (old : Held) : Memory.wf (s.dropLine l old).mem := dropLine_wf l old hs

@[simp] theorem rehome_canonical : Memory.wf (s.rehome h pa n).mem := by
  unfold State.rehome
  split
  · exact hs
  · refine forEach_canonical (fun l s hs => ?_) hs
    split
    · exact hs
    · split
      · exact hs
      · exact dropLine_canonical hs _ _

@[simp] theorem touch_canonical : Memory.wf (s.touch h va pa n).mem := by
  simp [State.touch, hs]

@[simp] theorem serveSaved_canonical : Memory.wf (s.serveSaved img out bs bad).mem := by
  unfold State.serveSaved
  refine storeBytes_canonical (storeBytes_canonical ?_)
  split
  · exact hs
  · split
    · simpa using hs
    · exact storeBytes_canonical (by split <;> simp [hs])

@[simp] theorem deliver_canonical : Memory.wf (s.deliver a bs bad).mem := by
  unfold State.deliver
  cases a.owner with
  | image p => exact serveSaved_canonical hs
  | _ => dsimp only; (repeat' split) <;> simp [hs]

@[simp] theorem arriveAt_canonical {k : Signal} : Memory.wf (s.arriveAt a k).mem := by
  cases k with
  | slot key pos => exact deliver_canonical (by split <;> simp [hs])
  | engine key core =>
    unfold State.arriveAt
    dsimp only
    split
    · exact hs
    · split <;> exact hs

@[simp] theorem salRecord_canonical : Memory.wf (s.salRecord c n src time).mem := by
  unfold State.salRecord
  dsimp only
  split <;> simp [hs]

@[simp] theorem salWord_canonical : Memory.wf (s.salWord c k src n).mem := by
  have hfirsts : ∀ l : List Past, Memory.wf (forEach (fun (e : Past) s => s.salRecord c e.word8 e.src e.time) l s).mem :=
    fun l => forEach_canonical (fun _ _ hs => salRecord_canonical hs) hs
  unfold State.salWord
  dsimp only
  (repeat' split) <;> simp [hs, hfirsts]

@[simp] theorem sal_canonical : Memory.wf (s.sal h src pa n).mem := by
  unfold State.sal
  split
  · exact hs
  · split
    · exact hs
    · exact forEach_canonical (fun _ _ hs => salWord_canonical hs) hs

@[simp] theorem writeAt_canonical : Memory.wf (s.writeAt h src pa bs).mem := by
  rw [State.writeAt, disturbed_mem, retire_mem]
  exact sal_canonical (by simp [hs])

@[simp] theorem serveOne_canonical : Memory.wf (s.serveOne a).mem := by
  unfold State.serveOne
  split
  · exact deliver_canonical (by split <;> simp [hs])
  · exact deliver_canonical (by simp [hs])
  · exact deliver_canonical hs
  · exact hs

omit hs in
theorem serveWord_canonical (w8 n : Nat) {s : State} (hs : Memory.wf s.mem) : Memory.wf (State.serveWord w8 n s).mem := by
  induction n generalizing s with
  | zero => exact hs
  | succ n ih =>
    unfold State.serveWord
    split
    · exact hs
    · exact ih (serveOne_canonical hs)

@[simp] theorem serveRange_canonical : Memory.wf (s.serveRange pa n).mem := by
  unfold State.serveRange
  split
  · exact hs
  · exact forEach_canonical (fun _ _ hs => serveWord_canonical _ _ hs) hs

@[simp] theorem storeAt_canonical : Memory.wf (s.storeAt h src pa bs).mem := serveRange_canonical (writeAt_canonical hs)

@[simp] theorem doAtom_canonical {op : Nat} {b d : Word} : Memory.wf (s.doAtom a op b d).mem :=
  deliver_canonical (storeAt_canonical hs)

@[simp] theorem forward_canonical : Memory.wf (s.forward a).mem := deliver_canonical (by split <;> exact hs)

omit hs in
theorem serveBank_canonical (h : Home) (pa n : Nat) {s : State} (hs : Memory.wf s.mem) :
    Memory.wf (State.serveBank h pa n s).mem := by
  induction n generalizing s with
  | zero => exact hs
  | succ n ih =>
    unfold State.serveBank
    split
    · exact hs
    · split
      · exact hs
      · next a _ =>
        dsimp only
        cases a.op with
        | atom op b d => exact ih (doAtom_canonical (by exact hs))
        | _ => exact ih (forward_canonical (by exact hs))

@[simp] theorem enqueueResv_canonical : Memory.wf (s.enqueueResv a).mem := by
  unfold State.enqueueResv
  split
  · split
    · exact doAtom_canonical hs
    · exact forward_canonical hs
  · split <;> simp [hs]

@[simp] theorem enqueueWait_canonical : Memory.wf (s.enqueueWait a).mem := by
  unfold State.enqueueWait
  split
  · exact serveRange_canonical (serveOne_canonical hs)
  · split <;> simp [hs]

@[simp] theorem refill_canonical : Memory.wf s.refill.mem := by
  refine forEach_canonical (fun _ _ hs => ?_) hs
  (repeat' split) <;> simp [hs]

@[simp] theorem endResv_canonical : Memory.wf (s.endResv o).mem := by
  unfold State.endResv
  split
  · exact hs
  · exact serveBank_canonical _ _ _ (serveRange_canonical hs)

@[simp] theorem storeHome_canonical : Memory.wf (s.storeHome a bs).mem := by
  unfold State.storeHome
  split <;> simp [hs]

@[simp] theorem perform_canonical : Memory.wf (s.perform a).mem := by
  have hq : Memory.wf ((s.countAccess a).rehome a.home a.pa a.size).mem := by simp [hs]
  unfold State.perform
  dsimp only
  cases a.op with
  | atom op b d => dsimp only; split <;> simp [hq]
  | fset c => exact serveRange_canonical (deliver_canonical (sal_canonical (by simp [hq])))
  | monrel v =>
    dsimp only
    split
    · exact endResv_canonical (by simp [hq])
    · exact deliver_canonical hq
  | _ => simp [hq]

end Homes

/-! ### Threads that leave their slots, end, or take a trap -/

section Threads
variable {s : State} {uid core a issuer child : Nat} {p : Place} {tr : Trap} {precise failed : Bool} {pc va : Word}
  (hs : Memory.wf s.mem)
include hs

@[simp] theorem vacate_canonical : Memory.wf (s.vacate uid p).mem := by
  unfold State.vacate
  dsimp only
  split <;> simp [hs]

@[simp] theorem displace_canonical : Memory.wf (s.displace uid).mem := by
  unfold State.displace
  dsimp only
  (repeat' split) <;> simp [hs]

@[simp] theorem enqueue_canonical : Memory.wf (s.enqueue uid core).mem := by
  unfold State.enqueue
  dsimp only
  split <;> simp [hs]

@[simp] theorem serveCore_canonical : Memory.wf (s.serveCore core).mem := by
  rw [State.serveCore, fillCore_mem]
  exact forEach_canonical (fun _ _ hs => by split <;> simp [hs]) hs

@[simp] theorem endThread_canonical : Memory.wf (s.endThread uid failed).mem := by
  unfold State.endThread
  dsimp only
  (repeat' split) <;> simp [hs]

@[simp] theorem enterControl_canonical : Memory.wf (s.enterControl uid tr precise pc).mem := by
  unfold State.enterControl
  dsimp only
  (repeat' split) <;> simp [hs]

@[simp] theorem reflect_canonical : Memory.wf (s.reflect uid tr precise pc).mem := by
  unfold State.reflect
  dsimp only
  split <;> simp [hs]

@[simp] theorem takeTrap_canonical : Memory.wf (s.takeTrap uid tr precise pc).mem := by
  unfold State.takeTrap
  (repeat' split) <;> simp [hs]

@[simp] theorem raise_canonical : Memory.wf (s.raise uid tr precise).mem := by
  unfold State.raise
  split <;> simp [hs]

@[simp] theorem trapNow_canonical : Memory.wf (s.trapNow tr).mem := by
  simp [State.trapNow, hs]

@[simp] theorem guardEnter_canonical {reason : Nat} {aux site : Word} :
    Memory.wf (s.guardEnter pc reason aux site).mem := by
  unfold State.guardEnter
  dsimp only
  split <;> simp [hs]

@[simp] theorem saveBlock_canonical : Memory.wf (s.saveBlock uid).mem := by
  unfold State.saveBlock
  dsimp only
  split <;> simp [hs]

@[simp] theorem saveAll_canonical {us : List Nat} : Memory.wf (s.saveAll us).mem :=
  forEach_canonical (fun _ _ hs => by split <;> simp [hs]) hs

@[simp] theorem removeSaved_canonical : Memory.wf (s.removeSaved uid).mem := by
  unfold State.removeSaved
  dsimp only
  split <;> simp [hs]

@[simp] theorem evictThread_canonical {out : Nat} : Memory.wf (s.evictThread uid out).mem := by
  unfold State.evictThread
  dsimp only
  (repeat' split) <;> simp [hs]

@[simp] theorem placeThread_canonical : Memory.wf (s.placeThread uid).mem := by
  unfold State.placeThread
  dsimp only
  (repeat' split) <;> simp [hs]

@[simp] theorem land_canonical : Memory.wf (s.land uid).mem := by
  unfold State.land
  dsimp only
  (repeat' split) <;> simp [hs]

@[simp] theorem donate_canonical {h : Word} {own : Option Word} : Memory.wf (s.donate h own).mem := by
  unfold State.donate
  dsimp only
  (repeat' split) <;> simp [hs]

@[simp] theorem crWrite_canonical {n : BitVec 12} {v : Word} : Memory.wf (s.crWrite n v).mem := by
  unfold State.crWrite
  dsimp only
  (repeat' split) <;> simp [hs]

theorem writeBlocks_canonical {w : Who} {src va : Word} {n : Nat} {bs : List Byte} :
    Memory.wf (s.writeBlocks w src n va bs).mem := by
  induction n generalizing s va bs with
  | zero => exact hs
  | succ n ih =>
    unfold State.writeBlocks
    split
    · exact hs
    · split
      · exact hs
      · exact ih (storeAt_canonical hs)

@[simp] theorem saveTo_canonical : Memory.wf (s.saveTo uid va).mem :=
  writeBlocks_canonical (removeSaved_canonical (by simpa using hs))

end Threads

/-! ### Frames, regions and what an access leads to -/

section Frames
variable {s : State} {asid r issuer child core uid : Nat} {a : Acc} {i : Item} {w : Revoke} (hs : Memory.wf s.mem)
include hs

@[simp] theorem settlePool_canonical : Memory.wf s.settlePool.mem := by
  unfold State.settlePool
  dsimp only
  split
  · exact hs
  · refine forEach_canonical (fun f s hs => ?_) hs
    split <;> simp [hs]

@[simp] theorem closeRegion_canonical : Memory.wf (s.closeRegion asid r).mem := by
  rw [State.closeRegion, rehomeDeposits_mem]
  exact settlePool_canonical (by exact hs)

@[simp] theorem flip_canonical {c : Cmd} {d : Opnd} : Memory.wf (s.flip c r d).mem := by
  unfold State.flip
  dsimp only
  rw [rehomeDeposits_mem]
  exact settlePool_canonical (by simpa using hs)

@[simp] theorem doDeposit_canonical {id : Nat} {bs : List Byte} {leaf : Word} {bad nib : Bool} :
    Memory.wf (s.doDeposit a id bs leaf bad nib).mem := by
  unfold State.doDeposit
  dsimp only
  (repeat' split) <;> simp [hs]

theorem cacheLines_canonical {co : Nat} {ps : List (Nat × Nat)} : Memory.wf (s.cacheLines co ps).mem := by
  unfold State.cacheLines
  dsimp only
  split
  · exact forEach_canonical (fun _ _ hs => dropLine_canonical hs _ _) hs
  · exact hs

@[simp] theorem performNow_canonical : Memory.wf (s.performNow a).mem := by
  unfold State.performNow
  dsimp only
  refine settlePool_canonical ?_
  dsimp only
  cases a.op with
  | payload c =>
    rw [readFor_mem]
    exact rehome_canonical (forEach_canonical (fun _ _ hs => by simpa using hs) hs)
  | _ => simp [hs]

@[simp] theorem longLatAt_canonical : Memory.wf (s.longLatAt a uid).mem := by
  unfold State.longLatAt
  refine raise_canonical ?_
  rw [onThread_mem]
  exact forEach_canonical (fun _ _ hs => by split <;> simp [hs]) hs

/-! ### Revocation and reset -/

@[simp] theorem raiseRevoked_canonical {out : Option Nat} {pc addr : Word} :
    Memory.wf (s.raiseRevoked uid issuer out pc addr).mem :=
  raise_canonical (by simpa using hs)

@[simp] theorem leaveGroup_canonical : Memory.wf (s.leaveGroup core).mem := by
  unfold State.leaveGroup
  exact forEach_canonical (fun _ _ hs => by split <;> simp [hs]) (by simpa using hs)

@[simp] theorem revokeWaits_canonical {frames : List Nat} : Memory.wf (s.revokeWaits issuer child frames).mem := by
  unfold State.revokeWaits
  refine forEach_canonical (fun _ _ hs => ?_) hs
  (repeat' split) <;> simp [hs]

@[simp] theorem cutOff_canonical : Memory.wf (s.cutOff issuer child i).mem := by
  unfold State.cutOff
  cases i with
  | memory base len perm =>
    dsimp only
    rw [stopCmds_mem]
    exact forEach_canonical (fun _ _ hs => forEach_canonical (fun _ _ hs => by split <;> simp [hs]) hs) (by simp [hs])
  | _ => simp [hs]

@[simp] theorem leaveCores_canonical {a : Nat} : Memory.wf (s.leaveCores i a).mem := by
  unfold State.leaveCores
  split
  · exact forEach_canonical (fun _ _ hs => by split <;> simp [hs]) hs
  · exact hs

@[simp] theorem leaveItems_canonical {a : Nat} {us : List Nat} : Memory.wf (s.leaveItems issuer i a us).mem := by
  have hsaved : Memory.wf (forEach (fun u s => if has s.threads u then s.saveBlock u else s) us s).mem :=
    forEach_canonical (fun _ _ hs => by split <;> simp [hs]) hs
  unfold State.leaveItems
  cases i with
  | barriers cl m =>
    refine forEach_canonical (fun _ _ hs => by split <;> simp [hs]) (forEach_canonical (fun _ _ hs => ?_) (by simpa using hsaved))
    (repeat' split) <;> simp [hs]
  | _ => simp [hsaved]

theorem cascade_canonical {l : List Nat} : Memory.wf (s.cascade issuer i l).1.mem := by
  induction l generalizing s with
  | nil => exact hs
  | cons a rest ih =>
    unfold State.cascade
    dsimp only
    split
    · exact ih hs
    · split
      · exact ih (leaveItems_canonical (leaveCores_canonical hs))
      · exact leaveCores_canonical hs

@[simp] theorem scrubBanks_canonical {cores : List Nat} {m : Word} : Memory.wf (s.scrubBanks cores m).mem :=
  forEach_canonical (fun _ _ hs => forEach_canonical (fun _ _ hs => by split <;> simp [hs]) hs) hs

@[simp] theorem endRevoke_canonical : Memory.wf (s.endRevoke w).mem := by
  unfold State.endRevoke
  split <;> simp [hs]

theorem settleRevokes_canonical : Memory.wf s.settleRevokes.mem := by
  refine forEach_canonical (fun _ _ hs => ?_) hs
  (repeat' split) <;> simp [hs]

@[simp] theorem discard_canonical : Memory.wf (s.discard uid).mem := by
  have hends : ∀ l : List Revoke, Memory.wf (forEach (fun (w : Revoke) s => if w.uid = uid then s.endRevoke w else s) l
      (((s.dropWaits uid).endResv (.thread uid)).leaveLines uid)).mem :=
    fun l => forEach_canonical (fun _ _ hs => by split <;> simp [hs]) (by simp [hs])
  unfold State.discard
  dsimp only
  (repeat' split) <;> simp [hends]

@[simp] theorem resetBegin_canonical {a : Nat} : Memory.wf (s.resetBegin a).mem := by
  unfold State.resetBegin
  dsimp only
  rw [handOver_mem]
  refine forEach_canonical (fun _ _ hs => forEach_canonical (fun _ _ hs => closeRegion_canonical hs) hs) ?_
  refine forEach_canonical (fun _ _ hs => by split <;> simp [hs]) ?_
  refine forEach_canonical (fun _ _ hs => by split <;> simp [hs]) ?_
  exact forEach_canonical (fun _ _ hs => by simpa using hs) (by simpa using hs)

theorem scrubRange_canonical {n base : Nat} : Memory.wf (s.scrubRange asid n base).mem := by
  induction n generalizing s base with
  | zero => exact hs
  | succ n ih =>
    refine ih ?_
    (repeat' split) <;> simp [hs]

@[simp] theorem resetEnd_canonical {a : Nat} {release : Bool} : Memory.wf (s.resetEnd issuer a release).mem := by
  unfold State.resetEnd
  extract_lets sub s1 s2 s3 s4 c s5 s6 s7 fresh s8
  have h1 : Memory.wf s1.mem :=
    forEach_canonical (fun _ _ hs => forEach_canonical (fun _ _ hs => by simpa using hs) hs) hs
  have h2 : Memory.wf s2.mem := forEach_canonical (fun _ _ hs => by split <;> simp [hs]) h1
  have h4 : Memory.wf s4.mem := forEach_canonical (fun _ _ hs => by simpa using hs) h2
  have h5 : Memory.wf s5.mem := forEach_canonical (fun _ _ hs => scrubRange_canonical hs) h4
  have h6 : Memory.wf s6.mem := by simp [s6, h5]
  split <;> simpa [s8, s7] using h6

/-! ### Saved threads and images -/

theorem stopAll_canonical : Memory.wf s.stopAll.mem := by
  unfold State.stopAll
  exact forEach_canonical (fun _ _ hs => by split <;> simp [hs])
    (forEach_canonical (fun _ _ hs => by split <;> simp [hs]) hs)

theorem answerTrap_canonical {tr : Trap} {precise : Bool} {act : Nat} :
    Memory.wf (s.answerTrap uid tr precise act).1.mem := by
  unfold State.answerTrap
  dsimp only
  (repeat' split) <;> simp [hs]

omit hs in
@[simp] theorem restore_mem (s : State) (h : Header) (core img : Nat) (bs : List Byte) :
    (s.restore h core img bs).1.mem = s.mem := by
  simp [State.restore]

theorem swap_canonical {q : State} {save load : Word} (hq : s.swap uid save load = .ok (some q)) : Memory.wf q.mem := by
  unfold State.swap at hq
  dsimp only at hq
  (repeat' split at hq) <;> cases hq <;> simp [hs]

/-! ### What comes about at once -/

theorem bootWith_canonical {r : BootRecord} : Memory.wf (s.bootWith r).mem := by
  unfold State.bootWith
  dsimp only
  rw [startThread_mem, forEach_mem (fun _ _ => by simp), forEach_mem (fun _ _ => by split <;> rfl), bootContexts_mem]
  exact forEach_canonical (fun _ _ hs => scrub_canonical hs) hs

theorem settle_canonical : Memory.wf s.settle.mem := by
  unfold State.settle
  dsimp only
  refine forEach_canonical (fun _ _ hs => by split <;> simp [hs]) (settleRevokes_canonical ?_)
  rw [settleReads_mem, settleLaunches_mem, settleEvents_mem, settlePlacing_mem, refillDeques_mem]
  have hstep : Memory.wf (forEach (fun (e : Nat × Core) s => State.settleStep s e.1) s.cores s).mem :=
    forEach_canonical (fun _ _ hs => by simpa using hs) hs
  split
  · exact hstep
  · exact refill_canonical hstep

end Frames

end Sys2Proof.Machine
end

section
/-! PROOFS. What a native instruction is made of, and memory's canonical form (R97): an answer keeps it when the state that it
carries does, and each check or wait that a body begins with keeps it when what follows does. -/

namespace Sys2Proof.Machine

/-! ### What the body of a native instruction answers -/

/-- The state that an answer carries has its memory in canonical form. -/
def Res.Kept : Res → Prop
  | .done q => Memory.wf q.mem
  | .trap _ => True
  | .park q _ => Memory.wf q.mem

@[simp] theorem kept_done {q : State} : (Res.done q).Kept ↔ Memory.wf q.mem := Iff.rfl
@[simp] theorem kept_trap {t : Trap} : (Res.trap t).Kept := trivial
@[simp] theorem kept_park {q : State} {p : Park} : (Res.park q p).Kept ↔ Memory.wf q.mem := Iff.rfl
@[simp] theorem kept_slotTrap {n : Nat} : (slotTrap n).Kept := trivial
@[simp] theorem kept_staleTrap {n m : Nat} : (staleTrap n m).Kept := trivial

/-- The state that a step leads to, if it leads to one, has its memory in canonical form. -/
def NextKept (o : Host.Outcome State Fault Refusal) : Prop := ∀ q, o = .next q → Memory.wf q.mem

@[simp] theorem nextKept_next {q : State} : NextKept (.next q) ↔ Memory.wf q.mem :=
  ⟨fun h => h q rfl, fun h _ hq => Host.Outcome.next.inj hq ▸ h⟩
@[simp] theorem nextKept_fault {r : Fault} : NextKept (.fault r) := nofun

/-- What a read of an instruction answers. -/
def Sought.Kept : Sought → Prop
  | .got q _ _ => Memory.wf q.mem
  | .trap _ => True
  | .wait q _ => Memory.wf q.mem

@[simp] theorem sought_got {q : State} {bs : List Byte} {bad : Bool} : (Sought.got q bs bad).Kept ↔ Memory.wf q.mem := Iff.rfl
@[simp] theorem sought_trap {t : Trap} : (Sought.trap t).Kept := trivial
@[simp] theorem sought_wait {q : State} {p : Park} : (Sought.wait q p).Kept ↔ Memory.wf q.mem := Iff.rfl

theorem Res.Kept.done {r : Res} {q : State} (h : r.Kept) (hr : r = .done q) : Memory.wf q.mem := by subst hr; exact h
theorem Res.Kept.park {r : Res} {q : State} {p : Park} (h : r.Kept) (hr : r = .park q p) : Memory.wf q.mem := by
  subst hr; exact h

section Bodies
variable {s : State} {go : Res} {d : Opnd} {va : Word} {n key : Nat} {body : State → Res}
  (hb : ∀ q, Memory.wf q.mem → (body q).Kept) (hs : Memory.wf s.mem)
include hb hs

theorem parksFirst_canonical {f : Info} {q : State} {p : Park} (h : s.parksFirst f body = some (q, p)) :
    Memory.wf q.mem := by
  unfold State.parksFirst at h
  (repeat' split at h) <;> cases h
  next hp _ => exact (hb _ (by simpa using hs)).park hp

theorem issue_canonical {i : Instr} : Memory.wf (s.issue i body).mem := by
  have htrap : ∀ t : Trap, Memory.wf (s.trapNow t).mem := fun t => trapNow_canonical hs
  unfold State.issue
  dsimp only
  split
  · exact htrap _
  · split
    · split
      · exact htrap _
      · next h => simpa using (hb _ (by simpa using hs)).park h
      · next h => simpa using (hb _ (by simpa using hs)).done h
    · split
      · exact htrap _
      · split
        · simpa using hs
        · split
          · exact htrap _
          · split
            · simpa using hs
            · split
              · next h => simpa using parksFirst_canonical hb hs h
              · split
                · exact htrap _
                · split
                  · exact htrap _
                  · next h => simpa using (hb _ (by simpa using hs)).park h
                  · next h =>
                    split
                    · simpa using hs
                    · simpa using (hb _ (by simpa using hs)).done h

theorem native_kept {i : Instr} : NextKept (native i body s) := by
  unfold native
  split
  · exact nextKept_next.mpr (issue_canonical hb hs)
  · exact nextKept_fault

end Bodies

/-! ### Checks and waits that a body begins with -/

section Checks
variable {s : State} {go : Res} {d : Opnd} {va e w : Word} {n key core asid len k : Nat} {ids : List Nat} {b : Bool} {h : Home}
  (hs : Memory.wf s.mem)
include hs

theorem released_kept (hgo : go.Kept) : (s.released n go).Kept := by
  unfold State.released
  split
  · exact hgo
  · exact hs

theorem afterWalks_kept {l : List (Word × Nat × Nat)} (hgo : go.Kept) : (s.afterWalks l go).Kept := by
  unfold State.afterWalks
  split
  · exact hgo
  · exact hs

theorem fencedStore_kept (hgo : go.Kept) : (s.fencedStore go).Kept := by
  unfold State.fencedStore
  split
  · exact hgo
  · exact hs

theorem afterArrivals_kept (hgo : go.Kept) : (s.afterArrivals key go).Kept := by
  unfold State.afterArrivals
  split
  · exact hgo
  · exact hs

theorem rangeCheck_kept (hgo : go.Kept) : (s.rangeCheck b va len k go).Kept := by
  unfold State.rangeCheck
  dsimp only
  split
  · exact hs
  · split
    · trivial
    · exact hgo

omit hs in
theorem member_kept (hgo : go.Kept) : (s.member go).Kept := by
  unfold State.member
  split
  · exact hgo
  · trivial

omit hs in
theorem unlessSlot_kept {r : Option Nat} (hgo : go.Kept) : (unlessSlot r go).Kept := by
  cases r with
  | none => exact hgo
  | some n => trivial

omit hs in
theorem onBarrier_kept {a : Opnd} {go : Nat → Nat → Res} (hgo : ∀ n key, (go n key).Kept) : (s.onBarrier a go).Kept := by
  unfold State.onBarrier
  dsimp only
  split
  · exact hgo _ _
  · trivial

omit hs in
theorem cfgBarrier_kept {a : Opnd} {go : Nat → Res} (hgo : ∀ key, (go key).Kept) : (s.cfgBarrier a go).Kept := by
  unfold State.cfgBarrier
  split
  · exact hgo _
  · exact onBarrier_kept fun _ key => hgo key

theorem moves_kept {r : Res} (hr : s.moves h = some r) : r.Kept := by
  unfold State.moves at hr
  split at hr
  · cases hr
  · obtain rfl := Option.some.inj hr
    (repeat' split) <;> simp [hs]

theorem memory_kept {loads stores plain : Bool} {go : State → Tr → Res} (hgo : ∀ q t, Memory.wf q.mem → (go q t).Kept) :
    (s.memory loads stores plain va n k go).Kept := by
  unfold State.memory
  split
  · exact hs
  · split
    · trivial
    · split
      · trivial
      · split
        · next hr => exact moves_kept hs hr
        · exact hgo _ _ (by simpa using hs)

theorem word8_kept {fe mon : Bool} {go : State → Tr → Res} (hgo : ∀ q t, Memory.wf q.mem → (go q t).Kept) :
    (s.word8 fe mon va k go).Kept := by
  refine memory_kept hs fun q t hq => ?_
  split
  · trivial
  · split
    · trivial
    · exact hgo q t hq

theorem localDescriptor_kept {go : State → List Byte → Res} (hgo : ∀ q bs, Memory.wf q.mem → (go q bs).Kept) :
    (s.localDescriptor va len go).Kept := by
  have hgoes := hgo (s.touch (.bank s.th.core (va.toNat / 0x20000)) va (scratch s.th.core va.toNat) len)
    (s.bytes (scratch s.th.core va.toNat) len) (touch_canonical hs)
  unfold State.localDescriptor
  dsimp only
  (repeat' split) <;> simp [hs, hgoes]

/-! ### Descriptors, which are read in pieces -/

theorem seek_kept {i : Nat} : (s.seek i va n).Kept := by
  unfold State.seek
  split
  · exact hs
  · exact hs
  · split
    · exact hs
    · split
      · trivial
      · dsimp only
        split
        · next hr => exact moves_kept hs hr
        · trivial
        · exact hs
        · split <;> simp [hs]

omit hs in
theorem seekAll_kept {i : Nat} {bs : List Byte} {bad : Bool} (hs : Memory.wf s.mem) :
    (State.seekAll n i va bs bad s).Kept := by
  induction n generalizing i va bs bad s with
  | zero => exact hs
  | succ n ih =>
    have hone := seek_kept hs (va := va) (n := 16) (i := i)
    unfold State.seekAll
    split
    · next hq => exact ih (by rw [hq] at hone; exact hone)
    · exact hone

theorem descriptor_kept {align : Nat} {go : State → List Byte → Res} (hgo : ∀ q bs, Memory.wf q.mem → (go q bs).Kept) :
    (s.descriptor va align len go).Kept := by
  have hall := seekAll_kept hs (n := (len + 15) / 16) (i := 0) (va := va) (bs := []) (bad := false)
  unfold State.descriptor
  split
  · trivial
  · split
    · trivial
    · next hq => rw [hq] at hall; exact hall
    · next hq =>
      rw [hq] at hall
      split
      · trivial
      · split
        · exact hall
        · exact hgo _ _ (by simpa using hall)

theorem itemAt_kept {go : State → Option Item → Res} (hgo : ∀ q i, Memory.wf q.mem → (go q i).Kept) :
    (s.itemAt va go).Kept :=
  descriptor_kept hs fun q _ hq => hgo q _ hq

theorem turn_kept {go : State → Res} (hgo : ∀ q, Memory.wf q.mem → (go q).Kept) : (s.turn n go).Kept := by
  unfold State.turn
  extract_lets ids line q act
  have hact : act.Kept := by
    have hq : Memory.wf q.mem := by simpa [q] using hs
    dsimp only [act]
    split
    · split
      · next hd => simpa using (hgo q hq).done hd
      · exact hgo q hq
    · exact hq
  split
  · exact released_kept hs hact
  · exact hact

/-! ### Link store and deque -/

theorem pushLink_kept {go : State → State} (hgo : ∀ q, Memory.wf q.mem → Memory.wf (go q).mem) : (s.pushLink e w go).Kept := by
  unfold State.pushLink
  dsimp only
  split
  · exact hgo _ (by simpa using hs)
  · split
    · trivial
    · refine memory_kept hs fun q t hq => ?_
      split
      · trivial
      · simpa using hgo _ (by simpa using hq)

theorem popLink_kept {go : State → Word → Res} (hgo : ∀ q e, Memory.wf q.mem → (go q e).Kept) : (s.popLink go).Kept := by
  unfold State.popLink
  split
  · exact hgo _ _ (by simpa using hs)
  · split
    · trivial
    · refine memory_kept hs fun _ _ _ => ?_
      have hread := seek_kept hs (va := s.spillAt (s.th.spilled - 1)) (n := 8) (i := 0)
      split
      · exact hs
      · split
        · trivial
        · next hq => rw [hq] at hread; exact hread
        · next hq =>
          rw [hq] at hread
          split
          · trivial
          · exact hgo _ _ (by simpa using hread)

theorem followLink_kept : (s.followLink e).Kept := by
  unfold State.followLink
  (repeat' split) <;> simp [hs]

theorem spillOldest_kept {go : State → Res} (hgo : ∀ q, Memory.wf q.mem → (go q).Kept) : (s.spillOldest core go).Kept := by
  unfold State.spillOldest
  split
  · exact hgo s hs
  · extract_lets +onlyGivenNames c n a
    split
    · exact hs
    · split
      · exact hs
      · split
        · trivial
        · refine hgo _ ?_
          rw [onCtx_mem, onCore_mem, forEach_mem (fun _ _ => spillUnit_mem _ _ _ _ _), remember_mem]
          exact hs

theorem pushTask_kept {t : Nat → Task} {go : State → Res} (hgo : ∀ q, Memory.wf q.mem → (go q).Kept) :
    (s.pushTask t go).Kept := by
  unfold State.pushTask
  dsimp only
  split
  · exact hgo _ (by simpa using hs)
  · exact spillOldest_kept hs fun q hq => hgo _ (by simpa using hq)

end Checks

end Sys2Proof.Machine
end

section
/-! PROOFS. The actions of a bytecode, and memory's canonical form (R97): every action keeps it, so does their sequence, and so
does a turn, which may stop within one and go on later. -/

namespace Sys2Proof.Machine

/-! ### What a bytecode does, and where it stops -/

/-- The state that a stop carries, or that its access leads to, has its memory in canonical form. -/
def Stop.Kept : Stop → Prop
  | .guardIn q _ _ _ => Memory.wf q.mem
  | .next _ f => ∀ q, Memory.wf q.mem → Memory.wf (f q).1.mem
  | _ => True

/-- What an action of a bytecode answers from a state has its memory in canonical form. -/
def Answered {α : Type} : Except Stop (α × State) → Prop
  | .ok x => Memory.wf x.2.mem
  | .error e => e.Kept

/-- An action of a bytecode keeps memory in its canonical form. -/
def Keeps {α : Type} (m : TM α) : Prop := ∀ s, Memory.wf s.mem → Answered (m s)

section Monad
variable {α β : Type} {m : TM α} {f : α → TM β}

@[simp] theorem keeps_pure {a : α} : Keeps (pure a : TM α) := fun _ hs => hs

theorem keeps_bind (hm : Keeps m) (hf : ∀ a, Keeps (f a)) : Keeps (m >>= f) := by
  intro s hs
  have hfirst := hm s hs
  show Answered (Except.bind (m s) fun x => f x.1 x.2)
  cases hx : m s with
  | error e => rw [hx] at hfirst; exact hfirst
  | ok x => rw [hx] at hfirst; exact hf x.1 x.2 hfirst

theorem keeps_get_bind {f : State → TM β} (hf : ∀ s, Memory.wf s.mem → Keeps (f s)) : Keeps (tGet >>= f) :=
  fun s hs => hf s hs s hs

theorem keeps_tPut {q : State} (hq : Memory.wf q.mem) : Keeps (tPut q) := fun _ _ => hq
@[simp] theorem keeps_tTrap {c : Cause} {a : Word} : Keeps (tTrap c a : TM α) := fun _ _ => trivial
@[simp] theorem keeps_tGuard {n : Nat} {a b : Word} : Keeps (tGuard n a b : TM α) := fun _ _ => trivial
@[simp] theorem keeps_tPark {p : Park} : Keeps (tPark p : TM α) := fun _ _ => trivial

theorem keeps_tEach {f : α → TM Unit} (hf : ∀ a, Keeps (f a)) (l : List α) : Keeps (tEach f l) := by
  induction l with
  | nil => exact keeps_pure
  | cons a r ih => exact keeps_bind (hf a) fun _ => ih

theorem keeps_tAll (hf : ∀ a, Keeps (f a)) (l : List α) : Keeps (tAll f l) := by
  induction l with
  | nil => exact keeps_pure
  | cons a r ih => exact keeps_bind (hf a) fun _ => keeps_bind ih fun _ => keeps_pure

/-- An action that only changes the state keeps memory if the change does. -/
theorem keeps_change {g : State → α × State} (hg : ∀ s, (g s).2.mem = s.mem) : Keeps (fun s => .ok (g s) : TM α) :=
  fun s hs => by rw [Answered, hg]; exact hs

end Monad

/-! ### Accesses -/

section Access
variable {s : State} {va w : Word} {n k size : Nat} {op : AccOp} {mn : Manner} {t : Tr}

theorem make_canonical (hs : Memory.wf s.mem) : Memory.wf (s.make va t size k op mn).1.mem := by
  unfold State.make
  dsimp only
  (repeat' split) <;> simp [hs]

theorem awaits_canonical {p : Park} (hs : Memory.wf s.mem) : Memory.wf (s.awaits p).1.mem := by
  simpa [State.awaits] using hs

/-- What a check of an access answers: a stop, or what the access leads to. -/
def Checked : Except Stop (State → Made) → Prop
  | .error e => e.Kept
  | .ok f => ∀ q, Memory.wf q.mem → Memory.wf (f q).1.mem

theorem keeps_tLive {write : Bool} {check : State → Except Stop (State → Made)}
    (hc : ∀ s, Memory.wf s.mem → Checked (check s)) : Keeps (tLive write check) := by
  intro s hs
  have hcs := hc s hs
  unfold tLive
  split
  · split
    · trivial
    · simpa [Answered] using hs
  · trivial
  · split
    · next hx => rw [hx] at hcs; exact hcs
    · next f hx =>
      rw [hx] at hcs
      split
      · have hfs := hcs s hs
        split
        · next hq =>
          rw [hq] at hfs
          split
          · trivial
          · exact hfs
        · trivial
      · exact hcs

theorem reach_stops {e : Stop} (he : s.reach va size k op = .error e) : e.Kept := by
  unfold State.reach at he
  (repeat' split at he) <;> cases he <;> trivial

@[simp] theorem keeps_tAccess : Keeps (tAccess va size k op mn) := by
  refine keeps_tLive fun s _ => ?_
  split
  · split
    · next he => exact reach_stops he
    · exact fun q hq => make_canonical hq
  · exact fun q hq => awaits_canonical hq

theorem icMake_canonical (hs : Memory.wf s.mem) : Memory.wf (s.icMake va n t).1.mem := by
  have hmade := make_canonical hs (va := va + word (8 * n)) (t := t) (size := 8) (k := kRead) (op := .load) (mn := .plain)
  unfold State.icMake
  split
  · next hq =>
    rw [hq] at hmade
    dsimp only
    split <;> simpa using hmade
  · exact hmade

@[simp] theorem keeps_tIcWord : Keeps (tIcWord va n) := by
  refine keeps_tLive fun s _ => ?_
  split
  · split
    · next he => exact reach_stops he
    · intro q hq
      dsimp only
      split
      · exact icMake_canonical hq
      · split
        · exact hq
        · exact icMake_canonical hq
  · exact fun q hq => awaits_canonical hq

@[simp] theorem keeps_tArena : Keeps tArena :=
  keeps_bind (keeps_tLive fun _ _ _ hq => hq) fun _ => keeps_pure

@[simp] theorem keeps_tSlotFirst : Keeps tSlotFirst :=
  keeps_bind (keeps_tLive fun _ _ _ hq => hq) fun _ => keeps_pure

@[simp] theorem keeps_tReserve : Keeps (tReserve n) := by
  refine keeps_bind (keeps_tLive fun s _ => ?_) fun _ => keeps_pure
  split
  · trivial
  · split
    · trivial
    · exact fun q hq => by simpa using hq

@[simp] theorem keeps_tEnterLaunch {rec blk res site : Word} : Keeps (tEnterLaunch rec blk res site n) := by
  refine keeps_bind (keeps_tLive fun s hs => ?_) fun _ => keeps_pure
  split
  · exact fun q hq => awaits_canonical hq
  · split
    · trivial
    · simpa [Checked, Stop.Kept] using hs
    · exact fun q hq => by simpa using hq

@[simp] theorem keeps_tRead : Keeps (tRead va size) := keeps_bind keeps_tAccess fun _ => keeps_pure
@[simp] theorem keeps_tWrite : Keeps (tWrite va size w mn) := keeps_bind keeps_tAccess fun _ => keeps_pure
@[simp] theorem keeps_tAtom {b d : Word} : Keeps (tAtom va n b d mn) := keeps_bind keeps_tAccess fun _ => keeps_pure

end Access

/-! ### Registers, frames and values -/

section Values
variable {v w site tmpl rec slot obj : Word} {n k a b : Nat} {f : Word} {l : List Word} {ic : BitVec 16} {o : BitVec 8}

@[simp] theorem keeps_tX : Keeps (tX n) := by
  intro s hs
  unfold tX
  split
  · trivial
  · exact hs

@[simp] theorem keeps_tSetX : Keeps (tSetX n v) := keeps_change fun _ => rfl
@[simp] theorem keeps_tPc : Keeps tPc := keeps_change fun _ => rfl
@[simp] theorem keeps_tGo : Keeps (tGo v) := keeps_change fun _ => rfl
@[simp] theorem keeps_tFlag : Keeps (tFlag f) := keeps_change fun _ => rfl
@[simp] theorem keeps_tNativeMode : Keeps (tNativeMode v) := keeps_change fun _ => rfl
@[simp] theorem keeps_tMade : Keeps (tMade v w) := keeps_change fun _ => by simp
@[simp] theorem keeps_tJump : Keeps (tJump v) := keeps_bind keeps_tPc fun _ => keeps_tGo
@[simp] theorem keeps_tFrameAt : Keeps (tFrameAt n) := keeps_bind keeps_tX fun _ => keeps_pure
@[simp] theorem keeps_tF : Keeps (tF n) := keeps_bind keeps_tFrameAt fun _ => keeps_tRead
@[simp] theorem keeps_tSetF : Keeps (tSetF n v) := keeps_bind keeps_tFrameAt fun _ => keeps_tWrite
@[simp] theorem keeps_tFn : Keeps (tFn n) := keeps_bind keeps_tX fun _ => keeps_tRead
@[simp] theorem keeps_tK : Keeps (tK n) := keeps_bind keeps_tFn fun _ => keeps_tRead
@[simp] theorem keeps_tSite : Keeps (tSite ic) := keeps_bind keeps_tFn fun _ => keeps_pure

@[simp] theorem keeps_tExamine : Keeps (tExamine v) := by
  unfold tExamine
  split <;> simp

@[simp] theorem keeps_tInt : Keeps (tInt v) := by
  unfold tInt
  split <;> simp

@[simp] theorem keeps_tKind : Keeps (tKind v) := by
  refine keeps_bind keeps_tExamine fun _ => ?_
  split
  · exact keeps_bind keeps_tRead fun _ => keeps_pure
  · simp

@[simp] theorem keeps_tTouch : Keeps (tTouch site v) := by
  refine keeps_bind keeps_tExamine fun _ => ?_
  split
  · exact keeps_bind keeps_tRead fun _ => by split <;> simp
  · simp

@[simp] theorem keeps_tClass : Keeps (tClass v) := by
  refine keeps_bind keeps_tKind fun k => ?_
  split
  · simp
  · split
    · simp
    · exact keeps_bind keeps_tRead fun _ => keeps_pure

@[simp] theorem keeps_tBranch {want : Bool} {off : BitVec 16} : Keeps (tBranch want o off) :=
  keeps_bind keeps_tF fun _ => keeps_bind keeps_tExamine fun _ => by split <;> simp

/-! ### Inline caches, allocation and stores into the heap -/

@[simp] theorem keeps_tEntry : Keeps (tEntry v) := by
  refine keeps_bind keeps_tIcWord fun h => ?_
  split
  · simp
  · exact keeps_bind (keeps_tAll (fun _ => keeps_tIcWord) _) fun _ => keeps_pure

theorem keeps_tSearch {hit : List Byte → Bool} : Keeps (tSearch v k hit n a) := by
  induction n generalizing a with
  | zero => exact keeps_tGuard
  | succ n ih =>
    refine keeps_bind keeps_tEntry fun e => ?_
    split
    · simp
    · split
      · split <;> simp
      · exact ih

@[simp] theorem keeps_tLookup {hit : List Byte → Bool} : Keeps (tLookup ic k hit) :=
  keeps_bind keeps_tSite fun _ => keeps_bind keeps_tFn fun _ => by split <;> simp [keeps_tSearch]

@[simp] theorem keeps_tMarking : Keeps tMarking := by
  refine keeps_bind keeps_tArena fun ar => ?_
  split
  · simp
  · exact keeps_bind keeps_tRead fun _ => keeps_pure

@[simp] theorem keeps_tGc : Keeps tGc := keeps_bind keeps_tMarking fun _ => keeps_pure

@[simp] theorem keeps_tFill : Keeps (tFill v n) := by
  induction n with
  | zero => exact keeps_pure
  | succ n ih => exact keeps_bind ih fun _ s hs => keeps_tWrite s hs

@[simp] theorem keeps_tAlloc : Keeps (tAlloc n site) := by
  refine keeps_bind keeps_tArena fun ar => ?_
  split
  · simp
  · refine keeps_bind keeps_tRead fun lim => keeps_bind keeps_tAtom fun cur => ?_
    split
    · simp
    · exact keeps_bind keeps_tFill fun _ => keeps_pure

@[simp] theorem keeps_tRetain : Keeps (tRetain v) := by
  unfold tRetain
  split
  · exact keeps_bind keeps_tAtom fun _ => keeps_pure
  · simp

@[simp] theorem keeps_tZeroCount : Keeps (tZeroCount v) := by
  refine keeps_bind keeps_tArena fun ar => ?_
  split
  · simp
  · refine keeps_bind keeps_tAtom fun t => keeps_bind keeps_tRead fun size => keeps_bind keeps_tRead fun head => ?_
    split
    · exact keeps_bind keeps_tRead fun _ => keeps_tWrite
    · simp

@[simp] theorem keeps_tRelease : Keeps (tRelease v) := by
  unfold tRelease
  split
  · exact keeps_bind keeps_tAtom fun _ => by split <;> simp
  · simp

@[simp] theorem keeps_tCard : Keeps (tCard v) := by
  refine keeps_bind keeps_tMarking fun m => ?_
  split
  · exact keeps_bind keeps_tArena fun _ => keeps_bind keeps_tRead fun _ => keeps_bind keeps_tRead fun _ => keeps_tWrite
  · simp

@[simp] theorem keeps_tSwap : Keeps (tSwap slot v) := by
  refine keeps_bind keeps_tSlotFirst fun first => ?_
  split
  · exact keeps_bind keeps_tAtom fun _ => keeps_bind keeps_tRetain fun _ => keeps_pure
  · exact keeps_bind keeps_tRetain fun _ => keeps_tAtom

@[simp] theorem keeps_tHeapStore : Keeps (tHeapStore slot obj v) :=
  keeps_bind keeps_tSwap fun _ => keeps_bind keeps_tRelease fun _ => keeps_tCard

@[simp] theorem keeps_tFirstStore : Keeps (tFirstStore slot obj v) := keeps_bind keeps_tSwap fun _ => keeps_tCard

/-! ### Calls -/

@[simp] theorem keeps_tPush : Keeps (tPush v) := by
  refine keeps_get_bind fun s hs => ?_
  split
  · exact keeps_tPut (by simpa using hs)
  · dsimp only
    split
    · simp
    · exact keeps_bind keeps_tWrite fun _ => keeps_change fun _ => rfl

@[simp] theorem keeps_tPop : Keeps tPop := by
  refine keeps_get_bind fun s hs => ?_
  split
  · exact keeps_bind (keeps_tPut (by simpa using hs)) fun _ => keeps_pure
  · split
    · simp
    · exact keeps_bind keeps_tRead fun _ => keeps_change fun _ => rfl

@[simp] theorem keeps_tNativeCall : Keeps (tNativeCall o v l) :=
  keeps_bind keeps_tPc fun _ => keeps_bind keeps_tPush fun _ => keeps_bind keeps_tFrameAt fun _ =>
    keeps_bind keeps_tSetX fun _ => keeps_bind (keeps_tEach (fun _ => keeps_tSetX) _) fun _ =>
      keeps_bind keeps_tSetX fun _ => keeps_tNativeMode

@[simp] theorem keeps_tEnter : Keeps (tEnter f a b site) := by
  refine keeps_bind keeps_tX fun fb => keeps_bind keeps_tRead fun w => keeps_bind keeps_tX fun lim => ?_
  split
  · simp
  · split
    · simp
    · exact keeps_bind keeps_tRead fun _ => keeps_bind keeps_tX fun _ => keeps_bind keeps_tSetF fun _ =>
        keeps_bind keeps_tSetF fun _ => keeps_bind (keeps_tEach (fun _ => keeps_tWrite) _) fun _ =>
          keeps_bind keeps_tPc fun _ => keeps_bind keeps_tPush fun _ => keeps_bind keeps_tSetX fun _ =>
            keeps_bind keeps_tSetX fun _ => keeps_tGo

@[simp] theorem keeps_tRaise : Keeps (tRaise v) := by
  refine keeps_bind keeps_tX fun r => ?_
  split
  · simp
  · refine keeps_bind keeps_tRead fun h => keeps_bind keeps_tRead fun fb => keeps_bind keeps_tRead fun fn =>
      keeps_bind keeps_tRead fun prev => keeps_bind keeps_tRead fun d => keeps_get_bind fun s _ => ?_
    dsimp only
    split
    · simp
    · exact keeps_bind keeps_tWrite fun _ => keeps_bind keeps_tSetX fun _ => keeps_bind keeps_tSetX fun _ =>
        keeps_bind keeps_tSetX fun _ => keeps_change fun _ => rfl

@[simp] theorem keeps_tCell : Keeps (tCell n) := by
  refine keeps_bind keeps_tFn fun cells => keeps_bind keeps_tKind fun k => ?_
  split
  · split
    · simp
    · refine keeps_bind keeps_tRead fun len => ?_
      split
      · simp
      · exact keeps_bind keeps_tRead fun _ => keeps_bind keeps_tRead fun _ => by split <;> simp
  · simp

@[simp] theorem keeps_tAttr : Keeps (tAttr v ic) := by
  refine keeps_bind keeps_tExamine fun _ => keeps_bind keeps_tSite fun site => ?_
  split
  · simp
  · exact keeps_bind keeps_tTouch fun _ => keeps_bind keeps_tRead fun _ => keeps_bind keeps_tLookup fun _ => keeps_pure

/-! ### Launches from a cache hit -/

@[simp] theorem keeps_tIsTensor : Keeps (tIsTensor v) :=
  keeps_bind keeps_tKind fun _ => by split <;> simp

@[simp] theorem keeps_tSettle {inuse : Bool} : Keeps (tSettle inuse v) := by
  refine keeps_bind keeps_tIsTensor fun tensor => ?_
  split
  · refine keeps_bind keeps_tRead fun p => ?_
    split
    · exact keeps_bind keeps_tRead fun _ => by dsimp only; split <;> simp
    · exact keeps_bind keeps_pure fun _ => by dsimp only; split <;> simp
  · simp

@[simp] theorem keeps_tItem {store : Bool} : Keeps (tItem store v w) := by
  refine keeps_bind keeps_tKind fun k => keeps_bind keeps_tExamine fun _ => keeps_bind keeps_tSettle fun _ =>
    keeps_bind keeps_tTouch fun _ => keeps_bind keeps_tTouch fun _ => ?_
  split
  · refine keeps_bind keeps_tRead fun len => ?_
    split
    · simp
    · exact keeps_bind keeps_tRead fun _ => keeps_pure
  · simp

@[simp] theorem keeps_tSource : Keeps (tSource tmpl a b l) := by
  unfold tSource
  split
  · simp
  · split
    · split <;> simp
    · split
      · simp
      · refine keeps_bind keeps_tIsTensor fun tensor => ?_
        split
        · refine keeps_bind keeps_tRead fun c => ?_
          split
          · simp
          · exact keeps_bind (keeps_tAll (fun _ => keeps_tRead) _) fun _ => keeps_pure
        · simp

@[simp] theorem keeps_tResult {shape rclass rdims : Nat} {dims : List Nat} :
    Keeps (tResult v shape rclass rdims w dims) :=
  keeps_bind keeps_tWrite fun _ => keeps_bind keeps_tGc fun _ => keeps_bind keeps_tWrite fun _ =>
    keeps_bind keeps_tWrite fun _ => keeps_bind (keeps_tEach (fun _ => keeps_tWrite) _) fun _ =>
      keeps_bind (keeps_tEach (fun _ => keeps_tWrite) _) fun _ => keeps_bind keeps_tWrite fun _ =>
        keeps_bind keeps_tWrite fun _ => keeps_bind keeps_tWrite fun _ => keeps_bind keeps_tWrite fun _ => keeps_tWrite

@[simp] theorem keeps_tLaunch : Keeps (tLaunch o rec v w l site n) := by
  refine keeps_bind keeps_tEnterLaunch fun hd => keeps_bind (keeps_tEach (fun v => ?_) _) fun _ => ?_
  · refine keeps_bind keeps_tIsTensor fun tensor => ?_
    split
    · exact keeps_bind keeps_tAtom fun _ => keeps_pure
    · simp
  · split
    · exact keeps_bind keeps_tSetF fun _ => keeps_tMade
    · exact keeps_bind keeps_tWrite fun _ => keeps_bind keeps_tSetF fun _ => keeps_tMade

@[simp] theorem keeps_tFast : Keeps (tFast o tmpl l site) := by
  refine keeps_bind (keeps_tEach (fun _ => keeps_tSettle) _) fun _ => keeps_bind (keeps_tEach (fun _ => keeps_tTouch) _)
    fun _ => keeps_bind keeps_tRead fun rec => keeps_bind keeps_tRead fun w1 => keeps_bind keeps_tRead fun w2 => ?_
  extract_lets rclass rdims args rest
  have hrest : ∀ src, Keeps (rest src) := fun src => by
    refine keeps_bind keeps_tReserve fun n => keeps_bind keeps_tAlloc fun blk => keeps_bind keeps_tWrite fun _ =>
      keeps_bind keeps_tWrite fun _ => keeps_bind (keeps_tEach (fun _ => keeps_tWrite) _) fun _ => ?_
    dsimp only
    split
    · exact keeps_tLaunch
    · exact keeps_bind keeps_tResult fun _ => keeps_tLaunch
  split
  · exact keeps_bind keeps_pure hrest
  · exact keeps_bind keeps_tSource hrest

@[simp] theorem keeps_tArgs : Keeps (tArgs o n) := by
  unfold tArgs
  exact keeps_tAll (fun _ => keeps_tF) _

@[simp] theorem keeps_tCallAct {bs : List Byte} : Keeps (tCallAct o n bs l site) := by
  unfold tCallAct
  (repeat' split) <;> simp

@[simp] theorem keeps_tOperator {inl : Option (Word × Word)} : Keeps (tOperator o ic n l inl) := by
  refine keeps_bind (keeps_tEach (fun _ => keeps_tExamine) _) fun _ => keeps_bind keeps_tSite fun site =>
    keeps_bind (keeps_tEach (fun _ => keeps_tTouch) _) fun _ => ?_
  split
  · exact keeps_bind keeps_tFlag fun _ => keeps_tSetF
  · exact keeps_bind (keeps_tAll (fun _ => keeps_tClass) _) fun _ => keeps_bind keeps_tLookup fun _ => by split <;> simp

end Values

/-! ### A bytecode's turn -/

/-- How far a turn takes a body, with memory in its canonical form. -/
def TEnd.Kept : TEnd → Prop
  | .fin d => Memory.wf d.mem
  | .stop e q => e.Kept ∧ Memory.wf q.mem
  | .more q => Memory.wf q.mem

section Turn
variable {m : TM Unit} {s : State} {n : Nat} (hm : Keeps m) (hs : Memory.wf s.mem)

theorem outcome_canonical {e : Stop} (he : e.Kept) (hs : Memory.wf s.mem) : Memory.wf (e.outcome s).mem := by
  cases e with
  | guardIn q r a c => exact guardEnter_canonical (by simpa using (show Memory.wf q.mem from he))
  | _ => simp [Stop.outcome, hs]

include hm hs

theorem tSteps_kept : (tSteps m n s).Kept := by
  induction n generalizing s with
  | zero =>
    have hrun := hm (s.burst 1) hs
    unfold tSteps
    split
    · next hd => rw [hd] at hrun; exact hrun
    · exact hs
  | succ n ih =>
    have hrun := hm (s.burst 1) hs
    unfold tSteps
    split
    · next hd => rw [hd] at hrun; exact hrun
    · next w f hd =>
      rw [hd] at hrun
      split
      · split
        · exact ⟨trivial, hs⟩
        · exact awaits_canonical hs
      · have hmade := hrun (s.burst (if Config.freeBit s.free s.next then 3 else 1)) hs
        split
        · next hq => rw [hq] at hmade; exact ih (by simpa using hmade)
        · next hq => rw [hq] at hmade; exact hmade
    · next hd => rw [hd] at hrun; exact ⟨hrun, hs⟩

theorem tRun_kept : (tRun m n s).Kept := by
  have hrun := hm (s.burst 0) hs
  unfold tRun
  split
  · next hd =>
    rw [hd] at hrun
    split
    · exact hrun
    · exact tSteps_kept hm hs
  · exact tSteps_kept hm hs
  · next hd => rw [hd] at hrun; exact ⟨hrun, hs⟩

theorem bytecode_kept {i : Instr} : NextKept (bytecode i m s) := by
  have hturn : (tRun (fun q => m (q.advance (codeBytes i))) s.nextBurst s.spent).Kept :=
    tRun_kept (m := fun q => m (q.advance (codeBytes i))) (fun q hq => hm _ (by simpa using hq)) hs
  unfold bytecode
  split
  · simp
  · split
    · simpa using hs
    · split
      · next hd => rw [hd] at hturn; simpa using (show Memory.wf _ from hturn)
      · next hd => rw [hd] at hturn; exact nextKept_next.mpr (outcome_canonical hturn.1 hturn.2)
      · next hd => rw [hd] at hturn; exact nextKept_next.mpr hturn

omit hm in
theorem uretRaise_kept : s.uretRaise.Kept := by
  have hturn : (tRun (fun q => tRaise (s.arg ⟨false, 23⟩) q.uretMode) 0 s).Kept :=
    tRun_kept (m := fun q => tRaise (s.arg ⟨false, 23⟩) q.uretMode) (fun q hq => keeps_tRaise _ (by simpa using hq)) hs
  unfold State.uretRaise
  split
  · next hd => rw [hd] at hturn; exact hturn
  · next hd => rw [hd] at hturn; exact outcome_canonical hturn.1 (by simpa using hturn.2)
  · next hd => rw [hd] at hturn; exact hturn

end Turn

end Sys2Proof.Machine
end

section
/-! PROOFS. Native instructions keep memory in its canonical form (R97). -/

namespace Sys2Proof.Machine

/-! ### Bodies with a part of their own -/

section Parts
variable {s : State} {d : Opnd} {va v xa arg : Word} {n c u : Nat} {bs : List Byte} (hs : Memory.wf s.mem)
include hs

@[simp] theorem answer_kept : (s.answer d v).Kept := by simpa [State.answer] using hs

@[simp] theorem giveHandle_kept : (s.giveHandle d v n).Kept := by simpa [State.giveHandle] using hs

theorem leave_kept : s.leave.Kept := by
  unfold State.leave
  (repeat' split) <;> simp [hs]

@[simp] theorem vecAccess_kept {isLoad acq rel : Bool} {size k sco : Nat} {els : List VElem} {dsts : List Dst} {fin : Fin}
    {op : Nat → VElem → AccOp} : (s.vecAccess isLoad size k els dsts fin op acq rel sco).Kept := by
  unfold State.vecAccess
  dsimp only
  (repeat' split) <;> simp [hs]

theorem vecLoad_kept {vd : BitVec 4} {x : Opnd} {m : M7} {idx : Nat → Nat → Nat → Int} : (s.vecLoad vd x m idx).Kept :=
  vecAccess_kept hs

theorem vecStore_kept {vd : BitVec 4} {x : Opnd} {m : M7} {idx : Nat → Nat → Nat → Int} : (s.vecStore vd x m idx).Kept :=
  vecAccess_kept hs

theorem rowoutMem_kept : (s.rowoutMem va n).Kept := vecAccess_kept hs

theorem rowoutSlot_kept {fmt : Nat} : (s.rowoutSlot n v fmt).Kept := by
  unfold State.rowoutSlot
  dsimp only
  (repeat' split) <;> simp [hs]

theorem postRecv_kept {sco : BitVec 3} : (s.postRecv bs n sco).Kept := by
  unfold State.postRecv
  dsimp only
  split <;> simp [hs]

theorem queueCall_kept : (s.queueCall n).Kept := by
  unfold State.queueCall
  split
  · exact hs
  · exact released_kept hs (by simpa using hs)

theorem gatedCall_kept : (s.gatedCall n).Kept := by
  unfold State.gatedCall
  dsimp only
  split
  · exact hs
  · split
    · exact queueCall_kept hs
    · split
      · simpa using hs
      · split
        · trivial
        · split
          · exact hs
          · split
            · trivial
            · rw [kept_park, noBuf_mem, note_mem, access_mem, openOut_mem, remember_mem]
              exact hs

theorem afterCoreset_kept {l : List Nat} : (s.afterCoreset l d).Kept := by
  unfold State.afterCoreset
  split <;> simp [hs]

theorem beginPairing_kept {x : StepDesc} : (s.beginPairing x d).Kept := by
  simpa [State.beginPairing] using hs

theorem joinGroup_kept : (s.joinGroup va d).Kept := by
  unfold State.joinGroup
  dsimp only
  split
  · exact beginPairing_kept hs
  · split
    · trivial
    · refine localDescriptor_kept hs fun q hd hq => ?_
      split
      · trivial
      · refine localDescriptor_kept hq fun r bs hr => ?_
        split
        · trivial
        · split
          · simpa using hr
          · exact beginPairing_kept hr

theorem serveEdge_kept {i : Nat} {e : Pred} {a o : Word} : (s.serveEdge d i e a o n).Kept := by
  unfold State.serveEdge
  dsimp only
  split
  · rw [kept_done, edgeLoad_mem]
    exact hs
  · split
    · trivial
    · split
      · rw [kept_done, warnBit_mem, edgeLoad_mem]
        exact hs
      · exact hs

@[simp] theorem makeLaunch_kept {x : Record × Entry × List Nat} : (s.makeLaunch d xa arg x).Kept := by
  unfold State.makeLaunch
  dsimp only
  (repeat' split) <;> simp [hs]

@[simp] theorem launchFrom_kept {r : Nat ⊕ (List Byte × List Byte)} : (s.launchFrom d xa arg r).Kept := by
  unfold State.launchFrom
  (repeat' split) <;> simp [hs]

@[simp] theorem launchRead_kept {r : Nat ⊕ (List Byte × List Byte)} : (s.launchRead? d xa arg r).Kept := by
  unfold State.launchRead?
  dsimp only
  split <;> simp [hs]

theorem goRevoke_kept {r : Revoke} : (s.goRevoke r d).Kept := by
  have hcascade : Memory.wf (s.cascade r.issuer r.item r.holders).1.mem := cascade_canonical hs
  have hends : ∀ q : State, Memory.wf q.mem → (((q.endRevoke r).unkept.leaveLines s.cur).answer d 0).Kept :=
    fun q hq => answer_kept (by simpa using endRevoke_canonical hq)
  unfold State.goRevoke
  dsimp only
  split
  · exact hends _ hs
  · split
    · simpa using hcascade
    · split
      · exact hends _ (cutOff_canonical hcascade)
      · simpa using cutOff_canonical hcascade

theorem goReset_kept {release : Bool} : (s.goReset c release d).Kept := by
  unfold State.goReset
  (repeat' split) <;> simp [hs]

theorem trySwap_kept : (s.trySwap d u bs).Kept := by
  have hcounted : ∀ save load : Word, Memory.wf ((s.countBulk s.who save (imageSize (s.hasVec (s.thread u)) (s.heldUnits u))
      kWrite).countImage load).mem := fun save load => by simpa using hs
  unfold State.trySwap
  dsimp only
  (repeat' split) <;> simp [hs]
  next hq => exact swap_canonical (by simpa using hs) hq

end Parts

/-! ### The instructions of the families that share one form -/

section Forms
variable {s : State} {i : Instr} (hs : Memory.wf s.mem)
include hs

theorem regOp_kept {d : Opnd} {f : State → Flagged Word} : NextKept (regOp i d f s) :=
  native_kept (fun _ hs => by simp [hs]) hs

theorem predOp_kept {p : BitVec 3} {f : State → Bool} : NextKept (predOp i p f s) :=
  native_kept (fun _ hs => by simp [hs]) hs

theorem longOp_kept {d : Opnd} {f : State → Flagged Word} : NextKept (longOp i d f s) :=
  native_kept (fun _ hs => by simp [hs]) hs

theorem vecOp_kept {vd va vb vc : BitVec 4} {x : Opnd} {m : M6} {f : State → Nat → Nat → Nat → Flagged Nat} :
    NextKept (vecOp i vd va vb vc x m f s) :=
  native_kept (fun _ hs => by simp [hs]) hs

theorem scaleOp_kept {z : BitVec 6} {f : State → List Byte → List Byte × Word} : NextKept (scaleOp i z f s) :=
  native_kept (fun _ hs => unlessSlot_kept (by simp [hs])) hs

theorem crEvent_kept {n : BitVec 12} {v : Word} : NextKept (crEvent n v s) := by
  unfold crEvent
  split
  · exact nextKept_next.mpr (crWrite_canonical hs)
  · exact nextKept_fault

end Forms

section Arms
variable {s : State} (hs : Memory.wf s.mem)
include hs

/-! ### Loads, stores, atomics and the waits on a word -/

theorem execLd_kept {h d a m} : NextKept (execLd h d a m s) :=
  native_kept (fun _ hs => memory_kept hs fun _ _ hq => by simp [hq]) hs

theorem execSt_kept {h d a m} : NextKept (execSt h d a m s) := by
  refine native_kept (fun _ hs => memory_kept hs fun _ _ hq => ?_) hs
  split <;> simp [hq]

theorem execPf_kept {h a m} : NextKept (execPf h a m s) := by
  refine native_kept (fun q hq => ?_) hs
  rw [kept_done, forEach_mem fun _ _ => prefetchLine_mem _ _]
  exact hq

theorem execFence_kept {h kinds m} : NextKept (execFence h kinds m s) :=
  native_kept (fun _ hs => by simp [hs]) hs

theorem execIfence_kept {h m} : NextKept (execIfence h m s) :=
  native_kept (fun _ hs => by simp [hs]) hs

theorem execIcsync_kept {h m} : NextKept (execIcsync h m s) := by
  refine native_kept (fun q hq => released_kept hq ?_) hs
  dsimp only
  (repeat' split) <;> simp [hq]

theorem execAtom_kept {h d a b m} : NextKept (execAtom h d a b m s) :=
  native_kept (fun _ hs => word8_kept hs fun _ _ hq => by simpa using endResv_canonical hq) hs

theorem execLdfe_kept {h d a m} : NextKept (execLdfe h d a m s) := by
  refine native_kept (fun _ hs => ?_) hs
  dsimp only
  split
  · trivial
  · exact word8_kept hs fun _ _ hq => by simp [hq]

theorem execStfe_kept {h a b m} : NextKept (execStfe h a b m s) :=
  native_kept (fun _ hs => word8_kept hs fun _ _ hq => by simp [hq]) hs

theorem execFset_kept {h d a m} : NextKept (execFset h d a m s) :=
  native_kept (fun _ hs => word8_kept hs fun _ _ hq => by simp [hq]) hs

theorem execFget_kept {h d a m} : NextKept (execFget h d a m s) :=
  native_kept (fun _ hs => word8_kept hs fun _ _ hq => by simp [hq]) hs

theorem execWaita_kept {h d a b m} : NextKept (execWaita h d a b m s) :=
  native_kept (fun _ hs => word8_kept hs fun _ _ hq => by simp [hq]) hs

theorem execMon_kept {h d a m} : NextKept (execMon h d a m s) :=
  native_kept (fun _ hs => word8_kept hs fun _ _ hq => by simpa using endResv_canonical hq) hs

theorem execMonrel_kept {h a b m} : NextKept (execMonrel h a b m s) :=
  native_kept (fun _ hs => word8_kept hs fun _ _ hq => by simp [hq]) hs

theorem execSleep_kept {h d a m} : NextKept (execSleep h d a m s) :=
  native_kept (fun _ hs => by simp [hs]) hs

theorem execYield_kept {h m} : NextKept (execYield h m s) :=
  native_kept (fun _ hs => by simp [hs]) hs

theorem execJoinw_kept {h a res} : NextKept (execJoinw h a res s) :=
  native_kept (fun _ hs => word8_kept hs fun _ _ hq => by simp [hq]) hs

/-! ### Branches, calls, tasks and the end of a thread -/

theorem execBr_kept {h a kind off} : NextKept (execBr h a kind off s) := by
  refine native_kept (fun _ hs => ?_) hs
  split <;> simp [hs]

theorem execJmp_kept {h a kind off} : NextKept (execJmp h a kind off s) := by
  refine native_kept (fun _ hs => ?_) hs
  dsimp only
  split <;> simp [hs]

theorem execCall_kept {h kind off} : NextKept (execCall h kind off s) :=
  native_kept (fun _ hs => pushLink_kept hs fun _ hq => by simpa using hq) hs

theorem execCallr_kept {h a kind off} : NextKept (execCallr h a kind off s) := by
  refine native_kept (fun _ hs => ?_) hs
  dsimp only
  split
  · trivial
  · exact pushLink_kept hs fun _ hq => by simpa using hq

theorem execRet_kept {h kind} : NextKept (execRet h kind s) :=
  native_kept (fun _ hs => popLink_kept hs fun _ _ hq => followLink_kept hq) hs

theorem execLoop_kept {h a kind off} : NextKept (execLoop h a kind off s) := by
  refine native_kept (fun _ hs => ?_) hs
  dsimp only
  split <;> simp [hs]

theorem execGatedServiceCall_kept {h kind code} : NextKept (execGatedServiceCall h kind code s) :=
  native_kept (fun _ hs => gatedCall_kept hs) hs

theorem execExit_kept {h kind} : NextKept (execExit h kind s) :=
  native_kept (fun _ hs => leave_kept hs) hs

theorem execTend_kept {h res} : NextKept (execTend h res s) := by
  refine native_kept (fun _ hs => ?_) hs
  split
  · exact leave_kept hs
  · trivial

theorem execFork_kept {h a b res} : NextKept (execFork h a b res s) := by
  refine native_kept (fun _ hs => ?_) hs
  dsimp only
  split
  · trivial
  · exact word8_kept hs fun _ _ hq => pushTask_kept hq fun _ hr => by simp [hr]

theorem execUret_kept {h kind} : NextKept (execUret h kind s) := by
  refine native_kept (fun _ hs => ?_) hs
  (repeat' split) <;> simp [hs, uretRaise_kept]

/-! ### Vectors -/

theorem execVred_kept {h va x m} : NextKept (execVred h va x m s) :=
  native_kept (fun _ hs => by simp [hs]) hs

theorem execVcvt_kept {h vd va x m} : NextKept (execVcvt h vd va x m s) :=
  native_kept (fun _ hs => by simp [hs]) hs

theorem execSetshape_kept {h d a b} : NextKept (execSetshape h d a b s) := by
  refine native_kept (fun _ hs => ?_) hs
  dsimp only
  split <;> simp [hs]

theorem execVact_kept {h d a b} : NextKept (execVact h d a b s) :=
  native_kept (fun _ hs => by simp [hs]) hs

theorem execVld_kept {h vd x m} : NextKept (execVld h vd x m s) :=
  native_kept (fun _ hs => vecLoad_kept hs) hs

theorem execVst_kept {h vd x m} : NextKept (execVst h vd x m s) :=
  native_kept (fun _ hs => vecStore_kept hs) hs

theorem execVgather_kept {h vd va x m} : NextKept (execVgather h vd va x m s) :=
  native_kept (fun _ hs => vecLoad_kept hs) hs

theorem execVscatter_kept {h vd va x m} : NextKept (execVscatter h vd va x m s) :=
  native_kept (fun _ hs => vecStore_kept hs) hs

/-! ### The matrix unit -/

theorem execOclaim_kept {h s1 s2 m} : NextKept (execOclaim h s1 s2 m s) := by
  refine native_kept (fun _ hs => ?_) hs
  dsimp only
  split <;> simp [hs]

theorem execOrel_kept {h s1 s2 m} : NextKept (execOrel h s1 s2 m s) := by
  refine native_kept (fun _ hs => ?_) hs
  dsimp only
  split <;> simp [hs]

theorem execTld_kept {h oa s1 s2 fmt m} : NextKept (execTld h oa s1 s2 fmt m s) := by
  refine native_kept (fun _ hs => unlessSlot_kept ?_) hs
  split
  · trivial
  · split
    · trivial
    · refine rangeCheck_kept hs ?_
      split
      · simp [hs]
      · refine rangeCheck_kept hs ?_
        split <;> simp [hs]

theorem execTfill_kept {h oa s1 s2 z fmt m} : NextKept (execTfill h oa s1 s2 z fmt m s) := by
  refine native_kept (fun _ hs => unlessSlot_kept (unlessSlot_kept ?_)) hs
  rw [kept_done, later_mem, onMyCore_mem]
  exact hs

theorem execMzero_kept {h ta m} : NextKept (execMzero h ta m s) :=
  native_kept (fun _ hs => unlessSlot_kept (by simp [hs])) hs

theorem execManch_kept {h ta s1 m} : NextKept (execManch h ta s1 m s) :=
  native_kept (fun _ hs => unlessSlot_kept (by simp [hs])) hs

theorem execMma_kept {h ta oa ob m} : NextKept (execMma h ta oa ob m s) := by
  refine native_kept (fun _ hs => unlessSlot_kept (unlessSlot_kept (unlessSlot_kept ?_))) hs
  dsimp only
  (repeat' split) <;> simp [hs]

theorem execMdrain_kept {h ta s1 s2 m} : NextKept (execMdrain h ta s1 s2 m s) := by
  refine native_kept (fun _ hs => unlessSlot_kept ?_) hs
  split
  · trivial
  · simp [hs]

theorem execRowout_kept {h oa s1 s2 fmt m} : NextKept (execRowout h oa s1 s2 fmt m s) := by
  refine native_kept (fun _ hs => ?_) hs
  split
  · trivial
  · split
    · exact rowoutMem_kept hs
    · exact rowoutSlot_kept hs

theorem execRowend_kept {h m} : NextKept (execRowend h m s) := by
  refine native_kept (fun _ hs => ?_) hs
  (repeat' split) <;> simp [hs]

theorem execMstat_kept {h ta s1 s2 m} : NextKept (execMstat h ta s1 s2 m s) :=
  native_kept (fun _ hs => unlessSlot_kept (by simp [hs])) hs

theorem execSld_kept {h s1 z m} : NextKept (execSld h s1 z m s) := by
  refine native_kept (fun _ hs => unlessSlot_kept ?_) hs
  split
  · trivial
  · split
    · trivial
    · exact rangeCheck_kept hs (by simp [hs])

theorem execSst_kept {h s1 z m} : NextKept (execSst h s1 z m s) :=
  native_kept (fun _ hs => unlessSlot_kept (rangeCheck_kept hs (by simp [hs]))) hs

theorem execSadd_kept {h s1 z m} : NextKept (execSadd h s1 z m s) := scaleOp_kept hs

theorem execSmax_kept {h s1 z m} : NextKept (execSmax h s1 z m s) := scaleOp_kept hs

theorem execSmin_kept {h s1 z m} : NextKept (execSmin h s1 z m s) := scaleOp_kept hs

theorem execSreblk_kept {h s1 z m} : NextKept (execSreblk h s1 z m s) := scaleOp_kept hs

theorem execSset_kept {h s1 z m} : NextKept (execSset h s1 z m s) := scaleOp_kept hs

theorem execSmov_kept {h oa z m} : NextKept (execSmov h oa z m s) := by
  refine native_kept (fun _ hs => unlessSlot_kept (unlessSlot_kept ?_)) hs
  dsimp only
  split
  · trivial
  · split
    · trivial
    · rw [kept_done, later_mem, onMyCore_mem, readBound_mem]
      exact hs

theorem execSbind_kept {h oa s1 z m} : NextKept (execSbind h oa s1 z m s) := by
  refine native_kept (fun _ hs => unlessSlot_kept (unlessSlot_kept ?_)) hs
  split
  · trivial
  · rw [kept_done, later_mem, onMyCore_mem]
    exact hs

theorem execSquery_kept {h oa s2 m} : NextKept (execSquery h oa s2 m s) :=
  native_kept (fun _ hs => unlessSlot_kept (by simp [hs])) hs

theorem execSfree_kept {h z m} : NextKept (execSfree h z m s) :=
  native_kept (fun _ hs => unlessSlot_kept (by simp [hs])) hs

/-! ### Barriers and movement between cores -/

theorem execBarr_kept {h d a res} : NextKept (execBarr h d a res s) := by
  refine native_kept (fun _ hs => onBarrier_kept fun _ _ => ?_) hs
  dsimp only
  split
  · trivial
  · refine afterArrivals_kept hs ?_
    split <;> simp [hs]

theorem execBwait_kept {h a res} : NextKept (execBwait h a res s) := by
  refine native_kept (fun _ hs => onBarrier_kept fun _ _ => afterArrivals_kept hs ?_) hs
  dsimp only
  split <;> simp [hs]

theorem execBmiss_kept {h d a b res} : NextKept (execBmiss h d a b res s) :=
  native_kept (fun _ hs => onBarrier_kept fun _ _ => afterArrivals_kept hs (by simp [hs])) hs

/-- The test of the members is named before the proof, so that no tactic evaluates its 528 bits. -/
theorem execBcfg_kept {h a b res} : NextKept (execBcfg h a b res s) := by
  unfold execBcfg
  generalize State.membersOwned = owned
  refine native_kept (fun _ hs => cfgBarrier_kept fun key => afterArrivals_kept hs ?_) hs
  refine descriptor_kept (by exact hs) fun _ _ hq => ?_
  dsimp only
  split <;> simp [hq]

theorem execMigrate_kept {h a res} : NextKept (execMigrate h a res s) := by
  refine native_kept (fun _ hs => ?_) hs
  dsimp only
  (repeat' split) <;> simp [hs]

theorem execNomad_kept {h res} : NextKept (execNomad h res s) := by
  refine native_kept (fun _ hs => ?_) hs
  (repeat' split) <;> simp [hs]

theorem execHomeq_kept {h d a res} : NextKept (execHomeq h d a res s) := by
  refine native_kept (fun _ hs => ?_) hs
  dsimp only
  (repeat' split) <;> simp [hs]

/-! ### The engine: regions, transfers, messages and launches -/

theorem execShadow_kept {h d a b m} : NextKept (execShadow h d a b m s) := by
  refine native_kept (fun _ hs => ?_) hs
  dsimp only
  split
  · split <;> simp [hs]
  · split
    · trivial
    · refine afterWalks_kept hs ?_
      (repeat' split) <;> simp [hs]

theorem execPublish_kept {h d a m} : NextKept (execPublish h d a m s) := by
  refine native_kept (fun _ hs => fencedStore_kept hs ?_) hs
  dsimp only
  split <;> simp [hs]

theorem execXfer_kept {h a b m} : NextKept (execXfer h a b m s) := by
  refine native_kept (fun _ hs => fencedStore_kept hs (localDescriptor_kept hs fun _ _ hq => ?_)) hs
  refine afterWalks_kept hq ?_
  dsimp only
  split <;> simp [hq]

theorem execNpost_kept {h a m} : NextKept (execNpost h a m s) := by
  refine native_kept (fun _ hs => fencedStore_kept hs (localDescriptor_kept hs fun _ _ hq => ?_)) hs
  refine afterWalks_kept hq ?_
  dsimp only
  split <;> simp [hq]

theorem execNrecv_kept {h a m} : NextKept (execNrecv h a m s) := by
  refine native_kept (fun _ hs => fencedStore_kept hs ?_) hs
  split
  · exact postRecv_kept hs
  · refine localDescriptor_kept hs fun _ _ hq => afterWalks_kept hq ?_
    dsimp only
    split
    · trivial
    · exact postRecv_kept hq

theorem execLaunch_kept {h d a b m} : NextKept (execLaunch h d a b m s) := by
  refine native_kept (fun _ hs => ?_) hs
  dsimp only
  (repeat' split) <;> simp [hs]

theorem execLwait_kept {h d a m} : NextKept (execLwait h d a m s) := by
  refine native_kept (fun _ hs => ?_) hs
  dsimp only
  (repeat' split) <;> simp [hs]

theorem execLstat_kept {h d a m} : NextKept (execLstat h d a m s) :=
  native_kept (fun _ hs => by simp [hs]) hs

theorem execCmsg_kept {h d a b m} : NextKept (execCmsg h d a b m s) := by
  refine native_kept (fun _ hs => ?_) hs
  dsimp only
  (repeat' split) <;> simp [hs]

theorem execMrecv_kept {h d a m} : NextKept (execMrecv h d a m s) := by
  refine native_kept (fun _ hs => ?_) hs
  (repeat' split) <;> simp [hs]

/-! ### Neighbour steps -/

theorem execStepcfg_kept {h d a m} : NextKept (execStepcfg h d a m s) := by
  refine native_kept (fun _ hs => ?_) hs
  dsimp only
  split
  · exact joinGroup_kept hs
  · split <;> simp [hs]

theorem execStepend_kept {h d m} : NextKept (execStepend h d m s) :=
  native_kept (fun _ hs => member_kept (released_kept hs (by simp [hs]))) hs

theorem execLdstep_kept {h d a b m} : NextKept (execLdstep h d a b m s) := by
  refine native_kept (fun _ hs => member_kept ?_) hs
  dsimp only
  split
  · exact serveEdge_kept hs
  · (repeat' split) <;> simp [hs, serveEdge_kept]
  · trivial
  · exact hs

theorem execStepaddr_kept {h d b m} : NextKept (execStepaddr h d b m s) := by
  refine native_kept (fun _ hs => member_kept ?_) hs
  split <;> simp [hs]

theorem execStepq_kept {h d a m} : NextKept (execStepq h d a m s) := by
  refine native_kept (fun _ hs => member_kept ?_) hs
  split <;> simp [hs]

theorem execCut_kept {h d a b m} : NextKept (execCut h d a b m s) := by
  refine native_kept (fun _ hs => member_kept ?_) hs
  dsimp only
  split
  · split <;> simp [hs]
  · refine afterWalks_kept hs ?_
    (repeat' split) <;> simp [hs]

/-! ### Registers, images of threads, and management -/

theorem execMfcr_kept {h d crn m} : NextKept (execMfcr h d crn m s) := by
  refine native_kept (fun _ hs => ?_) hs
  split <;> simp [hs]

theorem execMtcr_kept {h d a crn m} : NextKept (execMtcr h d a crn m s) := by
  refine native_kept (fun _ hs => ?_) hs
  dsimp only
  split <;> simp [hs]

theorem execEret_kept {h m} : NextKept (execEret h m s) := by
  refine native_kept (fun _ hs => ?_) hs
  split <;> simp [hs]

theorem execTsave_kept {h d a b m} : NextKept (execTsave h d a b m s) := by
  refine native_kept (fun q hq => ?_) hs
  extract_lets +onlyGivenNames va
  split
  · trivial
  · simp [hq]
  · next u _ =>
    extract_lets +onlyGivenNames t n
    have hsaved : Memory.wf ((q.countBulk q.who va n kWrite).saveTo u va).mem := saveTo_canonical (by simpa using hq)
    split
    · trivial
    · refine afterWalks_kept hq ?_
      split
      · trivial
      · split
        · exact hq
        · split
          · exact hq
          · split
            · exact hq
            · dsimp only
              rw [kept_done, later_mem]
              split
              · rwa [fill_mem]
              · exact hsaved

theorem execTload_kept {h d a b m} : NextKept (execTload h d a b m s) := by
  refine native_kept (fun _ hs => ?_) hs
  dsimp only
  (repeat' split) <;> simp [hs]

theorem execTswap_kept {h d a b m} : NextKept (execTswap h d a b m s) := by
  refine native_kept (fun _ hs => ?_) hs
  split
  · trivial
  · split
    · exact hs
    · refine descriptor_kept hs fun _ _ hq => ?_
      split
      · simp [hq]
      · exact trySwap_kept hq

omit hs in
@[simp] theorem repartition_mem (s : State) (asid core mode : Nat) : (s.repartition asid core mode).1.mem = s.mem := by
  unfold State.repartition
  dsimp only
  (repeat' split) <;> simp

theorem execRepart_kept {h d a m} : NextKept (execRepart h d a m s) := by
  refine native_kept (fun _ hs => ?_) hs
  dsimp only
  split <;> simp [hs]

theorem execTlbinv_kept {h d a b m} : NextKept (execTlbinv h d a b m s) := by
  refine native_kept (fun _ hs => ?_) hs
  dsimp only
  (repeat' split) <;> simp [hs]

theorem execCacheop_kept {h d a b m} : NextKept (execCacheop h d a b m s) := by
  refine native_kept (fun _ hs => afterWalks_kept hs ?_) hs
  split
  · trivial
  · split
    · exact hs
    · simpa using cacheLines_canonical hs

omit hs in
@[simp] theorem signalQueue_mem (s : State) (tgt : Nat) (e : Event) : (s.signalQueue tgt e).1.mem = s.mem := by
  unfold State.signalQueue
  dsimp only
  (repeat' split) <;> simp

theorem execSigpost_kept {h d a b m} : NextKept (execSigpost h d a b m s) := by
  refine native_kept (fun _ hs => released_kept hs ?_) hs
  dsimp only
  (repeat' split) <;> simp [hs]

/-- The list of pages is named before the proof: evaluated, it is too long for the kernel's recursion limit. -/
theorem execCtxnew_kept {h d a} : NextKept (execCtxnew h d a s) := by
  unfold execCtxnew
  obtain ⟨pages, hpages⟩ : ∃ f, f = pagesOf := ⟨_, rfl⟩
  rw [← hpages]
  refine native_kept (fun q hq => released_kept hq ?_) hs
  have hwalked : ∀ l, Memory.wf (q.rememberAll q.who kWrite l).mem := fun l => by simpa using hq
  split
  · trivial
  · split
    · trivial
    · split
      · trivial
      · dsimp only
        (repeat' split) <;> exact answer_kept (hwalked _)

theorem execCtxgrant_kept {h d a b} : NextKept (execCtxgrant h d a b s) := by
  refine native_kept (fun _ hs => ?_) hs
  dsimp only
  split
  · simp [hs]
  · split
    · trivial
    · refine turn_kept hs fun _ hq => itemAt_kept hq fun _ _ hr => ?_
      split
      · simp [hr]
      · split
        · simp [hr]
        · split
          · exact afterCoreset_kept (by simpa using hr)
          · simp [hr]

theorem execCtxrevoke_kept {h d a b} : NextKept (execCtxrevoke h d a b s) := by
  refine native_kept (fun _ hs => ?_) hs
  dsimp only
  split
  · exact goRevoke_kept hs
  · split
    · trivial
    · refine turn_kept hs fun _ hq => itemAt_kept hq fun _ _ hr => ?_
      split
      · simp [hr]
      · split
        · simp [hr]
        · split
          · exact goRevoke_kept (by simpa using hr)
          · simp [hr]

theorem execCtxrun_kept {h d a} : NextKept (execCtxrun h d a s) := by
  refine native_kept (fun _ hs => ?_) hs
  split
  · trivial
  · refine turn_kept hs fun _ hq => ?_
    (repeat' split) <;> simp [hq]

theorem execCtxstop_kept {h d a} : NextKept (execCtxstop h d a s) := by
  refine native_kept (fun _ hs => ?_) hs
  split
  · trivial
  · refine turn_kept hs fun _ hq => ?_
    dsimp only
    (repeat' split) <;> simp [hq, saveAll_canonical]

theorem execCtxevt_kept {h d a b} : NextKept (execCtxevt h d a b s) := by
  refine native_kept (fun _ hs => ?_) hs
  dsimp only
  split
  · trivial
  · refine turn_kept hs fun _ hq => ?_
    (repeat' split) <;> simp [hq, answerTrap_canonical]

theorem execCtxreset_kept {h d a b} : NextKept (execCtxreset h d a b s) := by
  refine native_kept (fun _ hs => ?_) hs
  split
  · split <;> simp [hs]
  · split
    · simp [hs]
    · split
      · split <;> simp [hs]
      · exact turn_kept hs fun _ hq => goReset_kept hq

theorem execCtxfree_kept {h d a} : NextKept (execCtxfree h d a s) := by
  refine native_kept (fun _ hs => ?_) hs
  split
  · trivial
  · refine turn_kept hs fun _ hq => ?_
    split <;> simp [hq]

theorem execCtxstat_kept {h d a b} : NextKept (execCtxstat h d a b s) := by
  refine native_kept (fun _ hs => ?_) hs
  dsimp only
  split
  · trivial
  · exact turn_kept hs fun _ hq => answer_kept hq

end Arms

end Sys2Proof.Machine
end

section
/-! PROOFS. Bytecodes and events keep memory in its canonical form (R97). -/

namespace Sys2Proof.Machine

/-! ### The bytecodes -/

section Bytecodes
variable {s : State} (hs : Memory.wf s.mem)
include hs

theorem execTNop_kept : NextKept (execTNop s) :=
  bytecode_kept keeps_pure hs

theorem execTMove_kept {a b} : NextKept (execTMove a b s) :=
  bytecode_kept (keeps_bind keeps_tF fun _ => keeps_tSetF) hs

theorem execTLoadk_kept {a k} : NextKept (execTLoadk a k s) :=
  bytecode_kept (keeps_bind keeps_tK fun _ => keeps_tSetF) hs

theorem execTLoadi_kept {a i} : NextKept (execTLoadi a i s) :=
  bytecode_kept keeps_tSetF hs

theorem execTLoadc_kept {a b} : NextKept (execTLoadc a b s) := by
  refine bytecode_kept ?_ hs
  split <;> simp

theorem execTGetcell_kept {a b} : NextKept (execTGetcell a b s) :=
  bytecode_kept (keeps_bind keeps_tCell fun _ => keeps_bind keeps_tRead fun _ => keeps_tSetF) hs

theorem execTSetcell_kept {a b} : NextKept (execTSetcell a b s) :=
  bytecode_kept (keeps_bind keeps_tCell fun _ => keeps_bind keeps_tF fun _ => keeps_tHeapStore) hs

theorem execTDel_kept {a} : NextKept (execTDel a s) :=
  bytecode_kept keeps_tSetF hs

theorem execTGetg_kept {a b ic nm} : NextKept (execTGetg a b ic nm s) :=
  bytecode_kept (keeps_bind keeps_tFn fun _ => keeps_bind keeps_tAttr fun _ => keeps_bind keeps_tRead fun _ =>
    keeps_tSetF) hs

theorem execTSetg_kept {a b ic nm} : NextKept (execTSetg a b ic nm s) :=
  bytecode_kept (keeps_bind keeps_tFn fun _ => keeps_bind keeps_tAttr fun _ => keeps_bind keeps_tF fun _ =>
    keeps_tHeapStore) hs

theorem execTGetattr_kept {a b c ic nm} : NextKept (execTGetattr a b c ic nm s) :=
  bytecode_kept (keeps_bind keeps_tF fun _ => keeps_bind keeps_tAttr fun _ => keeps_bind keeps_tRead fun _ =>
    keeps_tSetF) hs

theorem execTSetattr_kept {a b c ic nm} : NextKept (execTSetattr a b c ic nm s) :=
  bytecode_kept (keeps_bind keeps_tF fun _ => keeps_bind keeps_tAttr fun _ => keeps_bind keeps_tF fun _ =>
    keeps_tHeapStore) hs

theorem execTGetitem_kept {a b c} : NextKept (execTGetitem a b c s) :=
  bytecode_kept (keeps_bind keeps_tF fun _ => keeps_bind keeps_tF fun _ => keeps_bind keeps_tItem fun _ =>
    keeps_bind keeps_tRead fun _ => keeps_tSetF) hs

theorem execTSetitem_kept {a b c} : NextKept (execTSetitem a b c s) :=
  bytecode_kept (keeps_bind keeps_tF fun _ => keeps_bind keeps_tF fun _ => keeps_bind keeps_tItem fun _ =>
    keeps_bind keeps_tF fun _ => keeps_tHeapStore) hs

theorem execTLen_kept {a b} : NextKept (execTLen a b s) := by
  refine bytecode_kept (keeps_bind keeps_tF fun v => keeps_bind keeps_tTouch fun _ => keeps_bind keeps_tKind fun k => ?_) hs
  split
  · simp
  · split
    · exact keeps_bind keeps_tRead fun _ => keeps_tSetF
    · split
      · refine keeps_bind keeps_tRead fun w => ?_
        split
        · simp
        · exact keeps_bind keeps_tRead fun _ => keeps_tSetF
      · simp

theorem execTIsinst_kept {a b c} : NextKept (execTIsinst a b c s) :=
  bytecode_kept (keeps_bind keeps_tK fun _ => keeps_bind keeps_tInt fun _ => keeps_bind keeps_tF fun _ =>
    keeps_bind keeps_tTouch fun _ => keeps_bind keeps_tKind fun _ => keeps_tSetF) hs

theorem execTBinop_kept {a b c ic op} : NextKept (execTBinop a b c ic op s) :=
  bytecode_kept (keeps_bind keeps_tF fun _ => keeps_bind keeps_tF fun _ => keeps_tOperator) hs

theorem execTUnop_kept {a b ic op} : NextKept (execTUnop a b ic op s) :=
  bytecode_kept (keeps_bind keeps_tF fun _ => keeps_tOperator) hs

theorem execTCompare_kept {a b c ic op} : NextKept (execTCompare a b c ic op s) := by
  refine bytecode_kept (keeps_bind keeps_tF fun l => keeps_bind keeps_tF fun r => ?_) hs
  (repeat' split) <;> simp

theorem execTJmp_kept {off} : NextKept (execTJmp off s) :=
  bytecode_kept keeps_tJump hs

theorem execTJt_kept {a off} : NextKept (execTJt a off s) :=
  bytecode_kept keeps_tBranch hs

theorem execTJf_kept {a off} : NextKept (execTJf a off s) :=
  bytecode_kept keeps_tBranch hs

theorem execTForprep_kept {a off} : NextKept (execTForprep a off s) := by
  refine bytecode_kept (keeps_bind keeps_tF fun _ => keeps_bind keeps_tInt fun i => keeps_bind keeps_tF fun _ =>
    keeps_bind keeps_tInt fun _ => keeps_bind keeps_tF fun w => keeps_bind keeps_tInt fun st => ?_) hs
  split
  · simp
  · exact keeps_get_bind fun _ _ => keeps_bind keeps_tSetF fun _ => keeps_tJump

theorem execTForloop_kept {a off} : NextKept (execTForloop a off s) := by
  refine bytecode_kept (keeps_bind keeps_tF fun _ => keeps_bind keeps_tInt fun i => keeps_bind keeps_tF fun _ =>
    keeps_bind keeps_tInt fun l => keeps_bind keeps_tF fun _ => keeps_bind keeps_tInt fun st => ?_) hs
  split
  · simp
  · refine keeps_bind keeps_tSetF fun _ => ?_
    split
    · exact keeps_bind keeps_tSetF fun _ => keeps_tJump
    · simp

theorem execTIter_kept {a b} : NextKept (execTIter a b s) := by
  refine bytecode_kept (keeps_bind keeps_tF fun v => keeps_bind keeps_tTouch fun _ => keeps_bind keeps_tKind fun k => ?_) hs
  split
  · exact keeps_bind keeps_tSetF fun _ => keeps_tSetF
  · simp

theorem execTNext_kept {a off} : NextKept (execTNext a off s) := by
  refine bytecode_kept (keeps_bind keeps_tF fun v => keeps_bind keeps_tKind fun k => ?_) hs
  split
  · refine keeps_bind keeps_tF fun _ => keeps_bind keeps_tInt fun i => keeps_bind keeps_tRead fun len => ?_
    split
    · exact keeps_bind keeps_tRead fun _ => keeps_bind keeps_tRead fun _ => keeps_bind keeps_tSetF fun _ => keeps_tSetF
    · simp
  · simp

theorem execTHalt_kept {a} : NextKept (execTHalt a s) := by
  refine bytecode_kept (keeps_bind keeps_tX fun _ => keeps_bind keeps_tF fun _ => keeps_bind keeps_tWrite fun _ => ?_) hs
  exact fun _ hq => endThread_canonical hq

theorem execTCall_kept {a b ic} : NextKept (execTCall a b ic s) := by
  refine bytecode_kept (keeps_bind keeps_tF fun f => keeps_bind keeps_tSite fun site => keeps_bind keeps_tKind fun k => ?_) hs
  split
  · split
    · exact keeps_bind keeps_tArgs fun _ => keeps_bind (keeps_tEach (fun _ => keeps_tTouch) _) fun _ => keeps_tEnter
    · split
      · exact keeps_bind keeps_tArgs fun _ => keeps_bind (keeps_tEach (fun _ => keeps_tTouch) _) fun _ =>
          keeps_bind (keeps_tAll (fun _ => keeps_tClass) _) fun _ => keeps_bind keeps_tLookup fun _ => keeps_tCallAct
      · simp
  · simp

theorem execTCallm_kept {a b c ic} : NextKept (execTCallm a b c ic s) := by
  refine bytecode_kept (keeps_bind keeps_tSite fun site => ?_) hs
  split
  · simp
  · exact keeps_bind keeps_tF fun _ => keeps_bind keeps_tArgs fun _ => keeps_bind keeps_tTouch fun _ =>
      keeps_bind (keeps_tEach (fun _ => keeps_tTouch) _) fun _ => keeps_bind keeps_tClass fun _ =>
        keeps_bind (keeps_tAll (fun _ => keeps_tClass) _) fun _ => keeps_bind keeps_tLookup fun _ => keeps_tCallAct

theorem execTNative_kept {a b c} : NextKept (execTNative a b c s) := by
  refine bytecode_kept ?_ hs
  split
  · simp
  · exact keeps_bind keeps_tK fun _ => keeps_bind keeps_tInt fun _ =>
      keeps_bind (keeps_tAll (fun _ => keeps_tF) _) fun _ => keeps_tNativeCall

theorem execTRet_kept {a} : NextKept (execTRet a s) := by
  refine bytecode_kept (keeps_bind keeps_tX fun fb => keeps_bind keeps_tF fun v => keeps_bind keeps_tRead fun ofb =>
    keeps_bind keeps_tRead fun ofn => keeps_bind keeps_tPop fun e => keeps_bind keeps_tWrite fun _ =>
    keeps_bind keeps_tSetX fun _ => keeps_bind keeps_tSetX fun _ => ?_) hs
  split <;> simp

theorem execTMkarr_kept {a b c} : NextKept (execTMkarr a b c s) :=
  bytecode_kept (keeps_bind (keeps_tAll (fun _ => keeps_tF) _) fun _ => keeps_bind keeps_tAlloc fun _ =>
    keeps_bind keeps_tWrite fun _ => keeps_bind keeps_tGc fun _ => keeps_bind keeps_tWrite fun _ =>
    keeps_bind keeps_tWrite fun _ => keeps_bind keeps_tWrite fun _ => keeps_bind keeps_tWrite fun _ =>
    keeps_bind (keeps_tEach (fun _ => keeps_tFirstStore) _) fun _ => keeps_tSetF) hs

theorem execTMkmap_kept {a b} : NextKept (execTMkmap a b s) := by
  refine bytecode_kept ?_ hs
  split
  · simp
  · exact keeps_bind keeps_tAlloc fun _ => keeps_bind keeps_tWrite fun _ => keeps_bind keeps_tGc fun _ =>
      keeps_bind keeps_tWrite fun _ => keeps_bind keeps_tWrite fun _ => keeps_bind keeps_tWrite fun _ =>
      keeps_bind keeps_tWrite fun _ => keeps_bind (keeps_tEach (fun _ => keeps_tFirstStore) _) fun _ => keeps_tSetF

theorem execTMkfunc_kept {a b c} : NextKept (execTMkfunc a b c s) := by
  refine bytecode_kept (keeps_bind keeps_tK fun f => keeps_bind keeps_tF fun v => keeps_bind keeps_tKind fun k => ?_) hs
  split
  · exact keeps_bind (keeps_tAll (fun _ => keeps_tRead) _) fun _ => keeps_bind keeps_tAlloc fun _ =>
      keeps_bind (keeps_tEach (fun _ => keeps_tWrite) _) fun _ => keeps_bind keeps_tFirstStore fun _ => keeps_tSetF
  · simp

theorem execTImport_kept {a b} : NextKept (execTImport a b s) :=
  bytecode_kept keeps_tGuard hs

theorem execTTryb_kept {a off} : NextKept (execTTryb a off s) :=
  bytecode_kept (keeps_bind keeps_tPc fun _ => keeps_bind keeps_tX fun _ => keeps_bind keeps_tX fun _ =>
    keeps_bind keeps_tX fun _ => keeps_get_bind fun _ _ => keeps_bind keeps_tSetF fun _ =>
    keeps_bind keeps_tSetF fun _ => keeps_bind keeps_tSetF fun _ => keeps_bind keeps_tSetF fun _ =>
    keeps_bind keeps_tSetF fun _ => keeps_tSetX) hs

theorem execTTryend_kept {a} : NextKept (execTTryend a s) := by
  refine bytecode_kept (keeps_bind keeps_tX fun h => keeps_bind keeps_tFrameAt fun at' => ?_) hs
  split
  · exact keeps_bind keeps_tF fun _ => keeps_tSetX
  · simp

theorem execTRaise_kept {a} : NextKept (execTRaise a s) :=
  bytecode_kept (keeps_bind keeps_tF fun _ => keeps_tRaise) hs

theorem execTAwait_kept {a} : NextKept (execTAwait a s) :=
  bytecode_kept (keeps_bind keeps_tF fun _ => keeps_bind keeps_tSettle fun _ => keeps_tTouch) hs

end Bytecodes

/-! ### The events of the machine, the host and the platform -/

section Events
variable {s : State} {t k c n l o core tile vf : Nat} {v : Word} (hs : Memory.wf s.mem)
include hs

/-! Threads, accesses and the engines of a core. -/

theorem execTensorPendingWake_kept : NextKept (execTensorPendingWake t s) := by
  refine nextKept_next.mpr ?_
  split <;> simp [hs]

theorem execFastPathCompletion_kept : NextKept (execFastPathCompletion k s) := by
  refine nextKept_next.mpr ?_
  split <;> simp [hs]

theorem execRestoredThreadPlacement_kept : NextKept (execRestoredThreadPlacement t s) :=
  nextKept_next.mpr (placeThread_canonical hs)

theorem execSleepWake_kept : NextKept (execSleepWake t s) := by
  refine nextKept_next.mpr ?_
  split <;> simp [hs]

theorem execTrapEntry_kept : NextKept (execTrapEntry t s) := by
  refine nextKept_next.mpr ?_
  split
  · split
    · exact takeTrap_canonical hs
    · exact hs
  · exact hs

theorem execMigrationArrival_kept : NextKept (execMigrationArrival t s) := by
  refine nextKept_next.mpr ?_
  split
  · exact land_canonical hs
  · exact hs

theorem execInboxToMailbox_kept : NextKept (execInboxToMailbox c n s) := by
  refine nextKept_next.mpr ?_
  split <;> simp [hs]

theorem execLongResultReturn_kept : NextKept (execLongResultReturn t o s) := by
  refine nextKept_next.mpr ?_
  (repeat' split) <;> simp [hs]

theorem execHomeAccessPerformed_kept : NextKept (execHomeAccessPerformed k s) := by
  refine nextKept_next.mpr ?_
  (repeat' split) <;> simp [hs]

theorem execCxlAccessComplete_kept : NextKept (execCxlAccessComplete k s) := by
  refine nextKept_next.mpr ?_
  (repeat' split) <;> simp [hs]

theorem execLongLat_kept : NextKept (execLongLat k s) := by
  refine nextKept_next.mpr ?_
  (repeat' split) <;> simp [hs]

theorem execReservationExpiry_kept : NextKept (execReservationExpiry t s) := by
  refine nextKept_next.mpr ?_
  split
  · exact endResv_canonical hs
  · exact hs

theorem execMmaAccumulation_kept : NextKept (execMmaAccumulation core s) := by
  refine nextKept_next.mpr ?_
  (repeat' split) <;> simp [hs]

theorem execMdrainReadout_kept : NextKept (execMdrainReadout core tile s) := by
  refine nextKept_next.mpr ?_
  split <;> simp [hs]

/-! Launches and neighbour steps. -/

theorem execLaunchAdmit_kept : NextKept (execLaunchAdmit l s) := by
  refine nextKept_next.mpr ?_
  (repeat' split) <;> simp [hs]

theorem execLeafStart_kept : NextKept (execLeafStart c l n s) := by
  refine nextKept_next.mpr ?_
  split <;> simp [hs]

theorem execLaunchRepartition_kept : NextKept (execLaunchRepartition core l s) := by
  refine nextKept_next.mpr ?_
  split
  · rw [repartition_mem]
    exact hs
  · exact hs

theorem execStepAdvance_kept : NextKept (execStepAdvance core s) := by
  refine nextKept_next.mpr ?_
  split <;> simp [hs]

theorem execBeaconArrival_kept : NextKept (execBeaconArrival k s) := by
  refine nextKept_next.mpr ?_
  dsimp only
  (repeat' split) <;> simp [hs]

theorem execLeavingBeaconArrival_kept : NextKept (execLeavingBeaconArrival k s) := by
  refine nextKept_next.mpr ?_
  dsimp only
  (repeat' split) <;> simp [hs]

theorem execCutMarkerArrival_kept : NextKept (execCutMarkerArrival k s) := by
  refine nextKept_next.mpr ?_
  dsimp only
  (repeat' split) <;> simp [hs]

theorem execReleaseMarkerArrival_kept : NextKept (execReleaseMarkerArrival k s) := by
  refine nextKept_next.mpr ?_
  dsimp only
  (repeat' split) <;> simp [hs]

theorem execCutHold_kept : NextKept (execCutHold core s) := by
  refine nextKept_next.mpr ?_
  dsimp only
  (repeat' split) <;> simp [hs]

theorem execStepcfgPairing_kept : NextKept (execStepcfgPairing core s) := by
  refine nextKept_next.mpr ?_
  split <;> simp [hs]

theorem execStepStall_kept : NextKept (execStepStall t s) := by
  refine nextKept_next.mpr ?_
  split
  · split
    · exact hs
    · exact raise_canonical (by simpa using hs)
  · exact hs

/-! Event queues, engine commands and the network. -/

theorem execHeldEventPost_kept : NextKept (execHeldEventPost c s) := by
  refine nextKept_next.mpr ?_
  (repeat' split) <;> simp [hs]

theorem execCounterEventDelivery_kept : NextKept (execCounterEventDelivery k s) := by
  refine nextKept_next.mpr ?_
  dsimp only
  (repeat' split) <;> simp [hs]

theorem execEngineCommandAccept_kept : NextKept (execEngineCommandAccept k s) := by
  refine nextKept_next.mpr ?_
  (repeat' split) <;> simp [hs]

theorem execEngineOperationComplete_kept : NextKept (execEngineOperationComplete k s) := by
  refine nextKept_next.mpr ?_
  (repeat' split) <;> simp [hs]

theorem execPublishFlip_kept : NextKept (execPublishFlip k s) := by
  refine nextKept_next.mpr ?_
  (repeat' split) <;> simp [hs]

theorem execGeyserPacketSend_kept : NextKept (execGeyserPacketSend k s) := by
  refine nextKept_next.mpr ?_
  dsimp only
  (repeat' split) <;> simp [hs]

theorem execGeyserPacketArrival_kept : NextKept (execGeyserPacketArrival k s) := by
  refine nextKept_next.mpr ?_
  (repeat' split) <;> simp [hs]

theorem execGeyserAckArrival_kept : NextKept (execGeyserAckArrival k s) := by
  refine nextKept_next.mpr ?_
  (repeat' split) <;> simp [hs]

theorem execGeyserRetransmitTimeout_kept : NextKept (execGeyserRetransmitTimeout k s) := by
  refine nextKept_next.mpr ?_
  split <;> simp [hs]

theorem execGeyserRefusal_kept : NextKept (execGeyserRefusal k s) := by
  refine nextKept_next.mpr ?_
  (repeat' split) <;> simp [hs]

theorem execGeyserConnectionFailure_kept : NextKept (execGeyserConnectionFailure n s) := by
  refine nextKept_next.mpr ?_
  split <;> simp [hs]

/-! The host, the service processor and the platform. -/

theorem execCsrWindowStore_kept : NextKept (execCsrWindowStore o v s) := by
  refine nextKept_next.mpr ?_
  split <;> simp [hs]

theorem execServiceReply_kept {r : Reply} : NextKept (execServiceReply k r s) := by
  refine nextKept_next.mpr ?_
  split <;> simp [hs]

theorem execHostQueueWrite_kept {rec arg : Word} : NextKept (execHostQueueWrite vf n rec arg s) := by
  refine nextKept_next.mpr ?_
  (repeat' split) <;> simp [hs]

theorem execFunctionLevelReset_kept : NextKept (execFunctionLevelReset vf s) := by
  refine nextKept_next.mpr ?_
  split
  · exact hs
  · split
    · exact hs
    · dsimp only
      (repeat' split) <;> simp [hs]

theorem execAttestationRequest_kept {asker : Option Nat} {nonce : List Byte} :
    NextKept (execAttestationRequest asker nonce s) := by
  refine nextKept_next.mpr ?_
  split <;> exact hs

theorem execLinkLaneFailure_kept : NextKept (execLinkLaneFailure l s) := by
  refine nextKept_next.mpr ?_
  split <;> exact hs

theorem execPowerLimit_kept : NextKept (execPowerLimit s) := by
  refine nextKept_next.mpr ?_
  split <;> exact hs

theorem execCoolingFailure_kept : NextKept (execCoolingFailure s) := by
  refine nextKept_next.mpr ?_
  dsimp only
  (repeat' split) <;> simp [hs, stopAll_canonical]

theorem execNowForwardStep_kept : NextKept (execNowForwardStep n s) := by
  refine nextKept_next.mpr ?_
  split <;> exact hs

theorem execUncorrectableMemoryData_kept : NextKept (execUncorrectableMemoryData n s) := by
  refine nextKept_next.mpr ?_
  (repeat' split) <;> exact hs

theorem execBringUp_kept {r : BootRecord} : NextKept (execBringUp r s) := by
  refine nextKept_next.mpr ?_
  (repeat' split) <;> simp [hs, bootWith_canonical]

end Events

end Sys2Proof.Machine
end

section
/-! PROOFS. Every step keeps memory in its canonical form (R97): what is fetched, the turn of a thread, and the step. -/

namespace Sys2Proof.Machine

/-! ### One instruction, one event -/

theorem exec_kept (i : Instr) {s : State} (hs : Memory.wf s.mem) : NextKept (exec i s) := by
  cases i with
  | add | sub | mul | mulh | div | rem | and | or | xor | andn | shl | shr | sra | rot | min | max | clz | ctz
  | popc | bswap | sel | mov | abs | ext | ins | fadd | fsub | fmul | ffma | fmin | fmax | fcvt | addi | andi
  | ori | xori | shli | shri | srai | movi | movh | muli | time => exact regOp_kept hs
  | fdiv | fsqrt => exact longOp_kept hs
  | cmp | cmpi | pand | por | pxor | pnot | pmov | fcmp => exact predOp_kept hs
  | br => exact execBr_kept hs
  | jmp => exact execJmp_kept hs
  | call => exact execCall_kept hs
  | callr => exact execCallr_kept hs
  | ret => exact execRet_kept hs
  | loop => exact execLoop_kept hs
  | trap | brk => exact native_kept (fun _ _ => kept_trap) hs
  | gatedServiceCall => exact execGatedServiceCall_kept hs
  | nop | vbcast | vperm => exact native_kept (fun _ hq => by simp [hq]) hs
  | exit => exact execExit_kept hs
  | uret => exact execUret_kept hs
  | ld => exact execLd_kept hs
  | st => exact execSt_kept hs
  | pf => exact execPf_kept hs
  | fence => exact execFence_kept hs
  | ifence => exact execIfence_kept hs
  | icsync => exact execIcsync_kept hs
  | atom => exact execAtom_kept hs
  | ldfe => exact execLdfe_kept hs
  | stfe => exact execStfe_kept hs
  | fset => exact execFset_kept hs
  | fget => exact execFget_kept hs
  | waita => exact execWaita_kept hs
  | mon => exact execMon_kept hs
  | monrel => exact execMonrel_kept hs
  | sleep => exact execSleep_kept hs
  | yield => exact execYield_kept hs
  | vadd | vsub | vmul | vfma | vmin | vmax | vabs | vneg | vexp2 | vlog2 | vrcp | vrsq | vand | vor | vxor
  | vsh | vcmp | vsel | vscale | vmov => exact vecOp_kept hs
  | vred => exact execVred_kept hs
  | vcvt => exact execVcvt_kept hs
  | setshape => exact execSetshape_kept hs
  | vld => exact execVld_kept hs
  | vst => exact execVst_kept hs
  | vgather => exact execVgather_kept hs
  | vscatter => exact execVscatter_kept hs
  | vact => exact execVact_kept hs
  | oclaim => exact execOclaim_kept hs
  | orel => exact execOrel_kept hs
  | tld => exact execTld_kept hs
  | tfill => exact execTfill_kept hs
  | mzero => exact execMzero_kept hs
  | manch => exact execManch_kept hs
  | mma => exact execMma_kept hs
  | mdrain => exact execMdrain_kept hs
  | rowout => exact execRowout_kept hs
  | rowend => exact execRowend_kept hs
  | mstat => exact execMstat_kept hs
  | sld => exact execSld_kept hs
  | sst => exact execSst_kept hs
  | sadd => exact execSadd_kept hs
  | smax => exact execSmax_kept hs
  | smin => exact execSmin_kept hs
  | sreblk => exact execSreblk_kept hs
  | smov => exact execSmov_kept hs
  | sbind => exact execSbind_kept hs
  | squery => exact execSquery_kept hs
  | sfree => exact execSfree_kept hs
  | sset => exact execSset_kept hs
  | fork => exact execFork_kept hs
  | tend => exact execTend_kept hs
  | joinw => exact execJoinw_kept hs
  | barr => exact execBarr_kept hs
  | bwait => exact execBwait_kept hs
  | bmiss => exact execBmiss_kept hs
  | bcfg => exact execBcfg_kept hs
  | migrate => exact execMigrate_kept hs
  | nomad => exact execNomad_kept hs
  | homeq => exact execHomeq_kept hs
  | xfer => exact execXfer_kept hs
  | shadow => exact execShadow_kept hs
  | publish => exact execPublish_kept hs
  | npost => exact execNpost_kept hs
  | nrecv => exact execNrecv_kept hs
  | launch => exact execLaunch_kept hs
  | lwait => exact execLwait_kept hs
  | lstat => exact execLstat_kept hs
  | cmsg => exact execCmsg_kept hs
  | mrecv => exact execMrecv_kept hs
  | stepcfg => exact execStepcfg_kept hs
  | stepend => exact execStepend_kept hs
  | ldstep => exact execLdstep_kept hs
  | stepaddr => exact execStepaddr_kept hs
  | stepq => exact execStepq_kept hs
  | cut => exact execCut_kept hs
  | mfcr => exact execMfcr_kept hs
  | mtcr => exact execMtcr_kept hs
  | eret => exact execEret_kept hs
  | tsave => exact execTsave_kept hs
  | tload => exact execTload_kept hs
  | tswap => exact execTswap_kept hs
  | repart => exact execRepart_kept hs
  | tlbinv => exact execTlbinv_kept hs
  | cacheop => exact execCacheop_kept hs
  | sigpost => exact execSigpost_kept hs
  | ctxnew => exact execCtxnew_kept hs
  | ctxgrant => exact execCtxgrant_kept hs
  | ctxrevoke => exact execCtxrevoke_kept hs
  | ctxrun => exact execCtxrun_kept hs
  | ctxstop => exact execCtxstop_kept hs
  | ctxevt => exact execCtxevt_kept hs
  | ctxreset => exact execCtxreset_kept hs
  | ctxfree => exact execCtxfree_kept hs
  | ctxstat => exact execCtxstat_kept hs
  | tNop => exact execTNop_kept hs
  | tMove => exact execTMove_kept hs
  | tLoadk => exact execTLoadk_kept hs
  | tLoadi => exact execTLoadi_kept hs
  | tLoadc => exact execTLoadc_kept hs
  | tGetg => exact execTGetg_kept hs
  | tSetg => exact execTSetg_kept hs
  | tGetattr => exact execTGetattr_kept hs
  | tSetattr => exact execTSetattr_kept hs
  | tGetitem => exact execTGetitem_kept hs
  | tSetitem => exact execTSetitem_kept hs
  | tBinop => exact execTBinop_kept hs
  | tUnop => exact execTUnop_kept hs
  | tCompare => exact execTCompare_kept hs
  | tJmp => exact execTJmp_kept hs
  | tJt => exact execTJt_kept hs
  | tJf => exact execTJf_kept hs
  | tCall => exact execTCall_kept hs
  | tCallm => exact execTCallm_kept hs
  | tRet => exact execTRet_kept hs
  | tMkarr => exact execTMkarr_kept hs
  | tMkmap => exact execTMkmap_kept hs
  | tMkfunc => exact execTMkfunc_kept hs
  | tGetcell => exact execTGetcell_kept hs
  | tSetcell => exact execTSetcell_kept hs
  | tForprep => exact execTForprep_kept hs
  | tForloop => exact execTForloop_kept hs
  | tIter => exact execTIter_kept hs
  | tNext => exact execTNext_kept hs
  | tRaise => exact execTRaise_kept hs
  | tTryb => exact execTTryb_kept hs
  | tTryend => exact execTTryend_kept hs
  | tImport => exact execTImport_kept hs
  | tNative => exact execTNative_kept hs
  | tAwait => exact execTAwait_kept hs
  | tDel => exact execTDel_kept hs
  | tLen => exact execTLen_kept hs
  | tIsinst => exact execTIsinst_kept hs
  | tHalt => exact execTHalt_kept hs
  | tensorPendingWake => exact execTensorPendingWake_kept hs
  | fastPathCompletion => exact execFastPathCompletion_kept hs
  | longResultReturn => exact execLongResultReturn_kept hs
  | homeAccessPerformed => exact execHomeAccessPerformed_kept hs
  | reservationExpiry => exact execReservationExpiry_kept hs
  | restoredThreadPlacement => exact execRestoredThreadPlacement_kept hs
  | sleepWake => exact execSleepWake_kept hs
  | cxlAccessComplete => exact execCxlAccessComplete_kept hs
  | longLat => exact execLongLat_kept hs
  | trapEntry => exact execTrapEntry_kept hs
  | migrationArrival => exact execMigrationArrival_kept hs
  | inboxToMailbox => exact execInboxToMailbox_kept hs
  | engineCommandAccept => exact execEngineCommandAccept_kept hs
  | engineOperationComplete => exact execEngineOperationComplete_kept hs
  | publishFlip => exact execPublishFlip_kept hs
  | mmaAccumulation => exact execMmaAccumulation_kept hs
  | mdrainReadout => exact execMdrainReadout_kept hs
  | launchAdmit => exact execLaunchAdmit_kept hs
  | leafStart => exact execLeafStart_kept hs
  | launchRepartition => exact execLaunchRepartition_kept hs
  | geyserPacketSend => exact execGeyserPacketSend_kept hs
  | geyserPacketArrival => exact execGeyserPacketArrival_kept hs
  | geyserAckArrival => exact execGeyserAckArrival_kept hs
  | geyserRetransmitTimeout => exact execGeyserRetransmitTimeout_kept hs
  | geyserRefusal => exact execGeyserRefusal_kept hs
  | geyserConnectionFailure => exact execGeyserConnectionFailure_kept hs
  | stepAdvance => exact execStepAdvance_kept hs
  | beaconArrival => exact execBeaconArrival_kept hs
  | stepcfgPairing => exact execStepcfgPairing_kept hs
  | leavingBeaconArrival => exact execLeavingBeaconArrival_kept hs
  | cutMarkerArrival => exact execCutMarkerArrival_kept hs
  | cutHold => exact execCutHold_kept hs
  | releaseMarkerArrival => exact execReleaseMarkerArrival_kept hs
  | stepStall => exact execStepStall_kept hs
  | heldEventPost => exact execHeldEventPost_kept hs
  | counterEventDelivery => exact execCounterEventDelivery_kept hs
  | serviceReply => exact execServiceReply_kept hs
  | bfmtWrite | stepCounterWrite | depcfgWrite | delegWrite | pcntWrite | salcfgWrite | vfctlWrite
  | cxlwinWrite | registerWrite => exact crEvent_kept hs
  | csrWindowStore => exact execCsrWindowStore_kept hs
  | hostQueueWrite => exact execHostQueueWrite_kept hs
  | functionLevelReset => exact execFunctionLevelReset_kept hs
  | attestationRequest => exact execAttestationRequest_kept hs
  | linkLaneFailure => exact execLinkLaneFailure_kept hs
  | powerLimit => exact execPowerLimit_kept hs
  | coolingFailure => exact execCoolingFailure_kept hs
  | nowForwardStep => exact execNowForwardStep_kept hs
  | bringUp => exact execBringUp_kept hs
  | uncorrectableMemoryData => exact execUncorrectableMemoryData_kept hs
  | unsupportedRequest => exact nextKept_next.mpr hs

theorem run_kept (e : Happening) {s : State} (hs : Memory.wf s.mem) : NextKept (e.run s) := by
  cases e with
  | tensorPendingWake => exact execTensorPendingWake_kept hs
  | fastPathCompletion => exact execFastPathCompletion_kept hs
  | longResultReturn => exact execLongResultReturn_kept hs
  | homeAccessPerformed => exact execHomeAccessPerformed_kept hs
  | reservationExpiry => exact execReservationExpiry_kept hs
  | restoredThreadPlacement => exact execRestoredThreadPlacement_kept hs
  | sleepWake => exact execSleepWake_kept hs
  | cxlAccessComplete => exact execCxlAccessComplete_kept hs
  | longLat => exact execLongLat_kept hs
  | trapEntry => exact execTrapEntry_kept hs
  | migrationArrival => exact execMigrationArrival_kept hs
  | inboxToMailbox => exact execInboxToMailbox_kept hs
  | engineCommandAccept => exact execEngineCommandAccept_kept hs
  | engineOperationComplete => exact execEngineOperationComplete_kept hs
  | publishFlip => exact execPublishFlip_kept hs
  | mmaAccumulation => exact execMmaAccumulation_kept hs
  | mdrainReadout => exact execMdrainReadout_kept hs
  | launchAdmit => exact execLaunchAdmit_kept hs
  | leafStart => exact execLeafStart_kept hs
  | launchRepartition => exact execLaunchRepartition_kept hs
  | geyserPacketSend => exact execGeyserPacketSend_kept hs
  | geyserPacketArrival => exact execGeyserPacketArrival_kept hs
  | geyserAckArrival => exact execGeyserAckArrival_kept hs
  | geyserRetransmitTimeout => exact execGeyserRetransmitTimeout_kept hs
  | geyserRefusal => exact execGeyserRefusal_kept hs
  | stepAdvance => exact execStepAdvance_kept hs
  | beaconArrival => exact execBeaconArrival_kept hs
  | stepcfgPairing => exact execStepcfgPairing_kept hs
  | leavingBeaconArrival => exact execLeavingBeaconArrival_kept hs
  | cutMarkerArrival => exact execCutMarkerArrival_kept hs
  | cutHold => exact execCutHold_kept hs
  | releaseMarkerArrival => exact execReleaseMarkerArrival_kept hs
  | stepStall => exact execStepStall_kept hs
  | heldEventPost => exact execHeldEventPost_kept hs
  | counterEventDelivery => exact execCounterEventDelivery_kept hs

/-! ### Fetching -/

/-- The state that reading a word of code goes on with has a canonical memory. -/
def CodeWord.Kept : CodeWord → Prop
  | .got q _ => Memory.wf q.mem
  | _ => True

/-- The state that a fetch goes on with has a canonical memory. -/
def Fetched.Kept : Fetched → Prop
  | .instr q _ | .never q | .trap q _ | .guard q _ | .wait q _ => Memory.wf q.mem

@[simp] theorem kept_got {q : State} {w : Word} : (CodeWord.got q w).Kept ↔ Memory.wf q.mem := Iff.rfl

section Fetching
variable {s : State} {a w v : Word} {n uid core : Nat} (hs : Memory.wf s.mem)
include hs

theorem codeWord_kept : (s.codeWord a).Kept := by
  unfold State.codeWord
  split
  · exact hs
  · split
    · trivial
    · trivial
    · dsimp only
      split
      · trivial
      · split
        · trivial
        · rw [kept_got, setTh_mem, remember_mem]
          exact touch_canonical hs

omit hs in
theorem codeWord_got {q : State} (hs : Memory.wf s.mem) (hq : s.codeWord a = .got q w) : Memory.wf q.mem := by
  have hkept := codeWord_kept hs (a := a)
  rw [hq] at hkept
  exact hkept

omit hs in
theorem fetchAhead_canonical (hs : Memory.wf s.mem) : Memory.wf (State.fetchAhead n a s).mem := by
  induction n generalizing a s with
  | zero => exact hs
  | succ n ih =>
    unfold State.fetchAhead
    split
    · exact hs
    · split
      · next hq => exact ih (codeWord_got hs hq)
      · exact hs

theorem decodeCode_kept : (s.decodeCode w v).Kept := by
  unfold State.decodeCode
  split
  · exact hs
  · split <;> exact hs

theorem fetchNative_kept : s.fetchNative.Kept := by
  unfold State.fetchNative
  split
  · exact hs
  · exact hs
  · next q w hq =>
    have hahead : ∀ n a, Memory.wf (State.fetchAhead n a q).mem := fun _ _ => fetchAhead_canonical (codeWord_got hs hq)
    dsimp only
    split
    · exact hahead _ _
    · split <;> exact hahead _ _

theorem fetchTephra_kept : s.fetchTephra.Kept := by
  unfold State.fetchTephra
  split
  · exact hs
  · exact hs
  · next hq =>
    have hgot := codeWord_got hs hq
    split
    · split
      · exact hgot
      · exact hgot
      · next hr =>
        exact decodeCode_kept (fetchAhead_canonical (codeWord_got hgot hr))
    · exact decodeCode_kept (fetchAhead_canonical hgot)

theorem guardFirst_kept {i : Instr} : (s.guardFirst i).Kept := by
  have htouched : ∀ h a (t : Tr), Memory.wf (((s.remember s.who a kRead t).touch h a t.pa 8).mem) :=
    fun h a t => touch_canonical (by simpa using hs)
  unfold State.guardFirst
  split
  · exact hs
  · dsimp only
    split
    · exact hs
    · split
      · exact hs
      · split <;> exact htouched _ _ _

theorem fetchFirst_kept : s.fetchFirst.Kept := by
  have hfetch : s.trimBuf.fetchTephra.Kept := fetchTephra_kept (by simpa using hs)
  unfold State.fetchFirst
  dsimp only
  split
  · next q i hq =>
    rw [hq] at hfetch
    have hguard : (q.guardFirst i).Kept := guardFirst_kept hfetch
    split
    · next hr => rw [hr] at hguard; exact hguard
    · exact hguard
  · exact hfetch

theorem firstBytecode_kept {f : Fetched} (hf : s.firstBytecode = some f) : f.Kept := by
  unfold State.firstBytecode at hf
  dsimp only at hf
  split at hf
  · cases hf
  · split at hf
    · cases hf
    · cases hf; exact hs
    · cases hf; exact fetchFirst_kept hs
    · split at hf
      · cases hf; exact hs
      · split at hf
        · cases hf; exact hs
        · cases hf; simpa [Fetched.Kept] using hs

theorem fetchNext_kept : s.fetchNext.Kept := by
  have htrim : Memory.wf s.trimBuf.mem := by simpa using hs
  unfold State.fetchNext
  split
  · next hf => exact firstBytecode_kept hs hf
  · split
    · exact fetchTephra_kept htrim
    · exact fetchNative_kept htrim

end Fetching

/-! ### The turn of a thread and of a core -/

section Turns
variable {s : State} {n uid core c : Nat} (hs : Memory.wf s.mem)
include hs

omit hs in
theorem onNext_kept {o : Host.Outcome State Fault Refusal} {f : State → State} (ho : NextKept o)
    (hf : ∀ q, Memory.wf q.mem → Memory.wf (f q).mem) : NextKept (onNext o f) := by
  cases o with
  | next q => exact nextKept_next.mpr (hf q (nextKept_next.mp ho))
  | fault r => exact nextKept_fault
  | refused r => exact nofun

theorem issueTurn_kept : NextKept (s.issueTurn uid c) := by
  unfold State.issueTurn
  extract_lets q t r
  have hfetch : r.fetchNext.Kept := fetchNext_kept (by exact hs)
  split <;> rename_i hq <;> rw [hq] at hfetch
  · exact exec_kept _ hfetch
  · exact nextKept_next.mpr (by rw [finish_mem, counted_mem]; exact hfetch)
  · refine nextKept_next.mpr ?_
    split
    · exact trapNow_canonical hfetch
    · exact raise_canonical hfetch
  · exact nextKept_next.mpr (guardEnter_canonical hfetch)
  · exact nextKept_next.mpr (by rw [parkAt_mem]; exact hfetch)

theorem slotTurn_kept {urgent : Bool} : NextKept (s.slotTurn core uid urgent) :=
  onNext_kept (issueTurn_kept hs) fun _ hq => by simpa using hq

theorem controlTurn_kept : NextKept (s.controlTurn core) := by
  unfold State.controlTurn
  split
  · exact nextKept_next.mpr (by simpa using hs)
  · exact onNext_kept (issueTurn_kept hs) fun _ hq => by simpa using hq

theorem coreCycle_kept : NextKept (s.coreCycle core) := by
  have hserved : Memory.wf ((s.serveCore core).countParked core).mem := by simpa using serveCore_canonical hs
  unfold State.coreCycle
  extract_lets q
  split
  · exact slotTurn_kept hserved
  · exact slotTurn_kept hserved
  · exact slotTurn_kept (by exact hserved)
  · exact nextKept_next.mpr hserved

theorem takeInput_kept : NextKept s.takeInput := by
  unfold State.takeInput
  split
  · exact nextKept_next.mpr hs
  · split
    · refine onNext_kept (exec_kept _ hs) fun q hq => ?_
      split <;> exact hq
    · exact nextKept_next.mpr hs
  · exact nextKept_next.mpr hs
  · exact nextKept_next.mpr (by simpa using hs)
  · exact nextKept_next.mpr (by simpa using hs)
  · exact nextKept_next.mpr (by simpa using hs)
  · exact nextKept_next.mpr hs

/-! ### One step -/

theorem act_kept (a : Agent) : NextKept (s.act a) := by
  cases a with
  | event e => exact run_kept e hs
  | core c => exact coreCycle_kept hs
  | control c => exact controlTurn_kept hs
  | input => exact takeInput_kept hs
  | port k => exact nextKept_next.mpr (by simpa using hs)

omit hs in
@[simp] theorem choose_mem (s : State) (l : List Agent) : (s.choose l).1.mem = s.mem := by
  unfold State.choose
  (repeat' split) <;> rfl

theorem step_kept : NextKept (step s) := by
  unfold step
  split
  · exact nextKept_next.mpr hs
  · next a l _ =>
    have hchosen : Memory.wf (s.choose (a :: l)).1.mem := by simpa using hs
    split <;> rename_i hq <;> rw [hq] at hchosen
    · exact onNext_kept (act_kept hchosen _) fun _ hr => settle_canonical hr
    · exact nextKept_next.mpr hchosen

end Turns

/-- Settles O7: no transition writes memory but through `setByte` and what is made of it, which keep the list of
bytes sorted and without zeros. Each operation of the model is followed from there to `step`. -/
theorem memoryStaysCanonical : Obligations.MemoryStaysCanonical := by
  unfold Obligations.MemoryStaysCanonical
  exact fun s t hs ht => step_kept hs t ht

end Sys2Proof.Machine
end

section
/-! PROOFS. Stores at their homes, and a load's way back to its register (R22, R27, R45, R97, R112, R168, R387). -/

namespace Sys2Proof.Machine

/-! ### A store at a home where it has no effect but its own (R97, R112, R387) -/

section Stores
variable {s : State} {h : Home} {src : Word} {pa n : Nat} {bs : List Byte}

/-- A byte after a write of bytes: the one written, or the one that was there. -/
theorem get_setBytes (m : List Host.Cell) (pa : Nat) (bs : List Byte) (x : Nat) :
    get Memory.unlisted (setBytes m pa bs) x =
      if pa ≤ x ∧ x < pa + bs.length then bs.getD (x - pa) 0 else get Memory.unlisted m x := by
  split
  · next hx =>
    obtain ⟨i, rfl⟩ := Nat.exists_eq_add_of_le hx.1
    have hi : i < bs.length := by omega
    simp [get_setBytes_in bs hi, hi]
  · next hx => exact get_setBytes_out bs (by omega)

/-- A store of bytes changes memory, its poison and the lines that are held back from HBM. -/
theorem storeBytes_cases (s : State) (pa : Nat) (bs : List Byte) : ∃ b, s.storeBytes pa bs =
    { s with
      mem := setBytes s.mem pa bs, poisoned := s.poisoned.filter fun u => !covered pa bs.length u, behind := b } := by
  unfold State.storeBytes State.dirty
  split
  · exact ⟨s.behind, rfl⟩
  · exact ⟨_, rfl⟩

theorem claim_cases (s : State) (h : Home) (pa n : Nat) : ∃ b, s.claim h pa n = { s with behind := b } := by
  unfold State.claim
  split
  · exact ⟨s.behind, rfl⟩
  · exact ⟨_, rfl⟩

/-- No store is recorded at a home whose port keeps no log (R334). -/
theorem sal_off (hoff : ∀ c, portOf h = some c → bit (s.core c).salcfg 0 = false) : s.sal h src pa n = s := by
  unfold State.sal
  split
  · rfl
  · next c hc => exact if_pos (by simp [hoff c hc])

theorem retire_good (hg : s.badFrames.contains (pa / 0x10000) = false) : s.retire pa = s :=
  if_neg (by rw [hg]; exact Bool.false_ne_true)

theorem written_good (hg : s.badFrames.contains (pa / 0x10000) = false) : s.written pa bs = bs :=
  if_neg (by rw [hg]; exact Bool.false_ne_true)

theorem disturbed_unblocked (hb : s.blockOf pa = []) : s.disturbed pa = s := by
  simp only [State.disturbed, hb, forEach]

theorem serveRange_unwaited (hw : s.waiters = []) : s.serveRange pa n = s := by
  simp [State.serveRange, hw]

/-- Where nothing waits, the frame is good, no context block is met and no log is kept, nothing follows a write. -/
theorem write_unfollowed (s : State) (hw : s.waiters = []) (hg : s.badFrames.contains (pa / 0x10000) = false)
    (hb : s.blockOf pa = []) (hoff : ∀ c, portOf h = some c → bit (s.core c).salcfg 0 = false) :
    (((s.sal h src pa n).retire pa).disturbed pa).serveRange pa n = s := by
  rw [sal_off hoff, retire_good hg, disturbed_unblocked hb, serveRange_unwaited hw]

theorem quietHome_cases (hq : s.quietHome h pa = true) :
    s.waiters = [] ∧ s.badFrames.contains (pa / 0x10000) = false ∧ s.blockOf pa = [] ∧ s.behind = [] ∧
      ∀ c, portOf h = some c → bit (s.core c).salcfg 0 = false := by
  simp only [State.quietHome, Bool.and_eq_true, List.isEmpty_iff, Bool.not_eq_true'] at hq
  obtain ⟨⟨⟨⟨hw, hg⟩, hb⟩, hclean⟩, hport⟩ := hq
  refine ⟨hw, hg, hb, hclean, fun c hc => ?_⟩
  rw [hc] at hport
  simpa using hport

/-- A store at a quiet home changes the bytes stored, clears the poison of the units that it covers, and is held back from
HBM where its home is a cache; it changes nothing else. -/
theorem storeAt_quiet (hq : s.quietHome h pa = true) : ∃ b, s.storeAt h src pa bs =
    { s with
      mem := setBytes s.mem pa bs, poisoned := s.poisoned.filter fun u => !covered pa bs.length u, behind := b } := by
  obtain ⟨hw, hg, hb, hclean, hport⟩ := quietHome_cases hq
  obtain ⟨b, hstore⟩ := storeBytes_cases s pa bs
  obtain ⟨b', hclaim⟩ := claim_cases (s.storeBytes pa bs) h pa bs.length
  have hfinal : (s.storeBytes pa bs).claim h pa bs.length =
      { s with
        mem := setBytes s.mem pa bs, poisoned := s.poisoned.filter fun u => !covered pa bs.length u, behind := b' } := by
    rw [hclaim, hstore]
  refine ⟨b', ?_⟩
  rw [State.storeAt, State.writeAt, rehome_clean hclean, written_good hg, hfinal]
  exact write_unfollowed _ hw hg hb hport

/-- Exactly the stored bytes change. -/
theorem storeAt_quiet_byte (hq : s.quietHome h pa = true) (x : Nat) :
    (s.storeAt h src pa bs).byte x = if pa ≤ x ∧ x < pa + bs.length then bs.getD (x - pa) 0 else s.byte x := by
  obtain ⟨b, hst⟩ := storeAt_quiet (src := src) (bs := bs) hq
  rw [hst]
  exact get_setBytes s.mem pa bs x

end Stores

/-! ### What a change of one thread or of one core leaves (R44, R45) -/

section Parts
variable {s q : State} {u w c : Nat} {r : Opnd} {f : Thread → Thread} {g : Core → Core}

theorem thread_onThread (hl : has s.threads u = true) : (s.onThread u f).thread u = f (s.thread u) := by
  rw [onThread_live _ _ _ hl, thread_setThread]

theorem thread_onThread_ne (hw : w ≠ u) : (s.onThread u f).thread w = s.thread w := by
  unfold State.onThread
  split
  · exact thread_setThread_ne _ _ hw
  · rfl

theorem has_onThread : has (s.onThread u f).threads u = has s.threads u := by
  unfold State.onThread
  split
  · next hl => rw [setThread_threads, has_put, hl]
  · rfl

/-- A change of a thread that leaves its registers and its core leaves what every register reads. -/
theorem regOf_onThread (hx : ∀ t, (f t).x = t.x) (hp : ∀ t, (f t).place = t.place) :
    (s.onThread u f).regOf w r = s.regOf w r := by
  by_cases hl : has s.threads u = true
  · by_cases hw : w = u
    · subst hw
      simp only [State.regOf, thread_onThread hl, Thread.core, Thread.getX, hx, hp]
      rw [onThread_live _ _ _ hl]
      rfl
    · simp only [State.regOf, thread_onThread_ne hw]
      rw [onThread_live _ _ _ hl]
      rfl
  · rw [onThread_dead _ _ _ (by simpa using hl)]

/-- A change of a core that leaves its shared registers leaves what every register reads. -/
theorem regOf_onCore (hy : ∀ k, (g k).y = k.y) : (s.onCore c g).regOf w r = s.regOf w r := by
  have hcore : ∀ d n, ((s.onCore c g).core d).getY n = (s.core d).getY n := by
    intro d n
    by_cases hd : d = c
    · subst hd
      rw [State.onCore, core_setCore, Core.getY, hy]
      rfl
    · rw [State.onCore, core_setCore_ne _ _ hd]
  show (if r.shared then ((s.onCore c g).core (s.thread w).core).getY r.n.toNat else (s.thread w).getX r.n.toNat) = _
  rw [hcore]
  rfl

theorem State.CountedFrom.regOf (h : s.CountedFrom q) (w : Nat) (r : Opnd) : q.regOf w r = s.regOf w r := by
  obtain ⟨c, n, b, rfl⟩ := h
  rfl

theorem State.CountedFrom.thread (h : s.CountedFrom q) (w : Nat) : q.thread w = s.thread w := by
  simp only [State.thread, h.threads]

end Parts

/-! ### A load's access is performed at its home (R22, R112) -/

section Loads
variable {s : State} {a : Acc} {u w : Nat} {r : Opnd} {o : Outst} {bs : List Byte} {bad : Bool}

/-- The bytes of an access reach the result of a thread that waits for them. -/
def Thread.receive (a : Acc) (bs : List Byte) (bad : Bool) (t : Thread) : Thread :=
  { t with outst := modFirst (fun o => o.id == a.out) (·.add a.off bs bad) t.outst }

theorem deliver_thread (ho : a.owner = .thread u) (hout : a.out ≠ 0) :
    s.deliver a bs bad = s.onThread u (·.receive a bs bad) := by
  simp only [State.deliver, ho, if_neg hout]
  rfl

theorem receive_regOf : (s.onThread u (·.receive a bs bad)).regOf w r = s.regOf w r :=
  regOf_onThread (fun _ => rfl) (fun _ => rfl)

/-- A load at a home of memory counts, and hands the bytes there to its issuer. -/
theorem perform_load (hop : a.op = .load) (hh : ∀ c, a.home ≠ .csr c) (hb : s.behind = []) :
    ∃ q, s.CountedFrom q ∧ s.perform a = q.deliver a (s.bytes a.pa a.size) (s.isPoisoned a.pa a.size) := by
  have hq : s.CountedFrom (s.countAccess a) := countedFrom_countHome (countedFrom_refl s) ..
  refine ⟨_, hq, ?_⟩
  simp only [State.perform, hop, rehome_clean (hq.behind.trans hb), loadBytes_memory hh, hq.bytes, hq.isPoisoned]

/-- The first element that satisfies a test is the one that is replaced, if it still satisfies the test. -/
theorem find?_modFirst {α : Type} {p : α → Bool} {f : α → α} {x : α} (hf : ∀ y, p (f y) = p y) {l : List α}
    (hx : l.find? p = some x) : (modFirst p f l).find? p = some (f x) := by
  induction l with
  | nil => simp at hx
  | cons y r ih =>
    by_cases hy : p y = true
    · obtain rfl : y = x := by simpa [hy] using hx
      simp [modFirst, hf, hy]
    · simp only [Bool.not_eq_true] at hy
      simp only [modFirst, hy, List.find?_cons_of_neg, Bool.false_eq_true, not_false_eq_true, if_false] at hx ⊢
      exact ih hx

theorem receive_find (t : Thread) (hf : t.outst.find? (fun r => r.id == a.out) = some o) :
    (t.receive a bs bad).outst.find? (fun r => r.id == a.out) = some (o.add a.off bs bad) :=
  find?_modFirst (f := fun o : Outst => o.add a.off bs bad) (fun _ => rfl) hf

end Loads

/-! ### A result returns to its register (R22, R27, R45, R168) -/

section Results
variable {s q z : State} {u w : Nat} {o : Outst} {d r : Opnd} {v : Word} {n : Nat} {sx : Bool} {bs : List Byte}

/-- A write of a register of a thread is one that the thread makes when it issues. -/
theorem setRegOf_issuer (s : State) (u : Nat) (d : Opnd) (v : Word) :
    { s.setRegOf u d v with cur := u } = State.setReg { s with cur := u } d v := by
  unfold State.setReg State.setRegOf State.onThread
  (repeat' split) <;> rfl

theorem regOf_setRegOf_ne (hl : has s.threads u = true) (hr : r ≠ d) : (s.setRegOf u d v).regOf w r = s.regOf w r :=
  (congrArg (·.regOf w r) (setRegOf_issuer s u d v)).trans (regOf_setReg_ne (s := { s with cur := u }) hl hr)

theorem regOf_setRegOf_same (hl : has s.threads u = true) (hd : d ≠ .zero) : (s.setRegOf u d v).regOf u d = v :=
  (congrArg (·.reg d) (setRegOf_issuer s u d v)).trans (reg_setReg_same (s := { s with cur := u }) hl hd)

/-- The results of a thread are those that it had. -/
def State.SameResults (u : Nat) (s q : State) : Prop :=
  has q.threads u = has s.threads u ∧ (q.thread u).outst = (s.thread u).outst

theorem State.SameResults.trans (h : State.SameResults u s q) (h' : State.SameResults u q z) :
    State.SameResults u s z :=
  ⟨h'.1.trans h.1, h'.2.trans h.2⟩

theorem sameResults_onThread {f : Thread → Thread} (hf : ∀ t, (f t).outst = t.outst) :
    State.SameResults u s (s.onThread u f) := by
  refine ⟨has_onThread, ?_⟩
  by_cases hl : has s.threads u = true
  · rw [thread_onThread hl, hf]
  · rw [onThread_dead _ _ _ (by simpa using hl)]

theorem Thread.setX_outst (t : Thread) (n : Nat) (v : Word) : (t.setX n v).outst = t.outst := by
  unfold Thread.setX
  split <;> rfl

theorem setRegOf_results : State.SameResults u s (s.setRegOf u d v) := by
  unfold State.setRegOf
  split
  · exact ⟨rfl, rfl⟩
  · exact sameResults_onThread fun t => t.setX_outst _ _

theorem poisonDst_results : State.SameResults u s (s.poisonDst u (.reg d)) := by
  unfold State.poisonDst
  dsimp only
  split
  · exact ⟨rfl, rfl⟩
  · split
    · exact ⟨rfl, rfl⟩
    · exact sameResults_onThread fun _ => rfl

theorem poisonDst_regOf : (s.poisonDst u (.reg d)).regOf w r = s.regOf w r := by
  unfold State.poisonDst
  dsimp only
  split
  · exact regOf_onCore (fun _ => rfl)
  · split
    · rfl
    · exact regOf_onThread (fun _ => rfl) (fun _ => rfl)

theorem poisonDst_x (hl : has s.threads u = true) (hp : d.shared = false) (hn : d.n ≠ 0) :
    d.n.toNat ∈ ((s.poisonDst u (.reg d)).thread u).xPoison := by
  simp only [State.poisonDst, hp, Bool.false_eq_true, if_false, if_neg hn, thread_onThread hl]
  exact List.mem_cons_self

theorem wroteShared_results (old : State) : State.SameResults u s (s.wroteShared old u (.reg d)) := by
  unfold State.wroteShared
  dsimp only
  split <;> exact ⟨rfl, rfl⟩

theorem wroteShared_regOf (old : State) : (s.wroteShared old u (.reg d)).regOf w r = s.regOf w r := by
  unfold State.wroteShared
  dsimp only
  split
  · rfl
  · exact regOf_onCore (fun _ => rfl)

theorem wroteShared_bankX (old : State) (hp : d.shared = false) : s.wroteShared old u (.reg d) = s := by
  simp [State.wroteShared, hp]

/-- A register receives the value of a result, poisoned if its data is, unless a write that outranks it remains (R27, R45). -/
def State.regReturned (s : State) (u : Nat) (d : Opnd) (v : Word) (bad : Bool) : State :=
  if s.outranked u (.reg d) then s
  else (if bad then (s.setRegOf u d v).poisonDst u (.reg d) else s.setRegOf u d v).wroteShared s u (.reg d)

theorem regReturned_outranked {bad : Bool} (ho : s.outranked u (.reg d) = true) : s.regReturned u d v bad = s :=
  if_pos ho

theorem regReturned_written {bad : Bool} (ho : s.outranked u (.reg d) = false) : s.regReturned u d v bad =
    (if bad then (s.setRegOf u d v).poisonDst u (.reg d) else s.setRegOf u d v).wroteShared s u (.reg d) :=
  if_neg (by simp [ho])

/-- A result has left the list of its thread. -/
def Thread.resultTaken (o : Outst) (t : Thread) : Thread :=
  { t with
    outst := t.outst.filter fun p => p.id != o.id,
    trace := t.trace.map fun e => if e = .open o.id then .got o.first (!o.bad.isEmpty) else e }

/-- The result of a load returns to one register. -/
theorem returnResult_load (hf : o.fin = .load d n sx) (hn : n ≠ 16) (hd : o.dsts = [.reg d]) (hdead : o.dead = [])
    (hgot : o.got = [(0, bs)]) :
    s.returnResult u o = (s.regReturned u d (loadValue n sx bs) (!o.bad.isEmpty)).onThread u (·.resultTaken o) := by
  have hfirst : o.first = bs := by simp only [Outst.first, hgot]
  have hwrites : o.writes s.free = [.reg d (loadValue n sx bs)] := by
    simp only [Outst.writes, hf, if_neg hn, hfirst]
  have hcount : ∀ q : State, q.countResult u o = q := fun q => by simp only [State.countResult, hf]
  have hpoisons : o.poisons = if o.bad.isEmpty then [] else [.reg d] := by simp only [Outst.poisons, hf, hd]
  simp only [State.returnResult, hwrites, hcount, hpoisons, hd, hdead, State.writeAll, forEach, State.write, List.nil_append]
  refine congrArg (fun q : State => q.onThread u (·.resultTaken o)) ?_
  cases ho : s.outranked u (.reg d) with
  | true =>
    rw [regReturned_outranked ho]
    cases o.bad.isEmpty <;> simp [ho, forEach]
  | false =>
    rw [regReturned_written ho]
    cases o.bad.isEmpty <;> simp [ho, forEach]

theorem regReturned_results (bad : Bool) : State.SameResults u s (s.regReturned u d v bad) := by
  cases ho : s.outranked u (.reg d) with
  | true => rw [regReturned_outranked ho]; exact ⟨rfl, rfl⟩
  | false =>
    rw [regReturned_written ho]
    cases bad with
    | true => exact (setRegOf_results.trans poisonDst_results).trans (wroteShared_results s)
    | false => exact setRegOf_results.trans (wroteShared_results s)

/-- What the register that receives a value reads is the value, and poison leaves it so. -/
theorem regReturned_regOf (ho : s.outranked u (.reg d) = false) (bad : Bool) :
    (s.regReturned u d v bad).regOf w r = (s.setRegOf u d v).regOf w r := by
  rw [regReturned_written ho, wroteShared_regOf]
  cases bad with
  | true => exact poisonDst_regOf
  | false => rfl

theorem regReturned_regOf_ne (hl : has s.threads u = true) (bad : Bool) (hr : r ≠ d) :
    (s.regReturned u d v bad).regOf w r = s.regOf w r := by
  cases ho : s.outranked u (.reg d) with
  | true => rw [regReturned_outranked ho]
  | false => rw [regReturned_regOf ho, regOf_setRegOf_ne hl hr]

/-- No write outranks one of a register of bank x (R45). -/
theorem outranked_bankX (hp : d.shared = false) : s.outranked u (.reg d) = false := by
  simp [State.outranked, hp]

theorem regReturned_poison (hl : has s.threads u = true) (hp : d.shared = false) (hn : d.n ≠ 0) :
    d.n.toNat ∈ ((s.regReturned u d v true).thread u).xPoison := by
  rw [regReturned_written (outranked_bankX hp), wroteShared_bankX _ hp]
  exact poisonDst_x (setRegOf_results.1.trans hl) hp hn

theorem resultTaken_regOf : (s.onThread u (·.resultTaken o)).regOf w r = s.regOf w r :=
  regOf_onThread (fun _ => rfl) (fun _ => rfl)

theorem loadValue_eq (n : Nat) (sx : Bool) (bs : List Byte) : loadValue n sx bs =
    if sx ∧ n < 8 then sext (8 * n) (fromBytes (bs.take (min n 8))) else BitVec.ofNat 64 (fromBytes (bs.take (min n 8))) := by
  simp [loadValue, word]

end Results

/-- Settles O23: a store by what a quiet home leaves it to do; a load by its two halves, the delivery of its bytes to the
outstanding result and the return of that result to its register. -/
theorem storesAndLoads : Obligations.StoresAndLoads := by
  unfold Obligations.StoresAndLoads
  refine ⟨fun s h src pa bs hq => ?stored, fun s a u o hop ho hh hout hb hl hf => ?performed,
    fun s u o d n sx bs hl hf hn hd hdead hgot => ?returned⟩
  case stored =>
    refine ⟨storeAt_quiet_byte hq, ?_⟩
    obtain ⟨b, hst⟩ := storeAt_quiet (src := src) (bs := bs) hq
    rw [hst]
    exact ⟨rfl, rfl, rfl, rfl, rfl, fun _ => rfl, fun _ hu => List.mem_of_mem_filter hu⟩
  case performed =>
    obtain ⟨q, hq, hperf⟩ := perform_load hop hh hb
    have hlive : has q.threads u = true := by rw [hq.threads, hl]
    rw [deliver_thread ho hout] at hperf
    rw [hperf]
    refine ⟨(onThread_mem ..).trans hq.mem, ?_, fun r => ?_, fun w hw => (thread_onThread_ne hw).trans (hq.thread w)⟩
    · rw [thread_onThread hlive, hq.thread]
      exact receive_find _ hf
    · exact receive_regOf.trans (hq.regOf u r)
  case returned =>
    have hret := returnResult_load (s := s) (u := u) hf hn hd hdead hgot
    have hsame := regReturned_results (s := s) (u := u) (d := d) (v := loadValue n sx bs) (!o.bad.isEmpty)
    refine ⟨fun hbad hz ho => ?value, fun hbad hp hz => ?poison, fun r hr => ?others, returnResult_mem .., ?list⟩
    case value =>
      have hd0 : d ≠ .zero := by
        rintro rfl
        simp [Opnd.zero] at hz
      rw [hret, resultTaken_regOf, regReturned_regOf ho, regOf_setRegOf_same hl hd0, loadValue_eq]
    case poison =>
      have hb : (!o.bad.isEmpty) = true := by simpa using hbad
      rw [hret, thread_onThread (hsame.1.trans hl), hb]
      exact regReturned_poison hl hp hz
    case others => rw [hret, resultTaken_regOf, regReturned_regOf_ne hl _ hr]
    case list =>
      rw [hret, thread_onThread (hsame.1.trans hl)]
      exact congrArg (List.filter _) hsame.2

end Sys2Proof.Machine
end

section
/-! PROOFS. The events of the engines, Geyser and the service threads (R126, R127, R228, R229, R234, R320 to R322, R412):
when each can happen, and what it does then. -/

namespace Sys2Proof.Machine

/-! ### Commands of the engines (R126, R127, R229) -/

section Commands
variable {s : State} {k r : Nat} {c : Cmd} {d : Opnd}

theorem canAccept_eq (hk : s.cmd? k = some c) :
    s.canAccept k = (!c.accepted && s.firstQueued c && s.allDone c.earlier && s.nwrRoom c && s.mailRoom c &&
      s.walksFree c && !(s.thread c.uid).overLimit c.out) := by
  simp only [State.canAccept, hk]

theorem canComplete_eq (hk : s.cmd? k = some c) :
    s.canComplete k = (c.accepted && s.cmdDone c && s.inOrder c) := by
  simp only [State.canComplete, hk]

theorem engineCommandAccept_next (hk : s.cmd? k = some c) (hc : s.canAccept k = true) :
    exec (.engineCommandAccept k) s = .next (s.accept c) := by
  show execEngineCommandAccept k s = _
  simp only [execEngineCommandAccept, if_pos hc, hk]

theorem engineCommandAccept_idle (hc : s.canAccept k = false) : exec (.engineCommandAccept k) s = .next s :=
  congrArg _ (if_neg (by simp [hc]))

theorem engineOperationComplete_next (hk : s.cmd? k = some c) (hc : s.canComplete k = true) :
    exec (.engineOperationComplete k) s = .next (s.complete c) := by
  show execEngineOperationComplete k s = _
  simp only [execEngineOperationComplete, if_pos hc, hk]

theorem engineOperationComplete_idle (hc : s.canComplete k = false) :
    exec (.engineOperationComplete k) s = .next s :=
  congrArg _ (if_neg (by simp [hc]))

theorem publishFlip_next (hk : s.cmd? k = some c) (hc : s.canFlip k = true) (hp : c.kind = .publish r d) :
    exec (.publishFlip k) s = .next (s.flip c r d) := by
  show execPublishFlip k s = _
  simp only [execPublishFlip, if_pos hc, hk, hp]

theorem publishFlip_idle (hc : s.canFlip k = false) : exec (.publishFlip k) s = .next s :=
  congrArg _ (if_neg (by simp [hc]))

end Commands

/-! ### Packets on their way out (R320, R321, R323) -/

section Sending
variable {s : State} {k n psn : Nat} {wr : WorkReq} {p : Pkt}

/-- The reads that fetch the payload of a packet from the local buffer. -/
def State.payloadReads (s : State) (wr : WorkReq) (p : Pkt) : List (Nat × Nat) :=
  packetReads (s.sourceOf wr).2.1 (s.sourceOf wr).2.2.1 p.index

/-- The packet is sent once its payload has been asked for, or at once where it has none; else its payload is read. -/
theorem geyserPacketSend_eq (hk : s.sendable[k]? = some (wr, p)) :
    exec (.geyserPacketSend k) s =
      .next (if p.reading || (s.payloadReads wr p).isEmpty then s.transmit wr p else s.readPacket wr p) := by
  show execGeyserPacketSend k s = _
  simp only [execGeyserPacketSend, hk]
  rfl

theorem geyserPacketSend_transmits (hk : s.sendable[k]? = some (wr, p))
    (hr : p.reading = true ∨ s.payloadReads wr p = []) :
    exec (.geyserPacketSend k) s = .next (s.transmit wr p) :=
  (geyserPacketSend_eq hk).trans (congrArg _ (if_pos (by simpa using hr)))

theorem geyserPacketSend_reads (hk : s.sendable[k]? = some (wr, p)) (hr : p.reading = false)
    (hn : s.payloadReads wr p ≠ []) : exec (.geyserPacketSend k) s = .next (s.readPacket wr p) :=
  (geyserPacketSend_eq hk).trans (congrArg _ (if_neg (by simp [hr, hn])))

theorem geyserPacketSend_idle (hk : s.sendable[k]? = none) : exec (.geyserPacketSend k) s = .next s := by
  show execGeyserPacketSend k s = _
  simp only [execGeyserPacketSend, hk]

theorem geyserRetransmitTimeout_next (hk : s.overdue[k]? = some (n, psn)) :
    exec (.geyserRetransmitTimeout k) s = .next (s.onPkt n psn fun p => { p with again := true }) := by
  show execGeyserRetransmitTimeout k s = _
  simp only [execGeyserRetransmitTimeout, hk]

end Sending

/-! ### Messages on their way in, and connections that fail (R234, R321, R322) -/

section Receiving
variable {s : State} {k n psn st : Nat} {f : InFlight}

/-- The state in which the k-th message has been received, with other unstated values than before. -/
def State.receivedAnew (s : State) (k : Nat) : State := State.received { s with free := s.free + 1 } k

theorem geyserPacketArrival_next {mseq index count len op win : Nat} {tag : Word} {last : Bool} {payload : List Byte}
    {bad : List (Nat × Nat)} (hf : s.inbound k = some f)
    (hm : f.msg = .packet n psn mseq index count len op tag win last payload bad) (hc : s.canReceive k = true) :
    exec (.geyserPacketArrival k) s = .next
      ((s.receivedAnew k).arrivePacket n psn mseq index count len op tag win last payload bad).settlePlacing := by
  show execGeyserPacketArrival k s = _
  simp only [execGeyserPacketArrival, if_pos hc, hf, hm]
  rfl

theorem geyserAckArrival_next (hf : s.inbound k = some f) (hm : f.msg = .ack n psn) :
    exec (.geyserAckArrival k) s = .next ((s.received k).acknowledge n psn) := by
  show execGeyserAckArrival k s = _
  simp only [execGeyserAckArrival, hf, hm]

theorem geyserRefusal_next (hf : s.inbound k = some f) (hm : f.msg = .refuse n psn st) :
    exec (.geyserRefusal k) s = .next ((s.received k).refused n psn st) := by
  show execGeyserRefusal k s = _
  simp only [execGeyserRefusal, hf, hm]

theorem geyserConnectionFailure_next (ho : (s.conn n).isOpen = true) :
    exec (.geyserConnectionFailure n) s = .next (s.closeConn n 6) :=
  congrArg _ (if_pos ho)

theorem geyserConnectionFailure_idle (ho : (s.conn n).isOpen = false) :
    exec (.geyserConnectionFailure n) s = .next s :=
  congrArg _ (if_neg (by simp [ho]))

end Receiving

/-! ### Replies of the service threads (R412) -/

section Replies
variable {s : State} {k : Nat} {ca : Call} {re : Reply}

theorem serviceReply_next (hk : s.calls.find? (fun c => c.id == k) = some ca) :
    exec (.serviceReply k re) s = .next (s.replyTo ca re) := by
  show execServiceReply k re s = _
  simp only [execServiceReply, hk]

theorem serviceReply_idle (hk : s.calls.find? (fun c => c.id == k) = none) :
    exec (.serviceReply k re) s = .next s := by
  show execServiceReply k re s = _
  simp only [execServiceReply, hk]

end Replies

/-- Settles O59: a command is accepted, completes and flips where `canAccept`, `canComplete` and `canFlip` say so; a packet
is read and then sent; what arrives acts by its kind of message. -/
theorem engineEvents : Obligations.EngineEvents := by
  unfold Obligations.EngineEvents
  intro s k n psn st c r d wr p f ca re ends z z'
  refine ⟨fun hk => ⟨?accepts, ?accepted, ?completes, ?queued, publishFlip_next hk, publishFlip_idle⟩,
    fun hk => ⟨geyserPacketSend_transmits hk, geyserPacketSend_reads hk⟩, geyserPacketSend_idle,
    fun hf => ⟨?arrives, geyserAckArrival_next hf, geyserRefusal_next hf⟩, geyserRetransmitTimeout_next,
    geyserConnectionFailure_next, geyserConnectionFailure_idle, serviceReply_next, serviceReply_idle⟩
  case accepts =>
    exact fun ha hfirst hdone hnwr hmail hwalks hlimit => engineCommandAccept_next hk
      (by simp [canAccept_eq hk, ha, hfirst, hdone, hnwr, hmail, hwalks, hlimit])
  case accepted => exact fun ha => engineCommandAccept_idle (by simp [canAccept_eq hk, ha])
  case completes =>
    exact fun ha hdone hord => engineOperationComplete_next hk (by simp [canComplete_eq hk, ha, hdone, hord])
  case queued => exact fun ha => engineOperationComplete_idle (by simp [canComplete_eq hk, ha])
  case arrives => exact fun _ _ _ _ _ _ _ _ _ _ hm hc => geyserPacketArrival_next hf hm hc

end Sys2Proof.Machine
end

section
/-! PROOFS. Decoding and encoding agree for every word (R130 to R141, R282 to R290). -/

namespace Sys2Proof.Laws.Encoding

open Sys2Proof

/-! ### From an instruction to its words and back -/

/-- Every well-formed instruction is read back: a native function and a bytecode by the lemma of its row, an event since it
has no words. -/
theorem decode_encode : (i : Instr) → Statement i
  | .add .. => add _ _ _ _ _ | .sub .. => sub _ _ _ _ _ | .mul .. => mul _ _ _ _ _ | .mulh .. => mulh _ _ _ _ _
  | .div .. => div _ _ _ _ _ | .rem .. => rem _ _ _ _ _ | .and .. => and _ _ _ _ _ | .or .. => or _ _ _ _ _
  | .xor .. => xor _ _ _ _ _ | .andn .. => andn _ _ _ _ _ | .shl .. => shl _ _ _ _ _ | .shr .. => shr _ _ _ _ _
  | .sra .. => sra _ _ _ _ _ | .rot .. => rot _ _ _ _ _ | .min .. => min _ _ _ _ _ | .max .. => max _ _ _ _ _
  | .clz .. => clz _ _ _ _ | .ctz .. => ctz _ _ _ _ | .popc .. => popc _ _ _ _ | .bswap .. => bswap _ _ _ _
  | .sel .. => sel _ _ _ _ _ | .mov .. => mov _ _ _ _ | .abs .. => abs _ _ _ _ | .ext .. => ext _ _ _ _
  | .ins .. => ins _ _ _ _ | .fadd .. => fadd _ _ _ _ _ | .fsub .. => fsub _ _ _ _ _ | .fmul .. => fmul _ _ _ _ _
  | .ffma .. => ffma _ _ _ _ _ | .fdiv .. => fdiv _ _ _ _ _ | .fmin .. => fmin _ _ _ _ _ | .fmax .. => fmax _ _ _ _ _
  | .fcvt .. => fcvt _ _ _ _ | .fsqrt .. => fsqrt _ _ _ _ | .addi .. => addi _ _ _ _ | .andi .. => andi _ _ _ _
  | .ori .. => ori _ _ _ _ | .xori .. => xori _ _ _ _ | .shli .. => shli _ _ _ _ | .shri .. => shri _ _ _ _
  | .srai .. => srai _ _ _ _ | .movi .. => movi _ _ _ | .movh .. => movh _ _ _ | .muli .. => muli _ _ _ _
  | .cmp .. => cmp _ _ _ _ _ | .cmpi .. => cmpi _ _ _ _ _ | .pand .. => pand _ _ _ _ | .por .. => por _ _ _ _
  | .pxor .. => pxor _ _ _ _ | .pnot .. => pnot _ _ _ | .pmov .. => pmov _ _ _ | .fcmp .. => fcmp _ _ _ _ _
  | .br .. => br _ _ _ _ | .jmp .. => jmp _ _ _ _ | .call .. => call _ _ _ | .callr .. => callr _ _ _ _
  | .ret .. => ret _ _ | .loop .. => loop _ _ _ _ | .trap .. => trap _ _ _
  | .gatedServiceCall .. => gatedServiceCall _ _ _ | .brk .. => brk _ _ _ | .nop .. => nop _ _ | .exit .. => exit _ _
  | .uret .. => uret _ _ | .ld .. => ld _ _ _ _ | .st .. => st _ _ _ _ | .pf .. => pf _ _ _ | .fence .. => fence _ _ _
  | .ifence .. => ifence _ _ | .icsync .. => icsync _ _ | .atom .. => atom _ _ _ _ _ | .ldfe .. => ldfe _ _ _ _
  | .stfe .. => stfe _ _ _ _ | .fset .. => fset _ _ _ _ | .fget .. => fget _ _ _ _ | .waita .. => waita _ _ _ _ _
  | .mon .. => mon _ _ _ _ | .monrel .. => monrel _ _ _ _ | .time .. => time _ _ _ | .sleep .. => sleep _ _ _ _
  | .yield .. => yield _ _ | .vadd .. => vadd _ _ _ _ _ _ | .vsub .. => vsub _ _ _ _ _ _
  | .vmul .. => vmul _ _ _ _ _ _ | .vfma .. => vfma _ _ _ _ _ _ _ | .vmin .. => vmin _ _ _ _ _ _
  | .vmax .. => vmax _ _ _ _ _ _ | .vabs .. => vabs _ _ _ _ | .vneg .. => vneg _ _ _ _ | .vexp2 .. => vexp2 _ _ _ _
  | .vlog2 .. => vlog2 _ _ _ _ | .vrcp .. => vrcp _ _ _ _ | .vrsq .. => vrsq _ _ _ _ | .vand .. => vand _ _ _ _ _ _
  | .vor .. => vor _ _ _ _ _ _ | .vxor .. => vxor _ _ _ _ _ _ | .vsh .. => vsh _ _ _ _ _ _
  | .vcmp .. => vcmp _ _ _ _ _ _ | .vsel .. => vsel _ _ _ _ _ _ _ | .vred .. => vred _ _ _ _
  | .vbcast .. => vbcast _ _ _ _ | .vperm .. => vperm _ _ _ _ _ _ | .vcvt .. => vcvt _ _ _ _ _
  | .vscale .. => vscale _ _ _ _ _ _ | .vmov .. => vmov _ _ _ _ | .setshape .. => setshape _ _ _ _
  | .vld .. => vld _ _ _ _ | .vst .. => vst _ _ _ _ | .vgather .. => vgather _ _ _ _ _
  | .vscatter .. => vscatter _ _ _ _ _ | .vact .. => vact _ _ _ _ | .oclaim .. => oclaim _ _ _ _
  | .orel .. => orel _ _ _ _ | .tld .. => tld _ _ _ _ _ _ | .tfill .. => tfill _ _ _ _ _ _ _
  | .mzero .. => mzero _ _ _ | .manch .. => manch _ _ _ _ | .mma .. => mma _ _ _ _ _ | .mdrain .. => mdrain _ _ _ _ _
  | .rowout .. => rowout _ _ _ _ _ _ | .rowend .. => rowend _ _ | .mstat .. => mstat _ _ _ _ _
  | .sld .. => sld _ _ _ _ | .sst .. => sst _ _ _ _ | .sadd .. => sadd _ _ _ _ | .smax .. => smax _ _ _ _
  | .smin .. => smin _ _ _ _ | .sreblk .. => sreblk _ _ _ _ | .smov .. => smov _ _ _ _ | .sbind .. => sbind _ _ _ _ _
  | .squery .. => squery _ _ _ _ | .sfree .. => sfree _ _ _ | .sset .. => sset _ _ _ _ | .fork .. => fork _ _ _ _
  | .tend .. => tend _ _ | .joinw .. => joinw _ _ _ | .barr .. => barr _ _ _ _ | .bwait .. => bwait _ _ _
  | .bmiss .. => bmiss _ _ _ _ _ | .bcfg .. => bcfg _ _ _ _ | .migrate .. => migrate _ _ _ | .nomad .. => nomad _ _
  | .homeq .. => homeq _ _ _ _ | .xfer .. => xfer _ _ _ _ | .shadow .. => shadow _ _ _ _ _
  | .publish .. => publish _ _ _ _ | .npost .. => npost _ _ _ | .nrecv .. => nrecv _ _ _
  | .launch .. => launch _ _ _ _ _ | .lwait .. => lwait _ _ _ _ | .lstat .. => lstat _ _ _ _
  | .cmsg .. => cmsg _ _ _ _ _ | .mrecv .. => mrecv _ _ _ _ | .stepcfg .. => stepcfg _ _ _ _
  | .stepend .. => stepend _ _ _ | .ldstep .. => ldstep _ _ _ _ _ | .stepaddr .. => stepaddr _ _ _ _
  | .stepq .. => stepq _ _ _ _ | .cut .. => cut _ _ _ _ _ | .mfcr .. => mfcr _ _ _ _ | .mtcr .. => mtcr _ _ _ _ _
  | .eret .. => eret _ _ | .tsave .. => tsave _ _ _ _ _ | .tload .. => tload _ _ _ _ _ | .tswap .. => tswap _ _ _ _ _
  | .repart .. => repart _ _ _ _ | .tlbinv .. => tlbinv _ _ _ _ _ | .cacheop .. => cacheop _ _ _ _ _
  | .sigpost .. => sigpost _ _ _ _ _ | .ctxnew .. => ctxnew _ _ _ | .ctxgrant .. => ctxgrant _ _ _ _
  | .ctxrevoke .. => ctxrevoke _ _ _ _ | .ctxrun .. => ctxrun _ _ _ | .ctxstop .. => ctxstop _ _ _
  | .ctxevt .. => ctxevt _ _ _ _ | .ctxreset .. => ctxreset _ _ _ _ | .ctxfree .. => ctxfree _ _ _
  | .ctxstat .. => ctxstat _ _ _ _ | .tNop => tNop | .tMove .. => tMove _ _ | .tLoadk .. => tLoadk _ _
  | .tLoadi .. => tLoadi _ _ | .tLoadc .. => tLoadc _ _ | .tGetg .. => tGetg _ _ _ _ | .tSetg .. => tSetg _ _ _ _
  | .tGetattr .. => tGetattr _ _ _ _ _ | .tSetattr .. => tSetattr _ _ _ _ _ | .tGetitem .. => tGetitem _ _ _
  | .tSetitem .. => tSetitem _ _ _ | .tBinop .. => tBinop _ _ _ _ _ | .tUnop .. => tUnop _ _ _ _
  | .tCompare .. => tCompare _ _ _ _ _ | .tJmp .. => tJmp _ | .tJt .. => tJt _ _ | .tJf .. => tJf _ _
  | .tCall .. => tCall _ _ _ | .tCallm .. => tCallm _ _ _ _ | .tRet .. => tRet _ | .tMkarr .. => tMkarr _ _ _
  | .tMkmap .. => tMkmap _ _ | .tMkfunc .. => tMkfunc _ _ _ | .tGetcell .. => tGetcell _ _
  | .tSetcell .. => tSetcell _ _ | .tForprep .. => tForprep _ _ | .tForloop .. => tForloop _ _
  | .tIter .. => tIter _ _ | .tNext .. => tNext _ _ | .tRaise .. => tRaise _ | .tTryb .. => tTryb _ _
  | .tTryend .. => tTryend _ | .tImport .. => tImport _ _ | .tNative .. => tNative _ _ _ | .tAwait .. => tAwait _
  | .tDel .. => tDel _ | .tLen .. => tLen _ _ | .tIsinst .. => tIsinst _ _ _ | .tHalt .. => tHalt _
  | .tensorPendingWake .. | .fastPathCompletion .. | .longResultReturn .. | .homeAccessPerformed ..
  | .reservationExpiry .. | .restoredThreadPlacement .. | .sleepWake .. | .cxlAccessComplete .. | .longLat ..
  | .trapEntry .. | .migrationArrival .. | .inboxToMailbox .. | .engineCommandAccept .. | .engineOperationComplete ..
  | .publishFlip .. | .mmaAccumulation .. | .mdrainReadout .. | .launchAdmit .. | .leafStart ..
  | .launchRepartition .. | .geyserPacketSend .. | .geyserPacketArrival .. | .geyserAckArrival ..
  | .geyserRetransmitTimeout .. | .geyserRefusal .. | .geyserConnectionFailure .. | .stepAdvance ..
  | .beaconArrival .. | .stepcfgPairing .. | .leavingBeaconArrival .. | .cutMarkerArrival .. | .cutHold ..
  | .releaseMarkerArrival .. | .stepStall .. | .heldEventPost .. | .counterEventDelivery .. | .serviceReply ..
  | .bfmtWrite .. | .stepCounterWrite .. | .depcfgWrite .. | .delegWrite .. | .pcntWrite .. | .salcfgWrite ..
  | .vfctlWrite .. | .cxlwinWrite .. | .registerWrite .. | .csrWindowStore .. | .hostQueueWrite ..
  | .functionLevelReset .. | .attestationRequest .. | .linkLaneFailure .. | .powerLimit | .coolingFailure
  | .nowForwardStep .. | .bringUp .. | .uncorrectableMemoryData .. | .unsupportedRequest .. => of_event rfl

/-! ### From words to the one instruction that they encode (R141) -/

/-- What is accepted is well formed and has the words that were read as its encoding. -/
theorem accept_ok {c : Code} {o : Option Instr} {i : Instr} (h : accept c o = .ok i) : i.wf = true ∧ encode i = c := by
  unfold accept at h
  cases o with
  | none => cases h
  | some j =>
    dsimp only at h
    split at h
    · next he =>
      split at h
      · next hw =>
        cases h
        exact ⟨hw, he⟩
      · cases h
    · cases h

theorem decodeNative_ok {w : Word} {i : Instr} (h : decodeNative w = .ok i) : i.wf = true ∧ encode i = .native w :=
  accept_ok h

/-- A bytecode that decodes has two words exactly where its opcode names an inline-cache site (R282, R283). -/
theorem decodeTephra_ok {w v : Lane} {i : Instr} (h : decodeTephra w v = .ok i) :
    i.wf = true ∧ (encode i = .byte1 w ∨ encode i = .byte2 w v) ∧ (icBearing w = true ↔ encode i = .byte2 w v) := by
  obtain ⟨hw, he⟩ := accept_ok h
  refine ⟨hw, ?_⟩
  cases hb : icBearing w with
  | true =>
    have he2 : encode i = .byte2 w v := by simpa [hb] using he
    exact ⟨.inr he2, fun _ => he2, fun _ => rfl⟩
  | false =>
    have he1 : encode i = .byte1 w := by simpa [hb] using he
    exact ⟨.inl he1, by simp [he1]⟩

/-! ### Words in memory (R2) -/

theorem decodeNative_of_encode {i : Instr} {w : Word} (hw : i.wf = true) (he : encode i = .native w) :
    decodeNative w = .ok i := by
  have h := decode_encode i hw
  rw [he] at h
  exact h

/-- The eight bytes of a native word, read as a number, are the word again. -/
theorem decodeBytes_native (w : Word) : decodeBytes false (toBytes 8 w.toNat) = decodeNative w := by
  have htake : (toBytes 8 w.toNat).take 8 = toBytes 8 w.toNat :=
    List.take_of_length_le (Machine.toBytes_length 8 w.toNat).le
  have hval : fromBytes (toBytes 8 w.toNat) = w.toNat := by
    rw [Machine.fromBytes_toBytes]
    exact Nat.mod_eq_of_lt w.isLt
  simp only [decodeBytes, Bool.false_eq_true, if_false, htake, hval, BitVec.ofNat_toNat, BitVec.setWidth_eq]

theorem decodeBytes_encodeBytes {i : Instr} {w : Word} (hw : i.wf = true) (he : encode i = .native w) :
    decodeBytes false (encodeBytes i) = .ok i := by
  have hbytes : encodeBytes i = toBytes 8 w.toNat := by simp only [encodeBytes, he]
  rw [hbytes, decodeBytes_native, decodeNative_of_encode hw he]

/-- Settles O6: each row's instruction is read back from its words, and a word is accepted only as the encoding of what it
is read as. -/
theorem decodeEncode : Obligations.DecodeEncode := by
  unfold Obligations.DecodeEncode
  exact ⟨decode_encode, fun _ _ => decodeNative_ok, fun _ _ _ => decodeTephra_ok,
    fun _ _ hw he _ => decodeBytes_encodeBytes hw he⟩

end Sys2Proof.Laws.Encoding
end

section
/-! PROOFS. What every native instruction has in common before its own work begins: the checks of its word (R142 to R144) and
its guard (R131). -/

namespace Sys2Proof.Machine

/-! ### Every instruction with a native word is issued alike -/

/-- The meaning of a native word is a body under the common checks of R144. -/
theorem exec_native (s : State) {w : Word} :
    (i : Instr) → encode i = .native w → ∃ body : State → Res, exec i s = native i body s
  | .add .., _ | .sub .., _ | .mul .., _ | .mulh .., _ | .div .., _ | .rem .., _ | .and .., _ | .or .., _ | .xor .., _
  | .andn .., _ | .shl .., _ | .shr .., _ | .sra .., _ | .rot .., _ | .min .., _ | .max .., _ | .clz .., _
  | .ctz .., _ | .popc .., _ | .bswap .., _ | .sel .., _ | .mov .., _ | .abs .., _ | .ext .., _ | .ins .., _
  | .fadd .., _ | .fsub .., _ | .fmul .., _ | .ffma .., _ | .fdiv .., _ | .fmin .., _ | .fmax .., _ | .fcvt .., _
  | .fsqrt .., _ | .addi .., _ | .andi .., _ | .ori .., _ | .xori .., _ | .shli .., _ | .shri .., _ | .srai .., _
  | .movi .., _ | .movh .., _ | .muli .., _ | .cmp .., _ | .cmpi .., _ | .pand .., _ | .por .., _ | .pxor .., _
  | .pnot .., _ | .pmov .., _ | .fcmp .., _ | .br .., _ | .jmp .., _ | .call .., _ | .callr .., _ | .ret .., _
  | .loop .., _ | .trap .., _ | .gatedServiceCall .., _ | .brk .., _ | .nop .., _ | .exit .., _ | .uret .., _
  | .ld .., _ | .st .., _ | .pf .., _ | .fence .., _ | .ifence .., _ | .icsync .., _ | .atom .., _ | .ldfe .., _
  | .stfe .., _ | .fset .., _ | .fget .., _ | .waita .., _ | .mon .., _ | .monrel .., _ | .time .., _ | .sleep .., _
  | .yield .., _ | .vadd .., _ | .vsub .., _ | .vmul .., _ | .vfma .., _ | .vmin .., _ | .vmax .., _ | .vabs .., _
  | .vneg .., _ | .vexp2 .., _ | .vlog2 .., _ | .vrcp .., _ | .vrsq .., _ | .vand .., _ | .vor .., _ | .vxor .., _
  | .vsh .., _ | .vcmp .., _ | .vsel .., _ | .vred .., _ | .vbcast .., _ | .vperm .., _ | .vcvt .., _ | .vscale .., _
  | .vmov .., _ | .setshape .., _ | .vld .., _ | .vst .., _ | .vgather .., _ | .vscatter .., _ | .vact .., _
  | .oclaim .., _ | .orel .., _ | .tld .., _ | .tfill .., _ | .mzero .., _ | .manch .., _ | .mma .., _ | .mdrain .., _
  | .rowout .., _ | .rowend .., _ | .mstat .., _ | .sld .., _ | .sst .., _ | .sadd .., _ | .smax .., _ | .smin .., _
  | .sreblk .., _ | .smov .., _ | .sbind .., _ | .squery .., _ | .sfree .., _ | .sset .., _ | .fork .., _
  | .tend .., _ | .joinw .., _ | .barr .., _ | .bwait .., _ | .bmiss .., _ | .bcfg .., _ | .migrate .., _
  | .nomad .., _ | .homeq .., _ | .xfer .., _ | .shadow .., _ | .publish .., _ | .npost .., _ | .nrecv .., _
  | .launch .., _ | .lwait .., _ | .lstat .., _ | .cmsg .., _ | .mrecv .., _ | .stepcfg .., _ | .stepend .., _
  | .ldstep .., _ | .stepaddr .., _ | .stepq .., _ | .cut .., _ | .mfcr .., _ | .mtcr .., _ | .eret .., _
  | .tsave .., _ | .tload .., _ | .tswap .., _ | .repart .., _ | .tlbinv .., _ | .cacheop .., _ | .sigpost .., _
  | .ctxnew .., _ | .ctxgrant .., _ | .ctxrevoke .., _ | .ctxrun .., _ | .ctxstop .., _ | .ctxevt .., _
  | .ctxreset .., _ | .ctxfree .., _ | .ctxstat .., _ =>
    ⟨_, rfl⟩
  | .tNop, he | .tMove .., he | .tLoadk .., he | .tLoadi .., he | .tLoadc .., he | .tGetg .., he | .tSetg .., he
  | .tGetattr .., he | .tSetattr .., he | .tGetitem .., he | .tSetitem .., he | .tBinop .., he | .tUnop .., he
  | .tCompare .., he | .tJmp .., he | .tJt .., he | .tJf .., he | .tCall .., he | .tCallm .., he | .tRet .., he
  | .tMkarr .., he | .tMkmap .., he | .tMkfunc .., he | .tGetcell .., he | .tSetcell .., he | .tForprep .., he
  | .tForloop .., he | .tIter .., he | .tNext .., he | .tRaise .., he | .tTryb .., he | .tTryend .., he
  | .tImport .., he | .tNative .., he | .tAwait .., he | .tDel .., he | .tLen .., he | .tIsinst .., he | .tHalt .., he
  | .tensorPendingWake .., he | .fastPathCompletion .., he | .longResultReturn .., he | .homeAccessPerformed .., he
  | .reservationExpiry .., he | .restoredThreadPlacement .., he | .sleepWake .., he | .cxlAccessComplete .., he
  | .longLat .., he | .trapEntry .., he | .migrationArrival .., he | .inboxToMailbox .., he
  | .engineCommandAccept .., he | .engineOperationComplete .., he | .publishFlip .., he | .mmaAccumulation .., he
  | .mdrainReadout .., he | .launchAdmit .., he | .leafStart .., he | .launchRepartition .., he
  | .geyserPacketSend .., he | .geyserPacketArrival .., he | .geyserAckArrival .., he
  | .geyserRetransmitTimeout .., he | .geyserRefusal .., he | .geyserConnectionFailure .., he | .stepAdvance .., he
  | .beaconArrival .., he | .stepcfgPairing .., he | .leavingBeaconArrival .., he | .cutMarkerArrival .., he
  | .cutHold .., he | .releaseMarkerArrival .., he | .stepStall .., he | .heldEventPost .., he
  | .counterEventDelivery .., he | .serviceReply .., he | .bfmtWrite .., he | .stepCounterWrite .., he
  | .depcfgWrite .., he | .delegWrite .., he | .pcntWrite .., he | .salcfgWrite .., he | .vfctlWrite .., he
  | .cxlwinWrite .., he | .registerWrite .., he | .csrWindowStore .., he | .hostQueueWrite .., he
  | .functionLevelReset .., he | .attestationRequest .., he | .linkLaneFailure .., he | .powerLimit, he
  | .coolingFailure, he | .nowForwardStep .., he | .bringUp .., he | .uncorrectableMemoryData .., he
  | .unsupportedRequest .., he =>
    nomatch he

section Checks
variable {s : State} {i : Instr} {w : Word} {c : Cause} {f : Info}

/-- A check of the word that fails is the trap, with the word (R144, R385). -/
theorem exec_decodeChecks (hlive : has s.threads s.cur = true) (he : encode i = .native w)
    (hc : s.decodeChecks i.info = some c) : exec i s = .next (s.trapNow (.of c i.word)) := by
  obtain ⟨body, hx⟩ := exec_native s i he
  simp only [hx, native, hlive, State.issue, hc, if_true]

/-! ### The checks of privilege, one case each (R142, R143, R326) -/

theorem decodeChecks_control (hcc : s.th.cc = true) (hf : f.cc = false) : s.decodeChecks f = some .illegalOp := by
  simp [State.decodeChecks, hcc, hf]

theorem decodeChecks_user (hcc : s.th.cc = false) (hsup : s.th.sup = false) (hf : 1 ≤ f.priv) :
    s.decodeChecks f = some .priv := by
  simp [State.decodeChecks, hcc, hsup, hf]

theorem decodeChecks_child (hcc : s.th.cc = false) (hroot : s.th.asid ≠ 0) (hf : 2 ≤ f.priv) :
    s.decodeChecks f = some .priv := by
  simp [State.decodeChecks, hcc, hroot, hf]

/-- A number that no register has is illegal where the state may name it. -/
theorem decodeChecks_illegal (hcc : s.th.cc = false) (hsup : 1 ≤ f.priv → s.th.sup = true)
    (hroot : 2 ≤ f.priv → s.th.asid = 0) (hf : f.illegal = true) : s.decodeChecks f = some .illegalOp := by
  have hpriv : ((decide (1 ≤ f.priv) && !s.th.sup) || (decide (2 ≤ f.priv) && s.th.asid != 0)) = false := by
    simpa [imp_iff_not_or] using And.intro hsup hroot
  simp [State.decodeChecks, hcc, hpriv, hf]

end Checks

/-! ### The privilege of a control-register number (R326) -/

theorem one_le_crPriv (n : BitVec 12) : 1 ≤ crPriv n ↔ 256 ≤ n.toNat := by
  unfold crPriv
  split
  · omega
  · split <;> omega

theorem two_le_crPriv (n : BitVec 12) : 2 ≤ crPriv n ↔ 0x400 ≤ n.toNat := by
  unfold crPriv
  split
  · omega
  · split <;> omega

/-! ### The instructions of groups 0xD and 0xE -/

/-- The two functions that name a control register (R340). -/
def registerOps (h : Hdr) (d a : Opnd) (crn : BitVec 12) (r : MR) : List Instr := [.mfcr h d crn r, .mtcr h d a crn r]

/-- Every other function of group 0xD, and group 0xE (R142). -/
def supervisorOps (h : Hdr) (d a b : Opnd) (m : MD) : List Instr :=
  [.eret h m, .tsave h d a b m, .tload h d a b m, .tswap h d a b m, .repart h d a m, .tlbinv h d a b m, .cacheop h d a b m,
    .sigpost h d a b m, .ctxnew h d a, .ctxgrant h d a b, .ctxrevoke h d a b, .ctxrun h d a, .ctxstop h d a, .ctxevt h d a b,
    .ctxreset h d a b, .ctxfree h d a, .ctxstat h d a b]

/-- A native instruction that no control core has, with the state that it needs (R142, R143). -/
structure Privileged (p : Nat) (i : Instr) : Prop where
  word : ∃ w, encode i = .native w
  cc : i.info.cc = false
  priv : i.info.priv = p

theorem supervisorOps_privileged (h : Hdr) (d a b : Opnd) (m : MD) : ∀ i ∈ supervisorOps h d a b m, Privileged 1 i := by
  simp only [supervisorOps, List.forall_mem_cons, List.not_mem_nil, false_imp_iff, implies_true, and_true]
  and_intros <;> exact ⟨⟨_, rfl⟩, rfl, rfl⟩

theorem registerOps_privileged (h : Hdr) (d a : Opnd) (crn : BitVec 12) (r : MR) :
    ∀ i ∈ registerOps h d a crn r, Privileged (crPriv crn) i ∧ i.info.illegal = !crKnown crn := by
  simp only [registerOps, List.forall_mem_cons]
  exact ⟨⟨⟨⟨_, rfl⟩, rfl, rfl⟩, rfl⟩, ⟨⟨⟨_, rfl⟩, rfl, rfl⟩, rfl⟩, List.forall_mem_nil _⟩

section Traps
variable {s : State} {i : Instr} {p : Nat} {c : Cause} (hi : Privileged p i) (hlive : has s.threads s.cur = true)
include hi hlive

theorem Privileged.traps (hc : s.decodeChecks i.info = some c) : exec i s = .next (s.trapNow (.of c i.word)) := by
  obtain ⟨w, he⟩ := hi.word
  exact exec_decodeChecks hlive he hc

theorem Privileged.control_traps (hcc : s.th.cc = true) : exec i s = .next (s.trapNow (.of .illegalOp i.word)) :=
  hi.traps hlive (decodeChecks_control hcc hi.cc)

theorem Privileged.user_traps (hcc : s.th.cc = false) (hsup : s.th.sup = false) (hp : 1 ≤ p) :
    exec i s = .next (s.trapNow (.of .priv i.word)) :=
  hi.traps hlive (decodeChecks_user hcc hsup (hi.priv ▸ hp))

theorem Privileged.child_traps (hcc : s.th.cc = false) (hroot : s.th.asid ≠ 0) (hp : 2 ≤ p) :
    exec i s = .next (s.trapNow (.of .priv i.word)) :=
  hi.traps hlive (decodeChecks_child hcc hroot (hi.priv ▸ hp))

theorem Privileged.unknown_traps (hcc : s.th.cc = false) (hsup : 1 ≤ p → s.th.sup = true)
    (hroot : 2 ≤ p → s.th.asid = 0) (hill : i.info.illegal = true) : exec i s = .next (s.trapNow (.of .illegalOp i.word)) :=
  hi.traps hlive (decodeChecks_illegal hcc (hi.priv ▸ hsup) (hi.priv ▸ hroot) hill)

end Traps

/-- Settles O44: which check of a word fails first decides the trap, by the privilege that the function or the number of its
register needs. -/
theorem privilege : Obligations.Privilege := by
  unfold Obligations.Privilege
  intro s h d a b crn r m regs others raises hlive
  have hregs := registerOps_privileged h d a crn r
  have hothers := supervisorOps_privileged h d a b m
  refine ⟨fun hcc hsup => ⟨?supervisorOnly, ?registers⟩, ?rootOnly, ?controlCore, ?unknown⟩
  case supervisorOnly => exact fun i hi => (hothers i hi).user_traps hlive hcc hsup le_rfl
  case registers =>
    exact fun hn i hi => (hregs i hi).1.user_traps hlive hcc hsup ((one_le_crPriv crn).mpr hn)
  case rootOnly =>
    exact fun hcc hroot hn i hi => (hregs i hi).1.child_traps hlive hcc hroot ((two_le_crPriv crn).mpr hn)
  case controlCore =>
    intro hcc i hi
    rcases List.mem_append.mp hi with hi | hi
    · exact (hregs i hi).1.control_traps hlive hcc
    · exact (hothers i hi).control_traps hlive hcc
  case unknown =>
    intro hcc hsup hroot hn i hi
    obtain ⟨hpriv, hill⟩ := hregs i hi
    rw [hn] at hill
    refine hpriv.unknown_traps hlive hcc (fun hp => hsup.resolve_right ?_) (fun hp => hroot.resolve_right ?_) hill
    · exact Nat.not_lt.mpr ((one_le_crPriv crn).mp hp)
    · exact Nat.not_lt.mpr ((two_le_crPriv crn).mp hp)

/-! ### A false guard (R131) -/

/-- A thread with other words in its fetch buffer and another park. -/
def Thread.ended (t : Thread) (buf : List (Word × Word)) (kept : List Word) (p : Park) (since : Word) : Thread :=
  { t with buf := buf, trace := [], kept := kept, held := none, park := p, parkedAt := since }

/-- What `finish` makes of a thread where no modifier fell back: a switch marker parks it while a result is outstanding
(R24), and so does a seventeenth result (R23). -/
def Thread.finished (t : Thread) (pc now : Word) (sw : Bool) : Thread :=
  let q := t.ended (t.buf.filter fun b => b.1 != pc) [] t.park t.parkedAt
  if sw && !t.outst.isEmpty then
    match t.park with
    | .barrier _ _ => { q with kept := [1], buf := [] }
    | _ => { q with park := .switch, parkedAt := now, buf := [] }
  else if t.park = .run ∧ 16 < t.outst.length then { q with park := .limit, parkedAt := now }
  else q

theorem finish_eq {s : State} (hlive : has s.threads s.cur = true) (pc : Word) (sw : Bool) :
    s.finish pc sw false = { s.setTh (s.th.finished pc s.now sw) with free := s.free + 1 } :=
  onThread_live { s with free := s.free + 1 } s.cur _ hlive

theorem finished_ended (t : Thread) (pc now : Word) (sw : Bool) :
    ∃ b k p a, t.finished pc now sw = t.ended b k p a ∧
      (sw = false → t.park = .run → t.outst.length ≤ 16 → p = .run) := by
  unfold Thread.finished
  dsimp only
  split
  · next hmarked =>
    have hsw : sw = true := (Bool.and_eq_true_iff.mp hmarked).1
    split <;> exact ⟨_, _, _, _, rfl, fun h => absurd hsw (by simp [h])⟩
  · split
    · next hlimit => exact ⟨_, _, _, _, rfl, fun _ _ hroom => absurd hlimit.2 (Nat.not_lt.mpr hroom)⟩
    · exact ⟨_, _, _, _, rfl, fun _ hrun _ => hrun⟩

/-- The state with other counted events and names given. -/
def State.recounted (s : State) (c : List Count) (n : Nat) : State := { s with counts := c, next := n }

theorem counted_eq (s : State) (cc : Bool) (asid : Nat) : ∃ c n, s.counted cc asid = s.recounted c n := by
  cases cc with
  | false => exact ⟨_, _, rfl⟩
  | true => exact ⟨s.counts, s.next, rfl⟩

/-- Where an instruction only passes, no more changes than its thread's pc and park, and what is counted. -/
theorem passed_eq {s : State} (pc : Word) (cc sw : Bool) (asid : Nat) :
    ∃ b k p a c n, (s.past.counted cc asid).finish pc sw false =
        { (s.recounted c n).setTh (s.past.th.ended b k p a) with free := s.free + 1 } ∧
      (sw = false → s.th.park = .run → s.th.outst.length ≤ 16 → p = .run) := by
  obtain ⟨c, n, hc⟩ := counted_eq s.past cc asid
  obtain ⟨b, k, p, a, he, hp⟩ := finished_ended s.past.th pc s.now sw
  have hlive : has (s.past.recounted c n).threads (s.past.recounted c n).cur = true := has_setTh s _
  have hfin : (s.past.recounted c n).finish pc sw false =
      { (s.past.recounted c n).setTh (s.past.th.finished pc s.now sw) with free := s.free + 1 } := finish_eq hlive pc sw
  have hset : (s.past.recounted c n).setTh (s.past.th.ended b k p a) = (s.recounted c n).setTh (s.past.th.ended b k p a) :=
    setTh_setTh (s.recounted c n) _ _
  refine ⟨b, k, p, a, c, n, ?_, by simpa using hp⟩
  rw [hc, hfin, he, hset]

/-- A thread that keeps its registers and its core reads its operands as before. -/
theorem reg_setTh {s : State} {t : Thread} (hx : t.x = s.th.x) (hcore : t.core = s.th.core) (r : Opnd) :
    (s.setTh t).reg r = s.reg r := by
  have ht : (s.setTh t).thread s.cur = t := th_setTh s t
  have hs : s.thread s.cur = s.th := rfl
  simp only [State.reg, State.regOf, setTh_cur, ht, hs, hcore, Thread.getX, hx]
  rfl

/-- Settles O14: at a false guard every native instruction only passes. -/
theorem falseGuard : Obligations.FalseGuard := by
  unfold Obligations.FalseGuard
  intro s i w he h hlive hguard hout hpoison hchecks hheld
  have hexec : exec i s = .next ((s.past.counted s.th.cc s.th.asid).finish s.th.pc h.sw false) := by
    obtain ⟨body, hx⟩ := exec_native s i he
    rw [hx]
    exact native_guard body hlive hchecks hout hpoison hguard (by simp [State.goesOn, hheld])
  refine ⟨hexec, fun t ht => ?_⟩
  obtain ⟨b, k, p, a, c, n, hpass, hpark⟩ := passed_eq (s := s) s.th.pc s.th.cc h.sw s.th.asid
  rw [hexec, hpass, Host.Outcome.next.injEq] at ht
  subst ht
  have hth : ((s.recounted c n).setTh (s.past.th.ended b k p a)).th = Thread.ended { s.th with pc := s.th.pc + 8 } b k p a :=
    (th_setTh _ _).trans (congrArg (Thread.ended · b k p a) (advance_th s 8))
  refine ⟨congrArg (·.pc) hth, ?reg, ?pred, congrArg (·.v) hth, congrArg (·.vshape) hth, congrArg (·.vact) hth,
    congrArg (·.flags) hth, congrArg (·.warn) hth, congrArg (·.link) hth, congrArg (·.spilled) hth,
    congrArg (·.outst) hth, congrArg (·.fences) hth, congrArg (·.tstat) hth, congrArg (·.tpc) hth,
    congrArg (·.tcause) hth, congrArg (·.taddr) hth, congrArg (·.tscr) hth, rfl, rfl, rfl, rfl, rfl, rfl, rfl, rfl,
    ?others, fun hsw hrun hroom => (congrArg (·.park) hth).trans (hpark hsw hrun hroom)⟩
  case reg => exact fun r => reg_setTh (s := s.recounted c n) (t := s.past.th.ended b k p a) (advance_th_x s 8) (advance_th_core s 8) r
  case pred => exact fun r => congrArg (·.getP r.toNat) hth
  case others => exact fun u hu => thread_setThread_ne _ _ hu

end Sys2Proof.Machine
end

section
/-! PROOFS. Groups 0x0 to 0x2 (R149 to R157): the values of the short functions, and what they
leave unchanged. -/

namespace Sys2Proof.Machine

/-! ### What a short instruction and a long one complete with -/

section Ends
variable {i : Instr} {d : Opnd} {s : State}

/-- A short function completes with the value that it computes after the pc has moved on. -/
theorem regOp_completes {f : State → Flagged Word} {r : Flagged Word} (he : exec i s = regOp i d f s) (hf : f s.past = r) :
    Completes i s (s.past.setResult d r) :=
  completes_of_done he fun _ => by rw [hf]

theorem predOp_completes {p : BitVec 3} {f : State → Bool} {b : Bool} (he : exec i s = predOp i p f s) (hf : f s.past = b) :
    Completes i s (s.past.setPred p b) :=
  completes_of_done he fun _ => by rw [hf]

/-- A long function opens its result in its issue turn (R22). -/
theorem longOp_completes {f : State → Flagged Word} {r : Flagged Word} (he : exec i s = longOp i d f s) (hf : f s.past = r) :
    Completes i s (s.past.openOut [.reg d] (.done [.reg d r.1, .flags r.2]) 0) :=
  completes_of_done he fun _ => by rw [hf]; rfl

end Ends

/-! ### The bitwise functions and the shifts (R149, R151) -/

/-- A shift count is a register mod 64. -/
theorem count_eq_and (y : Word) : y.toNat % 64 = (y &&& 63).toNat := by
  rw [BitVec.toNat_and]
  exact (Nat.and_two_pow_sub_one_eq_mod y.toNat 6).symm

theorem count_lt (y : Word) : (y &&& 63).toNat < 64 := by
  rw [← count_eq_and]
  omega

/-- A rotation to the left joins what two shifts leave. -/
theorem rotateLeft_eq (x : Word) {c : Nat} (hc : c < 64) : x.rotateLeft c = (x <<< c) ||| (x >>> (64 - c)) := by
  rw [BitVec.rotateLeft_def, Nat.mod_eq_of_lt hc]

/-- Settles O10: each function by the register values that it combines; a count mod 64 is a mask. -/
theorem logicShift : Obligations.LogicShift := by
  unfold Obligations.LogicShift
  intro s h d a b m x y c
  have hc : (s.reg b).toNat % 64 = c := count_eq_and y
  refine ⟨regOp_completes rfl ?and, regOp_completes rfl ?or, regOp_completes rfl ?xor, regOp_completes rfl ?andn,
    regOp_completes rfl ?shl, regOp_completes rfl ?shr, regOp_completes rfl ?sra, regOp_completes rfl ?rot⟩ <;>
    simp only [past_reg]
  case and | or | xor | andn => rfl
  case shl => rw [hc]; rfl
  case shr => rw [hc]; rfl
  case sra => rw [hc]; cases m.u <;> rfl
  case rot => rw [hc]; exact congrArg (·, 0) (rotateLeft_eq x (count_lt y))

/-! ### Division (R150) -/

theorem divWord_eq (u : Bool) (x y : Word) :
    divWord u x y = if y = 0 then (0xFFFFFFFFFFFFFFFF, fDZ) else (if u then x.udiv y else x.sdiv y, 0) := by
  have hs : BitVec.ofInt 64 (x.toInt.tdiv y.toInt) = x.sdiv y :=
    BitVec.eq_of_toInt_eq (by rw [BitVec.toInt_ofInt, BitVec.toInt_sdiv])
  have hu : BitVec.ofNat 64 (x.toNat / y.toNat) = x.udiv y :=
    BitVec.eq_of_toNat_eq (by
      rw [BitVec.toNat_ofNat, Nat.mod_eq_of_lt (Nat.lt_of_le_of_lt (Nat.div_le_self _ _) x.isLt)]
      exact BitVec.toNat_udiv.symm)
  cases u
  · simp only [divWord, hs, Bool.false_eq_true, if_false]
  · simp only [divWord, hu, if_true]

theorem remWord_eq (u : Bool) (x y : Word) :
    remWord u x y = if y = 0 then (x, fDZ) else (if u then x.umod y else x.srem y, 0) := by
  have hs : BitVec.ofInt 64 (x.toInt.tmod y.toInt) = x.srem y := by
    rw [← BitVec.toInt_srem, BitVec.ofInt_toInt]
  have hu : BitVec.ofNat 64 (x.toNat % y.toNat) = x.umod y :=
    BitVec.eq_of_toNat_eq (by
      rw [BitVec.toNat_ofNat, Nat.mod_eq_of_lt (Nat.lt_of_le_of_lt (Nat.mod_le _ _) x.isLt)]
      exact BitVec.toNat_umod.symm)
  cases u
  · simp only [remWord, hs, Bool.false_eq_true, if_false]
  · simp only [remWord, hu, if_true]

/-- Settles O9: the exact quotient and remainder toward zero are those of the machine's words; that of -2^63 by -1 wraps. -/
theorem divRem : Obligations.DivRem := by
  unfold Obligations.DivRem
  intro s h d a b m x y
  refine ⟨regOp_completes rfl ?div, regOp_completes rfl ?rem⟩
  case div => simp only [past_reg]; exact divWord_eq m.u x y
  case rem => simp only [past_reg]; exact remWord_eq m.u x y

/-! ### Sums, products, and the order of words (R149, R152) -/

/-- The exact signed result with .sat (R66), and without it what wraps. -/
theorem satWord_eq (sat : Bool) (v : Int) :
    satWord sat v = if sat then
        if 2 ^ 63 - 1 < v then (0x7FFFFFFFFFFFFFFF, fSAT)
        else if v < -2 ^ 63 then (0x8000000000000000, fSAT)
        else (BitVec.ofInt 64 v, 0)
      else (BitVec.ofInt 64 v, 0) := by
  unfold satWord clamp
  split
  · split
    · rfl
    · split <;> rfl
  · rfl

/-- Where the exact difference is not clamped, it wraps. -/
theorem ofInt_sub_toInt (x y : Word) : BitVec.ofInt 64 (x.toInt - y.toInt) = x - y := by
  rw [Int.sub_eq_add_neg, BitVec.ofInt_add, BitVec.ofInt_neg, BitVec.ofInt_toInt, BitVec.ofInt_toInt, BitVec.sub_eq_add_neg]

/-- Bits 127:64 of a product that is exact in 128 bits. -/
theorem highWord_unsigned (x y : Word) :
    word (x.toNat * y.toNat / 2 ^ 64) = (x.setWidth 128 * y.setWidth 128).extractLsb' 64 64 := by
  have hlt : x.toNat * y.toNat < 2 ^ 64 * 2 ^ 64 := Nat.mul_lt_mul'' x.isLt y.isLt
  refine BitVec.eq_of_toNat_eq ?_
  rw [word, BitVec.toNat_ofNat, BitVec.extractLsb'_toNat, BitVec.toNat_mul, BitVec.toNat_setWidth_of_le (by decide),
    BitVec.toNat_setWidth_of_le (by decide), Nat.shiftRight_eq_div_pow]
  omega

theorem highWord_signed (x y : Word) :
    BitVec.ofInt 64 (x.toInt * y.toInt / 2 ^ 64) = (x.signExtend 128 * y.signExtend 128).extractLsb' 64 64 := by
  have hprod : x.signExtend 128 * y.signExtend 128 = BitVec.ofInt 128 (x.toInt * y.toInt) := by
    rw [BitVec.ofInt_mul]; rfl
  rw [hprod]
  generalize x.toInt * y.toInt = v
  refine BitVec.eq_of_toNat_eq ?_
  rw [BitVec.extractLsb'_toNat, BitVec.toNat_ofInt, BitVec.toNat_ofInt, Nat.shiftRight_eq_div_pow]
  omega

theorem abs_eq (x : Word) : (if x.toInt < 0 then 0 - x else x) = if x.msb then -x else x := by
  have hneg : 0 - x = -x := BitVec.zero_sub x
  simp only [hneg, BitVec.msb_eq_toInt, decide_eq_true_eq]

/-! ### Counts of bits, bytes and fields (R149, R152) -/

/-- Places before the first at which `p` holds, 64 if there is none. -/
theorem firstPlace_spec (p : Nat → Bool) :
    let n := ((List.range 64).find? p).getD 64
    n ≤ 64 ∧ (∀ i < n, p i = false) ∧ (n < 64 → p n = true) := by
  intro n
  cases hf : (List.range 64).find? p with
  | none =>
    have hn : n = 64 := by simp only [n, hf, Option.getD_none]
    have hall := List.find?_range_eq_none.mp hf
    exact ⟨hn.le, fun i hi => by simpa using hall i (hn ▸ hi), fun h => absurd hn h.ne⟩
  | some k =>
    have hn : n = k := by simp only [n, hf, Option.getD_some]
    obtain ⟨hp, hk, hall⟩ := List.find?_range_eq_some.mp hf
    rw [hn]
    exact ⟨(List.mem_range.mp hk).le, fun i hi => by simpa using hall i hi, fun _ => hp⟩

theorem popcount_eq (x : Word) : popcount x = (List.range 64).countP fun i => x.getLsbD i :=
  List.countP_eq_length_filter.symm

theorem toNat_append_byte {n : Nat} (x : BitVec n) (b : BitVec 8) : (x ++ b).toNat = b.toNat + 256 * x.toNat := by
  rw [BitVec.toNat_append, ← Nat.shiftLeft_add_eq_or_of_lt b.isLt, Nat.shiftLeft_eq]
  omega

/-- A byte of a number that is a word's. -/
theorem byteOf_eq (x : Word) (k : Nat) : BitVec.ofNat 8 (x.toNat / 2 ^ k) = x.extractLsb' k 8 :=
  BitVec.eq_of_toNat_eq (by rw [BitVec.toNat_ofNat, BitVec.extractLsb'_toNat, Nat.shiftRight_eq_div_pow])

theorem toBytes_word (x : Word) : toBytes 8 x.toNat = [x.extractLsb' 0 8, x.extractLsb' 8 8, x.extractLsb' 16 8,
    x.extractLsb' 24 8, x.extractLsb' 32 8, x.extractLsb' 40 8, x.extractLsb' 48 8, x.extractLsb' 56 8] := by
  simp only [← byteOf_eq, toBytes, Nat.div_div_eq_div_mul]
  norm_num

/-- A word of eight bytes, the first of the list the least significant. -/
theorem word_fromBytes (b0 b1 b2 b3 b4 b5 b6 b7 : Byte) :
    word (fromBytes [b0, b1, b2, b3, b4, b5, b6, b7]) = b7 ++ b6 ++ b5 ++ b4 ++ b3 ++ b2 ++ b1 ++ b0 := by
  refine BitVec.eq_of_toNat_eq ?_
  simp only [word, fromBytes, toNat_append_byte, BitVec.toNat_ofNat]
  omega

/-- Byte i of the result is byte 7 - i of the operand. -/
theorem bswap_eq (x : Word) : word (fromBytes (toBytes 8 x.toNat).reverse) =
    x.extractLsb' 0 8 ++ x.extractLsb' 8 8 ++ x.extractLsb' 16 8 ++ x.extractLsb' 24 8 ++
      x.extractLsb' 32 8 ++ x.extractLsb' 40 8 ++ x.extractLsb' 48 8 ++ x.extractLsb' 56 8 := by
  rw [toBytes_word]
  exact word_fromBytes ..

/-- Settles O8: each function by the lemma on the words that it combines. -/
theorem integerFunctions : Obligations.IntegerFunctions := by
  unfold Obligations.IntegerFunctions
  refine ⟨fun s h d a b m => ?products, fun s h d a b m => ?choices, fun s h d a m => ?fields, fun x => ?counts⟩
  case products =>
    intro x y sat
    have hsat {v : Int} {w : Word} (hv : BitVec.ofInt 64 v = w) : satWord m.sat v = if m.sat then sat v else (w, 0) := by
      rw [satWord_eq, ← hv]
    refine ⟨regOp_completes rfl ?add, regOp_completes rfl ?sub, regOp_completes rfl ?mul, regOp_completes rfl ?mulh⟩ <;>
      simp only [past_reg]
    case add => exact hsat (by rw [BitVec.ofInt_add, BitVec.ofInt_toInt, BitVec.ofInt_toInt])
    case sub => exact hsat (ofInt_sub_toInt x y)
    case mul => exact hsat (by rw [BitVec.ofInt_mul, BitVec.ofInt_toInt, BitVec.ofInt_toInt])
    case mulh => rw [highWord_unsigned, highWord_signed]
  case choices =>
    intro x y le
    refine ⟨regOp_completes rfl ?min, regOp_completes rfl ?max, regOp_completes rfl ?sel, regOp_completes rfl ?mov,
      regOp_completes rfl ?abs⟩ <;> simp only [past_reg]
    case min => rfl
    case max => rfl
    case sel => rw [past_eq, advance_pred]
    case mov => rfl
    case abs => rw [abs_eq]
  case fields =>
    intro x n p
    refine ⟨regOp_completes rfl ?clz, regOp_completes rfl ?ctz, regOp_completes rfl ?popc, regOp_completes rfl ?bswap,
      regOp_completes rfl ?ext, regOp_completes rfl ?ins⟩ <;> simp only [past_reg]
    case clz => rfl
    case ctz => rfl
    case popc => rw [popcount_eq]; rfl
    case bswap => rw [bswap_eq]
    case ext => rfl
    case ins => rfl
  case counts =>
    obtain ⟨hl, hl0, hl1⟩ := firstPlace_spec fun i => x.getLsbD (63 - i)
    obtain ⟨ht, ht0, ht1⟩ := firstPlace_spec fun i => x.getLsbD i
    exact ⟨hl, hl0, hl1, ht, ht0, ht1⟩


/-! ### Immediates (R153) -/

theorem movh_eq (x : Word) (imm : BitVec 35) :
    word (x.toNat % 2 ^ 35 + imm.toNat * 2 ^ 35) = (x &&& 0x7FFFFFFFF) + (imm.setWidth 64 <<< 35) := by
  have hlow : (x &&& ((0x7FFFFFFFF : Nat) : Word)).toNat = x.toNat % 2 ^ 35 := by
    rw [BitVec.toNat_and]
    exact Nat.and_two_pow_sub_one_eq_mod x.toNat 35
  refine BitVec.eq_of_toNat_eq ?_
  rw [word, BitVec.toNat_ofNat, BitVec.toNat_add, hlow, BitVec.toNat_shiftLeft, BitVec.toNat_setWidth_of_le (by decide),
    Nat.shiftLeft_eq]
  omega

/-- A shift count of an immediate function is its field mod 64. -/
theorem count35_eq_and (imm : BitVec 35) : imm.toNat % 64 = (imm &&& 63).toNat := by
  rw [BitVec.toNat_and]
  exact (Nat.and_two_pow_sub_one_eq_mod imm.toNat 6).symm

/-- `movh` reserves the bits of its immediate that would leave the word. -/
theorem movh_wf (h : Hdr) (d : Opnd) (imm : BitVec 35) : (Instr.movh h d imm).wf = true ↔ imm.toNat < 2 ^ 29 :=
  decide_eq_true_iff

/-- Settles O11: each function by the register value and the extended immediate that it combines. -/
theorem immediates : Obligations.Immediates := by
  unfold Obligations.Immediates
  intro s h d a imm x i c
  have hc : imm.toNat % 64 = c := count35_eq_and imm
  refine ⟨regOp_completes rfl ?addi, regOp_completes rfl ?andi, regOp_completes rfl ?ori, regOp_completes rfl ?xori,
    regOp_completes rfl ?shli, regOp_completes rfl ?shri, regOp_completes rfl ?srai, regOp_completes rfl rfl,
    regOp_completes rfl ?movh, regOp_completes rfl ?muli, rfl, movh_wf h d imm⟩ <;> simp only [past_reg]
  case addi => rfl
  case andi => rfl
  case ori => rfl
  case xori => rfl
  case shli => rw [hc]; rfl
  case shri => rw [hc]; rfl
  case srai => rw [hc]; rfl
  case movh => rw [movh_eq]
  case muli => rfl

/-! ### FP32 on scalar registers (R154, R155) -/

theorem past_mode (s : State) (r : BitVec 3) : s.past.mode r = s.mode r := advance_mode s 8 r

/-- Settles O12: each function by the operands and the mode that it takes; `fdiv` and `fsqrt` open their result (R22). -/
theorem scalarFloat : Obligations.ScalarFloat := by
  unfold Obligations.ScalarFloat
  intro s h d a b m mode x y out
  refine ⟨regOp_completes rfl ?fadd, regOp_completes rfl ?fsub, regOp_completes rfl ?fmul, regOp_completes rfl ?ffma,
    regOp_completes rfl ?fmin, regOp_completes rfl ?fmax, regOp_completes rfl ?fcvt, longOp_completes rfl ?fdiv,
    longOp_completes rfl ?fsqrt⟩ <;> simp only [past_reg, past_mode]
  case fadd | fsub | fmul | ffma | fcvt | fdiv | fsqrt => rfl

/-! ### Compares and predicates (R138, R156, R157) -/

theorem past_pred (s : State) (p : BitVec 3) : s.past.pred p = s.pred p := advance_pred s 8 p

/-- Each condition of R138 as a comparison of words. -/
theorem condWord_table (x y : Word) :
    condWord 0 x y = (x == y) ∧ condWord 1 x y = (x != y) ∧ condWord 2 x y = x.slt y ∧ condWord 3 x y = x.sle y ∧
    condWord 4 x y = y.slt x ∧ condWord 5 x y = y.sle x ∧ condWord 6 x y = x.ult y ∧ condWord 7 x y = x.ule y ∧
    condWord 8 x y = y.ult x ∧ condWord 9 x y = y.ule x := by
  have heq : (x == y) = decide (x.toNat = y.toNat) := by
    rw [beq_eq_decide, decide_eq_decide, BitVec.toNat_inj]
  refine ⟨heq.symm, ?ne, rfl, rfl, rfl, rfl, rfl, rfl, rfl, rfl⟩
  case ne =>
    show decide (¬x.toNat = y.toNat) = !(x == y)
    rw [decide_not, heq]

/-- Settles O13: compares by the registers that they read, predicate functions by the predicates. -/
theorem predicates : Obligations.Predicates := by
  unfold Obligations.Predicates
  refine ⟨fun s h cond pd pa pb qd a b imm => ?functions, condWord_table⟩
  refine ⟨predOp_completes rfl ?cmp, predOp_completes rfl ?cmpi, predOp_completes rfl ?fcmp, predOp_completes rfl ?pand,
    predOp_completes rfl ?por, predOp_completes rfl ?pxor, predOp_completes rfl ?pnot, predOp_completes rfl ?pmov,
    ?fall⟩
  case fall =>
    simp only [List.forall_mem_cons, List.not_mem_nil, false_imp_iff, implies_true, and_true]
    exact ⟨rfl, rfl, rfl, rfl, rfl⟩
  case cmp => rw [past_reg, past_reg]
  case cmpi => rw [past_reg]; rfl
  case fcmp => rw [past_reg, past_reg]
  case pand => rw [past_pred, past_pred]
  case por => rw [past_pred, past_pred]
  case pxor => rw [past_pred, past_pred]
  case pnot => rw [past_pred]
  case pmov => rw [past_pred]


/-! ### What a short function leaves as it was (R149 to R157, R222) -/

/-- What a thread keeps while a short function writes its registers, its predicates, FLAGS and WARN. -/
structure Thread.Keeps (t u : Thread) : Prop where
  place : u.place = t.place
  v : u.v = t.v
  vshape : u.vshape = t.vshape
  vact : u.vact = t.vact
  link : u.link = t.link
  spilled : u.spilled = t.spilled
  outst : u.outst = t.outst
  fences : u.fences = t.fences
  tstat : u.tstat = t.tstat
  tpc : u.tpc = t.tpc
  tcause : u.tcause = t.tcause
  taddr : u.taddr = t.taddr
  tscr : u.tscr = t.tscr

/-- What the state keeps while the thread that issues writes destination `d` alone. -/
structure State.Keeps (s : State) (d : Dst) (t : State) : Prop where
  cur : t.cur = s.cur
  thread : s.th.Keeps t.th
  reg : ∀ r, Dst.reg r ≠ d → t.reg r = s.reg r
  pred : ∀ p, Dst.pred p ≠ d → t.pred p = s.pred p
  shared : ∀ n, n < 64 → Dst.reg ⟨true, BitVec.ofNat 6 n⟩ ≠ d → (t.core s.th.core).getY n = (s.core s.th.core).getY n
  otherCores : ∀ c, c ≠ s.th.core → t.core c = s.core c
  units : ∀ k, (t.core k).slots = (s.core k).slots ∧ (t.core k).tiles = (s.core k).tiles ∧
    (t.core k).scales = (s.core k).scales ∧ (t.core k).step = (s.core k).step
  others : ∀ u, u ≠ s.cur → t.thread u = s.thread u
  mem : t.mem = s.mem
  empty : t.empty = s.empty
  accs : t.accs = s.accs
  ctxs : t.ctxs = s.ctxs
  barriers : t.barriers = s.barriers
  resv : t.resv = s.resv
  now : t.now = s.now

section Keeps
variable {s t q : State} {d : Dst}

theorem Thread.Keeps.trans {a b c : Thread} (h : a.Keeps b) (k : b.Keeps c) : a.Keeps c :=
  ⟨k.place.trans h.place, k.v.trans h.v, k.vshape.trans h.vshape, k.vact.trans h.vact, k.link.trans h.link,
    k.spilled.trans h.spilled, k.outst.trans h.outst, k.fences.trans h.fences, k.tstat.trans h.tstat, k.tpc.trans h.tpc,
    k.tcause.trans h.tcause, k.taddr.trans h.taddr, k.tscr.trans h.tscr⟩

theorem Thread.Keeps.refl (a : Thread) : a.Keeps a := ⟨rfl, rfl, rfl, rfl, rfl, rfl, rfl, rfl, rfl, rfl, rfl, rfl, rfl⟩

theorem Thread.Keeps.core {a b : Thread} (h : a.Keeps b) : b.core = a.core := by
  rw [Thread.core, Thread.core, h.place]

theorem State.Keeps.trans (h : s.Keeps d t) (k : t.Keeps d q) : s.Keeps d q where
  cur := k.cur.trans h.cur
  thread := h.thread.trans k.thread
  reg r hr := (k.reg r hr).trans (h.reg r hr)
  pred p hp := (k.pred p hp).trans (h.pred p hp)
  shared n hn hd := (h.thread.core ▸ k.shared n hn hd).trans (h.shared n hn hd)
  otherCores c hc := (k.otherCores c (h.thread.core ▸ hc)).trans (h.otherCores c hc)
  units c := by
    obtain ⟨hslots, htiles, hscales, hstep⟩ := h.units c
    obtain ⟨kslots, ktiles, kscales, kstep⟩ := k.units c
    exact ⟨kslots.trans hslots, ktiles.trans htiles, kscales.trans hscales, kstep.trans hstep⟩
  others u hu := (k.others u (h.cur ▸ hu)).trans (h.others u hu)
  mem := k.mem.trans h.mem
  empty := k.empty.trans h.empty
  accs := k.accs.trans h.accs
  ctxs := k.ctxs.trans h.ctxs
  barriers := k.barriers.trans h.barriers
  resv := k.resv.trans h.resv
  now := k.now.trans h.now

/-- A change of the thread that issues. -/
theorem keeps_setTh {u : Thread} (hk : s.th.Keeps u) (hr : ∀ r, Dst.reg r ≠ d → (s.setTh u).reg r = s.reg r)
    (hp : ∀ p : BitVec 3, Dst.pred p ≠ d → u.getP p.toNat = s.th.getP p.toNat) : s.Keeps d (s.setTh u) where
  cur := rfl
  thread := (th_setTh s u).symm ▸ hk
  reg := hr
  pred p hd := (congrArg (·.getP p.toNat) (th_setTh s u)).trans (hp p hd)
  shared _ _ _ := rfl
  otherCores _ _ := rfl
  units _ := ⟨rfl, rfl, rfl, rfl⟩
  others _ hu := thread_setThread_ne s u hu
  mem := rfl
  empty := rfl
  accs := rfl
  ctxs := rfl
  barriers := rfl
  resv := rfl
  now := rfl

/-- A change that leaves registers and predicates alone. -/
theorem keeps_setTh_same {u : Thread} (hk : s.th.Keeps u) (hx : u.x = s.th.x) (hp : u.preds = s.th.preds) :
    s.Keeps d (s.setTh u) :=
  keeps_setTh hk (fun r _ => reg_setTh hx hk.core r) fun p _ => by rw [Thread.getP, Thread.getP, hp]

theorem keeps_past : s.Keeps d s.past :=
  keeps_setTh_same ⟨rfl, rfl, rfl, rfl, rfl, rfl, rfl, rfl, rfl, rfl, rfl, rfl, rfl⟩ rfl rfl

theorem keeps_flag (f : Word) : s.Keeps d (s.flag f) :=
  keeps_setTh_same ⟨rfl, rfl, rfl, rfl, rfl, rfl, rfl, rfl, rfl, rfl, rfl, rfl, rfl⟩ rfl rfl

theorem Thread.keeps_setX (t : Thread) (n : Nat) (v : Word) : t.Keeps (t.setX n v) := by
  unfold Thread.setX
  split <;> exact ⟨rfl, rfl, rfl, rfl, rfl, rfl, rfl, rfl, rfl, rfl, rfl, rfl, rfl⟩

theorem Thread.keeps_setP (t : Thread) (n : Nat) (b : Bool) : t.Keeps (t.setP n b) := by
  unfold Thread.setP
  split <;> exact ⟨rfl, rfl, rfl, rfl, rfl, rfl, rfl, rfl, rfl, rfl, rfl, rfl, rfl⟩

theorem Thread.setP_x (t : Thread) (n : Nat) (b : Bool) : (t.setP n b).x = t.x := by
  unfold Thread.setP
  split <;> rfl

theorem Thread.setX_getP (t : Thread) (n : Nat) (v : Word) (p : Nat) : (t.setX n v).getP p = t.getP p := by
  unfold Thread.setX
  split <;> rfl

theorem keeps_setPred (p : BitVec 3) (b : Bool) : s.Keeps (.pred p) (s.setPred p b) :=
  keeps_setTh (s.th.keeps_setP _ b) (fun r _ => reg_setTh (s.th.setP_x _ b) (s.th.keeps_setP _ b).core r) fun _ hq =>
    s.th.getP_setP_ne _ b fun h => hq (congrArg Dst.pred (BitVec.eq_of_toNat_eq h))

/-- Another shared register has another number. -/
theorem shared_ne {r : Opnd} {n : Nat} (hr : r.shared = true) (hn : Dst.reg ⟨true, BitVec.ofNat 6 n⟩ ≠ .reg r) :
    n ≠ r.n.toNat := by
  rintro rfl
  exact hn (by rw [BitVec.ofNat_toNat, BitVec.setWidth_eq, ← hr])

theorem keeps_setReg (hl : has s.threads s.cur = true) (r : Opnd) (v : Word) : s.Keeps (.reg r) (s.setReg r v) := by
  have hreg (a : Opnd) (ha : Dst.reg a ≠ .reg r) : (s.setReg r v).reg a = s.reg a :=
    reg_setReg_ne hl fun e => ha (congrArg Dst.reg e)
  cases hr : r.shared with
  | false =>
    rw [setReg_x hl v hr] at hreg ⊢
    exact keeps_setTh (s.th.keeps_setX _ v) hreg fun p _ => s.th.setX_getP _ v _
  | true =>
    rw [setReg_y s v hr] at hreg ⊢
    have hcore : (s.setCore s.th.core (s.myCore.setY r.n.toNat v)).core s.th.core = s.myCore.setY r.n.toNat v :=
      core_setCore ..
    refine
      { cur := rfl, thread := .refl _, reg := hreg, pred := fun _ _ => rfl, shared := fun n _ hd => ?_,
        otherCores := fun c hc => core_setCore_ne _ _ hc, units := fun k => ?_, others := fun _ _ => rfl, mem := rfl,
        empty := rfl, accs := rfl, ctxs := rfl, barriers := rfl, resv := rfl, now := rfl }
    · rw [hcore, Core.getY_setY_ne _ _ (shared_ne hr hd)]
      rfl
    · by_cases hk : k = s.th.core
      · rw [hk, hcore]
        exact ⟨rfl, rfl, rfl, rfl⟩
      · rw [core_setCore_ne _ _ hk]
        exact ⟨rfl, rfl, rfl, rfl⟩

/-! What the end of an instruction adds: the count of it, the fetch buffer, W_MODFALL and a park (R23, R24, R145). -/

/-- A modifier without a meaning sets W_MODFALL before the word's end does the rest. -/
theorem finish_fallen (hl : has s.threads s.cur = true) (pc : Word) (sw fall : Bool) :
    ∃ w, s.finish pc sw fall = { s.setTh (Thread.finished { s.th with warn := w } pc s.now sw) with free := s.free + 1 } ∧
      (w = s.th.warn ∨ w = s.th.warn ||| wMODFALL) := by
  cases fall
  · exact ⟨_, finish_eq hl pc sw, .inl rfl⟩
  · exact ⟨_, onThread_live { s with free := s.free + 1 } s.cur _ hl, .inr rfl⟩

/-- The end of an instruction whose effect led to `t`, as a change of the thread and of what is counted. -/
theorem ends_eq (s : State) (i : Instr) (hl : has t.threads t.cur = true) :
    ∃ w b k p a c n, s.ends i t =
      { (t.recounted c n).setTh (Thread.ended { t.th with warn := w } b k p a) with free := t.free + 1 } ∧
      (w = t.th.warn ∨ w = t.th.warn ||| wMODFALL) := by
  obtain ⟨c, n, hc⟩ := counted_eq t s.th.cc s.th.asid
  obtain ⟨w, hw, hwarn⟩ := finish_fallen (s := t.recounted c n) hl s.th.pc i.info.hdr.sw i.info.fall
  obtain ⟨b, k, p, a, hf, -⟩ := finished_ended { t.th with warn := w } s.th.pc t.now i.info.hdr.sw
  refine ⟨w, b, k, p, a, c, n, ?_, hwarn⟩
  rw [State.ends, hc, hw]
  exact congrArg (fun u => { (t.recounted c n).setTh u with free := t.free + 1 }) hf

theorem keeps_ends (s : State) (i : Instr) (hl : has t.threads t.cur = true) : t.Keeps d (s.ends i t) := by
  obtain ⟨w, b, k, p, a, c, n, h, -⟩ := ends_eq s i hl
  rw [h]
  have hset : t.Keeps d (t.setTh (Thread.ended { t.th with warn := w } b k p a)) :=
    keeps_setTh_same ⟨rfl, rfl, rfl, rfl, rfl, rfl, rfl, rfl, rfl, rfl, rfl, rfl, rfl⟩ rfl rfl
  exact { hset with }

theorem ends_th (s : State) (i : Instr) (hl : has t.threads t.cur = true) :
    (s.ends i t).th.pc = t.th.pc ∧ (s.ends i t).th.flags = t.th.flags ∧
      ((s.ends i t).th.warn = t.th.warn ∨ (s.ends i t).th.warn = t.th.warn ||| wMODFALL) := by
  obtain ⟨w, b, k, p, a, c, n, h, hwarn⟩ := ends_eq s i hl
  have hth : (s.ends i t).th = Thread.ended { t.th with warn := w } b k p a := (congrArg State.th h).trans (th_setTh _ _)
  rw [hth]
  exact ⟨rfl, rfl, hwarn⟩

/-- The thread goes on to the next word; FLAGS only gains bits, none if a predicate is written; WARN only gains W_MODFALL. -/
structure State.Advances (s : State) (d : Dst) (t : State) : Prop where
  pc : t.th.pc = s.th.pc + 8
  flags : t.th.flags &&& s.th.flags = s.th.flags
  flags_pred : ∀ p, d = .pred p → t.th.flags = s.th.flags
  warn : t.th.warn = s.th.warn ∨ t.th.warn = s.th.warn ||| wMODFALL

theorem Thread.setX_end (t : Thread) (n : Nat) (v : Word) :
    (t.setX n v).pc = t.pc ∧ (t.setX n v).flags = t.flags ∧ (t.setX n v).warn = t.warn := by
  unfold Thread.setX
  split <;> exact ⟨rfl, rfl, rfl⟩

theorem setReg_end (hl : has s.threads s.cur = true) (r : Opnd) (v : Word) :
    (s.setReg r v).th.pc = s.th.pc ∧ (s.setReg r v).th.flags = s.th.flags ∧ (s.setReg r v).th.warn = s.th.warn := by
  cases hr : r.shared with
  | false =>
    rw [setReg_x hl v hr, th_setTh]
    exact s.th.setX_end ..
  | true =>
    rw [setReg_y s v hr]
    exact ⟨rfl, rfl, rfl⟩

theorem Thread.setP_end (t : Thread) (n : Nat) (b : Bool) :
    (t.setP n b).pc = t.pc ∧ (t.setP n b).flags = t.flags ∧ (t.setP n b).warn = t.warn := by
  unfold Thread.setP
  split <;> exact ⟨rfl, rfl, rfl⟩

/-- Bits that are set in addition leave those that were set. -/
theorem or_and_left (x f : Word) : (x ||| f) &&& x = x :=
  BitVec.eq_of_getLsbD_eq fun i _ => by
    rw [BitVec.getLsbD_and, BitVec.getLsbD_or]
    cases x.getLsbD i <;> simp

theorem advances_ends {i : Instr} {f : Word} (hl : has t.threads t.cur = true) (hpc : t.th.pc = s.past.th.pc)
    (hflags : t.th.flags = s.past.th.flags ||| f) (hpred : ∀ p, d = .pred p → f = 0) (hwarn : t.th.warn = s.past.th.warn) :
    s.Advances d (s.ends i t) := by
  obtain ⟨epc, eflags, ewarn⟩ := ends_th s i hl
  rw [hpc, past_eq, advance_th_pc] at epc
  rw [hflags, past_eq, advance_th_flags] at eflags
  rw [hwarn, past_eq, advance_th_warn] at ewarn
  refine ⟨epc, by rw [eflags, or_and_left], fun p hd => ?_, ewarn⟩
  rw [eflags, hpred p hd]
  exact BitVec.or_zero

/-- A short function that writes a register. -/
theorem regOp_frame (i : Instr) (r : Opnd) (v : Flagged Word) :
    let t := s.ends i (s.past.setResult r v)
    s.Keeps (.reg r) t ∧ s.Advances (.reg r) t := by
  have hpast : has s.past.threads s.past.cur = true := has_setTh s _
  have hlive : has (s.past.setResult r v).threads (s.past.setResult r v).cur = true := has_setTh (s.past.setReg r v.1) _
  have hth : (s.past.setResult r v).th = (s.past.setReg r v.1).th.flag v.2 := th_setTh _ _
  obtain ⟨hpc, hflags, hwarn⟩ := setReg_end hpast r v.1
  exact ⟨((keeps_past.trans (keeps_setReg hpast r v.1)).trans (keeps_flag v.2)).trans (keeps_ends s i hlive),
    advances_ends hlive (by rw [hth]; exact hpc) (by rw [hth]; exact congrArg (· ||| v.2) hflags) nofun
      (by rw [hth]; exact hwarn)⟩

/-- A short function that writes a predicate. -/
theorem predOp_frame (i : Instr) (p : BitVec 3) (b : Bool) :
    let t := s.ends i (s.past.setPred p b)
    s.Keeps (.pred p) t ∧ s.Advances (.pred p) t := by
  have hlive : has (s.past.setPred p b).threads (s.past.setPred p b).cur = true := has_setTh s.past _
  have hth : (s.past.setPred p b).th = s.past.th.setP p.toNat b := th_setTh _ _
  obtain ⟨hpc, hflags, hwarn⟩ := s.past.th.setP_end p.toNat b
  exact ⟨(keeps_past.trans (keeps_setPred p b)).trans (keeps_ends s i hlive),
    advances_ends (f := 0) hlive (by rw [hth, hpc]) (by rw [hth, hflags]; exact BitVec.or_zero.symm) (fun _ _ => rfl)
      (by rw [hth, hwarn])⟩

end Keeps

/-- A short register or predicate function writes its one destination and sets FLAGS. -/
theorem scalarDst_cases {i : Instr} {d : Dst} (h : i.scalarDst = some d) (s : State) :
    (∃ r f, d = .reg r ∧ exec i s = regOp i r f s) ∨ ∃ p f, d = .pred p ∧ exec i s = predOp i p f s := by
  cases i
  case add | sub | mul | mulh | div | rem | and | or | xor | andn | shl | shr | sra | rot | min | max | sel | fadd | fsub
      | fmul | ffma | fmin | fmax | clz | ctz | popc | bswap | mov | abs | ext | ins | fcvt | addi | andi | ori | xori | shli
      | shri | srai | muli | movi | movh | time =>
    cases h
    exact .inl ⟨_, _, rfl, rfl⟩
  case cmp | cmpi | fcmp | pand | por | pxor | pnot | pmov =>
    cases h
    exact .inr ⟨_, _, rfl, rfl⟩
  all_goals cases h

theorem scalar_frame {s t : State} {i : Instr} {d : Dst} (hi : i.scalarDst = some d) (hc : s.clear i = true)
    (he : exec i s = .next t) : s.Keeps d t ∧ s.Advances d t := by
  obtain ⟨r, f, rfl, hx⟩ | ⟨p, f, rfl, hx⟩ := scalarDst_cases hi s
  · have h := (regOp_completes hx rfl hc).symm.trans he
    rw [Host.Outcome.next.injEq] at h
    exact h ▸ regOp_frame i r _
  · have h := (predOp_completes hx rfl hc).symm.trans he
    rw [Host.Outcome.next.injEq] at h
    exact h ▸ predOp_frame i p _

/-- Settles O15: the one write of the function, FLAGS and the end of the instruction each keep the rest. -/
theorem scalarFrame : Obligations.ScalarFrame := by
  unfold Obligations.ScalarFrame
  intro s t i d hi hc he
  obtain ⟨k, a⟩ := scalar_frame hi hc he
  exact ⟨a.pc, k.reg, k.pred, k.shared, k.otherCores, k.units, a.flags, a.flags_pred, a.warn, k.thread.v, k.thread.vshape,
    k.thread.vact, k.thread.link, k.thread.spilled, k.thread.outst, k.thread.fences, k.thread.tstat, k.thread.tpc,
    k.thread.tcause, k.thread.taddr, k.thread.tscr, k.others, fun x => by rw [State.byte, k.mem]; rfl,
    fun x => by rw [State.full, k.empty]; rfl, k.accs, k.ctxs, k.barriers, k.resv, k.now⟩

end Sys2Proof.Machine
end

section
/-! PROOFS. Group 0x3 (R158 to R164, R411) and the taking of a trap (R336, R360): branches, calls and returns, traps,
gated service calls and `exit`. -/

namespace Sys2Proof.Machine

/-! ### Branches and `loop` (R159, R162) -/

section Branches
variable {s : State} {h : Hdr} {a : Opnd} {kind : BitVec 2} {off : BitVec 40}

theorem br_completes {c : Prop} [Decidable c] (hc : s.past.brCond a kind = decide c) : Completes (.br h a kind off) s
    (if c then s.past.jumpTo (s.th.pc + off.signExtend 64 * 8) else s.past) :=
  completes_of_done rfl fun _ => by
    rw [hc, past_target]
    simp only [decide_eq_true_eq]

theorem loop_completes : let v := s.past.loopRead a - 1
    Completes (.loop h a kind off) s (if v ≠ 0 then (s.past.setReg a v).jumpTo (s.th.pc + off.signExtend 64 * 8)
      else s.past.setReg a v) :=
  completes_of_done rfl fun _ => by rw [past_target]

/-- `loop` reads what its register holds, or what a shared one held before another slot's result of the same cycle. -/
theorem loopRead_cases (s : State) (a : Opnd) : s.loopRead a = s.reg a ∨
    a.shared = true ∧ ∃ e ∈ s.myCore.yNow, e.1 = a.n.toNat ∧ e.2.1 ≠ s.th.slot ∧ s.loopRead a = e.2.2.2 := by
  cases hs : a.shared with
  | false => exact .inl (by simp only [State.loopRead, hs, Bool.not_false, if_true])
  | true =>
    cases hf : s.myCore.yNow.find? fun e => e.1 == a.n.toNat with
    | none => exact .inl (by simp only [State.loopRead, hs, hf, Bool.not_true, Bool.false_eq_true, if_false])
    | some e =>
      have hread : s.loopRead a = if e.2.1 != s.th.slot && Config.freeBit s.free 9000 then e.2.2.2 else s.reg a := by
        simp only [State.loopRead, hs, hf, Bool.not_true, Bool.false_eq_true, if_false]
      cases hc : e.2.1 != s.th.slot && Config.freeBit s.free 9000 with
      | false => exact .inl (by rw [hread, hc]; rfl)
      | true =>
        refine .inr ⟨rfl, e, List.mem_of_find?_eq_some hf, by simpa using List.find?_some hf, ?_, by rw [hread, hc]; rfl⟩
        simpa using (Bool.and_eq_true_iff.mp hc).1

theorem loopRead_own (ho : a.shared = false ∨ ∀ e ∈ s.myCore.yNow, e.2.1 = s.th.slot) : s.loopRead a = s.reg a := by
  obtain h | ⟨hs, e, he, -, hne, -⟩ := loopRead_cases s a
  · exact h
  · obtain ho | ho := ho
    · simp [hs] at ho
    · exact absurd (ho e he) hne

end Branches

/-! ### Calls and returns while the link store has room (R47, R160, R161) -/

section Links
variable {s : State} {h : Hdr} {a : Opnd} {kind : BitVec 2} {off : BitVec 40} {e : Word} {r : List Word}

theorem jumpTo_setTh (s : State) (u : Thread) (pc : Word) :
    (s.setTh u).jumpTo pc = s.setTh { u with pc := pc, buf := [] } := by
  rw [State.jumpTo, th_setTh, setTh_setTh]

/-- What is left of a control transfer that changes the link store: the pc, the fetch buffer and the entries. -/
def State.transferred (s : State) (pc : Word) (l : List Word) : State :=
  s.past.setTh { s.past.th with pc := pc, buf := [], link := l }

theorem jumpTo_transferred (pc : Word) : s.past.jumpTo pc = s.transferred pc s.th.link := by
  rw [State.transferred, ← advance_th_link s 8]
  rfl

theorem jmp_completes (hal : (s.reg a + off.signExtend 64 * 8).toNat % 8 = 0) :
    Completes (.jmp h a kind off) s (s.transferred (s.reg a + off.signExtend 64 * 8) s.th.link) :=
  completes_of_done rfl fun _ => by
    simp only [State.regTarget, past_reg, hal, ne_eq, not_true_eq_false, if_false, jumpTo_transferred]

theorem jmp_traps (hal : (s.reg a + off.signExtend 64 * 8).toNat % 8 ≠ 0) (hc : s.clear (.jmp h a kind off) = true) :
    exec (.jmp h a kind off) s = .next (s.trapNow (.of .align (s.reg a + off.signExtend 64 * 8))) :=
  traps_of_trap rfl (fun _ => by simp only [State.regTarget, past_reg]; exact if_pos hal) hc

/-- A call with room in the link store pushes the address of the next word and continues at its target. -/
theorem pushLink_room (hl : s.th.link.length < 8) (w pc : Word) :
    s.past.pushLink (linkEntry s.past.th.pc false) w (·.jumpTo pc) =
      .done (s.transferred pc (((s.th.pc + 8) &&& ~~~3) :: s.th.link)) := by
  have hlen : s.past.th.link.length < 8 := by simpa using hl
  rw [State.pushLink, if_pos hlen, jumpTo_setTh, linkEntry_native, past_eq, advance_th_pc, advance_th_link]
  rfl

theorem call_completes (hl : s.th.link.length < 8) : Completes (.call h kind off) s
    (s.transferred (s.th.pc + off.signExtend 64 * 8) (((s.th.pc + 8) &&& ~~~3) :: s.th.link)) :=
  completes_of_done rfl fun _ => by rw [past_target, pushLink_room hl]

theorem callr_completes (hl : s.th.link.length < 8) (hal : (s.reg a + off.signExtend 64 * 8).toNat % 8 = 0) :
    Completes (.callr h a kind off) s
      (s.transferred (s.reg a + off.signExtend 64 * 8) (((s.th.pc + 8) &&& ~~~3) :: s.th.link)) :=
  completes_of_done rfl fun _ => by
    simp only [State.regTarget, past_reg, hal, ne_eq, not_true_eq_false, if_false]
    exact pushLink_room hl ..

theorem callr_traps (hal : (s.reg a + off.signExtend 64 * 8).toNat % 8 ≠ 0) (hc : s.clear (.callr h a kind off) = true) :
    exec (.callr h a kind off) s = .next (s.trapNow (.of .align (s.reg a + off.signExtend 64 * 8))) :=
  traps_of_trap rfl (fun _ => by simp only [State.regTarget, past_reg]; exact if_pos hal) hc

/-- A store with entries gives its newest one. -/
theorem popLink_entry (hl : s.th.link = e :: r) (go : State → Word → Res) :
    s.popLink go = go (s.setTh { s.th with link := r }) e := by
  simp only [State.popLink, hl]

theorem past_popLink (hl : s.th.link = e :: r) :
    s.past.popLink State.followLink = (s.past.setTh { s.past.th with link := r }).followLink e :=
  popLink_entry ((advance_th_link s 8).trans hl) _

theorem ret_native (hl : s.th.link = e :: r) (he : e.getLsbD 0 = false) :
    Completes (.ret h kind) s (s.transferred (e &&& ~~~3) r) :=
  completes_of_done rfl fun _ => by
    rw [past_popLink hl, followLink_native he, jumpTo_setTh]
    rfl

/-- An entry of MODE 1 on a control core resumes Tephra mode. -/
theorem followLink_tephra (he : e.getLsbD 0 = true) (hcc : s.th.cc = true) : s.followLink e =
    .done ((s.jumpTo (e &&& ~~~3)).setTh { (s.jumpTo (e &&& ~~~3)).th with tephra := true }) := by
  simp only [State.followLink, he, hcc, if_true]
  exact congrArg Res.done (onThread_live _ _ _ (has_setTh s _))

theorem followLink_illegal (he : e.getLsbD 0 = true) (hcc : s.th.cc = false) :
    s.followLink e = .trap (.of .illegalOp (e &&& ~~~3)) := by
  simp only [State.followLink, he, hcc, if_true, Bool.false_eq_true, if_false]

theorem popped_cc (s : State) (r : List Word) : (s.past.setTh { s.past.th with link := r }).th.cc = s.th.cc :=
  (congrArg Thread.cc (th_setTh _ _)).trans (advance_th_cc s 8)

theorem ret_tephra (hl : s.th.link = e :: r) (he : e.getLsbD 0 = true) (hcc : s.th.cc = true) :
    let p := s.transferred (e &&& ~~~3) r
    Completes (.ret h kind) s (p.setTh { p.th with tephra := true }) :=
  completes_of_done rfl fun _ => by
    rw [past_popLink hl, followLink_tephra he ((popped_cc s r).trans hcc), jumpTo_setTh]
    rfl

theorem ret_illegal (hl : s.th.link = e :: r) (he : e.getLsbD 0 = true) (hcc : s.th.cc = false)
    (hc : s.clear (.ret h kind) = true) : exec (.ret h kind) s = .next (s.trapNow (.of .illegalOp (e &&& ~~~3))) :=
  traps_of_trap rfl (fun _ => by rw [past_popLink hl, followLink_illegal he ((popped_cc s r).trans hcc)]) hc

theorem ret_underflow (hl : s.th.link = []) (hs : s.th.spilled = 0) (hc : s.clear (.ret h kind) = true) :
    exec (.ret h kind) s = .next (s.trapNow (.of .linkUnf 0)) :=
  traps_of_trap rfl (fun _ => by simp [State.popLink, hl, hs]) hc

end Links

/-- Settles O16: `br` and `loop` by what decides whether they jump; calls by an entry that is pushed, returns by the MODE of the
entry that they pop. -/
theorem controlTransfers : Obligations.ControlTransfers := by
  unfold Obligations.ControlTransfers
  refine ⟨fun s h a kind off => ?branches, fun s h a kind off e r => ?links⟩
  case branches =>
    intro x go
    have hreg : s.past.reg a = x := past_reg s a
    refine ⟨br_completes (c := True) rfl, br_completes ?zero, br_completes ?nonzero, br_completes ?negative, loop_completes,
      fun ho => ?own, fun v hv => ?raced, ?nop⟩
    case zero => rw [← hreg]; rfl
    case nonzero => rw [← hreg, decide_not]; rfl
    case negative => rw [← hreg, BitVec.msb_eq_toInt, Bool.decide_eq_true]; rfl
    case own => exact (loopRead_own (by simpa using ho)).trans hreg
    case raced =>
      obtain hl | ⟨-, e, he, hn, hslot, hl⟩ := loopRead_cases s.past a
      · exact .inl (hv.symm.trans (hl.trans hreg))
      · exact .inr ⟨e, by simpa using he, hn, by simpa using hslot, hv.symm.trans hl⟩
    case nop => exact completes_of_done rfl fun _ => rfl
  case links =>
    exact ⟨jmp_completes, jmp_traps, fun hl => ⟨call_completes hl, callr_completes hl⟩, callr_traps, ret_native, ret_tephra,
      ret_illegal, ret_underflow⟩

/-! ### Traps (R26, R163, R336, R360) -/

section Traps
variable {s : State} {i : Instr} {tr : Trap} {precise : Bool} {pc : Word}

theorem counted_th (s : State) (cc : Bool) (asid : Nat) : (s.counted cc asid).th = s.th := by
  cases cc <;> rfl

theorem counted_drained (s : State) (cc : Bool) (asid : Nat) : (s.counted cc asid).drained s.cur = s.drained s.cur := by
  cases cc <;> rfl

/-- A trap of a drained thread is taken at once. -/
theorem trapNow_drained (hd : s.drained s.cur = true) :
    s.trapNow tr = (s.counted s.th.cc s.th.asid).takeTrap s.cur tr true s.th.pc := by
  have hpc : ((s.counted s.th.cc s.th.asid).thread s.cur).pc = s.th.pc := by cases s.th.cc <;> rfl
  rw [State.trapNow, State.raise, if_pos ((counted_drained s _ _).trans hd), hpc]

/-- Any other waits for the drain (R26). -/
theorem trapNow_undrained (hl : has s.threads s.cur = true) (hd : s.drained s.cur = false) :
    s.trapNow tr = (s.counted s.th.cc s.th.asid).setTh { s.th with park := .trap tr true, parkedAt := s.now } := by
  have hn : ¬(s.counted s.th.cc s.th.asid).drained s.cur = true := by rw [counted_drained, hd]; nofun
  rw [State.trapNow, State.raise, if_neg hn]
  cases s.th.cc <;> exact onThread_live _ _ _ hl

theorem clear_live (hc : s.clear i = true) : has s.threads s.cur = true := (clear_cases hc).1

/-- The handler of the context takes the trap, on a barrel core (R336). -/
theorem takeTrap_local (ht : tr.target = none) (hcc : s.th.cc = false) (hd : bit s.myCtx.deleg tr.cause.code = true)
    (hv : s.myCtx.tvec ≠ 0) (hx : bit s.th.tstat 4 = false) :
    s.takeTrap s.cur tr precise pc = s.setTh { s.th.trapped tr precise pc with pc := s.myCtx.tvec } := by
  have hlocal : s.takesLocally s.cur tr = true := by
    have h : ((s.thread s.cur).exl) = false := hx
    have hdeleg : bit (s.ctx (s.thread s.cur).asid).deleg tr.cause.code = true := hd
    have hvec : (s.ctx (s.thread s.cur).asid).tvec ≠ 0 := hv
    simp only [State.takesLocally, ht, h, hdeleg, bne_iff_ne.mpr hvec, Option.isNone_none, Bool.not_false, Bool.and_true]
  have hbarrel : ¬(s.thread s.cur).cc = true := by rw [show (s.thread s.cur).cc = false from hcc]; nofun
  rw [State.takeTrap, if_pos hlocal, if_neg hbarrel]
  rfl

/-- The trap registers after local entry on a barrel core (R336). -/
theorem trapped_barrel (t : Thread) (hcc : t.cc = false) :
    (t.trapped tr precise pc).tcause = word (tr.cause.code + if precise then 2 ^ 8 else 0) ∧
      (t.trapped tr precise pc).tstat = (t.tstat &&& ~~~0x20) ||| 0x11 ||| (if bit t.tstat 0 then 0x20 else 0) := by
  constructor
  · simp [Thread.trapped, hcc]
  · have hps : word (if bit t.tstat 0 then 2 ^ 5 else 0) = if bit t.tstat 0 then 0x20 else 0 := by
      rw [apply_ite word]
      rfl
    rw [← hps]
    simp only [Thread.trapped, hcc, Bool.false_and, Bool.false_eq_true, if_false, Nat.add_zero]
    rfl

/-- S and EXL are set, PS is what S was, and PMODE and PGUARD stay. -/
theorem entered_tstat (x : Word) (b : Bool) :
    let y := (x &&& ~~~0x20) ||| 0x11 ||| (if b then 0x20 else 0)
    bit y 0 = true ∧ bit y 4 = true ∧ bit y 5 = b ∧ bit y 6 = bit x 6 ∧ bit y 7 = bit x 7 := by
  cases b <;> simp [bit]

/-- A trap that the handler of the context does not take goes to an ancestor with a queue (R360). -/
theorem takeTrap_reflected (hl : has s.threads s.cur = true) (hn : s.takesLocally s.cur tr = false)
    (hq : s.hasQueue (s.reflectTo s.cur tr) = true) :
    s.takeTrap s.cur tr precise pc = State.postEvent ((s.count s.th.asid 0x053).setTh { s.th with
        park := .reflected (s.reflectTo s.cur tr) tr precise, pc := pc, buf := [], kept := [], held := none, trace := [] })
      (s.reflectTo s.cur tr) (s.trapEvent s.cur 1 tr precise pc) := by
  have hq' : ¬(!(s.count s.th.asid 0x053).hasQueue (s.reflectTo s.cur tr)) = true := by
    rw [show (s.count s.th.asid 0x053).hasQueue (s.reflectTo s.cur tr) = true from hq]; nofun
  have hno : ¬s.takesLocally s.cur tr = true := by rw [hn]; nofun
  rw [State.takeTrap, if_neg hno]
  exact (if_neg hq').trans (congrArg (State.postEvent · _ _) (onThread_live (s.count s.th.asid 0x053) s.cur _ hl))

theorem reflectTo_ancestor (ht : tr.target = none) :
    s.reflectTo s.cur tr = ((s.ancestors s.th.asid).find? fun a => bit (s.ctx a).deleg tr.cause.code).getD 0 := by
  simp only [State.reflectTo, ht]
  rfl

end Traps

/-- Settles O18: `trap` and `brk` by whether the thread has drained; a trap that is taken by the context of the thread, or by
an ancestor's. -/
theorem trapsTaken : Obligations.TrapsTaken := by
  unfold Obligations.TrapsTaken
  refine ⟨fun s h kind code => ?raised, fun s tr precise pc ht hcc hd hv hx => ?entered,
    fun s tr precise pc hl hn hq => ?reflected⟩
  case raised =>
    exact ⟨fun hc hd => (native_trap hc rfl).trans (congrArg _ (trapNow_drained hd)),
      fun hc hd => (native_trap hc rfl).trans (congrArg _ (trapNow_drained hd)),
      fun hc hd => (native_trap hc rfl).trans (congrArg _ (trapNow_undrained (clear_live hc) hd)),
      fun hc hd => (native_trap hc rfl).trans (congrArg _ (trapNow_undrained (clear_live hc) hd))⟩
  case entered =>
    intro t
    have ht : t = s.setTh { s.th.trapped tr precise pc with pc := s.myCtx.tvec } := takeTrap_local ht hcc hd hv hx
    have hth : t.th = { s.th.trapped tr precise pc with pc := s.myCtx.tvec } := by rw [ht, th_setTh]
    obtain ⟨hcause, hstat⟩ := trapped_barrel (tr := tr) (precise := precise) (pc := pc) s.th hcc
    obtain ⟨hs, hexl, hps, hmode, hguard⟩ := entered_tstat s.th.tstat (bit s.th.tstat 0)
    rw [← hstat] at hs hexl hps hmode hguard
    rw [hth]
    refine ⟨rfl, rfl, rfl, hcause, hs, hexl, hps, hmode, hguard, rfl, rfl, fun r => ?_, fun p => ?_, rfl, rfl, rfl, ?_⟩
    · rw [ht]
      exact reg_setTh_same r rfl rfl
    · rw [State.pred, hth]
      rfl
    · rw [ht]
      exact ⟨rfl, rfl, rfl, fun u hu => thread_setThread_ne s _ hu⟩
  case reflected =>
    refine ⟨reflectTo_ancestor, _, ?_, ?_, ?_, ?_, takeTrap_reflected hl hn hq⟩
    · exact thread_setThread ..
    · rfl
    · rfl
    · rfl

/-! ### Gated service calls and `exit` (R163, R164, R411) -/

section Service
variable {s : State} {h : Hdr} {kind : BitVec 2} {code : BitVec 16} {t : Tr} {tr : Trap}

theorem past_xr (s : State) (n : Nat) : s.past.xr n = s.xr n := advance_xr s 8 n

theorem past_trace {i : Instr} (hc : s.clear i = true) : s.past.th.trace = [] := by
  obtain ⟨-, -, -, -, -, -, -, -, ht, -⟩ := clear_cases hc
  exact (advance_th_trace s 8).trans ht

/-- A gate that refuses answers its status in X1. -/
theorem gatedCall_refuses {n st : Nat} (hd : s.drained s.cur = true) (ht : s.th.trace = [])
    (hg : s.gateStatus n (s.xr 1) = st) (hst : st ≠ 0) : s.gatedCall n = .done (s.setReg ⟨false, 1⟩ (word st)) := by
  simp only [State.gatedCall, hd, ht, Bool.not_true, Bool.false_eq_true, if_false, List.isEmpty_nil, hg, if_pos hst]

/-- The reply word of a call is on its way, and its thread waits for it. -/
def State.replySent (s : State) (va : Word) (t : Tr) : State :=
  let r := s.remember s.who va kWrite t
  let q := (r.openOut [] .trace 1).access va t 8 (.store (List.replicate 8 255)) r.next 0 false false
  q.setTh { q.th with trace := q.th.trace ++ [.open r.next], buf := [] }

/-- A call that its gate lets pass first stores the reply word of all ones. -/
theorem gatedCall_sends {n : Nat} {va : Word} (hva : s.xr 6 = va) (hd : s.drained s.cur = true) (ht : s.th.trace = [])
    (hg : s.gateStatus n (s.xr 1) = 0) (hk : s.gateChecks n = .ok ()) (hc : s.myCtx.calls < 256)
    (hx : s.translate s.who va kWrite = .ok t) :
    s.gatedCall n = .park (s.replySent va t) (.own (s.remember s.who va kWrite t).next) := by
  have hbytes : toBytes 8 allOnes.toNat = List.replicate 8 255 := by decide
  simp only [State.gatedCall, hd, ht, Bool.not_true, Bool.false_eq_true, if_false, List.isEmpty_nil, hg, hk, hx,
    Nat.not_le.mpr hc, ne_eq, not_true_eq_false, State.note, State.noBuf, th_setTh, hbytes, remember_xr, hva]
  exact congrArg (Res.park · _) (setTh_setTh ..)

/-- What is left of a call that joins those of its context which are in flight. -/
def State.callQueued (s : State) (c : Call) : State :=
  State.setReg (State.onCtx { s with calls := s.calls ++ [c], next := s.next + 1 } s.th.asid
    fun x => { x with calls := x.calls + 1 }) ⟨false, 1⟩ 0

/-- A call whose reply word has been stored is queued as a release (R411). -/
theorem gatedCall_queues {n : Nat} {c : Call} (hd : s.drained s.cur = true) (ht : s.th.trace ≠ [])
    (hc : s.myCtx.calls < 256) (hr : s.releaseIds 4 = []) (he : c = ⟨s.next, s.th.asid, s.th.thread, n, (s.xr 1).toNat,
      [s.xr 2, s.xr 3, s.xr 4, s.xr 5], s.xr 6, s.th.core, s.th.cc, false⟩) : s.gatedCall n = .done (s.callQueued c) := by
  simp only [State.gatedCall, State.queueCall, State.released, hd, List.isEmpty_eq_false_iff.mpr ht, Bool.not_true,
    Bool.not_false, Bool.false_eq_true, if_true, if_false, Nat.not_le.mpr hc, hr, he]
  rfl

theorem joinFault_free (ht : s.th.isTask = false) : s.joinFault = none := by
  unfold State.joinFault
  split
  · next hw => simp [Thread.isTask, hw] at ht
  · rfl

end Service

/-- Settles O33: a gated call by how far it has come, `exit` by what `leave` finds at the join counter. That the counter is
checked before the drain is the model's order (log 24). -/
theorem serviceAndExit : Obligations.ServiceAndExit := by
  unfold Obligations.ServiceAndExit
  intro s h kind code t tr p st x1 i r q c
  refine ⟨fun hd => ⟨fun hst => ?refused, fun hst hk hc hx => ?sent, fun ht hc hr => ?queued, fun hj => ?exit⟩,
    fun hj hd => ?drains, fun hj => ?traps, fun ht => ?free⟩
  case refused => exact fun hs => native_done hs (gatedCall_refuses hd (past_trace hs) (by rw [past_xr]) hst)
  case sent =>
    exact fun hs => native_park hs (gatedCall_sends (past_xr s 6) hd (past_trace hs) (by rw [past_xr]; exact hst) hk
      (by simpa [p] using hc) hx)
  case queued =>
    refine resumes_of_done rfl (gatedCall_queues hd (by simpa using ht) (by simpa using hc)
      ((advance_releaseIds s 8 4).trans hr) ?_)
    simp only [c, p, past_eq, advance_xr, advance_th_asid, advance_th_thread, advance_th_core, advance_th_cc]
  case exit => exact completes_of_done rfl fun _ => leave_ends hj hd
  case drains => exact fun hs => native_park hs (leave_drains hj hd)
  case traps => exact traps_of_trap rfl fun _ => leave_traps hj
  case free => exact joinFault_free (by simpa [p] using ht)

end Sys2Proof.Machine
end

section
/-! PROOFS. Groups 0x4 and 0x5 (R167 to R173, R217 to R221): the checks of an access, and what goes out. -/

namespace Sys2Proof.Machine

/-! ### The checks of an access in their order (R95, R96, R167) -/

section Checks
variable {s : State} {w : Who} {va : Word} {n k : Nat} {tr : Trap}

theorem canonical_iff (va : Word) : canonical va = true ↔ va = (va.setWidth 52).signExtend 64 := by
  rw [canonical, beq_iff_eq, sext_eq_signExtend]
  exact eq_comm

theorem check_noncanonical (hv : va ≠ (va.setWidth 52).signExtend 64) : s.check w va n k = .error (.of .prot va) := by
  have hc : canonical va = false := Bool.eq_false_iff.mpr fun h => hv ((canonical_iff va).mp h)
  simp only [State.check, hc, Bool.not_false, if_true]

theorem check_misaligned (hv : va = (va.setWidth 52).signExtend 64) (ha : va.toNat % n ≠ 0) :
    s.check w va n k = .error (.of .align va) := by
  simp only [State.check, canonical_of_signExtend hv, Bool.not_true, Bool.false_eq_true, if_false, if_pos ha]

/-- An address below the end of the local window has only zeros above bit 51. -/
theorem canonical_local (hv : va.toNat < 0x200000) : canonical va = true := by
  have hlow : va.toNat % 2 ^ 52 = va.toNat := Nat.mod_eq_of_lt (by omega)
  rw [canonical, beq_iff_eq, sext, hlow, if_pos (by omega)]
  refine BitVec.eq_of_toNat_eq ?_
  rw [BitVec.toNat_ofInt]
  omega

theorem check_local (ha : va.toNat % n = 0) (hv : va.toNat < 0x200000) : s.check w va n k = s.translate w va k := by
  simp only [State.check, canonical_local hv, ha, Bool.not_true, Bool.false_eq_true, ne_eq, not_true_eq_false, if_false]

theorem local_of_lt (hw : w.cc = false) (hv : va.toNat < 0x200000) : local? w va = true := by
  simp only [local?, hw, hv, decide_true, Bool.not_false, Bool.and_self]

theorem check_foreignBank (ha : va.toNat % n = 0) (hw : w.cc = false) (hv : va.toNat < 0x200000)
    (hb : bit (s.ctx w.asid).bankmask (va.toNat / 0x20000) = false) : s.check w va n k = .error (.of .prot va) := by
  rw [check_local ha hv]
  simp only [State.translate, local_of_lt hw hv, State.ownsBank, hb, if_true, Bool.false_eq_true, if_false]

theorem check_ownBank (ha : va.toNat % n = 0) (hw : w.cc = false) (hv : va.toNat < 0x200000)
    (hb : bit (s.ctx w.asid).bankmask (va.toNat / 0x20000) = true) :
    ∃ t, s.check w va n k = .ok t ∧ t.pa = 0xF00000000000 + w.core * 0x200000 + va.toNat := by
  refine ⟨⟨scratch w.core va.toNat, scratch w.core va.toNat, 0x200000, 0, false, []⟩, ?_, rfl⟩
  rw [check_local ha hv]
  simp only [State.translate, local_of_lt hw hv, State.ownsBank, hb, if_true]

/-- The address of format M, read in the issue turn (R167). -/
theorem past_ea (hh : s.th.held = none) (a : Opnd) (off : BitVec 24) : s.past.ea a off = s.reg a + off.signExtend 64 := by
  rw [State.ea, past_arg hh]

variable {h : Hdr} {d a b : Opnd} {m : M4} {m5 : M5}

theorem ld_traps (hf : s.past.fenced true false = []) (hw : s.past.walkAfter (s.reg a + m.off.signExtend 64) kRead = [])
    (hc : s.past.check s.past.who (s.reg a + m.off.signExtend 64) (2 ^ m.sz.toNat) kRead = .error tr) :
    s.clear (.ld h d a m) = true → exec (.ld h d a m) s = .next (s.trapNow tr) :=
  traps_of_trap rfl fun hh => by
    rw [past_ea hh]
    exact memory_traps hf hw hc _

theorem st_traps (hf : s.past.fenced false true = []) (hw : s.past.walkAfter (s.reg a + m.off.signExtend 64) kWrite = [])
    (hc : s.past.check s.past.who (s.reg a + m.off.signExtend 64) (2 ^ m.sz.toNat) kWrite = .error tr) :
    s.clear (.st h d a m) = true → exec (.st h d a m) s = .next (s.trapNow tr) :=
  traps_of_trap rfl fun hh => by
    rw [past_ea hh]
    exact memory_traps hf hw hc _

theorem atom_traps (hf : s.past.fenced true true = []) (hw : s.past.walkAfter (s.reg a) kWrite = [])
    (hc : s.past.check s.past.who (s.reg a) 8 kWrite = .error tr) :
    s.clear (.atom h d a b m5) = true → exec (.atom h d a b m5) s = .next (s.trapNow tr) :=
  traps_of_trap rfl fun hh => by
    simp only [past_arg hh]
    exact memory_traps hf hw hc _

end Checks

/-- Settles O21: the checks as `check` makes them one after the other, and an access that goes no further than a failed one. -/
theorem accessChecks : Obligations.AccessChecks := by
  unfold Obligations.AccessChecks
  exact ⟨fun s w va n k => ⟨check_noncanonical, check_misaligned, check_foreignBank, check_ownBank⟩,
    fun s h d a b m m5 tr => ⟨ld_traps, st_traps, atom_traps⟩⟩

/-! ### `ld` and `st` (R168, R169) -/

/-- A state with the same shared registers whose thread has the same private ones and stands on the same core. -/
theorem reg_of_th {s q : State} (hc : q.cores = s.cores) (hx : q.th.x = s.th.x) (hp : q.th.place = s.th.place) (r : Opnd) :
    q.reg r = s.reg r := by
  show (if r.shared then (q.core q.th.core).getY r.n.toNat else q.th.getX r.n.toNat) = _
  rw [State.core, hc, Thread.core, hp, Thread.getX, hx]
  rfl

section Sent
variable (s : State) (dsts : List Dst) (fin : Fin) (va : Word) (t : Tr) (n k : Nat) (op : AccOp) (acq rel : Bool) (sco : Nat)

theorem afterCxl_frame (pa : Nat) :
    (s.afterCxl pa).mem = s.mem ∧ (s.afterCxl pa).cores = s.cores ∧ (s.afterCxl pa).ctxs = s.ctxs := by
  obtain h | h := afterCxl_cases s pa <;> rw [h] <;> exact ⟨rfl, rfl, rfl⟩

theorem single_frame : let q := s.single dsts fin va t n op acq rel sco
    q.mem = s.mem ∧ q.cores = s.cores ∧ q.ctxs = s.ctxs :=
  afterCxl_frame _ t.pa

theorem single_reads : let q := s.single dsts fin va t n op acq rel sco
    (∀ r, q.reg r = s.reg r) ∧ (∀ p, q.pred p = s.pred p) ∧ q.th.outst = s.th.outst ++ [⟨s.next, dsts, fin, 1, [], [], []⟩] := by
  obtain ⟨p, m, b, h⟩ := single_th s dsts fin va t n op acq rel sco
  obtain ⟨-, hcores, -⟩ := single_frame s dsts fin va t n op acq rel sco
  refine ⟨reg_of_th hcores (by rw [h]) (by rw [h]), fun p => ?_, by rw [h]⟩
  rw [State.pred, h]
  rfl

/-- An access that goes out opens a result that waits for it alone, and changes no register and no memory. -/
theorem sent_spec : let q := s.sent dsts fin va t n k op acq rel sco
    q.mem = s.mem ∧ q.cores = s.cores ∧ q.ctxs = s.ctxs ∧ (∀ r, q.reg r = s.reg r) ∧ (∀ r, q.pred r = s.pred r) ∧
    (∃ o : Outst, q.th.outst = s.th.outst ++ [o] ∧ o.dsts = dsts ∧ o.fin = fin ∧ o.need = 1 ∧ o.got = [] ∧
      ∃ a : Acc, q.accs = s.accs ++ [a] ∧ a.owner = .thread s.cur ∧ a.out = o.id ∧ a.pa = t.pa ∧ a.size = n ∧ a.op = op ∧
        a.acq = acq ∧ a.rel = rel ∧ a.sco = sco ∧ a.home = s.homeOf t.pa t.attr) := by
  obtain ⟨hmem, hcores, hctxs⟩ := single_frame (s.remember s.who va k t) dsts fin va t n op acq rel sco
  obtain ⟨hreg, hpred, hout⟩ := single_reads (s.remember s.who va k t) dsts fin va t n op acq rel sco
  rw [remember_mem] at hmem
  rw [remember_cores] at hcores
  rw [remember_ctxs] at hctxs
  rw [remember_th] at hout
  refine ⟨hmem, hcores, hctxs, fun r => (hreg r).trans (remember_reg ..), fun p => (hpred p).trans (remember_pred ..), _, hout,
    rfl, rfl, rfl, rfl, _, (afterCxl_accs _ _).trans (congrArg (· ++ [_]) (remember_accs ..)), ?_, rfl, rfl, rfl, rfl, rfl, rfl,
    rfl, ?_⟩
  · exact congrArg Owner.thread (remember_cur ..)
  · exact remember_homeOf ..

end Sent

section LoadStore
variable {s : State} {h : Hdr} {d a : Opnd} {m : M4} {t : Tr}

@[simp] theorem remember_arg (w : Who) (va : Word) (k : Nat) (r : Opnd) : (s.remember w va k t).arg r = s.arg r := by
  obtain ⟨c, n, b, h⟩ := remember_cases s w va k t; rw [h]; rfl

/-- A load's one register, or its pair (R168). -/
theorem loadDsts_eq (d : Opnd) (n : Nat) : loadDsts d n = if n = 16 then [.reg d, .reg d.succ] else [.reg d] := by
  simp only [loadDsts, pairOf, beq_iff_eq]

theorem ld_completes (hgo : s.past.goesOut true false true (s.reg a + m.off.signExtend 64) (2 ^ m.sz.toNat) kRead t) :
    let n := 2 ^ m.sz.toNat
    Completes (.ld h d a m) s (s.past.sent (if n = 16 then [.reg d, .reg d.succ] else [.reg d]) (.load d n m.x)
      (s.reg a + m.off.signExtend 64) t n kRead .load (m.ord != 0) (m.ord == 3) m.sco.toNat) :=
  completes_of_done rfl fun hh => by
    rw [past_ea hh, ← loadDsts_eq]
    exact memory_goes hgo _

theorem st_completes (hgo : s.past.goesOut false true true (s.reg a + m.off.signExtend 64) (2 ^ m.sz.toNat) kWrite t)
    (hc : s.past.csrFault t.pa (s.reg d) (Instr.st h d a m).word = none) :
    let n := 2 ^ m.sz.toNat
    Completes (.st h d a m) s (s.past.sent [] (.done []) (s.reg a + m.off.signExtend 64) t n kWrite
      (.store ((toBytes 8 (s.reg d).toNat ++ if n = 16 then toBytes 8 (s.reg d.succ).toNat else []).take n))
      (m.ord == 3) (m.ord != 0) m.sco.toNat) :=
  completes_of_done rfl fun hh => by
    rw [past_ea hh]
    refine (memory_goes hgo _).trans ?_
    simp only [remember_csrFault, remember_arg, past_arg hh, hc, State.storeData]
    rfl

end LoadStore

/-- Settles O20: `ld` and `st` as accesses that go out, and what an access leaves under way. -/
theorem loadStore : Obligations.LoadStore := by
  unfold Obligations.LoadStore
  exact ⟨fun s h d a m t => ⟨ld_completes, st_completes⟩,
    fun s dsts fin va t n k op acq rel sco _ => sent_spec s dsts fin va t n k op acq rel sco⟩

/-! ### `pf`, fences and cache synchronisation (R122, R170 to R173) -/

section Fences
variable {s : State} {h : Hdr} {a : Opnd} {m : M4}

theorem pf_completes : let va := s.reg a + m.off.signExtend 64
    Completes (.pf h a m) s (forEach (fun i q => q.prefetchLine (word (va.toNat / 128 * 128) + word (128 * i)))
      (List.range (2 ^ m.sz.toNat)) s.past) :=
  completes_of_done rfl fun hh => by
    rw [past_ea hh]
    rfl

/-- A prefetch requests an absent page, and else does nothing. -/
theorem prefetchLine_cases (q : State) (x : Word) : q.prefetchLine x = q ∨
    ∃ f, q.tables q.th.asid x kRead = .error f ∧ f.reason = 0 ∧
      q.prefetchLine x = q.pageRequest f.ctx f.va.toNat 0 q.th.asid q.th.thread := by
  unfold State.prefetchLine
  split
  · exact .inl rfl
  · split
    · next f hf =>
      by_cases hr : f.reason = 0
      · exact .inr ⟨f, hf, hr, if_pos hr⟩
      · exact .inl (if_neg hr)
    · exact .inl rfl

/-- One kind of a fence, where KINDS names it: what it waits for and what it guards, if there is anything to wait for. -/
theorem fenceKind_named (sco : Nat) (b l st gl gs : Bool) : (if b then s.fenceKind sco l st gl gs else []) =
    if b ∧ s.earlierIds s.cur l st sco ≠ [] then [⟨s.earlierIds s.cur l st sco, gl, gs⟩] else [] := by
  cases b with
  | false => simp only [Bool.false_eq_true, false_and, if_false]
  | true =>
    cases hl : s.earlierIds s.cur l st sco with
    | nil => simp [State.fenceKind, hl]
    | cons e r => simp [State.fenceKind, hl]

/-- What a thread's fences wait for once a `fence` has been issued (R171). -/
def State.fencesAfter (s : State) (kinds : BitVec 4) (sco : Nat) : List Fence :=
  let kind : Nat → Bool → Bool → Bool → Bool → List Fence := fun n l st gl gs =>
    if kinds.getLsbD n ∧ s.earlierIds s.cur l st sco ≠ [] then [⟨s.earlierIds s.cur l st sco, gl, gs⟩] else []
  (s.th.fences.filter fun f => !s.allDone f.needs) ++ kind 3 true false true false ++ kind 2 true false false true ++
    kind 1 false true true false ++ kind 0 false true false true

theorem fence_completes {kinds : BitVec 4} : Completes (.fence h kinds m) s
    (s.past.setTh { s.past.th with fences := s.fencesAfter kinds m.sco.toNat }) :=
  completes_of_done rfl fun _ => by
    simp only [fenceKind_named]
    rw [past_eq, advance_th_fences]
    rfl

theorem ifence_completes : Completes (.ifence h m) s (s.past.setTh { s.past.th with buf := [] }) :=
  completes_of_done rfl fun _ => rfl

/-- A map over the values of a map with keys. -/
theorem get_map {α : Type} (d : α) (f : α → α) (l : Sparse α) (k : Nat) :
    get d (l.map fun e => (e.1, f e.2)) k = if has l k then f (get d l k) else d := by
  induction l with
  | nil => rfl
  | cons e r ih =>
    obtain ⟨j, v⟩ := e
    by_cases hj : j = k
    · simp [get, has, hj]
    · simpa [get, has, hj] using ih

theorem noBuf_th (s : State) : s.noBuf.th = { s.th with buf := [] } := th_setTh s _

/-- A thread that has discarded its buffer keeps no copy that could be discarded. -/
theorem discardCopies_th (s : State) (asid : Nat) (only : Option Nat) : (s.noBuf.discardCopies asid only).th = s.noBuf.th := by
  have hsame : { s.noBuf.th with buf := [] } = s.noBuf.th := by rw [noBuf_th]
  have hmap : (s.noBuf.discardCopies asid only).th = get Thread.new (s.noBuf.threads.map fun e => (e.1,
      if e.2.cc && e.2.asid == asid && e.2.tephra && addressed only e.2.core then { e.2 with buf := [] } else e.2)) s.cur := rfl
  have hlive : has s.noBuf.threads s.cur = true := has_setTh s _
  rw [hmap, get_map Thread.new (fun e => if e.cc && e.asid == asid && e.tephra && addressed only e.core then
    { e with buf := [] } else e), if_pos hlive]
  show (if _ then { s.noBuf.th with buf := [] } else s.noBuf.th) = s.noBuf.th
  rw [hsame, ite_self]

theorem discardCopies_gone {asid : Nat} {only : Option Nat} {c : Nat × Nat × Nat × List Byte}
    (hc : c ∈ (s.discardCopies asid only).icCopies) (ha : c.2.1 = asid) : addressed only c.1 = false := by
  have h := (List.mem_filter.mp hc).2
  simpa [ha] using h

/-- What an `icsync` discards: the issuer's fetch buffer, and the copies at the control cores that its scope addresses. -/
def State.icsynced (s : State) (sco : Nat) : State :=
  if 4 ≤ sco then s.noBuf.discardCopies s.th.asid none
  else if s.th.cc then s.noBuf.discardCopies s.th.asid (some s.th.core)
  else s.noBuf

theorem icsync_completes (hr : s.releaseIds m.sco.toNat = []) :
    Completes (.icsync h m) s ((s.past.icsynced m.sco.toNat).later [] []) :=
  completes_of_done rfl fun _ => by
    have hpast : s.past.releaseIds m.sco.toNat = [] := (advance_releaseIds s 8 _).trans hr
    simp only [State.released, hpast, th_setTh]
    rfl

theorem icsynced_spec (s : State) (sco : Nat) : let d := s.icsynced sco
    d.mem = s.mem ∧ d.cores = s.cores ∧ d.th = { s.th with buf := [] } ∧ (4 ≤ sco → ∀ c ∈ d.icCopies, c.2.1 ≠ s.th.asid) ∧
      (s.th.cc = true → ∀ c ∈ d.icCopies, ¬(c.1 = s.th.core ∧ c.2.1 = s.th.asid)) := by
  intro d
  by_cases hs : 4 ≤ sco
  · have hd : d = s.noBuf.discardCopies s.th.asid none := if_pos hs
    rw [hd]
    have hgone (c) (hc : c ∈ (s.noBuf.discardCopies s.th.asid none).icCopies) : c.2.1 ≠ s.th.asid := fun ha =>
      Bool.noConfusion (discardCopies_gone hc ha)
    exact ⟨rfl, rfl, (discardCopies_th ..).trans (noBuf_th s), fun _ => hgone, fun _ c hc ha => hgone c hc ha.2⟩
  · by_cases hcc : s.th.cc = true
    · have hd : d = s.noBuf.discardCopies s.th.asid (some s.th.core) := (if_neg hs).trans (if_pos hcc)
      rw [hd]
      refine ⟨rfl, rfl, (discardCopies_th ..).trans (noBuf_th s), fun h => absurd h hs, fun _ c hc ha => ?_⟩
      have hne := discardCopies_gone hc ha.2
      simp [addressed, ha.1] at hne
    · have hd : d = s.noBuf := (if_neg hs).trans (if_neg hcc)
      rw [hd]
      exact ⟨rfl, rfl, noBuf_th s, fun h => absurd h hs, fun h => absurd h hcc⟩

theorem later_th (s : State) (dsts : List Dst) (ws : List Write) :
    (s.later dsts ws).th = { s.th with outst := s.th.outst ++ [⟨s.next, dsts, .done ws, 0, [], [], []⟩] } := th_setTh s _

theorem icsync_spec (hr : s.releaseIds m.sco.toNat = []) :
    ∃ d : State, Completes (.icsync h m) s d ∧ d.mem = s.mem ∧ (∀ r, d.reg r = s.reg r) ∧ d.th.buf = [] ∧
      (4 ≤ m.sco.toNat → ∀ c ∈ d.icCopies, c.2.1 ≠ s.th.asid) ∧
      (s.th.cc = true → ∀ c ∈ d.icCopies, ¬(c.1 = s.th.core ∧ c.2.1 = s.th.asid)) := by
  obtain ⟨hmem, hcores, hth, hall, hown⟩ := icsynced_spec s.past m.sco.toNat
  have hlater := later_th (s.past.icsynced m.sco.toNat) [] []
  rw [hth] at hlater
  have hasid : s.past.th.asid = s.th.asid := advance_th_asid s 8
  have hcc : s.past.th.cc = s.th.cc := advance_th_cc s 8
  have hcore : s.past.th.core = s.th.core := advance_th_core s 8
  rw [hasid] at hall
  rw [hasid, hcc, hcore] at hown
  have hreg := reg_of_th (q := (s.past.icsynced m.sco.toNat).later [] []) hcores (by rw [hlater]) (by rw [hlater])
  exact ⟨_, icsync_completes hr, hmem, fun r => (hreg r).trans (past_reg s r), by rw [hlater], hall, hown⟩

end Fences

/-! ### The issue of the synchronisation functions (R108, R125, R217 to R221) -/

section Sync
variable {s : State} {h : Hdr} {d a b : Opnd} {m : M5} {t : Tr}

theorem atom_completes (hgo : s.past.goesOut true true false (s.reg a) 8 kWrite t) :
    Completes (.atom h d a b m) s (State.single ((s.past.remember s.past.who (s.reg a) kWrite t).endResv (.thread s.cur))
      [.reg d] (.word d) (s.reg a) t 8 (.atom m.op.toNat (s.reg b) (s.reg d)) true true m.sco.toNat) :=
  completes_of_done rfl fun hh => by
    simp only [past_arg hh]
    rw [word8_goes (fe := false) (mon := false) hgo nofun nofun]
    simp only [remember_arg, remember_cur, past_arg hh]
    rfl

/-- Where the access goes out, the refusal of `ldfe` without .c turns on the mapping alone (R108, R220). -/
theorem ldfeDup_eq {p : State} {va : Word} (hgo : p.goesOut true true false va 8 kRead t) : p.ldfeDup va = t.dup := by
  obtain ⟨hf, -, hc, -⟩ := hgo
  simp only [State.ldfeDup, hf, hc, beq_self_eq_true, Bool.true_and]

theorem ldfe_completes (hgo : s.past.goesOut true true false (s.reg a) 8 (if m.c then kWrite else kRead) t)
    (hfar : farKind (s.past.kindOf t.pa) = false) (hdup : m.c = false → t.dup = false) :
    Completes (.ldfe h d a m) s (s.past.sent [.reg d] (.word d) (s.reg a) t 8 (if m.c then kWrite else kRead) (.ldfe m.c)
      true false m.sco.toNat).parkOwn :=
  completes_of_done rfl fun hh => by
    have hpass : (!m.c && s.past.ldfeDup (s.reg a)) = false := by
      cases hc : m.c with
      | true => rfl
      | false => exact (ldfeDup_eq (by simpa [hc] using hgo)).trans (hdup hc)
    simp only [past_arg hh, hpass, Bool.false_eq_true, if_false]
    exact word8_goes (fe := true) (mon := false) hgo (fun _ => hfar) nofun _

theorem ldfe_duplicated (hgo : s.past.goesOut true true false (s.reg a) 8 kRead t) (hdup : t.dup = true) (hc : m.c = false) :
    s.clear (.ldfe h d a m) = true → exec (.ldfe h d a m) s = .next (s.trapNow (.of .writeDup (s.reg a))) :=
  traps_of_trap rfl fun hh => by
    simp only [past_arg hh, hc, ldfeDup_eq hgo, hdup, Bool.not_false, Bool.and_self, if_true]

theorem stfe_completes (hgo : s.past.goesOut true true false (s.reg a) 8 kWrite t)
    (hfar : farKind (s.past.kindOf t.pa) = false) : Completes (.stfe h a b m) s
      (s.past.sent [] (.done []) (s.reg a) t 8 kWrite (.stfe (s.reg b)) false true m.sco.toNat).parkOwn :=
  completes_of_done rfl fun hh => by
    simp only [past_arg hh]
    rw [word8_goes (fe := true) (mon := false) hgo (fun _ => hfar) nofun]
    simp only [remember_arg, past_arg hh]
    rfl

theorem fset_completes (hgo : s.past.goesOut true true false (s.reg a) 8 kWrite t)
    (hfar : farKind (s.past.kindOf t.pa) = false) : Completes (.fset h d a m) s
      (s.past.sent [.reg d] (.word d) (s.reg a) t 8 kWrite (.fset m.c) false false) :=
  completes_of_done rfl fun hh => by
    simp only [past_arg hh]
    exact word8_goes (fe := true) (mon := false) hgo (fun _ => hfar) nofun _

theorem fget_completes (hgo : s.past.goesOut true true false (s.reg a) 8 kRead t)
    (hfar : farKind (s.past.kindOf t.pa) = false) : Completes (.fget h d a m) s
      (s.past.sent [.reg d] (.word d) (s.reg a) t 8 kRead .fget false false) :=
  completes_of_done rfl fun hh => by
    simp only [past_arg hh]
    exact word8_goes (fe := true) (mon := false) hgo (fun _ => hfar) nofun _

theorem waita_completes (hgo : s.past.goesOut true true false (s.reg a) 8 kRead t)
    (hfar : farKind (s.past.kindOf t.pa) = false) : Completes (.waita h d a b m) s
      (s.past.sent [.reg d] (.word d) (s.reg a) t 8 kRead (.waita m.op.toNat (s.reg b)) true false m.sco.toNat).parkOwn :=
  completes_of_done rfl fun hh => by
    simp only [past_arg hh]
    rw [word8_goes (fe := true) (mon := false) hgo (fun _ => hfar) nofun]
    simp only [remember_arg, past_arg hh]
    rfl

theorem mon_completes (hgo : s.past.goesOut true true false (s.reg a) 8 kWrite t)
    (hout : ¬(s.past.kindOf t.pa = some .cxl ∨ s.past.kindOf t.pa = some .peer)) :
    Completes (.mon h d a m) s (State.single ((s.past.remember s.past.who (s.reg a) kWrite t).endResv (.thread s.cur))
      [.reg d] (.word d) (s.reg a) t 8 .mon true false m.sco.toNat) :=
  completes_of_done rfl fun hh => by
    simp only [past_arg hh]
    rw [word8_goes (fe := false) (mon := true) hgo nofun (fun _ => hout)]
    simp only [remember_cur]
    rfl

theorem monrel_completes (hgo : s.past.goesOut true true false (s.reg a) 8 kWrite t)
    (hout : ¬(s.past.kindOf t.pa = some .cxl ∨ s.past.kindOf t.pa = some .peer)) : Completes (.monrel h a b m) s
      (s.past.sent [.pred m.pr] (.held m.pr) (s.reg a) t 8 kWrite (.monrel (s.reg b)) false true m.sco.toNat) :=
  completes_of_done rfl fun hh => by
    simp only [past_arg hh]
    rw [word8_goes (fe := false) (mon := true) hgo nofun (fun _ => hout)]
    simp only [remember_arg, past_arg hh]
    rfl

end Sync

/-- Settles O22: each function of groups 0x4 and 0x5 by what its body does once its access goes out. -/
theorem fencesAndAtomics : Obligations.FencesAndAtomics := by
  unfold Obligations.FencesAndAtomics
  refine ⟨fun s h a kinds m =>
    ⟨pf_completes, prefetchLine_cases, fence_completes, ifence_completes, icsync_spec⟩, fun s h d a b m t => ?_⟩
  exact ⟨atom_completes, fun hgo hfar hdup => ldfe_completes hgo hfar hdup,
    fun hgo hfar => ⟨stfe_completes hgo hfar, fset_completes hgo hfar⟩,
    fun hgo hfar => ⟨fget_completes hgo hfar, waita_completes hgo hfar⟩,
    fun hgo hout => ⟨mon_completes hgo hout, monrel_completes hgo hout⟩,
    fun hgo hdup hc => ldfe_duplicated hgo hdup hc⟩

end Sys2Proof.Machine
end

section
/-! PROOFS. Bytecode (R282, R263, R287, R288) and the return to it (R165, R273): jumps, loops, calls and `uret`. -/

namespace Sys2Proof.Machine

/-! ### Jumps, loops and `halt` (R263, R287) -/

/-- Continue a number of words after the next bytecode (R282). -/
def State.jumpBy (s : State) (n : Word) : State := s.jumpTo (s.th.pc + n * 4)

section Jumps
variable {s q q1 q2 q3 q4 q5 q6 t : State} {a b : BitVec 8} {off : BitVec 16} {v w y z : Word} {i l st : Int}

/-- A jump of a bytecode's body (R282). -/
theorem tJump_eq (n : Word) : tJump n s = .ok ((), s.jumpBy n) := rfl

theorem jmp_ends (h : s.bcClear = true) (w24 : BitVec 24) : exec (.tJmp w24) s =
    .next (s.bcEnds ((s.advance 4).jumpTo (s.th.pc + 4 + w24.signExtend 64 * 4))) :=
  bytecode_ok4 h rfl (by rw [tJump_eq, State.jumpBy, advance_th_pc])

/-- The values that count as false: nil, false, the integer 0 and the two zeros of a short float (R263). -/
theorem isFalse_iff (v : Word) : isFalse v = true ↔ v = 3 ∨ v = 0xB ∨ v = 0 ∨ v = 2 ∨ v = 0x8000000000000002 := by
  simp only [isFalse, Bool.or_eq_true, beq_iff_eq, or_assoc]

theorem tBranch_ok (want : Bool) (hr : tF a.toNat s = .ok (v, q)) (hv : valueOk v = true) : tBranch want a off s =
    .ok ((), if isFalse v != want then q.jumpBy (off.signExtend 64) else q) := by
  unfold tBranch
  rw [bind_ok hr, tExamine_bind hv]
  split <;> rfl

theorem branches_end (h : s.bcClear = true) (hr : tF a.toNat (s.advance 4) = .ok (v, q)) (hv : valueOk v = true) :
    exec (.tJt a off) s = .next (s.bcEnds (if isFalse v then q else q.jumpBy (off.signExtend 64))) ∧
    exec (.tJf a off) s = .next (s.bcEnds (if isFalse v then q.jumpBy (off.signExtend 64) else q)) := by
  constructor
  · refine bytecode_ok4 h rfl ((tBranch_ok true hr hv).trans ?_)
    cases isFalse v <;> rfl
  · refine bytecode_ok4 h rfl ((tBranch_ok false hr hv).trans ?_)
    cases isFalse v <;> rfl

/-- The index, the bound and the step of a loop over small integers, in consecutive frame registers. -/
theorem tLoopWords_bind {β : Type} {n : Nat} (hi : intFits i = true) (hl : intFits l = true) (hst : intFits st = true)
    (h0 : tF n s = .ok (mkInt i, q)) (h1 : tF (n + 1) q = .ok (mkInt l, q1)) (h2 : tF (n + 2) q1 = .ok (mkInt st, q2))
    (f : Int → Int → Word → Int → TM β) : (do
      let i ← tInt (← tF n)
      let l ← tInt (← tF (n + 1))
      let w ← tF (n + 2)
      let st ← tInt w
      f i l w st) s = f i l (mkInt st) st q2 := by
  rw [bind_ok h0, tInt_bind hi, bind_ok h1, tInt_bind hl, bind_ok h2, tInt_bind hst]

/-- The index that `forprep` leaves: the difference, or a free value where no small integer holds it (log 21). -/
def State.forprepIndex (q : State) (i st : Int) : Word :=
  if intFits (i - st) then mkInt (i - st) else word (8 * Config.freeNat q.free)

theorem tagOf_forprepIndex (q : State) (i st : Int) : tagOf (q.forprepIndex i st) = 0 := by
  unfold State.forprepIndex
  split
  · exact tagOf_mkInt _
  · rw [tagOf, bits, word, BitVec.toNat_ofNat, Nat.shiftRight_zero]
    omega

section Loop
variable (h : s.bcClear = true) (hi : intFits i = true) (hl : intFits l = true) (hst : intFits st = true)
  (h0 : tF a.toNat (s.advance 4) = .ok (mkInt i, q)) (h1 : tF (a.toNat + 1) q = .ok (mkInt l, q1))
  (h2 : tF (a.toNat + 2) q1 = .ok (mkInt st, q2))
include h hi hl hst h0 h1 h2

theorem forprep_ends (hz : st ≠ 0) (hw : tSetF a.toNat (q2.forprepIndex i st) q2 = .ok ((), t)) :
    exec (.tForprep a off) s = .next (s.bcEnds (t.jumpBy (off.signExtend 64))) :=
  bytecode_ok4 h rfl (by
    rw [tLoopWords_bind hi hl hst h0 h1 h2, if_neg hz, tGet_bind]
    exact (bind_ok hw _).trans (tJump_eq _))

theorem forprep_zero (hz : st = 0) : exec (.tForprep a off) s = .next (s.spent.raise s.cur (.of .type 0) true) :=
  bytecode_traps h rfl (by
    rw [tLoopWords_bind hi hl hst h0 h1 h2, if_pos hz, hz]
    rfl)

theorem forloop_leaves (hf : intFits (i + st) = false) : exec (.tForloop a off) s = .next (s.bcEnds q2) :=
  bytecode_ok4 h rfl (by
    rw [tLoopWords_bind hi hl hst h0 h1 h2, hf]
    rfl)

theorem forloop_ends (hf : intFits (i + st) = true) (hw : tSetF a.toNat (mkInt (i + st)) q2 = .ok ((), q3))
    (hc : ¬((0 < st ∧ i + st ≤ l) ∨ (st < 0 ∧ l ≤ i + st))) : exec (.tForloop a off) s = .next (s.bcEnds q3) :=
  bytecode_ok4 h rfl (by
    rw [tLoopWords_bind hi hl hst h0 h1 h2, hf]
    refine (bind_ok hw _).trans ?_
    rw [if_neg hc]
    rfl)

theorem forloop_repeats (hf : intFits (i + st) = true) (hw : tSetF a.toNat (mkInt (i + st)) q2 = .ok ((), q3))
    (hc : (0 < st ∧ i + st ≤ l) ∨ (st < 0 ∧ l ≤ i + st)) (hn : tSetF (a.toNat + 3) (mkInt (i + st)) q3 = .ok ((), t)) :
    exec (.tForloop a off) s = .next (s.bcEnds (t.jumpBy (off.signExtend 64))) :=
  bytecode_ok4 h rfl (by
    rw [tLoopWords_bind hi hl hst h0 h1 h2, hf]
    refine (bind_ok hw _).trans ?_
    rw [if_pos hc]
    exact (bind_ok hn _).trans (tJump_eq _))

end Loop

theorem iter_ends (h : s.bcClear = true) (hr : tF b.toNat (s.advance 4) = .ok (v, q)) (ht : tTouch 0 v q = .ok ((), q1))
    (hk : tKind v q1 = .ok (some 2, q2)) (hv : tSetF a.toNat v q2 = .ok ((), q3))
    (hz : tSetF (a.toNat + 1) 0 q3 = .ok ((), t)) : exec (.tIter a b) s = .next (s.bcEnds t) :=
  bytecode_ok4 h rfl (by
    rw [bind_ok hr, bind_ok ht, bind_ok hk, if_pos rfl, bind_ok hv, hz])

section Next
variable (h : s.bcClear = true) (hr : tF a.toNat (s.advance 4) = .ok (v, q)) (hk : tKind v q = .ok (some 2, q1))
  (hx : tF (a.toNat + 1) q1 = .ok (mkInt i, q2)) (hi : intFits i = true) (hlen : tRead (v + 15) 8 q2 = .ok (w, q3))
include h hr hk hx hi hlen

theorem next_ends (hout : i < 0 ∨ w.toNat ≤ i) : exec (.tNext a off) s = .next (s.bcEnds (q3.jumpBy (off.signExtend 64))) :=
  bytecode_ok4 h rfl (by
    rw [bind_ok hr, bind_ok hk, if_pos rfl, bind_ok hx, tInt_bind hi, bind_ok hlen, if_neg (by omega), tJump_eq])

theorem next_gives (h0 : 0 ≤ i) (hin : i < w.toNat) (hd : tRead (v + 31) 8 q3 = .ok (y, q4))
    (he : tRead (y + mkInt i) 8 q4 = .ok (z, q5)) (hs : tSetF (a.toNat + 2) z q5 = .ok ((), q6))
    (hn : tSetF (a.toNat + 1) (mkInt (i + 1)) q6 = .ok ((), t)) : exec (.tNext a off) s = .next (s.bcEnds t) :=
  bytecode_ok4 h rfl (by
    rw [bind_ok hr, bind_ok hk, if_pos rfl, bind_ok hx, tInt_bind hi, bind_ok hlen, if_pos ⟨h0, hin⟩, bind_ok hd, bind_ok he,
      bind_ok hs, hn])

end Next

theorem halt_ends (h : s.bcClear = true) (hx : s.th.xPoison.contains 27 = false) (hr : tF a.toNat (s.advance 4) = .ok (v, q))
    (hw : tWrite (s.xr 27 + 16) 8 v .ordered q = .ok ((), t)) :
    exec (.tHalt a) s = .next (s.bcEnds (t.endThread t.cur false)) :=
  bytecode_ok4 h rfl (by
    rw [tX_bind (by rwa [advance_th_xPoison]), bind_ok hr, advance_xr, bind_ok hw])

end Jumps

/-! ### The link store of bytecode, function calls and native calls (R47, R262, R267, R288) -/

section Calls
variable {s q q1 q2 q3 q4 q5 : State} {fn target site w code e v : Word} {a b : Nat} {args rest : List Word} {r : List Byte}
  {k : Nat}

theorem tPush_room (hl : s.th.link.length < 8) : tPush e s = .ok ((), s.setTh { s.th with link := e :: s.th.link }) := by
  unfold tPush
  rw [tGet_bind, if_pos hl]
  rfl

theorem tPush_overflows (hl : 8 ≤ s.th.link.length) (hs : s.myCtx.spillLimit < 8 * (s.th.spilled + 1)) :
    tPush e s = .error (.trap (.of .linkOvf (s.spillAt s.th.spilled))) := by
  unfold tPush
  rw [tGet_bind, if_neg (Nat.not_lt.mpr hl)]
  exact congrFun (if_pos hs) s

theorem tPush_spills (hl : 8 ≤ s.th.link.length) (hs : 8 * (s.th.spilled + 1) ≤ s.myCtx.spillLimit)
    (hw : tWrite (s.spillAt s.th.spilled) 8 (s.th.link.getLastD 0) .plain s = .ok ((), q)) :
    tPush e s = .ok ((), q.setTh { q.th with link := e :: q.th.link.dropLast, spilled := q.th.spilled + 1 }) := by
  unfold tPush
  rw [tGet_bind, if_neg (Nat.not_lt.mpr hl)]
  exact (congrFun (if_neg (Nat.not_lt.mpr hs)) s).trans (bind_ok hw _)

theorem tPop_newest (hl : s.th.link = e :: rest) : tPop s = .ok (e, s.setTh { s.th with link := rest }) := by
  unfold tPop
  rw [tGet_bind, hl]
  rfl

theorem tPop_underflows (hl : s.th.link = []) (hs : s.th.spilled = 0) : tPop s = .error (.trap (.of .linkUnf 0)) := by
  unfold tPop
  rw [tGet_bind, hl]
  exact congrFun (if_pos hs) s

theorem tPop_refills (hl : s.th.link = []) (hs : 0 < s.th.spilled)
    (hr : tRead (s.spillAt (s.th.spilled - 1)) 8 s = .ok (e, q)) :
    tPop s = .ok (e, q.setTh { q.th with spilled := q.th.spilled - 1 }) := by
  unfold tPop
  rw [tGet_bind, hl]
  exact (congrFun (if_neg (Nat.ne_of_gt hs)) s).trans (bind_ok hr _)

/-- The frame that a call of the function object whose third word is `w` opens must end by X30. -/
abbrev State.frameBeyond (q : State) (new w : Word) : Prop := (q.xr 30).toNat < new.toNat + 8 * nframeOf w

section Enter
variable (h28 : s.th.xPoison.contains 28 = false) (hw : tRead (fn + 48) 8 s = .ok (w, q))
  (h30 : q.th.xPoison.contains 30 = false)
include h28 hw h30

theorem tEnter_tooLong (hb : q.frameBeyond (s.xr 28 + word (8 * (a + 3))) w) :
    tEnter fn a b site s = .error (.guard 6 0 site) := by
  unfold tEnter
  rw [tX_bind h28, bind_ok hw, tX_bind h30, if_pos hb]
  rfl

theorem tEnter_miscounted (hb : ¬q.frameBeyond (s.xr 28 + word (8 * (a + 3))) w) (hn : b ≠ nparamOf w) :
    tEnter fn a b site s = .error (.guard 5 0 site) := by
  unfold tEnter
  rw [tX_bind h28, bind_ok hw, tX_bind h30, if_neg hb, if_pos hn]
  rfl

theorem tEnter_ok (hb : ¬q.frameBeyond (s.xr 28 + word (8 * (a + 3))) w) (hn : b = nparamOf w)
    (hc : tRead (fn + 16) 8 q = .ok (code, q1)) (h29 : q1.th.xPoison.contains 29 = false)
    (h1 : tSetF (a + 1) (mkAddr (s.xr 28)) q1 = .ok ((), q2)) (h2 : tSetF (a + 2) (mkAddr (q1.xr 29)) q2 = .ok ((), q3))
    (hnil : tEach (fun i => tWrite (s.xr 28 + word (8 * (a + 3)) + word (8 * (b + i))) 8 vNil) (List.range (nframeOf w - b)) q3 =
      .ok ((), q4))
    (hp : tPush (linkEntry q4.th.pc true) q4 = .ok ((), q5)) : tEnter fn a b site s = .ok ((),
      State.jumpTo (q5.setTh ((q5.th.setX 28 (s.xr 28 + word (8 * (a + 3)))).setX 29 fn)) code) := by
  unfold tEnter
  rw [tX_bind h28, bind_ok hw, tX_bind h30, if_neg hb, if_neg (not_not.mpr hn), bind_ok hc, tX_bind h29, bind_ok h1, bind_ok h2,
    bind_ok hnil, tPc_bind, bind_ok hp, bind_ok rfl, bind_ok rfl, th_setTh, setTh_setTh]
  rfl

end Enter

/-- The thread after the operands of a native call have been put into X2 onward (R288). -/
def Thread.withOperands (u : Thread) (args : List Word) : List Nat → Thread
  | [] => u
  | i :: l => (u.setX (2 + i) (args.getD i 0)).withOperands args l

theorem tEach_operands (args : List Word) (l : List Nat) (s : State) (u : Thread) :
    tEach (fun i => tSetX (2 + i) (args.getD i 0)) l (s.setTh u) = .ok ((), s.setTh (u.withOperands args l)) := by
  induction l generalizing u with
  | nil => rfl
  | cons i l ih =>
    refine Eq.trans ?_ (ih (u.setX (2 + i) (args.getD i 0)))
    refine (bind_ok (q := s.setTh (u.setX (2 + i) (args.getD i 0))) (v := ()) ?_ _)
    simp only [tSetX, th_setTh, setTh_setTh]

/-- Putting the operands into their registers changes nothing of the thread but those. -/
theorem withOperands_spec (args : List Word) (l : List Nat) (u : Thread) : let t := u.withOperands args l
    t.link = u.link ∧ (∀ n, n < 2 → t.getX n = u.getX n) ∧ (∀ n, n ∉ l → t.getX (2 + n) = u.getX (2 + n)) ∧
      ∀ i ∈ l, t.getX (2 + i) = args.getD i 0 := by
  induction l generalizing u with
  | nil => exact ⟨rfl, fun _ _ => rfl, fun _ _ => rfl, fun _ h => absurd h List.not_mem_nil⟩
  | cons j l ih =>
    obtain ⟨hlink, hlow, hout, hin⟩ := ih (u.setX (2 + j) (args.getD j 0))
    have hset (n : Nat) (hn : n ≠ 2 + j) : (u.setX (2 + j) (args.getD j 0)).getX n = u.getX n := Thread.getX_setX_ne _ _ _ hn
    refine ⟨hlink.trans ?_, fun n hn => (hlow n hn).trans (hset n (by omega)), fun n hn => ?_, fun i hi => ?_⟩
    · rw [Thread.setX]
      split <;> rfl
    · rw [List.mem_cons, not_or] at hn
      exact (hout n hn.2).trans (hset _ (by omega))
    · by_cases hl : i ∈ l
      · exact hin i hl
      · obtain rfl : i = j := (List.mem_cons.mp hi).resolve_right hl
        exact (hout i hl).trans (Thread.getX_setX _ _ _ (by omega))

/-- The thread that a native call leaves: the address of f(A), the operands and their count in X1, X2 onward and X6. -/
def Thread.nativeCall (u : Thread) (base target : Word) (args : List Word) : Thread :=
  { ((u.setX 1 base).withOperands args (List.range args.length)).setX 6 (word args.length) with
    tephra := false, pc := target, buf := [] }

theorem tNativeCall_ok {a : BitVec 8} (hp : tPush (linkEntry s.th.pc true) s = .ok ((), q))
    (h28 : q.th.xPoison.contains 28 = false) : tNativeCall a target args s =
      .ok ((), q.setTh (q.th.nativeCall (q.xr 28 + word (8 * a.toNat)) target args)) := by
  unfold tNativeCall
  rw [tPc_bind, bind_ok hp, tFrameAt_bind h28, bind_ok rfl, bind_ok (tEach_operands args _ q _), bind_ok rfl]
  rw [tNativeMode, th_setTh, setTh_setTh, th_setTh, setTh_setTh]
  rfl

theorem nativeCall_spec (u : Thread) (base : Word) (hn : args.length ≤ 4) : let t := u.nativeCall base target args
    t.link = u.link ∧ t.getX 1 = base ∧ t.getX 6 = word args.length ∧ ∀ i, i < args.length → t.getX (2 + i) = args.getD i 0 := by
  obtain ⟨hlink, hlow, -, hin⟩ := withOperands_spec args (List.range args.length) (u.setX 1 base)
  have hset (n : Nat) (h : n ≠ 6) : (u.nativeCall base target args).getX n =
      ((u.setX 1 base).withOperands args (List.range args.length)).getX n := Thread.getX_setX_ne _ _ _ h
  refine ⟨?_, (hset 1 (by omega)).trans ((hlow 1 (by omega)).trans (Thread.getX_setX _ _ _ (by omega))),
    Thread.getX_setX _ 6 _ (by omega), fun i hi => (hset _ (by omega)).trans (hin i (List.mem_range.mpr hi))⟩
  exact hlink

theorem tNativeCall_spec {a : BitVec 8} (hn : args.length ≤ 4) (hp : tPush (linkEntry s.th.pc true) s = .ok ((), q))
    (h28 : q.th.xPoison.contains 28 = false) : ∃ t : State, tNativeCall a target args s = .ok ((), t) ∧ t.th.tephra = false ∧
      t.th.pc = target ∧ t.th.link = q.th.link ∧ t.mem = q.mem ∧ t.th.getX 1 = q.xr 28 + word (8 * a.toNat) ∧
      t.th.getX 6 = word args.length ∧ ∀ i, i < args.length → t.th.getX (2 + i) = args.getD i 0 := by
  refine ⟨_, tNativeCall_ok hp h28, ?_⟩
  obtain ⟨hlink, h1, h6, hops⟩ := nativeCall_spec (target := target) q.th (q.xr 28 + word (8 * a.toNat)) hn
  rw [th_setTh]
  exact ⟨rfl, rfl, hlink, rfl, h1, h6, hops⟩

/-- What the entry of a hit says to do (R288): enter the function, call the code, or launch. -/
theorem tCallAct_cases (a : BitVec 8) :
    (icAct r = 0 → tCallAct a b r args site s = tEnter (dword r 6 - 1) a.toNat b site s) ∧
    (icAct r = 1 → tCallAct a b r args site s = tNativeCall a (dword r 6) args s) ∧
    (icAct r = 2 → tCallAct a b r args site s = tFast a (dword r 6) args site s) := by
  refine ⟨fun h => ?_, fun h => ?_, fun h => ?_⟩ <;> simp only [tCallAct, h]

theorem tClass_immediate (hv : valueOk v = true) (ht : tagOf v ≠ 1) : tClass v s = .ok (if tagOf v = 0 then 0x8000000000000000
    else if tagOf v = 2 then 0x8000000000000001 else 0x8000000000000002, s) := bind_ok (tKind_immediate hv ht) _

theorem tClass_tensor (hk : tKind v s = .ok (some k, q)) (h : k = 1) : tClass v s = tRead (v + 15) 8 q :=
  (bind_ok hk _).trans (congrFun (if_pos h) q)

theorem tClass_object (hk : tKind v s = .ok (some k, q)) (h : k ≠ 1) (hr : tRead (v - 1) 8 q = .ok (w, q1)) :
    tClass v s = .ok (0xC000000000000000 + word (bits w 63 32), q1) :=
  (bind_ok hk _).trans ((congrFun (if_neg h) q).trans (bind_ok hr _))

end Calls

/-! ### `call`, `callm`, `native` and `ret` (R47, R267, R288) -/

section CallBytecodes
variable {s q q1 q2 q3 q4 q5 q6 q7 t : State} {a b c : BitVec 8} {ic : BitVec 16} {f v fb fn e site x : Word}
  {args cls : List Word} {r : Word × List Byte} {k : Option Nat}

/-- A bytecode that has made no access of its own enters the guard path at its pc. -/
theorem guard_outcome (h : s.bcClear = true) (n : Nat) (aux site : Word) :
    (Stop.guard n aux site).outcome s.spent = s.spent.guardEnter s.th.pc n aux site := by
  obtain ⟨-, -, ht, -⟩ := bcClear_cases h
  have hs : s.spent.th.trace = [] := ht
  simp only [Stop.outcome, State.untraced, hs, List.isEmpty_nil, if_true]
  rfl

/-- A clear bytecode of two words whose body comes to a guard leaves nothing else of what it did (R272, R283). -/
theorem bytecode_guards8 {i : Instr} {body : TM Unit} {n : Nat} (h : s.bcClear = true) (hi : codeBytes i = 8)
    (hb : body (s.advance 8) = .error (.guard n x site)) : bytecode i body s = .next (s.spent.guardEnter s.th.pc n x site) :=
  (bytecode_stop h hi hb rfl).trans (congrArg _ (guard_outcome h n x site))

section Call
variable (h : s.bcClear = true) (hf : tF a.toNat (s.advance 8) = .ok (f, q)) (hs : tSite ic q = .ok (site, q1))
  (hk : tKind f q1 = .ok (k, q2))
include h hf hs hk

theorem call_enters (h4 : k = some 4) (hargs : tArgs a b.toNat q2 = .ok (args, q3))
    (ht : tEach (tTouch site) args q3 = .ok ((), q4)) (he : tEnter (f - 1) a.toNat b.toNat site q4 = .ok ((), t)) :
    exec (.tCall a b ic) s = .next (s.bcEnds t) :=
  bytecode_ok8 h rfl (by
    subst h4
    rw [bind_ok hf, bind_ok hs, bind_ok hk]
    refine (congrFun (if_pos rfl) q2).trans ?_
    rw [bind_ok hargs, bind_ok ht, he])

theorem call_hits (h9 : k = some 9) (hb : b.toNat ≤ 4) (hargs : tArgs a b.toNat q2 = .ok (args, q3))
    (ht : tEach (tTouch site) args q3 = .ok ((), q4)) (hc : tAll tClass args q4 = .ok (cls, q5))
    (hl : tLookup ic 2 (fun e => icNarg e == b.toNat && dword e 1 == f && icKeys e cls) q5 = .ok (r, q6))
    (hact : tCallAct a b.toNat r.2 args site q6 = .ok ((), t)) : exec (.tCall a b ic) s = .next (s.bcEnds t) :=
  bytecode_ok8 h rfl (by
    subst h9
    rw [bind_ok hf, bind_ok hs, bind_ok hk]
    refine (congrFun ((if_neg (by decide)).trans (if_pos ⟨rfl, hb⟩)) q2).trans ?_
    rw [bind_ok hargs, bind_ok ht, bind_ok hc, bind_ok hl, hact])

theorem call_guards (h4 : k ≠ some 4) (h9 : ¬(k = some 9 ∧ b.toNat ≤ 4)) :
    exec (.tCall a b ic) s = .next (s.spent.guardEnter s.th.pc 5 0 site) :=
  bytecode_guards8 h rfl (by
    rw [bind_ok hf, bind_ok hs, bind_ok hk]
    cases k with
    | none => rfl
    | some n =>
      have hn : ¬n = kFunction := fun e => h4 (congrArg some e)
      have hb : ¬(n = kNativeFn ∧ b.toNat ≤ 4) := fun e => h9 ⟨congrArg some e.1, e.2⟩
      exact congrFun ((if_neg hn).trans (if_neg hb)) q2)

end Call

theorem callm_hits (h : s.bcClear = true) (hs : tSite ic (s.advance 8) = .ok (site, q)) (hb : b.toNat ≤ 4)
    (hf : tF (a.toNat + 3) q = .ok (f, q1)) (hargs : tArgs a b.toNat q1 = .ok (args, q2))
    (hf' : tTouch site f q2 = .ok ((), q3)) (ht : tEach (tTouch site) args q3 = .ok ((), q4)) (hx : tClass f q4 = .ok (x, q5))
    (hc : tAll tClass args q5 = .ok (cls, q6))
    (hl : tLookup ic 2 (fun e => icNarg e == b.toNat && dword e 1 == x && icKeys e cls) q6 = .ok (r, q7))
    (hact : tCallAct a b.toNat r.2 args site q7 = .ok ((), t)) : exec (.tCallm a b c ic) s = .next (s.bcEnds t) :=
  bytecode_ok8 h rfl (by
    rw [bind_ok hs, if_neg (Nat.not_lt.mpr hb), bind_ok hf, bind_ok hargs, bind_ok hf', bind_ok ht, bind_ok hx, bind_ok hc,
      bind_ok hl, hact])

theorem callm_guards (h : s.bcClear = true) (hs : tSite ic (s.advance 8) = .ok (site, q)) (hb : 4 < b.toNat) :
    exec (.tCallm a b c ic) s = .next (s.spent.guardEnter s.th.pc 5 0 site) :=
  bytecode_guards8 h rfl (by
    rw [bind_ok hs, if_pos hb]
    rfl)

theorem native_ends (h : s.bcClear = true) (hc : c.toNat ≤ 4) (hk : tK b.toNat (s.advance 4) = .ok (f, q)) (hf : tagOf f = 0)
    (hargs : tAll (fun i => tF (a.toNat + 1 + i)) (List.range c.toNat) q = .ok (args, q1))
    (hn : tNativeCall a (addrOf f) args q1 = .ok ((), t)) : exec (.tNative a b c) s = .next (s.bcEnds t) :=
  bytecode_ok4 h rfl (by
    rw [if_neg (Nat.not_lt.mpr hc), bind_ok hk, bind_ok (v := smallOf f) (q := q) (by rw [tInt, if_pos hf]; rfl), bind_ok hargs,
      hn])

theorem native_traps (h : s.bcClear = true) (hc : 4 < c.toNat) :
    exec (.tNative a b c) s = .next (s.spent.raise s.cur (.of .type (c.setWidth 64)) true) :=
  bytecode_traps h rfl (by
    rw [if_pos hc]
    rfl)

/-- The caller's frame and function, of which a frame holds the small integers (R267). -/
def State.backTo (q : State) (fb fn : Word) : State :=
  let y := q.setTh (q.th.setX 28 (addrOf fb))
  y.setTh (y.th.setX 29 (addrOf fn))

section Ret
variable (h : s.bcClear = true) (h28 : s.th.xPoison.contains 28 = false) (hv : tF a.toNat (s.advance 4) = .ok (v, q))
  (hfb : tRead (s.xr 28 - 16) 8 q = .ok (fb, q1)) (hfn : tRead (s.xr 28 - 8) 8 q1 = .ok (fn, q2)) (he : tPop q2 = .ok (e, q3))
  (hw : tWrite (s.xr 28 - 24) 8 v .plain q3 = .ok ((), q4))
include h h28 hv hfb hfn he hw

/-- `ret` stores its value and goes back to the caller's frame; the entry's mode says how it continues (R47, R267). -/
theorem ret_ends (hg : (if bit e 0 then tGo (e &&& ~~~3) else tNativeMode (e &&& ~~~3)) (q4.backTo fb fn) = .ok ((), t)) :
    exec (.tRet a) s = .next (s.bcEnds t) :=
  bytecode_ok4 h rfl (by
    rw [tX_bind (by rwa [advance_th_xPoison]), advance_xr, bind_ok hv, bind_ok hfb, bind_ok hfn, bind_ok he, bind_ok hw,
      bind_ok rfl, bind_ok rfl]
    exact hg)

theorem ret_bytecode (hm : e.getLsbD 0 = true) :
    exec (.tRet a) s = .next (s.bcEnds ((q4.backTo fb fn).jumpTo (e &&& ~~~3))) :=
  ret_ends h h28 hv hfb hfn he hw (congrFun (if_pos hm) _)

theorem ret_toNative (hm : e.getLsbD 0 = false) : exec (.tRet a) s = .next (s.bcEnds
    ((q4.backTo fb fn).setTh { (q4.backTo fb fn).th with tephra := false, pc := e &&& ~~~3, buf := [] })) :=
  ret_ends h h28 hv hfb hfn he hw (congrFun (if_neg (Bool.eq_false_iff.mp hm)) _)

end Ret

end CallBytecodes

/-! ### `uret` to bytecode (R165, R273) -/

section Uret
variable {s t : State} {h : Hdr} {kind : BitVec 2} {tr : Trap}

/-- `uret` to bytecode is for the guard handler of a user thread on a control core. -/
def State.mayUret (s : State) : Bool := s.th.cc && s.th.guard && !s.th.sup

theorem mayUret_iff : s.mayUret = true ↔ s.th.cc = true ∧ s.th.guard = true ∧ s.th.sup = false := by
  simp only [State.mayUret, Bool.and_eq_true, Bool.not_eq_true', and_assoc]

theorem past_mayUret (s : State) : (s.past.th.cc && s.past.th.guard && !s.past.th.sup) = s.mayUret := by
  rw [past_eq, advance_th]
  rfl

theorem uret_traps (hn : ¬(s.th.cc = true ∧ s.th.guard = true ∧ s.th.sup = false)) :
    s.clear (.uret h kind) = true → exec (.uret h kind) s = .next (s.trapNow (.of .illegalOp (Instr.uret h kind).word)) :=
  traps_of_trap rfl fun _ => by
    rw [past_mayUret, Bool.eq_false_iff.mpr (mt mayUret_iff.mp hn)]
    rfl

/-- The thread back in bytecode at X21, its guard bit cleared (R273). -/
def State.resumed (s : State) : State :=
  s.past.setTh { s.past.th with guard := false, tephra := true, pc := s.xr 21, buf := [] }

theorem past_uretMode (hh : s.th.held = none) : s.past.uretMode = s.resumed := by
  rw [State.uretMode, past_arg hh]
  rfl

theorem resumed_untraced (ht : s.th.trace = []) : s.resumed.untraced = s.resumed := by
  have hr : s.resumed.th.trace = [] := by
    rw [State.resumed, th_setTh]
    exact (advance_th_trace s 8).trans ht
  rw [State.untraced, hr]
  rfl

theorem uret_resumes (hm : s.mayUret = true) (hx : s.xr 23 = 0) : Completes (.uret h kind) s s.resumed :=
  completes_of_done rfl fun hh => by
    rw [past_mayUret, hm, past_arg hh, past_uretMode hh]
    exact if_pos hx

/-- With a value to raise, a drained thread runs the body of `raise` on it. -/
theorem uret_raises (hm : s.mayUret = true) (hx : s.xr 23 ≠ 0) (hd : s.drained s.cur = true)
    (hr : s.th.held = none → s.past.uretRaise = .done t) : Completes (.uret h kind) s t :=
  completes_of_done rfl fun hh => by
    have hdp : s.past.drained s.past.cur = true := (advance_drained s 8).trans hd
    rw [past_mayUret, hm, past_arg hh, hdp, ← hr hh]
    exact if_neg hx

theorem uretRaise_ok (hh : s.th.held = none) (hr : tRaise (s.xr 23) (s.past.burst 0).uretMode = .ok ((), t)) :
    s.past.uretRaise = .done t.spent := by
  have hv : s.past.arg ⟨false, 23⟩ = s.xr 23 := past_arg hh _
  rw [State.uretRaise, tRun, hv, hr]
  rfl

theorem uretRaise_stops {e : Stop} (hh : s.th.held = none) (hr : tRaise (s.xr 23) (s.past.burst 0).uretMode = .error e)
    (he : e.final = true) : s.past.uretRaise = .done (e.outcome s.resumed) := by
  have hv : s.past.arg ⟨false, 23⟩ = s.xr 23 := past_arg hh _
  rw [State.uretRaise, tRun, hv, hr, ← past_uretMode hh]
  cases e with
  | wait | next => cases he
  | trap | park | guard | guardIn => rfl

theorem uret_raised (hm : s.mayUret = true) (hx : s.xr 23 ≠ 0) (hd : s.drained s.cur = true)
    (hr : tRaise (s.xr 23) (s.past.burst 0).uretMode = .ok ((), t)) : Completes (.uret h kind) s t.spent :=
  uret_raises hm hx hd fun hh => uretRaise_ok hh hr

theorem uret_raise_traps (hm : s.mayUret = true) (hx : s.xr 23 ≠ 0) (hd : s.drained s.cur = true) (ht : s.th.trace = [])
    (hr : tRaise (s.xr 23) (s.past.burst 0).uretMode = .error (.trap tr)) :
    Completes (.uret h kind) s (s.resumed.raise s.cur tr true) :=
  uret_raises hm hx hd fun hh => by
    rw [uretRaise_stops hh hr rfl, Stop.outcome, resumed_untraced ht]
    rfl

/-- Where no handler is installed, a `raise` enters the guard path with reason 8 (R268). -/
theorem tRaise_unhandled {q : State} {v : Word} (h31 : q.th.xPoison.contains 31 = false) (hz : q.xr 31 = 0) :
    tRaise v q = .error (.guard 8 v 0) := by
  unfold tRaise
  rw [tX_bind h31, if_pos hz]
  rfl

/-- The registers and their poison stay when the mode changes. -/
theorem burst_uretMode (s : State) : let q := (s.past.burst 0).uretMode
    q.th.xPoison = s.th.xPoison ∧ q.xr 31 = s.xr 31 := by
  refine ⟨?_, ?_⟩
  · rw [State.uretMode, th_setTh]
    exact advance_th_xPoison s 8
  · rw [State.xr, State.uretMode, th_setTh]
    exact past_xr s 31

theorem uret_unhandled (hm : s.mayUret = true) (hx : s.xr 23 ≠ 0) (hd : s.drained s.cur = true) (ht : s.th.trace = [])
    (hz : s.xr 31 = 0) (h31 : s.th.xPoison.contains 31 = false) :
    Completes (.uret h kind) s (s.resumed.guardEnter (s.xr 21) 8 (s.xr 23) 0) :=
  uret_raises hm hx hd fun hh => by
    obtain ⟨hp, hr31⟩ := burst_uretMode s
    have hpc : s.resumed.th.pc = s.xr 21 := by rw [State.resumed, th_setTh]
    rw [uretRaise_stops hh (tRaise_unhandled (by rwa [hp]) (hr31.trans hz)) rfl, Stop.outcome, resumed_untraced ht, hpc]

end Uret

/-- Settles O53: each body by the steps that it takes, each of which succeeds or is its last. -/
theorem bytecodeTransfers : Obligations.BytecodeTransfers := by
  unfold Obligations.BytecodeTransfers
  refine ⟨fun s a b off w24 v w y z i l st q q1 q2 q3 q4 q5 t => ?jumps,
    fun s q q1 q2 q3 q4 q5 fn target site w code e v a b args rest r k => ?calls,
    fun s h kind a b c ic f v fb fn e site x args cls r k tr q q1 q2 q3 q4 q5 q6 q7 t => ?bytecodes⟩
  case jumps =>
    intro p n ends go falsy fits hc
    refine ⟨jmp_ends hc w24, fun hr hv => ?branches, fun hf h0 h1 h2 => ?loops, fun hr ht hk hv hz => iter_ends hc hr ht hk hv hz,
      fun hr hk hx hi hlen => ⟨next_ends hc hr hk hx hi hlen, fun h0 hin hd he q6 hs hn =>
        next_gives hc hr hk hx hi hlen h0 hin hd he hs hn⟩, halt_ends hc⟩
    case branches =>
      obtain ⟨hjt, hjf⟩ := branches_end (off := off) hc hr hv
      refine ⟨fun hfalsy => ?_, fun hfalsy => ?_⟩
      · have hv : isFalse v = true := (isFalse_iff v).mpr hfalsy
        rw [hv] at hjt hjf
        exact ⟨hjf, hjt⟩
      · have hv : isFalse v = false := Bool.eq_false_iff.mpr (mt (isFalse_iff v).mp hfalsy)
        rw [hv] at hjt hjf
        exact ⟨hjt, hjf⟩
    case loops =>
      obtain ⟨hi, hl, hst⟩ := hf
      refine ⟨fun hz hfit hw => ?_, fun hz hfit => ⟨q2.forprepIndex i st, fun t => ⟨tagOf_forprepIndex q2 i st, fun hw =>
        forprep_ends hc hi hl hst h0 h1 h2 hz hw⟩⟩, fun hz => forprep_zero hc hi hl hst h0 h1 h2 hz,
        fun hfit => forloop_leaves hc hi hl hst h0 h1 h2 hfit, fun hfit hw =>
        ⟨fun hn => forloop_ends hc hi hl hst h0 h1 h2 hfit hw hn, fun hn ht =>
          forloop_repeats hc hi hl hst h0 h1 h2 hfit hw hn ht⟩⟩
      have hindex : q2.forprepIndex i st = mkInt (i - st) := if_pos hfit
      exact forprep_ends hc hi hl hst h0 h1 h2 hz (hindex ▸ hw)
  case calls =>
    obtain ⟨henter, hnative, hlaunch⟩ := tCallAct_cases (s := s) (site := site) (b := b) (args := args) (r := r) a
    exact ⟨tPush_room, fun hl => ⟨tPush_overflows hl, tPush_spills hl⟩, tPop_newest, tPop_underflows, tPop_refills,
      fun h28 hw h30 => ⟨tEnter_tooLong h28 hw h30, tEnter_miscounted h28 hw h30, tEnter_ok h28 hw h30⟩, tNativeCall_spec,
      henter, hnative, hlaunch, tClass_immediate, fun hk => ⟨tClass_tensor hk, tClass_object hk⟩⟩
  case bytecodes =>
    refine ⟨fun hc => ⟨fun hf hs hk => ⟨call_enters hc hf hs hk, call_hits hc hf hs hk, call_guards hc hf hs hk⟩,
      fun hs => ⟨callm_hits hc hs, callm_guards hc hs⟩, native_ends hc, native_traps hc, fun h28 hv hfb hfn he hw => ?ret⟩,
      fun hcc hg hs => ?uret, uret_traps⟩
    case ret => exact ⟨ret_bytecode hc h28 hv hfb hfn he hw, ret_toNative hc h28 hv hfb hfn he hw⟩
    case uret =>
      have hm : s.mayUret = true := mayUret_iff.mpr ⟨hcc, hg, hs⟩
      exact ⟨uret_resumes hm, uret_raised hm, uret_raise_traps hm, uret_unhandled hm⟩

end Sys2Proof.Machine
end

section
/-! PROOFS. Group 0x6 (R92, R94, R178, R180 to R187): the vector functions. -/

namespace Sys2Proof.Machine

/-! ### What the vector functions read in the issue turn (R176, R178) -/

section Past
variable (s : State)

theorem past_getLane (v r l : Nat) : s.past.th.getLane v r l = s.th.getLane v r l := by
  rw [Thread.getLane, past_eq, advance_th_v]
  rfl

theorem past_activeRows : s.past.th.activeRows = s.th.activeRows := by
  rw [past_eq, advance_th]
  rfl

theorem past_activeLanes : s.past.th.activeLanes = s.th.activeLanes := by
  rw [past_eq, advance_th]
  rfl

theorem past_active : s.past.th.active = s.th.active := by
  rw [past_eq, advance_th]
  rfl

theorem past_laneB (m : M6) (vb : BitVec 4) (x : Opnd) (r l : Nat) : s.past.laneB m vb x r l = s.laneB m vb x r l := by
  simp only [State.laneB, past_reg, past_getLane]

theorem past_reduce (va : BitVec 4) (et op mode : Nat) : s.past.reduce va et op mode = s.reduce va et op mode := by
  simp only [State.reduce, past_getLane, past_activeRows, past_activeLanes]

theorem past_cvtRow (vd va : BitVec 4) (src dst : Ty) (mode : Nat) (sat : Bool) (p r : Nat) :
    s.past.cvtRow vd va src dst mode sat p r = s.cvtRow vd va src dst mode sat p r := by
  simp only [State.cvtRow, past_getLane, past_activeLanes]

end Past

/-! ### A function of each active element (R178) -/

/-- A vector function of the state in which it is issued opens one result, which has a lane for each active position. -/
def State.vectorResult (s : State) (vd : BitVec 4) (f : Nat → Nat → Flagged Lane) : State :=
  s.past.openOut [.vec vd] (.done (lanesOf vd s.th.active f)) 0

/-- A lane's value turns on what the function gives for the lane's elements alone. -/
theorem laneMap_congr {w : Nat} {f g : Nat → Nat → Nat → Flagged Nat} {a b c a' b' c' : Lane}
    (h : ∀ e, f (elemOf w e a) (elemOf w e b) (elemOf w e c) = g (elemOf w e a') (elemOf w e b') (elemOf w e c')) :
    laneMap w f a b c = laneMap w g a' b' c' := by
  simp only [laneMap, h]

section Elements
variable {s : State} {i : Instr} {vd va vb vc : BitVec 4} {x : Opnd} {m : M6}
  {f : State → Nat → Nat → Nat → Flagged Nat} {g : Nat → Nat → Nat → Flagged Nat}

/-- What every function of `vecOp` does in its issue turn, given what its lanes come to. -/
theorem vecOp_lanes {lane : Nat → Nat → Flagged Lane} (he : exec i s = vecOp i vd va vb vc x m f s)
    (hlane : ∀ r l, laneMap (Ty.ofEt m.et.toNat).width (f s.past) (s.th.getLane va.toNat r l) (s.laneB m vb x r l)
      (s.th.getLane vc.toNat r l) = lane r l) : Completes i s (s.vectorResult vd lane) :=
  completes_of_done he fun _ => by
    simp only [past_getLane, past_laneB, past_active, hlane]
    rfl

/-- A function of three elements. -/
theorem vecOp_ternary (he : exec i s = vecOp i vd va vb vc x m f s) (hf : ∀ a b c, f s.past a b c = g a b c) :
    Completes i s (s.vectorResult vd fun r l => laneMap (Ty.ofEt m.et.toNat).width g (s.th.getLane va.toNat r l)
      (s.laneB m vb x r l) (s.th.getLane vc.toNat r l)) :=
  vecOp_lanes he fun _ _ => laneMap_congr fun _ => hf ..

/-- A function of two elements, whatever lanes stand in the third place. -/
theorem vecOp_binary {third : Nat → Nat → Lane} (he : exec i s = vecOp i vd va vb vc x m f s)
    (hf : ∀ a b c c', f s.past a b c = g a b c') :
    Completes i s (s.vectorResult vd fun r l => laneMap (Ty.ofEt m.et.toNat).width g (s.th.getLane va.toNat r l)
      (s.laneB m vb x r l) (third r l)) :=
  vecOp_lanes he fun _ _ => laneMap_congr fun _ => hf ..

/-- A function of one element, which has no broadcast, whatever lanes stand in the other places. -/
theorem vecOp_unary {second third : Nat → Nat → Lane}
    (he : exec i s = vecOp i vd va 0 0 Opnd.zero { m with bs := false } f s)
    (hf : ∀ a b b' c c', f s.past a b c = g a b' c') :
    Completes i s (s.vectorResult vd fun r l => laneMap (Ty.ofEt m.et.toNat).width g (s.th.getLane va.toNat r l)
      (second r l) (third r l)) :=
  vecOp_lanes he fun _ _ => laneMap_congr fun _ => hf ..

end Elements

/-! ### The functions that move lanes, reduce and convert (R185 to R187) -/

section Moves
variable {s : State} {h : Hdr} {vd va vb : BitVec 4} {x : Opnd} {m : M6}

theorem vbcast_completes : Completes (.vbcast h vd x m) s
    (s.vectorResult vd fun r l => (s.laneB { m with bs := true } 0 x r l, 0)) :=
  completes_of_done rfl fun _ => by
    simp only [past_laneB, past_active]
    rfl

theorem vperm_completes : Completes (.vperm h vd va vb x m) s (s.vectorResult vd fun r l =>
    let b := if m.bs then (s.reg x).toNat else (s.th.getLane vb.toNat r l).toNat
    (s.th.getLane va.toNat (b / 64 % Config.vrows s.part) (b % 64), 0)) :=
  completes_of_done rfl fun _ => by
    simp only [past_getLane, past_reg, past_active]
    rfl

theorem vred_completes : let red := s.reduce va m.et.toNat m.cond.toNat (s.mode m.rnd)
    Completes (.vred h va x m) s
      (s.past.openOut [.reg x] (.done [.reg x (redWord m.et.toNat red.1), .flags red.2]) 0) :=
  completes_of_done rfl fun _ => by
    simp only [past_reduce, past_mode]
    rfl

/-- The part of a row that a `vcvt` converts (R187). -/
def cvtPart (m : M6) (n : Nat) : Nat :=
  n % (max (32 / (Ty.ofEt m.et.toNat).width) (32 / (Ty.ofCode m.tgt.toNat).width) /
    min (32 / (Ty.ofEt m.et.toNat).width) (32 / (Ty.ofCode m.tgt.toNat).width))

/-- What `vcvt` makes of one row: the lanes that it writes, and its flags. -/
def State.cvtLanes (s : State) (vd va : BitVec 4) (x : Opnd) (m : M6) (r : Nat) : List Write × Word :=
  s.cvtRow vd va (Ty.ofEt m.et.toNat) (Ty.ofCode m.tgt.toNat) (s.mode m.rnd) m.sat (cvtPart m (s.reg x).toNat) r

theorem vcvt_completes : ∃ ws : List Write, Completes (.vcvt h vd va x m) s (s.past.openOut [.vec vd] (.done ws) 0) ∧
    ws.dropLast = s.th.activeRows.flatMap fun r => (s.cvtLanes vd va x m r).1 := by
  let rows := s.th.activeRows.map (s.cvtLanes vd va x m)
  refine ⟨rows.flatMap (·.1) ++ [.flags (rows.foldl (fun f r => f ||| r.2) 0)], completes_of_done rfl fun _ => ?_, ?_⟩
  · have hrow : s.past.cvtRow vd va = s.cvtRow vd va := by
      funext src dst mode sat p r
      exact past_cvtRow ..
    simp only [hrow, past_reg, past_mode, past_activeRows]
    rfl
  · rw [List.dropLast_concat, List.flatMap_map]

end Moves

/-! ### The tree of a reduction (R94) -/

section Tree
variable {f : Nat → Nat → Flagged Nat}

/-- One level of the tree, over a list that is given by index. -/
theorem pairUp_range (g : Nat → Flagged Nat) (n : Nat) : pairUp f ((List.range (2 * n)).map g) =
    (List.range n).map fun i => ((f (g (2 * i)).1 (g (2 * i + 1)).1).1,
      (g (2 * i)).2 ||| (g (2 * i + 1)).2 ||| (f (g (2 * i)).1 (g (2 * i + 1)).1).2) := by
  induction n generalizing g with
  | zero => rfl
  | succ n ih =>
    have htwo : List.range (2 * (n + 1)) = 0 :: 1 :: (List.range (2 * n)).map (· + 2) := by
      rw [Nat.mul_succ, List.range_succ_eq_map, List.range_succ_eq_map, List.map_cons, List.map_map]
      rfl
    rw [htwo, List.map_cons, List.map_cons, List.map_map, pairUp, ih, List.range_succ_eq_map, List.map_cons, List.map_map]
    rfl

/-- A row of 2^k nodes of one level is reduced to the one node `k` levels above, and stays as it is in the levels that remain. -/
theorem treeOf_nodes (leaf : Nat → Flagged Nat) {k n : Nat} (j : Nat) (hk : k ≤ n) :
    treeOf f n ((List.range (2 ^ k)).map (treeNode f leaf j)) = treeNode f leaf (j + k) 0 := by
  induction n generalizing k j with
  | zero =>
    obtain rfl := Nat.le_zero.mp hk
    rfl
  | succ n ih =>
    cases k with
    | zero => exact ih j (Nat.zero_le n)
    | succ k =>
      rw [treeOf, Nat.pow_succ', pairUp_range]
      exact (ih (j + 1) (Nat.le_of_succ_le_succ hk)).trans (by rw [Nat.add_right_comm, Nat.add_assoc])

/-- The elements of a row are a power of two, of at most 256. -/
theorem rowElements_pow {et : Nat} (h : et < 7) : ∃ k ≤ 8, 64 * (32 / (Ty.ofEt et).width) = 2 ^ k := by
  match et, h with
  | 0, _ | 3, _ => exact ⟨6, by decide, rfl⟩
  | 1, _ | 2, _ | 4, _ => exact ⟨7, by decide, rfl⟩
  | 5, _ | 6, _ => exact ⟨8, by decide, rfl⟩

/-- The tree of a row is its topmost node. -/
theorem treeOf_row {et : Nat} (h : et < 7) (leaf : Nat → Flagged Nat) :
    let n := 64 * (32 / (Ty.ofEt et).width)
    treeOf f 8 ((List.range n).map leaf) = treeNode f leaf (Nat.log2 n) 0 := by
  obtain ⟨k, hk, hn⟩ := rowElements_pow h
  simp only [hn, Nat.log2_two_pow]
  exact (treeOf_nodes leaf 0 hk).trans (by rw [Nat.zero_add])

end Tree

section Reduction
variable (s : State) (va : BitVec 4) {et : Nat} (op mode : Nat)

/-- An element of a row as a reduction takes it: that of an inactive lane is the identity (R185). -/
def State.redLeaf (s : State) (va : BitVec 4) (et op r i : Nat) : Flagged Nat :=
  let k := 32 / (Ty.ofEt et).width
  if i / k < s.th.activeLanes then (elemOf (Ty.ofEt et).width (i % k) (s.th.getLane va.toNat r (i / k)), 0)
  else (redIdentity et op, 0)

theorem redLeaf_eq (r i : Nat) : s.redLeaf va et op r i =
    (if i / (32 / (Ty.ofEt et).width) < s.th.activeLanes then
      elemOf (Ty.ofEt et).width (i % (32 / (Ty.ofEt et).width)) (s.th.getLane va.toNat r (i / (32 / (Ty.ofEt et).width)))
      else redIdentity et op, 0) :=
  (apply_ite (·, (0 : Word)) ..).symm

/-- A row reduced by its tree (R94). -/
def State.redRow (s : State) (va : BitVec 4) (et op mode r : Nat) : Flagged Nat :=
  treeNode (redStep et op mode) (s.redLeaf va et op r) (Nat.log2 (64 * (32 / (Ty.ofEt et).width))) 0

/-- No active row leaves the identity. -/
theorem reduce_noRow (hr : s.th.activeRows = []) : s.reduce va et op mode = (redIdentity et op, 0) := by
  simp only [State.reduce, hr]

/-- The trees of the active rows are combined in the rows' order. -/
theorem reduce_rows (het : et < 7) {r : Nat} {rs : List Nat} (hr : s.th.activeRows = r :: rs) : s.reduce va et op mode =
    rs.foldl (fun acc n =>
      let y := redStep et op mode acc.1 (s.redRow va et op mode n).1
      (y.1, acc.2 ||| (s.redRow va et op mode n).2 ||| y.2)) (s.redRow va et op mode r) := by
  simp only [State.reduce, hr, ← redLeaf_eq, treeOf_row het]
  rfl

end Reduction

/-- Settles O26: each function by its elements, with what it reads as it was before the issue; the reduction by its tree. -/
theorem vectorFunctions : Obligations.VectorFunctions := by
  unfold Obligations.VectorFunctions
  refine ⟨fun s h vd va vb vc x m => ?arithmetic, fun s h vd va vb vc x m => ?others, fun s va et op mode het _ => ?tree,
    by decide, by decide, by decide⟩
  case arithmetic =>
    intro p w mode each one num
    refine ⟨vecOp_binary rfl ?vadd, vecOp_binary rfl ?vsub, vecOp_binary rfl ?vmul,
      vecOp_ternary rfl fun _ _ _ => by rw [past_mode],
      vecOp_binary rfl fun _ _ _ _ => rfl, vecOp_binary rfl fun _ _ _ _ => rfl, vecOp_unary rfl fun _ _ _ _ _ => rfl,
      vecOp_unary rfl fun _ _ _ _ _ => rfl, vecOp_unary rfl fun _ _ _ _ _ => rfl, vecOp_unary rfl fun _ _ _ _ _ => rfl,
      vecOp_unary rfl fun _ _ _ _ _ => rfl, vecOp_unary rfl fun _ _ _ _ _ => rfl⟩
    case vadd | vsub | vmul =>
      intros
      rw [past_mode]
      rfl
  case others =>
    intro p et w mode put each red
    exact ⟨vecOp_binary rfl fun _ _ _ _ => rfl, vecOp_binary rfl fun _ _ _ _ => rfl, vecOp_binary rfl fun _ _ _ _ => rfl,
      vecOp_binary rfl fun _ _ _ _ => rfl, vecOp_binary rfl fun _ _ _ _ => rfl, vecOp_ternary rfl fun _ _ _ => rfl,
      vecOp_binary rfl fun _ _ _ _ => by rw [past_mode, past_reg], vecOp_unary rfl fun _ _ _ _ _ => rfl, vbcast_completes,
      vperm_completes, vred_completes, vcvt_completes⟩
  case tree => exact ⟨reduce_noRow s va op mode, fun _ _ hr => reduce_rows s va op mode het hr⟩

end Sys2Proof.Machine
end

section
/-! PROOFS. Vector registers (R51, R52, R174 to R176, R178): the lanes that a result writes, `setshape` and `vact`. -/

namespace Sys2Proof.Machine

/-! ### The lanes of a thread (R178) -/

section Lanes
variable {t : Thread} {v w : BitVec 4} {r l r' l' : Nat} {x : Lane} {act : List (Nat × Nat)} {f : Nat → Nat → Flagged Lane}

theorem getLane_setLane_same (t : Thread) (v r l : Nat) (x : Lane) : (t.setLane v r l x).getLane v r l = x :=
  get_set ..

/-- Positions within the 4 rows of 64 lanes of the registers share no storage. -/
theorem getLane_setLane_ne (hr : r < 4) (hl : l < 64) (hr' : r' < 4) (hl' : l' < 64) (h : v ≠ w ∨ (r, l) ≠ (r', l')) :
    (t.setLane w.toNat r' l' x).getLane v.toNat r l = t.getLane v.toNat r l := by
  refine get_set_ne _ _ _ fun hkey => ?_
  have hv : v = w := BitVec.eq_of_toNat_eq (by omega)
  have hp : (r, l) = (r', l') := Prod.ext (by simp only; omega) (by simp only; omega)
  exact h.elim (· hv) (· hp)

/-- A thread whose register `vd` has received the lanes of a result at the positions `act`. -/
def Thread.setLanes (vd : BitVec 4) (f : Nat → Nat → Flagged Lane) (act : List (Nat × Nat)) (t : Thread) : Thread :=
  forEach (fun q t => t.setLane vd.toNat q.1 q.2 (f q.1 q.2).1) act t

/-- A part of the thread that no write of a lane changes stays as it is. -/
theorem setLanes_keeps {γ : Type} (g : Thread → γ) (hg : ∀ t v r l x, g (Thread.setLane t v r l x) = g t) :
    g (t.setLanes v f act) = g t :=
  forEach_reads g (fun _ _ => hg ..) act t

theorem setLanes_x : (t.setLanes v f act).x = t.x := setLanes_keeps Thread.x fun _ _ _ _ _ => rfl
theorem setLanes_place : (t.setLanes v f act).place = t.place := setLanes_keeps Thread.place fun _ _ _ _ _ => rfl
theorem setLanes_flags : (t.setLanes v f act).flags = t.flags := setLanes_keeps Thread.flags fun _ _ _ _ _ => rfl

theorem getLane_setLanes_other (hact : ∀ q ∈ act, q.1 < 4 ∧ q.2 < 64) (hr : r < 4) (hl : l < 64)
    (h : v ≠ w ∨ (r, l) ∉ act) : (t.setLanes w f act).getLane v.toNat r l = t.getLane v.toNat r l := by
  induction act generalizing t with
  | nil => rfl
  | cons q rest ih =>
    obtain ⟨⟨hr', hl'⟩, hrest⟩ := List.forall_mem_cons.mp hact
    calc ((t.setLane w.toNat q.1 q.2 (f q.1 q.2).1).setLanes w f rest).getLane v.toNat r l
      _ = (t.setLane w.toNat q.1 q.2 (f q.1 q.2).1).getLane v.toNat r l :=
        ih hrest (h.imp_right fun hn hm => hn (List.mem_cons_of_mem q hm))
      _ = t.getLane v.toNat r l := getLane_setLane_ne hr hl hr' hl' (h.imp_right List.ne_of_not_mem_cons)

theorem getLane_setLanes_active (hact : ∀ q ∈ act, q.1 < 4 ∧ q.2 < 64) (h : (r, l) ∈ act) :
    (t.setLanes v f act).getLane v.toNat r l = (f r l).1 := by
  induction act generalizing t with
  | nil => exact absurd h List.not_mem_nil
  | cons q rest ih =>
    obtain ⟨hq, hrest⟩ := List.forall_mem_cons.mp hact
    by_cases hm : (r, l) ∈ rest
    · exact ih hrest hm
    · obtain rfl : (r, l) = q := (List.mem_cons.mp h).resolve_right hm
      exact (getLane_setLanes_other hrest hq.1 hq.2 (.inr hm)).trans (getLane_setLane_same ..)

end Lanes

/-! ### The return of a vector result (R176, R178) -/

section Returned
variable {s : State} {u : Nat} {vd : BitVec 4} {act : List (Nat × Nat)} {f : Nat → Nat → Flagged Lane}

/-- Two changes of a thread are one. -/
theorem onThread_onThread (s : State) (u : Nat) (g k : Thread → Thread) :
    (s.onThread u g).onThread u k = s.onThread u fun t => k (g t) := by
  by_cases hl : has s.threads u = true
  · have hl' : has (s.onThread u g).threads u = true := has_onThread.trans hl
    rw [onThread_live _ _ _ hl', thread_onThread hl, onThread_live _ _ _ hl, onThread_live _ _ _ hl, setThread_setThread]
  · have hd : has s.threads u = false := Bool.eq_false_iff.mpr hl
    simp only [onThread_dead _ _ _ hd]

/-- The writes of lanes and then of flags, as one change of the thread. -/
theorem writeAll_lanes (w : Word) : s.writeAll u [] (act.map (fun q => .lane vd q.1 q.2 (f q.1 q.2).1) ++ [.flags w]) =
    s.onThread u fun t => (t.setLanes vd f act).flag w := by
  induction act generalizing s with
  | nil => rfl
  | cons q rest ih =>
    have hstep : s.writeAll u [] ((q :: rest).map (fun q => .lane vd q.1 q.2 (f q.1 q.2).1) ++ [.flags w]) =
        (s.onThread u (·.setLane vd.toNat q.1 q.2 (f q.1 q.2).1)).writeAll u []
          (rest.map (fun q => .lane vd q.1 q.2 (f q.1 q.2).1) ++ [.flags w]) := rfl
    rw [hstep, ih, onThread_onThread]
    rfl

/-- A vector result changes the lanes of its active positions and adds its flags. -/
theorem writeAll_lanesOf : s.writeAll u [] (lanesOf vd act f) =
    s.onThread u fun t => (t.setLanes vd f act).flag (act.foldl (fun w q => w ||| (f q.1 q.2).2) 0) :=
  writeAll_lanes _

theorem writeAll_lanesOf_thread (hl : has s.threads u = true) : (s.writeAll u [] (lanesOf vd act f)).thread u =
    ((s.thread u).setLanes vd f act).flag (act.foldl (fun w q => w ||| (f q.1 q.2).2) 0) := by
  rw [writeAll_lanesOf, thread_onThread hl]

theorem writeAll_lanesOf_regOf (r : Opnd) : (s.writeAll u [] (lanesOf vd act f)).regOf u r = s.regOf u r := by
  rw [writeAll_lanesOf]
  exact regOf_onThread (fun _ => setLanes_x) (fun _ => setLanes_place)

end Returned

/-! ### `setshape` and `vact` (R51, R52, R174, R175) -/

section Shape
variable {s : State} {h : Hdr} {d a b : Opnd}

/-- The shape granted is less than was asked for when the request is more than the unit has. -/
theorem shapeOf_less (part : Part) (rq lq : Nat) :
    (shapeOf part rq lq).2.2 = decide (Config.vrows part < rq ∨ 64 < lq) := by
  rw [Bool.eq_iff_iff]
  simp only [shapeOf, Bool.or_eq_true, Bool.and_eq_true, bne_iff_ne, decide_eq_true_eq]
  rw [Config.vlanes]
  split <;> split <;> omega

/-- The thread's shape, all of it active (R174). -/
def State.shaped (s : State) (rows lanes : Nat) : State :=
  s.setTh { s.th with vshape := word (lanes * 256 + rows), vact := word (lanes * 256 + (2 ^ rows - 1)) }

theorem setshape_completes :
    let rq := (s.reg a).toNat
    let lq := (s.reg b).toNat
    let rows := if rq = 0 then Config.vrows s.part else min rq (Config.vrows s.part)
    let lanes := if lq = 0 then 64 else min lq 64
    let q := if Config.vrows s.part < rq ∨ 64 < lq then s.past.warnBit wSHAPE else s.past
    Completes (.setshape h d a b) s
      ((q.shaped rows lanes).openOut [.reg d] (.done [.reg d (word (lanes * 256 + rows))]) 0) :=
  completes_of_done rfl fun _ => by
    simp only [past_reg, shapeOf_less, decide_eq_true_eq]
    rfl

theorem vact_completes :
    let q := s.past.setTh { s.past.th with vact := word (min (s.reg a).toNat 64 * 256 + (s.reg b).toNat % 16) }
    Completes (.vact h d a b) s (q.openOut [.reg d] (.done [.reg d (word q.th.active.length)]) 0) :=
  completes_of_done rfl fun _ => by
    simp only [past_reg]
    rfl

end Shape

/-- Settles O27: the return of a result as one change of its thread; `setshape` and `vact` by what their turn writes. -/
theorem vectorLanesAndShape : Obligations.VectorLanesAndShape := by
  unfold Obligations.VectorLanesAndShape
  refine ⟨fun s u vd act f hl hact => ?lanes, fun s h d a b => ⟨setshape_completes, vact_completes⟩⟩
  case lanes =>
    intro t
    have hth : t.thread u = _ := writeAll_lanesOf_thread hl
    refine ⟨fun r l hm => ?_, fun v r l hr hl' ho => ?_, writeAll_lanesOf_regOf, writeAll_mem .., ?_⟩ <;> rw [hth]
    · exact getLane_setLanes_active hact hm
    · exact getLane_setLanes_other hact hr hl' ho
    · exact congrArg (· ||| _) setLanes_flags

end Sys2Proof.Machine
end

section
/-! PROOFS. Vector memory (R188 to R191): loads and stores of whose elements all pass their checks. -/

namespace Sys2Proof.Machine

section Elements
variable {s : State} {isLoad acq rel : Bool} {size k sco : Nat} {els : List VElem} {l : List (VElem × Tr)}
  {dsts : List Dst} {fin : Fin} {op : Nat → VElem → AccOp}

/-- Elements that are all ready go out in their order, for one outstanding result. -/
theorem vecAccess_goes (h : s.elemsReady isLoad size k els l) : s.vecAccess isLoad size k els dsts fin op acq rel sco =
    .done (State.sendElems s.next size k op acq rel sco 0 l (s.openOut dsts fin l.length)) := by
  obtain ⟨hfence, hwalks, hchecks⟩ := h
  have hnone : s.fenced isLoad (!isLoad) ++ els.flatMap (fun e => s.walkAfter e.va k) = [] := by
    rw [hfence, List.nil_append, List.flatMap_eq_nil_iff]
    exact hwalks
  simp only [State.vecAccess, hnone, hchecks, ne_eq, not_true_eq_false, if_false]

end Elements

section Forms
variable {s : State} {i : Instr} {vd : BitVec 4} {x : Opnd} {m : M7} {l : List (VElem × Tr)}
  {idx : State → Nat → Nat → Nat → Int}

/-- A vector load whose elements all pass: one result for `vd`, which one access for each active element fills. -/
def State.loadSent (s : State) (vd : BitVec 4) (x : Opnd) (m : M7) (l : List (VElem × Tr)) (idx : Nat → Nat → Nat → Int) :
    State :=
  let et := m.et.toNat
  let f := s.past.memFmt (s.reg x) m.mf
  let els := s.past.velems (s.reg x) et (fmtBits f et) idx
  State.sendElems s.past.next (elemBytes (fmtBits f et)) kRead (fun _ _ => .load) (m.ord != 0) (m.ord == 3) m.sco.toNat 0 l
    (s.past.openOut [.vec vd] (.lanes vd (els.map fun e => (64 * e.row + e.lane, e.e)) et f) l.length)

/-- What a vector store puts into memory for an element, with the flags of its conversion (R189). -/
def State.storedElem (s : State) (vd : BitVec 4) (x : Opnd) (m : M7) (e : VElem) : Flagged Nat :=
  storeElem m.et.toNat (s.past.memFmt (s.reg x) m.mf)
    (elemOf (Ty.ofEt m.et.toNat).width e.e (s.th.getLane vd.toNat e.row e.lane))

/-- A vector store whose elements all pass: one result with the flags of all, and an access for each active element. -/
def State.storeSent (s : State) (vd : BitVec 4) (x : Opnd) (m : M7) (l : List (VElem × Tr)) (idx : Nat → Nat → Nat → Int) :
    State :=
  let et := m.et.toNat
  let wb := fmtBits (s.past.memFmt (s.reg x) m.mf) et
  State.sendElems s.past.next (elemBytes wb) kWrite
    (fun _ e => if wb = 4 then .storeNib (e.nib == 1) (BitVec.ofNat 4 (s.storedElem vd x m e).1)
      else .store (toBytes (elemBytes wb) (s.storedElem vd x m e).1)) (m.ord == 3) (m.ord != 0) m.sco.toNat 0 l
    (s.past.openOut [] (.done [.flags ((s.past.velems (s.reg x) et wb idx).foldl
      (fun w e => w ||| (s.storedElem vd x m e).2) 0)]) l.length)

/-- The elements of a vector instruction at an index, ready to go out with their translations. -/
def State.vectorReady (s : State) (x : Opnd) (m : M7) (l : List (VElem × Tr)) (isLoad : Bool) (k : Nat)
    (idx : Nat → Nat → Nat → Int) : Prop :=
  let wb := fmtBits (s.past.memFmt (s.reg x) m.mf) m.et.toNat
  s.past.elemsReady isLoad (elemBytes wb) k (s.past.velems (s.reg x) m.et.toNat wb idx) l

theorem vecLoad_completes (he : exec i s = native i (fun s => s.vecLoad vd x m (idx s)) s)
    (h : s.vectorReady x m l true kRead (idx s.past)) : Completes i s (s.loadSent vd x m l (idx s.past)) :=
  completes_of_done he fun _ => by
    simp only [State.vecLoad, past_reg]
    exact vecAccess_goes h

theorem vecStore_completes (he : exec i s = native i (fun s => s.vecStore vd x m (idx s)) s)
    (h : s.vectorReady x m l false kWrite (idx s.past)) : Completes i s (s.storeSent vd x m l (idx s.past)) :=
  completes_of_done he fun _ => by
    simp only [State.vecStore, past_reg, past_getLane]
    exact vecAccess_goes h

end Forms

/-- Settles O28: a load and a store at any index of their elements, then the two indices of R190. -/
theorem vectorMemory : Obligations.VectorMemory := by
  unfold Obligations.VectorMemory
  intro s h vd va x m l p et base dense spread load value store ready loadOk storeOk
  exact ⟨vecLoad_completes (idx := fun s => s.th.denseIdx (perLane m.et.toNat)) rfl,
    vecStore_completes (idx := fun s => s.th.denseIdx (perLane m.et.toNat)) rfl,
    vecLoad_completes (idx := fun s => s.gatherIdx va (perLane m.et.toNat)) rfl,
    vecStore_completes (idx := fun s => s.gatherIdx va (perLane m.et.toNat)) rfl⟩

end Sys2Proof.Machine
end

section
/-! PROOFS. Claims, releases and fills of operand slots and tiles (R193, R196 to R200). -/

namespace Sys2Proof.Machine

/-! ### Slots and tiles of a core after an update -/

section Items
variable {k : Core} {q : Slot} {t : Tile} {u n j : Nat}

@[simp] theorem slot_setSlot (k : Core) (n : Nat) (q : Slot) : (k.setSlot n q).slot n = q := get_put ..
theorem slot_setSlot_ne (h : j ≠ n) : (k.setSlot n q).slot j = k.slot j := get_put_ne _ _ _ h
@[simp] theorem tile_setSlot (k : Core) (n : Nat) (q : Slot) (j : Nat) : (k.setSlot n q).tile j = k.tile j := rfl
@[simp] theorem tile_setTile (k : Core) (n : Nat) (t : Tile) : (k.setTile n t).tile n = t := get_put ..
theorem tile_setTile_ne (h : j ≠ n) : (k.setTile n t).tile j = k.tile j := get_put_ne _ _ _ h
@[simp] theorem slot_setTile (k : Core) (n : Nat) (t : Tile) (j : Nat) : (k.setTile n t).slot j = k.slot j := rfl

/-- Items 0 to 7 are slots, 8 to 15 tiles (R196). -/
theorem itemOwner_slot (h : n < 8) : k.itemOwner n = (k.slot n).owner := if_pos h
theorem itemOwner_tile (h : 8 ≤ n) : k.itemOwner n = (k.tile (n - 8)).owner := if_neg (by omega)
theorem itemState_slot (h : n < 8) : k.itemState n = (k.slot n).state := if_pos h
theorem itemState_tile (h : 8 ≤ n) : k.itemState n = (k.tile (n - 8)).state := if_neg (by omega)

/-- A change of a slot leaves every other item as it was. -/
theorem setSlot_item_ne (h : j ≠ n) :
    (k.setSlot n q).itemOwner j = k.itemOwner j ∧ (k.setSlot n q).itemState j = k.itemState j := by
  rw [Core.itemOwner, Core.itemState, slot_setSlot_ne h]
  exact ⟨rfl, rfl⟩

theorem setTile_item_ne (hn : 8 ≤ n) (h : j ≠ n) :
    (k.setTile (n - 8) t).itemOwner j = k.itemOwner j ∧ (k.setTile (n - 8) t).itemState j = k.itemState j := by
  by_cases hj : j < 8
  · simp only [itemOwner_slot hj, itemState_slot hj, slot_setTile, and_self]
  · have hne : j - 8 ≠ n - 8 := by omega
    simp only [itemOwner_tile (not_lt.mp hj), itemState_tile (not_lt.mp hj), tile_setTile_ne hne, and_self]

theorem claim_held (h : k.itemOwner n = some u) : Core.claim u n k = k := by rw [Core.claim, if_pos h]

/-- What a claim of an item that the thread does not hold makes of it: a slot bound to UNIT, a tile as after `mzero`. -/
theorem claim_slot (h : k.itemOwner n ≠ some u) (hn : n < 8) :
    Core.claim u n k = k.setSlot n { Slot.new with state := 1, owner := some u } := by rw [Core.claim, if_neg h, if_pos hn]

theorem claim_tile (h : k.itemOwner n ≠ some u) (hn : 8 ≤ n) :
    Core.claim u n k = k.setTile (n - 8) { Tile.new with state := 1, owner := some u } := by
  rw [Core.claim, if_neg h, if_neg (not_lt.mpr hn)]

/-- A claimed item is the thread's and CLAIMED, and no other item changes. -/
theorem claim_spec (h : k.itemOwner n ≠ some u) :
    let c := Core.claim u n k
    c.itemOwner n = some u ∧ c.itemState n = 1 ∧ (n < 8 → (c.slot n).unit = true) ∧
      (8 ≤ n → c.tile (n - 8) = (c.tile (n - 8)).zeroed) ∧
      ∀ j, j ≠ n → c.itemOwner j = k.itemOwner j ∧ c.itemState j = k.itemState j := by
  intro c
  by_cases hn : n < 8
  · have hc : c = _ := claim_slot h hn
    rw [hc, itemOwner_slot hn, itemState_slot hn, slot_setSlot]
    exact ⟨rfl, rfl, fun _ => rfl, fun hn' => absurd hn (not_lt.mpr hn'), fun j => setSlot_item_ne⟩
  · have hn' : 8 ≤ n := not_lt.mp hn
    have hc : c = _ := claim_tile h hn'
    rw [hc, itemOwner_tile hn', itemState_tile hn', tile_setTile]
    exact ⟨rfl, rfl, fun hn => absurd hn (not_lt.mpr hn'), fun _ => rfl, fun j => setTile_item_ne hn'⟩

end Items

/-! ### `oclaim` and `orel` (R196, R197) -/

section Claims
variable {s : State} {h : Hdr} {s1 s2 : Opnd} {m : M8}

theorem past_itemBusy (s : State) : s.past.itemBusy = s.itemBusy := by
  funext n
  simp only [State.itemBusy, past_eq, advance_myCtx, advance_myCore, advance_cur]

theorem oclaim_refuses (hb : (maskBits (s.reg s1)).filter s.itemBusy ≠ []) : Completes (.oclaim h s1 s2 m) s
    (s.past.later [.reg s2] [.reg s2 (maskWord ((maskBits (s.reg s1)).filter s.itemBusy))]) :=
  completes_of_done rfl fun _ => by simp only [past_reg, past_itemBusy, hb, if_false]

theorem oclaim_claims (hb : (maskBits (s.reg s1)).filter s.itemBusy = []) : Completes (.oclaim h s1 s2 m) s
    ((s.past.onMyCore fun k => forEach (Core.claim s.cur) (maskBits (s.reg s1)) k).later [.reg s2] [.reg s2 0]) :=
  completes_of_done rfl fun _ => by
    simp only [past_reg, past_itemBusy, hb, if_true]
    rfl

/-- The items of a list that the thread holds. -/
def State.held (s : State) (l : List Nat) : List Nat := l.filter fun n => s.myCore.itemOwner n == some s.cur

/-- The state once the thread has given up items: no result of its own reaches the slots among them any more. -/
def State.givenUp (s : State) (l : List Nat) : State :=
  let q := s.onMyCore fun k => forEach (Core.release s.cur) l k
  q.setTh { q.th with outst := q.th.outst.map (·.release (l.filter (· < 8))) }

theorem orel_completes (hb : ∀ n ∈ s.held (maskBits (s.reg s1)), 8 ≤ n → s.tileBusy s.th.core (n - 8) = false) :
    let named := maskBits (s.reg s1)
    let mine := s.held named
    Completes (.orel h s1 s2 m) s ((s.past.givenUp mine).later [.reg s2]
      [.reg s2 (maskWord (named.filter fun n => !mine.contains n))]) := by
  intro named mine
  refine completes_of_done rfl fun _ => ?_
  have hfree : (mine.any fun n => 8 ≤ n && s.past.tileBusy s.past.th.core (n - 8)) = false := by
    rw [List.any_eq_false]
    intro n hn
    have hcore : s.past.th.core = s.th.core := advance_th_core s 8
    rw [Bool.and_eq_true, decide_eq_true_eq, hcore]
    exact fun ⟨h8, hbusy⟩ => Bool.false_ne_true ((hb n hn h8).symm.trans hbusy)
  have hmine : (maskBits (s.reg s1)).filter (fun n => s.past.myCore.itemOwner n == some s.past.cur) = mine := by
    rw [past_myCore]
    rfl
  simp only [past_reg, hmine, hfree, Bool.false_eq_true, if_false]
  rfl

end Claims

/-! ### `tld` and `tfill` (R198 to R200) -/

section Fills
variable {s : State} {h : Hdr} {o : BitVec 3} {s1 s2 : Opnd} {fmt : BitVec 4} {z : BitVec 6} {m : M8} {n : Nat}

/-- The data of a `tld` can be read: a canonical address that is a multiple of 16, and a range that passes (R198). -/
def State.dataReady (p : State) (a : Word) (len : Nat) : Prop :=
  a = (a.setWidth 52).signExtend 64 ∧ a.toNat % 16 = 0 ∧ p.rangeReady true a len kRead

/-- The bytes of the data that a `tld` reads. -/
def State.tldLen (s : State) (a : Word) (fmt : BitVec 4) : Nat :=
  tldBytes (tldSource fmt.toNat (s.past.memFmt a fmt)) (rowLen (slotPlain fmt.toNat))

/-- The bytes of its scale stream. -/
def tldScaleLen (fmt : BitVec 4) (m : M8) : Nat := 32 * (rowLen (slotPlain fmt.toNat) / blkSize m.blk)

/-- The state in which a `tld` has begun, with scale codes from `b` for register `zr` or without. -/
def State.tldStarted (s : State) (o : BitVec 3) (a b : Word) (fmt : BitVec 4) (m : M8) (zr : Option Nat) : State :=
  s.past.startTld o.toNat a b fmt.toNat (s.past.memFmt a fmt) (rowLen (slotPlain fmt.toNat)) m zr

/-- A `tld` goes on to its scales when its slot and its data pass. -/
theorem tld_body {p : State} {i len : Nat} {a : Word} (ho : p.slotReason i (fun st => st ≠ 0) = none)
    (hd : p.dataReady a len) (go : Res) :
    (unlessSlot (p.slotReason i (fun st => st ≠ 0)) <|
      if !canonical a then .trap (.of .prot a)
      else if a.toNat % 16 ≠ 0 then .trap (.of .align a)
      else p.rangeCheck true a len kRead go) = go := by
  obtain ⟨hcan, halign, hrange⟩ := hd
  rw [unlessSlot_none _ ho, canonical_of_signExtend hcan, if_neg (by decide), if_neg (not_not.mpr halign),
    rangeCheck_goes hrange]

section Data
variable (ho : s.past.slotReason o.toNat (fun st => st ≠ 0) = none)
  (hd : s.past.dataReady (s.reg s1) (s.tldLen (s.reg s1) fmt))
include ho hd

theorem tld_completes (hsc : m.sc = false) :
    Completes (.tld h o s1 s2 fmt m) s (s.tldStarted o (s.reg s1) 0 fmt m none) :=
  completes_of_done rfl fun _ => by
    rw [past_reg, hsc]
    exact tld_body ho hd _

variable (hsc : m.sc = true) (hs : s.past.rangeReady true (s.reg s2) (tldScaleLen fmt m) kRead)
include hsc hs

theorem tld_completes_scaled {zr : Nat} (hz : s.past.freeScale = some zr) :
    Completes (.tld h o s1 s2 fmt m) s (s.tldStarted o (s.reg s1) (s.reg s2) fmt m (some zr)) :=
  completes_of_done rfl fun _ => by
    rw [past_reg, past_reg, hsc, hz]
    exact (tld_body ho hd _).trans (rangeCheck_goes hs _)

theorem tld_traps_noScale (hz : s.past.freeScale = none) : s.clear (.tld h o s1 s2 fmt m) = true →
    exec (.tld h o s1 s2 fmt m) s = .next (s.trapNow (.of .slotState 5)) :=
  traps_of_trap rfl fun _ => by
    rw [past_reg, past_reg, hsc, hz]
    exact (tld_body ho hd _).trans (rangeCheck_goes hs _)

end Data

/-- The rows that a `tfill` writes: copies of `a` where `mask` names them, and zeros elsewhere in a slot that was CLAIMED. -/
def fillRows (q : Slot) (o : Nat) (a mask : Word) : List Write := (List.range 32).flatMap fun r =>
  if mask.getLsbD r then [.row o r (List.replicate 64 (toBytes 8 a.toNat)).flatten]
  else if q.state = 1 then [.row o r (List.replicate 512 0)] else []

/-- The slot is FILLING with a new binding; an AUTO register of the old one is freed. -/
def State.filling (s : State) (o fmt : Nat) (unit : Bool) (z gen : Nat) : State :=
  let old := s.myCore.slot o
  s.past.onMyCore fun c => Core.freeAuto (c.setSlot o
    { old with state := 2, fmt := fmt, unit := unit, z := z, gen := gen, blk := 0 }) s.cur o old

theorem tfill_completes {sc : Bool} (hsc : m.sc = sc) (ho : s.past.slotReason o.toNat (fun st => st ≠ 0) = none)
    (hz : (if sc then s.past.scaleHeld z.toNat else none) = none) :
    Completes (.tfill h o s1 s2 z fmt m) s
      ((s.filling o.toNat fmt.toNat (!sc) (if sc then z.toNat else 0) (if sc then (s.myCore.scale z.toNat).gen else 0)).later
        [.slot o.toNat] (fillRows (s.myCore.slot o.toNat) o.toNat (s.reg s1) (s.reg s2) ++ [.loaded o.toNat])) :=
  completes_of_done rfl fun _ => by
    subst hsc
    rw [unlessSlot_none _ ho, unlessSlot_none _ hz, past_reg, past_reg, past_myCore]
    simp only [beq_iff_eq]
    refine congrArg (fun q : State => Res.done (q.later _ _)) (onMyCore_congr ?_)
    rw [past_myCore]
    rfl

theorem tld_traps (ho : s.past.slotReason o.toNat (fun st => st ≠ 0) = some n) : s.clear (.tld h o s1 s2 fmt m) = true →
    exec (.tld h o s1 s2 fmt m) s = .next (s.trapNow (.of .slotState (word n))) :=
  traps_of_trap rfl fun _ => unlessSlot_some _ ho

theorem tfill_traps (ho : s.past.slotReason o.toNat (fun st => st ≠ 0) = some n) :
    s.clear (.tfill h o s1 s2 z fmt m) = true →
      exec (.tfill h o s1 s2 z fmt m) s = .next (s.trapNow (.of .slotState (word n))) :=
  traps_of_trap rfl fun _ => unlessSlot_some _ ho

end Fills

/-- Settles O29: a claim by what it makes of one item, `tld` by the checks that come before its scales, `tfill` by the binding
that it gives the slot. That an ownerless tile which still drains is busy and that a FILLING slot may be filled again are the
model's choices (logs 85 and 87). -/
theorem operandClaimsAndFill : Obligations.OperandClaimsAndFill := by
  unfold Obligations.OperandClaimsAndFill
  refine ⟨fun s h s1 s2 m => ?claims, fun s h o s1 s2 fmt z m zr n => ?fills⟩
  case claims =>
    intro p named busy mine claimed freed slots gone dead
    refine ⟨oclaim_refuses, oclaim_claims, orel_completes, fun k u n _ => ⟨claim_held, fun hnot c hc => ?_⟩⟩
    subst hc
    obtain ⟨howner, hstate, hunit, hzero, hothers⟩ := claim_spec hnot
    exact ⟨howner, hstate, hunit, hzero, fun j _ => hothers j⟩
  case fills =>
    intro p a k src notFree dataOk scaleOk rows old filled
    exact ⟨fun ho hd hsc => tld_completes ho hd hsc, fun ho hd hsc hs hz => tld_completes_scaled ho hd hsc hs hz,
      fun ho hd hsc hs hz => tld_traps_noScale ho hd hsc hs hz, fun ho hsc => tfill_completes (sc := false) hsc ho rfl,
      fun ho hsc hz => tfill_completes (sc := true) hsc ho hz, fun ho => ⟨tld_traps ho, tfill_traps ho⟩⟩

end Sys2Proof.Machine
end

section
/-! PROOFS. Tiles (R193, R201 to R204, R208) and the row handlers of a tile that drains (R206, R207). -/

namespace Sys2Proof.Machine

/-! ### Operations that the unit queues (R195, R201, R202, R208) -/

section Tiles
variable {s : State} {h : Hdr} {ta : BitVec 3} {s1 s2 : Opnd} {m : M8} {n : Nat}

section Claimed
variable (ht : s.past.tileReason ta.toNat (fun st => st == 1) = none)
include ht

theorem mzero_completes : Completes (.mzero h ta m) s (s.past.queueJob [] (.zero ta.toNat)) :=
  completes_of_done rfl fun _ => unlessSlot_none _ ht

theorem manch_completes :
    Completes (.manch h ta s1 m) s (s.past.queueJob [] (.anchor ta.toNat ((s.reg s1).setWidth 10).toInt)) :=
  completes_of_done rfl fun _ => by rw [unlessSlot_none _ ht, past_reg]

/-- The state in which a tile has begun to drain for a new result of the thread, with 32 handlers to end (R204). -/
def State.draining (s : State) (t : Nat) (s1 s2 : Opnd) (m : M8) : State :=
  (s.past.openOut [] (.done []) 1).onMyCore fun c => c.setTile t { c.tile t with
    state := 2, left := 32, read := false, drain := some (s.reg s1, s.reg s2, s.mode m.rnd, s.cur, s.next) }

theorem mdrain_completes (hv : s.past.otherVecSlot = true) :
    Completes (.mdrain h ta s1 s2 m) s (s.draining ta.toNat s1 s2 m) :=
  completes_of_done rfl fun _ => by
    rw [unlessSlot_none _ ht, hv, past_reg, past_reg, past_mode]
    rfl

theorem mdrain_traps (hv : s.past.otherVecSlot = false) : s.clear (.mdrain h ta s1 s2 m) = true →
    exec (.mdrain h ta s1 s2 m) s = .next (s.trapNow (.of .slotState 6)) :=
  traps_of_trap rfl fun _ => by
    rw [unlessSlot_none _ ht, hv]
    rfl

end Claimed

theorem mstat_completes (ht : s.past.tileReason ta.toNat (fun _ => true) = none) : Completes (.mstat h ta s1 s2 m) s
    (s.past.queueJob [.reg s2] (.stat ta.toNat ((s.reg s1).getLsbD 0) ((s.myCore.tile ta.toNat).state == 1) s2)) :=
  completes_of_done rfl fun _ => by
    rw [unlessSlot_none _ ht, past_reg, past_myCore]
    rfl

theorem mzero_traps (ht : s.past.tileReason ta.toNat (fun st => st == 1) = some n) : s.clear (.mzero h ta m) = true →
    exec (.mzero h ta m) s = .next (s.trapNow (.of .slotState (word n))) :=
  traps_of_trap rfl fun _ => unlessSlot_some _ ht

end Tiles

/-! ### `mma` (R193, R195, R203) -/

section Mma
variable {s : State} {h : Hdr} {ta oa ob : BitVec 3} {m : M8} {n : Nat}

/-- Where no register that slots are bound to waits for a result, reading them early changes nothing (R25, R195). -/
theorem readBound_all {p : State} {l : List Nat}
    (h : ∀ n ∈ l, (p.myCore.slot n).unit = false → p.outstanding (.scale (p.myCore.slot n).z) = false) :
    p.readBound l = p := by
  refine readEarly_same _ _ fun d hd => ?_
  obtain ⟨n, hn, rfl⟩ := List.mem_map.mp hd
  obtain ⟨hmem, hunit⟩ := List.mem_filter.mp hn
  exact h n hmem (by simpa using hunit)

theorem boundPoison_all {p : State} {l : List Nat}
    (h : ∀ n ∈ l, (p.myCore.slot n).unit = false → p.poisonedDst (.scale (p.myCore.slot n).z) = false) :
    p.boundPoison l = false := by
  rw [State.boundPoison, List.any_eq_false]
  intro n hn
  cases hu : (p.myCore.slot n).unit with
  | true => simp
  | false => simp [State.poisonRead, h n hn hu]

section Held
variable (ht : s.past.tileReason ta.toNat (fun st => st == 1) = none)
  (ha : s.past.slotReason oa.toNat (fun st => st == 2 || st == 3) = none)
  (hb : s.past.slotReason ob.toNat (fun st => st == 2 || st == 3) = none)
include ht ha hb

theorem mma_completes (hpair : pairOk (s.myCore.slot oa.toNat).fmt (s.myCore.slot ob.toNat).fmt = true)
    (hsa : s.myCore.stale (s.myCore.slot oa.toNat) = false) (hsb : s.myCore.stale (s.myCore.slot ob.toNat) = false)
    (hz : ∀ o ∈ [s.myCore.slot oa.toNat, s.myCore.slot ob.toNat], o.unit = false →
      s.outstanding (.scale o.z) = false ∧ s.poisonedDst (.scale o.z) = false) :
    let a := s.myCore.slot oa.toNat
    let b := s.myCore.slot ob.toNat
    Completes (.mma h ta oa ob m) s
      (s.past.queueJob [] (.mma ta.toNat a.all b.all a.fmt b.fmt a.scaling b.scaling)) := by
  intro a b
  refine completes_of_done rfl fun _ => ?_
  have hbound : ∀ n ∈ [oa.toNat, ob.toNat], (s.past.myCore.slot n).unit = false →
      s.past.outstanding (.scale (s.past.myCore.slot n).z) = false ∧
        s.past.poisonedDst (.scale (s.past.myCore.slot n).z) = false := by
    intro n hn hu
    rw [past_myCore] at hu ⊢
    have hmem : s.myCore.slot n ∈ [a, b] := List.mem_map_of_mem (f := s.myCore.slot) hn
    rw [past_eq, advance_outstanding, advance_poisonedDst_scale]
    exact hz _ hmem hu
  have hread : s.past.readBound [oa.toNat, ob.toNat] = s.past := readBound_all fun n hn hu => (hbound n hn hu).1
  have hpoison : s.past.boundPoison [oa.toNat, ob.toNat] = false := boundPoison_all fun n hn hu => (hbound n hn hu).2
  rw [unlessSlot_none _ ht, unlessSlot_none _ ha, unlessSlot_none _ hb]
  simp only [past_myCore, hpair, hsa, hsb, hread, hpoison, Bool.not_true, Bool.false_eq_true, if_false]
  rfl

theorem mma_traps_pair (hpair : pairOk (s.myCore.slot oa.toNat).fmt (s.myCore.slot ob.toNat).fmt = false) :
    s.clear (.mma h ta oa ob m) = true →
      exec (.mma h ta oa ob m) s = .next (s.trapNow (.of .slotState 3)) :=
  traps_of_trap rfl fun _ => by
    rw [unlessSlot_none _ ht, unlessSlot_none _ ha, unlessSlot_none _ hb]
    simp only [past_myCore, hpair, Bool.not_false, if_true]
    rfl

theorem mma_traps_stale (hpair : pairOk (s.myCore.slot oa.toNat).fmt (s.myCore.slot ob.toNat).fmt = true)
    (hst : s.myCore.stale (s.myCore.slot oa.toNat) = true) :
    s.clear (.mma h ta oa ob m) = true →
      exec (.mma h ta oa ob m) s =
        .next (s.trapNow (.of .scaleStale (word (oa.toNat + (s.myCore.slot oa.toNat).z * 256)))) :=
  traps_of_trap rfl fun _ => by
    rw [unlessSlot_none _ ht, unlessSlot_none _ ha, unlessSlot_none _ hb]
    simp only [past_myCore, hpair, hst, Bool.not_true, Bool.false_eq_true, if_false, if_true]
    rfl

end Held

theorem mma_traps (ht : s.past.tileReason ta.toNat (fun st => st == 1) = some n) :
    s.clear (.mma h ta oa ob m) = true →
      exec (.mma h ta oa ob m) s = .next (s.trapNow (.of .slotState (word n))) :=
  traps_of_trap rfl fun _ => unlessSlot_some _ ht

end Mma

/-! ### Whose result brings the bytes of a slot (R22, R25, R206) -/

section Parts
variable {q : State} {n off : Nat} {ws : List Byte} {g : Word}

/-- Bytes that no `mdrain` of the slot's owner waits for are a result of the handler's own. -/
theorem putPart_own (h : ∀ u out, q.drainOf = some (u, out) →
      (q.myCore.slot n).owner ≠ some u ∨ ∀ e ∈ (q.thread u).outst, e.id ≠ out) :
    q.putPart n off ws g = q.later [.slot n] [.part n off ws, .flags g] := by
  unfold State.putPart
  split
  · next u out hd =>
    refine if_neg fun ⟨hown, hout⟩ => ?_
    obtain ⟨e, he, hid⟩ := List.any_eq_true.mp hout
    exact (h u out hd).elim (· hown) fun hno => hno e he (beq_iff_eq.mp hid)
  · rfl

/-- Bytes for a slot of the issuer of an outstanding `mdrain` are a write of that `mdrain`. -/
theorem putPart_issuer {u out : Nat} (hd : q.drainOf = some (u, out)) (hown : (q.myCore.slot n).owner = some u)
    (hout : ∃ e ∈ (q.thread u).outst, e.id = out) :
    q.putPart n off ws g = (q.onThread u fun x => { x with
      outst := modFirst (fun e => e.id == out) (·.addWrite (.slot n) (.part n off ws)) x.outst }).later [] [.flags g] := by
  obtain ⟨e, he, hid⟩ := hout
  have hany : ((q.thread u).outst.any fun r => r.id == out) = true := List.any_eq_true.mpr ⟨e, he, beq_iff_eq.mpr hid⟩
  simp only [State.putPart, hd, hown, hany, and_self, if_true]

theorem later_cores (s : State) (dsts : List Dst) (ws : List Write) : (s.later dsts ws).cores = s.cores := rfl

theorem onThread_cores (s : State) (u : Nat) (f : Thread → Thread) : (s.onThread u f).cores = s.cores := by
  obtain ⟨l, hl⟩ := onThread_cases s u f
  rw [hl]

end Parts

/-! ### `rowout` and `rowend` (R206, R207) -/

section Rows
variable {s : State} {h : Hdr} {o : BitVec 3} {s1 s2 : Opnd} {fmt : BitVec 4} {m : M8}

/-- A `rowout` into memory whose elements all pass goes out. -/
theorem rowoutMem_goes {p : State} {va : Word} {f : Nat} {l : List (VElem × Tr)} :
    let els := p.rowElems f
    let bs := rowBytes f (els.map (·.1))
    let u := rowUnit f
    p.elemsReady false u kWrite ((List.range (bs.length / u)).map fun n => ⟨0, n, 0, va + word (n * u), 0⟩) l →
      p.rowoutMem va f = .done (State.sendElems p.next u kWrite (fun n _ => .store ((bs.drop (n * u)).take u)) false false 0 0 l
        (p.openOut [] (.done [.flags (els.foldl (fun f e => f ||| e.2) 0)]) l.length)) := by
  intro els bs u
  exact vecAccess_goes

/-- The state once a row handler has written its elements to slot `o`, which is then as `base` says, at row and part `x`. -/
def State.rowWritten (p : State) (o : Nat) (base : Slot) (x : Word) (fmt : Nat) : State :=
  let els := p.rowElems fmt
  let bs := packElems fmt (els.map (·.1))
  (p.onMyCore fun k => k.setSlot o base).putPart o (512 * (x.toNat % 32) + x.toNat / 32 % 64 * bs.length) bs
    (els.foldl (fun f e => f ||| e.2) 0)

/-- The handler may write a part to a slot: the slot is granted, the handler or the issuer of its `mdrain` holds it, and the
part lies in a row of the format. -/
def State.partReady (p : State) (o : Nat) (x : Word) (fmt : BitVec 4) : Prop :=
  p.slotGranted o = true ∧
    ((p.myCore.slot o).owner = some p.cur ∨
      ((p.myCore.slot o).owner.isSome = true ∧ (p.myCore.slot o).owner = p.drainIssuer)) ∧
    slotFmt fmt = true ∧ 32 * (x.toNat / 32 % 64) + 32 ≤ rowLen fmt.toNat

section Slots
variable {p : State} {i : Nat} {x : Word} (hr : p.partReady i x fmt)
include hr

/-- What the checks of a `rowout` come to for such a slot that is CLAIMED or FILLING. -/
theorem rowoutSlot_held (hs : (p.myCore.slot i).state = 1 ∨ (p.myCore.slot i).state = 3) :
    p.rowoutSlot i x fmt.toNat =
      let q := p.myCore.slot i
      if q.state = 3 ∧ q.fmt ≠ fmt.toNat then slotTrap 7
      else .done (p.rowWritten i (if q.state = 1 then { q with state := 3, fmt := fmt.toNat, unit := true, bytes := [] } else q)
        x fmt.toNat) := by
  obtain ⟨hg, hown, hf, hlen⟩ := hr
  have hsome : (p.myCore.slot i).owner.isSome = true := hown.elim (fun h => by rw [h]; rfl) (·.1)
  have hmine : ((p.myCore.slot i).owner == some p.cur ||
      ((p.myCore.slot i).owner.isSome && (p.myCore.slot i).owner == p.drainIssuer)) = true := by
    simpa only [Bool.or_eq_true, Bool.and_eq_true, beq_iff_eq] using hown
  have hrow : bits x 4 0 = x.toNat % 32 := bits_low x 4
  have hpart : bits x 10 5 = x.toNat / 32 % 64 := bits_eq_div_mod x 10 5
  have hnone : (p.myCore.slot i).owner.isNone = false := by simpa using hsome
  have hstate : ((p.myCore.slot i).state == 1 || (p.myCore.slot i).state == 3) = true := by
    simpa only [Bool.or_eq_true, beq_iff_eq] using hs
  have hwide : decide (rowLen fmt.toNat < 32 * (x.toNat / 32 % 64) + 32) = false := by simpa using hlen
  simp only [State.rowoutSlot, hg, hmine, hnone, hstate, hrow, hpart, hwide, hf, BitVec.ofNat_toNat, BitVec.setWidth_eq,
    Bool.not_true, Bool.and_false, Bool.or_self, Bool.false_eq_true, if_false, Bool.false_or, Bool.and_eq_true, beq_iff_eq,
    bne_iff_ne]
  rfl

theorem rowoutSlot_claimed (hs : (p.myCore.slot i).state = 1) : p.rowoutSlot i x fmt.toNat =
    .done (p.rowWritten i { p.myCore.slot i with state := 3, fmt := fmt.toNat, unit := true, bytes := [] } x fmt.toNat) := by
  rw [rowoutSlot_held hr (.inl hs)]
  simp [hs]

theorem rowoutSlot_filling (hs : (p.myCore.slot i).state = 3) (hfmt : (p.myCore.slot i).fmt = fmt.toNat) :
    p.rowoutSlot i x fmt.toNat = .done (p.rowWritten i (p.myCore.slot i) x fmt.toNat) := by
  rw [rowoutSlot_held hr (.inr hs)]
  simp [hs, hfmt]

theorem rowoutSlot_otherFmt (hs : (p.myCore.slot i).state = 3) (hfmt : (p.myCore.slot i).fmt ≠ fmt.toNat) :
    p.rowoutSlot i x fmt.toNat = slotTrap 7 := by
  rw [rowoutSlot_held hr (.inr hs)]
  exact if_pos ⟨hs, hfmt⟩

end Slots

/-- What a handler's `rowout` does: a store where S1 is not zero, a part of a slot where it is. -/
def State.rowoutBody (p : State) (o : BitVec 3) (s1 s2 : Opnd) (fmt : BitVec 4) : Res :=
  if s1 ≠ Opnd.zero then p.rowoutMem (p.reg s1) fmt.toNat else p.rowoutSlot o.toNat (p.reg s2) fmt.toNat

theorem rowout_body {p : State} (hrow : p.th.isRow = true) (t : Res) :
    (if !p.th.isRow then t
      else if s1 ≠ Opnd.zero then p.rowoutMem (p.reg s1) fmt.toNat else p.rowoutSlot o.toNat (p.reg s2) fmt.toNat) =
      p.rowoutBody o s1 s2 fmt := by
  rw [hrow]
  rfl

section Handler
variable (hrow : s.past.th.isRow = true)
include hrow

theorem rowout_completes {d : State} (hb : s.past.rowoutBody o s1 s2 fmt = .done d) :
    Completes (.rowout h o s1 s2 fmt m) s d :=
  completes_of_done rfl fun _ => (rowout_body hrow _).trans hb

theorem rowout_traps {t : Trap} (hb : s.past.rowoutBody o s1 s2 fmt = .trap t) :
    s.clear (.rowout h o s1 s2 fmt m) = true → exec (.rowout h o s1 s2 fmt m) s = .next (s.trapNow t) :=
  traps_of_trap rfl fun _ => (rowout_body hrow _).trans hb

theorem rowend_completes (hd : s.past.drained s.cur = true) : Completes (.rowend h m) s (s.past.endThread s.cur false) :=
  completes_of_done rfl fun _ => by
    rw [hrow]
    exact if_pos hd

end Handler

theorem rowoutBody_mem {p : State} (h1 : s1 ≠ Opnd.zero) :
    p.rowoutBody o s1 s2 fmt = p.rowoutMem (p.reg s1) fmt.toNat := if_pos h1

theorem rowoutBody_slot {p : State} (h1 : s1 = Opnd.zero) :
    p.rowoutBody o s1 s2 fmt = p.rowoutSlot o.toNat (p.reg s2) fmt.toNat := if_neg (not_not.mpr h1)

section Others
variable (hrow : s.past.th.isRow = false)
include hrow

theorem rowout_illegal : s.clear (.rowout h o s1 s2 fmt m) = true → exec (.rowout h o s1 s2 fmt m) s =
    .next (s.trapNow (.of .illegalOp (Instr.rowout h o s1 s2 fmt m).word)) :=
  traps_of_trap rfl fun _ => by
    rw [hrow]
    rfl

theorem rowend_illegal : s.clear (.rowend h m) = true →
    exec (.rowend h m) s = .next (s.trapNow (.of .illegalOp (Instr.rowend h m).word)) :=
  traps_of_trap rfl fun _ => by
    rw [hrow]
    rfl

end Others

end Rows

/-- Settles O30: the tile's instructions by the items that they need, `mma` by its slots' formats and bindings; the handlers'
by where the elements go and whose result brings them. That a forbidden pair and a stale binding come before a poisoned bound
register is the model's choice (log 88). -/
theorem tilesAndRows : Obligations.TilesAndRows := by
  unfold Obligations.TilesAndRows
  refine ⟨fun s h ta oa ob s1 s2 m n => ?tiles, fun s h o s1 s2 fmt m l => ?rows⟩
  case tiles =>
    intro p t claimed full a b q
    exact ⟨fun ht => ⟨mzero_completes ht, manch_completes ht, mma_completes ht, mma_traps_pair ht, mma_traps_stale ht,
      mdrain_completes ht, mdrain_traps ht⟩, mstat_completes, fun ht => ⟨mzero_traps ht, mma_traps ht⟩⟩
  case rows =>
    intro p els bs flags u ves q r c fits packed next
    refine ⟨fun hrow h1 hgo => ?store, fun hrow h1 hg hown hfits => ?slot, fun q n off ws g => ?parts, rowend_completes,
      fun hrow => ⟨rowout_illegal hrow, rowend_illegal hrow⟩⟩
    case store =>
      refine rowout_completes hrow ((rowoutBody_mem h1).trans ?_)
      rw [past_reg]
      exact rowoutMem_goes hgo
    case slot =>
      have hready : p.partReady o.toNat (s.reg s2) fmt := ⟨hg, by rwa [past_myCore], hfits⟩
      have hbody : p.rowoutBody o s1 s2 fmt = p.rowoutSlot o.toNat (s.reg s2) fmt.toNat := by
        rw [rowoutBody_slot h1, past_reg]
      refine ⟨fun hs => ?claimed, fun hs hfmt => ?filling, fun hs hfmt => ?otherFmt⟩
      case claimed =>
        refine rowout_completes hrow (hbody.trans ?_)
        rw [rowoutSlot_claimed hready (by rwa [past_myCore]), past_myCore]
        rfl
      case filling =>
        refine rowout_completes hrow (hbody.trans ?_)
        rw [rowoutSlot_filling hready (by rwa [past_myCore]) (by rwa [past_myCore]), past_myCore]
        rfl
      case otherFmt =>
        exact rowout_traps hrow (hbody.trans (rowoutSlot_otherFmt hready (by rwa [past_myCore]) (by rwa [past_myCore])))
    case parts =>
      refine ⟨putPart_own, fun u out hd hown hout => ?_⟩
      have hput := putPart_issuer (off := off) (ws := ws) (g := g) hd hown hout
      exact ⟨by rw [hput, later_cores, onThread_cores], hput⟩

end Sys2Proof.Machine
end

section
/-! PROOFS. Atomics, full/empty operations and `monrel` at their homes (R103, R218 to R220); `sleep`, `yield` and `time`
(R222). -/

namespace Sys2Proof.Machine

/-! ### A word that is stored at a home where the store has no effect but its own -/

section QuietWords
variable {s q : State} {h : Home} {src w : Word} {pa x : Nat} {bs : List Byte}

/-- A word of memory reads as it was stored. -/
theorem readWord_setBytes (hm : s.mem = setBytes q.mem pa (toBytes 8 w.toNat)) : s.readWord pa = w := by
  have hbytes : s.bytes pa 8 = toBytes 8 w.toNat := calc
    s.bytes pa 8 = (q.storeBytes pa (toBytes 8 w.toNat)).bytes pa 8 :=
      bytes_congr pa 8 fun a _ _ => congrArg (get Memory.unlisted · a) hm
    _ = toBytes 8 w.toNat := by
      simpa only [toBytes_length] using storeBytes_bytes q pa (toBytes 8 w.toNat)
  rw [State.readWord, State.readNat, hbytes, fromBytes_toBytes, Nat.mod_eq_of_lt (Nat.lt_of_lt_of_eq w.isLt (by decide)),
    BitVec.ofNat_toNat, BitVec.setWidth_eq]

/-- A stored word leaves every byte beside it. -/
theorem byte_setBytes_word_out (hm : s.mem = setBytes q.mem pa (toBytes 8 w.toNat)) (hx : x < pa ∨ pa + 8 ≤ x) :
    s.byte x = q.byte x := by
  rw [State.byte, hm]
  exact get_setBytes_out _ (by rwa [toBytes_length])

/-- Where nothing waits, the frame is good, no context block is met and no log is kept, nothing waits after a write. -/
theorem write_unwaited (s : State) (hw : s.waiters = []) (hg : s.badFrames.contains (pa / 0x10000) = false)
    (hb : s.blockOf pa = []) (hoff : ∀ c, portOf h = some c → bit (s.core c).salcfg 0 = false) :
    (((s.sal h src pa x).retire pa).disturbed pa).waiters = [] := by
  rw [sal_off hoff, retire_good hg, disturbed_unblocked hb, hw]

/-- A write at a quiet home is the whole store: nothing there waits to be served after it. -/
theorem writeAt_quiet (hq : s.quietHome h pa = true) : s.writeAt h src pa bs = s.storeAt h src pa bs := by
  obtain ⟨hw, hg, hb, hclean, hport⟩ := quietHome_cases hq
  obtain ⟨_, hstore⟩ := storeBytes_cases s pa bs
  obtain ⟨_, hclaim⟩ := claim_cases (s.storeBytes pa bs) h pa bs.length
  refine (serveRange_unwaited ?_).symm
  rw [State.writeAt, rehome_clean hclean, written_good hg, hclaim, hstore]
  exact write_unwaited _ hw hg hb hport

/-- What a store at a quiet home leaves of what homes keep beside memory. -/
theorem storeAt_quiet_lists (hq : s.quietHome h pa = true) : let q := s.storeAt h src pa bs
    q.mem = setBytes s.mem pa bs ∧ q.waiters = [] ∧ q.resq = s.resq ∧ q.resv = s.resv := by
  obtain ⟨hw, -⟩ := quietHome_cases hq
  obtain ⟨b, hst⟩ := storeAt_quiet (src := src) (bs := bs) hq
  intro q
  rw [show q = _ from hst]
  exact ⟨rfl, hw, rfl, rfl⟩

end QuietWords

/-- The delivery of bytes changes threads or the replies to agents outside, unless their issuer has been saved into an image. -/
theorem deliver_cases {a : Acc} (himg : ∀ p, a.owner ≠ .image p) (s : State) (bs : List Byte) (bad : Bool) :
    ∃ t r, s.deliver a bs bad = { s with threads := t, replies := r } := by
  unfold State.deliver
  split
  case h_1 =>
    split
    · exact ⟨s.threads, s.replies, rfl⟩
    · obtain ⟨t, ht⟩ := onThread_cases s _ _
      exact ⟨t, s.replies, ht⟩
  case h_2 p ho => exact absurd ho (himg p)
  case h_3 | h_4 | h_5 =>
    split
    · exact ⟨s.threads, s.replies, rfl⟩
    · exact ⟨s.threads, _, rfl⟩
  case h_6 => exact ⟨s.threads, s.replies, rfl⟩

/-! ### `atom` (R218) -/

/-- An `atom` at a quiet home hands the old word to its issuer once it has stored the new one. -/
theorem doAtom_quiet {s : State} {a : Acc} (op : Nat) (b d : Word) (hq : s.quietHome a.home a.pa = true) :
    let old := s.readWord a.pa
    let q := s.storeAt a.home a.src a.pa (toBytes 8 (atomNew op old b d).toNat)
    q.readWord a.pa = atomNew op old b d ∧ (∀ x, x < a.pa ∨ a.pa + 8 ≤ x → q.byte x = s.byte x) ∧
      s.doAtom a op b d = q.deliver a (toBytes 8 old.toNat) (s.isPoisoned a.pa 8) := by
  intro old q
  obtain ⟨hmem, -⟩ := storeAt_quiet_lists (src := a.src) (bs := toBytes 8 (atomNew op old b d).toNat) hq
  exact ⟨readWord_setBytes hmem, fun _ => byte_setBytes_word_out hmem, rfl⟩

/-- The operations of `atom`, by OP (R218). -/
theorem atomNew_table (old b d : Word) :
    atomNew 0 old b d = old + b ∧ atomNew 1 old b d = old &&& b ∧ atomNew 2 old b d = old ||| b ∧
    atomNew 3 old b d = old ^^^ b ∧ atomNew 4 old b d = (if old.sle b then old else b) ∧
    atomNew 5 old b d = (if old.sle b then b else old) ∧ atomNew 6 old b d = (if old.ule b then old else b) ∧
    atomNew 7 old b d = (if old.ule b then b else old) ∧ atomNew 8 old b d = b ∧
    atomNew 9 old b d = (if old = d then b else old) := by
  simp only [BitVec.sle_eq_decide, BitVec.ule_eq_decide, decide_eq_true_eq]
  exact ⟨rfl, rfl, rfl, rfl, rfl, rfl, rfl, rfl, rfl, rfl⟩

/-! ### Full/empty operations (R103, R220) -/

section FullEmpty
variable {s : State} {a : Acc} {c : Bool} {v : Word}

/-- The full/empty bit of a word reads as it was set. -/
theorem full_setFull (s : State) (pa : Nat) (f : Bool) : (s.setFull pa f).full pa = f := by
  have h : get false (s.setFull pa f).empty (pa / 8) = !f := get_set ..
  rw [State.full, h, Bool.not_not]

@[simp] theorem setFull_waiters (s : State) (pa : Nat) (f : Bool) : (s.setFull pa f).waiters = s.waiters := by
  unfold State.setFull State.dirty
  split <;> rfl

/-- What a full word that `ldfe` has read is left as: emptied with .c, else as it was. -/
theorem emptied (s : State) (pa : Nat) (c : Bool) (hf : s.full pa = true) : let e := if c then s.setFull pa false else s
    e.full pa = !c ∧ e.mem = s.mem ∧ e.waiters = s.waiters := by
  cases c with
  | true => exact ⟨full_setFull s pa false, setFull_mem s pa false, setFull_waiters s pa false⟩
  | false => exact ⟨hf, rfl, rfl⟩

theorem satisfied_ldfe (hr : s.reserved a.owner a.pa 8 = false) (ho : a.op = .ldfe c) : s.satisfied a = s.full a.pa := by
  simp only [State.satisfied, hr, ho, Bool.not_false, Bool.true_and]

theorem satisfied_stfe (hr : s.reserved a.owner a.pa 8 = false) (ho : a.op = .stfe v) : s.satisfied a = !s.full a.pa := by
  simp only [State.satisfied, hr, ho, Bool.not_false, Bool.true_and]

/-- A request whose word is in the state that it waits for is served at once, and no other waits behind it. -/
theorem enqueueWait_served (hs : s.satisfied a = true) (hw : (s.serveOne a).waiters = []) : s.enqueueWait a = s.serveOne a :=
  (if_pos hs).trans (serveRange_unwaited hw)

/-- Any other is the first to wait, where none did. -/
theorem enqueueWait_waits (hs : s.satisfied a = false) (hw : s.waiters = []) :
    s.enqueueWait a = { s with waiters := [a] } := by
  have hroom : s.bankWaiters a.home a.pa < 64 := by simp [State.bankWaiters, hw]
  simp only [State.enqueueWait, hs, Bool.false_eq_true, if_false, hroom, if_true, hw, List.nil_append]

section Served
variable (hq : s.quietHome a.home a.pa = true) (hr : s.reserved a.owner a.pa 8 = false)
include hq hr

theorem ldfe_full (himg : ∀ p, a.owner ≠ .image p) (ho : a.op = .ldfe c) (hf : s.full a.pa = true) :
    let q := s.enqueueWait a
    q.full a.pa = !c ∧ q.mem = s.mem ∧
      q = ((if c then s.setFull a.pa false else s).deliver a (s.bytes a.pa 8) (s.isPoisoned a.pa 8)) := by
  obtain ⟨hw, -⟩ := quietHome_cases hq
  obtain ⟨hfull, hmem, hwait⟩ := emptied s a.pa c hf
  obtain ⟨t, r, hdel⟩ := deliver_cases himg (if c then s.setFull a.pa false else s) (s.bytes a.pa 8) (s.isPoisoned a.pa 8)
  have hserve : s.serveOne a =
      (if c then s.setFull a.pa false else s).deliver a (s.bytes a.pa 8) (s.isPoisoned a.pa 8) := by
    simp only [State.serveOne, ho]
  have hnone : (s.serveOne a).waiters = [] := by
    rw [hserve, hdel]
    exact hwait.trans hw
  intro q
  have hqe : q = _ := (enqueueWait_served ((satisfied_ldfe hr ho).trans hf) hnone).trans hserve
  refine ⟨?_, ?_, hqe⟩
  · rw [hqe, hdel]
    exact hfull
  · rw [hqe, hdel]
    exact hmem

theorem ldfe_empty (ho : a.op = .ldfe c) (hf : s.full a.pa = false) :
    (s.enqueueWait a).waiters = [a] ∧ (s.enqueueWait a).mem = s.mem := by
  obtain ⟨hw, -⟩ := quietHome_cases hq
  rw [enqueueWait_waits ((satisfied_ldfe hr ho).trans hf) hw]
  exact ⟨rfl, rfl⟩

theorem stfe_full (ho : a.op = .stfe v) (hf : s.full a.pa = true) :
    (s.enqueueWait a).waiters = [a] ∧ (s.enqueueWait a).mem = s.mem := by
  obtain ⟨hw, -⟩ := quietHome_cases hq
  rw [enqueueWait_waits ((satisfied_stfe hr ho).trans (by rw [hf]; rfl)) hw]
  exact ⟨rfl, rfl⟩

theorem stfe_empty (himg : ∀ p, a.owner ≠ .image p) (ho : a.op = .stfe v) (hf : s.full a.pa = false) :
    let q := s.enqueueWait a
    q.full a.pa = true ∧ q.readWord a.pa = v ∧ ∀ x, x < a.pa ∨ a.pa + 8 ≤ x → q.byte x = s.byte x := by
  obtain ⟨hmem, hnone, -⟩ := storeAt_quiet_lists (src := a.src) (bs := toBytes 8 v.toNat) hq
  obtain ⟨t, r, hdel⟩ := deliver_cases himg ((s.storeAt a.home a.src a.pa (toBytes 8 v.toNat)).setFull a.pa true) [] false
  have hserve : s.serveOne a = { (s.storeAt a.home a.src a.pa (toBytes 8 v.toNat)).setFull a.pa true with
      threads := t, replies := r } := by
    simp only [State.serveOne, ho, writeAt_quiet hq, hdel]
  have hwait : (s.serveOne a).waiters = [] := by
    rw [hserve]
    exact (setFull_waiters _ a.pa true).trans hnone
  intro q
  have hqe : q = _ := (enqueueWait_served ((satisfied_stfe hr ho).trans (by rw [hf]; rfl)) hwait).trans hserve
  have hqm : q.mem = setBytes s.mem a.pa (toBytes 8 v.toNat) := by
    rw [hqe]
    exact (setFull_mem _ a.pa true).trans hmem
  refine ⟨?_, readWord_setBytes hqm, fun _ => byte_setBytes_word_out hqm⟩
  rw [hqe]
  exact full_setFull _ a.pa true

end Served

end FullEmpty

/-! ### `monrel` (R219) -/

section Monrel
variable {s : State} {a : Acc} {v : Word} {o : Owner}

/-- Where no request has queued, a bank serves none. -/
theorem serveBank_unqueued (hr : s.resq = []) (h : Home) (pa n : Nat) : State.serveBank h pa n s = s := by
  cases n with
  | zero => rfl
  | succ n => simp only [State.serveBank, hr, List.find?_nil, ite_self]

/-- The reservations of an agent end together, and where no request has queued none takes their place. -/
theorem endResv_unqueued (hw : s.waiters = []) (hr : s.resq = []) :
    s.endResv o = { s with resv := s.resv.filter fun r => r.owner != o } := by
  unfold State.endResv
  split
  · next hnone =>
    have hall : s.resv.filter (fun r => r.owner != o) = s.resv := List.filter_eq_self.mpr fun r hm => by
      simpa using List.find?_eq_none.mp hnone r hm
    rw [hall]
  · refine (congrArg (State.serveBank _ _ _) (serveRange_unwaited ?_)).trans (serveBank_unqueued ?_ ..)
    · exact hw
    · exact hr

theorem holds_filter (s : State) (o : Owner) (pa : Nat) :
    State.holds { s with resv := s.resv.filter fun r => r.owner != o } o pa = false := by
  rw [State.holds, List.any_eq_false]
  intro r hm
  have hne := (List.mem_filter.mp hm).2
  simp_all

/-- A `monrel` at its home, once it has been counted: it turns on the reservation. -/
theorem perform_monrel (ho : a.op = .monrel v) (hb : s.behind = []) : s.perform a =
    if s.holds a.owner a.pa then
      (((s.countAccess a).storeAt a.home a.src a.pa (toBytes 8 v.toNat)).deliver a [1] false).endResv a.owner
    else (s.countAccess a).deliver a [0] false := by
  have hc : s.CountedFrom (s.countAccess a) := countedFrom_countHome (countedFrom_refl s) ..
  have hholds : (s.countAccess a).holds a.owner a.pa = s.holds a.owner a.pa := by
    obtain ⟨c, n, b, h⟩ := hc
    rw [h]
    rfl
  simp only [State.perform, ho, rehome_clean (hc.behind.trans hb), hholds]

/-- The count of an access leaves a home as quiet as it was, and what is queued there. -/
theorem countAccess_home (s : State) (a : Acc) : let q := s.countAccess a
    q.quietHome a.home a.pa = s.quietHome a.home a.pa ∧ q.resq = s.resq := by
  obtain ⟨c, n, b, h⟩ : s.CountedFrom (s.countAccess a) := countedFrom_countHome (countedFrom_refl s) ..
  rw [h]
  exact ⟨rfl, rfl⟩

theorem monrel_lost (ho : a.op = .monrel v) (hown : ∀ p, a.owner ≠ .image p) (hb : s.behind = [])
    (hh : s.holds a.owner a.pa = false) :
    (s.perform a).mem = s.mem ∧ s.perform a = (s.countAccess a).deliver a [0] false := by
  have hp : s.perform a = _ := (perform_monrel ho hb).trans (if_neg (by rw [hh]; exact Bool.false_ne_true))
  obtain ⟨t, r, hdel⟩ := deliver_cases hown (s.countAccess a) [0] false
  refine ⟨?_, hp⟩
  rw [hp, hdel]
  exact countAccess_mem s a

theorem monrel_held (ho : a.op = .monrel v) (hown : ∀ p, a.owner ≠ .image p) (hb : s.behind = [])
    (hh : s.holds a.owner a.pa = true) (hq : s.quietHome a.home a.pa = true) (hr : s.resq = []) :
    (s.perform a).readWord a.pa = v ∧ (s.perform a).holds a.owner a.pa = false ∧
      ∀ x, x < a.pa ∨ a.pa + 8 ≤ x → (s.perform a).byte x = s.byte x := by
  obtain ⟨hquiet, hresq⟩ := countAccess_home s a
  obtain ⟨hmem, hw, hrq, -⟩ :=
    storeAt_quiet_lists (s := s.countAccess a) (src := a.src) (bs := toBytes 8 v.toNat) (hquiet.trans hq)
  obtain ⟨t, r, hdel⟩ :=
    deliver_cases hown ((s.countAccess a).storeAt a.home a.src a.pa (toBytes 8 v.toNat)) [1] false
  have hp : s.perform a = _ := calc
    s.perform a = _ := (perform_monrel ho hb).trans (if_pos hh)
    _ = _ := congrArg (State.endResv · a.owner) hdel
    _ = _ := endResv_unqueued hw (hrq.trans (hresq.trans hr))
  have hpm : (s.perform a).mem = setBytes s.mem a.pa (toBytes 8 v.toNat) := by
    rw [hp, ← countAccess_mem s a]
    exact hmem
  refine ⟨readWord_setBytes hpm, ?_, fun _ => byte_setBytes_word_out hpm⟩
  rw [hp]
  exact holds_filter ..

end Monrel

/-- Settles O24: `atom` by the store that it makes at a quiet home, a full/empty request by whether its word is in the state
that it waits for, and `monrel` by whether its reservation is held. -/
theorem performedAtHome : Obligations.PerformedAtHome := by
  unfold Obligations.PerformedAtHome
  refine ⟨⟨fun s a op b d hq => ?atom, atomNew_table⟩, fun s a c v hq hr himg => ?fullEmpty,
    fun s a v u ho hu hb => ?monrel⟩
  case atom => exact ⟨_, rfl, doAtom_quiet op b d hq⟩
  case fullEmpty => exact ⟨ldfe_full hq hr himg, ldfe_empty hq hr, stfe_empty hq hr himg, stfe_full hq hr⟩
  case monrel =>
    have hown (p : Nat) : a.owner ≠ .image p := by rw [hu]; nofun
    exact ⟨monrel_lost ho hown hb, fun hh hq hr _ => monrel_held ho hown hb hh hq hr⟩

/-! ### The clock (R28, R222) -/

section Clock
variable {s : State} {h : Hdr} {d a : Opnd} {m : M5}

theorem sleep_completes : Completes (.sleep h d a m) s (s.past.openOut [.reg d] (.sleep (s.reg a)) 1).parkOwn :=
  completes_of_done rfl fun _ => by rw [past_reg]

/-- A thread is held back for as many cycles of its rotation as its kind of core has slots, 4 on a control core (log 71). -/
theorem yield_completes {n : Nat} (hn : s.cycleOf s.th.cc s.th.core + (if s.th.cc then 4 else slotsOf s.myCore.mode) = n) :
    Completes (.yield h m) s (s.past.setTh { s.past.th with hold := n }) :=
  completes_of_done rfl fun _ => by
    subst hn
    refine congrArg (fun n => Res.done (s.past.setTh { s.past.th with hold := n })) ?_
    rw [past_eq, advance_th_cc, advance_th_core, advance_myCore]
    rfl

theorem time_completes : Completes (.time h d m) s (s.past.setResult d (s.now, 0)) :=
  completes_of_done rfl fun _ => rfl

end Clock

/-- Settles O25: each instruction by what its body does in the issue turn; `yield` by the kind of its core. -/
theorem sleepYieldTime : Obligations.SleepYieldTime := by
  unfold Obligations.SleepYieldTime
  intro s h d a m p
  refine ⟨sleep_completes, fun hcc => yield_completes ?_, fun hcc => yield_completes ?_, time_completes⟩
  · simp only [hcc, Bool.false_eq_true, if_false]
    rfl
  · simp only [hcc, if_true]
    rfl

end Sys2Proof.Machine
end

section
/-! PROOFS. `shadow` opens and closes a shadow region (R232). -/

namespace Sys2Proof.Machine

section Shadows
variable {s : State} {h : Hdr} {d a b : Opnd} {m : MB} {fs : List Nat} {i : Nat} {g : Shadow}

theorem past_myCtx (s : State) : s.past.myCtx = s.myCtx := advance_myCtx s 8

theorem past_asid (s : State) : s.past.th.asid = s.th.asid := advance_th_asid s 8

/-- The range overlaps no open region of the context. -/
def State.Apart (s : State) (va : Word) (n : Nat) : Prop :=
  ∀ r ∈ s.myCtx.regions, ¬(va.toNat < r.2.base.toNat + r.2.pages * 0x10000 ∧ r.2.base.toNat < va.toNat + n)

/-- The check for an overlap misses only ranges that lie apart. -/
theorem overlaps_none_iff (va : Word) (n : Nat) :
    (s.myCtx.regions.any fun r => overlaps va.toNat n r.2.base.toNat (r.2.pages * 0x10000)) = false ↔ s.Apart va n := by
  simp only [List.any_eq_false, overlaps, Bool.and_eq_true, decide_eq_true_eq, State.Apart]

/-- What the checks of a range have remembered leaves the context of the thread. -/
theorem rememberAll_myCtx (s : State) (w : Who) (k : Nat) (l : List Word) : (s.rememberAll w k l).myCtx = s.myCtx := by
  obtain ⟨_, _, _, hr⟩ := countedFrom_rememberAll (countedFrom_refl s) w k l
  rw [hr]
  rfl

/-- With nothing under way to follow, the checks of one range go on. -/
theorem afterWalks_single {va : Word} {n k : Nat} {go : Res} (hw : s.walksAfter va n k = []) :
    s.afterWalks [(va, n, k)] go = go := by
  simp only [State.afterWalks, List.flatMap_cons, List.flatMap_nil, hw, List.append_nil]

section Fits
variable (hva : (s.reg a).toNat % 0x10000 = 0) (hn : (s.reg b).toNat ≠ 0) (hsize : (s.reg b).toNat % 0x10000 = 0)
  (hw : s.past.walksAfter (s.reg a) (s.reg b).toNat kWrite = [])
  (hcheck : s.past.checkRange s.past.who (s.reg a) (s.reg b).toNat kWrite = .ok ())
  (hfs : (s.past.rememberAll s.past.who kWrite (pagesOf (s.reg a) (s.reg b).toNat)).regionFrames
    ((s.reg b).toNat / 0x10000) (s.reg a) = .ok fs)
include hva hn hsize hw hcheck hfs

theorem shadow_opens (ha : s.Apart (s.reg a) (s.reg b).toNat)
    (hfree : ((List.range 64).find? fun i => !has s.myCtx.regions i) = some i) :
    let r := s.past.rememberAll s.past.who kWrite (pagesOf (s.reg a) (s.reg b).toNat)
    Completes (.shadow h d a b m) s (State.later (State.rehomeDeposits (r.onCtx s.th.asid fun c =>
      { c with regions := put c.regions i ⟨s.reg a, (s.reg b).toNat / 0x10000, fs, []⟩ })) [.reg d] [.reg d (word i)]) :=
  completes_of_done rfl fun hh => by
    simp only [past_arg hh, hn, hva, hsize, afterWalks_single hw, hcheck, hfs, rememberAll_myCtx, past_myCtx,
      (overlaps_none_iff _ _).mpr ha, hfree, ne_eq, not_true_eq_false, or_self, if_false, Bool.false_eq_true,
      past_asid]

theorem shadow_finds_none_free (ha : s.Apart (s.reg a) (s.reg b).toNat)
    (hfree : ((List.range 64).find? fun i => !has s.myCtx.regions i) = none) :
    Completes (.shadow h d a b m) s ((s.past.rememberAll s.past.who kWrite (pagesOf (s.reg a) (s.reg b).toNat)).later
      [.reg d] [.reg d allOnes]) :=
  completes_of_done rfl fun hh => by
    simp only [past_arg hh, hn, hva, hsize, afterWalks_single hw, hcheck, hfs, rememberAll_myCtx, past_myCtx,
      (overlaps_none_iff _ _).mpr ha, hfree, ne_eq, not_true_eq_false, or_self, if_false, Bool.false_eq_true]

theorem shadow_traps_overlap (ha : ¬s.Apart (s.reg a) (s.reg b).toNat) (hc : s.clear (.shadow h d a b m) = true) :
    exec (.shadow h d a b m) s = .next (s.trapNow (.of .prot (s.reg a))) :=
  traps_of_trap rfl (fun hh => by
    have hover := Bool.eq_true_of_not_eq_false fun hno => ha ((overlaps_none_iff _ _).mp hno)
    simp only [past_arg hh, hn, hva, hsize, afterWalks_single hw, hcheck, hfs, rememberAll_myCtx, past_myCtx,
      hover, ne_eq, not_true_eq_false, or_self, if_false, if_true]) hc

end Fits

theorem shadow_closes (hn : (s.reg b).toNat = 0)
    (hreg : (s.myCtx.regions.find? fun r => r.2.base == s.reg a) = some (i, g)) :
    Completes (.shadow h d a b m) s ((s.past.closeRegion s.th.asid i).later [.reg d] [.reg d (word i)]) :=
  completes_of_done rfl fun hh => by
    simp only [past_arg hh, hn, past_myCtx, hreg, if_true, past_asid]

theorem shadow_closes_none (hn : (s.reg b).toNat = 0)
    (hreg : (s.myCtx.regions.find? fun r => r.2.base == s.reg a) = none) :
    Completes (.shadow h d a b m) s (s.past.later [.reg d] [.reg d allOnes]) :=
  completes_of_done rfl fun hh => by
    simp only [past_arg hh, hn, past_myCtx, hreg, if_true]

/-- The base by R232, the size by the model's choice (log 28). -/
theorem shadow_traps_align (hn : (s.reg b).toNat ≠ 0)
    (hbad : (s.reg a).toNat % 0x10000 ≠ 0 ∨ (s.reg b).toNat % 0x10000 ≠ 0) (hc : s.clear (.shadow h d a b m) = true) :
    exec (.shadow h d a b m) s = .next (s.trapNow (.of .align (s.reg a))) :=
  traps_of_trap rfl (fun hh => by
    simp only [past_arg hh, hn, if_false]
    exact if_pos hbad) hc

end Shadows

/-- Settles O38: a fitting range by whether it lies apart from every region and whether one is free; length 0 by whether a
region starts at the address; ALIGN by the base and the size (log 28). -/
theorem shadowRegions : Obligations.ShadowRegions := by
  unfold Obligations.ShadowRegions
  intro s h d a b m fs i g p va n r fit apart free
  refine ⟨?opens, ?noneFree, ?overlap, shadow_closes, shadow_closes_none, shadow_traps_align⟩
  case opens => exact fun ⟨hva, hn, hsize, hw, hcheck, hfs⟩ => shadow_opens hva hn hsize hw hcheck hfs
  case noneFree => exact fun ⟨hva, hn, hsize, hw, hcheck, hfs⟩ => shadow_finds_none_free hva hn hsize hw hcheck hfs
  case overlap => exact fun ⟨hva, hn, hsize, hw, hcheck, hfs⟩ => shadow_traps_overlap hva hn hsize hw hcheck hfs

end Sys2Proof.Machine
end

section
/-! PROOFS. `cmsg`, `mrecv` and the delivery of messages (R228, R236, R410); `sigpost` (R348). -/

namespace Sys2Proof.Machine

/-- A native instruction whose body parks, parks. -/
theorem parks_of_park {i : Instr} {body : State → Res} {s q : State} {p : Park} (he : exec i s = native i body s)
    (hf : s.th.held = none → body s.past = .park q p) : Parks i s q p := fun h => by
  obtain ⟨_, _, _, _, _, _, _, hheld, _⟩ := clear_cases h
  rw [he, native_park h (hf hheld)]

theorem past_number (s : State) : s.past.th.thread = s.th.thread := advance_th_thread s 8

theorem past_mail (s : State) : s.past.th.mail = s.th.mail := advance_th_mail s 8

/-! ### Sending and taking a message (R228, R236, R410) -/

section Messages
variable {s q : State} {h : Hdr} {d a b : Opnd} {m : MB} {tgt thread : Nat} {u : Option Nat} {x : Word × Word}
  {r : List (Word × Word)}

/-- The word that tells whom a message of the issuing thread is from (R236). -/
def State.senderWord (s : State) : Word := word (s.th.asid * 2 ^ 16 + s.th.thread)

section Targets
variable (htgt : (if bits (s.reg a) 27 16 = 0 then s.th.asid else bits (s.reg a) 27 16) = tgt)
  (hthread : bits (s.reg a) 15 0 = thread)
include htgt

theorem cmsg_traps_gate (hmay : ¬(tgt = s.th.asid ∨ s.myCtx.hasGate tgt = true)) (hc : s.clear (.cmsg h d a b m) = true) :
    exec (.cmsg h d a b m) s = .next (s.trapNow (.of .prot (s.reg a))) :=
  traps_of_trap rfl (fun hh => by
    simp only [past_arg hh, past_asid, past_myCtx, htgt]
    exact if_pos (by simpa [not_or] using hmay)) hc

variable (hmay : tgt = s.th.asid ∨ s.myCtx.hasGate tgt = true)
include hthread hmay

/-- A message is sent to a thread whose mailbox or inbox has room, or that does not live any longer (log 29). -/
theorem cmsg_sends (hroom : ∀ u, s.past.mailbox tgt thread = some u →
      (s.past.mailTo tgt thread u (s.reg b) s.senderWord).isNone = false) :
    Completes (.cmsg h d a b m) s
      (s.past.post [.reg d] (.message tgt thread (s.reg b) s.senderWord d) 4 0 0 0 0) :=
  completes_of_done rfl fun hh => by
    have hgate : ¬(tgt ≠ s.th.asid ∧ (!s.myCtx.hasGate tgt) = true) := by simpa [imp_iff_not_or] using hmay
    simp only [past_arg hh, past_asid, past_number, past_myCtx, htgt, hthread, if_neg hgate]
    split
    · rfl
    · next u hu => exact if_neg (ne_true_of_eq_false (hroom u hu))

/-- It waits for room in the target's inbox (log 29). -/
theorem cmsg_parks (hu : s.past.mailbox tgt thread = some u)
    (hfull : s.past.mailTo tgt thread u (s.reg b) s.senderWord = none) :
    Parks (.cmsg h d a b m) s s.past (.inbox tgt) :=
  parks_of_park rfl fun hh => by
    have hgate : ¬(tgt ≠ s.th.asid ∧ (!s.myCtx.hasGate tgt) = true) := by simpa [imp_iff_not_or] using hmay
    simp only [past_arg hh, past_asid, past_number, past_myCtx, htgt, hthread, if_neg hgate, hu]
    exact if_pos (Option.isNone_iff_eq_none.mpr hfull)

end Targets

theorem mrecv_takes (hm : s.th.mail = x :: r) : Completes (.mrecv h d a m) s
    (State.later (s.past.setTh { s.past.th with mail := r }) (pairOf d true) [.reg d x.1, .reg d.succ x.2]) :=
  completes_of_done rfl fun _ => by simp only [past_mail, hm]

theorem mrecv_finds_none (hm : s.th.mail = []) (hbit : (s.reg a).getLsbD 0 = true) : Completes (.mrecv h d a m) s
    (s.past.later (pairOf d true) [.reg d 0, .reg d.succ allOnes]) :=
  completes_of_done rfl fun hh => by
    simp only [past_mail, hm, past_arg hh]
    exact if_pos hbit

theorem mrecv_waits (hm : s.th.mail = []) (hbit : (s.reg a).getLsbD 0 = false) : Parks (.mrecv h d a m) s s.past .mail :=
  parks_of_park rfl fun hh => by
    simp only [past_mail, hm, past_arg hh]
    exact if_neg (ne_true_of_eq_false hbit)

end Messages

/-! ### A message leaves the send queue and is delivered (R236) -/

section Delivery
variable {s q : State} {c : Cmd} {tgt thread asid u : Nat} {to? : Option Nat} {v w : Word} {d : Opnd}

/-- A thread that no longer lives is none (log 29). -/
theorem acceptMessage_none (hu : State.mailbox { s with cmds := s.cmds.filter fun x => x.id != c.id } tgt thread = none) :
    s.acceptMessage c tgt thread v w d =
      State.resultTo { s with cmds := s.cmds.filter fun x => x.id != c.id } c [.reg d 1] := by
  simp only [State.acceptMessage, hu]

theorem acceptMessage_some (hu : State.mailbox { s with cmds := s.cmds.filter fun x => x.id != c.id } tgt thread = some to?)
    (hq : State.mailTo { s with cmds := s.cmds.filter fun x => x.id != c.id } tgt thread to? v w = some q) :
    s.acceptMessage c tgt thread v w d = q.resultTo c [.reg d 0] := by
  simp only [State.acceptMessage, hu, hq, Option.getD_some]

theorem mailTo_mailbox (hl : has s.threads u = true) (hslot : (s.thread u).inSlot = true) (hruns : s.runs asid = true)
    (hroom : (s.thread u).mail.length < 4) (hfirst : ∀ e ∈ (s.ctx asid).inbox, e.1 ≠ thread) :
    ∃ q, s.mailTo asid thread (some u) v w = some q ∧ (q.thread u).mail = (s.thread u).mail ++ [(v, w)] := by
  have hnone : ((s.ctx asid).inbox.any fun e => e.1 == thread) = false :=
    List.any_eq_false.mpr fun e he => by simpa using hfirst e he
  refine ⟨s.onThread u fun t => { t with mail := t.mail ++ [(v, w)] }, ?_, by rw [thread_onThread hl]⟩
  exact if_pos ⟨hslot, hruns, hroom, by rw [hnone]; rfl⟩

theorem mailTo_inbox (hroom : (s.ctx asid).inbox.length < 256) :
    ∃ q, s.mailTo asid thread none v w = some q ∧ (q.ctx asid).inbox = (s.ctx asid).inbox ++ [(thread, v, w)] := by
  refine ⟨s.onCtx asid fun c => { c with inbox := c.inbox ++ [(thread, v, w)] }, if_pos hroom, ?_⟩
  rw [State.onCtx, ctx_setCtx]

end Delivery

/-! ### `sigpost` (R348) -/

section Signals
variable {s : State} {h : Hdr} {d a b : Opnd} {m : MD} {v : Nat}

/-- Where a `sigpost` with a selector puts its event, and what it answers: 0 when the event is posted, 1 when its target is
full, 2 when there is none (R348). A parent answers as `signalQueue` does: 2 without a queue, 1 when it is full or its write
fails (log 40). -/
def State.sigpostTo (s : State) (sel : Nat) (e : Event) : State × Nat :=
  match sel with
  | 0 => if s.th.asid = 0 then (s, 2) else s.signalQueue s.myCtx.parent e
  | 1 =>
    match s.mailboxOf s.th.asid with
    | none => (s, 2)
    | some v => if (get Vf.new s.vfs v).room then (s.postMailbox v e, 0) else (s, 1)
  | _ => (s, 2)

/-- Once its release waits for nothing, a `sigpost` answers by its selector. -/
theorem sigpost_completes (hr : s.releaseIds 6 = []) {sel : Nat} (hsel : bits (s.reg a) 1 0 = sel) {x : State × Nat}
    (hx : s.past.sigpostTo sel (s.past.signal (s.reg b)) = x) :
    Completes (.sigpost h d a b m) s (x.1.later [.reg d] [.reg d (word x.2)]) :=
  completes_of_done rfl fun hh => by
    have hrel : s.past.releaseIds 6 = [] := (advance_releaseIds s 8 6).trans hr
    subst hx
    simp only [State.released, hrel, past_arg hh, hsel, State.sigpostTo]
    match sel with
    | 0 => by_cases hroot : s.past.th.asid = 0 <;> simp only [hroot, if_true, if_false]
    | 1 =>
      cases s.past.mailboxOf s.past.th.asid with
      | none => rfl
      | some v =>
        by_cases hroom : (get Vf.new s.past.vfs v).room = true
        · simp only [hroom, if_true]
        · simp only [hroom, if_false, Bool.false_eq_true]
    | _ + 2 => rfl

theorem sigpostTo_root {e : Event} (hroot : s.th.asid = 0) : s.past.sigpostTo 0 e = (s.past, 2) :=
  if_pos ((past_asid s).trans hroot)

theorem sigpostTo_parent {e : Event} (hroot : s.th.asid ≠ 0) :
    s.past.sigpostTo 0 e = s.past.signalQueue s.myCtx.parent e := by
  rw [← past_myCtx s]
  exact if_neg (by rwa [past_asid])

theorem sigpostTo_no_mailbox {e : Event} (hbox : s.past.mailboxOf s.th.asid = none) :
    s.past.sigpostTo 1 e = (s.past, 2) := by
  simp only [State.sigpostTo, past_asid, hbox]

theorem sigpostTo_mailbox {e : Event} (hbox : s.past.mailboxOf s.th.asid = some v) : s.past.sigpostTo 1 e =
    if (get Vf.new s.vfs v).room then (s.past.postMailbox v e, 0) else (s.past, 1) := by
  simp only [State.sigpostTo, past_asid, hbox]
  rfl

theorem sigpostTo_reserved {e : Event} {sel : Nat} (hsel : 2 ≤ sel) : s.sigpostTo sel e = (s, 2) := by
  match sel, hsel with
  | _ + 2, _ => rfl

theorem postMailbox_tail (s : State) (n : Nat) (e : Event) :
    (get Vf.new (s.postMailbox n e).vfs n).tail = (get Vf.new s.vfs n).tail + 1 :=
  congrArg Vf.tail (get_put ..)

end Signals

/-- Settles O40: `cmsg` by its gate and by the room at its target, `mrecv` by the oldest message, delivery by where a message
finds room, and `sigpost` by its selector. The room that a sender waits for, and what becomes of a message to a thread that has
ended, are the model's choices (log 29); the answers of a parent's queue are deduced (log 40). -/
theorem messagesAndSignals : Obligations.MessagesAndSignals := by
  unfold Obligations.MessagesAndSignals
  refine ⟨⟨?messages, ?accepted, ?delivered⟩, ?signals,
    fun s v n e => ⟨rfl, rfl, rfl, rfl, postMailbox_tail s n e, rfl⟩⟩
  case messages =>
    intro s h d a b m u q x r p xa tgt thread may from_ sent
    have hfield : bits xa 27 16 = xa.toNat / 2 ^ 16 % 4096 := bits_eq_div_mod xa 27 16
    have htgt : (if bits xa 27 16 = 0 then s.th.asid else bits xa 27 16) = tgt := by rw [hfield]
    have hthread : bits xa 15 0 = thread := bits_low xa 15
    refine ⟨fun hmay => ⟨fun hu => ?gone, fun hu hq => ?room, cmsg_parks htgt hthread hmay⟩, cmsg_traps_gate htgt,
      mrecv_takes, mrecv_finds_none, mrecv_waits⟩
    case gone => exact cmsg_sends htgt hthread hmay fun u' hu' => by cases hu.symm.trans hu'
    case room =>
      refine cmsg_sends htgt hthread hmay fun u' hu' => ?_
      cases hu.symm.trans hu'
      exact Option.isNone_eq_false_iff.mpr (Option.isSome_of_eq_some hq)
  case accepted => exact fun s q c tgt thread u v w d => ⟨acceptMessage_none, acceptMessage_some⟩
  case delivered =>
    exact fun s asid thread u v w hl => ⟨mailTo_mailbox hl, mailTo_inbox⟩
  case signals =>
    intro s h d a b m v p e give sel up hr
    have hsel : bits (s.reg a) 1 0 = sel := bits_low (s.reg a) 1
    refine ⟨fun h0 hroot => ?root, fun h0 hroot => ?parent, fun h1 hbox => ?noMailbox, fun h1 hbox hroom => ?posted,
      fun h1 hbox hroom => ?full, fun h2 => ?reserved⟩
    case root => exact sigpost_completes hr (hsel.trans h0) (sigpostTo_root hroot)
    case parent => exact sigpost_completes hr (hsel.trans h0) (sigpostTo_parent hroot)
    case noMailbox => exact sigpost_completes hr (hsel.trans h1) (sigpostTo_no_mailbox hbox)
    case posted => exact sigpost_completes hr (hsel.trans h1) ((sigpostTo_mailbox hbox).trans (if_pos hroom))
    case full =>
      exact sigpost_completes hr (hsel.trans h1) ((sigpostTo_mailbox hbox).trans (if_neg (ne_true_of_eq_false hroom)))
    case reserved => exact sigpost_completes hr hsel (sigpostTo_reserved h2)

end Sys2Proof.Machine
end

section
/-! PROOFS. `bcfg` that goes on without a grant (R225), and a command that goes on without the test of its unit (R13). -/

namespace Sys2Proof.Machine

/-! ### Two traps that both wait for a drain leave different states (R26) -/

theorem trapNow_injective {s : State} {t t' : Trap} (hl : has s.threads s.cur = true) (hd : s.drained s.cur = false)
    (he : s.trapNow t = s.trapNow t') : t = t' := by
  have hpark (t : Trap) : (s.trapNow t).th.park = .trap t true := by rw [trapNow_undrained hl hd, th_setTh]
  have hsame : Park.trap t true = .trap t' true := by rw [← hpark t, he, hpark t']
  cases hsame
  rfl

/-! ### A `bcfg` keeps its barrier (R33, R225) -/

section Kept
variable {s : State} {h : Hdr} {a b : Opnd} {res : Bool} {k : Word} {tr : Trap}

/-- A `bcfg` that has kept its barrier goes on with it: nothing asks for the grant again. -/
theorem cfgBarrier_of_kept {go : Nat → Res} (hk : s.th.kept = [k]) : s.cfgBarrier a go = go k.toNat := by
  rw [State.cfgBarrier, hk]

/-- So a descriptor that fails its checks is the first trap that it can raise. -/
theorem bcfg_kept_traps (hk : s.th.kept = [k]) (harr : s.past.arriving k.toNat = [])
    (hbad : (s.past.setTh { s.past.th with kept := [word k.toNat] }).descriptorChecks (s.reg b) 16 80 = .error tr)
    (hc : s.clear (.bcfg h a b res) = true) : exec (.bcfg h a b res) s = .next (s.trapNow tr) :=
  traps_of_trap rfl (fun hh => by
    have hkept : s.past.th.kept = [k] := (advance_th_kept s 8).trans hk
    simp only [cfgBarrier_of_kept hkept, past_arg hh, State.afterArrivals, harr, State.descriptor, hbad]) hc

end Kept

/-- Refutes O35: that `bcfg` of a number which is not granted raises PROT is stated of every state that is clear for it, also of
one in which it has kept its barrier. One that has waited for its descriptor's home has kept it, and does not ask for the grant
again. Here no number is granted, barrier 0 is kept, and the descriptor's address 1 raises ALIGN. -/
theorem not_barriers : ¬Obligations.Barriers := by
  unfold Obligations.Barriers
  intro hall
  let t : Thread :=
    { placedNative with kept := [0], x := [(2, 1)], outst := [⟨1, [], .done [], 1, [], [], []⟩] }
  let s : State := { State.reset with cur := 1, ctxs := [], threads := [(1, t)] }
  have hc : s.clear (.bcfg ⟨false, 0, false⟩ ⟨false, 0⟩ ⟨false, 2⟩ false) = true := by decide
  have hgrant : s.barrierGranted s.th.asid s.th.core ((s.reg ⟨false, 0⟩).toNat % 32) = false := rfl
  have hclause := hall.1 s s ⟨false, 0, false⟩ ⟨false, 0⟩ ⟨false, 0⟩ ⟨false, 2⟩ false []
  have hprot := (hclause.2 hgrant).2.2.2 hc
  have halign := (bcfg_kept_traps (k := 0) (tr := .of .align 1) rfl rfl rfl hc).symm.trans hprot
  cases trapNow_injective (by rfl) (by rfl) (Host.Outcome.next.inj halign)

/-! ### A command that goes on from a park (R4, R13, R228) -/

/-- An instruction that goes on takes the trap that its body raises (R4). -/
theorem resumes_traps {i : Instr} {body : State → Res} {s : State} {t : Trap} (he : exec i s = native i body s)
    (hb : body s.past = .trap t) (h : s.resumes i = true) : exec i s = .next (s.trapNow t) := by
  simp only [State.resumes, Bool.and_eq_true, Option.isNone_iff_eq_none] at h
  obtain ⟨⟨hlive, hchecks⟩, hgo⟩ := h
  have hb' : body (s.advance 8) = .trap t := hb
  simp only [he, native, hlive, State.issue, hchecks, hgo, if_true, hb']

/-- A `npost` that goes on reads its descriptor, whatever units the part has. -/
theorem npost_goes_on_traps_align {s : State} {h : Hdr} {a : Opnd} {m : MB} (hf : s.past.fenced false true = [])
    (hva : (s.reg a).toNat % 16 ≠ 0) (hr : s.resumes (.npost h a m) = true) :
    exec (.npost h a m) s = .next (s.trapNow (.of .align (s.reg a))) :=
  resumes_traps rfl (by simp only [State.fencedStore, hf, past_reg, State.localDescriptor, hva, ne_eq, not_false_eq_true,
    if_true]) hr

/-- Refutes O37: that an instruction whose unit the part lacks raises UNIT_ABSENT is stated of every state, also of one in which
it goes on from a park, which does not test the unit (R4). Here a part without Geyser goes on with `npost`, and the
descriptor's address 1 raises ALIGN. -/
theorem not_engineCommands : ¬Obligations.EngineCommands := by
  unfold Obligations.EngineCommands
  intro hall
  let i : Instr := .npost ⟨false, 0, false⟩ ⟨false, 2⟩ ⟨0, 0, 0, false⟩
  let t : Thread :=
    { placedNative with held := some (i.word, []), x := [(2, 1)], outst := [⟨1, [], .done [], 1, [], [], []⟩] }
  let s : State := { State.reset with part := .af860, cur := 1, threads := [(1, t)] }
  have hunit := (hall.2.2 s ⟨false, 0, false⟩ i i.word 0 ⟨false, 0⟩ ⟨false, 0⟩ 0 ⟨0, 0, 0, false⟩ ⟨0, false, 0⟩).1
    rfl rfl rfl rfl rfl (by decide) rfl
  have halign : exec i s = .next (s.trapNow (.of .align 1)) := npost_goes_on_traps_align rfl (by decide) rfl
  cases trapNow_injective (by rfl) (by rfl) (Host.Outcome.next.inj (halign.symm.trans hunit))

end Sys2Proof.Machine
end

section
/-! PROOFS. Neighbour-paced execution (R241 to R257): joining a group, the steps of a member core, and the loads of its edges. -/

namespace Sys2Proof.Machine

/-! ### What a thread that begins parks with -/

/-- An instruction whose body parks it parks, with room for its result or without (R23). -/
theorem native_begins_park {s q : State} {p : Park} {i : Instr} {body : State → Res} (h : s.begins i = true)
    (hb : s.th.held = none → body s.past = .park q p) : native i body s = .next (s.parkBody q i s.th.pc p) := by
  obtain ⟨hlive, hchecks, hunit, hguard, hback, hout, hpoison, hheld⟩ := begins_cases h
  have hgo : s.goesOn i = false := by simp [State.goesOn, hheld]
  have hpg : Dst.pred i.info.hdr.pg ∈ i.info.sources := by simp [Info.sources]
  have hreads : ∀ d ∈ i.info.reads, d ∈ i.info.sources := fun d hd => by simp [Info.sources, hd]
  have hg : s.readEarly [.pred i.info.hdr.pg] = s := readEarly_same _ _ fun d hd => by
    rw [List.mem_singleton.mp hd]
    exact hout _ (List.mem_append_left _ hpg)
  have hr : s.readEarly i.info.reads = s :=
    readEarly_same _ _ fun d hd => hout d (List.mem_append_left _ (hreads d hd))
  have hw : s.writeEarly i.info.writes = s := writeEarly_same _ _ fun d hd => hout d (List.mem_append_right _ hd)
  have hp : s.poisonRead (.pred i.info.hdr.pg) = false := by simp [State.poisonRead, hpoison _ hpg]
  have hs : i.info.reads.any s.poisonRead = false :=
    List.any_eq_false.mpr fun d hd => by simp [State.poisonRead, hpoison d (hreads d hd)]
  have hq : s.parksFirst i.info body = none := by
    have hany : (i.info.reads ++ i.info.writes).any s.outstanding = false := List.any_eq_false.mpr fun d hd => by
      have hmem : d ∈ i.info.sources ++ i.info.writes := by
        rcases List.mem_append.mp hd with hd | hd
        · exact List.mem_append_left _ (hreads d hd)
        · exact List.mem_append_right _ hd
      simp [hout d hmem]
    simp [State.parksFirst, hany]
  have hn : (s.pred i.info.hdr.pg = i.info.hdr.pn) = False := eq_false hguard
  have hbody : body (s.advance 8) = .park q p := hb hheld
  simp only [native, hlive, State.issue, hchecks, hgo, hg, hp, hn, hunit, hback, hq, hr, hs, hw, hbody, if_true, if_false,
    Bool.false_eq_true]

theorem begins_trace {s : State} {i : Instr} (h : s.begins i = true) : s.past.th.trace = [] := by
  simp only [State.begins, Bool.and_eq_true, List.isEmpty_iff] at h
  exact (advance_th_trace s 8).trans h.2

theorem past_isMember (s : State) (c a : Nat) : s.past.isMember c a = s.isMember c a := rfl

theorem past_core (s : State) : s.past.th.core = s.th.core := advance_th_core s 8

/-! ### Descriptors in local memory (R228) -/

section Local
variable {s p : State} {va : Word} {len : Nat} {go : State → List Byte → Res}

theorem dropLine_threads (l : Nat) (old : Held) : (s.dropLine l old).threads = s.threads := by
  unfold State.dropLine
  dsimp only
  split <;> rfl

theorem rehome_threads (h : Home) (pa n : Nat) : (s.rehome h pa n).threads = s.threads := by
  unfold State.rehome
  split
  · rfl
  · refine forEach_reads (·.threads) (fun l q => ?_) _ s
    split
    · rfl
    · split
      · rfl
      · exact dropLine_threads ..

theorem dropLine_cur (l : Nat) (old : Held) : (s.dropLine l old).cur = s.cur := by
  unfold State.dropLine
  dsimp only
  split <;> rfl

theorem rehome_cur (h : Home) (pa n : Nat) : (s.rehome h pa n).cur = s.cur := by
  unfold State.rehome
  split
  · rfl
  · refine forEach_reads (·.cur) (fun l q => ?_) _ s
    split
    · rfl
    · split
      · rfl
      · exact dropLine_cur ..

/-- A read that is made at once is counted, and may lose a line that another home holds: the threads stay (R376, R408). -/
theorem touch_threads (h : Home) (pa n : Nat) : (s.touch h va pa n).threads = s.threads :=
  (rehome_threads h pa n).trans (countedFrom_countHome (countedFrom_refl s) s.th.asid h s.next).threads

theorem State.CountedFrom.cur {q : State} (h : s.CountedFrom q) : q.cur = s.cur := by obtain ⟨c, n, b, rfl⟩ := h; rfl

theorem touch_cur (h : Home) (pa n : Nat) : (s.touch h va pa n).cur = s.cur :=
  (rehome_cur h pa n).trans (countedFrom_countHome (countedFrom_refl s) s.th.asid h s.next).cur

theorem localRead_cur : (s.localRead va len).cur = s.cur := touch_cur ..

theorem localRead_th : (s.localRead va len).th = s.th := by
  rw [State.th, localRead_cur, State.thread, State.localRead, touch_threads]
  rfl

/-- A descriptor that can be read is. -/
theorem localDescriptor_goes (h : p.localReady va len) :
    p.localDescriptor va len go = go (p.localRead va len) (p.localBytes va len) := by
  obtain ⟨halign, hwindow, hfirst, hlast, hread1, hread2, hclean⟩ := h
  unfold State.readsAtOnce at hread1 hread2
  have hwin : ¬0x200000 < va.toNat + len := Nat.not_lt.mpr hwindow
  simp only [State.localDescriptor, halign, hwin, hfirst, hlast, hread1, hread2, hclean, ne_eq, not_true_eq_false,
    Bool.and_self, Bool.not_true, Bool.false_eq_true, if_false]
  rfl

end Local

/-! ### Joining a group (R246, R252) -/

section Join
variable {s p : State} {h : Hdr} {d a : Opnd} {m : MC} {va : Word} {bs : List Byte} {bad : Bool} {r : Nat}

/-- The pairing wait of a thread of a core begins, with the descriptor that it has read. -/
def State.pairingBegun (z : State) (core asid uid : Nat) (d : Opnd) (x : StepDesc) : State :=
  ((z.openOut [.reg d] (.done []) 1).parkOwn).onStep core fun k => { k with
    epoch := z.next, asid := asid, group := x.group, nt := x.nt, start := x.start, preds := x.preds, succs := x.succs,
    owed := [], pairing := some (uid, z.next, d, x.wdog) }

theorem beginPairing_eq (z : State) (d : Opnd) (x : StepDesc) :
    z.beginPairing x d = .done (z.pairingBegun z.th.core z.th.asid z.cur d x) := by
  have hcore : (z.openOut [.reg d] (.done []) 1).parkOwn.th.core = z.th.core := by
    rw [State.parkOwn, th_setTh, openOut_th]
    rfl
  simp only [State.beginPairing, hcore]
  rfl

theorem joinGroup_goesOn (ht : p.th.trace = [.got bs bad]) :
    p.joinGroup va d = .done (p.pairingBegun p.th.core p.th.asid p.cur d (stepDesc bs)) := by
  simp only [State.joinGroup, ht, beginPairing_eq]

theorem joinGroup_traps_align (ht : p.th.trace = []) (hva : va.toNat % 64 ≠ 0) :
    p.joinGroup va d = .trap (.of .align va) := by
  simp only [State.joinGroup, ht, if_pos hva]

/-- The length of the descriptor whose header stands at an address (R252). -/
def State.stepLen (p : State) (va : Word) : Nat :=
  let hd := dword (p.localBytes va 16) 0
  16 + 16 * (hd.toNat / 2 ^ 32 % 16 + hd.toNat / 2 ^ 36 % 16)

/-- The descriptor at an aligned address can be read, its header first. -/
structure State.stepReady (p : State) (va : Word) : Prop where
  aligned : va.toNat % 64 = 0
  header : p.localReady va 16
  preds : (dword (p.localBytes va 16) 0).toNat / 2 ^ 32 % 16 ≤ 8
  succs : (dword (p.localBytes va 16) 0).toNat / 2 ^ 36 % 16 ≤ 8
  rest : (p.localRead va 16).localReady va (p.stepLen va)

/-- The bytes of the descriptor. -/
def State.stepBytes (p : State) (va : Word) : List Byte := (p.localRead va 16).localBytes va (p.stepLen va)

/-- The state after the two reads. -/
def State.stepRead (p : State) (va : Word) : State := (p.localRead va 16).localRead va (p.stepLen va)

theorem stepRead_th : (p.stepRead va).th = p.th := by rw [State.stepRead, localRead_th, localRead_th]

theorem stepRead_cur : (p.stepRead va).cur = p.cur := by rw [State.stepRead, localRead_cur, localRead_cur]

/-- What `stepcfg` answers to a descriptor that it has read: the checks of R246, then room for its result (R23). -/
def State.answerJoin (y : State) (core asid : Nat) (d : Opnd) (bs : List Byte) : Res :=
  match y.stepReason core asid (stepDesc bs) with
  | some r => .trap (stepCfg r)
  | none =>
    if 16 ≤ y.th.outst.length then .park (y.note (.got bs false)) .room
    else .done (y.pairingBegun core asid y.cur d (stepDesc bs))

theorem joinGroup_reads (ht : p.th.trace = []) (hr : p.stepReady va) :
    p.joinGroup va d = (p.stepRead va).answerJoin p.th.core p.th.asid d (p.stepBytes va) := by
  obtain ⟨halign, hheader, hpreds, hsuccs, hrest⟩ := hr
  have hnp : bits (dword (p.localBytes va 16) 0) 35 32 = (dword (p.localBytes va 16) 0).toNat / 2 ^ 32 % 16 :=
    bits_eq_div_mod ..
  have hns : bits (dword (p.localBytes va 16) 0) 39 36 = (dword (p.localBytes va 16) 0).toNat / 2 ^ 36 % 16 :=
    bits_eq_div_mod ..
  have hcount : ¬(8 < (dword (p.localBytes va 16) 0).toNat / 2 ^ 32 % 16 ∨
      8 < (dword (p.localBytes va 16) 0).toNat / 2 ^ 36 % 16) := by omega
  simp only [State.joinGroup, ht, halign, ne_eq, not_true_eq_false, if_false, localDescriptor_goes hheader, hnp, hns, hcount]
  refine (localDescriptor_goes hrest).trans ?_
  rw [State.answerJoin, ← State.stepRead, ← State.stepBytes]
  simp only [beginPairing_eq, stepRead_th] <;> rfl

theorem answerJoin_traps {y : State} {core asid : Nat} (hx : y.stepReason core asid (stepDesc bs) = some r) :
    y.answerJoin core asid d bs = .trap (stepCfg r) := by simp only [State.answerJoin, hx]

theorem answerJoin_begins {y : State} {core asid : Nat} (hx : y.stepReason core asid (stepDesc bs) = none)
    (hroom : ¬16 ≤ y.th.outst.length) :
    y.answerJoin core asid d bs = .done (y.pairingBegun core asid y.cur d (stepDesc bs)) := by
  simp only [State.answerJoin, hx, if_neg hroom]

theorem answerJoin_parks {y : State} {core asid : Nat} (hx : y.stepReason core asid (stepDesc bs) = none)
    (hfull : 16 ≤ y.th.outst.length) : y.answerJoin core asid d bs = .park (y.note (.got bs false)) .room := by
  simp only [State.answerJoin, hx, if_pos hfull]

theorem stepcfg_goesOn (ht : s.th.trace = [.got bs bad]) (hva : s.past.arg a ≠ 0) :
    Resumes (.stepcfg h d a m) s (s.past.pairingBegun s.th.core s.th.asid s.cur d (stepDesc bs)) :=
  resumes_of_done rfl (by
    rw [if_pos hva, joinGroup_goesOn (bad := bad) (by simpa using ht), past_core, past_asid]
    rfl)

theorem stepcfg_traps_align (hva : s.reg a ≠ 0) (hal : (s.reg a).toNat % 64 ≠ 0)
    (hc : s.clear (.stepcfg h d a m) = true) :
    exec (.stepcfg h d a m) s = .next (s.trapNow (.of .align (s.reg a))) :=
  traps_of_trap rfl (fun hh => by
    rw [past_arg hh, if_pos hva, joinGroup_traps_align (past_trace hc) hal]) hc

section Reads
variable (hr : s.past.stepReady (s.reg a))
include hr

/-- The descriptor is read, and answered to. -/
theorem joinGroup_answers (hh : s.th.held = none) (ht : s.past.th.trace = []) :
    s.past.joinGroup (s.past.arg a) d =
      (s.past.stepRead (s.reg a)).answerJoin s.th.core s.th.asid d (s.past.stepBytes (s.reg a)) := by
  rw [past_arg hh, joinGroup_reads ht hr, past_asid, past_core]

variable (hva : s.reg a ≠ 0)
include hva

theorem stepcfg_traps
    (hx : (s.past.stepRead (s.reg a)).stepReason s.th.core s.th.asid (stepDesc (s.past.stepBytes (s.reg a))) = some r)
    (hc : s.clear (.stepcfg h d a m) = true) :
    exec (.stepcfg h d a m) s = .next (s.trapNow (.of .stepCfg (word r))) :=
  traps_of_trap rfl (fun hh => by
    rw [if_pos (by rwa [past_arg hh]), joinGroup_answers hr hh (past_trace hc), answerJoin_traps hx]
    rfl) hc

variable (hx : (s.past.stepRead (s.reg a)).stepReason s.th.core s.th.asid (stepDesc (s.past.stepBytes (s.reg a))) = none)
include hx

theorem stepcfg_pairs : Completes (.stepcfg h d a m) s
    ((s.past.stepRead (s.reg a)).pairingBegun s.th.core s.th.asid s.cur d (stepDesc (s.past.stepBytes (s.reg a)))) :=
  fun hc => by
    have hroom := clear_room hc rfl
    refine completes_of_done rfl (fun hh => ?_) hc
    rw [if_pos (by rwa [past_arg hh]), joinGroup_answers hr hh (past_trace hc), answerJoin_begins hx, stepRead_cur]
    · rfl
    · simpa [stepRead_th] using hroom

theorem stepcfg_waits_room (hb : s.begins (.stepcfg h d a m) = true) (hfull : 16 ≤ s.th.outst.length) :
    let y := s.past.stepRead (s.reg a)
    exec (.stepcfg h d a m) s = .next (s.parkBody
      (y.setTh { y.th with trace := [.got (s.past.stepBytes (s.reg a)) false] }) (.stepcfg h d a m) s.th.pc .room) :=
  native_begins_park hb fun hh => by
    have htrace : (s.past.stepRead (s.reg a)).th.trace = [] := by rw [stepRead_th, begins_trace hb]
    rw [if_pos (by rwa [past_arg hh]), joinGroup_answers hr hh (begins_trace hb), answerJoin_parks hx, State.note, htrace]
    · rfl
    · simpa [stepRead_th] using hfull

end Reads

theorem stepcfg_leaves (hva : s.reg a = 0) (hm : s.isMember s.th.core s.th.asid = true) :
    Completes (.stepcfg h d a m) s ((s.past.leaveGroup s.th.core).later [.reg d] [.reg d 0]) :=
  completes_of_done rfl fun hh => by
    rw [past_arg hh, past_isMember, past_core, past_asid, if_neg (not_not.mpr hva), if_pos hm]

theorem stepcfg_answers_one (hva : s.reg a = 0) (hm : s.isMember s.th.core s.th.asid = false) :
    Completes (.stepcfg h d a m) s (s.past.later [.reg d] [.reg d 1]) :=
  completes_of_done rfl fun hh => by
    rw [past_arg hh, past_isMember, past_core, past_asid, if_neg (not_not.mpr hva), if_neg (ne_true_of_eq_false hm)]

end Join
/-! ### A pairing ends without a failing edge (R252) -/

section Pairing
variable {s : State} {c u o w : Nat} {d : Opnd}

/-- The core as it joins its group. -/
def State.joined (s : State) (c w : Nat) : Core :=
  let n := (s.core c).nb
  { s.core c with
    step := n.start, stepDone := n.start - 1,
    nb := { n with
      active := true, wdog := w, pairing := none, owed := [], arrived := [], cutPend := false, cutHeld := false,
      preds := n.preds.map fun e => e.joined n.start (s.core e.core).nb,
      succs := n.succs.map fun e => { e with epoch := (s.core e.core).nb.epoch, sd := n.start - 1 } } }

/-- A core in which what others still compare with may have become less. -/
def Core.OwesOf (k k' : Core) : Prop := ∃ l, k' = { k with nb := { k.nb with owed := l } }

theorem unowed_core (f : List Nat → List Nat) (l : List Nat) (q : State) :
    (q.core c).OwesOf ((forEach (fun a s => State.onStep s a fun n => { n with owed := f n.owed }) l q).core c) := by
  refine forEach_keeps (P := fun x => (q.core c).OwesOf (x.core c)) (fun a (x : State) hx => ?_) l ⟨(q.core c).nb.owed, rfl⟩
  obtain ⟨owed, hx⟩ := hx
  by_cases h : c = a
  · subst h
    exact ⟨f owed, by rw [State.onStep, State.onCore, core_setCore, hx]⟩
  · exact ⟨owed, by rw [State.onStep, State.onCore, core_setCore_ne _ _ h, hx]⟩

theorem pair_joins (hp : (s.core c).nb.pairing = some (u, o, d, w)) (hr : s.pairResult c = 0) :
    (s.joined c w).OwesOf ((s.pair c).core c) := by
  have hcore : (s.onCore c fun _ => s.joined c w).core c = s.joined c w := core_setCore ..
  have hpair := unowed_core (c := c) (fun l => l.filter (· ≠ c)) (s.core c).nb.neighbours (s.onCore c fun _ => s.joined c w)
  rw [hcore] at hpair
  simp only [State.pair, hp, hr, if_true]
  rw [State.core, onThread_cores]
  exact hpair

theorem joined_pred (e : Pred) (start : Word) (p : StepState) :
    (e.joined start p).core = e.core ∧ (e.joined start p).pd = start - 1 ∧ (e.joined start p).epoch = p.epoch := by
  unfold Pred.joined
  split <;> exact ⟨rfl, rfl, rfl⟩

theorem pair_begins_start (hp : (s.core c).nb.pairing = some (u, o, d, w)) (hr : s.pairResult c = 0) :
    let k := (s.pair c).core c
    k.step = (s.core c).nb.start ∧ k.stepDone = (s.core c).nb.start - 1 ∧ k.nb.active = true ∧
    (∀ e ∈ k.nb.preds, e.pd = (s.core c).nb.start - 1 ∧ e.epoch = (s.core e.core).nb.epoch) ∧
    (∀ e ∈ k.nb.succs, e.sd = (s.core c).nb.start - 1 ∧ e.epoch = (s.core e.core).nb.epoch) := by
  intro k
  obtain ⟨l, hk⟩ := pair_joins hp hr
  have hk : k = _ := hk
  rw [hk]
  refine ⟨rfl, rfl, rfl, fun e he => ?_, fun e he => ?_⟩
  · obtain ⟨x, -, rfl⟩ := List.mem_map.mp he
    obtain ⟨hcore, hpd, hepoch⟩ := joined_pred x (s.core c).nb.start (s.core x.core).nb
    exact ⟨hpd, by rw [hepoch, hcore]⟩
  · obtain ⟨x, -, rfl⟩ := List.mem_map.mp he
    exact ⟨rfl, rfl⟩

end Pairing

/-! ### Member cores (R242, R246, R253, R255 to R257) -/

section Member
variable {s : State} {h : Hdr} {d a b : Opnd} {m : MC} {e : Succ} {v : Word} {t : Tr}

theorem member_traps {i : Instr} {body : State → Res} (he : exec i s = native i (fun q => q.member (body q)) s)
    (hm : s.isMember s.th.core s.th.asid = false) (hc : s.clear i = true) :
    exec i s = .next (s.trapNow (.of .stepCfg 1)) :=
  traps_of_trap he (fun _ => by
    rw [State.member, past_isMember, past_core, past_asid, if_neg (ne_true_of_eq_false hm)]
    rfl) hc

variable (hm : s.isMember s.th.core s.th.asid = true)
include hm

theorem past_member (go : Res) : s.past.member go = go := by
  rw [State.member, past_isMember, past_core, past_asid, if_pos hm]

theorem stepend_completes (hr : s.releaseIds 4 = []) : Completes (.stepend h d m) s
    (((s.past.openOut [.reg d] .step 1).parkOwn).arriveStep s.th.core s.th.slot) :=
  completes_of_done rfl fun _ => by
    have hth : (s.past.openOut [.reg d] .step 1).parkOwn.th.core = s.th.core ∧
        (s.past.openOut [.reg d] .step 1).parkOwn.th.slot = s.th.slot := by
      rw [State.parkOwn, th_setTh, openOut_th]
      exact ⟨past_core s, advance_th_slot s 8⟩
    rw [past_member hm, State.released, past_eq, advance_releaseIds, hr]
    exact congrArg Res.done (by rw [← past_eq, hth.1, hth.2])

theorem stepaddr_completes (he : s.myCore.nb.succs[m.edge.toNat]? = some e) : Completes (.stepaddr h d b m) s
    (s.past.later [.reg d]
      [.reg d (word (e.ring + (((s.myCore.step.toNat : Int) + (s.reg b).toInt) % (e.d : Int)).toNat * e.slotsz))]) :=
  completes_of_done rfl fun hh => by
    simp only [past_member hm, past_myCore, he, past_arg hh, stepSlot]

theorem stepaddr_traps (he : s.myCore.nb.succs[m.edge.toNat]? = none) (hc : s.clear (.stepaddr h d b m) = true) :
    exec (.stepaddr h d b m) s = .next (s.trapNow (.of .stepCfg 6)) :=
  traps_of_trap rfl (fun _ => by
    simp only [past_member hm, past_myCore, he]
    rfl) hc

theorem stepq_completes (he : s.myCore.edgeWord m.edge.toNat (s.reg a) = some v) :
    Completes (.stepq h d a m) s (s.past.later [.reg d] [.reg d v]) :=
  completes_of_done rfl fun hh => by simp only [past_member hm, past_myCore, past_arg hh, he]

theorem stepq_traps (he : s.myCore.edgeWord m.edge.toNat (s.reg a) = none) (hc : s.clear (.stepq h d a m) = true) :
    exec (.stepq h d a m) s = .next (s.trapNow (.of .stepCfg 6)) :=
  traps_of_trap rfl (fun hh => by
    simp only [past_member hm, past_myCore, past_arg hh, he]
    rfl) hc

theorem cut_releases (hva : s.reg a = 0) (hp : s.myCore.nb.cutPend = true) :
    Completes (.cut h d a b m) s ((s.past.releaseCut s.th.core).later [.reg d] [.reg d 0]) :=
  completes_of_done rfl fun hh => by
    simp only [past_member hm, past_myCore, past_arg hh, past_core, hva, hp, if_true]

theorem cut_finds_none (hva : s.reg a = 0) (hp : s.myCore.nb.cutPend = false) :
    Completes (.cut h d a b m) s (s.past.later [.reg d] [.reg d 1]) :=
  completes_of_done rfl fun hh => by
    simp only [past_member hm, past_myCore, past_arg hh, hva, hp, if_true, if_false, Bool.false_eq_true]

section Starts
variable (hva : s.reg a ≠ 0) (hw : s.past.walksAfter (s.reg a) 8 kWrite = [])
  (hcheck : s.past.check s.past.who (s.reg a) 8 kWrite = .ok t) (hcsr : s.past.csrBad t.pa 8 false = false)
include hva hw hcheck hcsr

theorem cut_finds_pending (hp : s.myCore.nb.cutPend = true) :
    Completes (.cut h d a b m) s (s.past.later [.reg d] [.reg d 1]) :=
  completes_of_done rfl fun hh => by
    simp only [past_member hm, past_myCore, past_arg hh, hva, hp, afterWalks_single hw, hcheck, hcsr, if_true, if_false,
      Bool.false_eq_true]

theorem cut_starts (hp : s.myCore.nb.cutPend = false) : Completes (.cut h d a b m) s
    (((s.past.remember s.past.who (s.reg a) kWrite t).receiveCut s.th.core (s.reg a) t.pa (s.past.homeOf t.pa t.attr)
      (s.reg b)).later [.reg d] [.reg d 0]) :=
  completes_of_done rfl fun hh => by
    simp only [past_member hm, past_myCore, past_arg hh, past_core, hva, hp, afterWalks_single hw, hcheck, hcsr, if_false,
      Bool.false_eq_true]

end Starts

end Member

/-- Settles O41: `stepcfg` by what it reads, at its issue or as it goes on; the pairing that joins the core; and the functions of
a member core, each of which raises STEP_CFG 1 on a core that is none. -/
theorem neighbourSteps : Obligations.NeighbourSteps := by
  unfold Obligations.NeighbourSteps
  refine ⟨⟨fun s h d a m r => ⟨fun hva hal hheader hpreds hsuccs hrest => ?reads, fun bs bad ht hva => ?goesOn, stepcfg_traps_align,
    stepcfg_leaves, stepcfg_answers_one⟩, fun s c u o w d hp hr => pair_begins_start hp hr⟩,
    fun s h d a b m e v t => ⟨fun hm => ?member, fun hm => ?others⟩⟩
  case reads =>
    have hready : s.past.stepReady (s.reg a) := ⟨hal, hheader, hpreds, hsuccs, hrest⟩
    exact ⟨fun hx => ⟨stepcfg_pairs hready hva hx, stepcfg_waits_room hready hva hx⟩, stepcfg_traps hready hva⟩
  case goesOn => exact stepcfg_goesOn ht hva
  case member =>
    exact ⟨stepend_completes hm, stepaddr_completes hm, stepaddr_traps hm, stepq_completes hm, stepq_traps hm,
      cut_releases hm, cut_finds_none hm, fun hva hw hcheck hcsr =>
        ⟨cut_finds_pending hm hva hw hcheck hcsr, cut_starts hm hva hw hcheck hcsr⟩⟩
  case others => exact ⟨member_traps rfl hm, member_traps rfl hm, member_traps rfl hm⟩

end Sys2Proof.Machine
end

section
/-! PROOFS. `ldstep` (R245, R254): the checks in their order, and how an edge serves a step. -/

namespace Sys2Proof.Machine

section Edges
variable {s p : State} {h : Hdr} {d a b : Opnd} {m : MC} {e : Pred} {i : Nat} {u o : Word}

/-! ### A step that an edge serves, now or later (R254) -/

theorem geMod_iff (x y : Word) : geMod x y = true ↔ 0 ≤ (x - y).toInt := decide_eq_true_iff

theorem serveEdge_loads {n : Nat} (hge : 0 ≤ (e.pd - u).toInt) :
    p.serveEdge d i e u o n = .done (p.edgeLoad d e u o n) := if_pos ((geMod_iff _ _).mpr hge)

section Absent
variable {n : Nat} (hge : ¬0 ≤ (e.pd - u).toInt)
include hge

theorem serveEdge_lost (hl : e.left = true) : p.serveEdge d i e u o n = .trap (.of .stepLost u) :=
  (if_neg (mt (geMod_iff _ _).mp hge)).trans (if_pos hl)

variable (hl : e.left = false)
include hl

theorem serveEdge_loose (hloose : e.loose = true) (hstart : 0 ≤ (e.pd - p.myCore.nb.start).toInt) :
    p.serveEdge d i e u o n = .done ((p.edgeLoad d e e.pd o n).warnBit wSTALESKEW) :=
  (if_neg (mt (geMod_iff _ _).mp hge)).trans <|
    (if_neg (ne_true_of_eq_false hl)).trans (if_pos ⟨hloose, (geMod_iff _ _).mpr hstart⟩)

theorem serveEdge_waits (hstart : e.loose = true → ¬0 ≤ (e.pd - p.myCore.nb.start).toInt) :
    p.serveEdge d i e u o n = .park (p.setTh { p.th with kept := [u, o] }) (.edge i u) :=
  (if_neg (mt (geMod_iff _ _).mp hge)).trans <|
    (if_neg (ne_true_of_eq_false hl)).trans <|
      if_neg fun hboth => hstart hboth.1 ((geMod_iff _ _).mp hboth.2)

end Absent

/-! ### The checks of the issue turn, in their order -/

/-- A first `ldstep` of an edge: the offset, then the steps that the ring still holds. -/
def State.issueEdge (p : State) (d : Opnd) (i : Nat) (e : Pred) (u o : Word) (n : Nat) : Res :=
  if o.toNat % n ≠ 0 then .trap (.of .align o)
  else if e.slotsz < o.toNat + n then .trap (.of .prot o)
  else if geMod (p.myCore.stepDone - word e.h) u then .trap (.of .stepLost u)
  else p.serveEdge d i e u o n

section Checks
variable {n : Nat}

theorem issueEdge_align (hal : o.toNat % n ≠ 0) : p.issueEdge d i e u o n = .trap (.of .align o) := if_pos hal

theorem issueEdge_prot (hal : o.toNat % n = 0) (hout : e.slotsz < o.toNat + n) :
    p.issueEdge d i e u o n = .trap (.of .prot o) := (if_neg (not_not.mpr hal)).trans (if_pos hout)

variable (hfits : o.toNat % n = 0 ∧ o.toNat + n ≤ e.slotsz)
include hfits

theorem issueEdge_lost (hge : 0 ≤ (p.myCore.stepDone - word e.h - u).toInt) :
    p.issueEdge d i e u o n = .trap (.of .stepLost u) :=
  (if_neg (not_not.mpr hfits.1)).trans <| (if_neg (Nat.not_lt.mpr hfits.2)).trans (if_pos ((geMod_iff _ _).mpr hge))

theorem issueEdge_serves (hge : ¬0 ≤ (p.myCore.stepDone - word e.h - u).toInt) :
    p.issueEdge d i e u o n = p.serveEdge d i e u o n :=
  (if_neg (not_not.mpr hfits.1)).trans <|
    (if_neg (Nat.not_lt.mpr hfits.2)).trans (if_neg (mt (geMod_iff _ _).mp hge))

end Checks

/-! ### `ldstep` of a member core -/

section Member
variable (hm : s.isMember s.th.core s.th.asid = true) (hf : s.past.fenced true false = [])
include hm hf

/-- What the body of `ldstep` comes to: an edge that is not listed, one that goes on with its first turn's step and offset, and
one that is issued. -/
theorem ldstep_body : ∃ body : State → Res, exec (.ldstep h d a b m) s = native (.ldstep h d a b m) body s ∧
    (s.myCore.nb.preds[m.edge.toNat]? = none → body s.past = .trap (.of .stepCfg 6)) ∧
    (∀ e u o, s.myCore.nb.preds[m.edge.toNat]? = some e → s.th.kept = [u, o] →
      body s.past = s.past.serveEdge d m.edge.toNat e u o (2 ^ m.sz.toNat)) ∧
    (∀ e, s.myCore.nb.preds[m.edge.toNat]? = some e → s.th.kept = [] → s.th.held = none →
      body s.past = s.past.issueEdge d m.edge.toNat e (s.myCore.step - s.reg b) (s.reg a) (2 ^ m.sz.toNat)) := by
  refine ⟨_, rfl, fun he => ?_, fun e u o he hk => ?_, fun e he hk hh => ?_⟩
  · simp only [past_member hm, past_myCore, hf, he]
    rfl
  · have hkept : s.past.th.kept = [u, o] := (advance_th_kept s 8).trans hk
    simp only [past_member hm, past_myCore, hf, he, hkept, accessSize]
  · have hkept : s.past.th.kept = [] := (advance_th_kept s 8).trans hk
    simp only [past_member hm, past_myCore, hf, he, hkept, past_arg hh, accessSize, State.issueEdge]

theorem ldstep_unlisted (he : s.myCore.nb.preds[m.edge.toNat]? = none) (hc : s.clear (.ldstep h d a b m) = true) :
    exec (.ldstep h d a b m) s = .next (s.trapNow (.of .stepCfg 6)) := by
  obtain ⟨body, hx, hnone, -, -⟩ := ldstep_body (h := h) (d := d) (a := a) (b := b) (m := m) hm hf
  exact traps_of_trap hx (fun _ => hnone he) hc

variable (he : s.myCore.nb.preds[m.edge.toNat]? = some e)
include he

section GoesOn
variable {r : Res} (hk : s.th.kept = [u, o]) (hr : s.past.serveEdge d m.edge.toNat e u o (2 ^ m.sz.toNat) = r)
include hk hr

/-- One that goes on answers what its edge then gives for the step and the offset that it has kept. -/
theorem ldstep_goesOn : ∃ body : State → Res, exec (.ldstep h d a b m) s = native (.ldstep h d a b m) body s ∧
    body s.past = r := by
  obtain ⟨body, hx, -, hkept, -⟩ := ldstep_body (h := h) (d := d) (a := a) (b := b) (m := m) hm hf
  exact ⟨body, hx, (hkept e u o he hk).trans hr⟩

end GoesOn

section Issued
variable {r : Res} (hk : s.th.kept = [])
  (hr : s.past.issueEdge d m.edge.toNat e (s.myCore.step - s.reg b) (s.reg a) (2 ^ m.sz.toNat) = r)
include hk hr

theorem ldstep_issued : ∃ body : State → Res, exec (.ldstep h d a b m) s = native (.ldstep h d a b m) body s ∧
    (s.th.held = none → body s.past = r) := by
  obtain ⟨body, hx, -, -, hissue⟩ := ldstep_body (h := h) (d := d) (a := a) (b := b) (m := m) hm hf
  exact ⟨body, hx, fun hh => (hissue e he hk hh).trans hr⟩

end Issued

end Member

end Edges

/-- An instruction that goes on parks again with what its body leaves (R4). -/
theorem resumes_parks {i : Instr} {body : State → Res} {s q : State} {p : Park} (he : exec i s = native i body s)
    (hb : body s.past = .park q p) (h : s.resumes i = true) : exec i s = .next (q.parkAt s.th.pc p) := by
  simp only [State.resumes, Bool.and_eq_true, Option.isNone_iff_eq_none] at h
  obtain ⟨⟨hlive, hchecks⟩, hgo⟩ := h
  have hb' : body (s.advance 8) = .park q p := hb
  simp only [he, native, hlive, State.issue, hchecks, hgo, if_true, hb']

/-- Settles O42: an `ldstep` that goes on serves the step and offset of its first turn; one that is issued passes the checks of the
offset and of the ring, and is then served alike. -/
theorem edgeLoads : Obligations.EdgeLoads := by
  unfold Obligations.EdgeLoads
  intro s h d a b m e p k o n u i trap ge fits load serve hm hf
  have hstart : s.past.myCore.nb.start = k.nb.start := by rw [past_myCore]
  have hload (v o : Word) : p.edgeLoad d e v o n = load v o := by
    rw [State.edgeLoad, loadDsts_eq]
  refine ⟨ldstep_unlisted hm hf, fun he w x hk => ?goesOn, fun he hk => ?issued⟩
  case goesOn =>
    have body {r : Res} := ldstep_goesOn (h := h) (d := d) (a := a) (b := b) (r := r) hm hf he hk
    refine ⟨fun hge => ?_, fun hge hl hr => ?_, fun hge hl hloose hs => ?_, fun hge hl hs hr => ?_⟩
    · obtain ⟨_, hx, hb⟩ := body (serveEdge_loads hge)
      exact resumes_of_done hx (by rw [hb, hload])
    · obtain ⟨_, hx, hb⟩ := body (serveEdge_lost hge hl)
      exact resumes_traps hx hb hr
    · obtain ⟨_, hx, hb⟩ := body (serveEdge_loose hge hl hloose (hstart ▸ hs))
      exact resumes_of_done hx (by rw [hb, hload])
    · obtain ⟨_, hx, hb⟩ := body (serveEdge_waits hge hl (hstart ▸ hs))
      exact resumes_parks hx hb hr
  case issued =>
    have body {r : Res} := ldstep_issued (h := h) (d := d) (a := a) (b := b) (r := r) hm hf he hk
    refine ⟨fun hal hc => ?_, fun hal hout hc => ?_, fun hfits hge hc => ?_, fun hfits hge => ?_⟩
    · obtain ⟨_, hx, hb⟩ := body (issueEdge_align hal)
      exact traps_of_trap hx hb hc
    · obtain ⟨_, hx, hb⟩ := body (issueEdge_prot hal hout)
      exact traps_of_trap hx hb hc
    · obtain ⟨_, hx, hb⟩ := body (issueEdge_lost hfits (by rwa [past_myCore]))
      exact traps_of_trap hx hb hc
    · have hserve := issueEdge_serves (p := p) (d := d) (i := m.edge.toNat) hfits (by rwa [past_myCore])
      refine ⟨fun hge => ?_, fun hge hl hc => ?_, fun hge hl hloose hs => ?_, fun hge hl hs => ?_⟩
      · obtain ⟨_, hx, hb⟩ := body (hserve.trans (serveEdge_loads hge))
        exact completes_of_done hx fun hh => by rw [hb hh, hload]
      · obtain ⟨_, hx, hb⟩ := body (hserve.trans (serveEdge_lost hge hl))
        exact traps_of_trap hx hb hc
      · obtain ⟨_, hx, hb⟩ := body (hserve.trans (serveEdge_loose hge hl hloose (hstart ▸ hs)))
        exact completes_of_done hx fun hh => by rw [hb hh, hload]
      · obtain ⟨_, hx, hb⟩ := body (hserve.trans (serveEdge_waits hge hl (hstart ▸ hs)))
        exact parks_of_park hx hb

end Sys2Proof.Machine
end

section
/-! PROOFS. Descriptors that can be read at once (R225, R366); `eret` (R338); `tsave`, `tload` and `tswap` (R341 to R344). -/

namespace Sys2Proof.Machine

/-! ### Descriptors that can be read at once (R366) -/

section Descriptor
variable {s p q y : State} {h : Home} {va : Word} {i n align len : Nat} {bs : List Byte} {bad : Bool}

/-- What reads of a thread's own leave: the thread that issues, and everything of it but its trace. -/
structure State.ReadBy (s q : State) : Prop where
  cur : q.cur = s.cur
  th : ∃ tr, q.th = { s.th with trace := tr }

theorem readBy_refl (s : State) : s.ReadBy s := ⟨rfl, s.th.trace, rfl⟩

theorem State.ReadBy.trans {r : State} (h : s.ReadBy q) (h' : q.ReadBy r) : s.ReadBy r := by
  obtain ⟨tr, htr⟩ := h.th
  obtain ⟨tr', htr'⟩ := h'.th
  exact ⟨h'.cur.trans h.cur, tr', by rw [htr', htr]⟩

theorem touch_th (pa n : Nat) : (s.touch h va pa n).th = s.th := by
  rw [State.th, touch_cur, State.thread, touch_threads]
  rfl

theorem note_readBy (e : Seen) : s.ReadBy (s.note e) := ⟨rfl, s.th.trace ++ [e], th_setTh ..⟩

theorem seek_readBy (hs : s.seek i va n = .got q bs bad) : s.ReadBy q := by
  unfold State.seek at hs
  split at hs
  · cases hs
    exact readBy_refl s
  · cases hs
  · split at hs
    · cases hs
    · split at hs
      · cases hs
      · dsimp only at hs
        split at hs
        · cases hs
        · cases hs
        · cases hs
        · split at hs
          · cases hs
          · cases hs
            refine State.ReadBy.trans ⟨?_, s.th.trace, ?_⟩ (note_readBy _)
            · rw [touch_cur, remember_cur]
            · rw [touch_th, remember_th]

theorem seekAll_readBy {out : List Byte} {e : Bool} (hs : State.seekAll n i va bs bad s = .got q out e) : s.ReadBy q := by
  induction n generalizing i va bs bad s with
  | zero =>
    cases hs
    exact readBy_refl _
  | succ n ih =>
    rw [State.seekAll] at hs
    split at hs
    · next hseek => exact (seek_readBy hseek).trans (ih hs)
    · next r hr => exact absurd hs (hr q out e)

theorem State.descriptorReady.readBy (hr : p.descriptorReady va align len bs y) : p.ReadBy y := by
  obtain ⟨-, -, -, -, hseek⟩ := hr
  exact seekAll_readBy hseek

/-- What the instruction that has read a descriptor goes on with. -/
theorem descriptor_goes {go : State → List Byte → Res} (hr : p.descriptorReady va align len bs y) :
    p.descriptor va align len go = go (y.setTh { y.th with trace := [] }) (bs.take len) := by
  obtain ⟨tr, hth⟩ := hr.readBy.th
  obtain ⟨hroom, hcanonical, halign, hcheck, hseek⟩ := hr
  have hchecks : p.descriptorChecks va align len = .ok () := by
    unfold State.descriptorChecks
    split
    · rfl
    · rw [if_neg (by simp [hcanonical]), if_neg (by simp [halign])]
      exact hcheck
  have houtst : ¬16 ≤ y.th.outst.length := by
    rw [hth]
    exact Nat.not_le.mpr hroom
  simp only [State.descriptor, hchecks, hseek, houtst, Bool.false_eq_true, if_false]

end Descriptor

/-! ### `eret` (R338) -/

section Eret
variable {s : State} {h : Hdr} {m : MD}

theorem past_eret (s : State) : s.past.th.eret = { s.past.th with
    pc := s.th.tpc, buf := [],
    tstat := (s.th.tstat &&& 0xFFFFFFFFFFFFFFEE) ||| (if bit s.th.tstat 5 then 1 else 0) } := by
  rw [past_eq, advance_th]
  rfl

theorem eret_resumes (hal : bit s.th.tstat 6 = true ∨ s.th.tpc.toNat % 8 = 0) : Completes (.eret h m) s
    (s.past.setTh s.past.th.eret) :=
  completes_of_done rfl fun _ => by
    have hok : ¬((!bit s.th.tstat 6) = true ∧ s.th.tpc.toNat % 8 ≠ 0) := by
      rcases hal with h6 | h8
      · simp [h6]
      · simp [h8]
    rw [past_eq, advance_th_tstat, advance_th_tpc, if_neg hok]

theorem eret_traps_align (h6 : bit s.th.tstat 6 = false) (hal : s.th.tpc.toNat % 8 ≠ 0) (hc : s.clear (.eret h m) = true) :
    exec (.eret h m) s = .next (s.trapNow (.of .align s.th.tpc)) :=
  traps_of_trap rfl (fun _ => by
    rw [past_eq, advance_th_tstat, advance_th_tpc, if_pos ⟨by rw [h6]; rfl, hal⟩]) hc

end Eret

/-- Settles O19: `eret` by PMODE and the alignment of TPC; in user state the check of privilege comes first. -/
theorem eretReturns : Obligations.EretReturns := by
  unfold Obligations.EretReturns
  refine fun s h m => ⟨fun hal => ?_, eret_traps_align, fun hlive hcc huser => ?_⟩
  · rw [← past_eret]
    exact eret_resumes hal
  · have hpriv : Privileged 1 (.eret h m) := ⟨⟨_, rfl⟩, rfl, rfl⟩
    exact hpriv.user_traps hlive hcc huser (Nat.le_refl 1)

/-! ### Images of threads (R341 to R344) -/

section Images
variable {s : State} {h : Hdr} {d a b : Opnd} {m : MD} {u : Nat} {tr : Trap}

/-- The bytes of an image of a thread. -/
def State.imageLen (s : State) (u : Nat) : Nat := imageSize (s.hasVec (s.thread u)) (s.heldUnits u)

/-- Counting leaves the operands of an instruction that has not parked. -/
theorem arg_countedFrom {q : State} (hq : s.CountedFrom q) (hh : s.th.held = none) (r : Opnd) : q.arg r = s.arg r := by
  have hheld : q.th.held = none := by rw [hq.th, hh]
  simp only [State.arg, hheld, hh, hq.reg]

theorem past_countImage_arg (hh : s.th.held = none) : (s.past.countImage (s.reg a)).arg b = s.reg b := by
  have hcount : s.past.CountedFrom (s.past.countImage (s.reg a)) := countedFrom_countBulk (countedFrom_refl _) ..
  rw [arg_countedFrom hcount ((advance_th_held s 8).trans hh), past_arg hh]

theorem tsave_finds_none (ht : s.past.saveTarget (s.reg a) = .ok none) :
    Completes (.tsave h d a b m) s (s.past.later [.reg d] [.reg d 0]) :=
  completes_of_done rfl fun hh => by simp only [past_arg hh, ht]

theorem tsave_traps (ht : s.past.saveTarget (s.reg a) = .error tr) (hc : s.clear (.tsave h d a b m) = true) :
    exec (.tsave h d a b m) s = .next (s.trapNow tr) :=
  traps_of_trap rfl (fun hh => by simp only [past_arg hh, ht]) hc

section Saves
variable (ht : s.past.saveTarget (s.reg a) = .ok (some u)) (hal : (s.reg b).toNat % 4096 = 0)
  (hw : s.past.walksAfter (s.reg b) (s.past.imageLen u) kWrite = [])
  (hcheck : s.past.checkRange s.past.who (s.reg b) (s.past.imageLen u) kWrite = .ok ()) (hown : s.past.ownIds = [])
include ht hal hw hcheck hown

theorem tsave_saves (hsav : s.past.savable u = true)
    (hheld : s.past.rangeHeld s.past.who (s.reg b) (s.past.imageLen u) kWrite = none) :
    let q := (s.past.countBulk s.past.who (s.reg b) (s.past.imageLen u) kWrite).saveTo u (s.reg b)
    let saved := if (s.past.thread u).inSlot then
      q.fill (s.past.thread u).cc (s.past.thread u).core (s.past.thread u).slot else q
    Completes (.tsave h d a b m) s (saved.later [.reg d] [.reg d (word (s.past.imageLen u))]) :=
  completes_of_done rfl fun hh => by
    unfold State.imageLen at *
    simp only [past_arg hh, ht, hal, afterWalks_single hw, hcheck, hown, hsav, hheld, ne_eq, not_true_eq_false, if_false,
      Bool.not_true, Bool.false_eq_true]

theorem tsave_waits (hsav : s.past.savable u = false) : Parks (.tsave h d a b m) s s.past (.threads [u]) :=
  parks_of_park rfl fun hh => by
    unfold State.imageLen at *
    simp only [past_arg hh, ht, hal, afterWalks_single hw, hcheck, hown, hsav, ne_eq, not_true_eq_false, if_false,
      Bool.not_false, if_true]
    rfl

end Saves

section Loads
variable {hd : Header} {bs : List Byte}

theorem tload_traps_align (hal : (s.reg a).toNat % 4096 ≠ 0) (hc : s.clear (.tload h d a b m) = true) :
    exec (.tload h d a b m) s = .next (s.trapNow (.of .align (s.reg a))) :=
  traps_of_trap rfl (fun hh => by
    have himage : s.past.loadImage (s.reg a) = .error (.of .align (s.reg a)) := if_pos hal
    simp only [past_arg hh, hal, and_false, if_false, himage]) hc

variable (hown : s.past.ownIds = []) (hheld : s.past.imageHeld (s.reg a) = none)
include hown hheld

theorem tload_refuses_bytes (hi : s.past.loadImage (s.reg a) = .ok none) :
    Completes (.tload h d a b m) s ((s.past.countImage (s.reg a)).later [.reg d] [.reg d 2]) :=
  completes_of_done rfl fun hh => by
    simp only [past_arg hh, hown, ne_eq, not_true_eq_false, false_and, if_false, hi, hheld]

/-- The core on which an image is restored (R343). -/
def Header.coreFor (hd : Header) (v : Word) : Word := if v = allOnes then word hd.core else v

variable (hi : s.past.loadImage (s.reg a) = .ok (some (hd, bs)))
include hi

theorem tload_restores (hr : (s.past.countImage (s.reg a)).loadRefusal hd (hd.coreFor (s.reg b)) = 0) :
    let y := s.past.countImage (s.reg a)
    let x := y.restore hd (hd.coreFor (s.reg b)).toNat (y.paOf y.who (s.reg a) kRead) bs
    Completes (.tload h d a b m) s ((x.1.enqueue x.2 (hd.coreFor (s.reg b)).toNat).later [.reg d] [.reg d 0]) :=
  completes_of_done rfl fun hh => by
    unfold Header.coreFor at *
    simp only [past_arg hh, hown, ne_eq, not_true_eq_false, false_and, if_false, hi, hheld, past_countImage_arg hh,
      hr]

theorem tload_refuses (hr : (s.past.countImage (s.reg a)).loadRefusal hd (hd.coreFor (s.reg b)) ≠ 0) :
    Completes (.tload h d a b m) s ((s.past.countImage (s.reg a)).later [.reg d]
      [.reg d (word ((s.past.countImage (s.reg a)).loadRefusal hd (hd.coreFor (s.reg b))))]) :=
  completes_of_done rfl fun hh => by
    unfold Header.coreFor at *
    simp only [past_arg hh, hown, ne_eq, not_true_eq_false, false_and, if_false, hi, hheld, past_countImage_arg hh]
    exact if_pos hr

end Loads

section Swaps
variable {bs : List Byte} {r : State} (hr : s.past.descriptorReady (s.reg b) 16 16 bs r)
include hr

theorem tswap_finds_none (ht : s.past.saveTarget (s.reg a) = .ok none) :
    Completes (.tswap h d a b m) s ((r.setTh { r.th with trace := [] }).later [.reg d] [.reg d 1]) :=
  completes_of_done rfl fun hh => by
    simp only [past_arg hh, ht, Option.isSome_none, Bool.false_eq_true, false_and, if_false, descriptor_goes hr]

theorem tswap_tries (ht : s.past.saveTarget (s.reg a) = .ok (some u)) (hown : s.past.ownIds = []) {q : State}
    (hq : (r.setTh { r.th with trace := [] }).trySwap d u (bs.take 16) = .done q) : Completes (.tswap h d a b m) s q :=
  completes_of_done rfl fun hh => by
    simp only [past_arg hh, ht, hown, ne_eq, not_true_eq_false, and_false, if_false, descriptor_goes hr, hq]

end Swaps

section Exchange
variable {w : State} {desc : List Byte}

/-- The counts of what an exchange writes and reads. -/
def State.swapCounted (w : State) (u : Nat) (desc : List Byte) : State :=
  (w.countBulk w.who (dword desc 0) (w.imageLen u) kWrite).countImage (dword desc 1)

/-- The checks of an exchange pass, and nothing holds it back. -/
structure State.mayExchange (w : State) (u : Nat) (desc : List Byte) : Prop where
  aligned : (dword desc 0).toNat % 4096 = 0
  writes : w.checkRange w.who (dword desc 0) (w.imageLen u) kWrite = .ok ()
  reads : ∃ y, w.loadImage (dword desc 1) = .ok y
  savable : w.savable u = true
  unheld : w.rangeHeld w.who (dword desc 0) 0x60000 kWrite = none
  unheldImage : w.imageHeld (dword desc 1) = none

section Ends
variable (hok : w.mayExchange u desc)
include hok

theorem trySwap_exchanges {o : State} (hs : (w.swapCounted u desc).swap u (dword desc 0) (dword desc 1) = .ok (some o)) :
    w.trySwap d u desc = .done (o.later [.reg d] [.reg d 0]) := by
  obtain ⟨halign, hwrites, ⟨y, hreads⟩, hsav, hheld, himage⟩ := hok
  unfold State.swapCounted State.imageLen at *
  simp only [State.trySwap, halign, hwrites, hreads, hsav, hheld, himage, hs, ne_eq, not_true_eq_false, if_false,
    Bool.not_true, Bool.false_eq_true]

theorem trySwap_fails (hs : (w.swapCounted u desc).swap u (dword desc 0) (dword desc 1) = .ok none) :
    w.trySwap d u desc = .done ((w.swapCounted u desc).later [.reg d] [.reg d 2]) := by
  obtain ⟨halign, hwrites, ⟨y, hreads⟩, hsav, hheld, himage⟩ := hok
  unfold State.swapCounted State.imageLen at *
  simp only [State.trySwap, halign, hwrites, hreads, hsav, hheld, himage, hs, ne_eq, not_true_eq_false, if_false,
    Bool.not_true, Bool.false_eq_true]

end Ends

end Exchange
end Images

/-- Settles O45: `tsave` by its target and whether that can be saved, `tload` by what the bytes of the image are, `tswap` by its
target and whether the exchange may be made. That an image is read or written in one instant is the model's choice (log 89). -/
theorem threadImages : Obligations.ThreadImages := by
  unfold Obligations.ThreadImages
  intro s h d a b m u tr hd bs dbs r o p give size q saved saveOk core y x w desc wsize z swapOk
  refine ⟨tsave_finds_none, fun ⟨ht, hal, hw, hcheck, hown⟩ => tsave_saves ht hal hw hcheck hown,
    fun ⟨ht, hal, hw, hcheck, hown⟩ => tsave_waits ht hal hw hcheck hown, tsave_traps,
    fun hown hheld hi => ⟨tload_restores hown hheld hi, tload_refuses hown hheld hi⟩, tload_refuses_bytes,
    tload_traps_align, fun hr => ⟨tswap_finds_none hr, ?fails, ?exchanges⟩⟩
  case fails =>
    exact fun ⟨ht, hown, hal, hwrites, hreads, hsav, hheld, himage⟩ hs =>
      tswap_tries hr ht hown (trySwap_fails ⟨hal, hwrites, hreads, hsav, hheld, himage⟩ hs)
  case exchanges =>
    exact fun ⟨ht, hown, hal, hwrites, hreads, hsav, hheld, himage⟩ hs =>
      tswap_tries hr ht hown (trySwap_exchanges ⟨hal, hwrites, hreads, hsav, hheld, himage⟩ hs)

end Sys2Proof.Machine
end

section
/-! PROOFS. `repart` (R345), `tlbinv` (R346) and `cacheop` (R347). -/

namespace Sys2Proof.Machine

/-! ### `repart` (R345) -/

section Repart
variable {s : State} {h : Hdr} {d a : Opnd} {m : MD} {asid c mode : Nat}

theorem repart_completes (hc : (s.reg a).toNat < Config.cores s.part) (hset : s.inSet s.th.asid (s.reg a).toNat = true) :
    let x := s.past.repartition s.th.asid (s.reg a).toNat m.pm.toNat
    Completes (.repart h d a m) s (x.1.later [.reg d] [.reg d (word x.2)]) :=
  completes_of_done rfl fun hh => by
    have hin : s.past.inSet s.th.asid (s.reg a).toNat = true := hset
    have hok : ¬(Config.cores s.past.part ≤ (s.reg a).toNat ∨
        (!s.past.inSet s.th.asid (s.reg a).toNat) = true) := by
      rw [hin]
      rintro (hle | hno)
      · exact absurd hc (Nat.not_lt.mpr hle)
      · cases hno
    simp only [past_arg hh, past_asid]
    exact if_neg hok

theorem repart_traps (hbad : Config.cores s.part ≤ (s.reg a).toNat ∨ s.inSet s.th.asid (s.reg a).toNat = false)
    (hc : s.clear (.repart h d a m) = true) :
    exec (.repart h d a m) s = .next (s.trapNow (.of .prot (s.reg a))) :=
  traps_of_trap rfl (fun hh => by
    simp only [past_arg hh, past_asid]
    exact if_pos (hbad.imp id fun hout => by
      show (!s.inSet s.th.asid (s.reg a).toNat) = true
      rw [hout]
      rfl)) hc

/-- A slot of the core holds a thread. -/
theorem quiescent_eq_false_iff (s : State) (c : Nat) :
    s.quiescent c = false ↔ ∃ e ∈ s.threads, e.2.cc = false ∧ e.2.place = .slot c := by
  simp [State.quiescent]

theorem repartition_refused (hm : s.mayRepart asid c = false) : s.repartition asid c mode = (s, 2) := by
  simp only [State.repartition, hm, Bool.not_false, if_true]

section Allowed
variable (hm : s.mayRepart asid c = true)
include hm

theorem repartition_same (he : (s.core c).mode = mode) : s.repartition asid c mode = (s, 0) := by
  simp only [State.repartition, hm, he, Bool.not_true, Bool.false_eq_true, if_false, if_true]

theorem repartition_busy (he : (s.core c).mode ≠ mode) (hb : s.quiescent c = false) : s.repartition asid c mode = (s, 1) := by
  simp only [State.repartition, hm, he, hb, Bool.not_true, Bool.not_false, Bool.false_eq_true, if_false, if_true]

theorem repartition_sets (he : (s.core c).mode ≠ mode) (hb : s.quiescent c = true) : s.repartition asid c mode =
    (((s.onCore c fun k => { k with mode := mode, q := 0 }).fillCore c).resettle
      (s.ctxs.flatMap fun e => s.stranded e.1), 0) := by
  simp only [State.repartition, hm, he, hb, Bool.not_true, Bool.false_eq_true, if_false]

end Allowed

end Repart

/-! ### `tlbinv` (R346) -/

section Tlbinv
variable {s : State} {h : Hdr} {d a b : Opnd} {m : MD} {c : Nat} {tr : Trap}

/-- The context whose translations a `tlbinv` discards. -/
def State.tlbTarget (s : State) (m : MD) (x : Word) : Except Trap Nat := s.nameCtx (if m.ti = 3 then 0 else bits x 11 0) x

/-- The cached translations that it names are gone, and it keeps nothing. -/
def State.tlbGone (s : State) (m : MD) (c : Nat) (va : Word) : State := (s.discardTlb m.ti.toNat c va).unkept

section Issue
variable (hk : s.th.kept = [])
include hk

theorem past_kept_isEmpty : s.past.th.kept.isEmpty = true := by
  rw [past_eq, advance_th_kept, hk]
  rfl

theorem tlbinv_traps (hn : s.past.tlbTarget m (s.reg b) = .error tr) (hc : s.clear (.tlbinv h d a b m) = true) :
    exec (.tlbinv h d a b m) s = .next (s.trapNow tr) :=
  traps_of_trap rfl (fun hh => by
    unfold State.tlbTarget at hn
    simp only [past_arg hh, hn, past_kept_isEmpty hk, if_true]) hc

variable (hn : s.past.tlbTarget m (s.reg b) = .ok c)
include hn

theorem tlbinv_follows (hown : s.past.ownIds ≠ []) :
    Parks (.tlbinv h d a b m) s s.past (.ids (s.past.ownIds.map fun i => (i, 6))) :=
  parks_of_park rfl fun hh => by
    unfold State.tlbTarget at hn
    simp only [past_arg hh, hn, past_kept_isEmpty hk, hown, ne_eq, not_false_eq_true, and_self, if_true]
    rfl

variable (hown : s.past.ownIds = [])
include hown

theorem tlbinv_completes (ha : (s.past.tlbGone m c (s.reg a)).openAccs c = [])
    (hcmd : (s.past.tlbGone m c (s.reg a)).openCmds c = []) :
    Completes (.tlbinv h d a b m) s ((s.past.tlbGone m c (s.reg a)).later [.reg d] [.reg d 0]) :=
  completes_of_done rfl fun hh => by
    unfold State.tlbTarget at hn
    unfold State.tlbGone at *
    simp only [past_arg hh, hn, past_kept_isEmpty hk, hown, ne_eq, not_true_eq_false, and_false, if_false, ha, hcmd, and_self,
      or_true, if_true]

theorem tlbinv_waits (hopen : ¬((s.past.tlbGone m c (s.reg a)).openAccs c = [] ∧
      (s.past.tlbGone m c (s.reg a)).openCmds c = [])) :
    let q := s.past.tlbGone m c (s.reg a)
    Parks (.tlbinv h d a b m) s (q.setTh { q.th with kept := [1] }) (.quiet (q.openAccs c) (q.openCmds c)) :=
  parks_of_park rfl fun hh => by
    unfold State.tlbTarget at hn
    unfold State.tlbGone at *
    simp only [past_arg hh, hn, past_kept_isEmpty hk, hown, ne_eq, not_true_eq_false, and_false, if_false, Bool.not_true,
      Bool.false_eq_true, false_or]
    exact if_neg hopen

end Issue

section GoesOn
variable (hk : s.th.kept ≠ [])
include hk

theorem past_kept_not_isEmpty : s.past.th.kept.isEmpty = false := by
  rw [past_eq, advance_th_kept]
  exact List.isEmpty_eq_false_iff.mpr hk

theorem tlbinv_goesOn (hn : s.past.tlbTarget m (s.past.arg b) = .ok c) : Resumes (.tlbinv h d a b m) s
    ((s.past.tlbGone m c (s.past.arg a)).later [.reg d] [.reg d 0]) :=
  resumes_of_done rfl (by
    unfold State.tlbTarget at hn
    simp only [hn, past_kept_not_isEmpty hk, Bool.false_eq_true, false_and, if_false, Bool.not_false, true_or, if_true]
    rfl)

/-- The context has gone meanwhile. -/
theorem tlbinv_goesOn_gone (hn : s.past.tlbTarget m (s.past.arg b) = .error tr) : Resumes (.tlbinv h d a b m) s
    (s.past.unkept.later [.reg d] [.reg d 0]) :=
  resumes_of_done rfl (by
    unfold State.tlbTarget at hn
    simp only [hn, past_kept_not_isEmpty hk, Bool.false_eq_true, if_false])

end GoesOn

theorem mem_discardTlb (s : State) (ti target : Nat) (va : Word) (e : TlbEntry) :
    e ∈ (s.discardTlb ti target va).tlb ↔ e ∈ s.tlb ∧ s.discards ti target va e = false := by
  simp [State.discardTlb, List.mem_filter]

end Tlbinv

/-! ### `cacheop` (R347) -/

section Cacheop
variable {s : State} {h : Hdr} {d a b : Opnd} {m : MD} {tr : Trap}

/-- The kind of access that a `cacheop` is checked as. -/
def cacheKind (m : MD) : Nat := if m.co = 0 then kRead else kWrite

/-- The pieces of HBM that the range of a `cacheop` names. -/
def State.cachePieces (p : State) (m : MD) (va : Word) (n : Nat) : List (Nat × Nat) :=
  if local? p.who va then [] else p.hbmPieces p.who (cacheKind m) (n / 0x10000 + 2) va n

variable (hw : s.past.walksAfter (s.reg a) (s.reg b).toNat (cacheKind m) = [])
include hw

theorem cacheop_completes
    (hcheck : s.past.checkRange s.past.who (s.reg a) (s.reg b).toNat (cacheKind m) false true = .ok ())
    (hown : s.past.ownIds = []) : Completes (.cacheop h d a b m) s
      ((s.past.cacheLines m.co.toNat (s.past.cachePieces m (s.reg a) (s.reg b).toNat)).later [.reg d] [.reg d 0]) :=
  completes_of_done rfl fun hh => by
    unfold cacheKind at hw hcheck
    simp only [past_arg hh, afterWalks_single hw, hcheck, hown, ne_eq, not_true_eq_false, if_false]
    rfl

theorem cacheop_traps
    (hcheck : s.past.checkRange s.past.who (s.reg a) (s.reg b).toNat (cacheKind m) false true = .error tr)
    (hc : s.clear (.cacheop h d a b m) = true) : exec (.cacheop h d a b m) s = .next (s.trapNow tr) :=
  traps_of_trap rfl (fun hh => by
    unfold cacheKind at hw hcheck
    simp only [past_arg hh, afterWalks_single hw, hcheck]) hc

end Cacheop

/-- Settles O46: `repart` by the core set, the context's right to the core and its slots; `tlbinv` by whether it has been issued
or goes on, and by what is under way; `cacheop` by the check of its range. That the rotation begins at slot 0 (log 3), and for what
`tlbinv` waits (log 39), are the model's choices. -/
theorem modesAndCaches : Obligations.ModesAndCaches := by
  unfold Obligations.ModesAndCaches
  refine ⟨⟨fun s h d a m => ⟨repart_completes, repart_traps⟩, fun s asid c mode => ?modes⟩, ?caches,
    fun s ti target va e => mem_discardTlb ..⟩
  case caches =>
    intro s h d a b m c tr p give naming named q k n ps
    exact ⟨fun hk hn hown => tlbinv_completes hk hn hown, fun hk => ⟨tlbinv_goesOn hk, tlbinv_goesOn_gone hk⟩,
      fun hk hn hown => tlbinv_waits hk hn hown, fun hk hn => tlbinv_follows hk hn, fun hk hn => tlbinv_traps hk hn,
      cacheop_completes, cacheop_traps⟩
  case modes =>
    simp only [← quiescent_eq_false_iff]
    exact ⟨repartition_refused, repartition_same, repartition_busy, fun hm he hb => by
      rw [repartition_sets hm he (Bool.eq_true_of_not_eq_false hb)]
      exact ⟨rfl, rfl⟩⟩

end Sys2Proof.Machine
end

section
/-! PROOFS. Creating contexts (R365 to R367). -/

namespace Sys2Proof.Machine

/-! ### `ctxnew` (R365 to R367) -/

section Creation
variable {s : State} {h : Hdr} {d a : Opnd} {fs : List Nat} {n : Nat}

/-- The block that a `ctxnew` names can be taken: aligned, writable, in HBM, and no live block's. -/
structure State.blockReady (s : State) (xa : Word) (fs : List Nat) : Prop where
  performed : s.releaseIds 4 = []
  aligned : xa.toNat % 0x10000 = 0
  writable : s.past.checkRange s.past.who xa 0x80000 kWrite = .ok ()
  frames : s.past.blockFrames xa 8 xa = .ok fs

/-- The state after the checks, whose translations are remembered. -/
def State.blockChecked (p : State) (xa : Word) : State := p.rememberAll p.who kWrite (pagesOf xa 0x80000)

theorem past_releaseIds (s : State) (sc : Nat) : s.past.releaseIds sc = s.releaseIds sc := advance_releaseIds s 8 sc

theorem blockChecked_depth (s : State) (xa : Word) : (s.past.blockChecked xa).myCtx.depth = s.myCtx.depth := by
  rw [State.blockChecked, rememberAll_myCtx, past_myCtx]

theorem ctxnew_traps_align (hr : s.releaseIds 4 = []) (hal : (s.reg a).toNat % 0x10000 ≠ 0)
    (hc : s.clear (.ctxnew h d a) = true) :
    exec (.ctxnew h d a) s = .next (s.trapNow (.of .align (s.reg a))) :=
  traps_of_trap rfl (fun hh => by
    simp only [past_arg hh, State.released, past_releaseIds, hr, hal, ne_eq, not_false_eq_true, if_true]) hc

section Ready
variable (hb : s.blockReady (s.reg a) fs)
include hb

theorem ctxnew_depth (hd : s.myCtx.depth = 7) :
    Completes (.ctxnew h d a) s ((s.past.blockChecked (s.reg a)).later [.reg d] [.reg d allOnes]) :=
  completes_of_done rfl fun hh => by
    obtain ⟨hr, hal, hcheck, hfs⟩ := hb
    have hdepth := (blockChecked_depth s (s.reg a)).trans hd
    unfold State.blockChecked at *
    simp only [past_arg hh, State.released, past_releaseIds, hr, hal, hcheck, hfs, ne_eq, not_true_eq_false, if_false, hdepth,
      if_true, State.answer]

variable (hd : s.myCtx.depth ≠ 7)
include hd

theorem ctxnew_quota (hq : (s.past.blockChecked (s.reg a)).ctxsLeft s.th.asid = 0) :
    Completes (.ctxnew h d a) s ((s.past.blockChecked (s.reg a)).later [.reg d] [.reg d (allOnes - 1)]) :=
  completes_of_done rfl fun hh => by
    obtain ⟨hr, hal, hcheck, hfs⟩ := hb
    have hdepth := blockChecked_depth s (s.reg a)
    unfold State.blockChecked at *
    simp only [past_arg hh, past_asid, State.released, past_releaseIds, hr, hal, hcheck, hfs, ne_eq, not_true_eq_false,
      if_false, hdepth, hd, hq, if_true, State.answer]

variable (hq : (s.past.blockChecked (s.reg a)).ctxsLeft s.th.asid ≠ 0)
include hq

theorem ctxnew_noAsid (hf : (s.past.blockChecked (s.reg a)).freeAsid = none) :
    Completes (.ctxnew h d a) s ((s.past.blockChecked (s.reg a)).later [.reg d] [.reg d (allOnes - 2)]) :=
  completes_of_done rfl fun hh => by
    obtain ⟨hr, hal, hcheck, hfs⟩ := hb
    have hdepth := blockChecked_depth s (s.reg a)
    unfold State.blockChecked at *
    simp only [past_arg hh, past_asid, State.released, past_releaseIds, hr, hal, hcheck, hfs, ne_eq, not_true_eq_false,
      if_false, hdepth, hd, hq, hf, State.answer]

theorem ctxnew_creates (hf : (s.past.blockChecked (s.reg a)).freeAsid = some n) :
    let q := (s.past.blockChecked (s.reg a)).setCtx n (Ctx.new (s.myCtx.depth + 1) s.th.asid fs)
    Completes (.ctxnew h d a) s (q.later [.reg d] [.reg d (q.ctxid n)]) :=
  completes_of_done rfl fun hh => by
    obtain ⟨hr, hal, hcheck, hfs⟩ := hb
    have hdepth := blockChecked_depth s (s.reg a)
    unfold State.blockChecked at *
    simp only [past_arg hh, past_asid, State.released, past_releaseIds, hr, hal, hcheck, hfs, ne_eq, not_true_eq_false,
      if_false, hdepth, hd, hq, hf, State.answer]

end Ready

/-- The lowest ASID from 1 on that no live context has. -/
theorem freeAsid_spec (hf : s.freeAsid = some n) :
    1 ≤ n ∧ n ≤ 4095 ∧ has s.ctxs n = false ∧ ∀ k, 1 ≤ k → k < n → has s.ctxs k = true := by
  rw [State.freeAsid, List.find?_map, Option.map_eq_some_iff] at hf
  obtain ⟨i, hi, rfl⟩ := hf
  obtain ⟨hfree, hlt, hbefore⟩ := List.find?_range_eq_some.mp hi
  have hi : i < 4095 := List.mem_range.mp hlt
  refine ⟨by omega, by omega, by simpa using hfree, fun k h1 hk => ?_⟩
  have hused := hbefore (k - 1) (by omega)
  simpa [Nat.sub_add_cancel h1] using hused

end Creation

/-- Settles O47: `ctxnew` of a block that can be taken, by depth, quota and ASIDs; the choice of the ASID; and the new context. -/
theorem contextCreation : Obligations.ContextCreation := by
  unfold Obligations.ContextCreation
  refine ⟨fun s h d a fs n => ⟨fun ⟨hr, hal, hcheck, hfs⟩ => ctxnew_creates ⟨hr, hal, hcheck, hfs⟩,
    fun ⟨hr, hal, hcheck, hfs⟩ => ctxnew_depth ⟨hr, hal, hcheck, hfs⟩,
    fun ⟨hr, hal, hcheck, hfs⟩ => ctxnew_quota ⟨hr, hal, hcheck, hfs⟩,
    fun ⟨hr, hal, hcheck, hfs⟩ => ctxnew_noAsid ⟨hr, hal, hcheck, hfs⟩, ctxnew_traps_align⟩,
    fun s n => freeAsid_spec, fun depth parent fs => ⟨rfl, rfl, rfl, rfl⟩⟩

end Sys2Proof.Machine
end

section
/-! PROOFS. Context instructions in their turn on the context that they name (R366), and what those do that run, stop, answer,
reset, free and read a context (R364, R369 to R372). -/

namespace Sys2Proof.Machine

/-! ### The turn on a context (R366) -/

/-- The end of a context instruction's turn: one that is done leaves the line. -/
def Res.leaving (uid : Nat) : Res → Res
  | .done d => .done (d.unkept.leaveLines uid)
  | r => r

section Turn
variable {s q : State} {c : Nat} {go : State → Res} {p : Park}

/-- An instruction whose turn it is, and which parks in it, keeps its place in the line. -/
theorem turn_parks (h : s.turnFree c) (hg : go (s.inTurn c) = .park q p) : s.turn c go = .park q p := by
  obtain ⟨hr, hl⟩ := h
  have hin : (s.onCtx c fun x => { x with line := [s.cur] }) = s.inTurn c := rfl
  have hcur : (s.inTurn c).cur = s.cur := rfl
  simp [State.turn, State.released, hr, hl, hin, hg, hcur]

section Kept
variable (hk : s.th.kept ≠ []) (h : s.turnKept c)
include hk h

/-- One that goes on is still first, and does not wait for the issuer's accesses again. -/
theorem turn_kept_eq : s.turn c go = (go (s.tidied c)).leaving s.cur := by
  have hhead : ((s.ctx c).line.filter fun u => u == s.cur || s.inLine u).head? = some s.cur := h
  have hmem : s.cur ∈ (s.ctx c).line.filter fun u => u == s.cur || s.inLine u := List.mem_of_mem_head? h
  have htidy : (s.onCtx c fun x => { x with line := (s.ctx c).line.filter fun u => u == s.cur || s.inLine u }) = s.tidied c := rfl
  have hcur : (s.tidied c).cur = s.cur := rfl
  simp only [State.turn, List.isEmpty_eq_false_iff.mpr hk, Bool.false_and, Bool.false_eq_true, if_false,
    List.contains_iff_mem.mpr hmem, if_true, htidy, hcur, hhead]
  cases go (s.tidied c) <;> rfl

theorem turn_kept_goes (hg : go (s.tidied c) = .done q) : s.turn c go = .done (q.unkept.leaveLines s.cur) := by
  rw [turn_kept_eq hk h, hg, Res.leaving]

end Kept

theorem past_kept (s : State) : s.past.th.kept = s.th.kept := advance_th_kept s 8

theorem inTurn_th (s : State) (c : Nat) : (s.inTurn c).th = s.th := rfl

theorem tidied_th (s : State) (c : Nat) : (s.tidied c).th = s.th := rfl

end Turn

/-! ### Running and stopping (R351, R369) -/

section Running
variable {s : State} {h : Hdr} {d a : Opnd} {c : Nat} {tr : Trap}

theorem ctxrun_traps (ht : s.past.targetCtx (s.reg a) 0 1 = .error tr) (hc : s.clear (.ctxrun h d a) = true) :
    exec (.ctxrun h d a) s = .next (s.trapNow tr) :=
  traps_of_trap rfl (fun hh => by simp only [past_arg hh, ht]) hc

theorem ctxstop_traps (ht : s.past.targetCtx (s.reg a) 0 1 = .error tr) (hc : s.clear (.ctxstop h d a) = true) :
    exec (.ctxstop h d a) s = .next (s.trapNow tr) :=
  traps_of_trap rfl (fun hh => by simp only [past_arg hh, ht]) hc

theorem ctxfree_traps (ht : s.past.targetCtx (s.reg a) 0 0 = .error tr) (hc : s.clear (.ctxfree h d a) = true) :
    exec (.ctxfree h d a) s = .next (s.trapNow tr) :=
  traps_of_trap rfl (fun hh => by simp only [past_arg hh, ht]) hc

section Turn
variable (hf : s.past.turnFree c)
include hf

section Descendant
variable (ht : s.past.targetCtx (s.reg a) 0 1 = .ok c)
include ht

theorem ctxrun_resetting (hr : (s.past.inTurn c).resetting c = true) :
    Completes (.ctxrun h d a) s ((s.past.inTurn c).turned s.cur d 2) :=
  completes_of_done rfl fun hh => by
    simp only [past_arg hh, ht]
    exact turn_goes hf (by simp only [hr, if_true, State.answer])

theorem ctxstop_resetting (hr : (s.past.inTurn c).resetting c = true) :
    Completes (.ctxstop h d a) s ((s.past.inTurn c).turned s.cur d 2) :=
  completes_of_done rfl fun hh => by
    simp only [past_arg hh, ht]
    exact turn_goes hf (by simp only [hr, if_true, State.answer])

variable (hr : (s.past.inTurn c).resetting c = false)
include hr

theorem ctxrun_runs_already (hs : ((s.past.inTurn c).ctx c).state = .running) :
    Completes (.ctxrun h d a) s ((s.past.inTurn c).turned s.cur d 1) :=
  completes_of_done rfl fun hh => by
    simp only [past_arg hh, ht]
    exact turn_goes hf (by simp only [hr, hs, Bool.false_eq_true, if_false, if_true, State.answer])

theorem ctxrun_runs (hs : ((s.past.inTurn c).ctx c).state ≠ .running) :
    Completes (.ctxrun h d a) s (((s.past.inTurn c).runCtx c).turned s.cur d 0) :=
  completes_of_done rfl fun hh => by
    simp only [past_arg hh, ht]
    exact turn_goes hf (by simp only [hr, hs, Bool.false_eq_true, if_false, State.answer])

variable (hk : s.th.kept = [])
include hk

theorem ctxstop_stopped_already (hs : ((s.past.inTurn c).ctx c).state = .stopped) :
    Completes (.ctxstop h d a) s ((s.past.inTurn c).turned s.cur d 1) :=
  completes_of_done rfl fun hh => by
    simp only [past_arg hh, ht]
    refine turn_goes hf ?_
    simp only [hr, hs, inTurn_th, past_kept, hk, List.isEmpty_nil, and_self, Bool.false_eq_true, if_false, if_true, State.answer]

variable (hs : ((s.past.inTurn c).ctx c).state ≠ .stopped)
include hs

theorem ctxstop_stops
    (hsave : (((s.past.inTurn c).markStopped c).stopThreads s.th.asid c).all ((s.past.inTurn c).markStopped c).savable = true) :
    let m := (s.past.inTurn c).markStopped c
    Completes (.ctxstop h d a) s ((m.saveAll (m.stopThreads s.th.asid c)).turned s.cur d 0) :=
  completes_of_done rfl fun hh => by
    simp only [past_arg hh, ht]
    refine turn_goes hf ?_
    have hasid : ((s.past.inTurn c).markStopped c).th.asid = s.th.asid := past_asid s
    simp only [hr, hs, inTurn_th, past_kept, hk, List.isEmpty_nil, false_and, Bool.false_eq_true, if_false, if_true, hasid,
      hsave, State.answer]

theorem ctxstop_waits
    (hsave : (((s.past.inTurn c).markStopped c).stopThreads s.th.asid c).all ((s.past.inTurn c).markStopped c).savable = false) :
    let m := (s.past.inTurn c).markStopped c
    Parks (.ctxstop h d a) s (m.keep 1) (.threads (m.stopThreads s.th.asid c)) :=
  parks_of_park rfl fun hh => by
    simp only [past_arg hh, ht]
    refine turn_parks hf ?_
    have hasid : ((s.past.inTurn c).markStopped c).th.asid = s.th.asid := past_asid s
    simp only [hr, hs, inTurn_th, past_kept, hk, List.isEmpty_nil, false_and, Bool.false_eq_true, if_false, if_true, hasid,
      hsave]

end Descendant

section Child
variable (ht : s.past.targetCtx (s.reg a) 0 0 = .ok c)
include ht

theorem ctxfree_frees (hm : (s.past.inTurn c).mayFree c = true) :
    Completes (.ctxfree h d a) s ((((s.past.inTurn c).giveBack c s.th.asid).forget c).turned s.cur d 0) :=
  completes_of_done rfl fun hh => by
    simp only [past_arg hh, ht]
    exact turn_goes hf (by simp only [hm, if_true, inTurn_th, past_asid, State.answer])

theorem ctxfree_held (hm : (s.past.inTurn c).mayFree c = false) :
    Completes (.ctxfree h d a) s ((s.past.inTurn c).turned s.cur d 1) :=
  completes_of_done rfl fun hh => by
    simp only [past_arg hh, ht]
    exact turn_goes hf (by simp only [hm, Bool.false_eq_true, if_false, State.answer])

end Child

end Turn

/-- A `ctxstop` that waited saves the threads once all of them can be saved. -/
theorem ctxstop_resumes (hk : s.th.kept = [1]) (ht : s.past.targetCtx (s.past.arg a) 0 1 = .ok c) (hf : s.past.turnKept c)
    (hr : (s.past.tidied c).resetting c = false)
    (hsave : ((s.past.tidied c).stopThreads s.th.asid c).all (s.past.tidied c).savable = true) :
    let t := s.past.tidied c
    Resumes (.ctxstop h d a) s ((t.saveAll (t.stopThreads s.th.asid c)).turned s.cur d 0) :=
  resumes_of_done rfl (by
    have hkept : s.past.th.kept = [1] := (past_kept s).trans hk
    simp only [ht]
    refine turn_kept_goes (hkept ▸ List.cons_ne_nil 1 []) hf ?_
    simp only [hr, tidied_th, past_asid, hkept, List.isEmpty_cons, Bool.false_eq_true, and_false, if_false, hsave, if_true,
      State.answer])

end Running

/-! ### Answering traps (R370) -/

section Answering
variable {s : State} {h : Hdr} {d a b : Opnd} {c u tgt : Nat} {tr : Trap} {prec : Bool}

section Turn
variable (ht : s.past.targetCtx (s.reg a) 16 2 = .ok c) (hf : s.past.turnFree c)
include ht hf

theorem ctxevt_nobody (hn : (s.past.inTurn c).named c ((s.reg a).toNat % 2 ^ 16) = none) :
    Completes (.ctxevt h d a b) s ((s.past.inTurn c).turned s.cur d 1) :=
  completes_of_done rfl fun hh => by
    simp only [past_arg hh, ht]
    refine turn_goes hf ?_
    simp only [bits_low, hn, State.answer]

variable (hn : (s.past.inTurn c).named c ((s.reg a).toNat % 2 ^ 16) = some u)
  (hp : ((s.past.inTurn c).thread u).park = .reflected tgt tr prec)
include hn hp

theorem ctxevt_answers (hme : tgt = s.th.asid) (hheld : ∀ e ∈ ((s.past.inTurn c).ctx tgt).heldEvents, e.uid ≠ some u) :
    let x := (s.past.inTurn c).answerTrap u tr prec ((s.reg b).toNat % 4)
    Completes (.ctxevt h d a b) s (x.1.turned s.cur d (word x.2)) :=
  completes_of_done rfl fun hh => by
    subst hme
    simp only [past_arg hh, ht]
    refine turn_goes hf ?_
    have hposted : (((s.past.inTurn c).ctx s.th.asid).heldEvents.any fun e => e.uid == some u) = false := by simpa using hheld
    simp only [bits_low, hn, hp, inTurn_th, past_asid, hposted, ne_eq, not_true_eq_false, Bool.false_eq_true, or_self, if_false,
      State.answer]
    rfl

theorem ctxevt_not_yet (hno : tgt ≠ s.th.asid ∨ ∃ e ∈ ((s.past.inTurn c).ctx tgt).heldEvents, e.uid = some u) :
    Completes (.ctxevt h d a b) s ((s.past.inTurn c).turned s.cur d 1) :=
  completes_of_done rfl fun hh => by
    simp only [past_arg hh, ht]
    refine turn_goes hf ?_
    have hheld : tgt ≠ s.th.asid ∨ (((s.past.inTurn c).ctx tgt).heldEvents.any fun e => e.uid == some u) = true := by
      simpa using hno
    simp only [bits_low, hn, hp, inTurn_th, past_asid, hheld, if_true, State.answer]

end Turn

/-- Actions 0 and 1 let the thread go on at its instruction or behind it. -/
theorem answerTrap_goes_on {q : State} {act : Nat} (ht : (q.thread u).tephra = false) (hl : has q.threads u = true) (ha : act < 2) :
    let y := q.answerTrap u tr prec act
    y.2 = 0 ∧ (y.1.thread u).park = .run ∧ (y.1.thread u).pc = (q.thread u).pc + word (8 * act) := by
  match act with
  | 0 => simp [State.answerTrap, thread_onThread, hl, Thread.goOn, word]
  | 1 => simp [State.answerTrap, ht, thread_onThread, hl, Thread.goOn, word]

end Answering

/-! ### Resets (R364, R371) -/

section Resetting
variable {s : State} {h : Hdr} {d a b : Opnd} {c : Nat} {tr : Trap}

theorem goReset_begins {q : State} {r : Bool} (hk : q.th.kept ≠ [1]) (ht : q.trapsDrain c = false) :
    q.goReset c r d = .park ((q.resetBegin c).keep 1) .pass := by
  simp only [State.goReset, hk, if_false, ht, Bool.false_eq_true]

theorem goReset_drains {q : State} {r : Bool} (hk : q.th.kept ≠ [1]) (ht : q.trapsDrain c = true) :
    q.goReset c r d = .park ((q.resetMark c).keep 3) .pass := by
  simp only [State.goReset, hk, if_false, ht, if_true]

theorem goReset_owes {q : State} {r : Bool} (hk : q.th.kept = [1]) (ho : q.resetOwes c = true) :
    q.goReset c r d = .park q .pass := by
  simp only [State.goReset, hk, if_true, ho]

theorem goReset_ends {q : State} {r : Bool} (hk : q.th.kept = [1]) (ho : q.resetOwes c = false) :
    q.goReset c r d = .done ((q.resetEnd q.th.asid c r).later [.reg d] [.reg d 0]) := by
  simp only [State.goReset, hk, if_true, ho, Bool.false_eq_true, if_false, State.answer]

/-! One that has just been issued. -/

theorem inTurn_not_begun (hk : s.th.kept = []) : (s.past.inTurn c).th.kept ≠ [1] := by simp [inTurn_th, hk]

section Issued
variable (hk : s.th.kept = []) (ht : s.past.targetCtx (s.reg a) 0 1 = .ok c)
include hk ht

theorem ctxreset_finds_reset (hr : s.past.resetting c = true) : Parks (.ctxreset h d a b) s (s.past.keep 2) .pass :=
  parks_of_park rfl fun hh => by
    simp only [past_arg hh, ht, past_kept, hk, List.isEmpty_nil, hr, and_self, if_true]

variable (hr : s.past.resetting c = false) (hf : s.past.turnFree c)
include hr hf

theorem ctxreset_in_turn {q : State} {r : Park}
    (hg : (s.past.inTurn c).goReset c ((s.reg b).getLsbD 0) d = .park q r) : Parks (.ctxreset h d a b) s q r :=
  parks_of_park rfl fun hh => by
    have hne : ([] : List Word) ≠ [2] := by simp
    simp only [past_arg hh, ht, past_kept, hk, List.isEmpty_nil, hr, Bool.false_eq_true, and_false, if_false, hne]
    exact turn_parks hf hg

end Issued

/-! One that goes on in its turn. -/

section Kept
variable (ht : s.past.targetCtx (s.past.arg a) 0 1 = .ok c) (hf : s.past.turnKept c)
include ht hf

theorem ctxreset_again (hk : s.th.kept = [1] ∨ s.th.kept = [3]) :
    ∃ body, exec (.ctxreset h d a b) s = native (.ctxreset h d a b) body s ∧
      body s.past = ((s.past.tidied c).goReset c ((s.past.arg b).getLsbD 0) d).leaving s.cur := by
  refine ⟨_, rfl, ?_⟩
  have hne : s.past.th.kept ≠ [] ∧ s.past.th.kept ≠ [2] := by
    rw [past_kept]
    rcases hk with hk | hk <;> simp [hk]
  have hempty : s.past.th.kept.isEmpty = false := List.isEmpty_eq_false_iff.mpr hne.1
  simp only [ht, hempty, Bool.false_eq_true, false_and, if_false, hne.2]
  exact turn_kept_eq hne.1 hf

theorem ctxreset_parks_again (hk : s.th.kept = [1] ∨ s.th.kept = [3]) (hres : s.resumes (.ctxreset h d a b) = true) {q : State}
    {r : Park} (hg : (s.past.tidied c).goReset c ((s.past.arg b).getLsbD 0) d = .park q r) :
    exec (.ctxreset h d a b) s = .next (q.parkAt s.th.pc r) := by
  obtain ⟨body, he, hb⟩ := ctxreset_again ht hf hk
  rw [hg, Res.leaving] at hb
  · exact resumes_parks he hb hres
  · nofun

theorem ctxreset_ends (hk : s.th.kept = [1]) (ho : (s.past.tidied c).resetOwes c = false) :
    Resumes (.ctxreset h d a b) s
      (((s.past.tidied c).resetEnd s.th.asid c ((s.past.arg b).getLsbD 0)).turned s.cur d 0) := by
  obtain ⟨body, he, hb⟩ := ctxreset_again ht hf (.inl hk)
  have hkept : (s.past.tidied c).th.kept = [1] := by rw [tidied_th, past_kept, hk]
  rw [goReset_ends hkept ho, tidied_th, past_asid] at hb
  exact resumes_of_done he hb

end Kept

/-! One that found a reset under way. -/

section Found
variable (hk : s.th.kept = [2])
include hk

theorem ctxreset_freed (ht : s.past.targetCtx (s.past.arg a) 0 1 = .error tr) :
    Resumes (.ctxreset h d a b) s (s.past.unkept.later [.reg d] [.reg d 2]) :=
  resumes_of_done rfl (by simp only [ht, past_kept, hk, if_true, State.answer])

theorem ctxreset_other_over (ht : s.past.targetCtx (s.past.arg a) 0 1 = .ok c) (hr : s.past.resetting c = false) :
    Resumes (.ctxreset h d a b) s (s.past.unkept.later [.reg d] [.reg d 2]) :=
  resumes_of_done rfl (by
    simp only [ht, past_kept, hk, hr, Bool.false_eq_true, and_false, if_false, if_true, State.answer])

theorem ctxreset_other_under_way (ht : s.past.targetCtx (s.past.arg a) 0 1 = .ok c) (hr : s.past.resetting c = true)
    (hres : s.resumes (.ctxreset h d a b) = true) : exec (.ctxreset h d a b) s = .next (s.past.parkAt s.th.pc .pass) :=
  resumes_parks rfl (by
    simp only [ht, past_kept, hk, hr, List.isEmpty_cons, Bool.false_eq_true, false_and, if_false, if_true]) hres

end Found

end Resetting

/-! ### Status (R372) -/

theorem ctxstat_reads {s : State} {h : Hdr} {d a b : Opnd} {c : Nat} (ht : s.past.targetCtx (s.reg a) 0 3 = .ok c)
    (hf : s.past.turnFree c) :
    Completes (.ctxstat h d a b) s ((s.past.inTurn c).turned s.cur d ((s.past.inTurn c).ctxStat c (s.reg b))) :=
  completes_of_done rfl fun hh => by
    simp only [past_arg hh, ht]
    exact turn_goes hf rfl

/-- Settles O49: running, stopping and freeing; answering traps; resets in their two parts; and the status of a context. -/
theorem contextStates : Obligations.ContextStates := by
  unfold Obligations.ContextStates
  refine ⟨fun s h d a c tr => ⟨fun ht hf => ⟨fun hr => ⟨ctxrun_resetting hf ht hr, ctxstop_resetting hf ht hr⟩, fun hr => ?_⟩,
      ctxstop_resumes, fun ht hf => ⟨ctxfree_frees hf ht, ctxfree_held hf ht⟩, fun ht => ⟨ctxrun_traps ht, ctxstop_traps ht⟩,
      ctxfree_traps⟩,
    fun s h d a b c u tgt tr prec => ⟨fun ht hf => ⟨ctxevt_nobody ht hf, fun hn hp => ⟨ctxevt_answers ht hf hn hp,
      ctxevt_not_yet ht hf hn hp⟩⟩, fun hk ht => ⟨ctxreset_finds_reset hk ht, fun hr hf => ⟨fun hd => ?_, fun hd => ?_⟩⟩,
      fun ht hf hres => ⟨fun hk => ⟨fun hd => ?_, fun hd => ?_⟩, fun hk ho => ?_⟩, ctxreset_ends,
      fun hk => ⟨ctxreset_freed hk, ctxreset_other_over hk, ctxreset_other_under_way hk⟩, ctxstat_reads,
      fun ht hl act ha y hy => hy ▸ answerTrap_goes_on ht hl ha⟩⟩
  · exact ⟨ctxrun_runs_already hf ht hr, ctxrun_runs hf ht hr, ctxstop_stopped_already hf ht hr, ctxstop_stops hf ht hr,
      ctxstop_waits hf ht hr⟩
  · exact ctxreset_in_turn hk ht hr hf (goReset_begins (inTurn_not_begun hk) hd)
  · exact ctxreset_in_turn hk ht hr hf (goReset_drains (inTurn_not_begun hk) hd)
  · exact ctxreset_parks_again ht hf (.inr hk) hres (goReset_begins (by simp [tidied_th, hk]) hd)
  · exact ctxreset_parks_again ht hf (.inr hk) hres (goReset_drains (by simp [tidied_th, hk]) hd)
  · exact ctxreset_parks_again ht hf (.inl hk) hres (goReset_owes (by simp [tidied_th, hk]) ho)

end Sys2Proof.Machine
end

section
/-! PROOFS. `ctxgrant` and `ctxrevoke` (R332, R353 to R356, R366, R368). -/

namespace Sys2Proof.Machine

/-! ### Grants and revocations leave the issuer -/

/-- What a context instruction reads of its issuer: which thread it is, and the threads. -/
def State.issuer (s : State) : Nat × Sparse Thread := (s.cur, s.threads)

section Issuer
variable {s q : State}

theorem th_of_issuer (h : q.issuer = s.issuer) : q.cur = s.cur ∧ q.th = s.th := by
  obtain ⟨hcur, hthreads⟩ := Prod.mk.inj h
  exact ⟨hcur, by rw [State.th, State.thread, hcur, hthreads]; rfl⟩

variable (s)

theorem remember_issuer (w : Who) (va : Word) (k : Nat) (t : Tr) : (s.remember w va k t).issuer = s.issuer := by
  rw [State.issuer, remember_cur, remember_threads, State.issuer]

theorem writeCoreset_issuer (a : Nat) : (s.writeCoreset a).issuer = s.issuer := by
  unfold State.writeCoreset
  dsimp only
  split
  · rfl
  · split
    · rfl
    · exact (forEach_reads State.issuer (fun _ _ => by rfl) _ _).trans (remember_issuer ..)

theorem revokeCap_issuer (n asid i : Nat) : (s.revokeCap n asid i).issuer = s.issuer := by
  induction n generalizing s asid i with
  | zero => rfl
  | succ n ih =>
    have hcopies : (forEach (fun d s => forEach (fun (p : Nat × Nat) s => if p.2 = i then s.revokeCap n d p.1 else s)
        (s.ctx d).capFrom s) (s.children asid) s).issuer = s.issuer :=
      forEach_reads State.issuer (fun d s => forEach_reads State.issuer (fun p s => by split; exacts [ih .., rfl]) _ _) _ _
    unfold State.revokeCap
    dsimp only
    split
    · exact hcopies
    · exact (forEach_reads State.issuer (fun _ _ => by split <;> rfl) _ _).trans hcopies
    · exact hcopies

theorem fitBudget_issuer (f : Ctx → Nat) (set : Ctx → Nat → Ctx) (need : State → Nat → Nat) (each n a : Nat) :
    (s.fitBudget f set need each n a).issuer = s.issuer := by
  induction n generalizing s a with
  | zero => rfl
  | succ n ih => exact forEach_reads (fun x : State × Nat => x.1.issuer) (fun c x => ih _ _) _ _

theorem onEach_issuer (f : Ctx → Ctx) (l : List Nat) : (forEach (fun a s => s.onCtx a f) l s).issuer = s.issuer :=
  forEach_reads State.issuer (fun _ _ => by rfl) _ _

theorem markRevoke_issuer (c : Nat) (i : Item) : (s.markRevoke c i).issuer = s.issuer := by
  cases i with
  | slots | units | barriers | deleg => exact onEach_issuer ..
  | cores => exact (forEach_reads State.issuer (fun a s => writeCoreset_issuer s a) _ _).trans (onEach_issuer ..)
  | memory => rfl
  | quotas =>
    exact (fitBudget_issuer ..).trans ((fitBudget_issuer ..).trans ((fitBudget_issuer ..).trans (fitBudget_issuer ..)))
  | cap => exact revokeCap_issuer ..

theorem resettle_cur (us : List Nat) : (s.resettle us).cur = s.cur :=
  forEach_reads State.cur (fun _ s => by unfold State.onThread; split <;> rfl) _ _

theorem applyGrant_cur (a c : Nat) (i : Item) : (s.applyGrant a c i).cur = s.cur := by
  cases i with
  | slots => exact resettle_cur ..
  | cores => exact (resettle_cur ..).trans (congrArg Prod.fst (writeCoreset_issuer ..))
  | deleg => exact congrArg Prod.fst (forEach_reads State.issuer (fun _ _ => by rfl) _ _)
  | units | memory | barriers | quotas | cap => rfl

end Issuer

/-! ### Descriptors in the turn on a context (R353, R366) -/

section Item
variable {p y q : State} {c : Nat} {va : Word} {bs : List Byte} {go : State → Option Item → Res} {w : Park}

theorem inTurn_readBy_cur (hr : (p.inTurn c).descriptorReady va 16 64 bs y) : y.cur = p.cur := hr.readBy.cur

/-- The thread as the instruction sees it that has read its descriptor. -/
theorem read_th (hr : (p.inTurn c).descriptorReady va 16 64 bs y) :
    (y.setTh { y.th with trace := [] }).th = { p.th with trace := [] } := by
  obtain ⟨tr, hth⟩ := hr.readBy.th
  rw [th_setTh, hth]
  rfl

variable (hf : p.turnFree c) (hr : (p.inTurn c).descriptorReady va 16 64 bs y)
include hf hr

theorem turn_item_goes (hg : go (y.setTh { y.th with trace := [] }) (itemOf (bs.take 64)) = .done q) :
    (p.turn c fun s => s.itemAt va go) = .done (q.unkept.leaveLines p.cur) :=
  turn_goes hf (by rw [State.itemAt, descriptor_goes hr, hg])

theorem turn_item_parks (hg : go (y.setTh { y.th with trace := [] }) (itemOf (bs.take 64)) = .park q w) :
    (p.turn c fun s => s.itemAt va go) = .park q w :=
  turn_parks hf (by rw [State.itemAt, descriptor_goes hr, hg])

end Item

/-! ### What a grant or a revocation does with its descriptor (R354, R356, R368) -/

/-- What `ctxgrant` does with its descriptor. -/
def State.goGrant (c : Nat) (d : Opnd) (s : State) (item : Option Item) : Res :=
  if s.resetting c then s.answer d 2
  else
    match item with
    | none => s.answer d 3
    | some i =>
      let r := s.grantResult s.th.asid c i
      if r = 0 then (s.applyGrant s.th.asid c i).afterCoreset (match i with
        | .cores _ _ => [c]
        | _ => []) d
      else s.answer d (word r)

/-- What `ctxrevoke` does with its descriptor. -/
def State.takeBack (c : Nat) (d : Opnd) (s : State) (item : Option Item) : Res :=
  if s.resetting c then s.answer d 2
  else
    match item with
    | none => s.answer d 3
    | some i =>
      let r := s.revokeResult c i
      if r = 0 then (s.markRevoke c i).goRevoke ⟨s.cur, s.th.asid, c, i, s.deepest (s.subtree c)⟩ d
      else s.answer d (word r)

/-- A list that concerns a grant or a revocation of cores alone. -/
def Item.onCores (i : Item) (l : List Nat) : List Nat :=
  match i with
  | .cores _ _ => l
  | _ => []

section Given
variable {q : State} {c : Nat} {d : Opnd} {item : Option Item} {i : Item}

theorem goGrant_resetting (hr : q.resetting c = true) : q.goGrant c d item = q.answer d 2 := if_pos hr

theorem takeBack_resetting (hr : q.resetting c = true) : q.takeBack c d item = q.answer d 2 := if_pos hr

section Live
variable (hr : q.resetting c = false)
include hr

theorem goGrant_malformed : q.goGrant c d none = q.answer d 3 := by
  simp only [State.goGrant, hr, Bool.false_eq_true, if_false]

theorem takeBack_malformed : q.takeBack c d none = q.answer d 3 := by
  simp only [State.takeBack, hr, Bool.false_eq_true, if_false]

theorem goGrant_refuses (hg : q.grantResult q.th.asid c i ≠ 0) :
    q.goGrant c d (some i) = q.answer d (word (q.grantResult q.th.asid c i)) := by
  simp only [State.goGrant, hr, Bool.false_eq_true, if_false, hg]

theorem takeBack_refuses (hv : q.revokeResult c i ≠ 0) : q.takeBack c d (some i) = q.answer d (word (q.revokeResult c i)) := by
  simp only [State.takeBack, hr, Bool.false_eq_true, if_false, hv]

theorem goGrant_gives (hg : q.grantResult q.th.asid c i = 0) :
    q.goGrant c d (some i) = (q.applyGrant q.th.asid c i).afterCoreset (i.onCores [c]) d := by
  simp only [State.goGrant, hr, Bool.false_eq_true, if_false, hg, if_true]
  rfl

theorem takeBack_revokes (hv : q.revokeResult c i = 0) : q.takeBack c d (some i) =
    (q.markRevoke c i).goRevoke ⟨q.cur, q.th.asid, c, i, q.deepest (q.subtree c)⟩ d := by
  simp only [State.takeBack, hr, Bool.false_eq_true, if_false, hv, if_true]

end Live

theorem afterCoreset_done {l : List Nat} (hl : q.coresetIds l = []) :
    q.afterCoreset l d = (q.unkept.leaveLines q.cur).answer d 0 := by
  simp only [State.afterCoreset, hl]

theorem afterCoreset_waits {l : List Nat} (hl : q.coresetIds l ≠ []) :
    q.afterCoreset l d = .park (q.keep 4) (.quiet (q.coresetIds l) []) := by
  unfold State.afterCoreset
  split
  · next h => exact absurd h hl
  · rfl

end Given

/-! ### A revocation under way (R356) -/

section UnderWay
variable {k : State} {r : Revoke} {d : Opnd}

/-- What a revocation waits for once its effects have come to every context: accesses in what is revoked, and the CORESET
descriptors that it has written (R332, R358). -/
def State.revokeOwed (z : State) (r : Revoke) : List Nat :=
  z.revokedAccs r.issuer r.child r.item ++ z.coresetIds (r.item.onCores (z.subtree r.child))

/-- The revocations of other threads. -/
def State.otherWorks (k : State) : List Revoke := k.works.filter fun w => w.uid != k.cur

theorem goRevoke_over (hk : k.th.kept = [2]) :
    k.goRevoke r d = ((State.endRevoke { k with works := k.otherWorks } r).unkept.leaveLines k.cur).answer d 0 := by
  simp only [State.goRevoke, hk, if_true]
  rfl

variable (hk : k.th.kept ≠ [2])
include hk

theorem goRevoke_cascades (hx : (k.cascade r.issuer r.item r.holders).2.1 ≠ []) :
    let x := k.cascade r.issuer r.item r.holders
    k.goRevoke r d = .park (State.keep { x.1 with works := k.otherWorks ++ [{ r with holders := x.2.1 }] } 1)
      (.threads x.2.2) := by
  simp only [State.goRevoke, hk, if_false, hx, ne_eq, not_false_eq_true, if_true]
  rfl

variable (hx : (k.cascade r.issuer r.item r.holders).2.1 = [])
include hx

theorem goRevoke_waits (ho : ((k.cascade r.issuer r.item r.holders).1.cutOff r.issuer r.child r.item).revokeOwed r ≠ []) :
    let z := (k.cascade r.issuer r.item r.holders).1.cutOff r.issuer r.child r.item
    k.goRevoke r d = .park (State.keep { z with works := k.otherWorks ++ [{ r with holders := [] }] } 2)
      (.quiet (z.revokeOwed r) []) := by
  simp only [State.goRevoke, hk, if_false, hx, ne_eq, not_true_eq_false]
  split
  · next h => exact absurd h ho
  · rfl

theorem goRevoke_ends (ho : ((k.cascade r.issuer r.item r.holders).1.cutOff r.issuer r.child r.item).revokeOwed r = []) :
    let z := (k.cascade r.issuer r.item r.holders).1.cutOff r.issuer r.child r.item
    k.goRevoke r d = ((State.endRevoke { z with works := k.otherWorks } r).unkept.leaveLines k.cur).answer d 0 := by
  simp only [State.goRevoke, hk, if_false, hx, ne_eq, not_true_eq_false]
  split
  · rfl
  · next h => exact absurd ho h

end UnderWay

/-! ### The two instructions -/

section Instruction
variable {s y e : State} {h : Hdr} {d a b : Opnd} {c : Nat} {bs : List Byte} {i : Item} {p : Park} {tr : Trap} {w : Revoke}

/-- The state after the read of a descriptor. -/
def State.itemRead (y : State) : State := y.setTh { y.th with trace := [] }

/-- A grant or revocation that has just been issued names a child, whose turn is free, and a descriptor that can be read. -/
structure State.itemReady (s : State) (a b : Opnd) (c : Nat) (bs : List Byte) (y : State) : Prop where
  fresh : s.th.kept = []
  idle : ∀ w ∈ s.works, w.uid ≠ s.cur
  child : s.past.targetCtx (s.reg a) 0 0 = .ok c
  turn : s.past.turnFree c
  ready : (s.past.inTurn c).descriptorReady (s.reg b) 16 64 bs y

theorem past_no_work (hw : ∀ w ∈ s.works, w.uid ≠ s.cur) : (s.past.works.find? fun w => w.uid == s.past.cur) = none :=
  List.find?_eq_none.mpr fun w hmem => by simpa using hw w hmem

section Ready
variable (hi : s.itemReady a b c bs y)
include hi

theorem itemRead_cur : y.itemRead.cur = s.cur :=
  (inTurn_readBy_cur hi.ready :)

theorem itemRead_asid : y.itemRead.th.asid = s.th.asid := by
  rw [State.itemRead, read_th hi.ready]
  exact past_asid s

theorem itemRead_kept : y.itemRead.th.kept = [] := by
  rw [State.itemRead, read_th hi.ready]
  exact (past_kept s).trans hi.fresh

theorem markRevoke_cur : (y.itemRead.markRevoke c i).cur = s.cur :=
  (th_of_issuer (markRevoke_issuer ..)).1.trans (itemRead_cur hi)

theorem markRevoke_otherWorks :
    (y.itemRead.markRevoke c i).otherWorks = (y.itemRead.markRevoke c i).works.filter fun w => w.uid != s.cur := by
  rw [State.otherWorks, markRevoke_cur hi]

theorem markRevoke_not_over : (y.itemRead.markRevoke c i).th.kept ≠ [2] := by
  rw [(th_of_issuer (markRevoke_issuer ..)).2, itemRead_kept hi]
  nofun

theorem ctxgrant_goes (hg : y.itemRead.goGrant c d (itemOf (bs.take 64)) = .done e) :
    Completes (.ctxgrant h d a b) s (e.unkept.leaveLines s.cur) :=
  completes_of_done rfl fun hh => by
    have hk : s.past.th.kept ≠ [4] := by
      rw [past_kept, hi.fresh]
      nofun
    simp only [hk, if_false, past_arg hh, hi.child]
    exact turn_item_goes hi.turn hi.ready hg

theorem ctxgrant_parks (hg : y.itemRead.goGrant c d (itemOf (bs.take 64)) = .park e p) : Parks (.ctxgrant h d a b) s e p :=
  parks_of_park rfl fun hh => by
    have hk : s.past.th.kept ≠ [4] := by
      rw [past_kept, hi.fresh]
      nofun
    simp only [hk, if_false, past_arg hh, hi.child]
    exact turn_item_parks hi.turn hi.ready hg

theorem ctxrevoke_goes (hg : y.itemRead.takeBack c d (itemOf (bs.take 64)) = .done e) :
    Completes (.ctxrevoke h d a b) s (e.unkept.leaveLines s.cur) :=
  completes_of_done rfl fun hh => by
    simp only [past_no_work hi.idle, past_arg hh, hi.child]
    exact turn_item_goes hi.turn hi.ready hg

theorem ctxrevoke_parks (hg : y.itemRead.takeBack c d (itemOf (bs.take 64)) = .park e p) :
    Parks (.ctxrevoke h d a b) s e p :=
  parks_of_park rfl fun hh => by
    simp only [past_no_work hi.idle, past_arg hh, hi.child]
    exact turn_item_parks hi.turn hi.ready hg

/-! The child is not being reset, and the descriptor is well-formed. -/

section Item
variable (hr : y.itemRead.resetting c = false) (hitem : itemOf (bs.take 64) = some i)
include hr hitem

theorem ctxgrant_refuses (hg : y.itemRead.grantResult s.th.asid c i ≠ 0) :
    Completes (.ctxgrant h d a b) s (y.itemRead.turned s.cur d (word (y.itemRead.grantResult s.th.asid c i))) := by
  rw [← itemRead_asid hi] at hg ⊢
  exact ctxgrant_goes hi (hitem ▸ goGrant_refuses hr hg)

theorem ctxrevoke_refuses (hv : y.itemRead.revokeResult c i ≠ 0) :
    Completes (.ctxrevoke h d a b) s (y.itemRead.turned s.cur d (word (y.itemRead.revokeResult c i))) :=
  ctxrevoke_goes hi (hitem ▸ takeBack_refuses hr hv)

section Given
variable (hg : y.itemRead.grantResult s.th.asid c i = 0)
include hg

theorem goGrant_applies : y.itemRead.goGrant c d (itemOf (bs.take 64)) =
    (y.itemRead.applyGrant s.th.asid c i).afterCoreset (i.onCores [c]) d := by
  rw [← itemRead_asid hi] at hg ⊢
  exact hitem ▸ goGrant_gives hr hg

theorem ctxgrant_gives (hl : (y.itemRead.applyGrant s.th.asid c i).coresetIds (i.onCores [c]) = []) :
    let g := y.itemRead.applyGrant s.th.asid c i
    Completes (.ctxgrant h d a b) s ((g.unkept.leaveLines s.cur).turned s.cur d 0) := by
  have hdone := (goGrant_applies (d := d) hi hr hitem hg).trans (afterCoreset_done hl)
  rw [applyGrant_cur, itemRead_cur hi] at hdone
  exact ctxgrant_goes hi hdone

theorem ctxgrant_waits (hl : (y.itemRead.applyGrant s.th.asid c i).coresetIds (i.onCores [c]) ≠ []) :
    let g := y.itemRead.applyGrant s.th.asid c i
    Parks (.ctxgrant h d a b) s (g.keep 4) (.quiet (g.coresetIds (i.onCores [c])) []) :=
  ctxgrant_parks hi ((goGrant_applies hi hr hitem hg).trans (afterCoreset_waits hl))

end Given

section Revoked
variable (hv : y.itemRead.revokeResult c i = 0)
include hv

/-- The revocation that a `ctxrevoke` begins. -/
def State.revocation (s q : State) (c : Nat) (i : Item) : Revoke := ⟨s.cur, s.th.asid, c, i, q.deepest (q.subtree c)⟩

theorem takeBack_begins : y.itemRead.takeBack c d (itemOf (bs.take 64)) =
    (y.itemRead.markRevoke c i).goRevoke (s.revocation y.itemRead c i) d := by
  rw [State.revocation, ← itemRead_cur hi, ← itemRead_asid hi]
  exact hitem ▸ takeBack_revokes hr hv

theorem ctxrevoke_cascades
    (hx : ((y.itemRead.markRevoke c i).cascade s.th.asid i (y.itemRead.deepest (y.itemRead.subtree c))).2.1 ≠ []) :
    let k := y.itemRead.markRevoke c i
    let x := k.cascade s.th.asid i (y.itemRead.deepest (y.itemRead.subtree c))
    Parks (.ctxrevoke h d a b) s (State.keep { x.1 with
      works := (k.works.filter fun w => w.uid != s.cur) ++ [⟨s.cur, s.th.asid, c, i, x.2.1⟩] } 1) (.threads x.2.2) := by
  have hpark := (takeBack_begins (d := d) hi hr hitem hv).trans (goRevoke_cascades (markRevoke_not_over hi) hx)
  rw [markRevoke_otherWorks hi] at hpark
  exact ctxrevoke_parks hi hpark

section Cascaded
variable (hx : ((y.itemRead.markRevoke c i).cascade s.th.asid i (y.itemRead.deepest (y.itemRead.subtree c))).2.1 = [])
include hx

/-- The state once the effects have come to every context and what they end at once has ended. -/
def State.revoked (s y : State) (c : Nat) (i : Item) : State :=
  ((y.itemRead.markRevoke c i).cascade s.th.asid i (y.itemRead.deepest (y.itemRead.subtree c))).1.cutOff s.th.asid c i

theorem ctxrevoke_waits (ho : (s.revoked y c i).revokeOwed (s.revocation y.itemRead c i) ≠ []) :
    let k := y.itemRead.markRevoke c i
    Parks (.ctxrevoke h d a b) s (State.keep { s.revoked y c i with
      works := (k.works.filter fun w => w.uid != s.cur) ++ [⟨s.cur, s.th.asid, c, i, []⟩] } 2)
      (.quiet ((s.revoked y c i).revokeOwed (s.revocation y.itemRead c i)) []) := by
  have hpark := (takeBack_begins (d := d) hi hr hitem hv).trans (goRevoke_waits (markRevoke_not_over hi) hx ho)
  rw [markRevoke_otherWorks hi] at hpark
  exact ctxrevoke_parks hi hpark

theorem ctxrevoke_ends (ho : (s.revoked y c i).revokeOwed (s.revocation y.itemRead c i) = []) :
    let k := y.itemRead.markRevoke c i
    let ended := State.endRevoke { s.revoked y c i with works := k.works.filter fun w => w.uid != s.cur }
      (s.revocation y.itemRead c i)
    Completes (.ctxrevoke h d a b) s ((ended.unkept.leaveLines s.cur).turned s.cur d 0) := by
  have hdone := (takeBack_begins (d := d) hi hr hitem hv).trans (goRevoke_ends (markRevoke_not_over hi) hx ho)
  rw [markRevoke_otherWorks hi, markRevoke_cur hi] at hdone
  exact ctxrevoke_goes hi hdone

end Cascaded

end Revoked

end Item

end Ready

/-! Targets that are not a child, and instructions that go on. -/

section Target
variable (hk : s.th.kept = []) (ht : s.past.targetCtx (s.reg a) 0 0 = .error tr)
include ht

include hk in
theorem ctxgrant_traps (hc : s.clear (.ctxgrant h d a b) = true) : exec (.ctxgrant h d a b) s = .next (s.trapNow tr) :=
  traps_of_trap rfl (fun hh => by
    have hk' : s.past.th.kept ≠ [4] := by
      rw [past_kept, hk]
      nofun
    simp only [hk', if_false, past_arg hh, ht]) hc

theorem ctxrevoke_traps (hw : ∀ w ∈ s.works, w.uid ≠ s.cur) (hc : s.clear (.ctxrevoke h d a b) = true) :
    exec (.ctxrevoke h d a b) s = .next (s.trapNow tr) :=
  traps_of_trap rfl (fun hh => by simp only [past_no_work hw, past_arg hh, ht]) hc

end Target

theorem ctxgrant_resumes (hk : s.th.kept = [4]) :
    Resumes (.ctxgrant h d a b) s ((s.past.unkept.leaveLines s.cur).later [.reg d] [.reg d 0]) :=
  resumes_of_done rfl (by
    rw [if_pos ((past_kept s).trans hk)]
    rfl)

theorem ctxrevoke_resumes (hk : s.th.kept = [2]) (hw : (s.works.find? fun w => w.uid == s.cur) = some w) :
    let others := s.past.works.filter fun w => w.uid != s.cur
    Resumes (.ctxrevoke h d a b) s
      (((State.endRevoke { s.past with works := others } w).unkept.leaveLines s.cur).later [.reg d] [.reg d 0]) :=
  resumes_of_done rfl (by
    have hw' : (s.past.works.find? fun w => w.uid == s.past.cur) = some w := hw
    rw [hw']
    exact goRevoke_over ((past_kept s).trans hk))

end Instruction

/-- Settles O48: grants and revocations of a child that have just been issued, by the child's state, the descriptor and the
checks; targets that are no child; and the two waits that end with 0. -/
theorem grantAndRevoke : Obligations.GrantAndRevoke := by
  unfold Obligations.GrantAndRevoke
  refine fun s h d a b c bs y i tr w => ⟨fun hk hw => ⟨fun ht hf hready => ?_, fun ht => ⟨ctxgrant_traps hk ht,
    ctxrevoke_traps ht hw⟩⟩, ctxgrant_resumes, ctxrevoke_resumes⟩
  have hi : s.itemReady a b c bs y := ⟨hk, hw, ht, hf, hready⟩
  refine ⟨fun hr => ⟨ctxgrant_goes hi (goGrant_resetting hr), ctxrevoke_goes hi (takeBack_resetting hr)⟩,
    fun hr hitem => ⟨ctxgrant_goes hi (hitem ▸ goGrant_malformed hr), ctxrevoke_goes hi (hitem ▸ takeBack_malformed hr)⟩,
    fun hr hitem => ⟨ctxgrant_refuses hi hr hitem, ctxgrant_gives hi hr hitem, ctxgrant_waits hi hr hitem,
      ctxrevoke_refuses hi hr hitem, ctxrevoke_cascades hi hr hitem, fun hv hx ho => ?_, fun hv hx ho => ?_⟩⟩
  · have hwaits := ctxrevoke_waits (h := h) (d := d) hi hr hitem hv hx ho
    rw [hx]
    exact hwaits
  · have hends := ctxrevoke_ends (h := h) (d := d) hi hr hitem hv hx ho
    rw [hx]
    exact hends

end Sys2Proof.Machine
end

section
/-! PROOFS. The state of each context (R351), which the service of requests, the saves of threads and the filling of slots
leave. -/

namespace Sys2Proof.Machine

/-- Whether each context is new, running, stopped or being reset. -/
def State.phase (s : State) (a : Nat) : CtxState := (s.ctx a).state

/-- A key that a map lacks reads as the default. -/
theorem get_absent {α : Type} (d : α) {m : Sparse α} {k : Nat} (h : has m k = false) : get d m k = d := by
  induction m with
  | nil => rfl
  | cons e r ih =>
    obtain ⟨j, v⟩ := e
    rw [has] at h
    split at h
    · cases h
    · next hj => rw [get, if_neg hj, ih h]

section Phase
variable {s q : State}

theorem phase_of_ctxs (h : q.ctxs = s.ctxs) : q.phase = s.phase := by
  funext a
  rw [State.phase, State.ctx, h]
  rfl

theorem forEach_phase {α : Type} {f : α → State → State} (hf : ∀ a s, (f a s).phase = s.phase) (l : List α) (s : State) :
    (forEach f l s).phase = s.phase := forEach_reads State.phase hf l s

theorem onCtx_phase {f : Ctx → Ctx} (hf : ∀ c, (f c).state = c.state) (s : State) (a : Nat) :
    (s.onCtx a f).phase = s.phase := by
  funext b
  by_cases hb : b = a
  · subst hb
    rw [State.phase, State.onCtx, ctx_setCtx, hf]
    rfl
  · rw [State.phase, State.onCtx, ctx_setCtx_ne _ _ hb]
    rfl

theorem leaveLines_phase (s : State) (uid : Nat) : (s.leaveLines uid).phase = s.phase := by
  funext a
  refine (congrArg Ctx.state (get_map (Ctx.new 0 0 []) (fun c => { c with line := c.line.filter (· ≠ uid) }) s.ctxs a)).trans ?_
  split
  · rfl
  · next hno => rw [State.phase, State.ctx, get_absent _ (Bool.eq_false_of_not_eq_true hno)]

variable (s)

theorem onThread_phase (u : Nat) (f : Thread → Thread) : (s.onThread u f).phase = s.phase := by
  unfold State.onThread
  split <;> rfl

theorem onCore_phase (c : Nat) (f : Core → Core) : (s.onCore c f).phase = s.phase := rfl

theorem remember_phase (w : Who) (va : Word) (k : Nat) (t : Tr) : (s.remember w va k t).phase = s.phase :=
  phase_of_ctxs (remember_ctxs ..)

theorem countHome_ctxs (asid : Nat) (h : Home) (n : Nat) : (s.countHome asid h n).ctxs = s.ctxs := by
  unfold State.countHome
  split <;> simp

theorem countHome_phase (asid : Nat) (h : Home) (n : Nat) : (s.countHome asid h n).phase = s.phase :=
  phase_of_ctxs (countHome_ctxs ..)

/-! ### Accesses that a home serves -/

theorem holdEvent_phase (a : Nat) (e : Event) : (s.holdEvent a e).phase = s.phase :=
  onCtx_phase (fun c => by split <;> rfl) s a

theorem reportFailure_phase (a : Nat) (va : Word) (tr : Trap) : (s.reportFailure a va tr).phase = s.phase :=
  holdEvent_phase ..

theorem retire_phase (pa : Nat) : (s.retire pa).phase = s.phase := by
  unfold State.retire
  dsimp only
  split
  · exact holdEvent_phase ..
  · rfl

theorem disturb_phase (root : Nat) : (s.disturb root).phase = s.phase :=
  forEach_phase (fun a s => onCtx_phase (fun _ => by rfl) s a) (s.subtree root) s

theorem disturbed_phase (pa : Nat) : (s.disturbed pa).phase = s.phase := forEach_phase (fun c s => disturb_phase s c) _ s

theorem claim_phase (h : Home) (pa n : Nat) : (s.claim h pa n).phase = s.phase := by
  unfold State.claim
  split <;> rfl

theorem dropLine_phase (l : Nat) (old : Held) : (s.dropLine l old).phase = s.phase := by
  unfold State.dropLine
  dsimp only
  split <;> rfl

theorem rehome_phase (h : Home) (pa n : Nat) : (s.rehome h pa n).phase = s.phase := by
  unfold State.rehome
  split
  · rfl
  · refine forEach_phase (fun l s => ?_) _ s
    split
    · rfl
    · split
      · rfl
      · exact dropLine_phase ..

theorem dirty_phase (pa n : Nat) : (s.dirty pa n).phase = s.phase := by
  unfold State.dirty
  split <;> rfl

theorem storeBytes_phase (pa : Nat) (bs : List Byte) : (s.storeBytes pa bs).phase = s.phase := dirty_phase s pa bs.length

theorem setFull_phase (pa : Nat) (f : Bool) : (s.setFull pa f).phase = s.phase := dirty_phase s pa 8

theorem salRecord_phase (c w8 : Nat) (src time : Word) : (s.salRecord c w8 src time).phase = s.phase := by
  unfold State.salRecord
  dsimp only
  rw [onCore_phase]
  split
  · rfl
  · exact storeBytes_phase ..

theorem salWord_phase (c n : Nat) (src : Word) (w8 : Nat) : (s.salWord c n src w8).phase = s.phase := by
  unfold State.salWord
  dsimp only
  split
  · rfl
  · have hfirst := fun l : List Past => forEach_phase (fun (e : Past) s => salRecord_phase s c e.word8 e.src e.time) l s
    rw [onCore_phase]
    split
    · rw [salRecord_phase, hfirst]
    · exact hfirst _

theorem sal_phase (h : Home) (src : Word) (pa n : Nat) : (s.sal h src pa n).phase = s.phase := by
  unfold State.sal
  split
  · rfl
  · split
    · rfl
    · exact forEach_phase (fun w s => salWord_phase s _ _ src w) _ s

theorem writeAt_phase (h : Home) (src : Word) (pa : Nat) (bs : List Byte) : (s.writeAt h src pa bs).phase = s.phase := by
  rw [State.writeAt, disturbed_phase, retire_phase, sal_phase, claim_phase, storeBytes_phase, rehome_phase]

theorem serveSaved_phase (img out : Nat) (bs : List Byte) (bad : Bool) : (s.serveSaved img out bs bad).phase = s.phase := by
  unfold State.serveSaved
  dsimp only
  rw [storeBytes_phase, storeBytes_phase]
  split
  · rfl
  · split
    · exact onCore_phase ..
    · rw [storeBytes_phase]
      split
      · rfl
      · exact storeBytes_phase ..

theorem deliver_phase (a : Acc) (bs : List Byte) (bad : Bool) : (s.deliver a bs bad).phase = s.phase := by
  unfold State.deliver
  split
  · split
    · rfl
    · exact onThread_phase ..
  · exact serveSaved_phase ..
  · split <;> rfl
  · split <;> rfl
  · split <;> rfl
  · rfl

theorem serveOne_phase (a : Acc) : (s.serveOne a).phase = s.phase := by
  unfold State.serveOne
  split
  · rw [deliver_phase]
    split
    · exact setFull_phase ..
    · rfl
  · rw [deliver_phase, setFull_phase, writeAt_phase]
  · exact deliver_phase ..
  · rfl

variable {s} in
theorem serveWord_phase (w8 n : Nat) : (State.serveWord w8 n s).phase = s.phase := by
  induction n generalizing s with
  | zero => rfl
  | succ n ih =>
    rw [State.serveWord]
    split
    · rfl
    · rw [ih, serveOne_phase]
      rfl

theorem serveRange_phase (pa n : Nat) : (s.serveRange pa n).phase = s.phase := by
  unfold State.serveRange
  split
  · rfl
  · exact forEach_phase (fun w s => serveWord_phase ..) _ s

theorem doAtom_phase (a : Acc) (op : Nat) (b d : Word) : (s.doAtom a op b d).phase = s.phase := by
  unfold State.doAtom
  dsimp only
  rw [deliver_phase, State.storeAt, serveRange_phase, writeAt_phase]

theorem forward_phase (a : Acc) : (s.forward a).phase = s.phase := by
  unfold State.forward
  dsimp only
  rw [deliver_phase]
  split <;> rfl

variable {s} in
theorem serveBank_phase (h : Home) (pa n : Nat) : (State.serveBank h pa n s).phase = s.phase := by
  induction n generalizing s with
  | zero => rfl
  | succ n ih =>
    rw [State.serveBank]
    split
    · rfl
    · split
      · rfl
      · dsimp only
        split
        · rw [ih, doAtom_phase]
          rfl
        · rw [ih, forward_phase]
          rfl

theorem endResv_phase (o : Owner) : (s.endResv o).phase = s.phase := by
  unfold State.endResv
  split
  · rfl
  · dsimp only
    rw [serveBank_phase, serveRange_phase]
    rfl

/-! ### Threads that leave and take slots -/

theorem vacate_phase (uid : Nat) (p : Place) : (s.vacate uid p).phase = s.phase := by
  have hleft : ((s.endResv (.thread uid)).leaveLines uid).phase = s.phase := (leaveLines_phase ..).trans (endResv_phase ..)
  unfold State.vacate
  dsimp only
  split
  · rw [onThread_phase, hleft]
  · rw [onThread_phase, onCore_phase, hleft]

theorem startThread_phase (t : Thread) : (s.startThread t).phase = s.phase := by
  unfold State.startThread
  split <;> rfl

theorem countWords_phase (w : Who) (l : List Word) : (s.countWords w l).phase = s.phase :=
  forEach_phase (fun a s => by
    split
    · rw [countHome_phase, remember_phase]
    · rfl) l s

theorem startLeaf_phase (asid core : Nat) (h : Word) (n : Nat) : (s.startLeaf asid core h n).phase = s.phase := by
  unfold State.startLeaf
  split
  · rfl
  · split
    · rfl
    · dsimp only
      rw [startThread_phase, onCtx_phase (fun _ => by rfl)]
      split
      · split
        · exact countWords_phase ..
        · rfl
      · rw [onCore_phase]
        split
        · exact countWords_phase ..
        · rfl

theorem startRow_phase (asid core slot tile row : Nat) (pc arg issuer : Word) (lanes : List Lane) (cls : Nat) :
    (s.startRow asid core slot tile row pc arg issuer lanes cls).phase = s.phase := startThread_phase ..

theorem unqueue_phase (asid key : Nat) (e : QEntry) : (s.unqueue asid key e).phase = s.phase := onCtx_phase (fun _ => by rfl) s asid

theorem take_phase (asid : Nat) (cc : Bool) (core slot : Nat) (e : QEntry) : (s.take asid cc core slot e).phase = s.phase := by
  unfold State.take
  dsimp only
  split
  · split
    · rw [onThread_phase, unqueue_phase]
    · rw [onCore_phase, onThread_phase, unqueue_phase]
  · rw [startLeaf_phase, unqueue_phase]
  · rw [startRow_phase, unqueue_phase]

theorem sendEvent_phase (a : Nat) (va : Word) (t : Tr) (bs : List Byte) (i : Nat) : (s.sendEvent a va t bs i).phase = s.phase := rfl

theorem writeEvent_phase (a : Nat) (e : Event) : (s.writeEvent a e).phase = s.phase := by
  unfold State.writeEvent
  dsimp only
  split
  · rw [sendEvent_phase, sendEvent_phase, onCtx_phase (fun _ => by rfl), remember_phase]
  · split
    · exact onCtx_phase (fun _ => by rfl) s 0
    · rw [reportFailure_phase, holdEvent_phase]

theorem postEvent_phase (a : Nat) (e : Event) : (s.postEvent a e).phase = s.phase := by
  unfold State.postEvent
  split
  · exact onCtx_phase (fun _ => by rfl) s a
  · split
    · exact writeEvent_phase ..
    · exact holdEvent_phase ..

theorem refillOne_phase (asid core : Nat) : (s.refillOne asid core).phase = s.phase := by
  unfold State.refillOne
  extract_lets +onlyGivenNames c n a
  split
  · rfl
  · split
    · dsimp only
      split
      · rw [reportFailure_phase, onCtx_phase (fun _ => by rfl)]
      · rw [State.pageRequest, postEvent_phase, onCtx_phase (fun _ => by rfl)]
    · split
      · rfl
      · rw [onCtx_phase (fun _ => by rfl), onCore_phase, countHome_phase, remember_phase]

theorem refillDeque_phase (asid core : Nat) : (s.refillDeque asid core).phase = s.phase := by
  unfold State.refillDeque
  split
  · rfl
  · exact forEach_phase (fun _ s => refillOne_phase s asid core) _ s

theorem takeTask_phase (asid core slot : Nat) : (s.takeTask asid core slot).phase = s.phase := by
  have hrefilled : ((s.onCtx asid fun c => { c with refused := c.refused.filter (· ≠ core) }).refillDeque asid core).phase =
      s.phase := (refillDeque_phase ..).trans (onCtx_phase (fun _ => by rfl) s asid)
  have hstart : ∀ (q : State) (c k : Nat) (t : Task), (q.startTask c k t).phase = q.phase := fun q c k t => startThread_phase ..
  unfold State.takeTask
  dsimp only
  split
  · rfl
  · split
    · rw [hstart, onCore_phase, hrefilled]
    · split
      · exact hrefilled
      · split
        · exact hrefilled
        · rw [hstart, onCore_phase, hrefilled]

theorem fillSlot_phase (core slot : Nat) : (s.fillSlot core slot).phase = s.phase := by
  unfold State.fillSlot
  split
  · rfl
  · split
    · unfold State.fillUrgent
      split
      · rfl
      · split
        · rfl
        · exact take_phase ..
    · split
      · rfl
      · split
        · exact take_phase ..
        · split
          · exact takeTask_phase ..
          · rfl

theorem fillControl_phase (cc slot : Nat) : (s.fillControl cc slot).phase = s.phase := by
  unfold State.fillControl
  split
  · rfl
  · split
    · rfl
    · split
      · rfl
      · exact take_phase ..

theorem fill_phase (cc : Bool) (core slot : Nat) : (s.fill cc core slot).phase = s.phase := by
  unfold State.fill
  split
  · exact fillControl_phase ..
  · exact fillSlot_phase ..

theorem saveBlock_phase (uid : Nat) : (s.saveBlock uid).phase = s.phase := by
  unfold State.saveBlock
  dsimp only
  split
  · rw [fill_phase, vacate_phase, onThread_phase]
  · rw [vacate_phase, onThread_phase]

end Phase

/-! ### A cooling failure stops every context (R369, R424) -/

section Stop
variable {s : State}

/-- Neither new nor running. -/
def CtxState.halted (p : CtxState) : Prop := p ≠ .running ∧ p ≠ .new

theorem markStopped_halted (s : State) (a : Nat) : ((s.markStopped a).phase a).halted := by
  rw [State.phase, State.markStopped, State.onCtx, ctx_setCtx]
  exact ⟨nofun, nofun⟩

theorem markStopped_keeps_halted {x : Nat} (h : (s.phase x).halted) (a : Nat) : ((s.markStopped a).phase x).halted := by
  by_cases hx : x = a
  · exact hx ▸ markStopped_halted s a
  · rw [State.phase, State.markStopped, State.onCtx, ctx_setCtx_ne _ _ hx]
    exact h

/-- What the stop does to a context that its list names. -/
def stopOne (e : Nat × Ctx) (s : State) : State :=
  if e.2.state = .running ∨ e.2.state = .new then s.markStopped e.1 else s

theorem stopOne_keeps_halted {x : Nat} (e : Nat × Ctx) (s : State) (h : (s.phase x).halted) : ((stopOne e s).phase x).halted := by
  unfold stopOne
  split
  · exact markStopped_keeps_halted h e.1
  · exact h

/-- A context that a list names is stopped by it, or was halted. -/
theorem stopOne_halts {l : Sparse Ctx} {x : Nat} (hx : has l x = true)
    (hs : (get (Ctx.new 0 0 []) l x).state.halted → (s.phase x).halted) : ((forEach stopOne l s).phase x).halted := by
  induction l generalizing s with
  | nil => cases hx
  | cons e r ih =>
    obtain ⟨j, c⟩ := e
    by_cases hj : j = x
    · refine forEach_keeps (P := fun q : State => (q.phase x).halted) stopOne_keeps_halted r ?_
      subst hj
      rw [get, if_pos rfl] at hs
      unfold stopOne
      split
      · exact markStopped_halted ..
      · next hno => exact hs ⟨fun h => hno (.inl h), fun h => hno (.inr h)⟩
    · rw [has, if_neg hj] at hx
      rw [get, if_neg hj] at hs
      exact ih hx fun h => stopOne_keeps_halted _ _ (hs h)

theorem stopAll_phase (s : State) : s.stopAll.phase = (forEach stopOne s.ctxs s).phase :=
  forEach_phase (fun e s => by
    split
    · exact saveBlock_phase ..
    · rfl) _ _

theorem stopAll_halts {x : Nat} (hx : has s.ctxs x = true) :
    (s.stopAll.ctx x).state ≠ .running ∧ (s.stopAll.ctx x).state ≠ .new := by
  have hphase : (s.stopAll.ctx x).state = (forEach stopOne s.ctxs s).phase x := congrFun (stopAll_phase s) x
  rw [hphase]
  exact stopOne_halts hx id

end Stop

end Sys2Proof.Machine
end

section
/-! PROOFS. Register writes as steps (R326, R340), and what the host, the links, power, time and the boot do (R413 to R424). -/

namespace Sys2Proof.Machine

/-! ### Register writes (R326, R340) -/

section Registers
variable {s : State} {n : BitVec 12} {v : Word}

/-- The thread that issues has the privilege of a register, and its write passes the register's own check. -/
structure State.mayWrite (s : State) (n : BitVec 12) (v : Word) : Prop where
  known : crKnown n = true
  supervisor : 1 ≤ crPriv n → s.th.sup = true
  root : 2 ≤ crPriv n → s.th.asid = 0
  checked : s.crWriteCheck n.toNat v (word (Config.freeNat s.free)) = none

/-- The thread lacks the privilege of a register. -/
def State.crDenied (s : State) (n : BitVec 12) : Bool :=
  (decide (1 ≤ crPriv n) && !s.th.sup) || (decide (2 ≤ crPriv n) && s.th.asid != 0)

theorem crDenied_eq_false (hsup : 1 ≤ crPriv n → s.th.sup = true) (hroot : 2 ≤ crPriv n → s.th.asid = 0) :
    s.crDenied n = false := by
  simp only [State.crDenied, Bool.or_eq_false_iff, Bool.and_eq_false_imp, decide_eq_true_eq]
  exact ⟨fun h => by rw [hsup h]; rfl, fun h => by rw [hroot h]; rfl⟩

theorem crDenied_eq_true (h : (1 ≤ crPriv n ∧ s.th.sup = false) ∨ (2 ≤ crPriv n ∧ s.th.asid ≠ 0)) : s.crDenied n = true := by
  simpa only [State.crDenied, Bool.or_eq_true, Bool.and_eq_true, decide_eq_true_eq, Bool.not_eq_true', bne_iff_ne] using h

variable (hl : has s.threads s.cur = true)
include hl

theorem crEvent_writes (h : s.mayWrite n v) : crEvent n v s = .next (s.writeCr n.toNat v) := by
  have hdenied : ((decide (1 ≤ crPriv n) && !s.th.sup) || (decide (2 ≤ crPriv n) && s.th.asid != 0)) = false :=
    crDenied_eq_false h.supervisor h.root
  simp only [crEvent, hl, if_true, State.crWrite, hdenied, h.known, h.checked, Bool.not_true, Bool.false_eq_true, if_false]

theorem crEvent_denied (h : (1 ≤ crPriv n ∧ s.th.sup = false) ∨ (2 ≤ crPriv n ∧ s.th.asid ≠ 0)) :
    crEvent n v s =
      .next (State.raise { s with free := s.free + 1 } s.cur (.of .priv (word (Config.freeNat s.free))) true) := by
  have hdenied : ((decide (1 ≤ crPriv n) && !s.th.sup) || (decide (2 ≤ crPriv n) && s.th.asid != 0)) = true := crDenied_eq_true h
  simp only [crEvent, hl, if_true, State.crWrite, hdenied]

theorem crEvent_unknown (hk : crKnown n = false) (hsup : 1 ≤ crPriv n → s.th.sup = true) (hroot : 2 ≤ crPriv n → s.th.asid = 0) :
    crEvent n v s =
      .next (State.raise { s with free := s.free + 1 } s.cur (.of .illegalOp (word (Config.freeNat s.free))) true) := by
  have hdenied : ((decide (1 ≤ crPriv n) && !s.th.sup) || (decide (2 ≤ crPriv n) && s.th.asid != 0)) = false :=
    crDenied_eq_false hsup hroot
  simp only [crEvent, hl, if_true, State.crWrite, hdenied, hk, Bool.not_false, Bool.false_eq_true, if_false]

end Registers

/-! ### The host (R335, R364, R414, R415, R423) -/

section Host
variable {s : State} {off vf q a : Nat} {v rec arg : Word} {who : Option Nat} {nonce : List Byte}

theorem csrWindowStore_next (ho : off < Config.cores s.part * 0x8000) (hal : off % 8 = 0) :
    exec (.csrWindowStore off v) s = .next (s.setCsr (csrBase + off) v) :=
  congrArg Host.Outcome.next (if_pos ⟨ho, hal⟩)

theorem hostQueueWrite_bound (hb : s.boundTo vf = some a) (hl : s.hostLink = true) (hq : q < 16) :
    exec (.hostQueueWrite vf q rec arg) s = .next (s.hostLaunch a q rec arg) := by
  show execHostQueueWrite vf q rec arg s = _
  simp only [execHostQueueWrite, hb, hl, hq, and_self, if_true]

theorem hostQueueWrite_unbound (hb : s.boundTo vf = none) : exec (.hostQueueWrite vf q rec arg) s = .next s := by
  show execHostQueueWrite vf q rec arg s = _
  simp only [execHostQueueWrite, hb]

theorem functionLevelReset_unbound (hb : s.boundTo vf = none) : exec (.functionLevelReset vf) s = .next s := by
  show execFunctionLevelReset vf s = _
  simp only [execFunctionLevelReset, hb]

section Bound
variable (hb : s.boundTo vf = some a)
include hb

theorem functionLevelReset_waits (hw : s.flrWaits a = true) : exec (.functionLevelReset vf) s = .next s := by
  show execFunctionLevelReset vf s = _
  simp only [execFunctionLevelReset, hb, hw, if_true]

theorem functionLevelReset_goes (hw : s.flrWaits a = false) :
    let z := if s.resetting a then s else s.resetBegin a
    (z.resetOwes a = true → exec (.functionLevelReset vf) s = .next z) ∧
      (z.resetOwes a = false → exec (.functionLevelReset vf) s = .next (z.resetEnd 0 a false)) := by
  intro z
  have he : exec (.functionLevelReset vf) s = .next (if z.resetOwes a then z else z.resetEnd 0 a false) := by
    show execFunctionLevelReset vf s = _
    simp only [execFunctionLevelReset, hb, hw, Bool.false_eq_true, if_false]
    rfl
  exact ⟨fun ho => by rw [he, if_pos ho], fun ho => by rw [he, ho, if_neg Bool.false_ne_true]⟩

end Bound

theorem attestationRequest_unverified (hi : s.identity = []) : exec (.attestationRequest who nonce) s = .next s :=
  congrArg Host.Outcome.next (if_pos hi)

/-- What follows the 184 bytes of a report: the length and the bytes of a signature, which the spec does not state. -/
def State.signature (s : State) (who : Option Nat) (nonce : List Byte) : List Byte :=
  toBytes 8 (Config.freeNat s.free % 1281) ++
    (List.range (Config.freeNat s.free % 1281)).map (Config.signByte (s.report (s.asker who) nonce) s.free)

theorem attestationRequest_reports (hi : s.identity ≠ []) : ∃ (t : State) (more : List Byte),
    exec (.attestationRequest who nonce) s = .next t ∧
      t.replies = (s.report (s.asker who) nonce ++ more) :: s.replies ∧ t.mem = s.mem := by
  refine ⟨_, s.signature who nonce, congrArg Host.Outcome.next (if_neg hi), ?_, rfl⟩
  exact congrArg (· :: s.replies) (List.append_assoc ..)

end Host

/-! ### Links, power and time (R413, R418, R419, R424) -/

section Power
variable {s : State} {l ns : Nat}

theorem linkLaneFailure_next (hl : l < 27) :
    let lk := get (Link.new l) s.links l
    exec (.linkLaneFailure l) s = .next { s with links := put s.links l { lk with width := lk.width - 1 } } :=
  congrArg Host.Outcome.next (if_pos hl)

theorem powerLimit_slows (hm : 500 < s.mhz) :
    exec .powerLimit s = .next { s with pwrstat := word (max 500 (s.mhz - 50)) ||| 0x10000 } :=
  congrArg Host.Outcome.next (if_pos hm)

theorem coolingFailure_early (hm : 500 < s.mhz) : exec .coolingFailure s = .next s := congrArg Host.Outcome.next (if_pos hm)

theorem nowForwardStep_next (hn : 1000000 < ns) : exec (.nowForwardStep ns) s = .next { s with now := s.now + word ns } :=
  congrArg Host.Outcome.next (if_pos hn)

theorem nowForwardStep_small (hn : ns ≤ 1000000) : exec (.nowForwardStep ns) s = .next s :=
  congrArg Host.Outcome.next (if_neg (Nat.not_lt.mpr hn))

section Slowest
variable (hm : s.mhz ≤ 500)
include hm

theorem powerLimit_slowest : exec .powerLimit s = .next s := congrArg Host.Outcome.next (if_neg (Nat.not_lt.mpr hm))

theorem coolingFailure_drains (hr : s.stopAll.someResident = true) : exec .coolingFailure s = .next s.stopAll := by
  show execCoolingFailure s = _
  simp only [execCoolingFailure, Nat.not_lt.mpr hm, if_false, hr, if_true]

theorem coolingFailure_signals (hr : s.stopAll.someResident = false)
    (hroom : (get Vf.new s.stopAll.vfs hostMailbox).room = true) : ∃ e : Event, e.kind = 3 ∧
      exec .coolingFailure s = .next (State.postMailbox { s.stopAll with free := s.stopAll.free + 1 } hostMailbox e) := by
  refine ⟨⟨3, 0, false, false, 0, 0, 0, word (Config.freeNat s.stopAll.free), 0, s.stopAll.now, none⟩, rfl, ?_⟩
  show execCoolingFailure s = _
  simp only [execCoolingFailure, Nat.not_lt.mpr hm, if_false, hr, Bool.false_eq_true, hroom, if_true]

end Slowest

end Power

/-! ### The boot (R421, R422) -/

theorem bringUp_next (s : State) (r : BootRecord) :
    let y := { s.afterReset with
      digest := digestOf r.image, cfgDigest := digestOf r.record, identity := identityKey }
    exec (.bringUp r) s = .next (if Config.imageSigned r.image = false then { s.afterReset with bootFail := true }
      else if Config.recordSigned r.image r.record = true ∧ r.trained = true then y.bootWith r else y) := by
  show execBringUp r s = _
  simp only [execBringUp, Bool.not_eq_true']

/-- Settles O60: register writes by privilege, number and check; the host's requests; links, power, cooling and time; the boot. -/
theorem platformEvents : Obligations.PlatformEvents := by
  unfold Obligations.PlatformEvents
  refine fun s n b v rec arg off vf q a l ns kind who nonce r => ⟨fun hl => ?registers, csrWindowStore_next, hostQueueWrite_bound,
    fun hb => ⟨hostQueueWrite_unbound hb, functionLevelReset_unbound hb⟩, functionLevelReset_waits, functionLevelReset_goes,
    attestationRequest_unverified, attestationRequest_reports, rfl, linkLaneFailure_next,
    fun hm => ⟨powerLimit_slows hm, coolingFailure_early hm⟩,
    fun hm => ⟨powerLimit_slowest hm, coolingFailure_drains hm, coolingFailure_signals hm, fun x => stopAll_halts⟩,
    nowForwardStep_next, nowForwardStep_small, bringUp_next s r, rfl, rfl⟩
  have hwrites : ∀ {n : BitVec 12}, (crKnown n = true ∧ (1 ≤ crPriv n → s.th.sup = true) ∧ (2 ≤ crPriv n → s.th.asid = 0) ∧
      s.crWriteCheck n.toNat v (word (Config.freeNat s.free)) = none) → crEvent n v s = .next (s.writeCr n.toNat v) :=
    fun ⟨hk, hsup, hroot, hc⟩ => crEvent_writes hl ⟨hk, hsup, hroot, hc⟩
  exact ⟨hwrites, fun h => ⟨_, crEvent_denied hl h⟩, fun hk hsup hroot => ⟨_, crEvent_unknown hl hk hsup hroot⟩, hwrites, hwrites,
    hwrites, hwrites, hwrites, hwrites, hwrites, hwrites, hwrites⟩

end Sys2Proof.Machine
end

section
/-! PROOFS. Operators of bytecode (R261, R263, R286): what is computed inline, on small integers and on short floats. -/

namespace Sys2Proof.Machine

/-! ### The bytecodes (R286) -/

section Operators
variable {s q q1 q2 t : State} {a b c op : BitVec 8} {ic : BitVec 16} {l r v f site : Word} {n : Nat} {ops : List Word}
  {inl : Option (Word × Word)}

/-- Actions that each leave the state, one after the other. -/
theorem tEach_silent {α : Type} {g : α → TM Unit} {l : List α} (h : ∀ x ∈ l, g x s = .ok ((), s)) : tEach g l s = .ok ((), s) := by
  induction l with
  | nil => rfl
  | cons x l ih =>
    obtain ⟨hx, hl⟩ := List.forall_mem_cons.mp h
    exact (bind_ok hx _).trans (ih hl)

theorem tExamine_ok (hv : valueOk v = true) : tExamine v s = .ok ((), s) := congrFun (if_pos hv) s

/-- An operator whose operands have a layout and have not failed, and whose result is computed inline. -/
theorem tOperator_inline (hv : ∀ x ∈ ops, valueOk x = true) (hs : tSite ic s = .ok (site, q))
    (ht : tEach (tTouch site) ops q = .ok ((), q1)) (hi : inl = some (v, f)) (hw : tSetF a.toNat v (q1.flag f) = .ok ((), t)) :
    tOperator a ic n ops inl s = .ok ((), t) := by
  unfold tOperator
  rw [bind_ok (tEach_silent fun x hx => tExamine_ok (hv x hx)), bind_ok hs, bind_ok ht, hi]
  exact (bind_ok rfl _).trans hw

/-- A value that is no heap object (R261). -/
def Simple (v : Word) : Prop := tagOf v ≠ 1 ∧ valueOk v = true

/-- The touch of values that are no heap objects does nothing. -/
theorem tEach_touch_simple (h : ∀ x ∈ ops, Simple x) : tEach (tTouch site) ops s = .ok ((), s) :=
  tEach_silent fun x hx => tTouch_immediate (h x hx).2 (h x hx).1

theorem tOperator_simple (h : ∀ x ∈ ops, Simple x) (hs : tSite ic s = .ok (site, q)) (hi : inl = some (v, f))
    (hw : tSetF a.toNat v (q.flag f) = .ok ((), t)) : tOperator a ic n ops inl s = .ok ((), t) :=
  tOperator_inline (fun x hx => (h x hx).2) hs (tEach_touch_simple h) hi hw

theorem simple_pair (hl : Simple l) (hr : Simple r) : ∀ x ∈ [l, r], Simple x := by
  simpa only [List.mem_cons, List.not_mem_nil, or_false, forall_eq_or_imp, forall_eq] using ⟨hl, hr⟩

/-- A heap pointer is true (R263). -/
theorem isFalse_heap (hv : tagOf l = 1) : isFalse l = false := by
  refine Bool.eq_false_iff.mpr fun hf => ?_
  rcases (isFalse_iff l).mp hf with rfl | rfl | rfl | rfl | rfl <;> exact absurd hv (by decide)

section Clear
variable (h : s.bcClear = true)
include h

theorem unop_inline (hl : tF b.toNat (s.advance 8) = .ok (l, q)) (hv : Simple l) (hs : tSite ic q = .ok (site, q1))
    (hi : inlineUnop op.toNat l = some (v, f)) (hw : tSetF a.toNat v (q1.flag f) = .ok ((), t)) :
    exec (.tUnop a b ic op) s = .next (s.bcEnds t) :=
  bytecode_ok8 h rfl ((bind_ok hl _).trans (tOperator_simple (fun _ hx => List.mem_singleton.mp hx ▸ hv) hs hi hw))

theorem not_heap (hl : tF b.toNat (s.advance 8) = .ok (l, q)) (hv : tagOf l = 1) (hs : tSite ic q = .ok (site, q1))
    (ht : tTouch site l q1 = .ok ((), q2)) (hw : tSetF a.toNat 0xB (q2.flag 0) = .ok ((), t)) :
    exec (.tUnop a b ic 1) s = .next (s.bcEnds t) := by
  have hnot : inlineUnop 1 l = some (0xB, 0) := by rw [inlineUnop, if_pos rfl, isFalse_heap hv]; rfl
  refine bytecode_ok8 h rfl ((bind_ok hl _).trans (tOperator_inline ?_ hs ((bind_ok ht _).trans rfl) hnot hw))
  exact fun _ hx => List.mem_singleton.mp hx ▸ valueOk_of_heap hv

section Two
variable (hl : tF b.toNat (s.advance 8) = .ok (l, q)) (hr : tF c.toNat q = .ok (r, q1))
include hl hr

theorem binop_inline (hvl : Simple l) (hvr : Simple r) (hs : tSite ic q1 = .ok (site, q2))
    (hi : inlineBinop op.toNat l r = some (v, f)) (hw : tSetF a.toNat v (q2.flag f) = .ok ((), t)) :
    exec (.tBinop a b c ic op) s = .next (s.bcEnds t) :=
  bytecode_ok8 h rfl ((bind_ok hl _).trans ((bind_ok hr _).trans (tOperator_simple (simple_pair hvl hvr) hs hi hw)))

theorem compare_inline (hvl : Simple l) (hvr : Simple r) (hs : tSite ic q1 = .ok (site, q2)) (hop : op.toNat < 6)
    (hi : inlineCompare op.toNat l r = some (v, f)) (hw : tSetF a.toNat v (q2.flag f) = .ok ((), t)) :
    exec (.tCompare a b c ic op) s = .next (s.bcEnds t) :=
  bytecode_ok8 h rfl (by
    rw [bind_ok hl, bind_ok hr, if_neg (by omega), if_neg (by omega)]
    exact tOperator_simple (simple_pair hvl hvr) hs hi hw)

theorem compare_is (hw : tSetF a.toNat (if l = r then 0x13 else 0xB) q1 = .ok ((), t)) :
    exec (.tCompare a b c ic 6) s = .next (s.bcEnds t) :=
  bytecode_ok8 h rfl (by
    have hsame : mkBool (l == r) = if l = r then 0x13 else 0xB := by simp only [mkBool, beq_iff_eq]
    rw [bind_ok hl, bind_ok hr]
    exact (congrFun (if_pos rfl) q1).trans (hsame ▸ hw))

theorem compare_isnot (hw : tSetF a.toNat (if l = r then 0xB else 0x13) q1 = .ok ((), t)) :
    exec (.tCompare a b c ic 7) s = .next (s.bcEnds t) :=
  bytecode_ok8 h rfl (by
    have hother : mkBool (l != r) = if l = r then 0xB else 0x13 := by simp only [mkBool, bne_iff_ne, ne_eq, ite_not]
    rw [bind_ok hl, bind_ok hr]
    exact (congrFun ((if_neg (by decide)).trans (if_pos rfl)) q1).trans (hother ▸ hw))

end Two

end Clear

end Operators

/-! ### Small integers (R261, R286) -/

section Integers
variable {x y : Int} {op : Nat}

/-- A truth value as the inline result of a comparison. -/
theorem mkBool_decide (p : Prop) [Decidable p] : mkBool (decide p) = if p then 0x13 else 0xB := by
  simp only [mkBool, decide_eq_true_eq]

theorem intResult_eq (n : Int) : intResult n = if -2 ^ 60 ≤ n ∧ n < 2 ^ 60 then some (mkInt n, 0) else none := by
  simp only [intResult, intFits, Bool.and_eq_true, decide_eq_true_eq]

theorem isFalse_mkInt (hx : intFits x = true) : isFalse (mkInt x) = decide (x = 0) := by
  rw [Bool.eq_iff_iff, isFalse_iff, decide_eq_true_eq]
  have htag := tagOf_mkInt x
  constructor
  · rintro (h | h | h | h | h)
    · exact absurd (h ▸ htag) (by decide)
    · exact absurd (h ▸ htag) (by decide)
    · rw [← smallOf_mkInt hx, h]
      decide
    · exact absurd (h ▸ htag) (by decide)
    · exact absurd (h ▸ htag) (by decide)
  · rintro rfl
    exact .inr (.inr (.inl (by decide)))

theorem inlineUnop_not (v : Word) : inlineUnop 1 v = some (if isFalse v = true then 0x13 else 0xB, 0) := rfl

section Both
variable (hx : intFits x = true) (hy : intFits y = true)
include hx hy

/-- The cases of `compare` on small integers, by what is compared. -/
theorem inlineCompare_ints : inlineCompare op (mkInt x) (mkInt y) = some (mkBool (match op with
    | 0 => decide (x = y)
    | 1 => decide (x ≠ y)
    | 2 => decide (x < y)
    | 3 => decide (x ≤ y)
    | 4 => decide (y < x)
    | _ => decide (y ≤ x)), 0) := by
  simp only [inlineCompare, tagOf_mkInt, and_self, if_true, smallOf_mkInt hx, smallOf_mkInt hy] <;> rfl

theorem inlineBinop_sum : inlineBinop 0 (mkInt x) (mkInt y) = intResult (x + y) := by
  simp only [inlineBinop, tagOf_mkInt, and_self, if_true, smallOf_mkInt hx, smallOf_mkInt hy]

theorem inlineBinop_difference : inlineBinop 1 (mkInt x) (mkInt y) = intResult (x - y) := by
  simp only [inlineBinop, tagOf_mkInt, and_self, if_true, smallOf_mkInt hx, smallOf_mkInt hy]

theorem inlineBinop_product : inlineBinop 2 (mkInt x) (mkInt y) = intResult (x * y) := by
  simp only [inlineBinop, tagOf_mkInt, and_self, if_true, smallOf_mkInt hx, smallOf_mkInt hy]

theorem inlineBinop_shiftLeft (h0 : 0 ≤ y) (h63 : y ≤ 63) :
    inlineBinop 11 (mkInt x) (mkInt y) = intResult (x * 2 ^ y.toNat) := by
  simp only [inlineBinop, tagOf_mkInt, and_self, if_true, smallOf_mkInt hx, smallOf_mkInt hy, h0, h63]

theorem inlineBinop_shift_negative (h : y < 0) :
    inlineBinop 11 (mkInt x) (mkInt y) = none ∧ inlineBinop 12 (mkInt x) (mkInt y) = none := by
  simp only [inlineBinop, tagOf_mkInt, and_self, if_true, smallOf_mkInt hx, smallOf_mkInt hy, Int.not_le.mpr h, false_and,
    if_false]

theorem inlineBinop_shiftRight (h0 : 0 ≤ y) :
    inlineBinop 12 (mkInt x) (mkInt y) = some (mkInt (x >>> min y.toNat 64), 0) := by
  simp only [inlineBinop, tagOf_mkInt, and_self, if_true, smallOf_mkInt hx, smallOf_mkInt hy, h0]

end Both

/-- A shift to the right is the quotient by the power of two, rounded down, which fits too. -/
theorem shiftRight_spec (hx : intFits x = true) (k : Nat) : let z := x >>> k
    intFits z = true ∧ z * 2 ^ k ≤ x ∧ x < (z + 1) * 2 ^ k := by
  intro z
  have hz : z = x / 2 ^ k := Int.shiftRight_eq_div_pow x k
  have hpos : (0 : Int) < 2 ^ k := by positivity
  have hone : (1 : Int) ≤ 2 ^ k := hpos
  have hle : z * 2 ^ k ≤ x := hz ▸ Int.ediv_mul_le x hpos.ne'
  have hlt : x < (z + 1) * 2 ^ k := hz ▸ Int.lt_ediv_add_one_mul_self x hpos
  simp only [intFits, Bool.and_eq_true, decide_eq_true_eq] at hx ⊢
  refine ⟨⟨?_, ?_⟩, hle, hlt⟩
  · rw [hz]
    exact (Int.le_ediv_iff_mul_le hpos).mpr (by nlinarith [hx.1])
  · rw [hz]
    exact Int.ediv_lt_of_lt_mul hpos (by nlinarith [hx.2])

end Integers

/-! ### Short floats, and bitwise operators (R77, R261, R286) -/

section Floats
variable {l r : Word} {op : Nat}

section Both
variable (hl : tagOf l = 2) (hr : tagOf r = 2)
include hl hr

/-- Two short floats are no small integers. -/
theorem inlineBinop_floats : inlineBinop op l r = match op with
    | 0 => floatResult ((floatOf l).add 0 (floatOf r))
    | 1 => floatResult ((floatOf l).add 0 (floatOf r).neg)
    | 2 => floatResult ((floatOf l).mul (floatOf r))
    | 3 => if bits r 62 32 = 0 then none else floatResult ((floatOf l).div (floatOf r))
    | _ => none := by
  simp only [inlineBinop, hl, hr, OfNat.ofNat_ne_zero, and_self, if_false, if_true] <;> rfl

theorem inlineBinop_float_other (h : 3 < op) : inlineBinop op l r = none := by
  rw [inlineBinop_floats hl hr]
  match op with
  | n + 4 => rfl

theorem inlineCompare_floats : inlineCompare op l r =
    some (if Fmt.f32.cond op (bits l 63 32) (bits r 63 32) = true then 0x13 else 0xB, 0) := by
  simp only [inlineCompare, hl, hr, OfNat.ofNat_ne_zero, and_self, if_false, if_true]
  rfl

end Both

theorem inlineUnop_float (hl : tagOf l = 2) : inlineUnop 0 l = floatResult ((floatOf l).neg, 0) := by
  simp only [inlineUnop, hl, Nat.zero_ne_one, OfNat.ofNat_ne_zero, and_self, if_false, if_true]

theorem inlineBinop_bitwise (hl : tagOf l = 0) (hr : tagOf r = 0) :
    inlineBinop 8 l r = some (l &&& r, 0) ∧ inlineBinop 9 l r = some (l ||| r, 0) ∧ inlineBinop 10 l r = some (l ^^^ r, 0) := by
  simp only [inlineBinop, hl, hr, and_self, if_true]

end Floats

/-- Settles O52: the bytecodes by their operands' tags, and what is computed inline by what the operands hold. -/
theorem bytecodeOperators : Obligations.BytecodeOperators := by
  unfold Obligations.BytecodeOperators
  refine ⟨fun s a b c op ic l r v f site q q1 q2 t => ?bytecodes, fun x y hx hy => ?integers, fun v => ?not, fun l r hl hr => ?floats,
    fun l r => inlineBinop_bitwise⟩
  case bytecodes =>
    exact fun h => ⟨fun hl hr hvl hvr hs => ⟨binop_inline h hl hr hvl hvr hs, compare_inline h hl hr hvl hvr hs⟩, unop_inline h,
      fun hl hv _ => not_heap h hl hv, fun hl hr => ⟨compare_is h hl hr, compare_isnot h hl hr⟩⟩
  case integers =>
    have htruth (p : Prop) [Decidable p] : some (mkBool (decide p), (0 : Word)) = some (if p then 0x13 else 0xB, 0) := by
      rw [mkBool_decide]
    simp only [← intResult_eq]
    refine ⟨inlineBinop_sum hx hy, inlineBinop_difference hx hy, inlineBinop_product hx hy, inlineBinop_shiftLeft hx hy,
      inlineBinop_shift_negative hx hy, ?_, ?_, ?_, (inlineCompare_ints hx hy).trans (htruth _),
      (inlineCompare_ints hx hy).trans (htruth _), (inlineCompare_ints hx hy).trans (htruth _),
      (inlineCompare_ints hx hy).trans (htruth _), (inlineCompare_ints hx hy).trans (htruth _),
      (inlineCompare_ints hx hy).trans (htruth _), fun h0 => ⟨_, inlineBinop_shiftRight hx hy h0, ?_⟩⟩
    · simp only [inlineUnop, tagOf_mkInt, smallOf_mkInt hx, Nat.zero_ne_one, if_false, if_true]
    · simp only [inlineUnop, tagOf_mkInt, smallOf_mkInt hx, OfNat.ofNat_ne_one, OfNat.ofNat_ne_zero, if_false, if_true]
    · rw [inlineUnop_not, isFalse_mkInt hx]
      simp only [decide_eq_true_eq]
    · have hmin : (min y 64).toNat = min y.toNat 64 := by omega
      rw [hmin]
      exact shiftRight_spec hx _
  case not =>
    simp only [inlineUnop_not, isFalse_iff]
  case floats =>
    have h (op : Nat) := inlineBinop_floats (op := op) hl hr
    exact ⟨h 0, h 1, h 2, fun hz => (h 3).trans (if_pos hz), fun hz => (h 3).trans (if_neg hz), inlineUnop_float hl,
      fun op => inlineBinop_float_other hl hr, fun op _ => inlineCompare_floats hl hr⟩

end Sys2Proof.Machine
end

section
/-! PROOFS. Allocation (R279) and the bytecodes that make objects (R289). -/

namespace Sys2Proof.Machine

/-! ### Allocation from the arena (R275, R279) -/

section Allocation
variable {s q q1 q2 q3 : State} {n : Nat} {site ar lim cur : Word} {m : Bool}

theorem tAlloc_noArena (ha : tArena s = .ok (0, q)) : tAlloc n site s = .error (.guard 4 (word (up64 n)) site) := by
  unfold tAlloc
  rw [bind_ok ha]
  rfl

section Arena
variable (ha : tArena s = .ok (ar, q)) (h0 : ar ≠ 0) (hl : tRead (ar + 8) 8 q = .ok (lim, q1))
  (hc : tAtom ar 18 (word (up64 n)) lim .ordered q1 = .ok (cur, q2))
include ha h0 hl hc

theorem tAlloc_full (hb : lim.toNat < cur.toNat + up64 n) : tAlloc n site s = .error (.guard 4 (word (up64 n)) site) := by
  unfold tAlloc
  rw [bind_ok ha, if_neg h0, bind_ok hl, bind_ok hc, if_pos hb]
  rfl

theorem tAlloc_takes (hb : cur.toNat + up64 n ≤ lim.toNat) (hf : tFill cur (up64 n / 8) q2 = .ok ((), q3)) :
    tAlloc n site s = .ok (cur, q3) := by
  unfold tAlloc
  rw [bind_ok ha, if_neg h0, bind_ok hl, bind_ok hc, if_neg (Nat.not_lt.mpr hb), bind_ok hf]
  rfl

end Arena

theorem tGc_eq (hm : tMarking s = .ok (m, q)) : tGc s = .ok (if m then 2 else 0, q) := by
  unfold tGc
  rw [bind_ok hm]
  cases m <;> rfl

end Allocation

/-! ### The bytecodes (R289) -/

section Make
variable {s q q1 q2 q3 q4 q5 q6 q7 q8 t : State} {a b c : BitVec 8} {f v o gc x site : Word} {vs ws : List Word} {n : Nat}
  (h : s.bcClear = true)
include h

/-- A clear bytecode of one word whose body comes to a guard leaves nothing else of what it did (R272, R283). -/
theorem bytecode_guards4 {i : Instr} {body : TM Unit} (hi : codeBytes i = 4)
    (hb : body (s.advance 4) = .error (.guard n x site)) : bytecode i body s = .next (s.spent.guardEnter s.th.pc n x site) :=
  (bytecode_stop h hi hb rfl).trans (congrArg _ (guard_outcome h n x site))

theorem mkarr_ends (hvs : tAll (fun i => tF (b.toNat + i)) (List.range c.toNat) (s.advance 4) = .ok (vs, q))
    (ho : tAlloc (48 + 8 * c.toNat) 0 q = .ok (o, q1)) (hk : tWrite o 4 2 .plain q1 = .ok ((), q2)) (hg : tGc q2 = .ok (gc, q3))
    (h8 : tWrite (o + word 8) 8 gc .plain q3 = .ok ((), q4)) (h16 : tWrite (o + word 16) 8 (c.setWidth 64) .plain q4 = .ok ((), q5))
    (h24 : tWrite (o + word 24) 8 (c.setWidth 64) .plain q5 = .ok ((), q6))
    (h32 : tWrite (o + word 32) 8 (o + 48) .plain q6 = .ok ((), q7))
    (hst : tEach (fun i => tFirstStore (o + word (48 + 8 * i)) o (vs.getD i 0)) (List.range c.toNat) q7 = .ok ((), q8))
    (hw : tSetF a.toNat (o + 1) q8 = .ok ((), t)) : exec (.tMkarr a b c) s = .next (s.bcEnds t) :=
  bytecode_ok4 h rfl ((bind_ok hvs _).trans ((bind_ok ho _).trans ((bind_ok hk _).trans ((bind_ok hg _).trans
    ((bind_ok h8 _).trans ((bind_ok h16 _).trans ((bind_ok h24 _).trans ((bind_ok h32 _).trans ((bind_ok hst _).trans hw)))))))))

theorem mkmap_ends (hb : b.toNat ≤ 12) (ho : tAlloc (64 + 16 * 2 ^ b.toNat) 0 (s.advance 4) = .ok (o, q1))
    (hk : tWrite o 4 3 .plain q1 = .ok ((), q2)) (hg : tGc q2 = .ok (gc, q3))
    (h8 : tWrite (o + word 8) 8 gc .plain q3 = .ok ((), q4)) (h16 : tWrite (o + word 16) 8 0 .plain q4 = .ok ((), q5))
    (h24 : tWrite (o + word 24) 8 (word (2 ^ b.toNat)) .plain q5 = .ok ((), q6))
    (h32 : tWrite (o + word 32) 8 (o + 64) .plain q6 = .ok ((), q7))
    (hst : tEach (fun i => tFirstStore (o + word (64 + 8 * i)) o 3) (List.range (2 * 2 ^ b.toNat)) q7 = .ok ((), q8))
    (hw : tSetF a.toNat (o + 1) q8 = .ok ((), t)) : exec (.tMkmap a b) s = .next (s.bcEnds t) :=
  bytecode_ok4 h rfl ((congrFun (if_neg (Nat.not_lt.mpr hb)) _).trans ((bind_ok ho _).trans ((bind_ok hk _).trans
    ((bind_ok hg _).trans ((bind_ok h8 _).trans ((bind_ok h16 _).trans ((bind_ok h24 _).trans ((bind_ok h32 _).trans
      ((bind_ok hst _).trans hw)))))))))

theorem mkmap_traps (hb : 12 < b.toNat) :
    exec (.tMkmap a b) s = .next (s.spent.raise s.cur (.of .type (b.setWidth 64)) true) :=
  bytecode_traps h rfl (congrFun (if_pos hb) _)

theorem mkfunc_ends (hf : tK b.toNat (s.advance 4) = .ok (f, q)) (hv : tF c.toNat q = .ok (v, q1))
    (hk : tKind f q1 = .ok (some 4, q2)) (hws : tAll (fun i => tRead (f - 1 + word (8 * i)) 8) (List.range 7) q2 = .ok (ws, q3))
    (ho : tAlloc 64 0 q3 = .ok (o, q4))
    (hcopy : tEach (fun i => tWrite (o + word (8 * i)) 8 (ws.getD i 0)) (List.range 7) q4 = .ok ((), q5))
    (hst : tFirstStore (o + 56) o v q5 = .ok ((), q6)) (hw : tSetF a.toNat (o + 1) q6 = .ok ((), t)) :
    exec (.tMkfunc a b c) s = .next (s.bcEnds t) :=
  bytecode_ok4 h rfl ((bind_ok hf _).trans ((bind_ok hv _).trans ((bind_ok hk _).trans ((bind_ok hws _).trans
    ((bind_ok ho _).trans ((bind_ok hcopy _).trans ((bind_ok hst _).trans hw)))))))

theorem import_guards : exec (.tImport a b) s = .next (s.spent.guardEnter s.th.pc 5 0 0) :=
  bytecode_guards4 (i := .tImport a b) (body := tGuard 5 0 0) h rfl rfl

end Make

/-- Settles O54: allocation by whether an arena has room, and each bytecode by the sequence of its accesses. -/
theorem bytecodeObjects : Obligations.BytecodeObjects := by
  unfold Obligations.BytecodeObjects
  exact ⟨fun s q q1 q2 q3 n site ar lim cur m => ⟨tAlloc_noArena, fun ha h0 hl hc => ⟨tAlloc_full ha h0 hl hc,
      tAlloc_takes ha h0 hl hc⟩, rfl, tGc_eq⟩,
    fun s a b c f v o gc vs ws q q1 q2 q3 q4 q5 q6 q7 q8 t h => ⟨mkarr_ends h, mkmap_ends h, mkmap_traps h, mkfunc_ends h,
      import_guards h⟩⟩

end Sys2Proof.Machine
end

section
/-! PROOFS. Exceptions of bytecode (R268, R290), tensors that settle (R277), and entry to the guard path (R272). -/

namespace Sys2Proof.Machine

/-! ### `raise` unwinds to a handler's block (R268) -/

section Raise
variable {s q q1 q2 q3 q4 q5 q6 : State} {v h fb fn prev d : Word}

/-- The thread at the handler of a block, with the registers and the link store that the block restores, `k` entries of which
have come since. -/
def Thread.unwound (u : Thread) (h fb fn prev : Word) (k : Nat) : Thread :=
  { ((u.setX 28 (addrOf fb)).setX 29 (addrOf fn)).setX 31 (addrOf prev) with
    link := u.link.drop k, spilled := u.spilled - (k - u.link.length), pc := addrOf h, buf := [] }

theorem Thread.setX_link (u : Thread) (n : Nat) (v : Word) : (u.setX n v).link = u.link := by
  unfold Thread.setX
  split <;> rfl

theorem Thread.setX_spilled (u : Thread) (n : Nat) (v : Word) : (u.setX n v).spilled = u.spilled := by
  unfold Thread.setX
  split <;> rfl

/-- The last steps of `raise`: the registers and the link store of the block, and its handler. -/
def tUnwind (h fb fn prev : Word) (k : Nat) : TM Unit := do
  tSetX 28 (addrOf fb)
  tSetX 29 (addrOf fn)
  tSetX 31 (addrOf prev)
  fun s => .ok ((), State.jumpTo (s.setTh { s.th with
    link := s.th.link.drop k, spilled := s.th.spilled - (k - s.th.link.length) }) (addrOf h))

theorem tUnwind_eq (k : Nat) : tUnwind h fb fn prev k s = .ok ((), s.setTh (s.th.unwound h fb fn prev k)) := by
  unfold tUnwind
  rw [bind_ok rfl, bind_ok rfl, bind_ok rfl]
  simp only [State.jumpTo, th_setTh, setTh_setTh, Thread.setX_link, Thread.setX_spilled, Thread.unwound]

/-- The entries that the link store holds. -/
def State.depth (s : State) : Nat := s.th.link.length + s.th.spilled

section Block
variable (h31 : s.th.xPoison.contains 31 = false) (h0 : s.xr 31 ≠ 0) (hh : tRead (s.xr 31) 8 s = .ok (h, q1))
  (hfb : tRead (s.xr 31 + 8) 8 q1 = .ok (fb, q2)) (hfn : tRead (s.xr 31 + 16) 8 q2 = .ok (fn, q3))
  (hprev : tRead (s.xr 31 + 24) 8 q3 = .ok (prev, q4)) (hd : tRead (s.xr 31 + 32) 8 q4 = .ok (d, q5))
include h31 h0 hh hfb hfn hprev hd

/-- What the block at X31 says is read, whatever is done with it then. -/
theorem tRaise_block : tRaise v s =
    (if (q5.depth : Int) < smallOf d ∨ smallOf d < 0 then tTrap .type d
      else tWrite (s.xr 31) 8 v >>= fun _ => tUnwind h fb fn prev (q5.depth - (smallOf d).toNat)) q5 := by
  unfold tRaise
  rw [tX_bind h31, if_neg h0, bind_ok hh, bind_ok hfb, bind_ok hfn, bind_ok hprev, bind_ok hd, tGet_bind]
  rfl

theorem tRaise_bad_depth (hbad : (q5.depth : Int) < smallOf d ∨ smallOf d < 0) : tRaise v s = .error (.trap (.of .type d)) := by
  rw [tRaise_block h31 h0 hh hfb hfn hprev hd, if_pos hbad]
  rfl

theorem tRaise_unwinds (hpos : 0 ≤ smallOf d) (hnow : smallOf d ≤ q5.depth)
    (hw : tWrite (s.xr 31) 8 v .plain q5 = .ok ((), q6)) : tRaise v s =
      .ok ((), q6.setTh (q6.th.unwound h fb fn prev (q5.depth - (smallOf d).toNat))) := by
  have hok : ¬((q5.depth : Int) < smallOf d ∨ smallOf d < 0) := by omega
  rw [tRaise_block h31 h0 hh hfb hfn hprev hd, if_neg hok, bind_ok hw, tUnwind_eq]

end Block

theorem unwound_x (u : Thread) (h fb fn prev : Word) (k n : Nat) : (u.unwound h fb fn prev k).getX n =
    (((u.setX 28 (addrOf fb)).setX 29 (addrOf fn)).setX 31 (addrOf prev)).getX n := by
  simp only [Thread.getX, Thread.unwound]

/-- X28, X29 and X31 are those of the block. -/
theorem unwound_getX (u : Thread) (h fb fn prev : Word) (k : Nat) : let t := u.unwound h fb fn prev k
    t.getX 28 = addrOf fb ∧ t.getX 29 = addrOf fn ∧ t.getX 31 = addrOf prev := by
  simp only [unwound_x]
  refine ⟨?_, ?_, Thread.getX_setX _ _ _ (by omega)⟩
  · rw [Thread.getX_setX_ne _ _ _ (by omega), Thread.getX_setX_ne _ _ _ (by omega), Thread.getX_setX _ _ _ (by omega)]
  · rw [Thread.getX_setX_ne _ _ _ (by omega), Thread.getX_setX _ _ _ (by omega)]

theorem unwound_spec (q : State) (h fb fn prev : Word) (k : Nat) : let t := q.setTh (q.th.unwound h fb fn prev k)
    t.th.pc = h.sshiftRight 3 ∧ t.xr 28 = fb.sshiftRight 3 ∧ t.xr 29 = fn.sshiftRight 3 ∧ t.xr 31 = prev.sshiftRight 3 ∧
      t.th.link = q.th.link.drop k ∧ t.th.spilled = q.th.spilled - (k - q.th.link.length) ∧ t.mem = q.mem := by
  obtain ⟨h28, h29, h31⟩ := unwound_getX q.th h fb fn prev k
  simp only [State.xr, th_setTh]
  exact ⟨rfl, h28, h29, h31, rfl, rfl, rfl⟩

end Raise

/-! ### Tensors that settle (R277) -/

section Settle
variable {s q q1 q2 : State} {v pend use : Word} {k : Option Nat} {inuse : Bool}

theorem tIsTensor_eq (hk : tKind v s = .ok (k, q)) : tIsTensor v s = .ok (k == some 1, q) := by
  unfold tIsTensor
  rw [bind_ok hk]
  cases k <;> rfl

/-- A value that is no tensor is settled. -/
theorem tSettle_other (hk : tKind v s = .ok (k, q)) (h1 : k ≠ some 1) : tSettle inuse v s = .ok ((), q) := by
  unfold tSettle
  rw [bind_ok (tIsTensor_eq hk), if_neg (by simpa using h1)]
  rfl

section Tensor
variable (hk : tKind v s = .ok (some 1, q)) (hp : tRead (v + 111) 8 q = .ok (pend, q1))
include hk hp

theorem tSettle_pending (h0 : pend ≠ 0) : tSettle false v s = .error (.park (.tensor (v + 111) false)) := by
  unfold tSettle
  rw [bind_ok (tIsTensor_eq hk)]
  refine (bind_ok hp _).trans ((bind_ok (v := 0) (q := q1) rfl _).trans ?_)
  exact congrFun (if_pos (.inl h0)) q1

theorem tSettle_ready (h0 : pend = 0) : tSettle false v s = .ok ((), q1) := by
  unfold tSettle
  rw [bind_ok (tIsTensor_eq hk)]
  refine (bind_ok hp _).trans ((bind_ok (v := 0) (q := q1) rfl _).trans ?_)
  exact congrFun (if_neg (by simp [h0])) q1

variable (hu : tRead (v + 119) 8 q1 = .ok (use, q2))
include hu

theorem tSettle_used (h0 : pend ≠ 0 ∨ use ≠ 0) : tSettle true v s = .error (.park (.tensor (v + 111) true)) := by
  unfold tSettle
  rw [bind_ok (tIsTensor_eq hk)]
  refine (bind_ok hp _).trans ((bind_ok hu _).trans ?_)
  exact congrFun (if_pos h0) q2

theorem tSettle_unused (hp0 : pend = 0) (hu0 : use = 0) : tSettle true v s = .ok ((), q2) := by
  unfold tSettle
  rw [bind_ok (tIsTensor_eq hk)]
  refine (bind_ok hp _).trans ((bind_ok hu _).trans ?_)
  exact congrFun (if_neg (by simp [hp0, hu0])) q2

end Tensor

end Settle

/-! ### `tryb`, `tryend`, `raise` and `await` (R290) -/

section Bytecodes
variable {s q q1 q2 q3 q4 t : State} {a : BitVec 8} {off : BitVec 16} {v w : Word}
  (h : s.bcClear = true)
include h

theorem tryb_ends (h28 : s.th.xPoison.contains 28 = false) (h29 : s.th.xPoison.contains 29 = false)
    (h31 : s.th.xPoison.contains 31 = false)
    (hpc : tSetF a.toNat ((s.th.pc + 4 + off.signExtend 64 * 4) <<< 3) (s.advance 4) = .ok ((), q))
    (hfb : tSetF (a.toNat + 1) (s.xr 28 <<< 3) q = .ok ((), q1)) (hfn : tSetF (a.toNat + 2) (s.xr 29 <<< 3) q1 = .ok ((), q2))
    (hprev : tSetF (a.toNat + 3) (s.xr 31 <<< 3) q2 = .ok ((), q3))
    (hdepth : tSetF (a.toNat + 4) (mkInt (s.th.link.length + s.th.spilled)) q3 = .ok ((), q4)) :
    exec (.tTryb a off) s = .next (s.bcEnds (q4.setTh (q4.th.setX 31 (s.xr 28 + word (8 * a.toNat))))) :=
  bytecode_ok4 h rfl (by
    rw [tPc_bind, tX_bind (by rwa [advance_th_xPoison]), tX_bind (by rwa [advance_th_xPoison]),
      tX_bind (by rwa [advance_th_xPoison]), tGet_bind, advance_xr, advance_xr, advance_xr, advance_th_pc, advance_th_link,
      advance_th_spilled]
    exact (bind_ok hpc _).trans ((bind_ok hfb _).trans ((bind_ok hfn _).trans ((bind_ok hprev _).trans (bind_ok hdepth _)))))

section Tryend
variable (h28 : s.th.xPoison.contains 28 = false) (h31 : s.th.xPoison.contains 31 = false)
include h28 h31

theorem tryend_ends (hx : s.xr 31 = s.xr 28 + word (8 * a.toNat)) (hr : tF (a.toNat + 3) (s.advance 4) = .ok (v, q)) :
    exec (.tTryend a) s = .next (s.bcEnds (q.setTh (q.th.setX 31 (v.sshiftRight 3)))) :=
  bytecode_ok4 h rfl (by
    rw [tX_bind (by rwa [advance_th_xPoison]), tFrameAt_bind (by rwa [advance_th_xPoison]), advance_xr, advance_xr, if_pos hx,
      bind_ok hr]
    rfl)

theorem tryend_traps (hx : s.xr 31 ≠ s.xr 28 + word (8 * a.toNat)) :
    exec (.tTryend a) s = .next (s.spent.raise s.cur (.of .type (s.xr 31)) true) :=
  bytecode_traps h rfl (by
    rw [tX_bind (by rwa [advance_th_xPoison]), tFrameAt_bind (by rwa [advance_th_xPoison]), advance_xr, advance_xr, if_neg hx]
    rfl)

end Tryend

section Value
variable (hr : tF a.toNat (s.advance 4) = .ok (v, q))
include hr

theorem raise_ends (hg : tRaise v q = .ok ((), t)) : exec (.tRaise a) s = .next (s.bcEnds t) :=
  bytecode_ok4 h rfl ((bind_ok hr _).trans hg)

theorem raise_unhandled (h31 : s.th.xPoison.contains 31 = false) (h0 : s.xr 31 = 0)
    (hth : q.threads = (s.advance 4).threads) (hcur : q.cur = (s.advance 4).cur) :
    exec (.tRaise a) s = .next (s.spent.guardEnter s.th.pc 8 v 0) := by
  have hsame : q.th = (s.advance 4).th := by rw [State.th, State.thread, hth, hcur]; rfl
  refine bytecode_guards4 (i := .tRaise a) h rfl ((bind_ok hr _).trans (tRaise_unhandled ?_ ?_))
  · rwa [hsame, advance_th_xPoison]
  · rw [State.xr, hsame]
    exact (advance_xr s 4 31).trans h0

theorem await_ends (hs : tSettle false v q = .ok ((), q1)) (ht : tTouch 0 v q1 = .ok ((), t)) :
    exec (.tAwait a) s = .next (s.bcEnds t) :=
  bytecode_ok4 h rfl ((bind_ok hr _).trans ((bind_ok hs _).trans ht))

omit hr in
/-- A bytecode that has made no access of its own parks at its pc (R283). -/
theorem park_outcome (p : Park) : (Stop.park p).outcome s.spent = s.spent.parkAt s.th.pc p := by
  obtain ⟨-, -, ht, -⟩ := bcClear_cases h
  have hs : s.spent.th.trace = [] := ht
  simp only [Stop.outcome, State.untraced, hs, List.isEmpty_nil, if_true]
  rfl

theorem await_parks (hs : tSettle false v q = .error (.park (.tensor w false))) :
    exec (.tAwait a) s = .next (s.spent.parkAt s.th.pc (.tensor w false)) :=
  (bytecode_stop (i := .tAwait a) h rfl ((bind_ok hr _).trans (bind_error hs _)) rfl).trans
    (congrArg Host.Outcome.next (park_outcome h _))

end Value

end Bytecodes

/-! ### Guard entry (R272) -/

section Guard
variable {s : State} {pc aux site : Word} {reason : Nat}

theorem guardEnter_unhandled (h0 : s.myCtx.ghvec &&& ~~~7 = 0) :
    s.guardEnter pc reason aux site = State.raise (s.setTh { s.th with pc := pc }) s.cur (.of .guard pc) true := if_pos h0

/-- The registers that a guard handler finds. -/
def Thread.guardRegs (u : Thread) (reason : Nat) (aux pc site : Word) : Thread :=
  ((((u.setX 19 aux).setX 20 (word reason)).setX 21 pc).setX 22 site).setX 23 0

/-- The thread at a guard handler. -/
def Thread.guarded (u : Thread) (reason : Nat) (aux pc site gh : Word) : Thread :=
  { ({ u with pc := pc } : Thread).guardRegs reason aux pc site with guard := true, tephra := false, pc := gh, buf := [] }

theorem guardRegs_other (u : Thread) {r : Nat} (hr : r < 19 ∨ 23 < r) : (u.guardRegs reason aux pc site).getX r = u.getX r := by
  unfold Thread.guardRegs
  rw [Thread.getX_setX_ne _ _ _ (by omega), Thread.getX_setX_ne _ _ _ (by omega), Thread.getX_setX_ne _ _ _ (by omega),
    Thread.getX_setX_ne _ _ _ (by omega), Thread.getX_setX_ne _ _ _ (by omega)]

theorem guardRegs_spec (u : Thread) : let t := u.guardRegs reason aux pc site
    t.getX 19 = aux ∧ t.getX 20 = word reason ∧ t.getX 21 = pc ∧ t.getX 22 = site ∧ t.getX 23 = 0 := by
  simp [Thread.guardRegs, Thread.getX_setX, Thread.getX_setX_ne]

theorem guarded_getX (u : Thread) (gh : Word) (r : Nat) : (u.guarded reason aux pc site gh).getX r =
    (({ u with pc := pc } : Thread).guardRegs reason aux pc site).getX r := rfl

theorem guardEnter_th (h0 : s.myCtx.ghvec &&& ~~~7 ≠ 0) : (s.guardEnter pc reason aux site).th =
    s.th.guarded reason aux pc site (s.myCtx.ghvec &&& ~~~7) := by
  have hcount : ∀ q : State, (q.count q.th.asid 0x055).th = q.th := fun _ => rfl
  unfold State.guardEnter
  dsimp only
  rw [if_neg h0, th_setTh, hcount, th_setTh]
  rfl

theorem guardEnter_mem (h0 : s.myCtx.ghvec &&& ~~~7 ≠ 0) : (s.guardEnter pc reason aux site).mem = s.mem := by
  unfold State.guardEnter
  dsimp only
  rw [if_neg h0]
  rfl

theorem guardEnter_handled (h0 : s.myCtx.ghvec &&& ~~~7 ≠ 0) : let q := s.guardEnter pc reason aux site
    q.th.pc = s.myCtx.ghvec &&& ~~~7 ∧ q.th.tephra = false ∧ q.th.guard = true ∧ q.th.getX 19 = aux ∧
      q.th.getX 20 = word reason ∧ q.th.getX 21 = pc ∧ q.th.getX 22 = site ∧ q.th.getX 23 = 0 ∧ q.mem = s.mem ∧
      ∀ r, r ≠ 0 → r < 19 ∨ 23 < r → q.th.getX r = s.th.getX r := by
  obtain ⟨h19, h20, h21, h22, h23⟩ := guardRegs_spec (reason := reason) (aux := aux) (pc := pc) (site := site)
    ({ s.th with pc := pc } : Thread)
  simp only [guardEnter_th h0, guarded_getX]
  exact ⟨rfl, rfl, rfl, h19, h20, h21, h22, h23, guardEnter_mem h0, fun r _ hr => guardRegs_other _ hr⟩

end Guard

/-- Settles O55: `raise` by the block at X31, a tensor by its PENDING and INUSE, the bytecodes by the sequence of what they do,
and guard entry by whether a handler is installed. -/
theorem exceptionsAndGuard : Obligations.ExceptionsAndGuard := by
  unfold Obligations.ExceptionsAndGuard
  refine ⟨fun s q q1 q2 q3 q4 q5 q6 v h fb fn prev d pend use k inuse => ⟨tRaise_unhandled,
      fun h31 h0 hh hfb hfn hprev hd => ⟨tRaise_bad_depth h31 h0 hh hfb hfn hprev hd, fun hpos hnow hw =>
        ⟨_, tRaise_unwinds h31 h0 hh hfb hfn hprev hd hpos hnow hw, unwound_spec q6 h fb fn prev _⟩⟩,
      tSettle_other, fun hk hp => ⟨tSettle_ready hk hp, tSettle_pending hk hp, fun hu => ⟨tSettle_unused hk hp hu,
        tSettle_used hk hp hu⟩⟩⟩,
    fun s a off v q q1 q2 q3 q4 t h => ⟨tryb_ends h, tryend_ends h, tryend_traps h, raise_ends h,
      fun h31 h0 hr hth hcur => raise_unhandled h hr h31 h0 hth hcur, await_ends h, fun w hr hs => await_parks h hr hs⟩,
    fun s pc aux site reason _ => ⟨guardEnter_unhandled, guardEnter_handled⟩⟩

end Sys2Proof.Machine
end

section
/-! PROOFS. Inline caches (R269, R270), attributes, items, `len` and `isinst` (R285), and stores into heap slots (R280). -/

namespace Sys2Proof.Machine

/-! ### Inline caches (R269, R270) -/

section Caches
variable {s q q1 : State} {ic : BitVec 16} {base w x : Word} {kind n left i : Nat} {hit : List Byte → Bool} {e : List Byte}
  {ws : List (List Byte)} {t : Tr}

theorem tSite_eq (hw : tFn 32 s = .ok (w, q)) : tSite ic s = .ok (w + word (256 * ic.toNat), q) := bind_ok hw _

theorem tLookup_inside (hs : tSite ic s = .ok (base, q)) (hw : tFn 48 q = .ok (w, q1)) (hn : ic.toNat < bits w 31 16) :
    tLookup ic kind hit s = tSearch base kind hit 4 0 q1 := by
  unfold tLookup
  rw [bind_ok hs, bind_ok hw, if_neg (Nat.not_le.mpr hn)]

theorem tLookup_beyond (hs : tSite ic s = .ok (base, q)) (hw : tFn 48 q = .ok (w, q1)) (hn : bits w 31 16 ≤ ic.toNat) :
    tLookup ic kind hit s = .error (.trap (.of .type base)) := by
  unfold tLookup
  rw [bind_ok hs, bind_ok hw, if_pos hn]
  rfl

/-- ACT and the offset of an entry that is hit are good (R270). -/
def icGood (kind : Nat) (e : List Byte) : Prop :=
  bits (dword e 0) 7 6 ≠ 3 ∧ (kind = 1 → 16 ≤ (dword e 1).toNat ∧ (dword e 1).toNat % 8 = 0)

/-- How the search tells a bad entry. -/
theorem not_icGood_iff : ¬icGood kind e ↔
    icAct e = 3 ∨ (kind = 1 ∧ ((dword e 1).toNat < 16 ∨ (dword e 1).toNat % 8 ≠ 0)) := by
  unfold icGood icAct
  by_cases hk : kind = 1 <;> simp only [hk, true_implies, false_implies, true_and, false_and, and_true, or_false] <;> omega

section Entry
variable (he : tEntry (base + word (64 * n)) s = .ok (e, q))
include he

theorem tSearch_megamorphic (hm : n = 0 ∧ (dword e 0).getLsbD 2 = true) :
    tSearch base kind hit (left + 1) n s = .error (.guard 2 0 base) := by
  rw [tSearch]
  exact (bind_ok he _).trans (congrFun (if_pos hm) q)

variable (hm : ¬(n = 0 ∧ (dword e 0).getLsbD 2 = true))
include hm

theorem tSearch_goes_on (hno : ¬(bits (dword e 0) 1 0 = kind ∧ hit e = true)) :
    tSearch base kind hit (left + 1) n s = tSearch base kind hit left (n + 1) q := by
  rw [tSearch]
  exact (bind_ok he _).trans ((congrFun (if_neg hm) q).trans (congrFun (if_neg hno) q))

variable (hyes : bits (dword e 0) 1 0 = kind ∧ hit e = true)
include hyes

theorem tSearch_hits (hg : icGood kind e) :
    tSearch base kind hit (left + 1) n s = .ok ((base + word (64 * n), e), q) := by
  rw [tSearch]
  refine (bind_ok he _).trans ((congrFun (if_neg hm) q).trans ((congrFun (if_pos hyes) q).trans ?_))
  exact congrFun (if_neg (mt not_icGood_iff.mpr (not_not.mpr hg))) q

theorem tSearch_bad (hg : ¬icGood kind e) :
    tSearch base kind hit (left + 1) n s = .error (.trap (.of .type (base + word (64 * n)))) := by
  rw [tSearch]
  refine (bind_ok he _).trans ((congrFun (if_neg hm) q).trans ((congrFun (if_pos hyes) q).trans ?_))
  exact congrFun (if_pos (not_icGood_iff.mp hg)) q

end Entry

theorem tEntry_words (he : tIcWord x 0 s = .ok (e, q)) (hl : e.length = 8)
    (hw : tAll (fun i => tIcWord x (i + 1)) (List.range 7) q = .ok (ws, q1)) : tEntry x s = .ok (e ++ ws.flatten, q1) := by
  unfold tEntry
  rw [bind_ok he, if_neg (by omega), bind_ok hw]
  rfl

theorem icKeep_threads (s : State) (va : Word) (i : Nat) (bs : List Byte) : (s.icKeep va i bs).threads = s.threads := by
  unfold State.icKeep
  dsimp only
  (repeat' split) <;> rfl

/-- A word of an entry of which the core holds no copy is read from memory, and joins the copy. -/
theorem tIcWord_reads (ht : s.th.trace = []) (hb : s.bursts.head? = some 0)
    (hw : s.beforeReach (x + word (8 * i)) kRead .load = []) (hc : s.check s.who (x + word (8 * i)) 8 kRead = .ok t)
    (hk : s.kindOf t.pa ≠ some .csr) (hn : s.icCopy x = none) (hbehind : s.behind = []) (hp : s.isPoisoned t.pa 8 = false)
    (ha : (s.remember s.who (x + word (8 * i)) kRead t).atOnce (s.homeOf t.pa t.attr) t.pa 8 .load = true) :
    ∃ q : State, tIcWord x i s = .ok (s.bytes t.pa 8, q) ∧ q.mem = s.mem ∧ q.threads = s.threads := by
  obtain ⟨q, hm, hq⟩ := make_load hb hk hbehind ha
  have hmakes : s.makes = true := by simp [State.makes, hb]
  rw [hp] at hm
  refine ⟨q.icKeep x i (s.bytes t.pa 8), ?_, (icKeep_mem ..).trans hq.mem, (icKeep_threads ..).trans hq.threads⟩
  simp only [tIcWord, tLive, ht, hw, reach_ok hc hk, hmakes, if_true, hn, State.icMake, hm, Bool.false_eq_true, if_false]

end Caches

/-! ### The slots of attributes and items (R285) -/

section Slots
variable {s q q1 q2 q3 q4 q5 : State} {ic : BitVec 16} {store : Bool} {r x h w y site : Word} {k : Option Nat}
  {e : Word × List Byte}

section Attribute
variable (hv : valueOk r = true) (hs : tSite ic s = .ok (site, q))
include hv hs

theorem tAttr_immediate (ht : tagOf r ≠ 1) : tAttr r ic s = .error (.guard 5 0 site) := by
  unfold tAttr
  rw [tExamine_bind hv, bind_ok hs, if_pos ht]
  rfl

theorem tAttr_hits (ht : tagOf r = 1) (htouch : tTouch site r q = .ok ((), q1)) (hh : tRead (r - 1) 8 q1 = .ok (h, q2))
    (hl : tLookup ic 1 (fun e => bits (dword e 0) 63 32 == bits h 63 32) q2 = .ok (e, q3)) :
    tAttr r ic s = .ok (r - 1 + dword e.2 1, q3) := by
  unfold tAttr
  rw [tExamine_bind hv, bind_ok hs, if_neg (not_not.mpr ht), bind_ok htouch, bind_ok hh]
  exact bind_ok hl _

end Attribute

section Item
variable (hk : tKind r s = .ok (k, q)) (hv : valueOk x = true) (hst : tSettle store r q = .ok ((), q1))
  (htr : tTouch 0 r q1 = .ok ((), q2)) (htx : tTouch 0 x q2 = .ok ((), q3))
include hk hv hst htr htx

theorem tItem_other (hno : k ≠ some 2 ∨ tagOf x ≠ 0) : tItem store r x s = .error (.guard 5 0 0) := by
  unfold tItem
  rw [bind_ok hk, tExamine_bind hv, bind_ok hst, bind_ok htr, bind_ok htx]
  exact congrFun (if_neg fun ⟨h2, h0⟩ => hno.elim (· h2) (· h0)) q3

variable (h2 : k = some 2) (h0 : tagOf x = 0) (hl : tRead (r + 15) 8 q3 = .ok (w, q4))
include h2 h0 hl

theorem tItem_outside (hout : smallOf x < 0 ∨ (w.toNat : Int) ≤ smallOf x) : tItem store r x s = .error (.guard 5 0 0) := by
  unfold tItem
  rw [bind_ok hk, tExamine_bind hv, bind_ok hst, bind_ok htr, bind_ok htx]
  exact (congrFun (if_pos ⟨h2, h0⟩) q3).trans ((bind_ok hl _).trans (congrFun (if_pos hout) q4))

theorem tItem_inside (hpos : 0 ≤ smallOf x) (hin : smallOf x < w.toNat) (hd : tRead (r + 31) 8 q4 = .ok (y, q5)) :
    tItem store r x s = .ok (y + x, q5) := by
  unfold tItem
  rw [bind_ok hk, tExamine_bind hv, bind_ok hst, bind_ok htr, bind_ok htx]
  refine (congrFun (if_pos ⟨h2, h0⟩) q3).trans ((bind_ok hl _).trans ((congrFun (if_neg (by omega)) q4).trans ?_))
  exact bind_ok hd _

end Item

end Slots

/-! ### Stores into heap slots (R280) -/

section HeapStore
variable {s q q1 q2 q3 q4 q5 : State} {slot obj v old w ar hb cb size head base n : Word} {t : Tr} {op : Nat} {b d va : Word}
  {g : List Byte} {tr : List Seen}

section Swapped
variable (hs : tSwap slot v s = .ok (old, q1))
include hs

theorem tHeapStore_eq (hr : tRelease old q1 = .ok ((), q2)) (hc : tCard obj q2 = .ok ((), q3)) :
    tHeapStore slot obj v s = .ok ((), q3) := (bind_ok hs _).trans ((bind_ok hr _).trans hc)

theorem tFirstStore_eq (hc : tCard obj q1 = .ok ((), q2)) : tFirstStore slot obj v s = .ok ((), q2) :=
  (bind_ok hs _).trans hc

end Swapped

/-! Which of the count and the slot comes first is a free choice of the run (log 54). -/

theorem tSwap_count_first {x : State} (hf : tSlotFirst s = .ok (false, x)) (hr : tRetain v x = .ok ((), q))
    (ha : tAtom slot 8 v 0 .ordered q = .ok (old, q1)) : tSwap slot v s = .ok (old, q1) :=
  (bind_ok hf _).trans ((bind_ok hr _).trans ha)

theorem tSwap_slot_first {x : State} (hf : tSlotFirst s = .ok (true, x)) (ha : tAtom slot 8 v 0 .ordered x = .ok (old, q))
    (hr : tRetain v q = .ok ((), q1)) : tSwap slot v s = .ok (old, q1) :=
  (bind_ok hf _).trans ((bind_ok ha _).trans (bind_ok hr _))

/-- In a bytecode whose accesses are made one after the other, the choice stands in the trace. -/
theorem tSlotFirst_traced (ht : s.th.trace = .got g false :: tr) :
    tSlotFirst s = .ok ((g.getD 0 0).getLsbD 0, s.setTh { s.th with trace := tr }) := by
  unfold tSlotFirst tLive
  refine (bind_ok (v := g) (q := s.setTh { s.th with trace := tr }) ?_ _).trans rfl
  simp only [ht, Bool.false_eq_true, if_false]

/-! Reference counts. -/

theorem tRetain_immediate (hv : tagOf v ≠ 1) : tRetain v s = .ok ((), s) := congrFun (if_neg hv) s

theorem tRelease_immediate (hv : tagOf v ≠ 1) : tRelease v s = .ok ((), s) := congrFun (if_neg hv) s

theorem tRetain_counts (hv : tagOf v = 1) (ha : tAtom (v + 7) 16 0 0 .plain s = .ok (w, q)) : tRetain v s = .ok ((), q) :=
  (congrFun (if_pos hv) s).trans (bind_ok ha _)

section Release
variable (hv : tagOf v = 1) (ha : tAtom (v + 7) 17 0 0 .plain s = .ok (w, q))
include hv ha

theorem tRelease_last (h1 : bits w 63 16 = 1) : tRelease v s = tZeroCount (v - 1) q :=
  (congrFun (if_pos hv) s).trans ((bind_ok ha _).trans (congrFun (if_pos h1) q))

theorem tRelease_counts (h1 : bits w 63 16 ≠ 1) : tRelease v s = .ok ((), q) :=
  (congrFun (if_pos hv) s).trans ((bind_ok ha _).trans (congrFun (if_neg h1) q))

end Release

/-- What a swap, a rise of RC and a fall of RC make of a word. -/
theorem atomNew_counts (w v : Word) : atomNew 8 w v 0 = v ∧
    atomNew 16 w 0 0 = (if bits w 63 16 = 2 ^ 48 - 1 then w else w + 0x10000) ∧
    atomNew 17 w 0 0 = if bits w 63 16 = 2 ^ 48 - 1 ∨ bits w 63 16 = 0 then w else w - 0x10000 := by
  refine ⟨rfl, ?_, ?_⟩
  · simp only [atomNew, rcSticky, beq_iff_eq]
  · simp only [atomNew, rcSticky, Bool.or_eq_true, beq_iff_eq]

/-- An atomic operation that is made at once answers the old word. -/
theorem tAtom_made (m : Manner) (ht : s.th.trace = []) (hz : s.bursts.head? = some 0)
    (hw : s.beforeReach va kWrite (.atom op b d) = []) (hc : s.check s.who va 8 kWrite = .ok t) (hk : s.kindOf t.pa ≠ some .csr)
    (hbehind : s.behind = []) (hp : s.isPoisoned t.pa 8 = false)
    (ha : (s.remember s.who va kWrite t).atOnce (s.homeOf t.pa t.attr) t.pa 8 (.atom op b d) (m == .ordered) = true) :
    ∃ a : Acc, a.pa = t.pa ∧ a.home = s.homeOf t.pa t.attr ∧ a.owner = .thread s.cur ∧ a.op = .atom op b d ∧
      tAtom va op b d m s = .ok (word (fromBytes (s.bytes t.pa 8)), (s.remember s.who va kWrite t).bump.perform a) := by
  have hcounted := countedFrom_bump (countedFrom_remember (countedFrom_refl s) s.who va kWrite t)
  have hclean : (s.remember s.who va kWrite t).bump.behind = [] := hcounted.behind.trans hbehind
  have hmade := make_once (m := m) (k := kWrite) (n := 8) hz ha
  dsimp only at hmade
  rw [rehome_clean hclean, loadBytes_memory (homeOf_ne_csr hk), hcounted.isPoisoned, hp] at hmade
  refine ⟨(s.remember s.who va kWrite t).newAcc (.thread s.cur) s.th.asid 0 0 (s.homeOf t.pa t.attr) va t.pa 8 (.atom op b d),
    rfl, rfl, rfl, rfl, bind_ok ((tAccess_made ht hz hw (reach_ok hc hk) hmade).trans ?_) _⟩
  exact congrArg (fun l => Except.ok (l, _)) (hcounted.bytes t.pa 8)

/-! The arena, MARKING and the zero-count queue. -/

theorem tMarking_noArena (ha : tArena s = .ok (0, q)) : tMarking s = .ok (false, q) := bind_ok ha _

theorem tZeroCount_noArena (ha : tArena s = .ok (0, q)) : tZeroCount obj s = .ok ((), q) := bind_ok ha _

section Arena
variable (ha : tArena s = .ok (ar, q)) (h0 : ar ≠ 0)
include ha h0

theorem tMarking_reads (hr : tRead (ar + 32) 8 q = .ok (w, q1)) : tMarking s = .ok (w.getLsbD 0, q1) :=
  (bind_ok ha _).trans ((congrFun (if_neg h0) q).trans (bind_ok hr _))

variable (hn : tAtom (ar + 64) 0 1 0 .plain q = .ok (n, q1)) (hs : tRead (ar + 48) 8 q1 = .ok (size, q2))
  (hh : tRead (ar + 56) 8 q2 = .ok (head, q3))
include hn hs hh

theorem tZeroCount_full (hf : size.toNat ≤ (n - head).toNat) : tZeroCount obj s = .ok ((), q3) := by
  refine (bind_ok ha _).trans ((congrFun (if_neg h0) q).trans ((bind_ok hn _).trans ((bind_ok hs _).trans ?_)))
  exact (bind_ok hh _).trans (congrFun (if_neg (Nat.not_lt.mpr hf)) q3)

theorem tZeroCount_appends (hf : (n - head).toNat < size.toNat) (hb : tRead (ar + 40) 8 q3 = .ok (base, q4))
    (hw : tWrite (base + word (8 * (n.toNat % size.toNat))) 8 obj .plain q4 = .ok ((), q5)) :
    tZeroCount obj s = .ok ((), q5) := by
  refine (bind_ok ha _).trans ((congrFun (if_neg h0) q).trans ((bind_ok hn _).trans ((bind_ok hs _).trans ?_)))
  exact (bind_ok hh _).trans ((congrFun (if_pos hf) q3).trans ((bind_ok hb _).trans hw))

end Arena

theorem tCard_unmarked (hm : tMarking s = .ok (false, q)) : tCard obj s = .ok ((), q) := bind_ok hm _

theorem tCard_marks (hm : tMarking s = .ok (true, q)) (ha : tArena q = .ok (ar, q1)) (hh : tRead (ar + 16) 8 q1 = .ok (hb, q2))
    (hc : tRead (ar + 24) 8 q2 = .ok (cb, q3)) (hw : tWrite (cb + ((obj - hb) >>> 9)) 1 1 .ordered q3 = .ok ((), q4)) :
    tCard obj s = .ok ((), q4) :=
  (bind_ok hm _).trans ((bind_ok ha _).trans ((bind_ok hh _).trans ((bind_ok hc _).trans hw)))

end HeapStore

/-! ### The bytecodes (R285) -/

section Bytecodes
variable {s q q1 q2 q3 q4 t : State} {a b c nm : BitVec 8} {ic : BitVec 16} {r x v w site : Word} {k : Nat} {m : Int}
  (h : s.bcClear = true)
include h

section Global
variable (hr : tFn 40 (s.advance 8) = .ok (r, q)) (hx : tAttr r ic q = .ok (x, q1))
include hr hx

theorem getg_ends (hv : tRead x 8 q1 = .ok (v, q2)) (hw : tSetF a.toNat v q2 = .ok ((), t)) :
    exec (.tGetg a b ic nm) s = .next (s.bcEnds t) :=
  bytecode_ok8 h rfl ((bind_ok hr _).trans ((bind_ok hx _).trans ((bind_ok hv _).trans hw)))

theorem setg_ends (hv : tF a.toNat q1 = .ok (v, q2)) (hw : tHeapStore x (r - 1) v q2 = .ok ((), t)) :
    exec (.tSetg a b ic nm) s = .next (s.bcEnds t) :=
  bytecode_ok8 h rfl ((bind_ok hr _).trans ((bind_ok hx _).trans ((bind_ok hv _).trans hw)))

end Global

theorem getattr_ends (hr : tF b.toNat (s.advance 8) = .ok (r, q)) (hx : tAttr r ic q = .ok (x, q1))
    (hv : tRead x 8 q1 = .ok (v, q2)) (hw : tSetF a.toNat v q2 = .ok ((), t)) :
    exec (.tGetattr a b c ic nm) s = .next (s.bcEnds t) :=
  bytecode_ok8 h rfl ((bind_ok hr _).trans ((bind_ok hx _).trans ((bind_ok hv _).trans hw)))

theorem setattr_ends (hr : tF a.toNat (s.advance 8) = .ok (r, q)) (hx : tAttr r ic q = .ok (x, q1))
    (hv : tF c.toNat q1 = .ok (v, q2)) (hw : tHeapStore x (r - 1) v q2 = .ok ((), t)) :
    exec (.tSetattr a b c ic nm) s = .next (s.bcEnds t) :=
  bytecode_ok8 h rfl ((bind_ok hr _).trans ((bind_ok hx _).trans ((bind_ok hv _).trans hw)))

theorem getattr_guards (hr : tF b.toNat (s.advance 8) = .ok (r, q)) (hx : tAttr r ic q = .error (.guard k v site)) :
    exec (.tGetattr a b c ic nm) s = .next (s.spent.guardEnter s.th.pc k v site) :=
  bytecode_guards8 h rfl ((bind_ok hr _).trans (bind_error hx _))

theorem getitem_ends (hr : tF b.toNat (s.advance 4) = .ok (r, q)) (hx : tF c.toNat q = .ok (x, q1))
    (hi : tItem false r x q1 = .ok (w, q2)) (hv : tRead w 8 q2 = .ok (v, q3)) (hw : tSetF a.toNat v q3 = .ok ((), t)) :
    exec (.tGetitem a b c) s = .next (s.bcEnds t) :=
  bytecode_ok4 h rfl ((bind_ok hr _).trans ((bind_ok hx _).trans ((bind_ok hi _).trans ((bind_ok hv _).trans hw))))

theorem setitem_ends (hr : tF a.toNat (s.advance 4) = .ok (r, q)) (hx : tF b.toNat q = .ok (x, q1))
    (hi : tItem true r x q1 = .ok (w, q2)) (hv : tF c.toNat q2 = .ok (v, q3)) (hw : tHeapStore w (r - 1) v q3 = .ok ((), t)) :
    exec (.tSetitem a b c) s = .next (s.bcEnds t) :=
  bytecode_ok4 h rfl ((bind_ok hr _).trans ((bind_ok hx _).trans ((bind_ok hi _).trans ((bind_ok hv _).trans hw))))

section Len
variable (hv : tF b.toNat (s.advance 4) = .ok (v, q)) (ht : tTouch 0 v q = .ok ((), q1))
include hv ht

/-- LENGTH of an array or a map. -/
theorem len_container (hk : tKind v q1 = .ok (some k, q2)) (h23 : k = 2 ∨ k = 3) (hr : tRead (v + 15) 8 q2 = .ok (w, q3))
    (hw : tSetF a.toNat (w <<< 3) q3 = .ok ((), t)) : exec (.tLen a b) s = .next (s.bcEnds t) :=
  bytecode_ok4 h rfl (by
    rw [bind_ok hv, bind_ok ht, bind_ok hk]
    exact (congrFun (if_pos h23) q2).trans ((bind_ok hr _).trans hw))

section Tensor
variable (hk : tKind v q1 = .ok (some 1, q2)) (hr : tRead (v + 15) 8 q2 = .ok (w, q3))
include hk hr

theorem len_scalar (h0 : bits w 6 4 = 0) : exec (.tLen a b) s = .next (s.spent.guardEnter s.th.pc 5 0 0) :=
  bytecode_guards4 (i := .tLen a b) h rfl (by
    rw [bind_ok hv, bind_ok ht, bind_ok hk]
    refine (congrFun ((if_neg (by decide)).trans (if_pos rfl)) q2).trans ((bind_ok hr _).trans ?_)
    exact congrFun (if_pos h0) q3)

theorem len_tensor (h0 : bits w 6 4 ≠ 0) (hx : tRead (v + 23) 8 q3 = .ok (x, q4)) (hw : tSetF a.toNat (x <<< 3) q4 = .ok ((), t)) :
    exec (.tLen a b) s = .next (s.bcEnds t) :=
  bytecode_ok4 h rfl (by
    rw [bind_ok hv, bind_ok ht, bind_ok hk]
    refine (congrFun ((if_neg (by decide)).trans (if_pos rfl)) q2).trans ((bind_ok hr _).trans ?_)
    exact (congrFun (if_neg h0) q3).trans ((bind_ok hx _).trans hw))

end Tensor

end Len

section Isinst
variable (hk : tK c.toNat (s.advance 4) = .ok (mkInt m, q)) (hm : intFits m = true) (hv : tF b.toNat q = .ok (v, q1))
  (ht : tTouch 0 v q1 = .ok ((), q2))
include hk hm hv ht

theorem isinst_heap (hkind : tKind v q2 = .ok (some k, q3))
    (hw : tSetF a.toNat (if m = k ∧ k ≤ 15 then 0x13 else 0xB) q3 = .ok ((), t)) :
    exec (.tIsinst a b c) s = .next (s.bcEnds t) :=
  bytecode_ok4 h rfl (by
    have hbool : mkBool (decide (0 ≤ m) && decide (m ≤ 15) && decide (m = k)) = if m = k ∧ k ≤ 15 then 0x13 else 0xB := by
      have hiff : (decide (0 ≤ m) && decide (m ≤ 15) && decide (m = k)) = decide (m = k ∧ k ≤ 15) := by
        rw [Bool.eq_iff_iff]
        simp only [Bool.and_eq_true, decide_eq_true_eq]
        omega
      rw [hiff, mkBool_decide]
    rw [bind_ok hk, tInt_bind hm, bind_ok hv, bind_ok ht, bind_ok hkind, ← hw, ← hbool])

theorem isinst_immediate (hkind : tKind v q2 = .ok (none, q3))
    (hw : tSetF a.toNat (if (m = 16 ∧ tagOf v = 0) ∨ (m = 17 ∧ tagOf v = 2) ∨ (m = 18 ∧ tagOf v = 3) then 0x13 else 0xB) q3 =
      .ok ((), t)) : exec (.tIsinst a b c) s = .next (s.bcEnds t) :=
  bytecode_ok4 h rfl (by
    have hbool : mkBool ((m == 16 && tagOf v == 0) || (m == 17 && tagOf v == 2) || (m == 18 && tagOf v == 3)) =
        if (m = 16 ∧ tagOf v = 0) ∨ (m = 17 ∧ tagOf v = 2) ∨ (m = 18 ∧ tagOf v = 3) then 0x13 else 0xB := by
      simp only [mkBool, Bool.or_eq_true, Bool.and_eq_true, beq_iff_eq, or_assoc]
    rw [bind_ok hk, tInt_bind hm, bind_ok hv, bind_ok ht, bind_ok hkind, ← hw, ← hbool])

end Isinst

end Bytecodes

/-- Settles O51: a lookup by the entries of its site in their order, the slots of attributes and items by their receivers, a store
into a heap slot by its steps, and each bytecode by the sequence of what it does. -/
theorem bytecodeItems : Obligations.BytecodeItems := by
  unfold Obligations.BytecodeItems
  refine ⟨fun s q q1 ic base w x kind n left i hit e ws t => ?caches,
    fun s q q1 q2 q3 q4 q5 ic store r x h w y site k e => ?slots,
    fun s q q1 q2 q3 q4 q5 slot obj v old w ar hb cb size head base n t op b d va => ?stores,
    fun s a b c nm ic r x v w k m q q1 q2 q3 t h => ?bytecodes⟩
  case caches =>
    exact ⟨tSite_eq, fun hs hw => ⟨tLookup_inside hs hw, tLookup_beyond hs hw⟩, rfl,
      fun he => ⟨tSearch_megamorphic he, tSearch_goes_on he, tSearch_hits he, tSearch_bad he⟩, tEntry_words, tIcWord_reads⟩
  case slots =>
    exact ⟨fun hv hs => ⟨tAttr_immediate hv hs, tAttr_hits hv hs⟩, fun hk hv hst htr htx =>
      ⟨fun h2 h0 hl => ⟨tItem_inside hk hv hst htr htx h2 h0 hl, tItem_outside hk hv hst htr htx h2 h0 hl⟩,
        tItem_other hk hv hst htr htx⟩⟩
  case stores =>
    refine ⟨fun hs => ⟨tHeapStore_eq hs, tFirstStore_eq hs⟩, fun ht hz => tSwap_count_first (tSlotFirst_once ht hz),
      fun g tr ht => ⟨fun hg => ?_, fun hg => ?_⟩, fun hv => ⟨tRetain_immediate hv, tRelease_immediate hv⟩, tRetain_counts,
      fun hv ha => ⟨tRelease_last hv ha, tRelease_counts hv ha⟩, atomNew_counts w v, tAtom_made, tArena_once,
      fun ha => ⟨tMarking_noArena ha, tZeroCount_noArena ha⟩, tMarking_reads,
      fun ha h0 hn hs hh => ⟨tZeroCount_full ha h0 hn hs hh, tZeroCount_appends ha h0 hn hs hh⟩, tCard_unmarked, tCard_marks⟩
    · exact tSwap_count_first (hg ▸ tSlotFirst_traced ht)
    · exact tSwap_slot_first (hg ▸ tSlotFirst_traced ht)
  case bytecodes =>
    exact ⟨fun hr hx => ⟨getg_ends h hr hx, setg_ends h hr hx⟩, getattr_ends h, setattr_ends h, fun site => getattr_guards h,
      getitem_ends h, setitem_ends h, len_container h,
      fun hv ht hk hr => ⟨len_scalar h hv ht hk hr, fun x q4 t => len_tensor h hv ht hk hr⟩,
      fun hk hm hv ht => ⟨isinst_heap h hk hm hv ht, isinst_immediate h hk hm hv ht⟩⟩

end Sys2Proof.Machine
end
